-- ==== Sys2Proof/Word.lean ====
section
/-! DEFINITION. The word types of the block: management registers are 64 bits wide (R9), memories
and packets are bytes (R37, R95). -/

namespace Sys2Proof

/-- One byte of a payload, a memory or a flash (R37). -/
abbrev Byte := BitVec 8

/-- One management register, header word or table word (R9, R95). -/
abbrev Word := BitVec 64

end Sys2Proof
end

