-- ==== Sys2Proof/Machine/Operands.lean ====
section
/-! DEFINITION. The operand forms of the commands: packets, Hitch frames, what a physical event
brings with it (an ECC outcome, what a faulty core produced, a judged retry unit) and the decoded
contents of a seed image. -/

namespace Sys2Proof.Machine

/-- The 32-byte header of a packet: four words, most significant byte first on the wire (R95). -/
structure Header where
  w0 : Word
  w1 : Word
  w2 : Word
  w3 : Word
deriving DecidableEq, Repr

/-- A whole packet as it reaches the unit that handles its type: header and payload (R95). -/
structure Frame where
  hdr : Header
  payload : List Byte
deriving DecidableEq, Repr

/-- A Hitch request frame as received: two header words, payload words, trailer word (R431). -/
structure HitchFrame where
  w0 : Word
  w1 : Word
  payload : List Word
  trailer : Word
deriving DecidableEq, Repr

/-- Who waits for a Granary quota (R270): the head of an ingress port and furrow, or a sow result
held in cluster store. -/
inductive QuotaWaiter
  | ingress (port furrow : Nat)
  | sow (group seq chunk : Nat)
deriving DecidableEq, Repr

/-- What the SEC-DED decoder of a memory word or Granary unit finds (R199, R275). -/
inductive Ecc
  | clean
  | corrected
  | uncorrectable
deriving DecidableEq, Repr

/-- An array of a field-book entry's region (R168). -/
inductive StateArray
  | master | remainder | m1 | m2 | bin | slot0 | slot1
deriving DecidableEq, Repr

/-- A word of a pass read whose ECC was not clean: the array and the element it holds (R200). -/
structure BadRead where
  arr : StateArray
  elem : Nat
  ecc : Ecc
deriving DecidableEq, Repr

/-- What a drill run delivered (R370, R371, R372): as computed, wrong result bytes, a failed
residue or flag check, a failed comparison of the two rounding units, or a held input found changed
after arrival. -/
inductive RunFault
  | none
  /-- The run delivers these result bytes in place of its own (R370). -/
  | wrong (bytes : List Byte)
  /-- The residue or the flag copies disagree (R371); the accumulator delivered these bytes. -/
  | residue (bytes : List Byte)
  /-- The two rounding units disagree (R371); the first delivered these bytes. -/
  | rounding (bytes : List Byte)
  /-- The payload residue of a held input differs, or an input unit is uncorrectable (R372, R275). -/
  | input
  /-- The payload residue of the placed result differs (R372). -/
  | output
deriving DecidableEq, Repr

/-- What the store stage of a tiller finds on a group (R198). -/
inductive PairCheck
  | agree
  /-- The pair disagreed; a second tiller's result agrees with one of the two. -/
  | outvoted
  /-- No two of the three results agree. -/
  | split
deriving DecidableEq, Repr

/-- How the receiver of a port judges a retry unit (R302, R316). -/
inductive UnitJudge
  | good
  /-- Good once n codewords of the lane had been corrected. -/
  | corrected (lane n : Nat)
  /-- A block lies in a codeword of the lane that could not be corrected. -/
  | codeword (lane : Nat)
  /-- A block with an invalid header. -/
  | block
  /-- A control block of an unknown type on the lane. -/
  | badCtrl (lane : Nat)
deriving DecidableEq, Repr

/-- The units of R378 that take strikes or are retired. -/
inductive UnitKind
  | core | tiller | cluster | lane
deriving DecidableEq, Repr

/-- Which register of a port's credit configuration (R108). -/
inductive CreditReg
  | furrow (f : Nat)
  | pool
deriving DecidableEq, Repr

/-- A manifest entry's type, INSTANCE number and digest (R407, R408). -/
structure Section where
  typ : Nat
  slot : Nat
  digest : List Byte
deriving DecidableEq, Repr

/-- One seed-image copy as step 4 reads it (R407, R409): the header and manifest, and what the CRC
and signature units report on it. -/
structure SeedCopy where
  headerCrcOk : Bool
  bodyCrcOk : Bool
  magic : Nat
  formatVersion : Nat
  svn : Nat
  fuseAdvance : Bool
  ownerSlot : Nat
  part : Nat
  imageSeq : Nat
  ownerPk : List Byte
  sections : List Section
  signed : List Byte
  sigOk : Bool
deriving DecidableEq, Repr

/-- A port's cabling entry in a position record (R334). -/
structure Cable where
  port : Nat
  role : Nat
  checkPeer : Bool
  standby : Bool
  manager : Bool
  peerId : Nat
  peerPort : Nat
deriving DecidableEq, Repr

/-- A position record (R332). -/
structure Position where
  tray : Nat
  slot : Nat
  tier : Nat
  plane : Nat
  deviceId : Nat
  headland : Bool
  cables : List Cable
deriving DecidableEq, Repr

/-- A manager-list entry (R418): endpoint ID and rights (bit 0 READ, 1 WRITE, 2 SECURITY). -/
structure Manager where
  id : Nat
  rights : Nat
deriving DecidableEq, Repr

/-- The sections 0x0010 to 0x0014 of the chosen copy, decoded (R408; their encodings are given by
no chapter, log 7). `inits` are the words that the port defaults and base tables load, by
management address. -/
structure SeedTables where
  topTier : Nat
  positions : List Position
  managers : List Manager
  classes : List (Nat × Nat)
  ingress256 : Nat
  captureMiB : Nat
  storeCounts : List Nat
  widths : List (Nat × Nat)
  firstPreset : Nat
  inits : List (Nat × Word)
deriving DecidableEq, Repr

/-- A drill program of section 0x0003 (R472). -/
structure DrillProgram where
  num : Nat
  op : Nat
  strict : Bool
  inFmt : Nat
  outFmt : Nat
  root : Bool
deriving DecidableEq, Repr

/-- One operation of a custom recipe (R183): opcode of R179, destination and source registers. -/
structure RecipeOp where
  op : Nat
  dst : Nat
  a : Nat
  b : Nat
  c : Nat
deriving DecidableEq, Repr

/-- A custom recipe section as step 9 reads it (R183, R184). -/
structure RecipeImage where
  slot : Nat
  sigOk : Bool
  formatVersion : Nat
  layoutA : Bool
  layoutB : Bool
  usesM1 : Bool
  usesM2 : Bool
  declaredOps : Nat
  branches : Bool
  undeclaredAccess : Bool
  endsWithEpilogue : Bool
  digest : List Byte
  ops : List RecipeOp
deriving DecidableEq, Repr

/-- What a start-up step brings when it ends (R397): the report of the units it works on, and the
material it reads. The fields of other steps are ignored. -/
structure StepReport where
  /-- The step's own work succeeded (steps 1, 3, 14: supplies, ROM check, closing). -/
  ok : Bool
  /-- Units that failed (step 6 islands, 7 stacks, 8 links, 10 cores, 11 lanes). -/
  failed : List Nat
  /-- Step 3: the random source's 32-bit draw, the identity public key and the ROM digest. -/
  random : Nat
  identityPk : List Byte
  romDigest : List Byte
  certMatches : Bool
  /-- Step 4: the two copies. -/
  copyA : SeedCopy
  copyB : SeedCopy
  /-- Steps 5 to 12: the type of a section that failed its CRC, digest or inner signature. -/
  badSection : Option Nat
  /-- Step 6: the AVS setpoint computed, in mV. -/
  avsMv : Nat
  /-- Step 9: the custom recipes. -/
  recipes : List RecipeImage
  /-- Step 10: the drill program table. -/
  programs : List DrillProgram
  /-- Step 12: the decoded tables. -/
  tables : SeedTables
deriving DecidableEq, Repr

end Sys2Proof.Machine
end

