-- ==== Sys2Proof/Syntax.lean ====
section
/-! DEFINITION. The commands of the block: one constructor per row of spec/opcode_table.json, in the
table's order, with the row's operands. `path` is a management path (R441: 0 the Hitch link, 1 to 8
the manager-list entries). -/

namespace Sys2Proof

open Machine

inductive Instr
  | registerWrite (path addr : Nat) (value : Word)
  | xingTimeout (sender receiver : Nat)
  | hbmRefresh (stack : Nat)
  | d2dRetry (stack : Nat)
  | packetHeader (port : Nat) (hdr : Header)
  | quotaAdmit (waiter : QuotaWaiter)
  | packetTail (port : Nat) (payload : List Byte) (crc tail : BitVec 32) (clean : Bool)
  | packetSent (port : Nat)
  | fwdTableWrite (path index : Nat) (value : Word)
  | ecmpSetWrite (path set word : Nat) (value : Word)
  | fwdHold (path index : Nat)
  | fwdRelease (path index : Nat)
  | fwdInvalidate (path index : Nat)
  | fwdQuery (path index : Nat)
  | holdTimeout (port furrow : Nat)
  | occScanEnd (index : Nat)
  | sowCopySent (port : Nat)
  | stageWrite (path addr : Nat) (value : Word)
  | groupCommit (path group : Nat) (value : Word)
  | memberEntryWrite (path cluster index word : Nat) (value : Word)
  | groupAbort (path group : Nat)
  | groupFallow (path group : Nat)
  | groupRestore (path group : Nat)
  | groupFree (path group : Nat)
  | setSeq (path group seq : Nat)
  | groupQuery (path group : Nat)
  | reap (port : Nat) (frame : Frame)
  | reapDeferred (port : Nat) (frame : Frame)
  | reapExpress (port : Nat) (frame : Frame)
  | sow (port : Nat) (frame : Frame)
  | sowExpress (port : Nat) (frame : Frame)
  | sowRequest (port : Nat) (frame : Frame)
  | completion (port : Nat) (frame : Frame)
  | contributionAdmit (port furrow : Nat)
  | openingPacketAdmit (port furrow : Nat)
  | stragglerTimeout (group seq : Nat)
  | settleTimeout (group seq : Nat)
  | drillRunEnd (cluster core cycles : Nat) (fault : RunFault)
  | noJudgeTimeout (group seq chunk : Nat)
  | fbkEntryCommit (path stack entry : Nat) (value : Word)
  | hbmWindowWrite (path stack offset : Nat) (value : Word)
  | hypArm (path stack block : Nat) (value : Word)
  | passStart (stack : Nat)
  | entryPassDone (stack : Nat)
  | secondEncodingEnd (stack : Nat)
  | tillerGroupComplete (stack tiller : Nat) (check : PairCheck) (bad : List BadRead)
  | patrolScrub (stack : Nat) (ecc : Ecc)
  | landingReservationResume (group seq : Nat)
  | localVerdictSend (plot : Nat)
  | entryActivate (path stack entry : Nat)
  | entryFallow (path stack entry : Nat)
  | entryFree (path stack entry : Nat)
  | releaseVersion (path stack plot : Nat)
  | passHold (path stack plot : Nat)
  | passRelease (path stack plot : Nat)
  | rebuildSown (path stack entry : Nat)
  | entryQuery (path stack entry : Nat)
  | verdict (port : Nat) (frame : Frame)
  | verdictEntryWrite (path stack plot word : Nat) (value : Word)
  | verdictStart (path stack plot : Nat)
  | verdictFallow (path stack plot : Nat)
  | verdictFree (path stack plot : Nat)
  | resolve (path stack plot : Nat)
  | skipNext (path stack plot : Nat)
  | verdictQuery (path stack plot : Nat)
  | oscaleWrite (path group word : Nat) (value : Word)
  | advanceFetch (cluster : Nat) (plot : Nat) (ecc : Ecc)
  | advPlotWrite (path cluster plot : Nat) (value : Word)
  | turnSlotWrite (path stack slot word : Nat) (value : Word)
  | turnArm (path stack slot : Nat)
  | turnAbort (path stack slot : Nat)
  | turnRestart (path stack slot : Nat)
  | turnFinish (path stack slot : Nat)
  | turnQuery (path stack slot : Nat)
  | page (port : Nat) (frame : Frame)
  | done (port : Nat) (frame : Frame)
  | verifyingEnd (stack slot : Nat)
  | confirm (port : Nat) (frame : Frame)
  | reject (port : Nat) (frame : Frame) (ecc : Ecc)
  | peerAbort (port : Nat) (frame : Frame)
  | turnoverTimeout (stack slot : Nat)
  | doneTimeout (stack slot : Nat)
  | notArmedResend (stack slot : Nat)
  | granaryAlloc (store : Option Nat) (owner plot furrow bytes : Nat)
  | ownerClear (store : Option Nat) (owner pointer : Nat) (ecc : Ecc)
  | gleanerPass (badLists : List (Nat × Nat)) (micros : Nat)
  | listRebuildEnd (manager cls : Nat)
  | gleanCfgWrite (path : Nat) (value : Word)
  | grnErrRead (path : Nat)
  | creditConfigWrite (path port : Nat) (reg : CreditReg) (value : Word)
  | schedulerDecision (port : Nat) (ecc : Ecc)
  | refill
  | shaperWrite (path port furrow word : Nat) (value : Word)
  | policerSlotWrite (path port slot word : Nat) (value : Word)
  | adaptationConverged (lane : Nat)
  | headerLock (lane : Nat) (inverted : Bool) (peerLane : Nat)
  | headerLoss (lane : Nat)
  | countdownStart (lane : Nat)
  | countdownEnd (lane : Nat)
  | markerCheck (lane : Nat) (valid : Bool) (lateNs : Nat)
  | attemptTimeout (lane : Nat)
  | lockLoss (lane : Nat)
  | relockTimeout (lane : Nat)
  | portWaitExpiry (port : Nat)
  | capabilitySend (port : Nat)
  | capabilityReceived (port : Nat) (record : List Byte) (peerSeen : Bool)
  | capTimeout (port : Nat)
  | rateStepFailed (port : Nat)
  | widthChange (port : Nat)
  | portDown (port : Nat)
  | controlSilent (port : Nat)
  | retryUnit (port seq : Nat) (judge : UnitJudge)
  | retryNak (port expect : Nat)
  | replay (port first : Nat)
  | nakRepeat (port : Nat)
  | retryTimeout (port : Nat)
  | creditA (port ack rxMask : Nat) (ret : List Nat)
  | creditB (port ack rxMask : Nat) (ret hints : List Nat)
  | portRestart (path port : Nat)
  | portFallow (path port : Nat)
  | portRestore (path port : Nat)
  | portTest (path port : Nat)
  | endTest (path port : Nat)
  | retrain (path lane : Nat)
  | clearFailed (path lane : Nat)
  | clearPrbs (path lane : Nat)
  | laneTestWrite (path lane : Nat) (value : Word)
  | prbsLock (lane : Nat)
  | prbsLockLoss (lane bitErrors : Nat)
  | strapAccept (pins : BitVec 22)
  | strapChanged (pins : BitVec 22)
  | plotCommit (path plot : Nat) (value : Word)
  | plotActivate (path plot : Nat)
  | plotFallow (path plot : Nat)
  | plotFree (path plot : Nat)
  | plotQuery (path plot : Nat)
  | plotFenceWrite (path port index : Nat) (value : Word)
  | roleOfWrite (path : Nat) (value : Word)
  | adopt (path : Nat)
  | standDown (path : Nat)
  | yieldEpoch
  | yieldConfigWrite (path index : Nat) (value : Word)
  | drillWatchWrite (path cluster core : Nat) (value : Word)
  | hubWatchWrite (path cluster : Nat) (value : Word)
  | journalWrite
  | recCfgWrite (path : Nat) (maskIndex : Option Nat) (value : Word)
  | recStart (path : Nat)
  | recStop (path : Nat)
  | recReplay (path : Nat)
  | replayAbort (path : Nat)
  | recClear (path : Nat)
  | replayInstance (group seq : Nat)
  | replayDone
  | strikeExpiry (kind : UnitKind) (index : Nat)
  | migrationDone (core cycles : Nat)
  | ledgerWriteRetry (written : Bool)
  | fieldTestStart (cluster : Nat)
  | fieldTestEnd (cluster : Nat) (passed : Bool)
  | drainTimeout (kind : UnitKind) (index : Nat)
  | retire (path : Nat) (kind unit : Nat)
  | reinstate (path : Nat) (kind unit : Nat)
  | testNow (path : Nat) (kind unit : Nat)
  | fltQuery (path : Nat) (kind unit : Nat)
  | porAssert
  | porRelease
  | warmResetAssert
  | warmResetRelease
  | startupStepComplete (report : StepReport)
  | startupStepTimeout (unfinished : List Nat)
  | flashWrite (path flash offset : Nat) (value : Word)
  | quote (path : Nat)
  | quoteDone (signature : List Byte)
  | verifyCopy (path : Nat)
  | verifyCopyDone (copy : SeedCopy) (badSection : Option Nat)
  | programSlot (path slot : Nat)
  | revokeSlot (path slot : Nat)
  | slotFusesDone
  | fieldOrder (port : Nat) (frame : Frame)
  | hitchLaneLock (lane : Nat)
  | hitchLaneLockLoss (lane : Nat)
  | hello (frame : HitchFrame)
  | hitchRead (frame : HitchFrame)
  | hitchWrite (frame : HitchFrame)
  | eventFrame
  | freeze (path group : Nat)
  | thaw (path group : Nat)
  | freezeAll (path : Nat)
  | snapshotTaken (group : Nat)
  | selfThaw (group : Nat)
  | railFault (rail : Nat)
  | avsUpdate (millivolts : Nat) (acknowledged : Bool)
  | sdrefLoss (quadrant : Nat)
  | sdrefReturn (quadrant : Nat)
  | sysclkLoss
  | sensorSample (readings : List Int)
  | thermalThrottle
  | droopStretch (core : Nat)
  | thermTrip
  | alertClear (path : Nat) (value : Word)
  | tapExtest (cells : List Bool)
  | tapSamplePreload (cells : List Bool)
  | tapBypass
  | tapIdcode
  | tapPacketAccess (data : List Byte)
  | railReturn (rail : Nat)
  | pllLockLoss (island : Nat)
  | pllRelock (island : Nat)
  | flashProgramDone (flash : Nat) (written : Bool)
  | sowVersionReadDone (group seq : Nat)
  | svnAdvanceDone
deriving DecidableEq, Repr

end Sys2Proof
end

