-- ==== Sys2Proof/Decode.lean ====
section
/-! DEFINITION. The decoder of the table's bits. No row of spec/opcode_table.json gives bits: the
block takes commands, and none of them is spelled by a word of the table's own. -/

namespace Sys2Proof

/-- The command that a word of the table's bits spells: the table gives no row any bits, so no word
spells a command. -/
def decodeTableWord (_nbits _w : Nat) : Option Instr := none

end Sys2Proof
end

