-- ==== Sys2Proof/Machine/Bits.lean ====
section
/-! DEFINITION. Bit fields, byte strings and the CRC-32C: the shared helpers that every register
map and every layout of the manual is written with. -/

namespace Sys2Proof.Machine

/-- Bits hi:lo of a word, as a number (bit ranges are high:low, bit 0 least significant). -/
def bitsOf (w : Word) (hi lo : Nat) : Nat := (w.toNat >>> lo) % 2 ^ (hi + 1 - lo)

/-- The word whose bits hi:lo are v (taken modulo the field's size) and all others zero. -/
def bitsAt (hi lo v : Nat) : Word := BitVec.ofNat 64 ((v % 2 ^ (hi + 1 - lo)) <<< lo)

/-- w with its bits hi:lo replaced by v. -/
def putBits (w : Word) (hi lo v : Nat) : Word :=
  (w &&& ~~~ (bitsAt hi lo (2 ^ (hi + 1 - lo) - 1))) ||| bitsAt hi lo v

/-- The mask of bits hi:lo. -/
def maskOf (hi lo : Nat) : Word := bitsAt hi lo (2 ^ (hi + 1 - lo) - 1)

/-- Bit k of a word. -/
def bitOf (w : Word) (k : Nat) : Bool := w.toNat.testBit k

/-- 1 for true, 0 for false: a flag as its field value. -/
def b2n (b : Bool) : Nat := if b then 1 else 0

/-- A field of an entry: word index and bit range, as a layout table of the manual names it. -/
structure Fld where
  word : Nat
  hi : Nat
  lo : Nat
deriving DecidableEq, Repr

/-- A table entry or a multi-word register: its 64-bit words, word 0 first. -/
abbrev Entry := List Word

/-- Word i of an entry (0 beyond its end). -/
def wordAt (e : Entry) (i : Nat) : Word := e.getD i 0

/-- A field of an entry, as a number. -/
def fget (e : Entry) (f : Fld) : Nat := bitsOf (wordAt e f.word) f.hi f.lo

/-- An entry with one field replaced. -/
def fput (e : Entry) (f : Fld) (v : Nat) : Entry :=
  e.set f.word (putBits (wordAt e f.word) f.hi f.lo v)

/-- A field read as a flag. -/
def fbit (e : Entry) (f : Fld) : Bool := fget e f != 0

/-- n words of zeros. -/
def zeroEntry (n : Nat) : Entry := List.replicate n 0

/-- A number of w bits read as two's complement. -/
def signed (w v : Nat) : Int :=
  if v % 2 ^ w < 2 ^ (w - 1) then ((v % 2 ^ w : Nat) : Int) else ((v % 2 ^ w : Nat) : Int) - 2 ^ w

/-- An integer as a w-bit two's-complement code. -/
def unsigned (w : Nat) (i : Int) : Nat := (i % (2 ^ w : Int)).toNat

/-- ⌈a ÷ b⌉. -/
def ceilDiv (a b : Nat) : Nat := (a + b - 1) / b

/-- The little-endian number a byte string spells (R37). -/
def leNat : List Byte → Nat
  | [] => 0
  | b :: bs => b.toNat + 256 * leNat bs

/-- A number as n little-endian bytes (R37). -/
def leBytes : Nat → Nat → List Byte
  | 0, _ => []
  | n + 1, v => BitVec.ofNat 8 (v % 256) :: leBytes n (v / 256)

/-- A number as n bytes, most significant first (R95). -/
def beBytes (n v : Nat) : List Byte := (leBytes n v).reverse

/-- Words as bytes, each word little-endian (R37). -/
def leOfWords (ws : List Word) : List Byte := ws.flatMap fun w => leBytes 8 w.toNat

/-- Words as bytes, each word most significant byte first (R95). -/
def beOfWords (ws : List Word) : List Byte := ws.flatMap fun w => beBytes 8 w.toNat

/-- The n little-endian words a byte string holds, short ones filled with zeros. -/
def wordsOfLe : Nat → List Byte → List Word
  | 0, _ => []
  | n + 1, bs => BitVec.ofNat 64 (leNat (bs.take 8)) :: wordsOfLe n (bs.drop 8)

/-- A byte string cut or padded with zero bytes to n bytes. -/
def padTo (n : Nat) (bs : List Byte) : List Byte :=
  bs.take n ++ List.replicate (n - bs.length) 0

/-- A byte string padded with zero bytes to a multiple of n bytes. -/
def padMul (n : Nat) (bs : List Byte) : List Byte := padTo (ceilDiv bs.length n * n) bs

/-- A list cut into pieces of n items (fuel: at least the list's length). -/
def piecesOf {α : Type} (n : Nat) : Nat → List α → List (List α)
  | 0, _ => []
  | _, [] => []
  | fuel + 1, x :: xs => (x :: xs).take n :: piecesOf n fuel ((x :: xs).drop n)

/-- Eight shift steps of the reflected CRC-32C register (R104; polynomial 0x1EDC_6F41 reflected). -/
def crcByte : Nat → Nat → Nat
  | 0, r => r
  | k + 1, r => crcByte k (if r % 2 = 1 then (r >>> 1) ^^^ 0x82F63B78 else r >>> 1)

/-- CRC-32C over bytes from a given register value, without the final XOR. -/
def crcRun (start : Nat) (bs : List Byte) : Nat :=
  bs.foldl (fun r b => crcByte 8 (r ^^^ b.toNat)) start

/-- CRC-32C of R104: initial value and final XOR 0xFFFF_FFFF. -/
def crc32c (bs : List Byte) : Nat := crcRun 0xFFFFFFFF bs ^^^ 0xFFFFFFFF

/-- CRC-32C with another initial value (the flow hash of R115). -/
def crc32cFrom (start : Nat) (bs : List Byte) : Nat := crcRun start bs ^^^ 0xFFFFFFFF

/-- The payload residue of R372: three-byte little-endian groups summed modulo 4095. -/
def payloadResidue (bs : List Byte) : Nat :=
  ((piecesOf 3 bs.length bs).map leNat).sum % 4095

/-- Put an item before the first of a list that it does not follow. -/
def insertBy {α : Type} (le : α → α → Bool) (x : α) : List α → List α
  | [] => [x]
  | y :: ys => if le x y then x :: y :: ys else y :: insertBy le x ys

/-- Sort by an order; items that compare equal keep theirs. -/
def sortBy {α : Type} (le : α → α → Bool) (xs : List α) : List α := xs.foldr (insertBy le) []

/-- Sort numbers upward. -/
def sortNats (xs : List Nat) : List Nat := sortBy (fun a b => decide (a ≤ b)) xs

/-- ⌈log2 n⌉ for n ≥ 1. -/
def ceilLog2 (n : Nat) : Nat := if n ≤ 1 then 0 else Nat.log2 (n - 1) + 1

end Sys2Proof.Machine
end

