-- ==== Sys2Proof/Machine/Formats.lean ====
section
/-! DEFINITION. Chapter "Number formats, conversion": the scalar encodings, rounding, the scatter
stream, conversions and the encoding of MX blocks (R30 to R50). -/

namespace Sys2Proof.Machine

/-- The nine scalar floating-point formats of R30. -/
inductive FloatFmt
  | fp64 | fp32 | fp16 | bf16 | e5m2 | e4m3 | e3m2 | e2m3 | e2m1
deriving DecidableEq, Repr

/-- Every element format of the device (R30, R33, R37). -/
inductive Fmt
  | flt (f : FloatFmt)
  /-- An MX block format with the given element encoding (R33). -/
  | mx (f : FloatFmt)
  | mxint8
  | int (w : Nat)
  | uint (w : Nat)
  | bits (w : Nat)
deriving DecidableEq, Repr

/-- Exponent width, fraction width and bias of R30. -/
def FloatFmt.expBits : FloatFmt → Nat
  | .fp64 => 11 | .fp32 => 8 | .fp16 => 5 | .bf16 => 8 | .e5m2 => 5 | .e4m3 => 4
  | .e3m2 => 3 | .e2m3 => 2 | .e2m1 => 2

/-- Fraction width m of R30. -/
def FloatFmt.fracBits : FloatFmt → Nat
  | .fp64 => 52 | .fp32 => 23 | .fp16 => 10 | .bf16 => 7 | .e5m2 => 2 | .e4m3 => 3
  | .e3m2 => 2 | .e2m3 => 3 | .e2m1 => 1

/-- Exponent bias of R30. -/
def FloatFmt.bias : FloatFmt → Nat
  | .fp64 => 1023 | .fp32 => 127 | .fp16 => 15 | .bf16 => 127 | .e5m2 => 15 | .e4m3 => 7
  | .e3m2 => 3 | .e2m3 => 1 | .e2m1 => 1

/-- The code of the largest finite magnitude (R30). -/
def FloatFmt.maxCode : FloatFmt → Nat
  | .fp64 => 0x7FEFFFFFFFFFFFFF | .fp32 => 0x7F7FFFFF | .fp16 => 0x7BFF | .bf16 => 0x7F7F
  | .e5m2 => 0x7B | .e4m3 => 0x7E | .e3m2 => 0x1F | .e2m3 => 0x1F | .e2m1 => 0x7

/-- Whether the format has infinities (R30). -/
def FloatFmt.hasInf : FloatFmt → Bool
  | .fp64 | .fp32 | .fp16 | .bf16 | .e5m2 => true
  | _ => false

/-- The canonical NaN (R30); formats without one have none. -/
def FloatFmt.nanCode : FloatFmt → Option Nat
  | .fp64 => some 0x7FF8000000000000 | .fp32 => some 0x7FC00000 | .fp16 => some 0x7E00
  | .bf16 => some 0x7FC0 | .e5m2 => some 0x7E | .e4m3 => some 0x7F
  | _ => none

/-- Width of an element in bits. -/
def FloatFmt.width (f : FloatFmt) : Nat := 1 + f.expBits + f.fracBits

/-- The largest unbiased exponent emax of R47. -/
def FloatFmt.emax : FloatFmt → Int
  | .e4m3 => 8 | .e5m2 => 15 | .e3m2 => 4 | .e2m3 => 2 | .e2m1 => 2
  | .fp64 => 1023 | .fp32 => 127 | .fp16 => 15 | .bf16 => 127

/-- A number as the arithmetic sees it: (−1)^neg × mag × 2^exp, a signed zero when mag is 0. -/
inductive Num
  | nan
  | inf (neg : Bool)
  | fin (neg : Bool) (mag : Nat) (exp : Int)
deriving DecidableEq, Repr

/-- Status bits: R48 in bits 7:0, R62 in bits 11:8. -/
abbrev Flags := Nat

def flushIn : Flags := 1
def flushOut : Flags := 2
def satFlag : Flags := 4
def ovfInf : Flags := 8
def infSat : Flags := 16
def nanSeen : Flags := 32
def scaleHi : Flags := 64
def scaleLo : Flags := 128
def windowLo : Flags := 256
def windowHi : Flags := 512
def infCancel : Flags := 1024
def nodeOvf : Flags := 2048

/-- The overflow policy of R43: SAT or INF. -/
inductive Policy
  | sat | inf
deriving DecidableEq, Repr

/-- How a conversion rounds (R38, R39): to nearest even, or stochastically with 16 scatter bits. -/
inductive Rounding
  | rne
  | stoch (r : Nat)
deriving DecidableEq, Repr

def Num.zero (neg : Bool) : Num := .fin neg 0 0

/-- Whether a number is a NaN, and so on. -/
def Num.isNan : Num → Bool
  | .nan => true
  | _ => false

def Num.isInf : Num → Bool
  | .inf _ => true
  | _ => false

def Num.isZero : Num → Bool
  | .fin _ m _ => m == 0
  | _ => false

def Num.neg? : Num → Bool
  | .nan => false
  | .inf s => s
  | .fin s _ _ => s

/-- Read a code of a scalar format (R30, R31): the value and the flags the read sets. -/
def decodeFloat (f : FloatFmt) (code : Nat) : Num × Flags :=
  let m := f.fracBits
  let e := (code >>> m) % 2 ^ f.expBits
  let fr := code % 2 ^ m
  let s := code.testBit (f.width - 1)
  let allOnes := 2 ^ f.expBits - 1
  if f.hasInf && e == allOnes then
    if fr = 0 then (.inf s, 0) else (.nan, nanSeen)
  else if f == .e4m3 && code % 128 == 127 then (.nan, nanSeen)
  else if e = 0 then (.zero s, if fr = 0 then 0 else flushIn)
  else (.fin s (2 ^ m + fr) ((e : Int) - (f.bias : Int) - (m : Int)), 0)

/-- The bits below the kept ones of a magnitude cut by `shift`, judged under the rounding mode
(R38, R40): whether the kept part q is rounded away from zero. -/
def roundsUp (md : Rounding) (q rem shift : Nat) : Bool :=
  match md with
  | .rne => decide (2 ^ shift < 2 * rem) || (2 * rem == 2 ^ shift && q % 2 == 1)
  | .stoch r => decide (r < (rem * 65536) >>> shift)

/-- Round a magnitude m × 2^e to p bits with an unbounded exponent (R38 step 1). -/
def roundMag (md : Rounding) (p m : Nat) (e : Int) : Nat × Int :=
  let len := Nat.log2 m + 1
  if len ≤ p then (m, e)
  else
    let shift := len - p
    let q := m >>> shift
    let rem := m % 2 ^ shift
    (if roundsUp md q rem shift then q + 1 else q, e + shift)

/-- Round a magnitude m × 2^e to an integer multiple of 2^g. -/
def roundGrid (md : Rounding) (m : Nat) (e g : Int) : Nat :=
  if g ≤ e then m <<< (e - g).toNat
  else
    let shift := (g - e).toNat
    let q := m >>> shift
    if roundsUp md q (m % 2 ^ shift) shift then q + 1 else q

/-- The position of the leading bit of m × 2^e (m non-zero): floor(log2). -/
def leadExp (m : Nat) (e : Int) : Int := e + Nat.log2 m

/-- The magnitude code of m × 2^e, a value of the format's precision, with the exponent field
unbounded above: the codes of R30 rise with the magnitude. -/
def magCode (f : FloatFmt) (m : Nat) (e : Int) : Int :=
  let le := leadExp m e
  let biased := le + f.bias
  let len := Nat.log2 m + 1
  let p := f.fracBits + 1
  let frac := (if len ≤ p then m <<< (p - len) else m >>> (len - p)) - 2 ^ f.fracBits
  biased * 2 ^ f.fracBits + frac

/-- A code with its sign bit. -/
def signCode (f : FloatFmt) (neg : Bool) (mag : Nat) : Nat :=
  if neg then mag + 2 ^ (f.width - 1) else mag

/-- The code of an infinity (formats that have one). -/
def infCode (f : FloatFmt) (neg : Bool) : Nat :=
  signCode f neg ((2 ^ f.expBits - 1) <<< f.fracBits)

/-- Steps 2 to 4 of R38 on a rounded magnitude. -/
def encodeRounded (f : FloatFmt) (pol : Policy) (neg : Bool) (m : Nat) (e : Int) : Nat × Flags :=
  if m = 0 then (signCode f neg 0, 0)
  else
    let c := magCode f m e
    if (f.maxCode : Int) < c then
      if pol == .inf && f.hasInf then (infCode f neg, ovfInf)
      else (signCode f neg f.maxCode, satFlag)
    else if leadExp m e + f.bias < 1 then (signCode f neg 0, flushOut)
    else (signCode f neg c.toNat, 0)

/-- A conversion to a scalar format (R38, R43, R45). A target without a NaN encoding gives 0 for a
NaN: only MX blocks hold such targets, and R47 step 4 replaces the whole block. -/
def convertFloat (f : FloatFmt) (pol : Policy) (md : Rounding) (x : Num) : Nat × Flags :=
  match x with
  | .nan => (f.nanCode.getD 0, nanSeen)
  | .inf s => if f.hasInf then (infCode f s, 0) else (signCode f s f.maxCode, infSat)
  | .fin s m e =>
    if m = 0 then (signCode f s 0, 0)
    else
      let r := roundMag md (f.fracBits + 1) m e
      encodeRounded f pol s r.1 r.2

/-- Integer ranges of R46. -/
def intMin : Fmt → Int
  | .int w => -(2 ^ (w - 1))
  | _ => 0

def intMax : Fmt → Int
  | .int w => 2 ^ (w - 1) - 1
  | .uint w => 2 ^ w - 1
  | _ => 0

/-- Read an integer code. -/
def decodeInt : Fmt → Nat → Int
  | .int w, c => signed w c
  | .uint w, c => ((c % 2 ^ w : Nat) : Int)
  | _, c => (c : Int)

/-- Width of a scalar format's element in bits (MX elements without their scales). -/
def Fmt.width : Fmt → Nat
  | .flt f => f.width
  | .mx f => f.width
  | .mxint8 => 8
  | .int w => w
  | .uint w => w
  | .bits w => w

/-- Saturate an integer into an integer format (R46, R70). -/
def convertInt (t : Fmt) (v : Int) : Nat × Flags :=
  if v < intMin t then (unsigned t.width (intMin t), satFlag)
  else if intMax t < v then (unsigned t.width (intMax t), satFlag)
  else (unsigned t.width v, 0)

/-- A floating-point value to an integer format (R46). -/
def floatToInt (t : Fmt) (x : Num) : Nat × Flags :=
  match x with
  | .nan => (0, nanSeen)
  | .inf s => (unsigned t.width (if s then intMin t else intMax t), satFlag)
  | .fin s m e =>
    let q : Int := roundGrid .rne m e 0
    convertInt t (if s then -q else q)

/-- An integer as a number (R46). -/
def numOfInt (v : Int) : Num := .fin (decide (v < 0)) v.natAbs 0

/-- The mixing function of R41, on 64-bit words. -/
def scatterMix (x : Nat) : Nat :=
  let x := x ^^^ (x >>> 31)
  let x := (x * 0xC4F28B1D6A93E5A7) % 2 ^ 64
  x ^^^ (x >>> 27)

/-- The 16 scatter bits of an element (R41). -/
def scatterBits (seed t d u e : Nat) : Nat :=
  let x := scatterMix (seed ^^^ (((t <<< 32) % 2 ^ 64) ||| d))
  let x := (x ^^^ ((u <<< 40) % 2 ^ 64)) ^^^ (e >>> 2)
  let x := (x + 0x9E6B3C715A2DF1E5) % 2 ^ 64
  let x := scatterMix (scatterMix (scatterMix x))
  (x >>> (16 * (e % 4))) % 65536

/-- The key of a conversion site (R42). -/
structure ScatterKey where
  seed : Nat
  t : Nat
  d : Nat
  u : Nat
deriving DecidableEq, Repr

/-- The rounding of one element: RNE, or stochastic under a key at its element index. -/
def roundingAt (key : Option ScatterKey) (idx : Nat) : Rounding :=
  match key with
  | none => .rne
  | some k => .stoch (scatterBits k.seed k.t k.d k.u idx)

/-- Compare magnitudes m1 × 2^e1 and m2 × 2^e2: whether the first is smaller. -/
def magLt (m1 : Nat) (e1 : Int) (m2 : Nat) (e2 : Int) : Bool :=
  if e1 ≤ e2 then decide (m1 < m2 <<< (e2 - e1).toNat)
  else decide (m1 <<< (e1 - e2).toNat < m2)

/-- The largest finite magnitude of a list of numbers, as a pair (0 when none is finite). -/
def amaxOf (xs : List Num) : Nat × Int :=
  xs.foldl (fun a x =>
    match x with
    | .fin _ m e => if magLt a.1 a.2 m e then (m, e) else a
    | _ => a) (0, 0)

/-- The element format of an MX block: its emax of R47 (0 for MXINT8). -/
def mxEmax : Option FloatFmt → Int
  | some f => f.emax
  | none => 0

/-- An MXINT8 element from the exact quotient (R34). -/
def encodeMxInt (md : Rounding) (s : Bool) (m : Nat) (e : Int) : Nat × Flags :=
  let q := roundGrid md m e (-6)
  if 127 < q then (if s then 0x81 else 0x7F, satFlag)
  else (unsigned 8 (if s then -(q : Int) else q), 0)

/-- One element of an MX block, the shared exponent already fixed (R47 steps 3 and 5). -/
def encodeMxElem (f : Option FloatFmt) (pol : Policy) (md : Rounding) (sh : Int) (x : Num) :
    Nat × Flags :=
  match f, x with
  | _, .nan => (0, nanSeen)
  | none, .inf s => (if s then 0x81 else 0x7F, infSat)
  | none, .fin s m e => encodeMxInt md s m (e - sh)
  | some g, .inf s => convertFloat g pol md (.inf s)
  | some g, .fin s m e => convertFloat g pol md (.fin s m (e - sh))

/-- One 32-element MX block (R47): its scale code, element codes and element flags. `f` is none for
MXINT8; `amax` is the block's amax of step 1; `mds` gives each element's rounding. -/
def encodeMxBlock (f : Option FloatFmt) (pol : Policy) (mds : List Rounding) (xs : List Num) :
    Nat × List (Nat × Flags) :=
  let hasNan := xs.any Num.isNan
  let hasInf := xs.any Num.isInf
  let direct := match f with
    | some g => g.hasInf
    | none => false
  let infNan := hasInf && !direct && pol == .inf
  let a := amaxOf xs
  let sh : Int :=
    if a.1 = 0 then (if hasInf && !direct then 127 else -127)
    else max (-127) (min 127 (leadExp a.1 a.2 - mxEmax f))
  if hasNan then (0xFF, xs.map fun x => (0, if x.isNan then nanSeen else 0))
  else if infNan then
    (0xFF, xs.map fun x => (0, if x.isInf then nanSeen else 0))
  else ((sh + 127).toNat, (xs.zip mds).map fun p => encodeMxElem f pol p.2 sh p.1)

/-- Read one MX element under its scale code as an exact value (R33, R50). -/
def decodeMxElem (f : Option FloatFmt) (scale code : Nat) : Num × Flags :=
  if scale = 0xFF then (.nan, nanSeen)
  else
    let sh : Int := (scale : Int) - 127
    match f with
    | none =>
      let k := signed 8 code
      (.fin (decide (k < 0)) k.natAbs (sh - 6), 0)
    | some g =>
      match decodeFloat g code with
      | (.fin s m e, fl) => (.fin s m (e + sh), fl)
      | r => r

/-- A dequantised MX element in fast mode: an FP32 value (R49). -/
def dequantFast (pol : Policy) (x : Num) : Num × Flags :=
  match x with
  | .fin s m e =>
    if m = 0 then (x, 0)
    else if leadExp m e < -126 then (.zero s, scaleLo)
    else if 127 < leadExp m e then
      (if pol == .inf then .inf s else .fin s (2 ^ 24 - 1) 104, scaleHi)
    else (x, 0)
  | _ => (x, 0)

/-- Cut a byte string into n codes of w bits, packed from bit 0 upward (R37). -/
def unpackCodes (w n : Nat) (bs : List Byte) : List Nat :=
  if w = 8 then (bs.take n).map BitVec.toNat
  else if w % 8 = 0 then (piecesOf (w / 8) n bs).map leNat
  else
    let v := leNat bs
    (List.range n).map fun i => (v >>> (w * i)) % 2 ^ w

/-- Pack codes of w bits into bytes (R37). -/
def packCodes (w : Nat) (cs : List Nat) : List Byte :=
  if w = 8 then cs.map (BitVec.ofNat 8)
  else if w % 8 = 0 then cs.flatMap (leBytes (w / 8))
  else
    leBytes (ceilDiv (w * cs.length) 8)
      ((cs.zipIdx.map fun p => p.1 <<< (w * p.2)).foldl (· ||| ·) 0)

/-- Bytes of one superblock of 256 elements of element width w (R35). -/
def superblockBytes (w : Nat) : Nat := 8 + 32 * w

/-- Bytes that n elements of a format take (R35, R37). -/
def Fmt.bytesFor (f : Fmt) (n : Nat) : Nat :=
  match f with
  | .mx _ | .mxint8 => ceilDiv n 256 * superblockBytes f.width
  | _ => ceilDiv (n * f.width) 8

/-- The element encoding of an MX format (none for MXINT8). -/
def Fmt.mxElem : Fmt → Option FloatFmt
  | .mx f => some f
  | _ => none

def Fmt.isMx : Fmt → Bool
  | .mx _ | .mxint8 => true
  | _ => false

def Fmt.isInt : Fmt → Bool
  | .int _ | .uint _ => true
  | _ => false

def Fmt.isBits : Fmt → Bool
  | .bits _ => true
  | _ => false

/-- The scale code and element codes of each of a superblock's elements, in index order (R35). -/
def superblockCodes (w : Nat) (bs : List Byte) : List (Nat × Nat) :=
  let scales := bs.take 8
  let areas := piecesOf (4 * w) 8 (bs.drop 8)
  ((scales.zip areas).map fun p => (unpackCodes w 32 p.2).map fun c => (p.1.toNat, c)).flatten

/-- Read n elements of a floating-point or MX payload as exact values (R30 to R37). -/
def decodeElems (f : Fmt) (n : Nat) (bs : List Byte) : List (Num × Flags) :=
  match f with
  | .flt g => (unpackCodes g.width n bs).map (decodeFloat g)
  | .int _ | .uint _ => (unpackCodes f.width n bs).map fun c => (numOfInt (decodeInt f c), 0)
  | .bits w => (unpackCodes w n bs).map fun (c : Nat) => (numOfInt (Int.ofNat c), 0)
  | _ =>
    (((piecesOf (superblockBytes f.width) (ceilDiv n 256) bs).map
      (superblockCodes f.width)).flatten.take n).map fun p => decodeMxElem f.mxElem p.1 p.2

/-- Encode one superblock's worth of values: its bytes and its elements' flags (R35, R47). Padding
elements are +0 and carry no flags. -/
def encodeSuperblock (f : Fmt) (pol : Policy) (mds : List Rounding) (xs : List Num) :
    List Byte × List Flags :=
  let full := xs ++ List.replicate (256 - xs.length) (Num.zero false)
  let fullMds := mds ++ List.replicate (256 - mds.length) Rounding.rne
  let blocks := (piecesOf 32 8 full).zip (piecesOf 32 8 fullMds)
  let enc := blocks.map fun b => encodeMxBlock f.mxElem pol b.2 b.1
  (enc.map (fun b => BitVec.ofNat 8 b.1) ++ enc.flatMap (fun b => packCodes f.width (b.2.map Prod.fst)),
   ((enc.map fun b => b.2.map Prod.snd).flatten).take xs.length)

/-- Encode a list of values in an output format: payload bytes and each element's flags.
`first` is the element index of the first value, for the scatter key (R41, R45 to R47). -/
def encodeElems (f : Fmt) (pol : Policy) (key : Option ScatterKey) (first : Nat) (xs : List Num) :
    List Byte × List Flags :=
  let mds := xs.zipIdx.map fun p => roundingAt key (first + p.2)
  match f with
  | .flt g =>
    let r := (xs.zip mds).map fun p => convertFloat g pol p.2 p.1
    (packCodes g.width (r.map Prod.fst), r.map Prod.snd)
  | .int _ | .uint _ | .bits _ =>
    let r := xs.map (floatToInt f)
    (packCodes f.width (r.map Prod.fst), r.map Prod.snd)
  | _ =>
    let sbs := ((piecesOf 256 xs.length xs).zip (piecesOf 256 xs.length mds)).map fun p =>
      encodeSuperblock f pol p.2 p.1
    (sbs.flatMap Prod.fst, sbs.flatMap Prod.snd)

/-- A value read through without arithmetic: a subnormal code becomes the signed zero (R32). -/
def passCode (f : FloatFmt) (code : Nat) : Nat × Flags :=
  match decodeFloat f code with
  | (.fin s 0 _, fl) => (signCode f s 0, fl)
  | (_, fl) => (code, if fl &&& flushIn = 0 then 0 else fl)

/-- One superblock passed through: of its first n elements the subnormal codes become signed zeros.
A block whose scale is 0xFF reads as NaNs whatever its codes (R33), and padding is no element
(R35): both pass as they are. -/
def passSuperblock (g : FloatFmt) (n : Nat) (sb : List Byte) : List Byte × List Flags :=
  let r := (superblockCodes g.width sb).zipIdx.map fun p =>
    if p.1.1 = 0xFF || n ≤ p.2 then (p.1.2, 0) else passCode g p.1.2
  (sb.take 8 ++ packCodes g.width (r.map Prod.fst), r.map Prod.snd)

/-- A payload passed through without arithmetic (R32): its bytes and each element's flags. -/
def passElems (f : Fmt) (n : Nat) (bs : List Byte) : List Byte × List Flags :=
  match f with
  | .flt g =>
    let r := (unpackCodes g.width n bs).map (passCode g)
    (packCodes g.width (r.map Prod.fst), r.map Prod.snd)
  | .mx g =>
    let sbs := (piecesOf (superblockBytes g.width) (ceilDiv n 256) bs).zipIdx.map fun p =>
      passSuperblock g (n - 256 * p.2) p.1
    (sbs.flatMap Prod.fst, (sbs.flatMap Prod.snd).take n)
  | _ => (bs, List.replicate n 0)

end Sys2Proof.Machine
end

