-- ==== Sys2Proof/Machine/Sheaf.lean ====
section
/-! DEFINITION. Exact sums: the accumulator classes, the sheaf records that carry them and the
single rounding of strict mode (R51 to R61). -/

namespace Sys2Proof.Machine

/-- One exact accumulator (R52, R58): a signed multiple of the class's bit-0 weight, the three
special flags, and whether every addend so far was −0. -/
structure Exact where
  mag : Int
  nan : Bool
  pinf : Bool
  ninf : Bool
  negZero : Bool
deriving DecidableEq, Repr

/-- The empty sum: every addend "so far" was −0. -/
def Exact.empty : Exact := ⟨0, false, false, false, true⟩

/-- Limbs of a class (R52). -/
def classLimbs : Nat → Nat
  | 0 => 5 | 1 => 10 | _ => 34

/-- The exponent of bit 0 of a class (R52). -/
def classBase : Nat → Int
  | 0 => -149 | 1 => -300 | _ => -1074

/-- The exact product of two numbers with the special cases of R58. -/
def mulNum : Num → Num → Num
  | .nan, _ => .nan
  | _, .nan => .nan
  | .inf s, .inf t => .inf (s != t)
  | .inf s, .fin t m _ => if m = 0 then .nan else .inf (s != t)
  | .fin s m _, .inf t => if m = 0 then .nan else .inf (s != t)
  | .fin s m e, .fin t n f => .fin (s != t) (m * n) (e + f)

/-- The window rule of R59, on an exact FP64 product. -/
def windowProduct (p : Num) : Num × Flags :=
  match p with
  | .fin s m e =>
    if m = 0 then (p, 0)
    else if 1024 ≤ leadExp m e then (.inf s, windowHi)
    else if -1074 ≤ e then (p, 0)
    else
      let q := roundGrid .rne m e (-1074)
      (.fin s q (-1074), if m = q <<< (-1074 - e).toNat then 0 else windowLo)
  | _ => (p, 0)

/-- An addend as an accumulator of its class (R58). -/
def exactOf (cls : Nat) (x : Num) : Exact :=
  match x with
  | .nan => ⟨0, true, false, false, false⟩
  | .inf s => ⟨0, false, !s, s, false⟩
  | .fin s m e =>
    let q : Int := roundGrid .rne m e (classBase cls)
    ⟨if s then -q else q, false, false, false, s && m == 0⟩

/-- Exact merging: magnitudes add, special flags are ORed (R54). -/
def Exact.merge (a b : Exact) : Exact :=
  ⟨a.mag + b.mag, a.nan || b.nan, a.pinf || b.pinf, a.ninf || b.ninf, a.negZero && b.negZero⟩

/-- Whether a special flag is set. -/
def Exact.special (a : Exact) : Bool := a.nan || a.pinf || a.ninf

/-- Limbs of a magnitude, least significant first. -/
def limbsOf : Nat → Nat → List Nat
  | 0, _ => []
  | n + 1, v => v % 2 ^ 64 :: limbsOf n (v / 2 ^ 64)

/-- Index of the first non-zero limb of a non-zero magnitude (fuel: the limb count). -/
def firstLimb : Nat → Nat → Nat
  | 0, _ => 0
  | n + 1, v => if v % 2 ^ 64 = 0 then 1 + firstLimb n (v / 2 ^ 64) else 0

/-- The descriptor word of R51. -/
def sheafDesc (version cls offset count : Nat) (sign nan pinf ninf : Bool) : Nat :=
  (version <<< 60) + (cls <<< 56) + (offset <<< 50) + (count <<< 44) + (b2n sign <<< 43)
    + (b2n nan <<< 42) + (b2n pinf <<< 41) + (b2n ninf <<< 40)

/-- The canonical record of an accumulator (R53). -/
def sheafRecord (version cls : Nat) (a : Exact) : List Byte :=
  if a.special then leBytes 8 (sheafDesc version cls 0 0 false a.nan a.pinf a.ninf)
  else if a.mag = 0 then leBytes 8 (sheafDesc version cls 0 0 a.negZero false false false)
  else
    let v := a.mag.natAbs
    let lo := firstLimb (classLimbs cls) v
    let hi := Nat.log2 v / 64
    let cnt := hi + 1 - lo
    leBytes 8 (sheafDesc version cls lo cnt (decide (a.mag < 0)) false false false)
      ++ (limbsOf cnt (v >>> (64 * lo))).flatMap (leBytes 8)

/-- The malformed cases of R55 that the descriptor alone shows. -/
def sheafBad (version cls desc : Nat) : Bool :=
  let off := (desc >>> 50) % 64
  let cnt := (desc >>> 44) % 64
  let special := (desc >>> 40) % 8
  desc >>> 60 != version || (desc >>> 56) % 16 != cls
    || decide (classLimbs cls ≤ off) || decide (classLimbs cls < off + cnt)
    || desc % 2 ^ 40 != 0 || (cnt != 0 && special != 0)

/-- Parse n records; none when one is malformed or runs past the bytes (R55). -/
def parseSheaf (version cls : Nat) : Nat → List Byte → Option (List Exact × List Byte)
  | 0, bs => some ([], bs)
  | n + 1, bs =>
    if bs.length < 8 then none
    else
      let desc := leNat (bs.take 8)
      let cnt := (desc >>> 44) % 64
      let off := (desc >>> 50) % 64
      let rest := bs.drop 8
      if sheafBad version cls desc || decide (rest.length < 8 * cnt) then none
      else
        let mag : Int := (leNat (rest.take (8 * cnt)) <<< (64 * off) : Nat)
        let sgn := desc.testBit 43
        let special := (desc >>> 40) % 8
        let a : Exact :=
          ⟨if sgn then -mag else mag, desc.testBit 42, desc.testBit 41, desc.testBit 40,
            special == 0 && mag == 0 && sgn⟩
        match parseSheaf version cls n (rest.drop (8 * cnt)) with
        | none => none
        | some (as, more) => some (a :: as, more)

/-- The value that the single rounding starts from (R61): NaN before infinities before zero. -/
def strictValue (cls : Nat) (a : Exact) : Num × Flags :=
  if a.nan then (.nan, 0)
  else if a.pinf && a.ninf then (.nan, infCancel)
  else if a.pinf then (.inf false, 0)
  else if a.ninf then (.inf true, 0)
  else if a.mag = 0 then (.zero a.negZero, 0)
  else (.fin (decide (a.mag < 0)) a.mag.natAbs (classBase cls), 0)

end Sys2Proof.Machine
end

