-- ==== Sys2Proof/Machine/Nodes.lean ====
section
/-! DEFINITION. Fast-mode nodes, the rank tree, PROD, EAGER-SUM and ordered selection
(R63 to R67, R80 to R91). -/

namespace Sys2Proof.Machine

/-- The exact sum of two numbers; infinities of opposite sign give NaN and INF_CANCEL (R65). The
sign of an exact zero follows R64. -/
def addNum : Num → Num → Num × Flags
  | .nan, _ => (.nan, nanSeen)
  | _, .nan => (.nan, nanSeen)
  | .inf s, .inf t => if s = t then (.inf s, 0) else (.nan, nanSeen ||| infCancel)
  | .inf s, .fin _ _ _ => (.inf s, 0)
  | .fin _ _ _, .inf t => (.inf t, 0)
  | .fin s m e, .fin t n f =>
    let g := min e f
    let a : Int := (m <<< (e - g).toNat : Nat)
    let b : Int := (n <<< (f - g).toNat : Nat)
    let v : Int := (if s then -a else a) + (if t then -b else b)
    if v = 0 then (.zero (s && t && m == 0 && n == 0), 0)
    else (.fin (decide (v < 0)) v.natAbs g, 0)

/-- round_node of R64: a value of the node format (FP32 or FP64) and the flags. -/
def roundNode (f : FloatFmt) (pol : Policy) (x : Num) : Num × Flags :=
  match x with
  | .nan => (.nan, nanSeen)
  | .inf s => (.inf s, 0)
  | .fin s m e =>
    if m = 0 then (.zero s, 0)
    else
      let r := roundMag .rne (f.fracBits + 1) m e
      let le := leadExp r.1 r.2
      if (f.bias : Int) < le then
        if pol == .inf then (.inf s, ovfInf ||| nodeOvf)
        else (.fin s (2 ^ (f.fracBits + 1) - 1) ((f.bias : Int) - f.fracBits), satFlag ||| nodeOvf)
      else if le < 1 - (f.bias : Int) then (.zero s, flushOut)
      else (.fin s r.1 r.2, 0)

/-- A node sum: exact sum, one rounding (R63). -/
def nodeAdd (f : FloatFmt) (pol : Policy) (a b : Num) : Num × Flags :=
  let s := addNum a b
  let r := roundNode f pol s.1
  (r.1, s.2 ||| r.2)

/-- A product flagged as R65 says: a NaN product sets NAN_SEEN. -/
def flaggedMul (a b : Num) : Num × Flags :=
  let p := mulNum a b
  (p, if p.isNan then nanSeen else 0)

/-- A node product: exact product, one rounding (R84). -/
def nodeMul (f : FloatFmt) (pol : Policy) (a b : Num) : Num × Flags :=
  let p := flaggedMul a b
  let r := roundNode f pol p.1
  (r.1, p.2 ||| r.2)

/-- One input of the rank tree: the node (level, index) it fills, and its value. A rank with its
weight fills no node by itself: it is a weighted half of a leaf (R63). -/
inductive TreeIn
  /-- A finished node value at the given level (a child's record or an endpoint block, R67). -/
  | node (level index : Nat) (x : Num)
  /-- One rank's weighted input (a weight of 1 for SUM). -/
  | rank (r : Nat) (w x : Num)
deriving DecidableEq, Repr

/-- The input that covers exactly a node, if one does. -/
def findNode (ins : List TreeIn) (level index : Nat) : Option Num :=
  match ins with
  | [] => none
  | .node l i x :: rest => if l = level ∧ i = index then some x else findNode rest level index
  | _ :: rest => findNode rest level index

/-- The weighted input of one rank, if it contributed. -/
def findRank (ins : List TreeIn) (r : Nat) : Option (Num × Num) :=
  match ins with
  | [] => none
  | .rank k w x :: rest => if k = r then some (w, x) else findRank rest r
  | _ :: rest => findRank rest r

/-- A leaf of two ranks: the exact dot-2 rounded once, or one product rounded once (R63). For PROD
(`mul`) a leaf is the exact product and a one-rank leaf the promoted input (R84). -/
def leafNode (mul : Bool) (f : FloatFmt) (pol : Policy) (a b : Option (Num × Num)) :
    Option (Num × Flags) :=
  match a, b with
  | none, none => none
  | some (w, x), none | none, some (w, x) =>
    if mul then some (x, 0)
    else
      let p := flaggedMul w x
      let r := roundNode f pol p.1
      some (r.1, p.2 ||| r.2)
  | some (w, x), some (v, y) =>
    if mul then some (nodeMul f pol x y)
    else
      let p := flaggedMul w x
      let q := flaggedMul v y
      let s := nodeAdd f pol p.1 q.1
      some (s.1, p.2 ||| q.2 ||| s.2)

/-- Whether any input lies within a node's ranks: absent subtrees are skipped. -/
def nodeTouched (ins : List TreeIn) (level index : Nat) : Bool :=
  ins.any fun t =>
    match t with
    | .node l i _ => decide (l ≤ level) && (i >>> (level - l)) == index
    | .rank r _ _ => r >>> level == index

/-- The value of node (level, index) of the rank tree of R63 (or of PROD's tree, R84). A level-0
node is a single rank that is passed on as a node value (R67). -/
def treeNode (mul : Bool) (f : FloatFmt) (pol : Policy) (ins : List TreeIn) :
    Nat → Nat → Option (Num × Flags)
  | 0, i =>
    match findNode ins 0 i with
    | some x => some (x, 0)
    | none => leafNode mul f pol (findRank ins i) none
  | k + 1, i =>
    if !nodeTouched ins (k + 1) i then none
    else
      match findNode ins (k + 1) i with
      | some x => some (x, 0)
      | none =>
        if k = 0 then
          let half := fun r =>
            match findRank ins r with
            | some p => some p
            | none => (findNode ins 0 r).map fun x => (Num.fin false 1 0, x)
          leafNode mul f pol (half (2 * i)) (half (2 * i + 1))
        else
          match treeNode mul f pol ins k (2 * i), treeNode mul f pol ins k (2 * i + 1) with
          | none, none => none
          | some a, none => some a
          | none, some b => some b
          | some a, some b =>
            let s := if mul then nodeMul f pol a.1 b.1 else nodeAdd f pol a.1 b.1
            some (s.1, a.2 ||| b.2 ||| s.2)

/-- EAGER-SUM: fold in arrival order, each step rounded once (R91). -/
def eagerFold (f : FloatFmt) (pol : Policy) : List Num → Option (Num × Flags)
  | [] => none
  | x :: xs =>
    some (xs.foldl (fun acc y =>
      let s := nodeAdd f pol acc.1 y
      (s.1, acc.2 ||| s.2)) (x, 0))

/-- The order of R80 on non-NaN values: whether a ranks strictly below b. −0 ranks below +0. -/
def numLt : Num → Num → Bool
  | .nan, _ => false
  | _, .nan => false
  | .inf s, .inf t => s && !t
  | .inf s, .fin _ _ _ => s
  | .fin _ _ _, .inf t => !t
  | .fin s m e, .fin t n f =>
    match s, t with
    | true, false => true
    | false, true => false
    | false, false => magLt m e n f
    | true, true => magLt n f m e

/-- A candidate of an ordered selection: its value, its code, the index and the lowest rank it
stands for, and its arrival position (R80 to R82, R90). -/
structure Cand where
  x : Num
  code : Nat
  idx : Nat
  rank : Nat
  pos : Nat
deriving DecidableEq, Repr

/-- Whether candidate b replaces a: a NaN outranks everything; equal values go to the lowest rank,
or for the arrival form to the earliest position (R80, R82, R90). -/
def candBeats (wantMax byArrival : Bool) (a b : Cand) : Bool :=
  let earlier := if byArrival then decide (b.pos < a.pos) else decide (b.rank < a.rank)
  if a.x.isNan then b.x.isNan && earlier
  else if b.x.isNan then true
  else if wantMax then numLt a.x b.x || (!numLt b.x a.x && earlier)
  else numLt b.x a.x || (!numLt a.x b.x && earlier)

/-- The winner of an ordered selection. -/
def selectCand (wantMax byArrival : Bool) : List Cand → Option Cand
  | [] => none
  | c :: cs => some (cs.foldl (fun a b => if candBeats wantMax byArrival a b then b else a) c)

end Sys2Proof.Machine
end

