-- ==== Sys2Proof/Machine/Reduce.lean ====
section
/-! DEFINITION. The reduction of one chunk at one device: formats and opcodes of a group (R73, R74,
R136), contribution layouts (R76 to R79, R146) and the result of every operation
(R56 to R67, R70, R80 to R91, R473). -/

namespace Sys2Proof.Machine

/-- The formats by their 6-bit codes (R136). Code 0x00 is "None" and has no element format. -/
def fmtOf : Nat → Option Fmt
  | 0x01 => some (.flt .fp64) | 0x02 => some (.flt .fp32) | 0x03 => some (.flt .fp16)
  | 0x04 => some (.flt .bf16) | 0x05 => some (.flt .e5m2) | 0x06 => some (.flt .e4m3)
  | 0x07 => some (.flt .e3m2) | 0x08 => some (.flt .e2m3) | 0x09 => some (.flt .e2m1)
  | 0x10 => some (.mx .e4m3) | 0x11 => some (.mx .e5m2) | 0x12 => some (.mx .e3m2)
  | 0x13 => some (.mx .e2m3) | 0x14 => some (.mx .e2m1) | 0x15 => some .mxint8
  | 0x20 => some (.int 8) | 0x21 => some (.int 16) | 0x22 => some (.int 32) | 0x23 => some (.int 64)
  | 0x24 => some (.uint 8) | 0x25 => some (.uint 16) | 0x26 => some (.uint 32)
  | 0x27 => some (.uint 64)
  | 0x30 => some (.bits 8) | 0x31 => some (.bits 16) | 0x32 => some (.bits 32)
  | 0x33 => some (.bits 64)
  | _ => none

/-- A code that R136 lists. -/
def fmtListed (c : Nat) : Bool := c == 0 || (fmtOf c).isSome

/-- Bare FP6 and FP4 codes (R36). -/
def fmtBare (c : Nat) : Bool := 0x07 ≤ c && c ≤ 0x09

def fmtIsFloat (c : Nat) : Bool := 0x01 ≤ c && c ≤ 0x09
def fmtIsMx (c : Nat) : Bool := 0x10 ≤ c && c ≤ 0x15
def fmtIsInt (c : Nat) : Bool := 0x20 ≤ c && c ≤ 0x27
def fmtIsBits (c : Nat) : Bool := 0x30 ≤ c && c ≤ 0x33

/-- Bytes of n elements of a format code. -/
def fmtBytes (c n : Nat) : Nat :=
  match fmtOf c with
  | some f => f.bytesFor n
  | none => 0

/-- The binder operations of R74. -/
inductive BinOp
  | sum | wsum | axpy | min | max | minloc | maxloc | prod | and | or | xor
  | copyFirst | maxlocArrival | eagerSum
deriving DecidableEq, Repr

/-- The operation an opcode names (R74). -/
def binOpOf : Nat → Option BinOp
  | 0x01 => some .sum | 0x02 => some .wsum | 0x03 => some .axpy | 0x08 => some .min
  | 0x09 => some .max | 0x0A => some .minloc | 0x0B => some .maxloc | 0x10 => some .prod
  | 0x18 => some .and | 0x19 => some .or | 0x1A => some .xor | 0x40 => some .copyFirst
  | 0x41 => some .maxlocArrival | 0x42 => some .eagerSum
  | _ => none

/-- Operations offered in strict mode (R74). -/
def BinOp.strictOk : BinOp → Bool
  | .prod | .eagerSum => false
  | _ => true

/-- Operations of 0x40 to 0x42, whose result may vary (R72). -/
def BinOp.varies : BinOp → Bool
  | .copyFirst | .maxlocArrival | .eagerSum => true
  | _ => false

/-- Operations that take node-form contributions and give node values in fast mode (R67, R146). -/
def BinOp.nodeForm : BinOp → Bool
  | .sum | .wsum | .axpy | .prod | .eagerSum => true
  | _ => false

def BinOp.isLoc : BinOp → Bool
  | .minloc | .maxloc | .maxlocArrival => true
  | _ => false

/-- The input formats that an operation allows (R74). -/
def opInOk (o : BinOp) (c : Nat) : Bool :=
  match o with
  | .sum => fmtIsFloat c || fmtIsMx c || fmtIsInt c
  | .wsum | .axpy | .eagerSum => fmtIsFloat c || fmtIsMx c
  | .min | .max => fmtIsFloat c || fmtIsMx c || fmtIsInt c
  | .minloc | .maxloc | .maxlocArrival => (fmtIsFloat c && !fmtBare c) || fmtIsInt c
  | .prod => fmtIsFloat c && !fmtBare c
  | .and | .or | .xor => fmtIsBits c
  | .copyFirst => (fmtOf c).isSome

/-- The output formats that an operation allows for an input format (R74). -/
def opOutOk (o : BinOp) (i c : Nat) : Bool :=
  match o with
  | .sum => if fmtIsInt i then fmtIsInt c else (fmtIsFloat c && !fmtBare c) || fmtIsMx c
  | .wsum | .axpy | .eagerSum => (fmtIsFloat c && !fmtBare c) || fmtIsMx c
  | .min | .max => if fmtBare i || fmtIsMx i then c == 0x02 else c == i
  | .prod => fmtIsFloat c && !fmtBare c
  | _ => c == i

/-- The weight formats that an operation allows (R76). -/
def opWeightOk (o : BinOp) (i c : Nat) : Bool :=
  match o with
  | .wsum => if i == 0x01 then c == 0x01 else c == 0x02 || c == 0x04
  | _ => c == 0

/-- What fixes the arithmetic of one chunk at one device. -/
structure ChunkDef where
  op : BinOp
  strict : Bool
  inFmt : Nat
  outFmt : Nat
  wFmt : Nat
  policy : Policy
  /-- The scatter key of a gradient group's output conversion (R42). -/
  key : Option ScatterKey
  root : Bool
  /-- Rank space N, and the span this device covers. -/
  ranks : Nat
  spanLo : Nat
  spanCount : Nat
  elems : Nat
  rowLen : Nat
  /-- Index within the run of the chunk's first element. -/
  elem0 : Nat
  /-- The exponent k of an FP8 output under a held scale (R217). -/
  outExp : Option Int
  /-- The root lands the result: values are kept unconverted (R60). -/
  toBin : Bool
  sheafVer : Nat
deriving DecidableEq, Repr

/-- One complete contribution or child record of a chunk. -/
structure Item where
  rankLo : Nat
  rankCount : Nat
  child : Bool
  bytes : List Byte
  /-- Position in the chunk's arrival order (R87). -/
  pos : Nat
deriving DecidableEq, Repr

/-- The result of a chunk: the bytes that leave, the root values before conversion, each element's
flags, the RANK_LO of an item whose sheaf record is malformed (R55) and whether a scaled value
missed (R218). -/
structure ChunkOut where
  bytes : List Byte
  values : List Num
  flags : List Flags
  malformed : Option Nat
  miss : Bool
deriving DecidableEq, Repr

/-- The node format: FP64 for FP64 groups, else FP32 (R67). -/
def nodeFmtOf (inFmt : Nat) : FloatFmt := if inFmt = 0x01 then .fp64 else .fp32

/-- The accumulator class of an operation and input format (R57). -/
def classOf (o : BinOp) (inFmt : Nat) : Nat :=
  if inFmt = 0x01 then 2 else if o = .sum then 0 else 1

/-- Bytes of the weight area of a chunk: its weights, padded to 32 bytes (R76). -/
def weightCount (elems rowLen : Nat) : Nat := ceilDiv elems (Nat.max 1 rowLen)
def weightArea (wFmt elems rowLen : Nat) : Nat :=
  ceilDiv (weightCount elems rowLen * (fmtBytes wFmt 1)) 32 * 32

/-- Bytes of an endpoint-form contribution (R146). -/
def endpointBytes (o : BinOp) (inFmt wFmt elems rowLen : Nat) : Nat :=
  if o.isLoc then elems * (if fmtBytes inFmt 1 = 8 then 16 else 8)
  else
    fmtBytes inFmt elems +
      (if o = .wsum then weightArea wFmt elems rowLen else if o = .axpy then 32 else 0)

/-- Bytes of a node-form contribution (R67). -/
def nodeBytes (inFmt elems : Nat) : Nat := elems * (if inFmt = 0x01 then 8 else 4)

/-- The size rule of a contribution: an exact byte count, or sheaf records of at most a count
(R146). -/
inductive SizeRule
  | exactly (n : Nat)
  | sheafUpTo (n : Nat)
deriving DecidableEq, Repr

def SizeRule.max : SizeRule → Nat
  | .exactly n => n
  | .sheafUpTo n => n

/-- The contribution size of a member entry for a chunk of `elems` elements (R146). -/
def itemSize (d : ChunkDef) (child : Bool) (ranks : Nat) : SizeRule :=
  let ep := endpointBytes d.op d.inFmt d.wFmt d.elems d.rowLen
  if !child then
    if 1 < ranks && !d.strict && d.op.nodeForm && !fmtIsInt d.inFmt then
      .exactly (nodeBytes d.inFmt d.elems)
    else .exactly ep
  else if fmtIsInt d.inFmt && d.op = .sum then .exactly (16 * d.elems)
  else
    match d.op with
    | .sum | .wsum | .axpy =>
      if d.strict then
        .sheafUpTo (d.elems * (match classOf d.op d.inFmt with | 0 => 48 | 1 => 88 | _ => 280))
      else if ranks = 1 && d.op ≠ .sum then .exactly ep
      else .exactly (nodeBytes d.inFmt d.elems)
    | .prod | .eagerSum => .exactly (nodeBytes d.inFmt d.elems)
    | .min | .max => .exactly (fmtBytes d.outFmt d.elems)
    | .minloc | .maxloc | .maxlocArrival => .exactly (16 * d.elems)
    | .and | .or | .xor | .copyFirst => .exactly (fmtBytes d.inFmt d.elems)

/-- Decode n elements of a format code. -/
def decodeCode (c n : Nat) (bs : List Byte) : List (Num × Flags) :=
  match fmtOf c with
  | some f => decodeElems f n bs
  | none => []

/-- The exact value 1. -/
def Num.one : Num := .fin false 1 0

/-- Each element of an endpoint contribution with its weight and the flags of the two reads
(R76, R77). In fast mode MX elements are dequantised under R49. -/
def endpointTerms (d : ChunkDef) (bs : List Byte) : List ((Num × Num) × Flags) :=
  let deq := fun (p : Num × Flags) =>
    if fmtIsMx d.inFmt && !d.strict then
      let q := dequantFast d.policy p.1
      (q.1, p.2 ||| q.2)
    else p
  let wf := if d.op = .axpy then (if d.inFmt = 0x01 then 0x01 else 0x02) else d.wFmt
  let area :=
    if d.op = .wsum then weightArea d.wFmt d.elems d.rowLen else if d.op = .axpy then 32 else 0
  let nw := if d.op = .wsum then weightCount d.elems d.rowLen else if d.op = .axpy then 1 else 0
  let ws := decodeCode wf nw (bs.take area)
  let xs := (decodeCode d.inFmt d.elems (bs.drop area)).map deq
  let row := if d.op = .axpy then Nat.max 1 d.elems else Nat.max 1 d.rowLen
  xs.zipIdx.map fun p =>
    let w := if nw = 0 then (Num.one, 0) else ws.getD (p.2 / row) (Num.zero false, 0)
    ((w.1, p.1.1), w.2 ||| p.1.2)

/-- The output bytes of values that a sum-like root converts once (R61, R67, R217, R218). -/
def finishRoot (d : ChunkDef) (vals : List (Num × Flags)) : ChunkOut :=
  let nums := vals.map Prod.fst
  if d.toBin then ⟨[], nums, vals.map Prod.snd, none, false⟩
  else
    let scaled := match d.outExp with
      | none => nums
      | some k => nums.map fun x =>
        match x with
        | .fin s m e => .fin s m (e + k)
        | y => y
    let pol := if d.outExp.isSome then .sat else d.policy
    match fmtOf d.outFmt with
    | none => ⟨[], nums, vals.map Prod.snd, none, false⟩
    | some f =>
      let enc := encodeElems f pol d.key d.elem0 scaled
      let miss := d.outExp.isSome && enc.2.any (fun fl => fl &&& satFlag != 0)
      ⟨enc.1, nums, (vals.zip enc.2).map fun p => p.1.2 ||| p.2, none, miss⟩

/-- Values already in the node format, as they travel up (R67). -/
def nodeOut (d : ChunkDef) (vals : List (Num × Flags)) : ChunkOut :=
  let f := nodeFmtOf d.inFmt
  ⟨(encodeElems (.flt f) .sat none 0 (vals.map Prod.fst)).1, vals.map Prod.fst,
    vals.map Prod.snd, none, false⟩

/-- The columns of a fast-mode reduction: each item decoded once (R66, R67, R473). -/
inductive Col
  | rank (r : Nat) (xs : List ((Num × Num) × Flags))
  | node (level index : Nat) (xs : List (Num × Flags))
deriving DecidableEq, Repr

def colOf (d : ChunkDef) (it : Item) : Col :=
  let lv := ceilLog2 it.rankCount
  if it.rankCount = 1 && (!it.child || d.op = .wsum || d.op = .axpy) then
    .rank it.rankLo (endpointTerms d it.bytes)
  else
    .node lv (it.rankLo >>> lv) (decodeElems (.flt (nodeFmtOf d.inFmt)) d.elems it.bytes)

/-- Input i of a column for the tree, and the flags of its reads. -/
def Col.at (c : Col) (i : Nat) : TreeIn × Flags :=
  match c with
  | .rank r xs =>
    let p := xs.getD i ((Num.zero false, Num.zero false), 0)
    (.rank r p.1.1 p.1.2, p.2)
  | .node l j xs =>
    let p := xs.getD i (Num.zero false, 0)
    (.node l j p.1, p.2)

def orAll (fs : List Flags) : Flags := fs.foldl (· ||| ·) 0

/-- One element of a fast SUM, WSUM, AXPY or PROD (R63, R84). -/
def fastElem (d : ChunkDef) (cols : List Col) (i : Nat) : Num × Flags :=
  let ins := cols.map fun c => c.at i
  let level := if d.root then Nat.max 1 (ceilLog2 d.ranks) else ceilLog2 d.spanCount
  let index := if d.root then 0 else d.spanLo >>> level
  let fl := orAll (ins.map Prod.snd)
  match treeNode (d.op = .prod) (nodeFmtOf d.inFmt) d.policy (ins.map Prod.fst) level index with
  | some r => (r.1, fl ||| r.2)
  | none => (.zero false, fl)

/-- Items in arrival order (R87). -/
def byArrival (its : List Item) : List Item :=
  sortBy (fun a b => decide (a.pos ≤ b.pos)) its

/-- One element of EAGER-SUM (R91). -/
def eagerElem (d : ChunkDef) (cols : List Col) (i : Nat) : Num × Flags :=
  let ins := cols.map fun c => c.at i
  let xs := ins.map fun t =>
    match t.1 with
    | .node _ _ x => x
    | .rank _ _ x => x
  let fl := orAll (ins.map Prod.snd)
  match eagerFold (nodeFmtOf d.inFmt) d.policy xs with
  | some r => (r.1, fl ||| r.2)
  | none => (.zero false, fl)

/-- A fast-mode sum-like chunk (R63 to R67, R84, R91, R473). -/
def reduceFast (d : ChunkDef) (its : List Item) : ChunkOut :=
  if (d.op = .wsum || d.op = .axpy) && !d.root && d.spanCount = 1 then
    ⟨(its.map Item.bytes).flatten, [], List.replicate d.elems 0, none, false⟩
  else
    let vals :=
      if d.op = .eagerSum then
        let cols := (byArrival its).map (colOf d)
        (List.range d.elems).map (eagerElem d cols)
      else
        let cols := its.map (colOf d)
        (List.range d.elems).map (fastElem d cols)
    if d.root then finishRoot d vals else nodeOut d vals

/-- The exact addends of one strict item, with flags; none where a record is malformed (R55, R58,
R59). -/
def strictCol (d : ChunkDef) (it : Item) : Option (List (Exact × Flags)) :=
  let cls := classOf d.op d.inFmt
  if it.child then
    match parseSheaf d.sheafVer cls d.elems it.bytes with
    | some (as, []) => some (as.map fun a => (a, 0))
    | _ => none
  else
    some ((endpointTerms d it.bytes).map fun t =>
      if d.op = .sum then (exactOf cls t.1.2, t.2)
      else
        let p := mulNum t.1.1 t.1.2
        let w := if cls = 2 then windowProduct p else (p, 0)
        (exactOf cls w.1, t.2 ||| w.2 ||| (if p.isNan then nanSeen else 0)))

/-- Add columns element by element. -/
def mergeCols (acc col : List (Exact × Flags)) : List (Exact × Flags) :=
  (acc.zip col).map fun p => (p.1.1.merge p.2.1, p.1.2 ||| p.2.2)

/-- The first item whose records are malformed. -/
def malformedItem (d : ChunkDef) : List Item → Option Nat
  | [] => none
  | it :: its => if (strictCol d it).isNone then some it.rankLo else malformedItem d its

/-- A strict SUM, WSUM or AXPY chunk (R56 to R61). -/
def reduceStrict (d : ChunkDef) (its : List Item) : ChunkOut :=
  match malformedItem d its with
  | some r => ⟨[], [], [], some r, false⟩
  | none =>
    let start : List (Exact × Flags) := List.replicate d.elems (Exact.empty, 0)
    let accs := its.foldl (fun acc it => mergeCols acc ((strictCol d it).getD [])) start
    let cls := classOf d.op d.inFmt
    if d.root then
      finishRoot d (accs.map fun a =>
        let v := strictValue cls a.1
        (v.1, a.2 ||| v.2 ||| (if v.1.isNan then nanSeen else 0)))
    else
      ⟨accs.flatMap fun a => sheafRecord d.sheafVer cls a.1, [], accs.map Prod.snd, none, false⟩

/-- An integer SUM chunk (R70). -/
def reduceInt (d : ChunkDef) (its : List Item) : ChunkOut :=
  let fmt := (fmtOf d.inFmt).getD (.int 64)
  let cols := its.map fun it =>
    if it.child then (unpackCodes 128 d.elems it.bytes).map (signed 128)
    else (unpackCodes fmt.width d.elems it.bytes).map (decodeInt fmt)
  let sums := (List.range d.elems).map fun i => (cols.map fun c => c.getD i 0).sum
  if d.root then
    let out := (fmtOf d.outFmt).getD (.int 64)
    let r := sums.map (convertInt out)
    ⟨packCodes out.width (r.map Prod.fst), sums.map numOfInt, r.map Prod.snd, none, false⟩
  else
    ⟨packCodes 128 (sums.map (unsigned 128)), sums.map numOfInt, List.replicate d.elems 0, none,
      false⟩

/-- MIN and MAX (R80, R81): the winner, or a NaN. -/
def reduceMinMax (d : ChunkDef) (its : List Item) : ChunkOut :=
  let cols := its.map fun it =>
    (it, decodeCode (if it.child then d.outFmt else d.inFmt) d.elems it.bytes)
  let vals := (List.range d.elems).map fun i =>
    let cs := cols.map fun c =>
      let p := c.2.getD i (Num.zero false, 0)
      (({ x := p.1, code := 0, idx := 0, rank := c.1.rankLo, pos := c.1.pos } : Cand), p.2)
    match selectCand (d.op = .max) false (cs.map Prod.fst) with
    | some c => (c.x, orAll (cs.map Prod.snd) ||| (if c.x.isNan then nanSeen else 0))
    | none => (Num.zero false, 0)
  match fmtOf d.outFmt with
  | none => ⟨[], [], [], none, false⟩
  | some f =>
    let enc := encodeElems f d.policy none 0 (vals.map Prod.fst)
    ⟨enc.1, vals.map Prod.fst, (vals.zip enc.2).map fun p => p.1.2 ||| p.2, none, false⟩

/-- Candidate i of a location contribution or child record (R78, R79). -/
def locCand (d : ChunkDef) (it : Item) (i : Nat) : Cand × Flags :=
  let f := (fmtOf d.inFmt).getD (.int 64)
  let big := it.child || decide (f.width = 64)
  let rec' := (it.bytes.drop (i * (if big then 16 else 8))).take (if big then 16 else 8)
  let vb := if big then 8 else 4
  let code := leNat (rec'.take vb) % 2 ^ f.width
  let idx := leNat ((rec'.drop vb).take 4)
  let rank := if it.child then leNat ((rec'.drop 12).take 2) else it.rankLo
  let p := ((decodeElems f 1 (leBytes (ceilDiv f.width 8) code)).head?).getD (Num.zero false, 0)
  ({ x := p.1, code := code, idx := idx, rank := rank, pos := it.pos }, p.2)

/-- MINLOC, MAXLOC and MAXLOC-ARRIVAL (R78, R79, R82, R90). -/
def reduceLoc (d : ChunkDef) (its : List Item) : ChunkOut :=
  let f := (fmtOf d.inFmt).getD (.int 64)
  let one := fun i =>
    let cs := its.map fun it => locCand d it i
    match selectCand (d.op ≠ .minloc) (d.op = .maxlocArrival) (cs.map Prod.fst) with
    | none => (([] : List Byte), Num.zero false, 0)
    | some c =>
      let enc := encodeElems f d.policy none 0 [c.x]
      let code := leNat enc.1
      let bytes :=
        if !d.root then leBytes 8 code ++ leBytes 4 c.idx ++ leBytes 2 c.rank ++ leBytes 2 0
        else if f.width = 64 then leBytes 8 code ++ leBytes 4 c.idx ++ leBytes 4 0
        else leBytes 4 code ++ leBytes 4 c.idx
      (bytes, c.x, orAll (cs.map Prod.snd) ||| (if c.x.isNan then nanSeen else 0)
        ||| orAll enc.2)
  let rs := (List.range d.elems).map one
  ⟨rs.flatMap fun r => r.1, rs.map fun r => r.2.1, rs.map fun r => r.2.2, none, false⟩

/-- AND, OR and XOR on strings (R86). -/
def reduceBits (d : ChunkDef) (its : List Item) : ChunkOut :=
  let f := fun (a b : Byte) =>
    match d.op with
    | .and => a &&& b
    | .or => a ||| b
    | _ => a ^^^ b
  let bytes := match its with
    | [] => []
    | it :: rest => rest.foldl (fun acc x => (acc.zip x.bytes).map fun p => f p.1 p.2) it.bytes
  ⟨bytes, [], List.replicate d.elems 0, none, false⟩

/-- COPY-FIRST (R89): the first item in arrival order, its subnormal codes flushed (R75 F). -/
def reduceCopy (d : ChunkDef) (its : List Item) : ChunkOut :=
  match byArrival its, fmtOf d.inFmt with
  | it :: _, some f =>
    let r := passElems f d.elems it.bytes
    ⟨r.1, [], r.2, none, false⟩
  | _, _ => ⟨[], [], [], none, false⟩

/-- The result of one chunk. -/
def reduceChunk (d : ChunkDef) (its : List Item) : ChunkOut :=
  match d.op with
  | .and | .or | .xor => reduceBits d its
  | .copyFirst => reduceCopy d its
  | .min | .max => reduceMinMax d its
  | .minloc | .maxloc | .maxlocArrival => reduceLoc d its
  | .sum =>
    if fmtIsInt d.inFmt then reduceInt d its
    else if d.strict then reduceStrict d its else reduceFast d its
  | .wsum | .axpy => if d.strict then reduceStrict d its else reduceFast d its
  | .prod | .eagerSum => reduceFast d its

end Sys2Proof.Machine
end

