-- ==== Sys2Proof/Config.lean ====
section
/-! DEFINITION. What the manual leaves open: free values. None has a body, so that no claim can rest
on a value of one (the assumption log names each). -/

namespace Sys2Proof.Config

/-- Where a manager's search for a free buffer, owner record or instance slot begins (R260; log 6). -/
opaque pick : Nat → Nat

/-- A byte whose content the manual leaves undefined (log 9). -/
opaque freeByte : Nat → Byte

/-- A byte of a store whose layout the manual does not give: store (0 cluster store, 1 core store, 2 table
area of a stack), the state's count of free choices, and the byte's number (R438; log 42). -/
opaque storeByte : Nat → Nat → Nat → Byte

/-- The drill program the hub chooses for a run that the loaded table does not name (R472; log 10). -/
opaque programOf : Nat → Nat

/-- µs since the last power-good, as the power sequencer keeps them (R403; the manual names the clock and
no command brings its value; log 19). -/
opaque powerUs : Nat → Nat

/-- DETAIL of a HALT record of a step other than 12 (R404 states none; log 19). -/
opaque haltDetail : Nat → Nat → Nat

/-- The 4-byte tag of extension i of measurement chain c (R416 gives no values; log 20). -/
opaque chainTag : Nat → Nat → List Byte

/-- The bytes that a record without a stated layout is measured as: fuse record 0, kept-out list 1,
straps 2 (R416; log 20). -/
opaque measured : Nat → List Nat → List Byte

/-- Whether an SLH-DSA-SHAKE-256s signature verifies: public key, message, signature (R407; log 8). -/
opaque slhVerify : List Byte → List Byte → List Byte → Bool

/-- The code of a tiller operation with an operand that is a NaN or an infinity: operation and operand
codes (R179 states no result; log 18). -/
opaque tillerOf : Nat → Nat → Nat → Nat → Nat

end Sys2Proof.Config
end

