-- ==== Sys2Proof/Machine/Addr.lean ====
section
/-! DEFINITION. The management address map (R437): where each register and table word lies, and the
word an address reads before anything has been written to it. -/

namespace Sys2Proof.Machine

/-! ## Global block -/
def aIslandSel : Nat := 0x0200
def aIslandStat : Nat := 0x0208
def aStrap : Nat := 0x0300
def aRole : Nat := 0x0310
def aRoleCmd : Nat := 0x0318
def aBoot : Nat := 0x0400
def aEpoch : Nat := 0x0408
def aTime : Nat := 0x0410
def aAlert : Nat := 0x0418
def aTherm : Nat := 0x0420
def aSensor (n : Nat) : Nat := 0x0500 + 8 * n
def aStage (p : Nat) : Nat := 0x0800 + 128 * p
def aCapId : Nat := 0x1000
def aCapSizes : Nat := 0x1008
def aCapAvail : Nat := 0x1010
/-- The status word that GLB_ISLAND_STAT shows when island i is selected (R22): kept at an address
above the 48-bit map. -/
def aIsland (i : Nat) : Nat := 0x1_0000_0000_0000 + 8 * i

/-! ## SEC, HTC -/
def aFuse : Nat := 0x0110_0000
def aSecCmd : Nat := 0x0110_0220
def aSecStat : Nat := 0x0110_0228
def aHtcStat : Nat := 0x0120_0000

/-! ## Ports, lanes, forwarding -/
def aPrt (p off : Nat) : Nat := 0x1000_0000 + 0x1_0000 * p + off
def aLinkCfg (p : Nat) : Nat := aPrt p 0x0000
def aLinkStat (p : Nat) : Nat := aPrt p 0x0008
def aLinkPeer (p : Nat) : Nat := aPrt p 0x0010
def aLinkCmd (p : Nat) : Nat := aPrt p 0x0018
def aRetryStat (p : Nat) : Nat := aPrt p 0x0020
def aCable (p : Nat) : Nat := aPrt p 0x0028
def aRetrySel (p : Nat) : Nat := aPrt p 0x0030
def aCredit (p f : Nat) : Nat := aPrt p (0x0200 + 8 * f)
def aPool (p : Nat) : Nat := aPrt p 0x0280
def aCmarkThr (p f : Nat) : Nat := aPrt p (0x0400 + 8 * (f - 8))
def aFence (p j : Nat) : Nat := aPrt p (0x1000 + 8 * j)
def aLane (l off : Nat) : Nat := aPrt l off
def aLaneStat (l : Nat) : Nat := aPrt l 0x8000
def aLaneTest (l : Nat) : Nat := aPrt l 0x8008
def aLaneCmd (l : Nat) : Nat := aPrt l 0x8010
def aPrbsErr (l : Nat) : Nat := aPrt l 0x8018
def aFwdCfg : Nat := 0x2000_0000
def aFwdEpoch : Nat := 0x2000_0008
def aFwdCmd : Nat := 0x2000_0010
def aFwdStat : Nat := 0x2000_0018
def aFwdEntry (i : Nat) : Nat := 0x2010_0000 + 8 * i
def aEcmp (s w : Nat) : Nat := 0x2040_0000 + 128 * s + 8 * w

/-! ## Granary, scheduler, policers -/
def aGrnShare : Nat := 0x3000_0008
def aGleanCfg : Nat := 0x3000_0010
def aGleanStat : Nat := 0x3000_0018
def aPeekPtr : Nat := 0x3000_0020
def aGrnErr (w : Nat) : Nat := 0x3000_0028 + 8 * w
def aGrnClass (k : Nat) : Nat := 0x3000_0100 + 8 * k
def aQuota (plot f : Nat) : Nat := 0x3010_0000 + 8 * (16 * plot + f)
def aBufStatus (row : Nat) : Nat := 0x3080_0000 + 8 * row
def aOwnerRec (r w : Nat) : Nat := 0x3100_0000 + 128 * r + 8 * w
def aSchPort (p : Nat) : Nat := 0x3800_0000 + 0x1000 * p
def aSch (p f w : Nat) : Nat := 0x3800_0000 + 0x1000 * p + 0x0100 + 32 * f + 8 * w
def aPol (p i w : Nat) : Nat := 0x3C00_0000 + 0x1000 * p + 32 * i + 8 * w

/-! ## Clusters -/
def aCluster (n off : Nat) : Nat := 0x4000_0000 + 0x0400_0000 * n + off
def aMember (n i w : Nat) : Nat := aCluster n (0x0110_0000 + 32 * i + 8 * w)
def aAdv (n p : Nat) : Nat := aCluster n (0x0120_0000 + 8 * p)
def aCsStatus (n c i : Nat) : Nat := aCluster n (0x0130_1000 + 8 * (1024 * c + i))
def aHubWatch (n : Nat) : Nat := aCluster n 0x0140_0000
def aHubTime (n : Nat) : Nat := aCluster n 0x0140_0008
def aDrl (u off : Nat) : Nat := aCluster (u / 9) (0x0200_0000 + 0x1_0000 * (u % 9) + off)

/-! ## Binder, stacks -/
def aGroup (g w : Nat) : Nat := 0x7000_0000 + 64 * g + 8 * w
def aGroupDir (g : Nat) : Nat := 0x7040_0000 + 8 * g
def aGroupCmd : Nat := 0x7080_0000
def aGroupStat : Nat := 0x7080_0008
def aOscale (g w : Nat) : Nat := 0x7100_0000 + 128 * g + 8 * w
def aPlot (p w : Nat) : Nat := 0x7200_0000 + 64 * p + 8 * w
def aPlotCmd : Nat := 0x7280_0000
def aPlotStat : Nat := 0x7280_0008
def aStack (n off : Nat) : Nat := 0x8000_0000 + 0x0100_0000 * n + off
def aTilCfg (n : Nat) : Nat := aStack n 0x0000
def aTilCmd (n : Nat) : Nat := aStack n 0x0008
def aTilArg (n : Nat) : Nat := aStack n 0x0010
def aTilStat (n : Nat) : Nat := aStack n 0x0018
def aTilRecipe (n i : Nat) : Nat := aStack n (0x0100 + 8 * i)
def aVrd (n off : Nat) : Nat := aStack n (0x0040_0000 + off)
def aVrdCmd (n : Nat) : Nat := aVrd n 0x0008
def aVrdArg0 (n : Nat) : Nat := aVrd n 0x0010
def aVrdArg1 (n : Nat) : Nat := aVrd n 0x0018
def aVrdStat (n : Nat) : Nat := aVrd n 0x0020
/-- Verdict entries exist once per device and show in every stack's block; stack 0's addresses are
their home. -/
def aVerdict (p w : Nat) : Nat := aVrd 0 (0x0001_0000 + 64 * p + 8 * w)
def aFbk (n off : Nat) : Nat := aStack n (0x0080_0000 + off)
def aTurnCfg (n : Nat) : Nat := aFbk n 0x0000
def aTurnCmd (n : Nat) : Nat := aFbk n 0x0008
def aTurnStat (n : Nat) : Nat := aFbk n 0x0010
def aTurn (n t w : Nat) : Nat := aFbk n (0x0008_0000 + 32 * t + 8 * w)
/-- Word w of field-book entry e (R165). -/
def aEntry (n e w : Nat) : Nat := aFbk n (0x0010_0000 + 64 * e + 8 * w)
def aHyp (n h w : Nat) : Nat := aFbk n (0x0060_0000 + 128 * h + 8 * w)
def aLanding (n r w : Nat) : Nat := aFbk n (0x0070_0000 + 16 * r + 8 * w)

/-! ## YLD, REC, FLT, EVT, CNT -/
def aYld (off : Nat) : Nat := 0xA000_0000 + off
def aRec (off : Nat) : Nat := 0xA100_0000 + off
def aFltCfg : Nat := 0xA200_0000
def aFltCmd : Nat := 0xA200_0008
def aFltStat : Nat := 0xA200_0010
def aFltCore (u : Nat) : Nat := 0xA200_0100 + 8 * u
def aLedger (r w : Nat) : Nat := 0xA201_0000 + 32 * r + 8 * w
def aEvt (off : Nat) : Nat := 0xA300_0000 + off
def aEvtEntry (seq w : Nat) : Nat := aEvt (0x1_0000 + 32 * (seq % 8192) + 8 * w)
def aCnt (g i x : Nat) : Nat := 0xA400_0000 + 0x0100_0000 * g + 512 * i + 16 * x
def aSnapCmd : Nat := 0xA408_0000
def aSnapStat : Nat := 0xA408_0008
def aSnapCfg : Nat := 0xA408_0010
def aSnapGroup (g w : Nat) : Nat := 0xA408_0100 + 16 * g + 8 * w

/-- Counter slots of group g, as (instances, counters) (R449). -/
def cntShape : Nat → Nat × Nat
  | 0 => (1, 5) | 1 => (512, 19) | 2 => (8192, 11) | 3 => (8192, 4) | 4 => (512, 4)
  | 5 => (12, 29) | 6 => (20, 13) | 7 => (4096, 1) | 8 => (12, 5)
  | _ => (0, 0)

/-- Width of counter x of group g (R449). -/
def cntWidth (g x : Nat) : Nat :=
  match g with
  | 1 | 4 => 48
  | 2 => if x ≤ 7 then 48 else 64
  | 3 => if x ≤ 2 then 48 else 64
  | _ => 64

/-- Whether a is base + stride × i + 8 × w for i below n; answers i. -/
def slotOf (a base stride n w : Nat) : Option Nat :=
  if base + 8 * w ≤ a ∧ a < base + stride * n ∧ (a - base) % stride = 8 * w then
    some ((a - base) / stride)
  else none

/-- Furrow weights of R286. -/
def weightOf (f : Nat) : Nat :=
  match f with
  | 0 | 1 => 2 | 2 | 3 => 32 | 4 | 5 | 6 => 8 | 7 => 0
  | _ => if f < 14 then 16 else 4

/-- The reset word of a port's or lane's register (offset within its 64 KiB block). -/
def resetPrt (off : Nat) : Word :=
  if off = 0x0000 then
    bitsAt 55 51 1 ||| bitsAt 50 50 1 ||| bitsAt 47 40 2 ||| bitsAt 31 16 0x1F4 ||| bitsAt 15 0 0xA
  else if off = 0x0008 then bitsAt 63 60 1
  else if 0x0400 ≤ off ∧ off < 0x0440 ∧ off % 8 = 0 then bitsAt 47 24 0x400 ||| bitsAt 23 0 0x100
  else if off = 0x8000 then bitsAt 63 60 1 ||| bitsAt 59 56 1
  else 0

/-- The reset word of a scheduler register (offset within its 4 KiB block, R290). -/
def resetSch (off : Nat) : Word :=
  if 0x0100 ≤ off ∧ off < 0x0300 ∧ off % 8 = 0 then
    let f := (off - 0x0100) / 32
    let w := (off - 0x0100) % 32 / 8
    if f = 7 then 0
    else if w = 0 then
      bitsAt 63 56 (weightOf f) ||| bitsAt 39 20 0xFFFFF
        ||| bitsAt 19 0 (if f = 0 ∨ f = 1 ∨ f = 6 then 0xFFFFF else 0)
    else if w = 1 then bitsAt 47 24 0x10000 ||| bitsAt 23 0 0x10000
    else if w = 3 ∧ 14 ≤ f then bitsAt 31 16 0x400 ||| bitsAt 15 0 0x100
    else 0
  else 0

/-- The reset word of a cluster's register (offset within its 64 MiB block). -/
def resetCluster (off : Nat) : Word :=
  if 0x0110_0000 ≤ off ∧ off < 0x0110_0000 + 32 * 16384 then
    if off % 32 = 0 then bitsAt 51 35 1 else 0
  else if 0x0120_0000 ≤ off ∧ off < 0x0120_0000 + 8 * 4096 ∧ off % 8 = 0 then
    bitsAt 63 63 1 ||| bitsAt 62 59 2 ||| bitsAt 58 47 0x20 ||| bitsAt 31 16 0xFFFF
      ||| bitsAt 15 0 0xFFFF
  else 0

/-- The reset word of a stack's register (offset within its 16 MiB block). -/
def resetStack (n off : Nat) : Word :=
  if off = 0 then 0x000C_0100
  else if off = 0x0080_0000 then 0x0080_0064
  else if n = 0 ∧ 0x0041_0000 ≤ off ∧ off < 0x0041_0000 + 64 * 4096 then
    if off % 64 = 0 then bitsAt 60 60 1 ||| bitsAt 59 57 1 ||| bitsAt 56 54 1
    else if off % 64 = 16 then bitsAt 63 32 0x7D0
    else 0
  else 0

/-- The reset word of a group entry's words and of an output-scale history (R134, R229). -/
def resetBnd (off : Nat) : Word :=
  if off < 0x40_0000 then
    match off % 64 / 8 with
    | 1 => bitsAt 23 16 1
    | 2 => bitsAt 63 47 1 ||| bitsAt 46 30 1
    | 3 => bitsAt 63 40 0x0F4240 ||| bitsAt 27 24 8
    | _ => 0
  else if 0x100_0000 ≤ off ∧ off < 0x100_0000 + 128 * 65536 then
    if off % 128 = 64 then bitsAt 45 43 1 else 0
  else if off = 0x200_0000 then bitsAt 63 62 1
  else 0

/-- STEPPING of CAP_ID (R5 gives it per die; log 1). -/
def stepping : Nat := 1

/-- The word an address reads at reset (R437 and the register maps; log 1 for what no rule gives). -/
def resetWord (a : Nat) : Word :=
  if a < 0x0100_0000 then
    if a = aCapId then bitsAt 63 48 0x7200 ||| bitsAt 47 40 stepping ||| bitsAt 39 32 1
    else if a = aCapSizes then 0x0C6C_600C_2001_0440
    else if a = aBoot then bitsAt 63 60 1
    else if a = aRole then bitsAt 60 43 0x3FFFF
    else if 0x0500 + 8 * 61 ≤ a ∧ a < 0x0700 ∧ a % 8 = 0 then bitsAt 63 62 3
    else 0
  else if a < 0x1000_0000 then 0
  else if a < 0x1200_0000 then resetPrt ((a - 0x1000_0000) % 0x1_0000)
  else if a < 0x3000_0000 then
    if a = aFwdCfg then 0x9C10_03E8_0000_0000 else 0
  else if a < 0x3800_0000 then
    if a = aGleanCfg then
      bitsAt 63 63 1 ||| bitsAt 62 47 0x3E8 ||| bitsAt 43 24 0x64 ||| bitsAt 19 0 0x4E20
    else if a = aGleanStat then bitsAt 63 63 1
    else 0
  else if a < 0x3C00_0000 then
    if a < 0x3820_0000 then resetSch ((a - 0x3800_0000) % 0x1000) else 0
  else if a < 0x4000_0000 then
    let off := (a - 0x3C00_0000) % 0x1000
    if a < 0x3C20_0000 ∧ off < 0x200 ∧ off % 32 = 8 then bitsAt 47 24 0x2028 else 0
  else if a < 0x7000_0000 then resetCluster ((a - 0x4000_0000) % 0x0400_0000)
  else if a < 0x8000_0000 then resetBnd (a - 0x7000_0000)
  else if a < 0x9000_0000 then
    resetStack ((a - 0x8000_0000) / 0x0100_0000) ((a - 0x8000_0000) % 0x0100_0000)
  else if a = aYld 0x0000 then bitsAt 63 63 1 ||| bitsAt 62 55 0x64
  else if a = aYld 0x0008 then bitsAt 63 46 0x3FFFF
  else if a = aRec 0x0020 ∨ a = aRec 0x0028 then 0xFFFF_FFFF_FFFF_FFFF
  else if a = aFltCfg then bitsAt 63 63 1 ||| bitsAt 62 55 0x18
  else if aFltCore 0 ≤ a ∧ a < aFltCore 108 ∧ a % 8 = 0 then bitsAt 55 32 0xFFFFFF
  else if a = aSnapCfg then bitsAt 63 48 0x3C
  else if 0xA400_0000 ≤ a ∧ a < 0xAD00_0000 ∧ a % 16 = 8 then
    let g := (a - 0xA400_0000) / 0x0100_0000
    let off := (a - 0xA400_0000) % 0x0100_0000
    let x := off % 512 / 16
    if off / 512 < (cntShape g).1 ∧ x < (cntShape g).2 then bitsAt 63 56 (cntWidth g x) else 0
  else 0

end Sys2Proof.Machine
end

