-- ==== Sys2Proof/Machine/Packet.lean ====
section
/-! DEFINITION. Packet headers, trailers and credits: the layouts of R95 to R104 and R106. -/

namespace Sys2Proof.Machine

def Header.version (h : Header) : Nat := bitsOf h.w0 63 60
def Header.type (h : Header) : Nat := bitsOf h.w0 59 54
def Header.furrow (h : Header) : Nat := bitsOf h.w0 53 50
def Header.cmark (h : Header) : Nat := bitsOf h.w0 49 48
def Header.hop (h : Header) : Nat := bitsOf h.w0 46 42
def Header.plot (h : Header) : Nat := bitsOf h.w0 41 30
def Header.length (h : Header) : Nat := bitsOf h.w0 29 16
def Header.flags (h : Header) : Nat := bitsOf h.w0 15 0
def Header.first (h : Header) : Bool := bitOf h.w0 15
def Header.last (h : Header) : Bool := bitOf h.w0 14
def Header.dropEligible (h : Header) : Bool := bitOf h.w0 13
def Header.fallback (h : Header) : Bool := bitOf h.w0 12
def Header.sheaf (h : Header) : Bool := bitOf h.w0 11
def Header.dst (h : Header) : Nat := bitsOf h.w1 63 46
def Header.src (h : Header) : Nat := bitsOf h.w1 45 28
def Header.key (h : Header) : Nat := bitsOf h.w1 27 12
def Header.chunk (h : Header) : Nat := bitsOf h.w1 23 0
def Header.group (h : Header) : Nat := bitsOf h.w2 63 48
def Header.runNo (h : Header) : Nat := bitsOf h.w2 47 32
def Header.rank (h : Header) : Nat := bitsOf h.w2 31 16
def Header.tag (h : Header) : Nat := bitsOf h.w2 15 0
def Header.signature (h : Header) : Nat := bitsOf h.w3 63 32
def Header.scaleEpoch (h : Header) : Nat := bitsOf h.w3 31 16
def Header.part (h : Header) : Nat := bitsOf h.w3 15 8
def Header.address (h : Header) : Nat := h.w2.toNat
def Header.user (h : Header) : Nat := h.w3.toNat

def Header.setCmark (h : Header) (v : Nat) : Header := { h with w0 := putBits h.w0 49 48 v }
def Header.setHop (h : Header) (v : Nat) : Header := { h with w0 := putBits h.w0 46 42 v }
def Header.setDropEligible (h : Header) : Header := { h with w0 := putBits h.w0 13 13 1 }

/-- Packet types of R101. -/
def tWrite : Nat := 0x01
def tReadRequest : Nat := 0x02
def tReadResponse : Nat := 0x03
def tTransportAck : Nat := 0x04
def tReap : Nat := 0x10
def tReapDeferred : Nat := 0x11
def tReapExpress : Nat := 0x12
def tSow : Nat := 0x14
def tSowExpress : Nat := 0x15
def tSowRequest : Nat := 0x16
def tCompletion : Nat := 0x18
def tVerdict : Nat := 0x19
def tTurnover : Nat := 0x1C
def tFieldOrder : Nat := 0x20
def tOrderResponse : Nat := 0x21
def tYieldMap : Nat := 0x22

/-- The types R101 lists. -/
def typeKnown (t : Nat) : Bool :=
  (0x01 ≤ t && t ≤ 0x04) || (0x10 ≤ t && t ≤ 0x12) || (0x14 ≤ t && t ≤ 0x16)
    || t == 0x18 || t == 0x19 || t == 0x1C || (0x20 ≤ t && t ≤ 0x22)

/-- Collective layout (R101). -/
def typeCollective (t : Nat) : Bool := 0x10 ≤ t && t ≤ 0x19

/-- The furrows that are legal for a type (R101). -/
def furrowLegal (t f : Nat) : Bool :=
  match t with
  | 0x01 | 0x02 | 0x03 | 0x04 => 8 ≤ f && f ≤ 15
  | 0x10 | 0x16 => f == 2
  | 0x11 => f == 4
  | 0x12 | 0x15 => f == 6
  | 0x14 => f == 3
  | 0x18 | 0x19 => f == 1
  | 0x1C => f == 5
  | 0x20 | 0x21 | 0x22 => f == 0
  | _ => false

/-- Furrows 0 to 6 and 8 to 13 (R106). -/
def lossless (f : Nat) : Bool := f ≤ 6 || (8 ≤ f && f ≤ 13)

/-- Credits of a packet: ⌈(40 + LENGTH) ÷ 256⌉ (R106). -/
def creditsOf (len : Nat) : Nat := ceilDiv (40 + len) 256

/-- B of R281: header, payload and trailer. -/
def wireBytes (len : Nat) : Nat := 40 + len

/-- The good trailer word (R103). -/
def tailGood : Nat := 0x0F00_0000

/-- A bad-tail trailer word: reason and HOP (R103, R118). -/
def tailBad (reason hop : Nat) : Nat := 0xF000_0000 + reason * 2 ^ 16 + (hop % 32) * 2 ^ 11

/-- Whether a trailer's second word is a bad-tail mark: any code but 0x0F (R103). -/
def tailMarked (t : Nat) : Bool := (t >>> 24) % 256 != 0x0F

/-- Header bytes in wire order (R95). -/
def Header.bytes (h : Header) : List Byte := beOfWords [h.w0, h.w1, h.w2, h.w3]

/-- The header with the fields taken as zero in the CRC (R104). -/
def Header.forCrc (h : Header) : Header :=
  { h with w0 := putBits (putBits (putBits h.w0 49 48 0) 46 42 0) 13 13 0 }

/-- The CRC of a packet (R104). -/
def packetCrc (h : Header) (payload : List Byte) : Nat := crc32c (h.forCrc.bytes ++ payload)

/-- What of BAD_LENGTH the header alone shows (R105 check 4). -/
def lengthBad (h : Header) : Bool :=
  let t := h.type
  let n := h.length
  8192 < n || (typeCollective t && n % 8 != 0)
    || ((t == tWrite || t == tReadResponse) && n == 0)
    || ((t == tReadRequest || t == tTransportAck) && 64 < n)

/-- BAD_ALIGN (R105 check 6). -/
def alignBad (h : Header) : Bool :=
  !typeCollective h.type && (h.address % 8 != 0 || 2 ^ 64 < h.address + h.length)

/-- A header word 0. -/
def headWord (version type furrow plot length flags : Nat) : Word :=
  bitsAt 63 60 version ||| bitsAt 59 54 type ||| bitsAt 53 50 furrow ||| bitsAt 41 30 plot
    ||| bitsAt 29 16 length ||| bitsAt 15 0 flags

/-- A data-layout header (R97, R99). -/
def dataHeader (version type furrow plot length flags dst src key : Nat) (addr user : Word) :
    Header :=
  ⟨headWord version type furrow plot length flags,
    bitsAt 63 46 dst ||| bitsAt 45 28 src ||| bitsAt 27 12 key, addr, user⟩

/-- A collective header (R97, R98). -/
def collHeader (version type furrow plot length flags dst src chunk group runNo rank tag sig scale
    part : Nat) : Header :=
  ⟨headWord version type furrow plot length flags,
    bitsAt 63 46 dst ||| bitsAt 45 28 src ||| bitsAt 23 0 chunk,
    bitsAt 63 48 group ||| bitsAt 47 32 runNo ||| bitsAt 31 16 rank ||| bitsAt 15 0 tag,
    bitsAt 63 32 sig ||| bitsAt 31 16 scale ||| bitsAt 15 8 part⟩

def flagFirst : Nat := 2 ^ 15
def flagLast : Nat := 2 ^ 14
def flagFallback : Nat := 2 ^ 12
def flagSheaf : Nat := 2 ^ 11

end Sys2Proof.Machine
end

