-- ==== Sys2Proof/Machine/Table.lean ====
section
/-! DEFINITION. Sparse tables and memories: a list of (key, value) pairs with keys strictly rising
and no pair whose value is the one an unlisted key reads as, so that equal contents are equal data. -/

namespace Sys2Proof.Machine

/-- A sparse table from numbers to values; which value an unlisted key holds is said at each use. -/
abbrev Tbl (α : Type) := List (Nat × α)

/-- The value at a key; d is what an unlisted key holds. -/
def tget {α : Type} (d : α) : Tbl α → Nat → α
  | [], _ => d
  | (k, v) :: t, i => if i = k then v else tget d t i

/-- Remove a key. -/
def tdel {α : Type} : Tbl α → Nat → Tbl α
  | [], _ => []
  | (k, v) :: t, i => if i = k then tdel t i else (k, v) :: tdel t i

/-- Insert or replace a key, keeping keys rising. -/
def tins {α : Type} : Tbl α → Nat → α → Tbl α
  | [], i, x => [(i, x)]
  | (k, v) :: t, i, x =>
    if i < k then (i, x) :: (k, v) :: t
    else if i = k then (i, x) :: t
    else (k, v) :: tins t i x

/-- Write a key: the default value removes it. -/
def tset {α : Type} [DecidableEq α] (d : α) (t : Tbl α) (i : Nat) (x : α) : Tbl α :=
  if x = d then tdel t i else tins t i x

/-- Change the value at a key. -/
def tmod {α : Type} [DecidableEq α] (d : α) (t : Tbl α) (i : Nat) (f : α → α) : Tbl α :=
  tset d t i (f (tget d t i))

/-- The first listed key is above n, or nothing is listed. -/
def tableAbove {α : Type} (n : Nat) : Tbl α → Bool
  | [] => true
  | (k, _) :: _ => decide (n < k)

/-- The canonical form: keys strictly rising, no default value listed. -/
def tableWf {α : Type} [DecidableEq α] (d : α) : Tbl α → Bool
  | [] => true
  | (k, v) :: t => decide (v ≠ d) && tableAbove k t && tableWf d t

/-- A byte memory: cells in the canonical form, unlisted addresses read as the given fill byte. -/
abbrev Memory := List Host.Cell

/-- The canonical form of a memory whose unlisted bytes read as d. -/
def memoryWf (d : Byte) (m : Memory) : Bool := tableWf d m

/-- One byte of a memory. -/
def readByte (d : Byte) (m : Memory) (a : Nat) : Byte := tget d m a

/-- Write one byte. -/
def writeByte (d : Byte) (m : Memory) (a : Nat) (b : Byte) : Memory := tset d m a b

/-- n bytes from an address upward. -/
def readBytes (d : Byte) (m : Memory) (a : Nat) : Nat → List Byte
  | 0 => []
  | n + 1 => readByte d m a :: readBytes d m (a + 1) n

/-- Write a byte string from an address upward. -/
def writeBytes (d : Byte) (m : Memory) (a : Nat) : List Byte → Memory
  | [] => m
  | b :: bs => writeBytes d (writeByte d m a b) (a + 1) bs

end Sys2Proof.Machine
end

