-- ==== Sys2Proof/Machine/State.lean ====
section
/-! DEFINITION. The state of the block as plain data. Every register and table word of the
management address map (R437) lives in `regs`, keyed by its address; what no register shows (queues,
buffers' bytes, collective runs, passes, journals) lives in the structures below. -/

namespace Sys2Proof.Machine

/-! ## Packets in the device -/

/-- What the leaving of a queued packet does. -/
inductive PktUse
  /-- A forwarded packet: the ingress port whose credits return (R106). -/
  | forward (inPort : Nat)
  /-- A packet the device built, with nothing to follow (records, responses, maps, pages). -/
  | plain
  /-- A part of a sow copy to a member of a run (R123); `last` marks the copy's last part. -/
  | sow (run chunk member : Nat) (last : Bool)
  /-- A part of a result sent up from its cluster-store buffer (R268). -/
  | upResult (run chunk : Nat) (last : Bool)
  /-- A final record to a member (R155). -/
  | final (run member : Nat)
  /-- A part of a yield map (R348). -/
  | yieldPart
deriving DecidableEq, Repr

/-- A packet at ingress, in an egress queue or leaving. -/
structure Pkt where
  uid : Nat
  hdr : Header
  payload : List Byte
  /-- TAIL_CODE, TAIL_REASON and TAIL_HOP as the trailer's second word (R103). -/
  tail : Nat
  /-- The tail has arrived (true for packets the device builds). -/
  tailSeen : Bool
  /-- The packet's Granary buffers (R256). -/
  bufs : List Nat
  use : PktUse
  /-- Finish tag, fixed when the packet reaches its queue's head (R284). -/
  tag : Nat
deriving DecidableEq, Repr

/-- Why the head of an ingress port and furrow waits. -/
inductive WaitWhy
  | hold | quota | buffer | contribution | opening | behind
deriving DecidableEq, Repr

/-- A packet waiting at ingress (R125, R144, R150, R260, R270). -/
structure Waiter where
  pkt : Pkt
  /-- Selected egress port; none before the lookup and for collective packets. -/
  sel : Option Nat
  why : WaitWhy
  /-- The wait has been counted once (R260, R270). -/
  counted : Bool
deriving DecidableEq, Repr

/-- Where the packet being received on a port stands. -/
inductive RxPlace
  /-- Dropped at its header (R105): the tail changes nothing. -/
  | dropped
  /-- Collective, or delivered to this device: whole before it is handled. -/
  | whole
  /-- Selected, stored before it is forwarded (R117). -/
  | store (sel : Nat)
  /-- Waiting at ingress, admitted or leaving: found by its uid. -/
  | placed
deriving DecidableEq, Repr

/-- The packet whose header has been parsed on a port and whose tail is awaited (R105, R118). -/
structure Rx where
  pkt : Pkt
  place : RxPlace
  /-- GLB_TIME at the header (R358). -/
  since : Nat
deriving DecidableEq, Repr

/-- A sow copy whose last byte has left, its owner bit not yet cleared (R123). -/
structure LeftCopy where
  run : Nat
  chunk : Nat
  member : Nat
  bufs : List Nat
deriving DecidableEq, Repr

/-- A held forwarding entry (R126). -/
structure Hold where
  scanning : Bool
  arrivals : Nat
deriving DecidableEq, Repr

/-- The data plane. Keys: 16 × port + furrow for queues and waits, port otherwise. -/
structure Fabric where
  nextUid : Nat
  rx : Tbl (List Rx)
  waits : Tbl (List Waiter)
  queues : Tbl (List Pkt)
  /-- The packet whose first byte has left, with the retry unit after its last byte once sent. -/
  sending : Tbl (List Pkt)
  /-- Packets wholly sent whose last retry unit the partner has not acknowledged: (DST, unit). -/
  unacked : Tbl (List (Nat × Nat))
  leftCopies : Tbl (List LeftCopy)
  holds : Tbl (List Hold)
  /-- Partner's hint per port and furrow (R114). -/
  hints : Tbl Nat
  /-- Ports whose members count as settled for adaptive selection (R116): epochs completed. -/
  settled : Tbl Nat
  /-- Ports on which a CREDIT_B arrived in the epoch in progress (R116). -/
  hinted : List Nat
  /-- Ports that were forwarding when the epoch in progress began (R116). -/
  epochPorts : List Nat
  /-- Round-robin slice of each octet, hub (64 + n) and the reeve (76). -/
  rr : Tbl Nat
  /-- Staged shaper and policer writes, by address (R288, R296). -/
  staged : Tbl Word
  /-- The tag F_f of R284 per port and furrow. -/
  lastTag : Tbl Nat
  /-- Frames of the device that wait at their source unit for a buffer (R260): port and frame. -/
  atSource : List (Nat × Pkt)
  /-- TURNOVER frames between two stacks of this device, on their way (R245). -/
  ownTurn : List Frame
deriving DecidableEq, Repr

/-! ## Links -/

/-- A partner's capability record (R309), decoded. -/
structure CapRecord where
  linkLo : Nat
  linkHi : Nat
  hdrLo : Nat
  hdrHi : Nat
  sheafLo : Nat
  sheafHi : Nat
  rates : Nat
  preferred : Nat
  fec : Nat
  device : Nat
  port : Nat
  tier : Nat
  plane : Nat
  width : Nat
  stepEn : Bool
  stepped : Bool
  floors : List Nat
  ceilings : List Nat
deriving DecidableEq, Repr

/-- A retry unit: its sequence number and its eight blocks' bytes (R315). -/
structure Unit' where
  seq : Nat
  bytes : List Byte
deriving DecidableEq, Repr

/-- What a port keeps beside its registers. -/
structure Link where
  /-- Where the port's bring-up stands, in the codes of R323 (LANES, CAPS, RATE_STEP, FORWARDING);
  5 after a refused exchange. STATE shows it unless the port is FALLOW or in TEST (R389). -/
  phase : Nat
  /-- The partner's last valid record (R309). -/
  record : Option CapRecord
  /-- The partner has seen a record of this port: PEER_SEEN received (R309). -/
  peerSeen : Bool
  /-- A rate step has been made or has failed since the last RESTART (R311). -/
  stepped : Bool
  /-- A rate step in progress: the target rate. -/
  stepTo : Option Nat
  /-- Settings in use at this bring-up (R322): PRT_LINK_CFG as read then. -/
  cfg : Word
  /-- Active transmit lanes as a mask of the partner's RX_MASK index space (R313). -/
  txSet : Nat
  /-- RX_MASK last received from the partner (R313). -/
  txMask : Nat
  txNext : Nat
  txAcked : Nat
  rxExpect : Nat
  discarding : Bool
  /-- The half-filled unit's bytes (R315). -/
  part : List Byte
  window : List Unit'
  /-- Sender: credits consumed per furrow (R318); receiver: credits returned; partner's RET. -/
  used : Tbl Nat
  ret : Tbl Nat
  peerRet : Tbl Nat
  /-- By lane: how far behind the grid boundary its MARKER arrived, in ns (R308). -/
  late : Tbl Nat
  /-- The control blocks, and the units replayed, that the last command of the port sent (R309, R316,
  R317). -/
  lastSent : List (List Byte)
deriving DecidableEq, Repr

def Link.empty : Link :=
  ⟨1, none, false, false, none, 0, 0, 0, 0, 0, 0, false, [], [], [], [], [], [], []⟩

/-! ## Granary -/

/-- Flags the Gleaner keeps of a held buffer (R272, R273). -/
structure GleanFlag where
  stale : Bool
  agedLogged : Bool
  /-- Reclaimed in the last pass: returns at the end of the next (R273). -/
  reclaimed : Bool
deriving DecidableEq, Repr

/-- Granary state beside the status words, owner records and quotas in `regs`. Cluster-store
buffers are keyed by cluster-store pointer, packet buffers by packet-buffer pointer + 2^32. -/
structure Granary where
  /-- Bytes last written into a buffer. -/
  data : Tbl (List Byte)
  /-- Buffers with an uncorrectable unit (R275). -/
  bad : List Nat
  flags : Tbl (List GleanFlag)
  /-- Chains: first buffer to the rest (R256, R259). -/
  chains : Tbl (List Nat)
  /-- Cluster-store owner records' masks, by 1,024 × cluster + record (R264). -/
  csMasks : Tbl Nat
  /-- Free lists under rebuild: manager × 8 + class (R274). -/
  rebuilding : List Nat
  /-- The next Gleaner pass is a baseline pass (R274). -/
  baselineNext : Bool
  /-- Cluster-store layout of the seed image (R258). -/
  captureMiB : Nat
  storeCounts : List Nat
deriving DecidableEq, Repr

/-! ## Collective runs ("instances" of R144) -/

inductive RunState
  | opened | sent | failed | closing
deriving DecidableEq, Repr

/-- Cause fields of a completion record (R155). -/
structure Cause where
  port : Nat
  rank : Nat
  device : Nat
deriving DecidableEq, Repr

def Cause.none : Cause := ⟨0x1FF, 0xFFFF, 0x3FFFF⟩

/-- One member's contribution to a chunk (R142, R146). -/
structure Contrib where
  member : Nat
  nextPart : Nat
  bytes : List Byte
  done : Bool
  bufs : List Nat
deriving DecidableEq, Repr

/-- Where a chunk stands; `checked` waits to be placed (R147, R173, R270). -/
inductive ChunkStage
  | gathering | ready | running | judging | checked | placed
deriving DecidableEq, Repr

/-- A delivered core run of a chunk (R370, R371). -/
structure RunResult where
  core : Nat
  out : ChunkOut
  cycles : Nat
  /-- A residue, flag or rounding check failed: 3 RESIDUE, 4 ROUNDING (R374). The payload residue
  of the result will differ where it is placed: 6 (R372). -/
  failed : Option Nat
deriving DecidableEq, Repr

/-- One chunk of a run. -/
structure Chunk where
  contribs : List Contrib
  /-- Members in arrival order of completion (R87). -/
  order : List Nat
  stage : ChunkStage
  /-- Age order of readiness (R341), and GLB_TIME then (R354). -/
  readyAt : Nat
  readyTime : Nat
  /-- Cores A and B, or A alone (R368). -/
  cores : List Nat
  judge : Option Nat
  results : List RunResult
  /-- The checked result. -/
  result : Option ChunkOut
  /-- Buffers of the result: cluster store on the way up, Granary for a sow (R268). -/
  resultBufs : List Nat
  /-- Copies by member: 1 held back (R160), 2 in an egress queue or leaving. -/
  copies : Tbl Nat
deriving DecidableEq, Repr

def Chunk.empty : Chunk := ⟨[], [], .gathering, 0, 0, [], none, [], none, [], []⟩

/-- What a landing run holds (R173, R174, R214). -/
inductive Landing
  | none
  /-- Waiting to reserve (R173). -/
  | waiting
  /-- Reserved: landing records by index, and the loss exponent held. -/
  | reserved (records : List Nat) (lossExp : Int)
  /-- Reserved with an overlap: lands nothing (R176). -/
  | overlapped
deriving DecidableEq, Repr

/-- One collective run of a group at this device. -/
structure Run where
  group : Nat
  seq : Nat
  state : RunState
  tag : Nat
  code : Nat
  cause : Cause
  cvt : Nat
  arith : Nat
  fallback : Bool
  miss : Bool
  replays : Nat
  chunks : Tbl Chunk
  /-- Child members whose OK notice has arrived. -/
  childOk : List Nat
  /-- It failed in SENT, after its OK notice (R153 step 4). -/
  failedLate : Bool
  /-- Members that have requested (SOW_VERSION). -/
  requests : List Nat
  /-- The request has gone up, or the judgement serves (R158, R189). -/
  served : Bool
  /-- The judgement waits for a pass or a turnover (R189, R246). -/
  judgeWait : Bool
  /-- Sow chunks from the parent: parts received, next part, packets counted, and the SOW_PACKETS
  to wait for (R158). -/
  sowIn : Tbl (List Byte)
  sowNext : Tbl Nat
  sowCount : Nat
  sowTotal : Nat
  /-- SOW packets sent and elements or tokens delivered, by member. -/
  sentPkts : Tbl Nat
  sentElems : Tbl Nat
  /-- Final records queued, and those of them still to leave. -/
  finalsSent : Bool
  finalsLeft : Nat
  landing : Landing
  /-- SCALE_EPOCH once fixed (R215). -/
  scale : Option Nat
  /-- Full step or version of the run (R155 word 3). -/
  step : Nat
  amax : Nat
  /-- VERDICT: the commit run of LAST_STEP (R212); records by member (own record: 512). -/
  commit : Bool
  verdicts : Tbl (List Word)
  /-- Its slot is free; a judgement still runs (R375). -/
  released : Bool
  /-- The run is a replay from the journal (R365). -/
  replayed : Bool
deriving DecidableEq, Repr

/-- The collective machinery beside the tables. Runs are keyed by group × 2^32 + sequence. -/
structure Binder where
  runs : Tbl (List Run)
  /-- Counter that orders ready chunks by age. -/
  readyCount : Nat
  /-- Express staging buffers of a group (R159). -/
  staging : Tbl (List Nat)
deriving DecidableEq, Repr

/-! ## Cores -/

/-- What a core does (R26, R381, R382). -/
inductive CoreJob
  /-- A run of a chunk: run key, chunk index, role 0 reduction, 1 check, 2 judge. -/
  | run (key chunk role : Nat)
  | test
  /-- Takes over another core's work; done at MIGRATION_DONE. -/
  | takeover (fromCore : Nat) (retiring : Bool)
deriving DecidableEq, Repr

structure Strike where
  reason : Nat
  timeNs : Nat
deriving DecidableEq, Repr

/-- Cores (index 9c + k) and tillers (16n + t). -/
structure Cores where
  jobs : Tbl (List CoreJob)
  strikes : Tbl (List Strike)
  tillerStrikes : Tbl (List Strike)
  /-- Tillers retired or not loaded (R198, R380). -/
  tillersOut : List Nat
  /-- Clusters and lanes kept out or retired in this start, as (kind of R378, unit) (R380, R393). -/
  unitsOut : List (Nat × Nat)
  /-- Core asked for by TEST_NOW plus 1, by cluster (R393). -/
  testNext : Tbl Nat
  /-- Reason of a retirement in progress, by core (R377). -/
  retiring : Tbl Nat
  /-- Cycles that the earlier cores of a migrated run took, plus 1, by the core that runs it now
  (R382). -/
  migrated : Tbl Nat
  /-- Refresh stalls and die-to-die retries of the watched chunk, by cluster (R354). -/
  stalls : Tbl Nat
  retries : Tbl Nat
  /-- The watched chunk shared the stack or link, by cluster (R354). -/
  shared : List Nat
deriving DecidableEq, Repr

/-! ## Stacks -/

/-- A pass, queued or running (R185, R186, R221, R222). -/
structure Pass where
  plot : Nat
  step : Nat
  started : Bool
  /-- Entries still to pass, in order; the first is the one in progress. -/
  left : List Nat
  /-- The entry in progress has its R172 values: no slot hold stands against it (R186). -/
  begun : Bool
  /-- Groups of 128 elements of the entry in progress that are complete. -/
  groupsDone : Nat
  /-- The entry in progress lost state (R198, R200). -/
  lost : Bool
  /-- Epilogue values of the entry in progress, as FP32 codes (R181). -/
  updMax : Nat
  amax : Nat
  /-- FP8 tensors begun: slot code plus 1, by tensor (R221). -/
  codes : Tbl Nat
  /-- FP8 tensors whose second encoding is due (R222). -/
  again : List Nat
  /-- FP8 entries finished whose tensor is not: entry to its new AMAX_MASTER plus 1 (R186). -/
  deferred : Tbl Nat
  /-- Entries whose values, operations or stores set SAT, encodings apart (R222). -/
  satOps : List Nat
  /-- The tensor whose second encoding runs (R222). -/
  second : Option Nat
deriving DecidableEq, Repr

/-- A SOW_VERSION run that reads slots of an entry (R190). -/
structure SlotHold where
  stack : Nat
  entry : Nat
  slot : Nat
  run : Nat
deriving DecidableEq, Repr

/-- A turnover slot's progress beside its registers (R249, R250). -/
structure TurnWork where
  /-- Destination: the page expected next. -/
  nextPage : Nat
  /-- Page checks in page order (R249). -/
  checks : List Nat
  /-- A REJECT for the expected page is out; a further one waits for the timeout (R250). -/
  rejected : Bool
  /-- Destination in VERIFYING: the source entry's words and the CHECK that DONE carried. -/
  doneWords : List Word
  doneCheck : Nat
deriving DecidableEq, Repr

def TurnWork.empty : TurnWork := ⟨0, [], false, [], 0⟩

/-- Statistics of a landing record (R175): the tensor elements it covers, and what their landing
met. -/
structure RecStat where
  lo : Nat
  n : Nat
  nonfinite : Nat
  zeros : Nat
  amax : Nat
  flags : Nat
deriving DecidableEq, Repr

def RecStat.empty : RecStat := ⟨0, 0, 0, 0, 0, 0⟩

/-- Stack-held state beside the registers. -/
structure Stacks where
  /-- HBM contents: key stack × 2^36 + offset; an unlisted byte reads 0 (log 2). -/
  hbm : Memory
  passes : Tbl (List Pass)
  /-- Plots under PASS_HOLD, as stack × 4096 + plot (R194). -/
  held : List Nat
  /-- Deferred FALLOWs and REBUILD_SOWNs, as stack × 32768 + entry (R197). -/
  fallowDue : List Nat
  rebuildDue : List Nat
  slotHolds : List SlotHold
  /-- Entries whose CUR_VERSION was lost while a pass had not finished them, as stack × 32768 + entry
  (R200). -/
  curLost : List Nat
  /-- Full 32-bit BIN_STEP of an entry, by stack × 32768 + entry (R174). -/
  binStep : Tbl Nat
  /-- Statistics of landing records, by stack × 4096 + record (R175). -/
  recStats : Tbl RecStat
  scrubAt : Tbl Nat
  /-- 256-bit words of state arrays found uncorrectable and not written since (R200), as 2^31 × stack +
  word. -/
  lostWords : List Nat
  turns : Tbl TurnWork
  recipes : Tbl (List RecipeImage)
deriving DecidableEq, Repr

/-- Verdict progress of a plot beside its registers (R206 to R212). -/
structure VerdictWork where
  /-- A FALLOW waits for COLLECTING or UNRESOLVED (R206). -/
  fallowDue : Bool
  /-- The next run of the group is the commit's (R212). -/
  commitNext : Bool
  /-- Stacks still to finish their pass for the step (R209). -/
  stacksLeft : List Nat
  /-- Bits 3 to 5 of the commit record's word 0, UPD_MAX and AMAX_MASTER so far (R203, R209). -/
  flags : Nat
  updMax : Nat
  amaxMaster : Nat
  /-- A commit record that still has to enter its run (R209, R210). -/
  owed : Option (List Word)
deriving DecidableEq, Repr

def VerdictWork.empty : VerdictWork := ⟨false, false, [], 0, 0, 0, none⟩

/-- An advance-sowing copy in cluster store: the 16 KiB pieces held, by piece number, and how many
pieces have been fetched (R232, R233). -/
structure AdvCopy where
  cluster : Nat
  plot : Nat
  entry : Nat
  version : Nat
  bufs : Tbl Nat
  fetched : Nat
deriving DecidableEq, Repr

/-! ## Recording -/

/-- A journal entry being written or kept (R358): its 64-bit words. -/
abbrev JEntry := List Word

/-- Record and replay beside the REC registers (R357 to R367). -/
structure Recorder where
  /-- Entries captured and not yet taken into a block, oldest first. -/
  pending : List JEntry
  /-- Bytes taken into the block in progress (its body holds 65,472 bytes). -/
  body : List Byte
  /-- Byte offset and time of the first entry that begins in the block in progress; 0xFFFF none. -/
  firstEntry : Nat
  firstTime : Nat
  blocks : Nat
  mask : Nat
  lost : Nat
  lostBytes : Nat
  gapDue : Bool
  /-- Replay: the entries read, and the groups replayed with their next sequence. -/
  replay : List JEntry
  replaySeq : Tbl Nat
  /-- Mismatches that the replay in progress has found (R367). -/
  replayBad : Nat
deriving DecidableEq, Repr

/-! ## Yield maps -/

/-- Per port and furrow statistics of the map in progress (R346). -/
structure QueueStat where
  occMax : Nat
  occSum : Nat
  marks : Nat
  stall : Nat
  stalledNow : Bool
  bytes : Nat
deriving DecidableEq, Repr

def QueueStat.empty : QueueStat := ⟨0, 0, 0, 0, false, 0⟩

structure Yield where
  /-- Settings in force for the map in progress (R349). -/
  cfg : Word
  collect : Word
  base : Word
  epochs : Nat
  samples : Nat
  start : Nat
  stats : Tbl QueueStat
  maps : Tbl (List Byte)
  partsLeft : Nat
deriving DecidableEq, Repr

/-! ## Start-up and trust -/

/-- A boot journal record (R403). -/
abbrev BootRecord := List Word

/-- Whose flash write it is. -/
inductive FlashWho
  | journal
  | ledger (record : Nat)
  /-- A management write through the flash window (R439). -/
  | path (path : Nat)
deriving DecidableEq, Repr

/-- A flash program: an erase of its 64 KiB sector first where `erase` says so (R403, R439). -/
structure FlashJob where
  flash : Nat
  offset : Nat
  bytes : List Byte
  erase : Bool
  who : FlashWho
deriving DecidableEq, Repr

structure Boot where
  /-- The two copies as step 4 read them, A first (R409). -/
  image : List SeedCopy
  /-- Both copies have been tried in this start, or the chosen one was forced (R398, R410). -/
  otherUsed : Bool
  tables : Option SeedTables
  programs : List DrillProgram
  journal : List BootRecord
  ledger : List (List Word)
  /-- The 32 KiB bank of the ledger region in use (R406). -/
  ledgerBank : Nat
  /-- Ledger writes that failed: flash and record (R379). -/
  ledgerDue : List (Nat × Nat)
  /-- Flash programs and erases in progress or waiting, per flash in order (R379, R403, R439). -/
  flashJobs : List FlashJob
  starts : Nat
  failedStarts : Nat
  powerOns : Nat
  /-- Measurement chains: four of 64 bytes (R416). -/
  chains : List (List Byte)
  /-- The body that a quote in progress signs, and the quote buffer (R417). -/
  quoteWork : List Byte
  quote : List Byte
  grant : Memory
  identity : List Byte
  slotHashes : Tbl (List Byte)
  /-- Fuse work in progress: slot operations and the security count (R412, R414). -/
  fuseWork : Option (Nat × Nat)
  fuseHash : List Byte
  /-- Security count that an advance in progress is to reach; 0 without one (R412). -/
  svnTarget : Nat
  /-- Per manager entry: last order sequence and its stored response (R419, R421). -/
  orders : Tbl (List (Nat × List Byte))
  deviceId : Nat
  /-- Tier and plane of the position chosen (R332). -/
  tier : Nat
  plane : Nat
  /-- The reset under way is a cold one; the pins as driven (R460). -/
  porLow : Bool
  warmLow : Bool
  cold : Bool
  resetHeld : Bool
deriving DecidableEq, Repr

/-- Instructions of the test access port (R463). -/
inductive TapInstr
  | extest | samplePreload | bypass | idcode | packetAccess
deriving DecidableEq, Repr

/-! ## Management -/

/-- A staging buffer of a path (R441). -/
structure Stage where
  target : Nat
  valid : Bool
  written : Nat
  words : List Word
deriving DecidableEq, Repr

def Stage.empty : Stage := ⟨0, false, 0, []⟩

/-- The response of a field order that waits for its flash programs (R439): the manager's path, the
arrival port, the order and the payload. -/
structure HeldOrder where
  path : Nat
  port : Nat
  order : Frame
  reply : List Byte
deriving DecidableEq, Repr

structure Mgmt where
  stages : Tbl Stage
  /-- Requests waiting on the Hitch link, and field orders at the reeve, that wait for a flash
  (R434, R439). -/
  queue : List HitchFrame
  orderQueue : List (Nat × Frame)
  /-- The Hitch response that waits for its flash programs (R439): tag, SEQ and words. -/
  held : Option (Nat × Nat × List Word)
  heldOrders : List HeldOrder
  /-- Stored (SEQ, response) per tag (R434). -/
  stored : Tbl (List (Nat × List Word))
  /-- Frames sent to the host, newest last. -/
  sent : List (List Word)
  helloDone : Bool
  /-- Snapshot owners' shadows of frozen groups, by address (R450). -/
  shadow : Tbl Word
  /-- Frozen groups whose snapshot has been taken. -/
  taken : List Nat
  /-- Next event the stream sends (R435). -/
  streamNext : Nat
  logging : Bool
  /-- RW1 registers already written (R10). -/
  rw1 : List Nat
  /-- By flash and sector (1,024 × flash + sector): one above the highest offset written since the
  sector's last erase in this start; 0 when it has not been erased (R439). -/
  flashTop : Tbl Nat
deriving DecidableEq, Repr

/-! ## Electrical -/

/-- The test access port (R463): the instruction in force as IEEE 1149.1 names it, the boundary cells as
driven and as sampled, and what packet access delivered. -/
structure Tap where
  ir : TapInstr
  /-- What the data register that the instruction selects has captured. -/
  dr : Nat
  driven : List Bool
  sampled : List Bool
  data : List Byte
deriving DecidableEq, Repr

/-- IEEE 1149.1 leaves IDCODE in force after the TAP's reset. -/
def Tap.reset : Tap := ⟨.idcode, 0, [], [], []⟩

structure Elec where
  avsMv : Nat
  avsFailed : Nat
  railsDown : Nat
  sdrefLost : Nat
  sysclkLost : Bool
  tripped : Bool
  /-- The strap pins as last seen (R329). -/
  strapPins : BitVec 22
  /-- Consecutive discards per sensor (R464). -/
  discards : Tbl Nat
  /-- Sensors that have had a sample accepted (R464). -/
  sampled : List Nat
  tap : Tap
  /-- Steps below nominal of the stack domains (R465); those of the die stand in GLB_THERM. -/
  stackSteps : Tbl Nat
  /-- Core islands whose clock a droop has stretched: GLB_TIME of the last stretch, plus 1 (R465). -/
  droops : Tbl Nat
deriving DecidableEq, Repr

/-- The state of the block. -/
structure State where
  /-- Registers and table words by management address; an unlisted address reads its reset word. -/
  regs : Tbl Word
  pending : List Instr
  /-- Counter that free choices are applied to (log 6). -/
  picks : Nat
  /-- Read-only writes counted (R10). -/
  roWrites : Nat
  fab : Fabric
  links : Tbl (List Link)
  grn : Granary
  bnd : Binder
  cores : Cores
  stk : Stacks
  vrd : Tbl VerdictWork
  adv : List AdvCopy
  rcd : Recorder
  yld : Yield
  boot : Boot
  mg : Mgmt
  el : Elec
  flashA : Memory
  flashB : Memory
deriving DecidableEq, Repr

/-- No command of this model ends in a fault: the block's failures are its own state. Nothing
raises a fault, so the type is empty; that is safe. -/
inductive Fault
deriving DecidableEq, Repr

/-- Why a command has no meaning in the model. -/
inductive Refusal
  /-- Raised by Dispatch alone, for a command whose meaning is not written: safe, since nothing is
  claimed of it. -/
  | notModelled (mnemonic : String)
deriving DecidableEq, Repr

/-! ## Reset -/

def Fabric.reset : Fabric :=
  { nextUid := 0, rx := [], waits := [], queues := [], sending := [], unacked := [],
    leftCopies := [], holds := [], hints := [], settled := [], hinted := [], epochPorts := [],
    rr := [], staged := [], lastTag := [], atSource := [], ownTurn := [] }

def Granary.reset : Granary :=
  { data := [], bad := [], flags := [], chains := [], csMasks := [], rebuilding := [], baselineNext := true,
    captureMiB := 0, storeCounts := [] }

def Binder.reset : Binder := { runs := [], readyCount := 0, staging := [] }

def Cores.reset : Cores :=
  { jobs := [], strikes := [], tillerStrikes := [], tillersOut := [], unitsOut := [], testNext := [],
    retiring := [], migrated := [], stalls := [], retries := [], shared := [] }

def Stacks.reset : Stacks :=
  { hbm := [], passes := [], held := [], fallowDue := [], rebuildDue := [], slotHolds := [], curLost := [],
    binStep := [], recStats := [], scrubAt := [], lostWords := [], turns := [], recipes := [] }

def Recorder.reset : Recorder :=
  { pending := [], body := [], firstEntry := 0, firstTime := 0, blocks := 0, mask := 0, lost := 0,
    lostBytes := 0, gapDue := false, replay := [], replaySeq := [], replayBad := 0 }

def Yield.reset : Yield :=
  { cfg := 0, collect := 0, base := 0, epochs := 0, samples := 0, start := 0, stats := [],
    maps := [], partsLeft := 0 }

def Boot.reset : Boot :=
  { image := [], otherUsed := false, tables := none, programs := [], journal := [],
    ledger := [], ledgerBank := 0, ledgerDue := [], flashJobs := [], starts := 0, failedStarts := 0,
    powerOns := 0, chains := [], quoteWork := [], quote := [], grant := [], identity := [],
    slotHashes := [], fuseWork := none, fuseHash := [], svnTarget := 0, orders := [], deviceId := 0,
    tier := 0, plane := 0,
    porLow := false, warmLow := false, cold := true, resetHeld := false }

def Mgmt.reset : Mgmt :=
  { stages := [], queue := [], orderQueue := [], held := none, heldOrders := [], stored := [], sent := [],
    helloDone := false, shadow := [], taken := [],
    streamNext := 0, logging := false, rw1 := [], flashTop := [] }

def Elec.reset : Elec :=
  { avsMv := 720, avsFailed := 0, railsDown := 0, sdrefLost := 0, sysclkLost := false,
    tripped := false, strapPins := 0, discards := [], tap := Tap.reset,
    stackSteps := [], droops := [], sampled := [] }

/-- The device as the release of POR_N leaves it, before start-up step 1 completes (R397, R460):
registers at their reset words (none listed), every queue and table empty (log 1). -/
def State.reset : State :=
  { regs := [], pending := [], picks := 0, roWrites := 0, fab := Fabric.reset, links := [],
    grn := Granary.reset, bnd := Binder.reset, cores := Cores.reset, stk := Stacks.reset, vrd := [],
    adv := [], rcd := Recorder.reset, yld := Yield.reset, boot := Boot.reset, mg := Mgmt.reset,
    el := Elec.reset, flashA := [], flashB := [] }

end Sys2Proof.Machine
end

