-- ==== Sys2Proof/Machine/Ops.lean ====
section
/-! DEFINITION. The named operations that every meaning is written with: registers, events and
counters (R10, R443 to R449), ports and credits (R106 to R109, R113), the Granary (R254 to R270,
R275) and the egress queues (R120, R284). -/

namespace Sys2Proof.Machine

/-- What a command answers. -/
abbrev Answer := Host.Outcome State Fault Refusal

/-! ## Registers -/

/-- A register or table word. -/
def rd (s : State) (a : Nat) : Word := tget (resetWord a) s.regs a

/-- Write a register or table word. -/
def wr (s : State) (a : Nat) (w : Word) : State :=
  { s with regs := tset (resetWord a) s.regs a w }

/-- Bits hi:lo of a register. -/
def rdf (s : State) (a hi lo : Nat) : Nat := bitsOf (rd s a) hi lo

/-- Bit k of a register. -/
def rdb (s : State) (a k : Nat) : Bool := bitOf (rd s a) k

/-- Write bits hi:lo of a register. -/
def wrf (s : State) (a hi lo v : Nat) : State := wr s a (putBits (rd s a) hi lo v)

/-- Add to a field, saturating at its largest value. -/
def bump (s : State) (a hi lo n : Nat) : State :=
  wrf s a hi lo (Nat.min (2 ^ (hi + 1 - lo) - 1) (rdf s a hi lo + n))

/-- Add to a field modulo its size. -/
def bumpMod (s : State) (a hi lo n : Nat) : State := wrf s a hi lo (rdf s a hi lo + n)

/-- Subtract from a field, stopping at 0. -/
def drain (s : State) (a hi lo n : Nat) : State := wrf s a hi lo (rdf s a hi lo - n)

/-- n words from an address upward. -/
def rdEntry (s : State) (a n : Nat) : Entry := (List.range n).map fun i => rd s (a + 8 * i)

/-- Write words from an address upward. -/
def wrEntry (s : State) (a : Nat) : Entry → State
  | [] => s
  | w :: ws => wrEntry (wr s a w) (a + 8) ws

/-- Apply an operation to the items of a list, in order. -/
def forAll {α : Type} (f : State → α → State) (s : State) : List α → State
  | [] => s
  | x :: xs => forAll f (f s x) xs

/-- A structure kept in a table by key, none when absent. -/
def tone {α : Type} (t : Tbl (List α)) (k : Nat) : Option α := (tget [] t k).head?

/-! ## Time, events, counters -/

/-- GLB_TIME in nanoseconds (R442). -/
def now (s : State) : Nat := (rd s aTime).toNat

/-- GLB_TIME in µs modulo 2^32, as buffers are stamped (R263). -/
def nowUs (s : State) : Nat := now s / 1000 % 2 ^ 32

/-- GLB_BOOT.STATE is READY (R423). -/
def isReady (s : State) : Bool := rdf s aBoot 59 58 == 1

/-- GLB_BOOT.STATE is HALTED (R423). -/
def isHalted (s : State) : Bool := rdf s aBoot 59 58 == 2

/-- A reset holds the device: a reset pin is low, or the system clock has been lost (R459, R460). -/
def inReset (s : State) : Bool := s.boot.porLow || s.boot.warmLow || s.boot.resetHeld

/-- The serial transmitters are stopped (R401, R459, R460, R466). -/
def silent (s : State) : Bool := inReset s || isHalted s || s.el.tripped

/-- The reeve serves management: the identity key has been derived at step 3, and the reeve has not timed
out (R388, R401). -/
def mgmtUp (s : State) : Bool := rdb s aFuse 46 && !rdb s aAlert 62 && !inReset s

/-- The items an event names (R443); all ones when none. -/
structure EvItem where
  group : Nat := 0xFFFF
  plot : Nat := 0xFFF
  port : Nat := 0x1FF
  rank : Nat := 0xFFFF
  number : Nat := 0xFFFF_FFFF
  detail : Nat := 0xFFFF_FFFF
deriving DecidableEq, Repr

/-- The log has taken 1,000 entries within the last 1 ms (R446). Before Ready there is no device
time, and nothing is dropped (log 3). -/
def logFull (s : State) : Bool :=
  let n := rdf s (aEvt 8) 63 32
  isReady s && 1000 ≤ n
    && (rd s (aEvtEntry (n - 1000) 1)) != 0
    && decide (now s < (rd s (aEvtEntry (n - 1000) 0)).toNat + 1000000)

/-- Write one entry into the ring (R443, R447). -/
def logEntry (s : State) (code kind source : Nat) (x : EvItem) : State :=
  let n := rdf s (aEvt 8) 63 32
  let old := (n + 2 ^ 32 - 8192) % 2 ^ 32
  let was := rd s (aEvtEntry n 1) != 0
    && decide ((old + 2 ^ 32 - rdf s (aEvt 0x10) 31 0) % 2 ^ 32 < 2 ^ 31)
  let s := if was then bump s (aEvt 8) 31 0 1 else s
  let s := wrEntry s (aEvtEntry n 0)
    [BitVec.ofNat 64 (now s),
     bitsAt 63 48 code ||| bitsAt 47 44 kind ||| bitsAt 43 32 source ||| bitsAt 31 0 n,
     bitsAt 63 48 x.group ||| bitsAt 47 36 x.plot ||| bitsAt 35 27 x.port ||| bitsAt 26 11 x.rank,
     bitsAt 63 32 x.number ||| bitsAt 31 0 x.detail]
  bumpMod s (aEvt 8) 63 32 1

/-- Log an event: nothing before the log has started, DROPPED beyond its rate (R446). -/
def event (s : State) (code kind source : Nat) (x : EvItem) : State :=
  if !s.mg.logging then s
  else if logFull s then bump s (aEvt 0x18) 63 32 1
  else logEntry s code kind source x

/-- Advance a counter by n, modulo its width; a wrap sets WRAP (R448). -/
def count (s : State) (g i x n : Nat) : State :=
  let a := aCnt g i x
  let v := (rd s a).toNat + n
  let m := 2 ^ cntWidth g x
  let s := wr s a (BitVec.ofNat 64 (v % m))
  if m ≤ v then wrf s (a + 8) 0 0 1 else s

/-- Source kinds of R443. -/
def srcDevice : Nat := 0
def srcPort : Nat := 1
def srcLane : Nat := 2
def srcCore : Nat := 3
def srcCluster : Nat := 4
def srcStack : Nat := 5
def srcTiller : Nat := 6
def srcManager : Nat := 7
def srcIsland : Nat := 8
def srcPath : Nat := 9

/-- The device's own ID (R102, R332). -/
def deviceId (s : State) : Nat := s.boot.deviceId

/-! ## Clock islands (R22) -/

def islandOff : Nat := 0
def islandLocking : Nat := 1
def islandRunning : Nat := 2
def islandFallow : Nat := 3

def setIsland (s : State) (i st : Nat) : State := wrf s (aIsland i) 55 54 st
def islandState (s : State) (i : Nat) : Nat := rdf s (aIsland i) 55 54

/-- The octet island of a lane neither has lost its clock nor is fallow. -/
def octetRuns (s : State) (l : Nat) : Bool :=
  islandState s (108 + l / 8) != islandLocking && islandState s (108 + l / 8) != islandFallow

/-! ## Ports -/

/-- Link states of R323. -/
def lsLanes : Nat := 1
def lsCaps : Nat := 2
def lsRateStep : Nat := 3
def lsForwarding : Nat := 4
def lsFallow : Nat := 5
def lsTest : Nat := 6

def portState (s : State) (p : Nat) : Nat := rdf s (aLinkStat p) 63 60
def portReason (s : State) (p : Nat) : Nat := rdf s (aLinkStat p) 31 24
def forwarding (s : State) (p : Nat) : Bool := portState s p == lsForwarding

/-- Cabling role (R334): 0 ENDPOINT, 1 UP, 2 DOWN, 3 UNUSED. -/
def portRole (s : State) (p : Nat) : Nat := rdf s (aCable p) 63 62
def cfgWidth (s : State) (p : Nat) : Nat := rdf s (aLinkCfg p) 63 59

/-- The ports that are configured: a width and a role other than UNUSED. -/
def portExists (s : State) (p : Nat) : Bool := cfgWidth s p != 0 && portRole s p != 3

/-- Configured ports in ascending order. -/
def portsOf (s : State) : List Nat := (List.range 512).filter (portExists s)

def link (s : State) (p : Nat) : Link := (tone s.links p).getD Link.empty
def setLink (s : State) (p : Nat) (l : Link) : State :=
  { s with links := tset [] s.links p (if l = Link.empty then [] else [l]) }

/-- Net bytes per 64 ns of one lane times 2, by rate code (R298, R304): 0b00 112, 0b01 224,
0b10 448 Gb/s. -/
def laneNet2 (rate : Nat) (er : Bool) : Nat :=
  match rate with
  | 2 => if er then 6300 else 6720
  | 1 => if er then 3150 else 3360
  | _ => if er then 1575 else 1680

/-- NET_PER_REFILL of a port (R283, R298); 0 while it is not forwarding. -/
def netPerRefill (s : State) (p : Nat) : Nat :=
  if forwarding s p then
    rdf s (aLinkStat p) 59 55
      * laneNet2 (rdf s (aLinkStat p) 49 48) (bitOf (link s p).cfg 56) / 2
  else 0

/-- Net rate at which a port receives (R117): its healthy lanes at the partner's coding. -/
def rxNet (s : State) (p : Nat) : Nat :=
  rdf s (aLinkStat p) 54 50
    * laneNet2 (rdf s (aLinkStat p) 49 48) (rdb s (aLinkStat p) 47) / 2

/-! ## Credits -/

def furFloor (s : State) (p f : Nat) : Nat := rdf s (aCredit p f) 31 16
def furCeiling (s : State) (p f : Nat) : Nat := rdf s (aCredit p f) 47 32
def furInUse (s : State) (p f : Nat) : Nat := rdf s (aCredit p f) 15 0

def losslessFurrows : List Nat := [0, 1, 2, 3, 4, 5, 6, 8, 9, 10, 11, 12, 13]

/-- Credits drawn from the shared pool: what each furrow uses above its FLOOR (R107). -/
def poolUse (s : State) (p : Nat) : Nat :=
  (losslessFurrows.map fun f => furInUse s p f - furFloor s p f).sum

/-- Whether a packet of c credits arrives without credit (R107, R108). -/
def overrun (s : State) (p f c : Nat) : Bool :=
  let used := furInUse s p f
  let floor := furFloor s p f
  let extra := (used + c - floor) - (used - floor)
  decide (furCeiling s p f < used + c)
    || decide (0 < extra ∧ rdf s (aPool p) 31 0 < poolUse s p + extra)

/-- Consume credits at the receiver (R106). -/
def takeCredits (s : State) (p f c : Nat) : State :=
  if lossless f then wrf s (aCredit p f) 15 0 (furInUse s p f + c) else s

/-- Return credits: the space is free, and RET of the furrow advances (R106, R318). -/
def returnCredits (s : State) (p f c : Nat) : State :=
  if lossless f then
    let s := drain s (aCredit p f) 15 0 c
    let l := link s p
    setLink s p { l with ret := tset 0 l.ret f ((tget 0 l.ret f + c) % 2 ^ 16) }
  else s

/-- A sender's credits on furrow f: FLOOR + RET − USED modulo 2^16 (R318). -/
def senderCredits (s : State) (p f : Nat) : Nat :=
  let l := link s p
  let floor := match l.record with
    | some r => r.floors.getD f 0
    | none => 0
  (floor + tget 0 l.peerRet f + 2 ^ 16 - tget 0 l.used f) % 2 ^ 16

/-! ## Granary: classes, pointers, status words -/

def classBaseRow (s : State) (k : Nat) : Nat := rdf s (aGrnClass k) 63 44
def classCount (s : State) (k : Nat) : Nat := rdf s (aGrnClass k) 43 26

/-- Pointer of buffer j of class k (R255, R261). -/
def bufPtr (s : State) (k j : Nat) : Nat :=
  (j % 8) * 2 ^ 29 + k * 2 ^ 26 + (classBaseRow s k + j * 2 ^ k) * 2 ^ 6

def ptrStart (p : Nat) : Nat := p / 2 ^ 29 % 8
def ptrClass (p : Nat) : Nat := p / 2 ^ 26 % 8
def ptrRow (p : Nat) : Nat := p / 2 ^ 6 % 2 ^ 20

/-- Cluster-store pointers (R261). -/
def csPtr (n c i : Nat) : Nat := n * 2 ^ 28 + c * 2 ^ 26 + i * 2 ^ 12
def csCluster (p : Nat) : Nat := p / 2 ^ 28 % 16
def csClass (p : Nat) : Nat := p / 2 ^ 26 % 4
def csIndex (p : Nat) : Nat := p / 2 ^ 12 % 2 ^ 14

/-- Which store a pointer is for: none the packet buffers, some n cluster n's store. -/
abbrev Store := Option Nat

/-- The key of a buffer in the Granary's own tables. -/
def bufKey (st : Store) (p : Nat) : Nat :=
  match st with
  | none => p + 2 ^ 32
  | some _ => p

/-- Address of a buffer's status word (R263). -/
def statusAddr (st : Store) (p : Nat) : Nat :=
  match st with
  | none => aBufStatus (ptrRow p)
  | some n => aCsStatus n (csClass p) (csIndex p)

/-- States of R263. -/
def bsFree : Nat := 0
def bsPrivate : Nat := 1
def bsShared : Nat := 2
def bsQuarantined : Nat := 3

def bufState (s : State) (st : Store) (p : Nat) : Nat := rdf s (statusAddr st p) 63 62

/-- Buffer size in bytes. -/
def bufSize (st : Store) (p : Nat) : Nat :=
  match st with
  | none => 256 * 2 ^ ptrClass p
  | some _ => 4096 * 4 ^ csClass p

/-- The manager that owns a buffer (R448): slice m, or cluster hub n as 8 + n. -/
def managerOf (st : Store) (p : Nat) : Nat :=
  match st with
  | none => ptrStart p
  | some n => 8 + n

/-- The first index at or after `start`, cyclically, at which f holds (fuel: how many are left). -/
def findFrom (f : Nat → Bool) (n : Nat) : Nat → Nat → Option Nat
  | 0, _ => none
  | k + 1, i => if f (i % n) then some (i % n) else findFrom f n k (i + 1)

/-- A free buffer of class k in slice m, the search beginning at a free value (R260, log 6). -/
def freeIn (s : State) (k m : Nat) : Option Nat :=
  let n := classCount s k / 8
  if n = 0 || s.grn.rebuilding.contains (8 * m + k) then none
  else
    (findFrom (fun i => bufState s none (bufPtr s k (8 * i + m)) == bsFree) n n
      (Config.pick s.picks % n)).map fun i => bufPtr s k (8 * i + m)

/-- The first slice in round-robin order from m with a free buffer of class k. -/
def freeInSlices (s : State) (k : Nat) : Nat → Nat → Option Nat
  | 0, _ => none
  | n + 1, m =>
    match freeIn s k (m % 8) with
    | some p => some p
    | none => freeInSlices s k n (m + 1)

/-- A free buffer of class k or a larger one, and whether it was borrowed (R260). -/
def freeAtLeast (s : State) (m : Nat) : Nat → Nat → Option Nat
  | 0, _ => none
  | n + 1, k =>
    match freeInSlices s k 8 m with
    | some p => some p
    | none => freeAtLeast s m n (k + 1)

/-- The smallest packet-buffer class that holds n bytes, n at most 16 KiB (R260). -/
def fitClass (n : Nat) : Nat := ceilLog2 (ceilDiv n 256)

/-- The smallest cluster-store class that holds n bytes, n at most 64 KiB (R258). -/
def csFitClass (n : Nat) : Nat := if n ≤ 4096 then 0 else if n ≤ 16384 then 1 else 2

def csCount (s : State) (c : Nat) : Nat := s.grn.storeCounts.getD c 0

/-- A free cluster-store buffer of class c of cluster n. -/
def csFreeIn (s : State) (n c : Nat) : Option Nat :=
  let cnt := csCount s c
  if cnt = 0 || s.grn.rebuilding.contains (8 * (8 + n) + c) then none
  else
    (findFrom (fun i => bufState s (some n) (csPtr n c i) == bsFree) cnt cnt
      (Config.pick s.picks % cnt)).map fun i => csPtr n c i

def csFreeAtLeast (s : State) (n : Nat) : Nat → Nat → Option Nat
  | 0, _ => none
  | k + 1, c =>
    match csFreeIn s n c with
    | some p => some p
    | none => csFreeAtLeast s n k (c + 1)

/-- Mark a buffer PRIVATE to an owner, stamped with the time (R263, R265). -/
def claim (s : State) (st : Store) (p owner plot furrow : Nat) : State :=
  let s := wr s (statusAddr st p)
    (bitsAt 63 62 bsPrivate ||| bitsAt 61 50 plot ||| bitsAt 49 46 furrow ||| bitsAt 45 32 owner
      ||| bitsAt 31 0 (nowUs s))
  { s with picks := s.picks + 1 }

/-- Furrows whose packet buffers are charged to the plot (R268). -/
def charged (f : Nat) : Bool := f == 3 || f == 5 || f == 6 || (8 ≤ f && f ≤ 15)

/-- Charge or release class units of a plot and furrow (R268, R269). -/
def chargeQuota (s : State) (plot f units : Nat) : State :=
  if charged f then wrf s (aQuota plot f) 20 0 (rdf s (aQuota plot f) 20 0 + units) else s
def releaseQuota (s : State) (plot f units : Nat) : State :=
  if charged f then drain s (aQuota plot f) 20 0 units else s

/-- Whether a charge stays within the limit (R269, R270). -/
def quotaOk (s : State) (plot f units : Nat) : Bool :=
  !charged f || decide (rdf s (aQuota plot f) 20 0 + units ≤ rdf s (aQuota plot f) 52 32)

/-- Units of 256 bytes that a list of packet buffers is charged at. -/
def unitsOf (ps : List Nat) : Nat := (ps.map fun p => 2 ^ ptrClass p).sum

/-- One packet buffer for n bytes (n at most 16 KiB): the search starts at the requester's
round-robin slice; a borrow counts at the supplying manager (R260). Not charged to a quota. -/
def allocOne (s : State) (who owner plot furrow n : Nat) : Option (State × Nat) :=
  let m := tget 0 s.fab.rr who
  let k := fitClass n
  match freeAtLeast s m (7 - k) k with
  | none => none
  | some p =>
    let s := { s with fab := { s.fab with rr := tset 0 s.fab.rr who ((ptrStart p + 1) % 8) } }
    let s := if k < ptrClass p then count s 6 (ptrStart p) 0 1 else s
    some (claim s none p owner plot furrow, p)

/-- The packet buffers of a payload: none for 0 bytes, one up to 16 KiB, else a chain (R254,
R256). Fuel: the number of 16 KiB pieces. -/
def allocChain (s : State) (who owner plot furrow : Nat) : Nat → Nat → Option (State × List Nat)
  | 0, _ => some (s, [])
  | fuel + 1, n =>
    if n = 0 then some (s, [])
    else
      match allocOne s who owner plot furrow (Nat.min n 16384) with
      | none => none
      | some (s', p) =>
        match allocChain s' who owner plot furrow fuel (n - 16384) with
        | none => none
        | some (s'', ps) => some (s'', p :: ps)

/-- Write a payload into its buffers, 16 KiB into each but the last. -/
def fillBufs (s : State) (st : Store) (step : Nat) : List Nat → List Byte → State
  | [], _ => s
  | p :: ps, bs =>
    let s := { s with grn := { s.grn with data := tset [] s.grn.data (bufKey st p) (bs.take step) } }
    fillBufs s st step ps (bs.drop step)

/-- Link a chain to its first buffer (R256). -/
def setChain (s : State) (st : Store) (ps : List Nat) : State :=
  match ps with
  | p :: q :: rest =>
    { s with grn := { s.grn with chains := tset [] s.grn.chains (bufKey st p) (q :: rest) } }
  | _ => s

/-- Allocate packet buffers for a payload (R260). -/
def allocPacket (s : State) (who owner plot furrow : Nat) (payload : List Byte) :
    Option (State × List Nat) :=
  match allocChain s who owner plot furrow (payload.length / 16384 + 1) payload.length with
  | none => none
  | some (s', ps) => some (setChain (fillBufs s' none 16384 ps payload) none ps, ps)

/-- Cluster-store buffers for n bytes: 64 KiB pieces and the smallest class for the rest (R259). -/
def allocStore (s : State) (n owner plot : Nat) : Nat → Nat → Option (State × List Nat)
  | 0, _ => some (s, [])
  | fuel + 1, bytes =>
    if bytes = 0 then some (s, [])
    else
      let c := csFitClass (Nat.min bytes 65536)
      match csFreeAtLeast s n (3 - c) c with
      | none => none
      | some p =>
        let s := if c < csClass p then count s 6 (8 + n) 0 1 else s
        match allocStore (claim s (some n) p owner plot 0) n owner plot fuel (bytes - 65536) with
        | none => none
        | some (s', ps) => some (s', p :: ps)

/-- 4 KiB units that a list of cluster-store buffers counts at (R259). -/
def csUnits (ps : List Nat) : Nat := (ps.map fun p => 4 ^ csClass p).sum

/-- 4 KiB units that n bytes take at class sizes without borrowing (R259). -/
def csUnitsFor (n : Nat) : Nat :=
  if n = 0 then 0
  else
    let full := (n - 1) / 65536
    16 * full + 4 ^ csFitClass (n - 65536 * full)

/-! ## Granary: owners (R264 to R267) -/

def ownPort (p : Nat) : Nat := p
def ownIngress (p : Nat) : Nat := 0x0200 + p
def ownHub (n : Nat) : Nat := 0x0400 + n
def ownCore (u : Nat) : Nat := 0x0410 + u
def ownD2d (n : Nat) : Nat := 0x0480 + n
def ownReeve : Nat := 0x0490

/-- Mask bit of an owner ID (R264); ingress ports are never shared. -/
def maskBit (o : Nat) : Option Nat :=
  if o < 0x200 then some o
  else if 0x400 ≤ o ∧ o < 0x40C then some (512 + (o - 0x400))
  else if 0x410 ≤ o ∧ o < 0x410 + 108 then some (524 + (o - 0x410))
  else if 0x480 ≤ o ∧ o < 0x48C then some (632 + (o - 0x480))
  else if o = 0x490 then some 644
  else none

/-- The owner ID of a mask bit. -/
def ownerOfBit (b : Nat) : Nat :=
  if b < 512 then b
  else if b < 524 then 0x400 + (b - 512)
  else if b < 632 then 0x410 + (b - 524)
  else if b < 644 then 0x480 + (b - 632)
  else 0x490

/-- The mask of an owner record. -/
def recMask (s : State) (st : Store) (r : Nat) : Nat :=
  match st with
  | none => leNat (leOfWords (rdEntry s (aOwnerRec r 0) 12))
  | some n => tget 0 s.grn.csMasks (1024 * n + r)

/-- Number of owners a mask names. -/
def maskCount (m : Nat) : Nat := ((List.range 768).filter fun b => m.testBit b).length

/-- Write an owner record: its mask and the buffer it is for; an empty mask clears it. -/
def setRec (s : State) (st : Store) (r mask p : Nat) : State :=
  match st with
  | none =>
    let s := wrEntry s (aOwnerRec r 0) (wordsOfLe 12 (leBytes 96 mask))
    wr s (aOwnerRec r 12)
      (if mask = 0 then 0 else bitsAt 41 32 (maskCount mask) ||| bitsAt 31 0 p)
  | some n => { s with grn := { s.grn with csMasks := tset 0 s.grn.csMasks (1024 * n + r) mask } }

/-- A free owner record. -/
def freeRec (s : State) (st : Store) : Option Nat :=
  let n := match st with
    | none => 16384
    | some _ => 1024
  findFrom (fun r => recMask s st r == 0) n n (Config.pick s.picks % n)

/-- The owners that a buffer names. -/
def ownersOf (s : State) (st : Store) (p : Nat) : List Nat :=
  let a := statusAddr st p
  match bufState s st p with
  | 1 => [rdf s a 45 32]
  | 2 =>
    let m := recMask s st (rdf s a 45 32)
    ((List.range 768).filter fun b => m.testBit b).map ownerOfBit
  | _ => []

/-- Codes and counters of R275: code 0x40 + x counts in counter 3 + x. The error is logged with the
pointer, and GRN_ERR captures the first since it was re-armed (R280). -/
def grnReport (s : State) (code mgr p owner plot furrow : Nat) (group : Nat := 0xFFFF)
    (number : Nat := 0xFFFF_FFFF) : State :=
  let s := count s 6 mgr (3 + (code - 0x40)) 1
  let s := event s (0x0740 + (code - 0x40)) srcManager mgr
    { plot := plot, detail := p, group := group, number := number }
  if rdb s (aGrnErr 0) 63 then wrf s (aGrnErr 0) 62 62 1
  else
    let s := wr s (aGrnErr 0)
      (bitsAt 63 63 1 ||| bitsAt 55 48 code ||| bitsAt 47 43 mgr ||| bitsAt 31 0 p)
    wr s (aGrnErr 1)
      (bitsAt 63 48 owner ||| bitsAt 47 36 plot ||| bitsAt 35 32 furrow ||| bitsAt 31 0 (nowUs s))

/-- Checks 1 to 3 of R262 on a pointer: the error code of the first that fails. -/
def ptrError (s : State) (st : Store) (p : Nat) : Option Nat :=
  match st with
  | none =>
    let k := ptrClass p
    let row := ptrRow p
    let base := classBaseRow s k
    if p % 64 != 0 || k == 7 then some 0x40
    else if row < base || base + classCount s k * 2 ^ k ≤ row then some 0x40
    else if (row - base) % 2 ^ k != 0 || (row - base) / 2 ^ k % 8 != ptrStart p then some 0x41
    else none
  | some n =>
    if p % 2 ^ 12 != 0 || csClass p == 3 then some 0x40
    else if csCluster p != n || csCount s (csClass p) ≤ csIndex p then some 0x40
    else none

/-- Return a buffer to its pool: record, quota charge, status; a buffer with an uncorrectable unit
is quarantined until reset (R266, R275). -/
def freeOne (s : State) (st : Store) (p : Nat) : State :=
  let a := statusAddr st p
  let s := if bufState s st p == bsShared then setRec s st (rdf s a 45 32) 0 p else s
  let s := match st with
    | none => releaseQuota s (rdf s a 61 50) (rdf s a 49 46) (2 ^ ptrClass p)
    | some _ => s
  let s := { s with grn := { s.grn with flags := tset [] s.grn.flags (bufKey st p) [] } }
  if s.grn.bad.contains (bufKey st p) then wr s a (bitsAt 63 62 bsQuarantined) else wr s a 0

/-- Free a buffer and the rest of its chain. -/
def freeChain (s : State) (st : Store) (p : Nat) : State :=
  let rest := tget [] s.grn.chains (bufKey st p)
  let s := forAll (fun s q => freeOne s st q) s (p :: rest)
  { s with grn := { s.grn with chains := tset [] s.grn.chains (bufKey st p) [] } }

/-- Free every buffer of a list. -/
def freeBufs (s : State) (st : Store) (ps : List Nat) : State :=
  forAll (fun s p => freeOne s st p)
    { s with grn := { s.grn with
        chains := (ps.foldl (fun t p => tset [] t (bufKey st p) []) s.grn.chains) } } ps

/-- The manager clears an owner's bit, without checks (R266, R267): the last clear frees. -/
def clearOwner (s : State) (st : Store) (p owner : Nat) : State :=
  let a := statusAddr st p
  match bufState s st p with
  | 1 => if rdf s a 45 32 = owner then freeChain s st p else s
  | 2 =>
    let r := rdf s a 45 32
    match maskBit owner with
    | none => s
    | some b =>
      let m := recMask s st r
      if !m.testBit b then s
      else
        let m' := m - 2 ^ b
        if m' = 0 then freeChain s st p else setRec s st r m' p
  | _ => s

/-- Remask by the sole owner: PRIVATE for one new owner, SHARED for more (R265). None where no
owner record is free. -/
def remask (s : State) (st : Store) (p : Nat) (owners : List Nat) : Option State :=
  let a := statusAddr st p
  let old := if bufState s st p == bsShared then some (rdf s a 45 32) else none
  match owners with
  | [] => some s
  | [o] =>
    let s := match old with
      | some r => setRec s st r 0 p
      | none => s
    some (wrf (wrf s a 63 62 bsPrivate) a 45 32 o)
  | _ =>
    let mask := (owners.filterMap maskBit).foldl (fun m b => m ||| 2 ^ b) 0
    let rec? := match old with
      | some r => some r
      | none => freeRec s st
    match rec? with
    | none => none
    | some r =>
      let s := setRec s st r mask p
      let s := { s with picks := s.picks + 1 }
      some (wrf (wrf s a 63 62 bsShared) a 45 32 r)

/-! ## Egress queues -/

def qKey (p f : Nat) : Nat := 16 * p + f
def queueOf (s : State) (p f : Nat) : List Pkt := tget [] s.fab.queues (qKey p f)
def sendingOn (s : State) (p : Nat) : Option Pkt := tone s.fab.sending p
def setQueue (s : State) (p f : Nat) (q : List Pkt) : State :=
  { s with fab := { s.fab with queues := tset [] s.fab.queues (qKey p f) q } }
def setSending (s : State) (p : Nat) (x : List Pkt) : State :=
  { s with fab := { s.fab with sending := tset [] s.fab.sending p x } }

/-- Byte depth of egress queue (p, f): packets admitted and not yet sent (R294). -/
def queueDepth (s : State) (p f : Nat) : Nat :=
  ((queueOf s p f).map fun k => wireBytes k.hdr.length).sum
    + (match sendingOn s p with
       | some k => if k.hdr.furrow = f then wireBytes k.hdr.length else 0
       | none => 0)

/-- Whether tag a is smaller than tag b (R285). -/
def tagLt (a b : Nat) : Bool := decide (2 ^ 31 ≤ (a + 2 ^ 32 - b) % 2 ^ 32)

/-- The tag of a packet that reaches the head of furrow f (R284). -/
def finishTag (s : State) (p f len : Nat) : Nat :=
  let v := rdf s (aSchPort p) 63 32
  let last := tget 0 s.fab.lastTag (qKey p f)
  let base := if tagLt v last then last else v
  (base + ceilDiv (wireBytes len * 4096) (Nat.max 1 (rdf s (aSch p f 0) 63 56))) % 2 ^ 32

/-- Give the head of a queue its tag (R284). -/
def tagHead (s : State) (p f : Nat) : State :=
  match queueOf s p f with
  | [] => s
  | k :: ks =>
    let t := finishTag s p f k.hdr.length
    let s := setQueue s p f ({ k with tag := t } :: ks)
    { s with fab := { s.fab with lastTag := tset 0 s.fab.lastTag (qKey p f) t } }

/-- The level of R120 for a queue depth. -/
def markLevel (s : State) (p f depth : Nat) : Nat :=
  if rdf s (aCmarkThr p f) 47 24 * 256 < depth then 2
  else if rdf s (aCmarkThr p f) 23 0 * 256 < depth then 1
  else 0

def statOf (s : State) (p f : Nat) : QueueStat := tget QueueStat.empty s.yld.stats (qKey p f)
def setStat (s : State) (p f : Nat) (x : QueueStat) : State :=
  { s with yld := { s.yld with stats := tset QueueStat.empty s.yld.stats (qKey p f) x } }

/-- CMARK on placement in a queue of furrows 8 to 15 (R120); collective and originated traffic
uses other furrows. -/
def markPkt (s : State) (p f : Nat) (k : Pkt) : State × Pkt :=
  if f < 8 then (s, k)
  else
    let lvl := markLevel s p f (queueDepth s p f + wireBytes k.hdr.length)
    let cur := Nat.min 2 k.hdr.cmark
    let k' := { k with hdr := k.hdr.setCmark (Nat.max cur lvl) }
    if cur < lvl then
      let s := count s 2 (qKey p f) 0 1
      let x := statOf s p f
      (setStat s p f { x with marks := Nat.min 0xFFFF (x.marks + 1) }, k')
    else (s, k')

/-- Place a packet in an egress queue (R120, R284). -/
def enqueue (s : State) (p : Nat) (k : Pkt) : State :=
  let f := k.hdr.furrow
  let m := markPkt s p f k
  let q := queueOf m.1 p f
  let s := setQueue m.1 p f (q ++ [m.2])
  if q.isEmpty then tagHead s p f else s

/-- A new packet identity. -/
def freshUid (s : State) : State × Nat :=
  ({ s with fab := { s.fab with nextUid := s.fab.nextUid + 1 } }, s.fab.nextUid)

/-- Return the ingress credits that a packet from another device holds (R106). -/
def giveBack (s : State) (k : Pkt) : State :=
  match k.use with
  | .forward i => returnCredits s i k.hdr.furrow (creditsOf k.hdr.length)
  | _ => s

/-- What is left to do when a packet leaves the device or is discarded: return the ingress credits
of a forwarded packet and clear the buffers it holds on the port (R106, R266, R267). -/
def releasePkt (s : State) (port : Nat) (k : Pkt) : State :=
  let s := giveBack s k
  match k.use with
  | .upResult _ _ _ => s
  | .sow _ _ _ _ => s
  | _ =>
    forAll (fun s b => clearOwner (clearOwner s none b (ownPort port)) none b ownReeve) s
      (k.bufs.take 1)

end Sys2Proof.Machine
end

