-- ==== Sys2Proof/Machine/Regs.lean ====
section
/-! DEFINITION. Register conventions (R9 to R12): a write applied field by field, what it logs, and
the staging buffers of the management paths (R441). -/

namespace Sys2Proof.Machine

/-- What a management write answers: applied, an access error, or a table's refusal code (R432). -/
inductive WrOut
  | ok
  | access
  | refused (code : Nat)
deriving DecidableEq, Repr

/-- The state after a management write, and its answer. -/
structure WrRes where
  st : State
  out : WrOut
deriving DecidableEq, Repr

/-- Field types of R10; `rsv` is a reserved field (R11). -/
inductive FieldTy
  | ro | rsv | rw | w1c | wo | rw1
deriving DecidableEq, Repr

/-- A field of a register: its bits, its type and its legal values, judged on the written word. -/
structure RField where
  hi : Nat
  lo : Nat
  ty : FieldTy
  legal : Word → Bool := fun _ => true

/-- A field with every value legal. -/
def rw (hi lo : Nat) : RField := ⟨hi, lo, .rw, fun _ => true⟩
/-- A field whose legal values a predicate on its own value gives. -/
def rwIf (hi lo : Nat) (ok : Nat → Bool) : RField := ⟨hi, lo, .rw, fun w => ok (bitsOf w hi lo)⟩
def ro (hi lo : Nat) : RField := ⟨hi, lo, .ro, fun _ => true⟩
def rsv (hi lo : Nat) : RField := ⟨hi, lo, .rsv, fun _ => true⟩
def wo (hi lo : Nat) : RField := ⟨hi, lo, .wo, fun _ => true⟩
def w1c (hi lo : Nat) : RField := ⟨hi, lo, .w1c, fun _ => true⟩

/-- One field of the new word (R10 to R12). `first` says that no RW1 write has been made. -/
def putField (first : Bool) (old v acc : Word) (f : RField) : Word :=
  match f.ty with
  | .ro | .rsv => acc
  | .rw | .wo => if f.legal v then putBits acc f.hi f.lo (bitsOf v f.hi f.lo) else acc
  | .rw1 => if first && f.legal v then putBits acc f.hi f.lo (bitsOf v f.hi f.lo) else acc
  | .w1c => acc &&& ~~~ (v &&& maskOf f.hi f.lo &&& old)

/-- The word a register holds after a write. -/
def mergedWord (first : Bool) (fs : List RField) (old v : Word) : Word :=
  fs.foldl (putField first old v) old

/-- A field that no write changes. -/
def RField.fixed (f : RField) : Bool := f.ty == .ro || f.ty == .rsv

/-- A write that R10 counts and logs as read-only: any write of a word that has read-only fields and no
writable one, and in a mixed word one that would change a read-only field (log 14). -/
def touchesRo (fs : List RField) (old v : Word) : Bool :=
  fs.any fun f => f.ty == .ro && (fs.all RField.fixed || bitsOf v f.hi f.lo != bitsOf old f.hi f.lo)

def touchesReserved (fs : List RField) (v : Word) : Bool :=
  fs.any fun f => f.ty == .rsv && bitsOf v f.hi f.lo != 0

def outOfRange (fs : List RField) (v : Word) : Bool :=
  fs.any fun f => (f.ty == .rw || f.ty == .wo || f.ty == .rw1) && !f.legal v

def hasRw1 (fs : List RField) : Bool := fs.any fun f => f.ty == .rw1

/-- A register-convention event: the path is the source, the address is in DETAIL (R445). -/
def regEvent (s : State) (code path addr : Nat) : State :=
  event s code srcPath path { detail := addr % 2 ^ 32 }

def evRoWrite : Nat := 0x0101
def evReserved : Nat := 0x0102
def evOutOfRange : Nat := 0x0103
def evRw1Repeat : Nat := 0x0104

/-- What a write logs under R10 to R12, each kind once. -/
def logWrite (s : State) (path addr : Nat) (fs : List RField) (old v : Word) : State :=
  let s := if touchesRo fs old v then
      regEvent { s with roWrites := s.roWrites + 1 } evRoWrite path addr
    else s
  let s := if touchesReserved fs v then regEvent s evReserved path addr else s
  let s := if outOfRange fs v then regEvent s evOutOfRange path addr else s
  if hasRw1 fs && s.mg.rw1.contains addr then regEvent s evRw1Repeat path addr else s

/-- A write applied by its field types (R10 to R12). -/
def regWrite (s : State) (path addr : Nat) (fs : List RField) (v : Word) : State :=
  let old := rd s addr
  let first := !s.mg.rw1.contains addr
  let s := wr (logWrite s path addr fs old v) addr (mergedWord first fs old v)
  if hasRw1 fs && first then { s with mg := { s.mg with rw1 := addr :: s.mg.rw1 } } else s

/-- A write refused under R12 as a whole: it keeps every field and logs the event. -/
def refuseR12 (s : State) (path addr : Nat) : State := regEvent s evOutOfRange path addr

/-! ## Staging (R441) -/

def stageOf (s : State) (path : Nat) : Stage := tget Stage.empty s.mg.stages path
def setStage (s : State) (path : Nat) (x : Stage) : State :=
  { s with mg := { s.mg with stages := tset Stage.empty s.mg.stages path x } }

/-- Stage word i (1 to 7) of the entry whose word 0 is at `target`: a write to another entry
discards what was staged. -/
def stageWord (s : State) (path target i : Nat) (v : Word) : State :=
  let x := stageOf s path
  let x := if x.valid && x.target == target then x
    else { target := target, valid := true, written := 0, words := zeroEntry 8 }
  setStage s path { x with
    written := x.written ||| 2 ^ i, words := (List.range 8).map fun j => if j = i then v else wordAt x.words j }

/-- The entry that a word-0 write commits: the staged words where written, else the words the entry
holds. -/
def stagedEntry (s : State) (path target : Nat) (v : Word) : Entry :=
  let x := stageOf s path
  (List.range 8).map fun i =>
    if i = 0 then v
    else if x.valid && x.target == target && x.written.testBit i then wordAt x.words i
    else rd s (target + 8 * i)

/-- A commit, accepted or not, leaves the path's buffer empty. -/
def dropStage (s : State) (path : Nat) : State := setStage s path Stage.empty

/-- Cluster n is in service: CAP_AVAIL.CLUSTER_MASK (R7). -/
def clusterUp (s : State) (n : Nat) : Bool := decide (n < 12) && rdb s aCapAvail (52 + n)

end Sys2Proof.Machine
end

