-- ==== Sys2Proof/Machine/GroupTable.lean ====
section
/-! DEFINITION. Group and member entries (R134 to R137), the definition and collective signatures
(R141) and the sizes of R146. -/

namespace Sys2Proof.Machine

/-- Group states (R134). -/
def gsFree : Nat := 0
def gsActive : Nat := 1
def gsFallow : Nat := 2

/-- Roles (R134). -/
def roleRoot : Nat := 0
def roleInterior : Nat := 1
def roleLeaf : Nat := 2

/-- Group kinds (R135). -/
def gkReapSow : Nat := 0
def gkReapToBin : Nat := 1
def gkReapToOne : Nat := 2
def gkSowVersion : Nat := 3
def gkSowData : Nat := 4
def gkVerdict : Nat := 5

/-- Fields of a group entry. -/
structure Group where
  state : Nat
  role : Nat
  gkind : Nat
  strict : Bool
  gradient : Bool
  polInf : Bool
  express : Bool
  deferred : Bool
  plot : Nat
  op : Nat
  inFmt : Nat
  outFmt : Nat
  wFmt : Nat
  owner : Nat
  elems : Nat
  chunkSb : Nat
  rowLen : Nat
  rankSpace : Nat
  spanCount : Nat
  spanLo : Nat
  parentPort : Nat
  stragglerUs : Nat
  quota4k : Nat
  maxOut : Nat
  members : Nat
  memberBase : Nat
  defSig : Nat
  instSeq : Nat
  outstanding : Nat
  tensor : Nat
  elemBase : Nat
deriving DecidableEq, Repr

/-- The fields of an entry's eight words (R134). -/
def groupOf (e : Entry) : Group :=
  let w := wordAt e
  { state := bitsOf (w 0) 63 62, role := bitsOf (w 0) 61 60, gkind := bitsOf (w 0) 59 57,
    strict := bitOf (w 0) 56, gradient := bitOf (w 0) 55, polInf := bitOf (w 0) 54,
    express := bitOf (w 0) 53, deferred := bitOf (w 0) 52, plot := bitsOf (w 0) 51 40,
    op := bitsOf (w 0) 39 32, inFmt := bitsOf (w 0) 31 26, outFmt := bitsOf (w 0) 25 20,
    wFmt := bitsOf (w 0) 19 14, owner := bitsOf (w 0) 3 0,
    elems := bitsOf (w 1) 63 24, chunkSb := bitsOf (w 1) 23 16, rowLen := bitsOf (w 1) 15 0 + 1,
    rankSpace := bitsOf (w 2) 63 47, spanCount := bitsOf (w 2) 46 30, spanLo := bitsOf (w 2) 29 14,
    parentPort := bitsOf (w 2) 8 0, stragglerUs := bitsOf (w 3) 63 40,
    quota4k := bitsOf (w 3) 39 28, maxOut := bitsOf (w 3) 27 24, members := bitsOf (w 3) 9 0,
    memberBase := bitsOf (w 4) 63 50, defSig := bitsOf (w 4) 31 0, instSeq := bitsOf (w 5) 63 32,
    outstanding := bitsOf (w 5) 31 28, tensor := bitsOf (w 6) 63 33, elemBase := bitsOf (w 7) 39 0 }

def groupAt (s : State) (g : Nat) : Group := groupOf (rdEntry s (aGroup g 0) 8)

/-- Groups whose entries hold something, in ascending order: the others are FREE. -/
def groupsListed (s : State) : List Nat :=
  s.regs.filterMap fun kv =>
    if aGroup 0 0 ≤ kv.1 ∧ kv.1 < aGroup 65536 0 ∧ (kv.1 - aGroup 0 0) % 64 = 0 then
      some ((kv.1 - aGroup 0 0) / 64)
    else none

/-- Groups that are not FREE. -/
def groupsLive (s : State) : List Nat :=
  (groupsListed s).filter fun g => rdf s (aGroup g 0) 63 62 != gsFree

/-- Member kinds (R137). -/
def mkEndpoint : Nat := 0
def mkChild : Nat := 1
def mkResultOnly : Nat := 2

/-- Fields of a member entry (R137). -/
structure Member where
  kind : Nat
  designated : Bool
  port : Nat
  rankCount : Nat
  rankLo : Nat
  landingKey : Nat
  landingBase : Nat
  endpoint : Nat
  landingBytes : Nat
deriving DecidableEq, Repr

def memberOf (e : Entry) : Member :=
  let w := wordAt e
  { kind := bitsOf (w 0) 63 62, designated := bitOf (w 0) 61, port := bitsOf (w 0) 60 52,
    rankCount := bitsOf (w 0) 51 35, rankLo := bitsOf (w 0) 34 19, landingKey := bitsOf (w 0) 15 0,
    landingBase := (w 1).toNat, endpoint := bitsOf (w 2) 63 46, landingBytes := bitsOf (w 2) 39 0 }

/-- Member entry i of cluster n. -/
def memberAt (s : State) (n i : Nat) : Member := memberOf (rdEntry s (aMember n i 0) 4)

/-- Member m (0 upward) of a group. -/
def memberN (s : State) (g : Group) (m : Nat) : Member := memberAt s g.owner (g.memberBase + m)

/-- The members of a group, in entry order. -/
def membersOf (s : State) (g : Group) : List Member :=
  (List.range g.members).map (memberN s g)

/-- Members that contribute: all but RESULT_ONLY. -/
def contributes (m : Member) : Bool := m.kind == mkEndpoint || m.kind == mkChild

/-- The member entry of a port. -/
def memberOnPort (s : State) (g : Group) (port : Nat) : Option Nat :=
  (List.range g.members).find? fun m => (memberN s g m).port == port

/-- The definition block of R141. -/
def defBlock (g : Group) : List Byte :=
  [BitVec.ofNat 8 g.op, BitVec.ofNat 8 g.inFmt, BitVec.ofNat 8 g.outFmt, BitVec.ofNat 8 g.wFmt,
   BitVec.ofNat 8 (b2n g.strict + 2 * b2n g.gradient + 4 * b2n g.polInf + 8 * b2n g.express
      + 16 * b2n g.deferred + 32 * g.gkind),
   BitVec.ofNat 8 g.chunkSb]
    ++ beBytes 2 (g.rowLen - 1) ++ beBytes 5 g.elems ++ beBytes 3 g.rankSpace

/-- DEF_SIG as the device computes it (R141). -/
def defSigOf (g : Group) : Nat := crc32c (defBlock g)

/-- The signature of the instance of a sequence number (R141). -/
def sigOf (g : Group) (seq : Nat) : Nat := crc32c (defBlock g ++ beBytes 2 (seq % 2 ^ 16))

/-- Elements of a full chunk, the number of chunks, the elements of chunk k (R134). -/
def chunkElems (g : Group) : Nat := 256 * g.chunkSb
def chunkCount (g : Group) : Nat := ceilDiv g.elems (Nat.max 1 (chunkElems g))
def elemsOfChunk (g : Group) (k : Nat) : Nat := Nat.min (chunkElems g) (g.elems - k * chunkElems g)

/-- The operation of the group's opcode. -/
def groupOp (g : Group) : Option BinOp := binOpOf g.op

/-- A masked dispatch (R160). -/
def masked (g : Group) : Bool := g.gkind == gkSowData && 1 < g.rowLen

/-- Bytes of one token record of a masked dispatch at its source, and as delivered (R160). -/
def tokenRow (g : Group) : Nat := ceilDiv (fmtBytes g.inFmt g.rowLen) 8 * 8
def tokenRecord (g : Group) : Nat := 40 + tokenRow g

end Sys2Proof.Machine
end

