-- ==== Sys2Proof/Machine/Shake.lean ====
section
/-! DEFINITION. SHAKE256, which the manual names and does not define: PRESUMED to be the function of
FIPS 202 (log 8). -/

namespace Sys2Proof.Machine

/-- Rotate a lane left by n (0 to 63). -/
def rotLane (w : Word) (n : Nat) : Word := (w <<< n) ||| (w >>> ((64 - n) % 64)) &&& (if n = 0 then 0 else -1)

/-- Rotation offsets of ρ, lane x + 5y. -/
def rhoTable : List Nat :=
  [0, 1, 62, 28, 27, 36, 44, 6, 55, 20, 3, 10, 43, 25, 39, 41, 45, 15, 21, 8, 18, 2, 61, 56, 14]

/-- Round constants of ι. -/
def iotaTable : List Word :=
  [0x0000000000000001, 0x0000000000008082, 0x800000000000808A, 0x8000000080008000,
   0x000000000000808B, 0x0000000080000001, 0x8000000080008081, 0x8000000000008009,
   0x000000000000008A, 0x0000000000000088, 0x0000000080008009, 0x000000008000000A,
   0x000000008000808B, 0x800000000000008B, 0x8000000000008089, 0x8000000000008003,
   0x8000000000008002, 0x8000000000000080, 0x000000000000800A, 0x800000008000000A,
   0x8000000080008081, 0x8000000000008080, 0x0000000080000001, 0x8000000080008008]

def laneAt (a : List Word) (x y : Nat) : Word := a.getD (x % 5 + 5 * (y % 5)) 0

/-- One round of Keccak-f[1600] on 25 lanes. -/
def keccakRound (a : List Word) (rc : Word) : List Word :=
  let c := (List.range 5).map fun x =>
    laneAt a x 0 ^^^ laneAt a x 1 ^^^ laneAt a x 2 ^^^ laneAt a x 3 ^^^ laneAt a x 4
  let d := (List.range 5).map fun x => c.getD ((x + 4) % 5) 0 ^^^ rotLane (c.getD ((x + 1) % 5) 0) 1
  let t := (List.range 25).map fun i => a.getD i 0 ^^^ d.getD (i % 5) 0
  let b := (List.range 25).map fun i =>
    let x := i % 5
    let y := i / 5
    let sx := (x + 3 * y) % 5
    rotLane (laneAt t sx x) (rhoTable.getD (sx + 5 * x) 0)
  (List.range 25).map fun i =>
    let x := i % 5
    let y := i / 5
    let v := laneAt b x y ^^^ (~~~ (laneAt b (x + 1) y) &&& laneAt b (x + 2) y)
    if i = 0 then v ^^^ rc else v

def keccakF (a : List Word) : List Word := iotaTable.foldl keccakRound a

/-- Absorb 136-byte blocks. -/
def keccakAbsorb (a : List Word) : List (List Byte) → List Word
  | [] => a
  | blk :: rest =>
    let ws := wordsOfLe 17 blk
    keccakAbsorb (keccakF ((List.range 25).map fun i => a.getD i 0 ^^^ ws.getD i 0)) rest

/-- Squeeze blocks of 136 bytes (fuel: the number of blocks). -/
def keccakSqueeze : Nat → List Word → List Byte
  | 0, _ => []
  | n + 1, a => leOfWords (a.take 17) ++ keccakSqueeze n (keccakF a)

/-- SHAKE256 of a byte string, n output bytes. -/
def shake256 (n : Nat) (bs : List Byte) : List Byte :=
  let r := 136 - bs.length % 136
  let pad : List Byte :=
    if r = 1 then [0x9F] else [0x1F] ++ List.replicate (r - 2) 0 ++ [0x80]
  let m := bs ++ pad
  (keccakSqueeze (n / 136 + 1)
    (keccakAbsorb (List.replicate 25 0) (piecesOf 136 (m.length / 136 + 1) m))).take n

/-- The 64-bit digest of R359: the first 8 output bytes, little-endian. -/
def digest64 (bs : List Byte) : Word := BitVec.ofNat 64 (leNat (shake256 8 bs))

end Sys2Proof.Machine
end

