-- ==== Sys2Proof/Machine/Capture.lean ====
section
/-! DEFINITION. Record mode's capture side: what the selection takes in and the capture buffer
(R356, R358, R361). -/

namespace Sys2Proof.Machine

/-- States of REC_STAT (R364). -/
def recIdle : Nat := 0
def recRecording : Nat := 1
def recFull : Nat := 2
def recStopped : Nat := 3
def recReplaying : Nat := 4
def recReplayDone : Nat := 5

def aRecStat : Nat := aRec 0x10
def aRecLost : Nat := aRec 0x18
def recState (s : State) : Nat := rdf s aRecStat 63 60

/-- Body bytes of a 64 KiB block (R357). -/
def blockBody : Nat := 65472

/-- Stacks of the journal in ascending order: CLUSTER_MASK at START (R357). -/
def journalStacks (s : State) : List Nat := (List.range 12).filter fun n => s.rcd.mask.testBit n

def entryBytes (e : JEntry) : Nat := 8 * e.length

/-- A journal entry: the 16-byte header of R358 and the body. -/
def journalEntry (s : State) (kind port cluster : Nat) (body : List Word) : JEntry :=
  (bitsAt 63 60 kind ||| bitsAt 59 44 (2 + body.length) ||| bitsAt 43 35 port
    ||| bitsAt 34 31 cluster) :: BitVec.ofNat 64 (now s) :: body

/-- No port, no cluster in an entry header; a cluster of 0xF names none (log 15). -/
def noPort : Nat := 0x1FF
def noCluster : Nat := 0xF

/-- Bytes captured and not yet in a finished block. -/
def capturedBytes (s : State) : Nat :=
  s.rcd.body.length + (s.rcd.pending.map entryBytes).sum

/-- Bytes waiting in the capture buffer of the journal stack that the next entry goes to: the
entries lie one after the other over the blocks, block b in stack b mod k. -/
def captureUse (s : State) : Nat :=
  let o := capturedBytes s
  let k := Nat.max 1 (journalStacks s).length
  let q := o / blockBody
  o % blockBody + blockBody * (q / k) - (if q % k = 0 then s.rcd.body.length else 0)

/-- Whether n bytes more find room in the capture buffer (R361). -/
def captureRoom (s : State) (n : Nat) : Bool :=
  decide (captureUse s + n ≤ s.grn.captureMiB * 2 ^ 20)

/-- An entry that found no room (R361). -/
def loseEntry (s : State) (e : JEntry) : State :=
  let s := bump s aRecLost 63 32 1
  let s := wrf s aRecStat 58 58 1
  let s := if s.rcd.gapDue then s else event s 0x0E03 srcDevice 0xFFF {}
  { s with rcd :=
      { s.rcd with
        gapDue := true, lost := s.rcd.lost + 1, lostBytes := s.rcd.lostBytes + entryBytes e } }

/-- Capture an entry whatever is selected: a GAP entry goes before it after an overrun (R361). -/
def capture (s : State) (e : JEntry) : State :=
  if recState s ≠ recRecording then s
  else if s.rcd.gapDue then
    let gap := journalEntry s 0x7 noPort noCluster
      [BitVec.ofNat 64 s.rcd.lost, BitVec.ofNat 64 s.rcd.lostBytes]
    if captureRoom s (entryBytes gap + entryBytes e) then
      { s with rcd :=
          { s.rcd with
            pending := s.rcd.pending ++ [gap, e], gapDue := false, lost := 0, lostBytes := 0 } }
    else loseEntry s e
  else if captureRoom s (entryBytes e) then
    { s with rcd := { s.rcd with pending := s.rcd.pending ++ [e] } }
  else loseEntry s e

/-! ## Selection (R356) -/

def recSelect (s : State) : Nat := rdf s (aRec 0) 63 62
def recPlot (s : State) : Nat := rdf s (aRec 0) 60 49
def recGroupLo (s : State) : Nat := rdf s (aRec 0) 48 33
def recGroupCount (s : State) : Nat := rdf s (aRec 0) 32 16

/-- Group g is selected; under PORTS every group is (log 15). -/
def recGroup (s : State) (g : Nat) : Bool :=
  match recSelect s with
  | 0 => (groupAt s g).plot == recPlot s
  | 1 => decide (recGroupLo s ≤ g ∧ g < recGroupLo s + recGroupCount s)
  | _ => true

/-- An arriving packet is selected. -/
def recPacket (s : State) (port : Nat) (h : Header) : Bool :=
  match recSelect s with
  | 0 => h.plot == recPlot s
  | 1 => typeCollective h.type
      && decide (recGroupLo s ≤ h.group ∧ h.group < recGroupLo s + recGroupCount s)
  | _ => rdb s (aRec (0x0100 + 8 * (port / 64))) (port % 64)

/-- The cluster a packet's entry names: its group's owner (R358). -/
def packetCluster (s : State) (h : Header) : Nat :=
  if typeCollective h.type then (groupAt s h.group).owner else noCluster

/-- A PACKET entry, for a packet whose tail has passed its checks (R356). -/
def capturePacket (s : State) (port since : Nat) (h : Header) (payload : List Byte) : State :=
  if recState s = recRecording && recPacket s port h then
    let bytes := h.bytes ++ padMul 8 payload
    let e := journalEntry s 0x1 port (packetCluster s h) (wordsOfLe (bytes.length / 8) bytes)
    capture s (e.set 1 (BitVec.ofNat 64 since))
  else s

/-- The groups that use a member-table entry. -/
def groupsOnMember (s : State) (n i : Nat) : List Nat :=
  (groupsLive s).filter fun g =>
    let x := groupAt s g
    x.owner == n && decide (x.memberBase ≤ i ∧ i < x.memberBase + x.members)

/-- The groups that a table address belongs to: group entries, output scales, member entries. -/
def groupsOfAddr (s : State) (a : Nat) : List Nat :=
  if aGroup 0 0 ≤ a ∧ a < aGroup 65536 0 then [(a - aGroup 0 0) / 64]
  else if aOscale 0 0 ≤ a ∧ a < aOscale 65536 0 then [(a - aOscale 0 0) / 128]
  else if 0x4000_0000 ≤ a ∧ a < 0x7000_0000 then
    let n := (a - 0x4000_0000) / 0x0400_0000
    let off := (a - 0x4000_0000) % 0x0400_0000
    if 0x0110_0000 ≤ off ∧ off < 0x0110_0000 + 32 * 16384 then
      groupsOnMember s n ((off - 0x0110_0000) / 32)
    else []
  else []

/-- The plots that a table address belongs to otherwise: plot entries, quotas, advance-sowing and
verdict entries, field-book entries (log 15). -/
def plotsOfAddr (s : State) (a : Nat) : List Nat :=
  if aPlot 0 0 ≤ a ∧ a < aPlot 4096 0 then [(a - aPlot 0 0) / 64]
  else if aQuota 0 0 ≤ a ∧ a < aQuota 4096 0 then [(a - aQuota 0 0) / 128]
  else if 0x4000_0000 ≤ a ∧ a < 0x7000_0000 then
    let off := (a - 0x4000_0000) % 0x0400_0000
    if 0x0120_0000 ≤ off ∧ off < 0x0120_0000 + 8 * 4096 then [(off - 0x0120_0000) / 8] else []
  else if 0x8000_0000 ≤ a ∧ a < 0x9000_0000 then
    let n := (a - 0x8000_0000) / 0x0100_0000
    let off := (a - 0x8000_0000) % 0x0100_0000
    if 0x0041_0000 ≤ off ∧ off < 0x0041_0000 + 64 * 4096 then [(off - 0x0041_0000) / 64]
    else if 0x0090_0000 ≤ off ∧ off < 0x0090_0000 + 64 * 32768 then
      [rdf s (aEntry n ((off - 0x0090_0000) / 64) 0) 51 40]
    else []
  else []

/-- Whether an address is one of the tables of R438. -/
def isTableAddr (a : Nat) : Bool :=
  (aFwdEntry 0 ≤ a && a < 0x3000_0000) || (aPol 0 0 0 ≤ a && a < 0x3C20_0000)
    || (0x4000_0000 ≤ a && a < 0x7000_0000
        && (let off := (a - 0x4000_0000) % 0x0400_0000; 0x0110_0000 ≤ off && off < 0x0130_0000))
    || (0x7000_0000 ≤ a && a < 0x7280_0000)
    || (0x8000_0000 ≤ a && a < 0x9000_0000
        && (let off := (a - 0x8000_0000) % 0x0100_0000
            (0x0041_0000 ≤ off && off < 0x0050_0000) || 0x0088_0000 ≤ off))
    || (aQuota 0 0 ≤ a && a < aQuota 4096 0)

/-- Whether an accepted write is selected. -/
def recWrite (s : State) (a : Nat) : Bool :=
  match recSelect s with
  | 0 => (groupsOfAddr s a).any (fun g => (groupAt s g).plot == recPlot s)
      || (plotsOfAddr s a).contains (recPlot s)
  | 1 => (groupsOfAddr s a).any (recGroup s)
  | _ => isTableAddr a

/-- A TABLE entry, for a write that was accepted (R356, R358). -/
def captureWrite (s : State) (a : Nat) (v : Word) : State :=
  if recState s = recRecording && recWrite s a then
    capture s (journalEntry s 0x5 noPort noCluster [bitsAt 47 0 a, v])
  else s

/-- A DIGEST entry (R358, R359): dest 0 parent, 1 root value. -/
def captureDigest (s : State) (cluster g seq dest chunk : Nat) (d : Word) : State :=
  if recState s = recRecording && recGroup s g then
    capture s (journalEntry s 0x3 noPort cluster
      [bitsAt 63 48 g ||| bitsAt 47 46 dest ||| bitsAt 23 0 chunk, bitsAt 63 32 seq, d])
  else s

/-- An ORDER entry: the ranks of the items in arrival order (R87, R358). -/
def captureOrder (s : State) (cluster g seq chunk : Nat) (ranks : List Nat) : State :=
  if recState s = recRecording && recGroup s g then
    let bytes := padMul 8 (ranks.flatMap fun r => leBytes 2 r)
    capture s (journalEntry s 0x2 noPort cluster
      ([bitsAt 63 48 g ||| bitsAt 23 0 chunk, bitsAt 63 32 seq ||| bitsAt 15 0 ranks.length]
        ++ wordsOfLe (bytes.length / 8) bytes))
  else s

/-- An INSTANCE entry: a selected instance reaches CLOSING (R358). -/
def captureInstance (s : State) (cluster g seq code cvt arith : Nat) : State :=
  if recState s = recRecording && recGroup s g then
    capture s (journalEntry s 0x4 noPort cluster
      [bitsAt 63 48 g ||| bitsAt 15 8 code, bitsAt 63 32 seq ||| bitsAt 15 8 cvt ||| bitsAt 3 0 arith])
  else s

/-- The GROUP_STATE entries of every selected ACTIVE group (R358). -/
def captureGroupStates (s : State) : State :=
  forAll (fun s g =>
    let x := groupAt s g
    capture s (journalEntry s 0x6 noPort x.owner
      [bitsAt 63 48 g, bitsAt 63 32 x.defSig ||| bitsAt 31 0 x.instSeq]))
    s ((groupsLive s).filter fun g => (groupAt s g).state == gsActive && recGroup s g)

/-! ## Management rows -/

/-- A management write as a command of its own: the halted device applies none (R401, R429); an
accepted write is captured (R356). -/
def mgApply (s : State) (addr : Nat) (v : Word) (op : State → WrRes) : State :=
  if isHalted s || !mgmtUp s then s
  else
    let r := op s
    match r.out with
    | .ok => captureWrite r.st addr v
    | _ => r.st

/-- A write to a command register: its fields are stored; the operation runs unless a field is out
of range, and a code other than OK refuses it (R12, R432). -/
def cmdWrite (s : State) (path addr : Nat) (fs : List RField) (v : Word)
    (op : State → State × Nat) : WrRes :=
  let s := regWrite s path addr fs v
  if outOfRange fs v then ⟨s, .ok⟩
  else
    let r := op s
    ⟨r.1, if r.2 = 0 then .ok else .refused r.2⟩

/-- A register with fields only. -/
def plainWrite (s : State) (path addr : Nat) (fs : List RField) (v : Word) : WrRes :=
  ⟨regWrite s path addr fs v, .ok⟩

end Sys2Proof.Machine
end

