-- ==== Sys2Proof/Machine/Flags.lean ====
section
/-! DEFINITION. Conversion and arithmetic status (R48, R62) and their counters. -/

namespace Sys2Proof.Machine

/-- The 8-bit conversion status of a set of flags (R48). -/
def cvtOf (f : Flags) : Nat := f % 256

/-- The 4-bit arithmetic status (R62). -/
def arithOf (f : Flags) : Nat := f / 256 % 16

/-- The flags that a conversion and an arithmetic status spell. -/
def flagsOf (cvt arith : Nat) : Flags := cvt % 256 + 256 * (arith % 16)

/-- The sticky OR of the elements' flags (R48). -/
def stickyOr (fs : List Flags) : Flags := fs.foldl (· ||| ·) 0

/-- Each element that meets a condition advances that condition's counter of the cluster once per
unit of work (R48, R62): the counters lie in the order of the flag bits (R449). -/
def countFlags (s : State) (cluster : Nat) (fs : List Flags) : State :=
  forAll (fun s x =>
    let n := (fs.filter fun f => f.testBit x).length
    if n = 0 then s else count s 5 cluster x n) s (List.range 12)

/-- A non-finite value. -/
def nonFinite (x : Num) : Bool := x.isNan || x.isInf

/-- The flags that make a step unfit: SAT, OVF_INF, INF_SAT, NAN_SEEN, WINDOW_HI, INF_CANCEL,
NODE_OVF (R205). -/
def unfitFlags : Flags :=
  satFlag ||| ovfInf ||| infSat ||| nanSeen ||| windowHi ||| infCancel ||| nodeOvf

end Sys2Proof.Machine
end

