-- ==== Sys2Proof/Machine/FieldBook.lean ====
section
/-! DEFINITION. The field book (R162 to R169), stack memory, binning (R177) and landing (R173 to R178,
R214, R246). -/

namespace Sys2Proof.Machine

/-- Entry states (R166). -/
def esFree : Nat := 0
def esActive : Nat := 1
def esFallow : Nat := 2
def esIncoming : Nat := 3
def esOutgoing : Nat := 4

/-- Fields of a field-book entry (R166). -/
structure Fb where
  state : Nat
  layoutB : Bool
  frozen : Bool
  polInf : Bool
  sownFmt : Nat
  plot : Nat
  recipe : Nat
  customId : Nat
  hyp : Nat
  planPos : Nat
  tensor : Nat
  scale1 : Nat
  scale0 : Nat
  elemBase : Nat
  base4k : Nat
  elems : Nat
  updates : Nat
  version : Nat
  olderHeld : Bool
  stateLost : Bool
deriving DecidableEq, Repr

def fbOf (e : Entry) : Fb :=
  let w := wordAt e
  { state := bitsOf (w 0) 63 61, layoutB := bitOf (w 0) 60, frozen := bitOf (w 0) 59,
    polInf := bitOf (w 0) 58, sownFmt := bitsOf (w 0) 57 52, plot := bitsOf (w 0) 51 40,
    recipe := bitsOf (w 0) 39 32, customId := bitsOf (w 0) 31 28, hyp := bitsOf (w 0) 27 18,
    planPos := bitsOf (w 0) 15 0, tensor := bitsOf (w 1) 63 33, scale1 := bitsOf (w 1) 15 8,
    scale0 := bitsOf (w 1) 7 0, elemBase := bitsOf (w 2) 63 24, base4k := bitsOf (w 2) 23 0,
    elems := bitsOf (w 3) 63 33, updates := bitsOf (w 4) 63 32, version := bitsOf (w 4) 31 0,
    olderHeld := bitOf (w 5) 63, stateLost := bitOf (w 5) 60 }

def fbAt (s : State) (n e : Nat) : Fb := fbOf (rdEntry s (aEntry n e 0) 8)
def fbState (s : State) (n e : Nat) : Nat := rdf s (aEntry n e 0) 63 61
def setFbState (s : State) (n e v : Nat) : State := wrf s (aEntry n e 0) 63 61 v

/-- Entries of a stack that are not FREE, ascending. -/
def entriesOf (s : State) (n : Nat) : List Nat :=
  s.regs.filterMap fun kv =>
    if aEntry n 0 0 ≤ kv.1 ∧ kv.1 < aEntry n 32768 0 ∧ (kv.1 - aEntry n 0 0) % 64 = 0
        ∧ bitsOf kv.2 63 61 ≠ esFree then
      some ((kv.1 - aEntry n 0 0) / 64)
    else none

/-- Stacks in service: CLUSTER_MASK. -/
def stacksUp (s : State) : List Nat := (List.range 12).filter (clusterUp s)

/-- Entry key in the stack tables. -/
def feKey (n e : Nat) : Nat := 32768 * n + e

/-- The full BIN_STEP; word 1 shows its low 16 bits (R166, R174). -/
def binStep (s : State) (n e : Nat) : Nat := tget 0 s.stk.binStep (feKey n e)
def setBinStep (s : State) (n e v : Nat) : State :=
  let s := { s with stk := { s.stk with binStep := tset 0 s.stk.binStep (feKey n e) (v % 2 ^ 32) } }
  wrf s (aEntry n e 1) 31 16 v

/-- STEP of the plot's verdict entry (R223). -/
def plotStep (s : State) (p : Nat) : Nat := rdf s (aVerdict p 1) 63 32

/-! ## Regions (R168) -/

/-- Bytes of an array of n elements of an entry. -/
def arrayBytes (x : Fb) (a : StateArray) (n : Nat) : Nat :=
  match a with
  | .remainder => if x.layoutB then 2 * n else 0
  | .slot0 | .slot1 => fmtBytes x.sownFmt n
  | _ => (if x.layoutB then 2 else 4) * n

def arrayOrder : List StateArray := [.master, .remainder, .m1, .m2, .bin, .slot0, .slot1]

def pageRound (n : Nat) : Nat := ceilDiv n 4096 * 4096

/-- Offset of an array from the start of its entry's region. -/
def arrayStart (x : Fb) (a : StateArray) : Nat :=
  ((arrayOrder.takeWhile (· != a)).map fun b => pageRound (arrayBytes x b x.elems)).sum

def regionBytes (x : Fb) : Nat := (arrayOrder.map fun b => pageRound (arrayBytes x b x.elems)).sum

/-- Stack offset of the region. -/
def regionBase (x : Fb) : Nat := x.base4k * 4096

/-- User area (R162): 60 GiB; journal and tables above it. -/
def userArea : Nat := 0xF_0000_0000
def journalBase : Nat := 0xF_0000_0000
def tableBase : Nat := 0xF_C000_0000

/-! ## Stack memory -/

def hbmKey (n off : Nat) : Nat := n * 2 ^ 36 + off
def hbmRead (s : State) (n off k : Nat) : List Byte := readBytes 0x00 s.stk.hbm (hbmKey n off) k
/-- A write makes the words it touches readable again (log 41). -/
def hbmWrite (s : State) (n off : Nat) (bs : List Byte) : State :=
  let k := hbmKey n off
  let lost := s.stk.lostWords.filter fun w => decide (32 * w + 32 ≤ k ∨ k + bs.length ≤ 32 * w)
  { s with stk := { s.stk with hbm := writeBytes 0x00 s.stk.hbm k bs, lostWords := lost } }
/-- The 256-bit word at a stack offset is lost (R200). -/
def loseWord (s : State) (n off : Nat) : State :=
  let w := hbmKey n off / 32
  { s with stk := { s.stk with lostWords := w :: s.stk.lostWords.filter (· != w) } }

/-- Bytes per element of a state array that is not a slot. -/
def stateWidth (x : Fb) : Nat := if x.layoutB then 2 else 4

def arrayAddr (x : Fb) (a : StateArray) (i : Nat) : Nat :=
  regionBase x + arrayStart x a + stateWidth x * i

/-- The code of element i of a master, remainder, moment or bin array. -/
def elemCode (s : State) (n : Nat) (x : Fb) (a : StateArray) (i : Nat) : Nat :=
  leNat (hbmRead s n (arrayAddr x a i) (stateWidth x))

def setElemCode (s : State) (n : Nat) (x : Fb) (a : StateArray) (i code : Nat) : State :=
  hbmWrite s n (arrayAddr x a i) (leBytes (stateWidth x) code)

/-- The format of a state array's elements. -/
def stateFmt (x : Fb) : FloatFmt := if x.layoutB then .bf16 else .fp32

/-- Slot of a version (R168). -/
def slotArray (v : Nat) : StateArray := if v % 2 = 0 then .slot0 else .slot1
def slotBase (x : Fb) (v : Nat) : Nat := regionBase x + arrayStart x (slotArray v)
def slotBytes (x : Fb) : Nat := fmtBytes x.sownFmt x.elems

/-! ## Ranges -/

/-- Whether [a, a + m) meets [b, b + n). -/
def meets (a m b n : Nat) : Bool := decide (a < b + n ∧ b < a + m ∧ 0 < m ∧ 0 < n)

/-- The part of [a, a + m) within [b, b + n): its start and length. -/
def overlapOf (a m b n : Nat) : Nat × Nat :=
  let lo := Nat.max a b
  (lo, Nat.min (a + m) (b + n) - lo)

/-- Entries of a stack, in a set of states, of a plot and tensor whose range meets [lo, lo + n). -/
def entriesMeeting (s : State) (stack plot tensor lo n : Nat) : List Nat :=
  (entriesOf s stack).filter fun e =>
    let x := fbAt s stack e
    x.plot == plot && x.tensor == tensor && meets lo n x.elemBase x.elems

/-! ## Turnover slots, as far as other rules read them (R241, R246) -/

def turnPhase (s : State) (n t : Nat) : Nat := rdf s (aTurn n t 0) 63 61

/-- The slot, not FREE, that serves an entry. -/
def turnSlotOf (s : State) (n e : Nat) : Option Nat :=
  (List.range 64).find? fun t => turnPhase s n t != 0 && rdf s (aTurn n t 0) 55 41 == e

/-- Boundary step of the turnover that an entry takes part in. -/
def boundaryOf (s : State) (n e : Nat) : Nat :=
  match turnSlotOf s n e with
  | some t => rdf s (aTurn n t 1) 63 32
  | none => 0

/-! ## Binning (R177) -/

/-- A field-book entry is binned for step st. -/
def entryBinned (s : State) (n e st : Nat) : Bool :=
  binStep s n e == st && rdf s (aEntry n e 6) 62 32 == rdf s (aEntry n e 3) 63 33

/-- Entries of a plot, as (stack, entry). -/
def plotEntries (s : State) (p : Nat) : List (Nat × Nat) :=
  (stacksUp s).flatMap fun n =>
    ((entriesOf s n).filter fun e => rdf s (aEntry n e 0) 51 40 == p).map fun e => (n, e)

/-- The plot is binned on the device for step st. -/
def plotBinned (s : State) (p st : Nat) : Bool :=
  (plotEntries s p).all fun ne =>
    let x := fbAt s ne.1 ne.2
    match x.state with
    | 1 => x.frozen || entryBinned s ne.1 ne.2 st
    | 2 => false
    | 3 => decide (st < boundaryOf s ne.1 ne.2)
    | _ => true

/-! ## Landing records (R173, R178) -/

def recKey (n r : Nat) : Nat := 4096 * n + r
def recStat (s : State) (n r : Nat) : RecStat := tget RecStat.empty s.stk.recStats (recKey n r)
def setRecStat (s : State) (n r : Nat) (x : RecStat) : State :=
  { s with stk := { s.stk with recStats := tset RecStat.empty s.stk.recStats (recKey n r) x } }
def recStateOf (s : State) (n r : Nat) : Nat := rdf s (aLanding n r 0) 63 62

/-- Records in use in a stack, ascending. -/
def recordsOf (s : State) (n : Nat) : List Nat :=
  s.regs.filterMap fun kv =>
    if aLanding n 0 0 ≤ kv.1 ∧ kv.1 < aLanding n 4096 0 ∧ (kv.1 - aLanding n 0 0) % 16 = 0
        ∧ bitsOf kv.2 63 62 ≠ 0 then
      some ((kv.1 - aLanding n 0 0) / 16)
    else none

/-- Free a record. -/
def freeRecord (s : State) (n r : Nat) : State :=
  setRecStat (wr (wr s (aLanding n r 0) 0) (aLanding n r 1) 0) n r RecStat.empty

/-- A free record. -/
def findRecord (s : State) (n : Nat) : Option Nat :=
  findFrom (fun r => recStateOf s n r == 0) 4096 4096 (Config.pick s.picks % 4096)

/-- The full step that a TAG names, nearest BIN_STEP (R174). -/
def expandTag (bin tag : Nat) : Int :=
  let d : Nat := (tag + 2 ^ 16 - bin % 2 ^ 16) % 2 ^ 16
  (bin : Int) + (if d < 32768 then (d : Int) else (d : Int) - 65536)

/-- What a reservation comes to (R173, R174, R176, R246). -/
inductive Reserve
  | reserved (s : State) (records : List Nat)
  | waits
  | skipped
  | fallow (s : State)
  | overlap (s : State)

/-- What each entry says to a landing of a tag. -/
inductive EntrySays
  | now | later | past | lost
deriving DecidableEq, Repr

def entrySays (s : State) (n e tag : Nat) : EntrySays :=
  let x := fbAt s n e
  let bin := binStep s n e
  match x.state with
  | 3 =>
    if expandTag (boundaryOf s n e) tag < (boundaryOf s n e : Int) then .lost else .later
  | 4 => .lost
  | _ =>
    let st := expandTag bin tag
    if st < (bin : Int) then .past
    else if (bin : Int) < st then .later
    else if plotStep s x.plot ≠ bin then .later
    else .now

/-- Entries that a landing of the group's range meets: not FROZEN, and ACTIVE or in a turnover. -/
def landingEntries (s : State) (g : Group) : List Nat :=
  (entriesMeeting s g.owner g.plot g.tensor g.elemBase g.elems).filter fun e =>
    let x := fbAt s g.owner e
    !x.frozen && (x.state == esActive || x.state == esIncoming || x.state == esOutgoing)

/-- A record of the entry's step already covers an element of the group's range there (R176). -/
def recordMeets (s : State) (n e : Nat) (g : Group) : Bool :=
  (recordsOf s n).any fun r =>
    rdf s (aLanding n r 0) 61 47 == e && rdf s (aLanding n r 0) 30 15 == binStep s n e % 2 ^ 16
      && meets g.elemBase g.elems (recStat s n r).lo (recStat s n r).n

/-- Write a PENDING record for an entry. -/
def makeRecord (s : State) (n r e gno seq : Nat) (g : Group) : State :=
  let x := fbAt s n e
  let part := overlapOf g.elemBase g.elems x.elemBase x.elems
  let s := wr s (aLanding n r 0)
    (bitsAt 63 62 1 ||| bitsAt 61 47 e ||| bitsAt 46 31 gno ||| bitsAt 30 15 (binStep s n e))
  let s := wr s (aLanding n r 1) (bitsAt 63 32 seq ||| bitsAt 30 0 part.2)
  { setRecStat s n r ⟨part.1, part.2, 0, 0, 0, 0⟩ with picks := s.picks + 1 }

/-- Reserve a record for each entry, or none where the records run out. -/
def makeRecords (gno seq : Nat) (g : Group) : State → List Nat → Option (State × List Nat)
  | s, [] => some (s, [])
  | s, e :: es =>
    match findRecord s g.owner with
    | none => none
    | some r =>
      match makeRecords gno seq g (makeRecord s g.owner r e gno seq g) es with
      | none => none
      | some (s', rs) => some (s', r :: rs)

/-- The reservation of a REAP_TO_BIN instance at its root. -/
def reserveLanding (s : State) (gno seq tag : Nat) (g : Group) : Reserve :=
  let es := landingEntries s g
  let said := es.map fun e => entrySays s g.owner e tag
  if said.contains .lost then
    .fallow (event s 0x0B0A srcStack g.owner
      { group := gno, plot := g.plot, number := seq, detail := g.tensor })
  else if said.contains .past then .skipped
  else if said.contains .later then .waits
  else
    let hit := es.filter fun e => recordMeets s g.owner e g
    if hit ≠ [] then
      let s := forAll (fun s e => wrf s (aEntry g.owner e 5) 61 61 1) s hit
      let s := count s 8 g.owner 0 1
      .overlap (event s 0x0B01 srcStack g.owner
        { group := gno, plot := g.plot, number := plotStep s g.plot, detail := g.tensor })
    else
      match makeRecords gno seq g s es with
      | some (s', rs) => .reserved s' rs
      | none => .waits

/-- Merge a record into its entry when the root fixes OK (R175); `tree` is the status of the whole
tree (log 16). -/
def countRecord (tree : Flags) (n : Nat) (s : State) (r : Nat) : State :=
  let e := rdf s (aLanding n r 0) 61 47
  let x := recStat s n r
  let cap := fun v => Nat.min (2 ^ 31 - 1) v
  let fl := x.flags ||| tree
  let s := wrf s (aLanding n r 0) 63 62 2
  let s := wrf s (aEntry n e 6) 62 32 (cap (rdf s (aEntry n e 6) 62 32 + x.n))
  let s := wrf s (aEntry n e 6) 30 0 (cap (rdf s (aEntry n e 6) 30 0 + x.zeros))
  let s := wrf s (aEntry n e 5) 30 0 (cap (rdf s (aEntry n e 5) 30 0 + x.nonfinite))
  let s := wrf s (aEntry n e 5) 59 52 (rdf s (aEntry n e 5) 59 52 ||| cvtOf fl)
  let s := wrf s (aEntry n e 5) 51 48 (rdf s (aEntry n e 5) 51 48 ||| arithOf fl)
  wrf s (aEntry n e 7) 63 32 (Nat.max (rdf s (aEntry n e 7) 63 32) x.amax)

/-- The bin elements that a PENDING record covers become undefined (R173): free bytes (log 9). -/
def spoilRecord (n : Nat) (s : State) (r : Nat) : State :=
  let x := fbAt s n (rdf s (aLanding n r 0) 61 47)
  let st := recStat s n r
  let k := stateWidth x * st.n
  let s := hbmWrite s n (arrayAddr x .bin (st.lo - x.elemBase))
    ((List.range k).map fun i => Config.freeByte (s.picks + i))
  freeRecord { s with picks := s.picks + k } n r

/-! ## UNSCALE (R94, R175) -/

def policyOf (inf : Bool) : Policy := if inf then .inf else .sat

/-- x × 2^k, exactly. -/
def shiftNum (x : Num) (k : Int) : Num :=
  match x with
  | .fin s m e => .fin s m (e + k)
  | y => y

/-- One element of UNSCALE: the bin code and the flags. A strict value is rounded once; a fast value
is multiplied in FP32 and then converted (R39, R60, R67, R94). -/
def unscale (strict layoutB : Bool) (pol : Policy) (md : Rounding) (lossExp : Int) (x : Num) :
    Nat × Flags :=
  let y := shiftNum x (-lossExp)
  let f := if layoutB then FloatFmt.bf16 else FloatFmt.fp32
  if strict then convertFloat f pol md y
  else
    let m := convertFloat .fp32 pol .rne y
    if layoutB then
      let d := decodeFloat .fp32 m.1
      let r := convertFloat .bf16 pol md d.1
      (r.1, m.2 ||| r.2)
    else m

/-- The FP32 code of a magnitude, rounded by RNE. -/
def magFp32 (x : Num) : Nat :=
  match x with
  | .fin _ m e => (convertFloat .fp32 .sat .rne (.fin false m e)).1
  | _ => 0

/-- The plot seed (R42, R337): word 1 of the plot entry. -/
def plotSeed (s : State) (p : Nat) : Nat := (rd s (aPlot p 1)).toNat

/-- Land one element (tensor index idx) into an entry's bin: the state and the element's flags,
whether it is non-finite, whether it is zero, and its magnitude as FP32. -/
def landElem (s : State) (n e seq : Nat) (g : Group) (lossExp : Int) (idx : Nat) (x : Num) :
    State × (Flags × Bool × Bool × Nat) :=
  let fb := fbAt s n e
  let key : ScatterKey :=
    ⟨plotSeed s g.plot, binStep s n e, g.tensor, 1 + seq % 65535⟩
  let r := unscale g.strict fb.layoutB (policyOf g.polInf) (roundingAt (some key) idx) lossExp x
  let v := (decodeFloat (stateFmt fb) r.1).1
  (setElemCode s n fb .bin (idx - fb.elemBase) r.1,
    r.2, nonFinite v, v.isZero, if nonFinite v then 0 else magFp32 v)

/-- Land the values of a chunk that fall under one record; `first` is the tensor index of the
first. -/
def landUnder (seq : Nat) (g : Group) (lossExp : Int) (first : Nat) (r : Nat) :
    State → List (Nat × Num × Flags) → State × List Flags
  | s, [] => (s, [])
  | s, (i, x, fl) :: rest =>
    let n := g.owner
    let st := recStat s n r
    let idx := first + i
    if st.lo ≤ idx ∧ idx < st.lo + st.n then
      let q := landElem s n (rdf s (aLanding n r 0) 61 47) seq g lossExp idx x
      let f := fl ||| q.2.1
      let st' : RecStat :=
        { st with
          nonfinite := st.nonfinite + b2n q.2.2.1, zeros := st.zeros + b2n q.2.2.2.1,
          amax := Nat.max st.amax q.2.2.2.2, flags := st.flags ||| f }
      let t := landUnder seq g lossExp first r (setRecStat q.1 n r st') rest
      (t.1, q.2.1 :: t.2)
    else landUnder seq g lossExp first r s rest

/-- Land a checked chunk under its instance's records (R175): the state and the landing's flags. -/
def landChunk (s : State) (seq : Nat) (g : Group) (lossExp : Int) (recs : List Nat) (elem0 : Nat)
    (vals : List Num) (fls : List Flags) : State × List Flags :=
  let items := (vals.zip fls).zipIdx.map fun p => (p.2, p.1.1, p.1.2)
  let first := g.elemBase + elem0
  let r := recs.foldl (fun acc r =>
    let t := landUnder seq g lossExp first r acc.1 items
    (t.1, acc.2 ++ t.2)) (s, [])
  (countFlags r.1 g.owner r.2, r.2)

/-! ## Step statistics -/

/-- Clear the step statistics of words 5 to 7 (R177, R186). -/
def clearStats (s : State) (n e : Nat) : State :=
  let s := wr s (aEntry n e 6) 0
  let s := wr s (aEntry n e 5) (rd s (aEntry n e 5) &&& ~~~ (maskOf 61 61 ||| maskOf 59 48 ||| maskOf 30 0))
  wrf s (aEntry n e 7) 63 32 0

/-- Free every record of a step of an entry. -/
def freeStepRecords (s : State) (n e st : Nat) : State :=
  forAll (fun s r => freeRecord s n r) s
    ((recordsOf s n).filter fun r =>
      rdf s (aLanding n r 0) 61 47 == e && rdf s (aLanding n r 0) 30 15 == st % 2 ^ 16)

/-- A skip discards step st on every entry of the plot (R177). -/
def discardStep (s : State) (p st : Nat) : State :=
  forAll (fun s ne =>
    let s := freeStepRecords s ne.1 ne.2 st
    setBinStep (clearStats s ne.1 ne.2) ne.1 ne.2 (st + 1)) s (plotEntries s p)

end Sys2Proof.Machine
end

