-- ==== Sys2Proof/Machine/Forwarding.lean ====
section
/-! DEFINITION. Packets at ingress: the range checks (R105), credits (R106 to R108), lookup and
selection (R109 to R116), HOLD (R125, R126), policing and admission (R292 to R294, R270), tails (R118)
and the forwarding commands (R124 to R130). -/

namespace Sys2Proof.Machine

/-! ## Drop counters of R449, group 1 -/
def dcVersion : Nat := 0
def dcType : Nat := 1
def dcFurrow : Nat := 2
def dcLength : Nat := 3
def dcPlot : Nat := 4
def dcAlign : Nat := 5
def dcHop : Nat := 6
def dcUnroute : Nat := 7
def dcCrc : Nat := 8
def dcLenmis : Nat := 9
def dcBadTail : Nat := 10
def dcOverrun : Nat := 11
def dcHold : Nat := 12
def dcFallow : Nat := 13
def dcEgrDiscard : Nat := 14
def dcBadTailSent : Nat := 15
def dcDown : Nat := 16
def dcNoSlot : Nat := 17
def dcReplay : Nat := 18

def countPort (s : State) (p x : Nat) : State := count s 1 p x 1

/-! ## Forwarding entries and ECMP sets -/

def fwdState (s : State) (i : Nat) : Nat := rdf s (aFwdEntry i) 63 62
def fwdLocal (s : State) (i : Nat) : Bool := rdb s (aFwdEntry i) 61
def fwdValid : Nat := 1
def fwdHeld : Nat := 2

/-- A word of a forwarding entry names a set: by a set field that is marked valid (R111). -/
def namesSet (w : Word) (set : Nat) : Bool :=
  (bitOf w 33 && bitsOf w 57 46 == set) || (bitOf w 32 && bitsOf w 45 34 == set)

/-- The forwarding entries that hold something. -/
def fwdListed (s : State) : List (Nat × Word) :=
  s.regs.filterMap fun kv =>
    if aFwdEntry 0 ≤ kv.1 ∧ kv.1 < aFwdEntry 262144 then some ((kv.1 - aFwdEntry 0) / 8, kv.2)
    else none

/-- REFS_ACTIVE of R112. -/
def refsActive (s : State) (set : Nat) : Nat :=
  ((fwdListed s).filter fun e => bitsOf e.2 63 62 == fwdValid && namesSet e.2 set).length

def setCount (s : State) (set : Nat) : Nat := rdf s (aEcmp set 0) 63 57

/-- Member m of a set (R112). -/
def setMember (s : State) (set m : Nat) : Nat :=
  rdf s (aEcmp set (1 + m / 7)) (9 * (m % 7) + 8) (9 * (m % 7))

def setMembers (s : State) (set : Nat) : List Nat :=
  (List.range (Nat.min 64 (setCount s set))).map (setMember s set)

/-- LIVE of R113, bit m for member m. -/
def liveMask (s : State) (set : Nat) : Nat :=
  ((List.range (Nat.min 64 (setCount s set))).filter fun m =>
    forwarding s (setMember s set m)).foldl (fun acc m => acc + 2 ^ m) 0

/-- Candidates of R110 step 5 with R109: live members, less the ingress port, and no UP port for a
descending packet. -/
def candidates (s : State) (set : Nat) (ingress : Option Nat) (descending : Bool) : List Nat :=
  (setMembers s set).filter fun p =>
    forwarding s p && ingress != some p && !(descending && portRole s p == 1)

/-- The flow hash of R115. -/
def flowHash (s : State) (h : Header) : Nat :=
  crc32cFrom (rdf s aFwdCfg 31 0)
    (beBytes 8 ((((h.src * 2 ^ 18 + h.dst) * 2 ^ 4 + h.furrow) * 2 ^ 12 + h.plot) * 2 ^ 12))

/-- The score of R114. -/
def score (s : State) (f p : Nat) : Nat :=
  queueDepth s p f / 256 + rdf s aFwdCfg 55 48 * tget 0 s.fab.hints (qKey p f)

/-- The first of lowest score. -/
def lowest (s : State) (f : Nat) : List Nat → Option Nat
  | [] => none
  | p :: ps => some (ps.foldl (fun a b => if score s f b < score s f a then b else a) p)

/-- R116: every live member has completed an epoch in forwarding state with a hint received. -/
def adaptiveReady (s : State) (set : Nat) : Bool :=
  (setMembers s set).all fun p => !forwarding s p || 0 < tget 0 s.fab.settled p

/-- Egress selection (R114, R115). -/
def selectPort (s : State) (set : Nat) (h : Header) (cs : List Nat) : Option Nat :=
  let i := flowHash s h * cs.length / 2 ^ 32
  if 8 ≤ h.furrow && rdb s aFwdCfg 63 && adaptiveReady s set then
    lowest s h.furrow (cs.drop i ++ cs.take i)
  else cs[i]?

/-- Where a data-layout packet goes (R110). -/
inductive Route
  | unroutable
  | here
  | toPort (p : Nat)
deriving DecidableEq, Repr

/-- The lookup of R110; a packet the device originates has no ingress port. -/
def routeOf (s : State) (ingress : Option Nat) (h : Header) : Route :=
  let w := rd s (aFwdEntry h.dst)
  let st := bitsOf w 63 62
  if st != fwdValid && st != fwdHeld then .unroutable
  else if bitOf w 61 then
    if h.type == tFieldOrder || h.type == tTurnover then .here else .unroutable
  else
    let descending := match ingress with
      | some p => portRole s p == 1
      | none => false
    let set := if bitOf w 32 then some (bitsOf w 45 34)
      else if bitOf w 33 && !descending then some (bitsOf w 57 46) else none
    match set with
    | none => .unroutable
    | some st =>
      match selectPort s st h (candidates s st ingress descending) with
      | none => .unroutable
      | some p => .toPort p

/-! ## HOLD (R125, R126) -/

def holdOf (s : State) (i : Nat) : Option Hold := tone s.fab.holds i
def setHold (s : State) (i : Nat) (x : List Hold) : State :=
  { s with fab := { s.fab with holds := tset [] s.fab.holds i x } }

/-- Whether a packet is a data-layout packet for an endpoint ID. -/
def bound (dst : Nat) (h : Header) : Bool := !typeCollective h.type && h.dst == dst

/-- OCC of R126: the packets for an ID that the device holds, in its ingress, its queues and its
retry buffers. -/
def occOf (s : State) (dst : Nat) : Nat :=
  let inRx := (s.fab.rx.map fun kv =>
    (kv.2.filter fun r => bound dst r.pkt.hdr
      && (match r.place with
          | .whole | .store _ => true
          | _ => false)).length).sum
  let inWaits := (s.fab.waits.map fun kv => (kv.2.filter fun w => bound dst w.pkt.hdr).length).sum
  let inQueues := (s.fab.queues.map fun kv => (kv.2.filter fun k => bound dst k.hdr).length).sum
  let leaving := (s.fab.sending.map fun kv => (kv.2.filter fun k => bound dst k.hdr).length).sum
  let unacked := (s.fab.unacked.map fun kv => (kv.2.filter fun u => u.1 == dst).length).sum
  inRx + inWaits + inQueues + leaving + unacked

/-- A parsed packet for a held entry counts in ARRIVALS (R126). -/
def countArrival (s : State) (h : Header) : State :=
  match holdOf s h.dst with
  | none => s
  | some x => setHold s h.dst [{ x with arrivals := (x.arrivals + 1) % 2 ^ 16 }]

/-- Whether a packet waits under R125: it arrived on an ENDPOINT port and its entry is in HOLD. -/
def heldBack (s : State) (p : Nat) (h : Header) : Bool :=
  portRole s p == 0 && !typeCollective h.type && fwdState s h.dst == fwdHeld

/-! ## Range checks (R105) -/

/-- Whether a plot is ACTIVE (R337). -/
def plotActive (s : State) (plot : Nat) : Bool := rdf s (aPlot plot 0) 63 62 == 1

/-- PLOT_FENCED (R340). -/
def fenced (s : State) (p : Nat) (h : Header) : Bool :=
  portRole s p == 0 && !(rdb s (aFence p (h.plot / 64)) (h.plot % 64) && plotActive s h.plot)

/-- Checks 1 to 7: the counter of the first that fails. -/
def rangeCheck (s : State) (p : Nat) (h : Header) : Option Nat :=
  if h.version ≠ rdf s (aLinkStat p) 39 36 then some dcVersion
  else if !typeKnown h.type then some dcType
  else if !furrowLegal h.type h.furrow then some dcFurrow
  else if lengthBad h then some dcLength
  else if fenced s p h then some dcPlot
  else if alignBad h then some dcAlign
  else if rdf s aFwdCfg 62 58 ≤ h.hop then some dcHop
  else none

/-! ## Policing (R292, R293) -/

def slotMatches (s : State) (p i : Nat) (h : Header) : Bool :=
  let w := rd s (aPol p i 0)
  bitOf w 63 && bitsOf w 62 62 + 14 == h.furrow && (bitOf w 61 || bitsOf w 60 49 == h.plot)

def slotFor (s : State) (p : Nat) (h : Header) : Option Nat :=
  (List.range 16).find? fun i => slotMatches s p i h

/-- Meter a lossy packet: the packet as it goes on, or none when it is dropped. -/
def police (s : State) (p : Nat) (h : Header) : State × Option Header :=
  match slotFor s p h with
  | none => (countPort s p dcNoSlot, none)
  | some i =>
    let b := wireBytes h.length
    let a := aPol p i 2
    let peak := rdf s a 47 24
    let com := rdf s a 23 0
    if peak < b then (count (count s 3 (16 * p + i) 2 1) 3 (16 * p + i) 3 b, none)
    else if com < b then
      (count (wrf s a 47 24 (peak - b)) 3 (16 * p + i) 1 1, some h.setDropEligible)
    else (count (wrf (wrf s a 47 24 (peak - b)) a 23 0 (com - b)) 3 (16 * p + i) 0 1, some h)

/-! ## Admission -/

/-- The octet of a port or lane. -/
def octetOf (p : Nat) : Nat := p / 8

/-- Give a packet its buffers: owned by the ingress port until the tail (log 11). -/
def bufferPkt (s : State) (p : Nat) (k : Pkt) : Option (State × Pkt) :=
  if k.hdr.length = 0 || k.bufs ≠ [] then some (s, k)
  else
    match allocChain s (octetOf p) (ownIngress p) k.hdr.plot k.hdr.furrow 1 k.hdr.length with
    | none => none
    | some (s', bs) =>
      let s' := if k.tailSeen then fillBufs s' none 16384 bs k.payload else s'
      some (s', { k with bufs := bs })

/-- The owner of a whole packet's buffer is the egress port it waits for (R264). -/
def ownEgress (s : State) (sel : Nat) (k : Pkt) : State :=
  forAll (fun s b => wrf s (statusAddr none b) 45 32 (ownPort sel)) s k.bufs

/-- Charge an admitted packet and place it in its egress queue, one hop further. -/
def admitPkt (s : State) (sel : Nat) (k : Pkt) : State :=
  let s := chargeQuota s k.hdr.plot k.hdr.furrow (unitsOf k.bufs)
  let s := if k.tailSeen then ownEgress s sel k else s
  enqueue s sel { k with hdr := k.hdr.setHop (k.hdr.hop + 1) }

/-- What becomes of a packet at ingress. -/
inductive Adv
  /-- Admitted. -/
  | done (s : State)
  /-- Dropped: counted, its credits returned. -/
  | gone (s : State)
  /-- Waits at the head of its port and furrow. -/
  | stay (s : State) (w : Waiter)
  /-- Waits for its tail, its port selected (R117). -/
  | store (s : State) (sel : Nat)
  /-- For this device: whole before it is handled. -/
  | whole (s : State)

/-- Drop a packet at ingress: count, return credits, free what it holds without a charge (R268). -/
def dropIngress (s : State) (p x : Nat) (k : Pkt) : State :=
  let s := countPort s p x
  let s := chargeQuota s k.hdr.plot k.hdr.furrow (unitsOf k.bufs)
  giveBack (freeBufs s none k.bufs) k

/-- Admission of a lossless packet: a buffer, then the quota (R260, R270). -/
def admitLossless (s : State) (p sel : Nat) (w : Waiter) : Adv :=
  match bufferPkt s p w.pkt with
  | none =>
    let s := if w.counted then s else count s 6 (tget 0 s.fab.rr (octetOf p) % 8) 1 1
    .stay s { w with sel := some sel, why := .buffer, counted := true }
  | some (s', k) =>
    if quotaOk s' k.hdr.plot k.hdr.furrow (unitsOf k.bufs) then .done (admitPkt s' sel k)
    else
      let s' := if w.counted && w.why == .quota then s' else count s' 7 k.hdr.plot 0 1
      .stay s' { pkt := k, sel := some sel, why := .quota, counted := true }

/-- Admission of a lossy packet: the checks of R294 in order. -/
def admitLossy (s : State) (p sel : Nat) (k : Pkt) : Adv :=
  let f := k.hdr.furrow
  let depth := queueDepth s sel f
  if k.hdr.dropEligible && rdf s (aSch sel f 3) 15 0 * 256 ≤ depth then
    .gone (count s 2 (qKey sel f) 4 1)
  else if rdf s (aSch sel f 3) 31 16 * 256 < depth + wireBytes k.hdr.length then
    .gone (count s 2 (qKey sel f) 5 1)
  else
    let least := if k.hdr.length = 0 then 0 else 2 ^ fitClass k.hdr.length
    if !quotaOk s k.hdr.plot f least then .gone (count s 2 (qKey sel f) 6 1)
    else
      match bufferPkt s p k with
      | none => .gone (count s 2 (qKey sel f) 7 1)
      | some (s', k') =>
        if quotaOk s' k'.hdr.plot f (unitsOf k'.bufs) then .done (admitPkt s' sel k')
        else .gone (freeBufs (chargeQuota (count s' 2 (qKey sel f) 6 1) k'.hdr.plot f
          (unitsOf k'.bufs)) none k'.bufs)

def admitAt (s : State) (p sel : Nat) (w : Waiter) : Adv :=
  if lossless w.pkt.hdr.furrow then admitLossless s p sel w else admitLossy s p sel w.pkt

/-- A packet with its port selected: cut through when the egress is no faster, else it needs its
tail first (R117). -/
def forwardAt (s : State) (p sel : Nat) (w : Waiter) : Adv :=
  if w.pkt.tailSeen || netPerRefill s sel ≤ rxNet s p then admitAt s p sel w
  else .store s sel

/-- Take a packet at the head of its port and furrow as far as it goes. -/
def advancePkt (s : State) (p : Nat) (w : Waiter) : Adv :=
  match w.sel with
  | some sel => admitAt s p sel w
  | none =>
    if heldBack s p w.pkt.hdr then .stay s { w with why := .hold }
    else
      match routeOf s (some p) w.pkt.hdr with
      | .unroutable => .gone (dropIngress s p dcUnroute w.pkt)
      | .here => .whole s
      | .toPort sel =>
        if portState s p == lsFallow then .gone (dropIngress s p dcFallow w.pkt)
        else if lossless w.pkt.hdr.furrow then forwardAt s p sel w
        else
          match police s p w.pkt.hdr with
          | (s', none) => .gone s'
          | (s', some h) => forwardAt s' p sel { w with pkt := { w.pkt with hdr := h } }

/-! ## Ingress lists -/

def rxOf (s : State) (p : Nat) : List Rx := tget [] s.fab.rx p
def setRx (s : State) (p : Nat) (x : List Rx) : State :=
  { s with fab := { s.fab with rx := tset [] s.fab.rx p x } }
def waitsOf (s : State) (p f : Nat) : List Waiter := tget [] s.fab.waits (qKey p f)
def setWaits (s : State) (p f : Nat) (x : List Waiter) : State :=
  { s with fab := { s.fab with waits := tset [] s.fab.waits (qKey p f) x } }

/-- Note where the packet being received stands. -/
def placeRx (s : State) (p uid : Nat) (place : RxPlace) : State :=
  setRx s p ((rxOf s p).map fun r => if r.pkt.uid = uid then { r with place := place } else r)

/-- Work on the waiting packets of a port and furrow from the head until one must stay (R125,
R270). Fuel: the number that wait. -/
def drainWaits (p f : Nat) : Nat → State → State
  | 0, s => s
  | n + 1, s =>
    match waitsOf s p f with
    | [] => s
    | w :: rest =>
      if typeCollective w.pkt.hdr.type then s
      else
        match advancePkt s p w with
        | .done s' => drainWaits p f n (setWaits s' p f rest)
        | .gone s' => drainWaits p f n (placeRx (setWaits s' p f rest) p w.pkt.uid .dropped)
        | .whole s' => drainWaits p f n (placeRx (setWaits s' p f rest) p w.pkt.uid .whole)
        | .store s' sel =>
          drainWaits p f n
            (setRx (setWaits s' p f rest) p
              ((rxOf s' p).map fun r =>
                if r.pkt.uid = w.pkt.uid then { r with place := .store sel } else r))
        | .stay s' w' => setWaits s' p f (w' :: rest)

def drainPort (s : State) (p f : Nat) : State := drainWaits p f (waitsOf s p f).length s

/-! ## Headers and tails -/

/-- The peer check of R336 passed: the partner's record matches the cabling entry. -/
def peerMatches (s : State) (p : Nat) (r : CapRecord) : Bool :=
  let c := rd s (aCable p)
  let idOk := r.device == bitsOf c 58 41
  let portOk := r.port == bitsOf c 40 32
  match portRole s p with
  | 0 => !bitOf c 61 || idOk
  | 1 => idOk && portOk && r.tier == s.boot.tier + 1 && r.plane == s.boot.plane
  | 2 => idOk && portOk && r.tier + 1 == s.boot.tier && r.plane == s.boot.plane
  | _ => false

def peerOk (s : State) (p : Nat) : Bool :=
  match (link s p).record with
  | some r => peerMatches s p r
  | none => false

/-- A FALLOW port that carries furrow 0: reason ORDERED, its peer check passed (R389). -/
def carriesOrders (s : State) (p : Nat) : Bool :=
  isReady s && portState s p == lsFallow && portReason s p == 0x08 && (link s p).phase == lsForwarding
    && peerOk s p

/-- Add what is being received. -/
def pushRx (s : State) (p : Nat) (k : Pkt) (place : RxPlace) : State :=
  setRx s p (rxOf s p ++ [{ pkt := k, place := place, since := now s }])

/-- A header past the range checks and the credit check (R105, R110, R125). -/
def headerPlaced (s : State) (p : Nat) (k : Pkt) : State :=
  let f := k.hdr.furrow
  if typeCollective k.hdr.type then pushRx s p k .whole
  else
    let s := countArrival s k.hdr
    let w : Waiter := { pkt := k, sel := none, why := .behind, counted := false }
    if waitsOf s p f ≠ [] then setWaits (pushRx s p k .placed) p f (waitsOf s p f ++ [w])
    else
      match advancePkt s p w with
      | .done s' => pushRx s' p k .placed
      | .gone s' => pushRx s' p k .dropped
      | .whole s' => pushRx s' p k .whole
      | .store s' sel => pushRx s' p k (.store sel)
      | .stay s' w' => setWaits (pushRx s' p k .placed) p f [w']

/-- PACKET_HEADER. -/
def execPacketHeader (port : Nat) (hdr : Header) (s : State) : Answer :=
  let fallow := carriesOrders s port
  if !(forwarding s port || fallow) then .next s
  else
    let c := creditsOf hdr.length
    let f := hdr.furrow
    let s := count (count s 0 0 0 (wireBytes hdr.length)) 0 0 2 1
    let u := freshUid s
    let s := u.1
    let k : Pkt := ⟨u.2, hdr, [], tailGood, false, [], .forward port, 0⟩
    let excess := lossless f && overrun s port f c
    if fallow && f != 0 then
      .next (pushRx (returnCredits (takeCredits (countPort s port dcFallow) port f c) port f c) port k .dropped)
    else
      match rangeCheck s port hdr with
      | some x =>
        .next (pushRx (returnCredits (takeCredits (countPort s port x) port f c) port f c) port k .dropped)
      | none =>
        if excess then
          .next (pushRx (event (countPort s port dcOverrun) 0x050C srcPort port { detail := f }) port k .dropped)
        else .next (headerPlaced (takeCredits s port f c) port k)

/-- Find the queue of egress ports that holds a packet: its key. -/
def queueHolding (s : State) (uid : Nat) : Option Nat :=
  (s.fab.queues.find? fun kv => kv.2.any fun k => k.uid == uid).map Prod.fst

/-- The port a packet is leaving on. -/
def sendingPort (s : State) (uid : Nat) : Option Nat :=
  (s.fab.sending.find? fun kv => kv.2.any fun k => k.uid == uid).map Prod.fst

/-- Remove a packet from its queue; a new head gets its tag. -/
def unqueue (s : State) (key uid : Nat) : State :=
  let q := tget [] s.fab.queues key
  let wasHead := (q.head?.map Pkt.uid) == some uid
  let s := setQueue s (key / 16) (key % 16) (q.filter fun k => k.uid != uid)
  if wasHead then tagHead s (key / 16) (key % 16) else s

/-- A bad tail on a packet that has been placed (R118). A mark passed on is not counted as sent by
the egress port (log 23). -/
def badPlaced (s : State) (p x reason hop : Nat) (payload : List Byte) (k : Pkt) : State :=
  let f := k.hdr.furrow
  match sendingPort s k.uid with
  | some e =>
    let s := countPort s p x
    let s := if x = dcBadTail then s else countPort s e dcBadTailSent
    match sendingOn s e with
    | some q =>
      setSending s e [{ q with payload := payload, tail := tailBad reason hop, tailSeen := true }]
    | none => s
  | none =>
    match queueHolding s k.uid with
    | some key =>
      let q := (tget [] s.fab.queues key).filter fun q => q.uid == k.uid
      let s := unqueue s key k.uid
      let s := countPort s p x
      let s := forAll (fun s q => freeBufs s none q.bufs) s q
      returnCredits s p f (creditsOf k.hdr.length)
    | none =>
      match (waitsOf s p f).find? fun w => w.pkt.uid == k.uid with
      | some w =>
        let s := setWaits s p f ((waitsOf s p f).filter fun w => w.pkt.uid != k.uid)
        drainPort (dropIngress s p x w.pkt) p f
      | none => s

/-- A good tail on a packet that has been placed: its payload is whole. -/
def goodPlaced (s : State) (p : Nat) (payload : List Byte) (k : Pkt) : State :=
  let done := fun (q : Pkt) =>
    if q.uid = k.uid then { q with payload := payload, tailSeen := true } else q
  let bufs := fun (s : State) (q : Pkt) => fillBufs s none 16384 q.bufs payload
  match sendingPort s k.uid with
  | some e =>
    match sendingOn s e with
    | some q => ownEgress (bufs (setSending s e [done q]) q) e q
    | none => s
  | none =>
    match queueHolding s k.uid with
    | some key =>
      let q := (tget [] s.fab.queues key).filter fun q => q.uid == k.uid
      let s := setQueue s (key / 16) (key % 16) ((tget [] s.fab.queues key).map done)
      forAll (fun s q => ownEgress (bufs s q) (key / 16) q) s q
    | none =>
      let f := k.hdr.furrow
      let ws := waitsOf s p f
      let s := forAll (fun s w => if w.pkt.uid = k.uid then bufs s w.pkt else s) s ws
      setWaits s p f (ws.map fun w => { w with pkt := done w.pkt })

/-- What a tail shows: the counter and the reason of a failure (R103, R105 checks 9 and 10, R118).
A packet cut short by an IDLE block has no trailer to judge: it fails check 10 alone (log 22). -/
def tailFault (h : Header) (payload : List Byte) (crc tail : BitVec 32) (clean : Bool) :
    Option (Nat × Nat × Nat) :=
  if payload.length ≠ h.length then some (dcLenmis, 0x02, (h.hop + 1) % 32)
  else if tailMarked tail.toNat then
    some (dcBadTail, tail.toNat / 2 ^ 16 % 256, tail.toNat / 2 ^ 11 % 32)
  else if crc.toNat ≠ packetCrc h payload then some (dcCrc, 0x01, (h.hop + 1) % 32)
  else if !clean then some (dcLenmis, 0x02, (h.hop + 1) % 32)
  else none

/-- A tail for what is being received. -/
def tailAt (s : State) (p : Nat) (r : Rx) (payload : List Byte) (crc tail : BitVec 32)
    (clean : Bool) : State :=
  let k := r.pkt
  let f := k.hdr.furrow
  match r.place with
  | .dropped => s
  | place =>
    match tailFault k.hdr payload crc tail clean with
    | some (x, reason, hop) =>
      match place with
      | .placed => badPlaced s p x reason hop payload k
      | _ => returnCredits (countPort s p x) p f (creditsOf k.hdr.length)
    | none =>
      let s := capturePacket s p r.since k.hdr payload
      match place with
      | .placed => goodPlaced s p payload k
      | .store sel =>
        let goesTo := if forwarding s sel && portState s p != lsFallow then some sel else none
        let w : Waiter := ⟨{ k with payload := payload, tailSeen := true }, goesTo, .behind, false⟩
        if waitsOf s p f ≠ [] then setWaits s p f (waitsOf s p f ++ [w])
        else
          match advancePkt s p w with
          | .stay s' w' => setWaits s' p f [w']
          | .done s' | .gone s' | .whole s' | .store s' _ => s'
      | _ => s

/-- PACKET_TAIL: the tail of the oldest packet being received on the port. -/
def execPacketTail (port : Nat) (payload : List Byte) (crc tail : BitVec 32) (clean : Bool)
    (s : State) : Answer :=
  match rxOf s port with
  | [] => .next s
  | r :: rest => .next (tailAt (setRx s port rest) port r payload crc tail clean)

/-- QUOTA_ADMIT for a packet at the head of its port and furrow (R270): it is admitted once its
charge is within the limit. -/
def quotaAdmitIngress (s : State) (p f : Nat) : State :=
  match waitsOf s p f with
  | w :: _ => if w.why == .quota then drainPort s p f else s
  | [] => s

/-- HOLD_TIMEOUT (R125). -/
def execHoldTimeout (port furrow : Nat) (s : State) : Answer :=
  match waitsOf s port furrow with
  | w :: rest =>
    if w.why == .hold then
      let s := placeRx (setWaits s port furrow rest) port w.pkt.uid .dropped
      let s := event (dropIngress s port dcHold w.pkt) 0x0601 srcPort port { detail := w.pkt.hdr.dst }
      .next (drainPort s port furrow)
    else .next s
  | [] => .next s

/-- OCC_SCAN_END: the scan of a held entry ends (R126). -/
def execOccScanEnd (index : Nat) (s : State) : Answer :=
  match holdOf s index with
  | some x => .next (setHold s index [{ x with scanning := false }])
  | none => .next s

/-! ## Table writes and commands (R124, R127 to R130) -/

def fwdResult (s : State) (code : Nat) : State := wrf s aFwdStat 63 56 code

/-- Bits of a forwarding entry that a write sets (R111). -/
def fwdFields : List RField :=
  [ro 63 62, rw 61 61, rsv 60 58, rw 57 46, rw 45 34, rw 33 33, rw 32 32, rsv 31 0]

/-- A write to a forwarding entry (R124). -/
def fwdTableWrite (s : State) (path i : Nat) (v : Word) : WrRes :=
  let code := match fwdState s i with
    | 0 => 0
    | 2 =>
      match holdOf s i with
      | some x => if x.scanning then 0x03 else if occOf s i ≠ 0 then 0x02 else 0
      | none => if occOf s i ≠ 0 then 0x02 else 0
    | _ => 0x01
  if code ≠ 0 then ⟨fwdResult s code, .refused code⟩
  else
    let was := fwdState s i
    let s := regWrite (fwdResult s 0) path (aFwdEntry i) fwdFields v
    let s := if was = 0 && (bitOf v 61 || bitOf v 33 || bitOf v 32) then
        wrf s (aFwdEntry i) 63 62 fwdValid
      else s
    ⟨s, .ok⟩

def execFwdTableWrite (path index : Nat) (value : Word) (s : State) : Answer :=
  .next (mgApply s (aFwdEntry index) value fun s => fwdTableWrite s path index value)

/-- Held entries, ascending. -/
def heldEntries (s : State) : List Nat := s.fab.holds.map Prod.fst

/-- A set is in use: an active entry names it, or a held one whose OCC is not 0 (R124). -/
def setInUse (s : State) (set : Nat) : Bool :=
  refsActive s set != 0 || (heldEntries s).any fun i =>
    namesSet (rd s (aFwdEntry i)) set
      && (occOf s i != 0 || (holdOf s i).any Hold.scanning)

/-- Fields of a word of an ECMP set (R112). -/
def ecmpFields (w : Nat) : List RField :=
  if w = 0 then [rwIf 63 57 (· ≤ 64), ro 56 38, rsv 37 0]
  else if w ≤ 10 then [rsv 63 63, rw 62 0]
  else if w = 11 then [ro 63 0]
  else [rsv 63 0]

/-- A write to a word of an ECMP set (R124). -/
def ecmpSetWrite (s : State) (path set w : Nat) (v : Word) : WrRes :=
  if setInUse s set then ⟨fwdResult s 0x05, .refused 0x05⟩
  else ⟨regWrite (fwdResult s 0) path (aEcmp set w) (ecmpFields w) v, .ok⟩

def execEcmpSetWrite (path set word : Nat) (value : Word) (s : State) : Answer :=
  .next (mgApply s (aEcmp set word) value fun s => ecmpSetWrite s path set word value)

/-- Every packet that waits on a held entry may go (R125). -/
def drainHolds (s : State) : State :=
  forAll (fun s kv => drainPort s (kv / 16) (kv % 16)) s
    ((s.fab.waits.filter fun kv => kv.2.any fun w => w.why == .hold).map Prod.fst)

/-- A command of FWD_CMD (R128): the state and the result code. -/
def fwdCommand (s : State) (op i : Nat) : State × Nat :=
  let r := match op with
    | 1 =>
      match fwdState s i with
      | 2 => (s, 0)
      | 1 =>
        if 64 ≤ s.fab.holds.length then (s, 0x04)
        else (setHold (wrf s (aFwdEntry i) 63 62 fwdHeld) i [{ scanning := true, arrivals := 0 }], 0)
      | _ => (s, 0x06)
    | 2 =>
      if fwdState s i ≠ fwdHeld then (s, 0x01)
      else (drainHolds (setHold (wrf s (aFwdEntry i) 63 62 fwdValid) i []), 0)
    | 3 =>
      if fwdState s i ≠ fwdHeld then (s, 0x01)
      else if (holdOf s i).any Hold.scanning then (s, 0x03)
      else if occOf s i ≠ 0 then (s, 0x02)
      else (setHold (wrf s (aFwdEntry i) 63 62 0) i [], 0)
    | _ => (s, 0)
  (fwdResult r.1 r.2, r.2)

/-- A write to FWD_CMD. -/
def fwdCmdWrite (s : State) (path : Nat) (v : Word) : WrRes :=
  cmdWrite s path aFwdCmd
    [⟨63, 60, .wo, fun w => 1 ≤ bitsOf w 63 60 && bitsOf w 63 60 ≤ 4⟩, rsv 59 18, wo 17 0] v
    fun s => fwdCommand s (bitsOf v 63 60) (bitsOf v 17 0)

/-- The word that gives a forwarding command. -/
def fwdCmdWord (op i : Nat) : Word := bitsAt 63 60 op ||| bitsAt 17 0 i

/-- FWD_STAT (R129): HOLDS, ARRIVALS and OCC of the entry that FWD_CMD last selected. -/
def fwdStatWord (s : State) : Word :=
  let i := rdf s aFwdCmd 17 0
  bitsAt 63 56 (rdf s aFwdStat 63 56) ||| bitsAt 55 48 s.fab.holds.length
    ||| (match holdOf s i with
      | none => 0
      | some x => bitsAt 47 32 x.arrivals
          ||| bitsAt 31 0 (if x.scanning then 0xFFFF_FFFF else occOf s i))

def execFwdHold (path index : Nat) (s : State) : Answer :=
  .next (mgApply s aFwdCmd (fwdCmdWord 1 index) fun s => fwdCmdWrite s path (fwdCmdWord 1 index))
def execFwdRelease (path index : Nat) (s : State) : Answer :=
  .next (mgApply s aFwdCmd (fwdCmdWord 2 index) fun s => fwdCmdWrite s path (fwdCmdWord 2 index))
def execFwdInvalidate (path index : Nat) (s : State) : Answer :=
  .next (mgApply s aFwdCmd (fwdCmdWord 3 index) fun s => fwdCmdWrite s path (fwdCmdWord 3 index))
def execFwdQuery (path index : Nat) (s : State) : Answer :=
  .next (mgApply s aFwdCmd (fwdCmdWord 4 index) fun s => fwdCmdWrite s path (fwdCmdWord 4 index))

end Sys2Proof.Machine
end

