-- ==== Sys2Proof/Machine/Runs.lean ====
section
/-! DEFINITION. Collective runs at this device: their slots, frames, notices and records (R144, R153
to R158), sow copies (R123, R154, R160), output scales (R215 to R220) and the ways a run fails and
closes (R145, R152, R153). -/

namespace Sys2Proof.Machine

/-! ## Slots -/

def runKey (g seq : Nat) : Nat := g * 2 ^ 32 + seq
def runOf (s : State) (key : Nat) : Option Run := tone s.bnd.runs key
def setRuns (s : State) (key : Nat) (x : List Run) : State :=
  { s with bnd := { s.bnd with runs := tset [] s.bnd.runs key x } }

/-- Change a run; nothing where the slot is free. -/
def modRun (s : State) (key : Nat) (f : Run → Run) : State :=
  match runOf s key with
  | none => s
  | some r => setRuns s key [f r]

/-- Runs that hold a slot. -/
def liveRuns (s : State) : List Run :=
  (s.bnd.runs.flatMap Prod.snd).filter fun r => !r.released
def runsOf (s : State) (g : Nat) : List Run := (liveRuns s).filter fun r => r.group == g
def keyOf (r : Run) : Nat := runKey r.group r.seq

/-- The run of a group that a packet's INSTANCE names. -/
def findRun (s : State) (g low : Nat) : Option Run :=
  (runsOf s g).find? fun r => r.seq % 2 ^ 16 == low

def chunkOf (r : Run) (k : Nat) : Chunk := tget Chunk.empty r.chunks k
def setChunk (s : State) (key k : Nat) (c : Chunk) : State :=
  modRun s key fun r => { r with chunks := tset Chunk.empty r.chunks k c }
def modChunk (s : State) (key k : Nat) (f : Chunk → Chunk) : State :=
  modRun s key fun r => { r with chunks := tmod Chunk.empty r.chunks k f }

/-- Sow chunks, which members take copies of, are kept apart from the chunks reduced here. -/
def sowKey (k : Nat) : Nat := 2 ^ 24 + k

/-- A cause named by this device. -/
def causeHere (s : State) (port rank : Nat) : Cause := ⟨port, rank, deviceId s⟩

def failing (r : Run) : Bool := r.state == .failed || r.code != 0

/-! ## Frames the device builds -/

def headVersion (s : State) (p : Nat) : Nat := rdf s (aLinkStat p) 39 36

/-- A frame to send: a new identity, HOP 0, CMARK 0, a good tail. -/
def newFrame (s : State) (h : Header) (payload : List Byte) (use : PktUse) : State × Pkt :=
  let u := freshUid s
  (u.1, ⟨u.2, h, payload, tailGood, true, [], use, 0⟩)

/-- Give a built frame its buffer and queue it; none where no buffer is free or the plot's quota of
a charged furrow is full (R260, R268). -/
def placeFrame (s : State) (who port : Nat) (k : Pkt) : Option State :=
  match allocPacket s who (ownPort port) k.hdr.plot k.hdr.furrow k.payload with
  | none => none
  | some (s', bs) =>
    if quotaOk s' k.hdr.plot k.hdr.furrow (unitsOf bs) then
      some (enqueue (chargeQuota s' k.hdr.plot k.hdr.furrow (unitsOf bs)) port { k with bufs := bs })
    else none

/-- Whether a port takes the device's own frames of a furrow (R389). -/
def portTakes (s : State) (p f : Nat) : Bool :=
  forwarding s p || (f == 0 && carriesOrders s p)

/-- Send a frame the device builds: it waits at its source unit while no buffer is free (R260). -/
def sendFrame (s : State) (who port : Nat) (k : Pkt) : State :=
  let wait := { s with fab := { s.fab with atSource := s.fab.atSource ++ [(port, k)] } }
  if s.fab.atSource ≠ [] then wait
  else
    match placeFrame s who port k with
    | none => wait
    | some s' => s'

/-- Frames at their source units, taken up in order while buffers are free. -/
def drainSource : Nat → State → State
  | 0, s => s
  | n + 1, s =>
    match s.fab.atSource with
    | [] => s
    | (port, k) :: rest =>
      match placeFrame { s with fab := { s.fab with atSource := rest } } 76 port k with
      | none => s
      | some s' => drainSource n s'

/-- The round-robin slot of a hub as a requester. -/
def whoHub (n : Nat) : Nat := 64 + n

/-- DST of a packet to a parent or child device (R102). -/
def dstDevice : Nat := 0x3FFFF
def dstOf (m : Member) : Nat := if m.kind == mkChild then dstDevice else m.endpoint

/-- A collective header of a run, from this device (R98, R102, R157). -/
def runHeader (s : State) (port type furrow len flags dst chunk part scale : Nat) (r : Run)
    (g : Group) : Header :=
  collHeader (headVersion s port) type furrow g.plot len flags dst (deviceId s) chunk r.group
    (r.seq % 2 ^ 16) g.spanLo r.tag (sigOf g r.seq) scale part

/-- Send a data-layout frame the device builds along its forwarding entry (R110): a frame for this
device itself stays inside; one without a route is lost. -/
def sendRouted (s : State) (who : Nat) (h : Header) (payload : List Byte) (use : PktUse) : State :=
  match routeOf s none h with
  | .unroutable => s
  | .here => { s with fab := { s.fab with ownTurn := s.fab.ownTurn ++ [⟨h, payload⟩] } }
  | .toPort p =>
    let f := newFrame s { h with w0 := putBits h.w0 63 60 (headVersion s p) } payload use
    sendFrame f.1 who p f.2

/-! ## Notices and records (R155) -/

/-- The payload of a completion record. -/
def recordBytes (r : Run) (g : Group) (code : Nat) (c : Cause) (up : Bool)
    (rank key pkts elems : Nat) : List Byte :=
  leOfWords
    [bitsAt 7 0 code ||| bitsAt 15 8 r.cvt ||| bitsAt 19 16 r.arith ||| bitsAt 20 20 (b2n r.fallback)
        ||| bitsAt 21 21 (b2n r.miss) ||| bitsAt 22 22 (b2n g.strict) ||| bitsAt 23 23 (b2n g.express)
        ||| bitsAt 24 24 (b2n up) ||| bitsAt 63 32 r.seq,
     bitsAt 15 0 r.group ||| bitsAt 31 16 rank ||| bitsAt 47 32 c.rank ||| bitsAt 56 48 c.port,
     bitsAt 17 0 c.device ||| bitsAt 33 18 key,
     bitsAt 31 0 r.step ||| bitsAt 63 32 pkts,
     bitsAt 39 0 elems ||| bitsAt 55 40 (Nat.min r.replays 0xFFFF)]

/-- The up notice of a run (R153 step 1, R155): none from a root or over a port that is down. -/
def sendUpNotice (s : State) (r : Run) (g : Group) (code : Nat) (c : Cause) : State :=
  if g.role == roleRoot || !forwarding s g.parentPort then s
  else
    let h := runHeader s g.parentPort tCompletion 1 40 (flagFirst + flagLast) dstDevice 0 0 0 r g
    let f := newFrame s h (recordBytes r g code c true 0xFFFF 0 0 0) .plain
    sendFrame f.1 (whoHub g.owner) g.parentPort f.2

/-- A member's final record (R155). -/
def finalBytes (r : Run) (g : Group) (i : Nat) (m : Member) : List Byte :=
  recordBytes r g r.code r.cause false m.rankLo
    (if m.kind == mkChild then 0 else m.landingKey) (tget 0 r.sentPkts i)
    (if r.code = 0 then tget 0 r.sentElems i else 0)

/-- Free a run's slot; it stays listed while a judgement or a core run of it is still to end. -/
def releaseRun (s : State) (key : Nat) : State :=
  match runOf s key with
  | none => s
  | some r =>
    let s := if r.released then s else drain s (aGroup r.group 5) 31 28 1
    if r.chunks.any fun kv => kv.2.stage == .running || kv.2.stage == .judging then
      setRuns s key [{ r with released := true }]
    else setRuns s key []

/-- Queue the final record of one member; the members whose port is down get none. -/
def sendFinal (g : Group) (key : Nat) (s : State) (i : Nat) : State :=
  match runOf s key with
  | none => s
  | some r =>
    let m := memberN s g i
    if !forwarding s m.port then s
    else
      let h := runHeader s m.port tCompletion 1 40 (flagFirst + flagLast) (dstOf m) 0 0 0 r g
      let f := newFrame s h (finalBytes r g i m) (.final key i)
      let s := count f.1 5 g.owner (14 + r.code) 1
      let s := modRun s key fun r => { r with finalsLeft := r.finalsLeft + 1 }
      sendFrame s (whoHub g.owner) m.port f.2

/-- The final records of a closing run whose copies have left and which awaits no sow packet
(R158); with none to send, its slot is free. -/
def tryFinish (s : State) (key : Nat) : State :=
  match runOf s key with
  | none => s
  | some r =>
    if r.state ≠ .closing || r.finalsSent || r.released then s
    else if r.chunks.any fun kv => kv.2.copies ≠ [] || (2 ^ 24 ≤ kv.1 && kv.2.stage == .checked) then s
    else if r.sowCount < r.sowTotal then s
    else
      let g := groupAt s r.group
      let s := modRun s key fun r => { r with finalsSent := true }
      let s := forAll (sendFinal g key) s (List.range g.members)
      match runOf s key with
      | some r => if r.finalsLeft = 0 then releaseRun s key else s
      | none => s

/-- A final record has left or is lost with its port: the last one frees the slot (R145). -/
def finalGone (s : State) (key : Nat) : State :=
  let s := modRun s key fun r => { r with finalsLeft := r.finalsLeft - 1 }
  match runOf s key with
  | some r => if r.finalsSent && r.finalsLeft = 0 then releaseRun s key else s
  | none => s

/-! ## Output scales (R215 to R220) -/

/-- The group keeps an output-scale history here (R216). -/
def keepsScale (g : Group) : Bool :=
  g.role == roleRoot && (g.gkind == gkReapSow || g.gkind == gkReapToOne)
    && (g.outFmt == 0x05 || g.outFmt == 0x06)

def osNone : Nat := 0
def osFresh : Nat := 1
def osHeld : Nat := 2
def osCorrected : Nat := 3

/-- Entry j of a history. -/
def histEntry (s : State) (g j : Nat) : Nat :=
  rdf s (aOscale g (j / 2)) (32 * (j % 2) + 31) (32 * (j % 2))

/-- k clamped to −64..63. -/
def clampK (k : Int) : Int := max (-64) (min 63 k)

/-- k of a HELD history, none where it has no finite positive entry (R217). -/
def heldK (s : State) (g : Nat) (x : Group) : Option Int :=
  let es := ((List.range (rdf s (aOscale g 8) 61 57)).map (histEntry s g)).filter fun c =>
    decide (0x0080_0000 ≤ c ∧ c < 0x7F80_0000)
  match es with
  | [] => none
  | e :: rest =>
    let a := rest.foldl Nat.max e
    let q : Int := (a / 2 ^ 23 : Nat) - 127
    let emax : Int := if x.outFmt = 0x06 then 8 else 15
    some (clampK (emax - (rdf s (aOscale g 8) 45 43 : Nat) - q))

/-- The exponent of the next run of a group, none for the BF16 fallback (R217, R218, R220). -/
def scaleOf (s : State) (g : Nat) (x : Group) : Option Int :=
  match rdf s (aOscale g 8) 63 62 with
  | 2 => heldK s g x
  | 3 => some (signed 7 (rdf s (aOscale g 8) 52 46))
  | _ => none

/-- Clear entries and pointers of a history; HEADROOM stays (R216, R218). -/
def clearHist (s : State) (g : Nat) : State :=
  let s := wrEntry s (aOscale g 0) (zeroEntry 8)
  wrf s (aOscale g 8) 61 53 0

/-- What the close of a run does to the history (R218, R219). -/
def closeScale (s : State) (r : Run) (g : Group) (code : Nat) : State :=
  if !keepsScale g then s
  else
    let a := aOscale r.group 8
    let s := if r.fallback then bumpMod s (aOscale r.group 9) 31 0 1 else s
    if r.miss then
      let k := (scaleOf s r.group g).getD 0
      let s := bumpMod (clearHist s r.group) (aOscale r.group 9) 63 32 1
      wrf (wrf s a 63 62 osCorrected) a 52 46 (unsigned 7 (clampK (k - 2)))
    else if code = 0 ∧ r.amax ≠ 0 then
      let j := rdf s a 56 53
      let s := wrf s (aOscale r.group (j / 2)) (32 * (j % 2) + 31) (32 * (j % 2)) r.amax
      let s := wrf (wrf s a 56 53 (j + 1)) a 61 57 (Nat.min 16 (rdf s a 61 57 + 1))
      let s := wrf (wrf s a 63 62 osHeld) a 31 0 r.seq
      wrf s a 52 46 (unsigned 7 ((heldK s r.group g).getD 0))
    else s

/-- SCALE_EPOCH of a plot and an output exponent (R215). -/
def scaleEpoch (s : State) (plot : Nat) (k : Int) : Nat :=
  let free := rdf s (aVerdict plot 0) 63 61 == 0
  let ep := if free then 0 else rdf s (aVerdict plot 1) 31 0 % 4
  let le := if free then 0 else rdf s (aVerdict plot 0) 51 45
  ep * 2 ^ 14 + le * 2 ^ 7 + unsigned 7 k

/-! ## Sow copies (R123, R154, R157, R158, R160) -/

/-- The members a result or a received sow chunk goes to (R135). -/
def sowTargets (s : State) (g : Group) : List (Nat × Member) :=
  let ms := (List.range g.members).map fun i => (i, memberN s g i)
  match g.gkind with
  | 0 | 3 => ms
  | 2 => ms.filter fun m => m.2.designated
  | 4 => ms.filter fun m => !(g.role == roleRoot && m.2.designated)
  | _ => []

/-- Token records of a masked chunk: the 8-byte header, the mask and the row. -/
def tokensOf (g : Group) (bs : List Byte) : List (List Byte × List Byte × List Byte) :=
  (piecesOf (tokenRecord g) bs.length bs).map fun t =>
    (t.take 8, (t.drop 8).take 32, t.drop 40)

/-- A mask names a rank of [lo, lo + n). -/
def maskMeets (mask : List Byte) (lo n : Nat) : Bool :=
  let v := leNat mask
  decide (v >>> lo % 2 ^ n ≠ 0)

/-- The bytes of a chunk that a member receives, and their count in elements or tokens. -/
def copyBytes (g : Group) (m : Member) (k : Nat) (bs : List Byte) : List Byte × Nat :=
  if masked g then
    let ts := (tokensOf g bs).filter fun t => maskMeets t.2.1 m.rankLo m.rankCount
    if m.kind == mkChild then (ts.flatMap fun t => t.1 ++ t.2.1 ++ t.2.2, ts.length)
    else (ts.flatMap fun t => t.1 ++ t.2.2, ts.length)
  else (bs, elemsOfChunk g k)

/-- Queue the packets of one member's copy of a sow chunk. -/
def queueCopy (s : State) (key k i : Nat) : State :=
  match runOf s key with
  | none => s
  | some r =>
    let g := groupAt s r.group
    let m := memberN s g i
    let c := chunkOf r (sowKey k)
    let bs := match c.result with
      | some o => o.bytes
      | none => []
    let cp := copyBytes g m k bs
    let parts := piecesOf 8192 cp.1.length cp.1
    let n := parts.length
    let type := if g.express then tSowExpress else tSow
    let furrow := if g.express then 6 else 3
    let one := fun (s : State) (p : List Byte × Nat) =>
      let flags := (if p.2 = 0 then flagFirst else 0) + (if p.2 + 1 = n then flagLast else 0)
        + (if r.fallback then flagFallback else 0)
      let h := runHeader s m.port type furrow p.1.length flags (dstOf m) k p.2 (r.scale.getD 0) r g
      let f := newFrame s h p.1 (.sow key k i (p.2 + 1 == n))
      enqueue f.1 m.port { f.2 with bufs := c.resultBufs }
    let s := modRun s key fun r =>
      { r with
        sentPkts := tmod 0 r.sentPkts i (· + n), sentElems := tmod 0 r.sentElems i (· + cp.2),
        chunks := tset Chunk.empty r.chunks (sowKey k) { c with copies := tset 0 c.copies i 2 } }
    forAll one s parts.zipIdx

/-- A member has a copy of an earlier chunk that has not left (R160). -/
def earlierCopy (r : Run) (k i : Nat) : Bool :=
  r.chunks.any fun kv => 2 ^ 24 ≤ kv.1 && decide (kv.1 < sowKey k) && tget 0 kv.2.copies i != 0

/-- Every earlier chunk of a masked dispatch has been placed at its root (R160). -/
def earlierPlaced (r : Run) (g : Group) (k : Nat) : Bool :=
  g.role != roleRoot || (List.range k).all fun j => (chunkOf r j).stage == .placed

/-- Queue the held copies of a masked dispatch whose turn has come, lowest chunk first. -/
def releaseHeld (s : State) (key : Nat) : State :=
  match runOf s key with
  | none => s
  | some r =>
    let held := r.chunks.flatMap fun kv =>
      if 2 ^ 24 ≤ kv.1 then (kv.2.copies.filter fun c => c.2 == 1).map fun c => (kv.1 - 2 ^ 24, c.1)
      else []
    forAll (fun s p =>
      match runOf s key with
      | none => s
      | some r =>
        if earlierCopy r p.1 p.2 || !earlierPlaced r (groupAt s r.group) p.1 then s
        else queueCopy s key p.1 p.2) s held

/-- Forget a sow chunk whose copies have all gone. -/
def dropSow (s : State) (key k : Nat) : State :=
  modRun s key fun r => { r with chunks := tset Chunk.empty r.chunks (sowKey k) Chunk.empty }

/-- The copy of a member is over, sent or discarded: its port's owner bit clears once no other copy
of the chunk leaves by that port (R266, R267). -/
def copyOver (s : State) (key k i : Nat) : State :=
  match runOf s key with
  | none => s
  | some r =>
    let g := groupAt s r.group
    let port := (memberN s g i).port
    let c := chunkOf r (sowKey k)
    let rest := tset 0 c.copies i 0
    let s := setChunk s key (sowKey k) { c with copies := rest }
    let s :=
      if rest.any fun o => (memberN s g o.1).port == port then s
      else forAll (fun s b => clearOwner s none b (ownPort port)) s (c.resultBufs.take 1)
    if rest = [] then dropSow s key k else s

/-- Whether a queued packet is a part of a copy. -/
def isPart (key k i : Nat) (x : Pkt) : Bool :=
  match x.use with
  | .sow a b c _ => a == key && b == k && c == i
  | _ => false

/-- Discard the copies of a failing run that have not started to leave, and the sow chunks that wait
(R154). -/
def dropCopies (s : State) (key : Nat) : State :=
  match runOf s key with
  | none => s
  | some r =>
    let g := groupAt s r.group
    let f := if g.express then 6 else 3
    let all := r.chunks.flatMap fun kv =>
      if 2 ^ 24 ≤ kv.1 then kv.2.copies.map fun c => (kv.1 - 2 ^ 24, c.1, c.2) else []
    let s := forAll (fun s (p : Nat × Nat × Nat) =>
      let k := p.1
      let i := p.2.1
      let port := (memberN s g i).port
      let mine := (queueOf s port f).filter (isPart key k i)
      if p.2.2 = 1 then copyOver s key k i
      else if mine.any fun x => x.hdr.part == 0 then
        let s := forAll (fun s x => unqueue s (qKey port f) x.uid) s mine
        let s := modRun s key fun r => { r with sentPkts := tmod 0 r.sentPkts i (· - mine.length) }
        copyOver s key k i
      else s) s all
    modRun s key fun r => { r with
      chunks := r.chunks.filter fun kv => !(2 ^ 24 ≤ kv.1 && kv.2.stage == .checked), sowIn := [] }

/-! ## Held inputs -/

/-- Return the cluster-store buffers of a chunk: its contributions' and its result's (R147, R268). -/
def freeHeld (s : State) (n key k : Nat) : State :=
  match runOf s key with
  | none => s
  | some r =>
    let c := chunkOf r k
    let s := freeBufs s (some n) (c.contribs.flatMap Contrib.bufs)
    setChunk s key k { c with contribs := [] }

/-- A failing run frees what it holds, except what cores still work on (R145, R375) and results on
their way up, which free their buffers as they leave (R268). -/
def freeInputs (s : State) (key : Nat) : State :=
  match runOf s key with
  | none => s
  | some r =>
    let g := groupAt s r.group
    let root := g.role == roleRoot
    let busy := fun (c : Chunk) => c.stage == .running || c.stage == .judging
    let s := forAll (fun s kv =>
      if 2 ^ 24 ≤ kv.1 || busy kv.2 then s
      else
        let s := freeHeld s g.owner key kv.1
        if root then freeBufs s (some g.owner) kv.2.resultBufs else s) s r.chunks
    modRun s key fun r => { r with
      chunks := r.chunks.filter fun kv =>
        2 ^ 24 ≤ kv.1 || busy kv.2 || (!root && kv.2.resultBufs != []) }

/-- Free the PENDING landing records of a run; what they cover is undefined (R173). -/
def freeLanding (s : State) (r : Run) (g : Group) : State :=
  match r.landing with
  | .reserved recs _ => forAll (spoilRecord g.owner) s recs
  | _ => s

/-! ## Verdict entries, as far as the ends of runs touch them (R206, R211, R212) -/

def vsFree : Nat := 0
def vsCollecting : Nat := 1
def vsVoting : Nat := 2
def vsApplying : Nat := 3
def vsUnresolved : Nat := 4
def vsFallow : Nat := 5

def vrdState (s : State) (p : Nat) : Nat := rdf s (aVerdict p 0) 63 61
def vrdWork (s : State) (p : Nat) : VerdictWork := tget VerdictWork.empty s.vrd p
def setVrdWork (s : State) (p : Nat) (x : VerdictWork) : State :=
  { s with vrd := tset VerdictWork.empty s.vrd p x }

/-- Enter a state of R206; a FALLOW that waited takes effect on COLLECTING and UNRESOLVED. -/
def vrdEnter (s : State) (p st : Nat) : State :=
  let w := vrdWork s p
  if w.fallowDue && (st == vsCollecting || st == vsUnresolved) then
    wrf (setVrdWork s p { w with fallowDue := false }) (aVerdict p 0) 63 61 vsFallow
  else wrf s (aVerdict p 0) 63 61 st

/-- A VERDICT run has ended with a code other than OK (R211, R212). -/
def verdictFailed (s : State) (r : Run) (g : Group) (code : Nat) : State :=
  if r.commit then
    event s 0x0C03 srcDevice 0xFFF { group := r.group, plot := g.plot, number := r.step, detail := code }
  else if vrdState s g.plot == vsVoting && plotStep s g.plot == r.step then
    event (vrdEnter s g.plot vsUnresolved) 0x0C04 srcDevice 0xFFF
      { group := r.group, plot := g.plot, number := r.step, detail := code }
  else s

/-! ## Failing and closing -/

/-- INSTANCE_FAILED (R156). -/
def logFailed (s : State) (r : Run) (g : Group) (code : Nat) (c : Cause) : State :=
  event s 0x0903 srcCluster g.owner
    { group := r.group, plot := g.plot, port := c.port, rank := c.rank, number := r.seq,
      detail := code }

/-- Enter CLOSING with a fixed code (R145, R154, R156, R173, R219). -/
def closeRun (s : State) (key code : Nat) (c : Cause) : State :=
  match runOf s key with
  | none => s
  | some r =>
    if r.state == .closing || r.released then s
    else
      let g := groupAt s r.group
      let s := modRun s key fun r => { r with state := .closing, code := code, cause := c }
      let s := if code = 0 then s else freeInputs (dropCopies s key) key
      let s := if code = 0 || code = 6 then s else logFailed s r g code c
      let s := captureInstance s g.owner r.group r.seq code r.cvt r.arith
      let s := match r.landing with
        | .reserved recs _ =>
          if code = 0 then forAll (countRecord (flagsOf r.cvt r.arith) g.owner) s recs
          else freeLanding s r g
        | _ => s
      let s := closeScale s r g code
      let s := { s with stk := { s.stk with
        slotHolds := s.stk.slotHolds.filter fun h => code == 0 || h.run != key } }
      let s := if g.gkind == gkVerdict && code ≠ 0 then verdictFailed s r g code else s
      tryFinish s key

/-- A run fails with a code and its cause (R145, R153): an up notice goes to the parent; a root, and
a device whose parent port is down, settle at once. -/
def failRun (s : State) (key code : Nat) (c : Cause) : State :=
  match runOf s key with
  | none => s
  | some r =>
    if r.state == .failed || r.state == .closing || r.released then s
    else
      let g := groupAt s r.group
      let s := modRun s key fun r =>
        { r with state := .failed, code := code, cause := c, failedLate := r.state == .sent }
      let s := freeInputs (dropCopies s key) key
      if g.role == roleRoot || !forwarding s g.parentPort then closeRun s key code c
      else sendUpNotice s { r with code := code } g code c

/-- A run fails by what this device found. -/
def failHere (s : State) (key code port rank : Nat) : State :=
  failRun s key code (causeHere s port rank)

/-- Every run of some groups that is not closing ends with a code (R139, R339, R387). -/
def failGroups (s : State) (code : Nat) (sel : Run → Bool) : State :=
  forAll (fun s r => failHere s (keyOf r) code 0x1FF 0xFFFF) s ((liveRuns s).filter sel)

/-- The runs that use a lost port (R145, R152): OPEN and SENT fail with MEMBER_LOST; FAILED settles
where it is the parent port; CLOSING ends its wait for the parent's sow packets. -/
def loseMember (p : Nat) (s : State) (r : Run) : State :=
  let key := keyOf r
  let g := groupAt s r.group
  let parent := g.role != roleRoot && g.parentPort == p
  let mem := (memberOnPort s g p).map fun i => (memberN s g i).rankLo
  let rank := if parent then some g.spanLo else mem
  match rank with
  | none => s
  | some rk =>
    match r.state with
    | .opened | .sent => failHere s key 3 p rk
    | .failed => if parent then closeRun s key r.code r.cause else s
    | .closing =>
      if parent && !r.finalsSent && r.sowCount < r.sowTotal then
        let s := modRun s key fun r =>
          { r with code := 3, cause := causeHere s p g.spanLo, sowTotal := 0 }
        let s := dropCopies s key
        let s := if r.code = 0 || r.code = 6 then logFailed s r g 3 (causeHere s p g.spanLo) else s
        let s := if g.gkind == gkVerdict && r.code = 0 then verdictFailed s r g 3 else s
        tryFinish s key
      else tryFinish s key

def losePort (s : State) (p : Nat) : State := forAll (loseMember p) s (liveRuns s)

/-! ## Sow placement (R147, R268, R270) -/

/-- A copy of each target: queued, held back for its turn, or nothing where it is empty or its port
is down (counted, R123). Answers the members that take one. -/
def copyPlan (s : State) (g : Group) (k : Nat) (bs : List Byte) : List Nat :=
  ((sowTargets s g).filter fun m =>
    forwarding s m.2.port && (copyBytes g m.2 k bs).1 ≠ []).map Prod.fst

/-- The first target whose tokens would pass its LANDING_BYTES (R160). -/
def overLanding (s : State) (g : Group) (r : Run) (k : Nat) (bs : List Byte) :
    Option (Nat × Member) :=
  if !masked g then none
  else (sowTargets s g).find? fun m =>
    m.2.kind != mkChild && m.2.landingBytes != 0
      && decide (m.2.landingBytes
        < (tget 0 r.sentElems m.1 + (copyBytes g m.2 k bs).2) * (8 + tokenRow g))

/-- Place a sow chunk in Granary buffers and start its copies; it stays `checked` while there is no
room for it (R268, R270). -/
def placeSow (s : State) (key k : Nat) : State :=
  match runOf s key with
  | none => s
  | some r =>
    let g := groupAt s r.group
    let c := chunkOf r (sowKey k)
    match c.result with
    | none => s
    | some out =>
      match overLanding s g r k out.bytes with
      | some m => failHere s key 8 m.2.port m.2.rankLo
      | none =>
        let down := (sowTargets s g).filter fun m => !forwarding s m.2.port
        let dests := copyPlan s g k out.bytes
        let furrow := if g.express then 6 else 3
        let own := ownHub g.owner
        let place := fun (s : State) (bs : List Nat) =>
          let s := forAll (fun s m => countPort s m.2.port dcEgrDiscard) s down
          let s := modChunk s key k fun c => { c with stage := .placed }
          if dests = [] then dropSow (freeBufs s none bs) key k
          else
            let s := setChunk s key (sowKey k)
              { c with stage := .placed, resultBufs := bs, copies := dests.map fun i => (i, 1) }
            if masked g then releaseHeld s key else forAll (fun s i => queueCopy s key k i) s dests
        if out.bytes = [] then place s []
        else
          match allocPacket s (whoHub g.owner) own g.plot furrow out.bytes with
          | none => s
          | some (s1, bs) =>
            if !quotaOk s1 g.plot furrow (unitsOf bs) then
              let s := if c.readyAt = 0 then count s 7 g.plot 0 1 else s
              setChunk s key (sowKey k) { c with readyAt := 1 }
            else
              let s1 := chargeQuota s1 g.plot furrow (unitsOf bs)
              let ports := (dests.map fun i => ownPort (memberN s g i).port).eraseDups
              match remask s1 none (bs.headD 0) ports with
              | none => count s 6 (ptrStart (bs.headD 0)) 2 1
              | some s2 => place s2 bs

/-- Hand a sow chunk to the copies' side. -/
def startSow (s : State) (key k : Nat) (out : ChunkOut) : State :=
  placeSow (setChunk s key (sowKey k) { Chunk.empty with stage := .checked, result := some out })
    key k

end Sys2Proof.Machine
end

