-- ==== Sys2Proof/Machine/Advance.lean ====
section
/-! DEFINITION. Advance-sowing copies in cluster store (R231 to R236): what they hold, how they are served
and discarded. -/

namespace Sys2Proof.Machine

/-- Bytes of a piece: one 16 KiB buffer. -/
def advPiece : Nat := 16384

/-- BND_ADV_PLOT fields (R236). -/
def advEn (s : State) (n p : Nat) : Bool := rdb s (aAdv n p) 63
def advDepth (s : State) (n p : Nat) : Nat := rdf s (aAdv n p) 62 59
def advLimit (s : State) (n p : Nat) : Nat := rdf s (aAdv n p) 58 47
def advCursor (s : State) (n p : Nat) : Nat := rdf s (aAdv n p) 31 16

def isCopy (n e v : Nat) (c : AdvCopy) : Bool := c.cluster == n && c.entry == e && c.version == v

/-- 64 KiB units that a plot's copies hold in a cluster, rounded up. -/
def advHeld (s : State) (n p : Nat) : Nat :=
  ceilDiv ((s.adv.filter fun c => c.cluster == n && c.plot == p).map fun c => c.bufs.length).sum 4

/-- Show HELD_64K. -/
def showHeld (s : State) (n p : Nat) : State := wrf s (aAdv n p) 46 35 (advHeld s n p)

/-- Bytes of piece i of a slot image of b bytes. -/
def pieceBytes (b i : Nat) : Nat := Nat.min advPiece (b - i * advPiece)

/-- Discard copies: their buffers return, and their bytes count as discarded unserved (R234). -/
def advDiscard (s : State) (sel : AdvCopy → Bool) : State :=
  let gone := s.adv.filter sel
  let s := { s with adv := s.adv.filter fun c => !sel c }
  forAll (fun s c =>
    let x := fbAt s c.cluster c.entry
    let bytes := (c.bufs.map fun b => pieceBytes (slotBytes x) b.1).sum
    let s := freeBufs s (some c.cluster) (c.bufs.map Prod.snd)
    showHeld (count s 5 c.cluster 28 bytes) c.cluster c.plot) s gone

/-- An entry leaves ACTIVE (R234). -/
def advEntryGone (s : State) (n e : Nat) : State :=
  advDiscard s fun c => c.cluster == n && c.entry == e

/-- A version of an entry retires (R190, R191, R234). -/
def advRetire (s : State) (n e v : Nat) : State := advDiscard s (isCopy n e v)

/-- Distance of a plan position ahead of the cursor, cyclically; before the first serving the walk
starts at position 0 (R232). -/
def advAhead (cursor pos : Nat) : Nat :=
  if cursor = 0xFFFF then pos else (pos + 2 ^ 16 - 1 - cursor) % 2 ^ 16

/-- Serve bytes [a, a + m) of version v of an entry from a copy, where it holds them: the pieces
touched are freed, and the bytes count as hits (R233). -/
def advServe (s : State) (n e v a m : Nat) : State :=
  match s.adv.find? (isCopy n e v) with
  | none => s
  | some c =>
    let x := fbAt s n e
    let hit := c.bufs.filter fun b => meets a m (b.1 * advPiece) (pieceBytes (slotBytes x) b.1)
    let bytes := (hit.map fun b =>
      (overlapOf a m (b.1 * advPiece) (pieceBytes (slotBytes x) b.1)).2).sum
    let rest := c.bufs.filter fun b => !hit.contains b
    let s := { s with adv := s.adv.map fun d => if isCopy n e v d then { d with bufs := rest } else d }
    let s := freeBufs s (some n) (hit.map Prod.snd)
    showHeld (count s 5 n 27 bytes) n c.plot

/-- Set CURSOR; copies it moves past without serving are discarded (R233, R234). -/
def advMove (s : State) (n p pos : Nat) : State :=
  let old := advCursor s n p
  let s := wrf s (aAdv n p) 31 16 pos
  advDiscard s fun c => c.cluster == n && c.plot == p
    && decide (advAhead old (fbAt s n c.entry).planPos < advAhead old pos)

end Sys2Proof.Machine
end

