-- ==== Sys2Proof/Machine/TurnOps.lean ====
section
/-! DEFINITION. Turnover slots (R241), the copy's pages and packets (R248, R249), and the ways a slot starts,
fails and is released (R247, R251, R252). -/

namespace Sys2Proof.Machine

/-! ## Slots -/

def tpFree : Nat := 0
def tpArmed : Nat := 1
def tpMoving : Nat := 2
def tpVerifying : Nat := 3
def tpHanded : Nat := 4
def tpFailed : Nat := 5

def turnDest (s : State) (n t : Nat) : Bool := rdb s (aTurn n t 0) 60
def turnPeerStack (s : State) (n t : Nat) : Nat := rdf s (aTurn n t 0) 59 56
def turnEntry (s : State) (n t : Nat) : Nat := rdf s (aTurn n t 0) 55 41
def turnPeerEntry (s : State) (n t : Nat) : Nat := rdf s (aTurn n t 0) 40 26
def turnPeer (s : State) (n t : Nat) : Nat := rdf s (aTurn n t 0) 25 8
def turnBoundary (s : State) (n t : Nat) : Nat := rdf s (aTurn n t 1) 63 32
def turnId (s : State) (n t : Nat) : Nat := rdf s (aTurn n t 1) 31 0
def turnTotal (s : State) (n t : Nat) : Nat := rdf s (aTurn n t 2) 63 40
def turnDone (s : State) (n t : Nat) : Nat := rdf s (aTurn n t 2) 39 16
def setPhase (s : State) (n t ph : Nat) : State := wrf s (aTurn n t 0) 63 61 ph
def setReason (s : State) (n t r : Nat) : State := wrf s (aTurn n t 2) 15 8 r

def turnWork (s : State) (n t : Nat) : TurnWork := tget TurnWork.empty s.stk.turns (64 * n + t)
def setTurnWork (s : State) (n t : Nat) (x : TurnWork) : State :=
  { s with stk := { s.stk with turns := tset TurnWork.empty s.stk.turns (64 * n + t) x } }

/-- Every slot that is not FREE. -/
def turnSlots (s : State) : List (Nat × Nat) :=
  (List.range 12).flatMap fun n =>
    ((List.range 64).filter fun t => turnPhase s n t != tpFree).map fun t => (n, t)

/-- A slot becomes FREE: its words read as after reset. -/
def freeTurn (s : State) (n t : Nat) : State :=
  setTurnWork (wrEntry s (aTurn n t 0) (zeroEntry 4)) n t TurnWork.empty

/-! ## Pages (R249) -/

/-- The arrays that are copied, in region order. -/
def copyArrays : List StateArray := [.master, .remainder, .m1, .m2, .slot0, .slot1]

def arrayPages (x : Fb) (a : StateArray) : Nat := ceilDiv (arrayBytes x a x.elems) 4096
def pageTotal (x : Fb) : Nat := (copyArrays.map (arrayPages x)).sum

/-- Stack offset of page i of the copy. -/
def pageAddr (x : Fb) : List StateArray → Nat → Nat
  | [], _ => regionBase x
  | a :: rest, i =>
    if i < arrayPages x a then regionBase x + arrayStart x a + 4096 * i
    else pageAddr x rest (i - arrayPages x a)

def pageOf (s : State) (n : Nat) (x : Fb) (i : Nat) : List Byte :=
  hbmRead s n (pageAddr x copyArrays i) 4096

/-- The check of R249 over a page list. -/
def listCrc (checks : List Nat) : Nat := crc32c (checks.flatMap (leBytes 4))

/-! ## Packets (R248) -/

def tkPage : Nat := 1
def tkDone : Nat := 2
def tkConfirm : Nat := 3
def tkReject : Nat := 4
def tkAbort : Nat := 5

def trNotArmed : Nat := 1
def trGap : Nat := 2
def trPageCrc : Nat := 3
def trMismatch : Nat := 4
def trListCrc : Nat := 5
def trTimeout : Nat := 6
def trPeerAbort : Nat := 7
def trSourceUe : Nat := 8

/-- The ends that a TURNOVER packet names. -/
structure TurnEnds where
  device : Nat
  plot : Nat
  dstStack : Nat
  dstEntry : Nat
  srcEntry : Nat
  srcStack : Nat
  id : Nat
  boundary : Nat
deriving DecidableEq, Repr

/-- From a slot to its peer. -/
def endsOf (s : State) (n t : Nat) : TurnEnds :=
  ⟨turnPeer s n t, (fbAt s n (turnEntry s n t)).plot, turnPeerStack s n t, turnPeerEntry s n t,
    turnEntry s n t, n, turnId s n t, turnBoundary s n t⟩

/-- Send a TURNOVER packet. -/
def sendTurn (s : State) (x : TurnEnds) (kind reason page total check : Nat) (body : List Byte) :
    State :=
  let d := leOfWords
    [bitsAt 63 60 kind ||| bitsAt 59 56 x.dstStack ||| bitsAt 55 41 x.dstEntry
        ||| bitsAt 40 26 x.srcEntry ||| bitsAt 25 22 x.srcStack ||| bitsAt 15 8 reason,
     bitsAt 63 32 x.id ||| bitsAt 31 0 x.boundary,
     bitsAt 63 40 page ||| bitsAt 39 16 total,
     bitsAt 63 32 check]
  let p := d ++ body
  let h := dataHeader 0 tTurnover 5 x.plot p.length (flagFirst + flagLast) x.device (deviceId s) 0 0
    (bitsAt 31 0 x.id)
  sendRouted s (whoHub x.srcStack) h p .plain

/-- A REJECT from a destination slot. -/
def turnReject (s : State) (n t reason page : Nat) : State :=
  sendTurn (setReason s n t reason) (endsOf s n t) tkReject reason page (turnTotal s n t) 0 []

def sendPage (n t : Nat) (x : Fb) (s : State) (i : Nat) : State :=
  let bs := pageOf s n x i
  sendTurn s (endsOf s n t) tkPage 0 i (pageTotal x) (crc32c bs) bs

/-- DONE: the source entry's words and the list check. -/
def sendDone (s : State) (n t : Nat) : State :=
  sendTurn s (endsOf s n t) tkDone 0 0 (turnTotal s n t) (rdf s (aTurn n t 3) 63 32)
    (leOfWords (rdEntry s (aEntry n (turnEntry s n t) 0) 8))

/-- Send the pages from one upward in order, then DONE; the source then verifies (R249, R253's
example). -/
def sendPages (s : State) (n t from' : Nat) : State :=
  let x := fbAt s n (turnEntry s n t)
  let total := pageTotal x
  let checks := (List.range total).map fun i => crc32c (pageOf s n x i)
  let s := wrf (wrf s (aTurn n t 2) 63 40 total) (aTurn n t 3) 63 32 (listCrc checks)
  let s := setTurnWork s n t { turnWork s n t with checks := checks }
  let s := forAll (sendPage n t x) s ((List.range (total - from')).map (from' + ·))
  setPhase (sendDone (wrf s (aTurn n t 2) 39 16 total) n t) n t tpVerifying

/-! ## Starting, failing, releasing -/

/-- The slot fails (R251): its entry keeps its state. -/
def failTurn (s : State) (n t reason : Nat) : State := setReason (setPhase s n t tpFailed) n t reason

/-- ATTEMPTS advances; past RETRIES the slot goes to FAILED (R251). -/
def turnAttempt (s : State) (n t reason : Nat) : State :=
  let a := rdf s (aTurn n t 0) 7 4 + 1
  let s := setReason (wrf s (aTurn n t 0) 7 4 (Nat.min 15 a)) n t reason
  if rdf s (aTurnCfg n) 23 20 < a then
    event (setPhase s n t tpFailed) 0x0B0B srcStack n {}
  else s

/-- A source starts (R247): its entry becomes OUTGOING and leaves advance sowing. -/
def turnStart (s : State) (n t : Nat) : State :=
  let e := turnEntry s n t
  let s := advEntryGone (setFbState s n e esOutgoing) n e
  sendPages (setPhase s n t tpMoving) n t 0

/-- ARMED source slots of a plot whose boundary is the step after st. -/
def sourcesDue (s : State) (plot st : Nat) : List (Nat × Nat) :=
  (turnSlots s).filter fun p =>
    !turnDest s p.1 p.2 && turnPhase s p.1 p.2 == tpArmed
      && turnBoundary s p.1 p.2 == (st + 1) % 2 ^ 32
      && (fbAt s p.1 (turnEntry s p.1 p.2)).plot == plot

/-- Start the sources that a skip of step st releases, and on FIT those whose entry no pass covers
(R247). -/
def turnSourcesAt (s : State) (plot st : Nat) (fit : Bool) : State :=
  forAll (fun s p =>
    if !fit || (fbAt s p.1 (turnEntry s p.1 p.2)).frozen then turnStart s p.1 p.2 else s) s
    (sourcesDue s plot st)

/-- Free a field-book entry (R194, R242, R252): its words read as after reset. -/
def freeEntry (s : State) (n e : Nat) : State :=
  let s := wrEntry s (aEntry n e 0) (zeroEntry 8)
  let s := { s with stk := { s.stk with binStep := tset 0 s.stk.binStep (feKey n e) 0 } }
  forAll (fun s r => freeRecord s n r) s
    ((recordsOf s n).filter fun r => rdf s (aLanding n r 0) 61 47 == e)

/-- The commit run of step B has ended with OK: HANDED slots are released (R252). -/
def turnRelease (s : State) (plot st : Nat) : State :=
  forAll (fun s p =>
    let n := p.1
    let e := turnEntry s n p.2
    let s := event s 0x0B0C srcStack n {}
    let src := !turnDest s n p.2
    let s := freeTurn s n p.2
    if src then freeEntry s n e else s) s
    ((turnSlots s).filter fun p =>
      turnPhase s p.1 p.2 == tpHanded && turnBoundary s p.1 p.2 == st
        && (fbAt s p.1 (turnEntry s p.1 p.2)).plot == plot)

end Sys2Proof.Machine
end

