-- ==== Sys2Proof/Machine/VerdictOps.lean ====
section
/-! DEFINITION. Verdict records (R203 to R205), the root's decision (R207) and what applying an outcome
does (R208 to R210). -/

namespace Sys2Proof.Machine

/-! ## Records (R203) -/

def ocFit : Nat := 1
def ocSkipOverflow : Nat := 2
def ocSkipOverlap : Nat := 3
def ocSkipOrder : Nat := 4

/-- The eight words of a record. -/
def recordOf (payload : List Byte) : List Word := wordsOfLe 8 payload

/-- MAX over the two 32-bit halves of a word. -/
def maxHalves (a b : Word) : Word :=
  bitsAt 63 32 (Nat.max (bitsOf a 63 32) (bitsOf b 63 32))
    ||| bitsAt 31 0 (Nat.max (bitsOf a 31 0) (bitsOf b 31 0))

/-- Two records combined on the way up; words 4 to 7 are zero there (R203, R204). -/
def combineRecords (a b : List Word) : List Word :=
  [wordAt a 0 ||| wordAt b 0, maxHalves (wordAt a 1) (wordAt b 1), maxHalves (wordAt a 2) (wordAt b 2),
    maxHalves (wordAt a 3) (wordAt b 3), 0, 0, 0, 0]

def combineAll : List (List Word) → List Word
  | [] => zeroEntry 8
  | r :: rs => rs.foldl combineRecords (combineRecords r (zeroEntry 8))

def isVerdictKind (r : List Word) : Bool := bitOf (wordAt r 0) 62
def isCommitKind (r : List Word) : Bool := bitOf (wordAt r 0) 63
def recordStep (r : List Word) : Nat := bitsOf (wordAt r 3) 31 0

/-- An entry's counted gradients make the step unfit (R205). -/
def entryUnfit (s : State) (n e : Nat) : Bool :=
  rdf s (aEntry n e 5) 30 0 != 0
    || flagsOf (rdf s (aEntry n e 5) 59 52) (rdf s (aEntry n e 5) 51 48) &&& unfitFlags != 0

/-- The local verdict of a plot for its STEP (R205). -/
def localRecord (s : State) (p : Nat) : List Word :=
  let es := plotEntries s p
  let unfit := es.any fun x => entryUnfit s x.1 x.2
  let lap := es.any fun x => rdb s (aEntry x.1 x.2 5) 61
  let nf := Nat.min 0xFFFF_FFFF (es.map fun x => rdf s (aEntry x.1 x.2 5) 30 0).sum
  let amax := (es.map fun x => rdf s (aEntry x.1 x.2 7) 63 32).foldl Nat.max 0
  [bitsAt 62 62 1 ||| bitsAt 0 0 (b2n unfit) ||| bitsAt 1 1 (b2n lap)
      ||| bitsAt 2 2 (rdf s (aVerdict p 0) 53 53),
    bitsAt 31 0 nf ||| bitsAt 63 32 amax, 0, bitsAt 31 0 (plotStep s p), 0, 0, 0, 0]

/-- The commit record of a step: after a skip every other field is zero (R209, R210). -/
def commitRecord (w : VerdictWork) (st : Nat) : List Word :=
  [bitsAt 63 63 1 ||| bitsAt 5 3 (w.flags / 8), 0, bitsAt 31 0 w.updMax ||| bitsAt 63 32 w.amaxMaster,
    bitsAt 31 0 st, 0, 0, 0, 0]

/-! ## The decision (R207) -/

/-- What the root fixes: the outcome, and LOSS_EXP, EPOCH and CLEAN of the next step. -/
structure Decision where
  outcome : Nat
  lossExp : Int
  epoch : Nat
  clean : Nat
deriving DecidableEq, Repr

def vrdLossExp (s : State) (p : Nat) : Int := signed 8 (rdf s (aVerdict p 0) 52 45)

def outcomeOf (r : List Word) : Nat :=
  if bitOf (wordAt r 0) 0 then ocSkipOverflow
  else if bitOf (wordAt r 0) 1 then ocSkipOverlap
  else if bitOf (wordAt r 0) 2 then ocSkipOrder
  else ocFit

/-- The next loss scale and clean count, and the event they log if one (R207). -/
def nextScale (dynamic : Bool) (backoff growth outcome : Nat) (e : Int) (c : Nat) :
    Int × Nat × Option Nat :=
  if !dynamic then (e, c, none)
  else if outcome = ocSkipOverflow then
    (max (e - backoff) (-32), 0, if e = -32 then some 0x0C01 else none)
  else if outcome = ocFit then
    let c1 := Nat.min (c + 1) 0xFFFF_FFFF
    if growth ≠ 0 ∧ growth ≤ c1 then (min (e + 1) 32, 0, if e = 32 then some 0x0C02 else none)
    else (e, c1, none)
  else (e, c, none)

/-- The root's decision on a combined record (R207). -/
def rootDecide (s : State) (p : Nat) (r : List Word) : State × Decision :=
  let e := vrdLossExp s p
  let oc := outcomeOf r
  let x := nextScale (rdb s (aVerdict p 0) 60) (rdf s (aVerdict p 0) 59 57) (rdf s (aVerdict p 2) 63 32)
    oc e (rdf s (aVerdict p 2) 31 0)
  let ep := rdf s (aVerdict p 1) 31 0
  let s := match x.2.2 with
    | some code => event s code srcDevice 0xFFF {}
    | none => s
  (s, ⟨oc, x.1, if x.1 = e then ep else (ep + 1) % 2 ^ 32, x.2.1⟩)

/-- Words 4 and 5 as the root fills them. -/
def fillRecord (r : List Word) (d : Decision) : List Word :=
  (r.take 4) ++ [bitsAt 7 0 d.outcome ||| bitsAt 15 8 (unsigned 8 d.lossExp) ||| bitsAt 63 32 d.epoch,
    bitsAt 31 0 d.clean, 0, 0]

/-- What words 4 and 5 of a global record say. -/
def decisionOf (r : List Word) : Decision :=
  ⟨bitsOf (wordAt r 4) 7 0, signed 8 (bitsOf (wordAt r 4) 15 8), bitsOf (wordAt r 4) 63 32,
    bitsOf (wordAt r 5) 31 0⟩

/-- The decision that stands, for a commit record (R211). -/
def standing (s : State) (p : Nat) : Decision :=
  ⟨rdf s (aVerdict p 3) 31 24, vrdLossExp s p, rdf s (aVerdict p 1) 31 0, rdf s (aVerdict p 2) 31 0⟩

/-! ## Passes (R185) -/

def passesOf (s : State) (n : Nat) : List Pass := tget [] s.stk.passes n
def setPasses (s : State) (n : Nat) (x : List Pass) : State :=
  { s with stk := { s.stk with passes := tset [] s.stk.passes n x } }

def Pass.empty (plot st : Nat) : Pass :=
  ⟨plot, st, false, [], false, 0, false, 0, 0, [], [], [], [], none⟩

/-- Stacks in service that hold entries of a plot. -/
def plotStacks (s : State) (p : Nat) : List Nat :=
  (stacksUp s).filter fun n => (entriesOf s n).any fun e => rdf s (aEntry n e 0) 51 40 == p

/-- Queue the passes of step st. -/
def queuePasses (s : State) (p st : Nat) : State :=
  forAll (fun s n => setPasses s n (passesOf s n ++ [Pass.empty p st])) s (plotStacks s p)

/-- The commit record of a finished step waits to be sent (R209, R210). -/
def oweCommit (s : State) (p st : Nat) : State :=
  let w := vrdWork s p
  setVrdWork s p { w with owed := some (commitRecord w st) }

/-! ## Applying an outcome (R208 to R210) -/

/-- REAP_TO_BIN runs rooted here whose TAG names the skipped step end with STEP_SKIPPED. -/
def skipRuns (s : State) (p st : Nat) : State :=
  forAll (fun s r => failHere s (keyOf r) 6 0x1FF 0xFFFF) s
    ((liveRuns s).filter fun r =>
      let g := groupAt s r.group
      g.gkind == gkReapToBin && g.role == roleRoot && g.plot == p && r.tag == st % 2 ^ 16)

/-- Apply an outcome for the plot's STEP. -/
def applyOutcome (s : State) (p : Nat) (d : Decision) : State :=
  let st := plotStep s p
  let s := wrf (wrf s (aVerdict p 0) 52 45 (unsigned 8 d.lossExp)) (aVerdict p 1) 31 0 d.epoch
  let s := wrf (wrf s (aVerdict p 2) 31 0 d.clean) (aVerdict p 1) 63 32 (st + 1)
  let s := wrf (wrf s (aVerdict p 3) 63 32 st) (aVerdict p 3) 31 24 d.outcome
  let s := setVrdWork s p
    { vrdWork s p with commitNext := true, flags := 0, updMax := 0, amaxMaster := 0 }
  if d.outcome = ocFit then
    let s := bumpMod s (aVerdict p 6) 63 32 1
    let left := plotStacks s p
    let s := queuePasses s p st
    let s := setVrdWork s p { vrdWork s p with stacksLeft := left }
    let s := turnSourcesAt (vrdEnter s p vsApplying) p st true
    if left = [] then oweCommit s p st else s
  else
    let s := bumpMod s (aVerdict p 6) 31 0 1
    let s := skipRuns (discardStep s p st) p st
    oweCommit (turnSourcesAt s p st false) p st

/-- The global record's summaries (R223). -/
def noteGlobal (s : State) (p : Nat) (r : List Word) : State :=
  wr s (aVerdict p 5) (bitsAt 63 32 (bitsOf (wordAt r 1) 31 0) ||| bitsAt 31 0 (bitsOf (wordAt r 1) 63 32))

/-- A global verdict record may be applied (R208). -/
def globalFits (s : State) (p : Nat) (r : List Word) : Bool :=
  vrdState s p == vsVoting && recordStep r == plotStep s p

end Sys2Proof.Machine
end

