-- ==== Sys2Proof/Machine/Collective.lean ====
section
/-! DEFINITION. Collective packets at this device: opening (R144), the checks of R142, gathering and
admission (R146 to R150), placing checked results (R147, R175), sows and requests (R158, R160, R189,
R474), notices and records (R153), verdict records (R204, R208) and the ends they lead to (R145). -/

namespace Sys2Proof.Machine

/-! ## What a chunk is reduced as -/

/-- Sheaf version of a port's link (R310). -/
def sheafVersion (s : State) (p : Nat) : Nat := rdf s (aLinkStat p) 35 32

/-- The sheaf version of a run's records: the parent's link, or at a root its first child's. -/
def runSheaf (s : State) (g : Group) : Nat :=
  if g.role != roleRoot then sheafVersion s g.parentPort
  else
    match (membersOf s g).find? fun m => m.kind == mkChild with
    | some m => sheafVersion s m.port
    | none => 1

/-- The output format of a run, the fallback's where it falls back (R220). -/
def runOut (r : Run) (g : Group) : Nat := if r.fallback then 0x04 else g.outFmt

/-- The scale plan of a run's chunks: fallback, and k of an FP8 output (R217, R220). -/
def scalePlan (s : State) (gno : Nat) (g : Group) : Bool × Option Int :=
  if !keepsScale g then (false, none)
  else
    match scaleOf s gno g with
    | some k => (false, some k)
    | none => (true, none)

/-- The arithmetic of chunk k of a run at this device. -/
def chunkDef (s : State) (r : Run) (g : Group) (k : Nat) : Option ChunkDef :=
  match groupOp g with
  | none => none
  | some op =>
    let root := g.role == roleRoot
    let plan := scalePlan s r.group g
    let sown := g.gkind == gkReapSow || g.gkind == gkReapToOne
    some
      { op := op, strict := g.strict, inFmt := g.inFmt,
        outFmt := if plan.1 then 0x04 else g.outFmt, wFmt := g.wFmt, policy := policyOf g.polInf,
        key := if g.gradient && root && sown then
            some ⟨plotSeed s g.plot, r.seq, 0x8000_0000 + r.group, 0⟩ else none,
        root := root, ranks := g.rankSpace, spanLo := g.spanLo, spanCount := g.spanCount,
        elems := elemsOfChunk g k, rowLen := g.rowLen, elem0 := k * chunkElems g,
        outExp := plan.2, toBin := root && g.gkind == gkReapToBin, sheafVer := runSheaf s g }

/-- Strict sums between devices travel as sheaf records (R51, R57). -/
def sheafed (g : Group) : Bool :=
  g.strict && (g.op == 0x01 || g.op == 0x02 || g.op == 0x03) && !fmtIsInt g.inFmt

/-- Bytes of a member's contribution to a chunk of n elements (R146, R160). -/
def contribSize (s : State) (r : Run) (g : Group) (m : Member) (k : Nat) : SizeRule :=
  if g.gkind == gkSowData then
    if masked g then .exactly (elemsOfChunk g k / Nat.max 1 g.rowLen * tokenRecord g)
    else .exactly (fmtBytes g.inFmt (elemsOfChunk g k))
  else
    match chunkDef s r g k with
    | some d => itemSize d (m.kind == mkChild) m.rankCount
    | none => .exactly 0

/-- The members whose contributions a chunk needs (R142, R147, R160, R202). -/
def sourceMember (g : Group) (m : Member) : Bool :=
  if g.gkind == gkSowData then m.kind == mkEndpoint && m.designated && g.role == roleRoot
  else contributes m

def sourcesOf (s : State) (g : Group) : List Nat :=
  (List.range g.members).filter fun i => sourceMember g (memberN s g i)

/-! ## Ends of a run's own work (R145) -/

/-- Chunks of this device that are placed. -/
def placedCount (r : Run) : Nat :=
  (r.chunks.filter fun kv => kv.1 < 2 ^ 24 && kv.2.stage == .placed).length

/-- The device has completed its part, its children apart. -/
def partDone (r : Run) (g : Group) : Bool :=
  let root := g.role == roleRoot
  match g.gkind with
  | 3 => r.served && !r.chunks.any fun kv => kv.2.stage == .checked
  | 4 => !root || placedCount r == chunkCount g
  | 5 => placedCount r == 1
  | _ => placedCount r == chunkCount g

def childrenOf (s : State) (g : Group) : List Nat :=
  (List.range g.members).filter fun i => (memberN s g i).kind == mkChild

/-- Send a verdict record to every member, ahead of its final record (R204). -/
def sendVerdicts (s : State) (key : Nat) (rec : List Word) : State :=
  match runOf s key with
  | none => s
  | some r =>
    let g := groupAt s r.group
    forAll (fun s i =>
      let m := memberN s g i
      if !forwarding s m.port then s
      else
        let h := runHeader s m.port tVerdict 1 64 (flagFirst + flagLast) (dstOf m) 0 0 0 r g
        let f := newFrame s h (leOfWords rec) .plain
        sendFrame f.1 (whoHub g.owner) m.port f.2) s (List.range g.members)

/-- A VERDICT run whose every notice is OK at its root: the record is decided, applied, sent and the
run closed (R204, R207, R208, R211). -/
def fixVerdict (s : State) (key : Nat) (r : Run) (g : Group) : State :=
  let rec' := tget [] r.verdicts 513
  if isVerdictKind rec' then
    if !globalFits s g.plot rec' then failHere s key 2 0x1FF 0xFFFF
    else
      let d := rootDecide s g.plot rec'
      let full := fillRecord rec' d.2
      let s := applyOutcome (noteGlobal d.1 g.plot full) g.plot d.2
      closeRun (sendVerdicts s key full) key 0 Cause.none
  else
    let full := fillRecord rec' (standing s g.plot)
    let s := closeRun (sendVerdicts s key full) key 0 Cause.none
    if r.commit then turnRelease s g.plot r.step else s

/-- OPEN is left when the device's part is complete and every child's OK notice is in (R145). -/
def progress (s : State) (key : Nat) : State :=
  match runOf s key with
  | none => s
  | some r =>
    let g := groupAt s r.group
    if r.state ≠ .opened || r.released || !partDone r g
        || !(childrenOf s g).all r.childOk.contains then s
    else if g.role == roleRoot then
      if g.gkind == gkVerdict then fixVerdict s key r g else closeRun s key 0 Cause.none
    else sendUpNotice (modRun s key fun r => { r with state := .sent }) r g 0 Cause.none

/-! ## Placing a checked result (R147) -/

/-- Cut sheaf records into packet payloads; a record never straddles packets (R51, R146). -/
def sheafParts : Nat → List Byte → List Byte → List (List Byte)
  | 0, acc, bs => [acc ++ bs]
  | n + 1, acc, bs =>
    if bs.length < 8 then [acc ++ bs]
    else
      let len := 8 + 8 * (leNat (bs.take 8) / 2 ^ 44 % 64)
      if acc.length + len ≤ 8192 then sheafParts n (acc ++ bs.take len) (bs.drop len)
      else acc :: sheafParts n (bs.take len) (bs.drop len)

/-- The type and furrow of a group's reaps (R142, R159, R238). -/
def reapType (g : Group) : Nat × Nat :=
  if g.express then (tReapExpress, 6) else if g.deferred then (tReapDeferred, 4) else (tReap, 2)

/-- Send a checked result up from the buffer that holds it (R147, R268). -/
def sendResultUp (s : State) (key k : Nat) (r : Run) (g : Group) (out : ChunkOut) : State :=
  let t := reapType g
  let parts := if sheafed g then sheafParts out.bytes.length [] out.bytes
    else piecesOf 8192 out.bytes.length out.bytes
  let n := parts.length
  let bufs := (chunkOf r k).resultBufs
  forAll (fun s (p : List Byte × Nat) =>
    let flags := (if p.2 = 0 then flagFirst else 0) + (if p.2 + 1 = n then flagLast else 0)
      + (if sheafed g then flagSheaf else 0)
    let h := runHeader s g.parentPort t.1 t.2 p.1.length flags dstDevice k p.2 0 r g
    let f := newFrame s h p.1 (.upResult key k (p.2 + 1 == n))
    enqueue f.1 g.parentPort { f.2 with bufs := bufs }) s parts.zipIdx

/-- A chunk is placed: its cluster-store buffers return. -/
def chunkPlaced (s : State) (key k : Nat) : State :=
  match runOf s key with
  | none => s
  | some r =>
    let n := (groupAt s r.group).owner
    let c := chunkOf r k
    let s := freeBufs s (some n) c.resultBufs
    setChunk s key k { c with stage := .placed, resultBufs := [], results := [], result := none }

/-- Land a checked chunk (R175, R176). -/
def landResult (s : State) (key k : Nat) (r : Run) (g : Group) (out : ChunkOut) : State :=
  match r.landing with
  | .waiting => s
  | .reserved recs le =>
    let t := landChunk s r.seq g le recs (k * chunkElems g) out.values out.flags
    let f := stickyOr t.2
    let s := modRun t.1 key fun r => { r with cvt := r.cvt ||| cvtOf f, arith := r.arith ||| arithOf f }
    chunkPlaced s key k
  | _ => chunkPlaced s key k

/-- Place the checked result of chunk k where its role and kind say. -/
def placeResult (s : State) (key k : Nat) : State :=
  match runOf s key with
  | none => s
  | some r =>
    let g := groupAt s r.group
    match (chunkOf r k).result with
    | none => s
    | some out =>
      if r.state ≠ .opened then s
      else if g.role != roleRoot then sendResultUp s key k r g out
      else if g.gkind == gkReapToBin then landResult s key k r g out
      else
        let s := startSow s key k out
        match runOf s key with
        | some r' => if (chunkOf r' k).stage == .placed then chunkPlaced s key k else s
        | none => s

/-- The bytes a root digest covers: the root value before scale and conversion (R359): node values
of a fast sum, canonical records of a strict one, else the result as it leaves (log 17). -/
def rootBytes (d : ChunkDef) (out : ChunkOut) : List Byte :=
  if fmtIsInt d.inFmt || !d.op.nodeForm then out.bytes
  else if d.strict then
    out.values.flatMap fun x => sheafRecord 1 (classOf d.op d.inFmt) (exactOf (classOf d.op d.inFmt) x)
  else (encodeElems (.flt (nodeFmtOf d.inFmt)) .sat none 0 out.values).1

/-- The digest entry of a checked chunk (R358, R359). -/
def digestOf (d : ChunkDef) (out : ChunkOut) : Word :=
  let f := stickyOr out.flags
  digest64 ((if d.root then rootBytes d out else out.bytes)
    ++ [BitVec.ofNat 8 (cvtOf f), BitVec.ofNat 8 (arithOf f)])

/-- BND_HUB_TIME of a watched chunk (R354). -/
def hubTime (s : State) (g : Group) (gno k : Nat) (c : Chunk) : State :=
  let n := g.owner
  if rdf s (aHubWatch n) 63 48 ≠ gno || rdf s (aHubWatch n) 23 0 ≠ k then s
  else
    let bin := g.role == roleRoot && g.gkind == gkReapToBin
    let runs := Nat.min 0x3FFF (rdf s (aHubTime n) 13 0 + 1)
    let local' := fun u => (u : Nat) % 9
    wr s (aHubTime n)
      (bitsAt 63 40 (Nat.min 0xFF_FFFF (2 * (now s - c.readyTime)))
        ||| bitsAt 39 32 (Nat.min 255 (tget 0 s.cores.stalls n))
        ||| bitsAt 31 24 (Nat.min 255 (tget 0 s.cores.retries n))
        ||| bitsAt 23 20 (match c.cores with
          | a :: _ => local' a
          | [] => 0xF)
        ||| bitsAt 19 16 (match c.cores with
          | _ :: b :: _ => local' b
          | _ => 0xF)
        ||| bitsAt 15 15 (b2n (bin && s.cores.shared.contains n))
        ||| bitsAt 14 14 (b2n c.judge.isSome) ||| bitsAt 13 0 runs)

/-- A checked result: inputs released, counted, digested and placed (R29, R48, R147, R218). -/
def resultChecked (s : State) (key k : Nat) (out : ChunkOut) : State :=
  match runOf s key with
  | none => s
  | some r =>
    let g := groupAt s r.group
    let c := chunkOf r k
    let f := stickyOr out.flags
    let plan := scalePlan s r.group g
    let top := if keepsScale g then
        ((out.values.filter fun x => !nonFinite x).map magFp32).foldl Nat.max r.amax else r.amax
    let s := countFlags s g.owner out.flags
    let s := match chunkDef s r g k with
      | some d => captureDigest s g.owner r.group r.seq (b2n d.root) k (digestOf d out)
      | none => s
    let s := if out.miss && !r.miss then
        event s 0x0904 srcCluster g.owner { group := r.group } else s
    let s := freeHeld s g.owner key k
    let size := if g.role == roleRoot && g.gkind == gkReapToBin then nodeBytes g.inFmt (elemsOfChunk g k)
      else out.bytes.length
    let st := if g.express then none
      else allocStore s g.owner (ownHub g.owner) g.plot (size / 65536 + 1) size
    let sb := match st with
      | some x => x
      | none => (s, [])
    let s := fillBufs sb.1 (some g.owner) 65536 sb.2 out.bytes
    let s := modRun s key fun r =>
      { r with
        cvt := r.cvt ||| cvtOf f, arith := r.arith ||| arithOf f, amax := top,
        miss := r.miss || out.miss, fallback := r.fallback || plan.1,
        scale := match r.scale with
          | some x => some x
          | none =>
            if g.role == roleRoot then some (scaleEpoch s g.plot (plan.2.getD 0)) else none,
        chunks := tset Chunk.empty r.chunks k
          { c with stage := .checked, contribs := [], result := some out, resultBufs := sb.2 } }
    let s := hubTime s g r.group k c
    progress (placeResult s key k) key

/-! ## Opening (R144) -/

/-- OUTSTANDING shows the runs that hold slots. -/
def showOpen (s : State) (g : Nat) : State :=
  wrf s (aGroup g 5) 31 28 (Nat.min 15 (runsOf s g).length)

/-- Ask for the landing records of a REAP_TO_BIN run (R173). -/
def reserveRun (s : State) (key : Nat) : State :=
  match runOf s key with
  | none => s
  | some r =>
    let g := groupAt s r.group
    match reserveLanding s r.group r.seq r.tag g with
    | .reserved s' recs =>
      modRun s' key fun r => { r with landing := .reserved recs (vrdLossExp s g.plot) }
    | .waits => modRun s key fun r => { r with landing := .waiting }
    | .skipped => failHere s key 6 0x1FF 0xFFFF
    | .fallow s' => failHere s' key 4 0x1FF 0xFFFF
    | .overlap s' => modRun s' key fun r => { r with landing := .overlapped }

def newRun (gno seq tag step : Nat) (commit : Bool) : Run :=
  { group := gno, seq := seq, state := .opened, tag := tag, code := 0, cause := Cause.none, cvt := 0,
    arith := 0, fallback := false, miss := false, replays := 0, chunks := [], childOk := [],
    failedLate := false, requests := [], served := false, judgeWait := false, sowIn := [],
    sowNext := [], sowCount := 0, sowTotal := 0, sentPkts := [], sentElems := [],
    finalsSent := false, finalsLeft := 0, landing := .none, scale := none, step := step, amax := 0,
    commit := commit, verdicts := [], released := false, replayed := false }

/-- MAX_OUT runs are open, or no instance slot is free. -/
def slotsFull (s : State) (gno : Nat) (g : Group) : Bool :=
  decide (g.maxOut ≤ (runsOf s gno).length) || decide (32768 ≤ (liveRuns s).length)

/-- The group, its plot or its cluster is fallow (R144, R339, R387). -/
def groupDown (s : State) (g : Group) : Bool :=
  g.state == gsFallow || !plotActive s g.plot || !clusterUp s g.owner

/-- Open the next run of a group: none where it must wait for a slot. -/
def openRun (s : State) (gno tag port rank : Nat) : Option State :=
  let g := groupAt s gno
  let full := slotsFull s gno g
  if full && !g.express then none
  else
    let w := vrdWork s g.plot
    let commit := g.gkind == gkVerdict && w.commitNext
    let step :=
      if g.gkind == gkVerdict then
        if commit then rdf s (aVerdict g.plot 3) 63 32 else plotStep s g.plot
      else if g.gkind == gkReapToBin then
        (expandTag (plotStep s g.plot) tag % (2 ^ 32 : Int)).toNat
      else 0
    let s := if commit then setVrdWork s g.plot { w with commitNext := false } else s
    let key := runKey gno g.instSeq
    let s := wrf s (aGroup gno 5) 63 32 (g.instSeq + 1)
    let s := showOpen (setRuns s key [newRun gno g.instSeq tag step commit]) gno
    if full then some (failHere s key 8 port rank)
    else if groupDown s g then some (failHere s key 4 0x1FF 0xFFFF)
    else if g.role == roleRoot && g.gkind == gkReapToBin then some (reserveRun s key)
    else some s

/-! ## Gathering (R142, R146 to R150) -/

/-- A discordant packet fails its run (R142). -/
def discord (s : State) (key port rank : Nat) : State := failHere s key 2 port rank

/-- 4 KiB units that a group's runs hold in cluster store (R149, R268). -/
def groupUnits (s : State) (gno : Nat) : Nat :=
  ((runsOf s gno).map fun r => (r.chunks.map fun kv =>
    if kv.1 < 2 ^ 24 then csUnits (kv.2.contribs.flatMap Contrib.bufs) + csUnits kv.2.resultBufs
    else 0).sum).sum

/-- 4 KiB units of a full chunk set (R146, R149). -/
def setUnits (s : State) (r : Run) (g : Group) : Nat :=
  ((sourcesOf s g).map fun i => csUnitsFor (contribSize s r g (memberN s g i) 0).max).sum

/-- The first chunk of a run that is still gathering. -/
def firstOpenChunk (r : Run) (n : Nat) : Option Nat :=
  (List.range (Nat.min n (r.chunks.length + 1))).find? fun k => (chunkOf r k).stage == .gathering

/-- The oldest incomplete chunk of a group: of the oldest open run, the lowest index (R149). -/
def oldestChunk (s : State) (gno : Nat) (g : Group) : Option (Nat × Nat) :=
  let rs := (runsOf s gno).filter fun r =>
    r.state == .opened && (firstOpenChunk r (chunkCount g)).isSome
  let older := fun (a b : Run) =>
    if (g.instSeq + 2 ^ 32 - a.seq) % 2 ^ 32 < (g.instSeq + 2 ^ 32 - b.seq) % 2 ^ 32 then b else a
  match rs with
  | [] => none
  | r :: rest =>
    let o := rest.foldl older r
    (firstOpenChunk o (chunkCount g)).map fun k => (keyOf o, k)

/-- Whether u units more of a chunk are admitted (R149). -/
def admitUnits (s : State) (r : Run) (g : Group) (k u : Nat) : Bool :=
  let reserve := setUnits s r g
  let used := groupUnits s r.group
  match oldestChunk s r.group g with
  | some (key, c) =>
    let held := match runOf s key with
      | some o => csUnits ((chunkOf o c).contribs.flatMap Contrib.bufs)
      | none => 0
    if key = keyOf r ∧ c = k then decide (held + u ≤ reserve) || decide (used + u ≤ g.quota4k)
    else decide (used - held + u + reserve ≤ g.quota4k)
  | none => decide (used + u + reserve ≤ g.quota4k)

/-- What a collective packet comes to: handled, or it waits at ingress. -/
inductive CollRes
  | done (s : State)
  | wait (s : State) (why : WaitWhy)

/-- A contribution of a member to a chunk. -/
def contribOf (c : Chunk) (i : Nat) : Option Contrib := c.contribs.find? fun x => x.member == i

def putContrib (c : Chunk) (x : Contrib) : Chunk :=
  { c with contribs := (c.contribs.filter fun y => y.member != x.member) ++ [x] }

/-- The records of a packet's payload, none when one is malformed or straddles it (R55). -/
def sheafRecords (version cls : Nat) : Nat → List Byte → Option Nat
  | 0, bs => if bs = [] then some 0 else none
  | n + 1, bs =>
    if bs = [] then some 0
    else
      match parseSheaf version cls 1 bs with
      | some (_, rest) => (sheafRecords version cls n rest).map (· + 1)
      | none => none

/-- The contribution's parts do not fit R142: FIRST, PART, size and LAST. -/
def partWrong (s : State) (r : Run) (g : Group) (i k : Nat) (h : Header) (len : Nat) : Bool :=
  let m := memberN s g i
  let x := contribOf (chunkOf r k) i
  let size := contribSize s r g m k
  let have' := (match x with
    | some c => c.bytes.length
    | none => 0) + len
  let seqBad := match x with
    | none => !h.first || h.part != 0
    | some c => h.first || c.done || h.part != c.nextPart
  decide (chunkCount g ≤ k) || !sourceMember g m || seqBad || decide (size.max < have')
    || (h.last && match size with
      | .exactly n => have' != n
      | .sheafUpTo _ => false)

/-- An ORDER entry for a varying operation (R358). -/
def noteOrder (s : State) (r : Run) (g : Group) (k : Nat) : State :=
  match groupOp g with
  | some op =>
    if op.varies then
      captureOrder s g.owner r.group r.seq k
        ((chunkOf r k).order.map fun i => (memberN s g i).rankLo)
    else s
  | none => s

/-- The rows of a masked chunk or the elements of a plain one, subnormal codes flushed (R32). -/
def flushData (g : Group) (k : Nat) (bs : List Byte) : ChunkOut :=
  match fmtOf g.inFmt with
  | none => ⟨bs, [], [], none, false⟩
  | some f =>
    if masked g then
      let ts := (tokensOf g bs).map fun t =>
        let r := passElems f g.rowLen t.2.2
        (t.1 ++ t.2.1 ++ padTo (tokenRow g) r.1, r.2)
      ⟨ts.flatMap Prod.fst, [], ts.flatMap Prod.snd, none, false⟩
    else
      let r := passElems f (elemsOfChunk g k) bs
      ⟨r.1, [], r.2, none, false⟩

/-- A chunk is ready when every source has delivered (R147). A SOW_DATA chunk is sown as it is; any
other waits for cores. -/
def chunkReady (s : State) (key k : Nat) : State :=
  match runOf s key with
  | none => s
  | some r =>
    let g := groupAt s r.group
    let c := chunkOf r k
    let all := (sourcesOf s g).all fun i => (contribOf c i).any Contrib.done
    if c.stage ≠ .gathering || !all then s
    else if g.gkind == gkSowData then
      let bs := match c.contribs with
        | x :: _ => x.bytes
        | [] => []
      resultChecked s key k (flushData g k bs)
    else
      let s := noteOrder s r g k
      let watched := rdf s (aHubWatch g.owner) 63 48 == r.group && rdf s (aHubWatch g.owner) 23 0 == k
      let s := if watched then
          { s with cores := { s.cores with
              stalls := tset 0 s.cores.stalls g.owner 0, retries := tset 0 s.cores.retries g.owner 0,
              shared := s.cores.shared.filter (· != g.owner) } }
        else s
      let s := { s with bnd := { s.bnd with readyCount := s.bnd.readyCount + 1 } }
      setChunk s key k
        { c with stage := .ready, readyAt := s.bnd.readyCount, readyTime := now s }

/-- Store one part of a contribution. -/
def storePart (s : State) (key i k : Nat) (h : Header) (payload : List Byte) (bufs : List Nat) :
    State :=
  match runOf s key with
  | none => s
  | some r =>
    let g := groupAt s r.group
    let c := chunkOf r k
    let x := (contribOf c i).getD ⟨i, 0, [], false, bufs⟩
    let x' : Contrib :=
      { x with nextPart := h.part + 1, bytes := x.bytes ++ payload, done := h.last }
    let s := fillBufs s (some g.owner) 65536 x'.bufs x'.bytes
    let c' := putContrib c x'
    let s := setChunk s key k (if h.last then { c' with order := c'.order ++ [i] } else c')
    if h.last then chunkReady s key k else s

/-- A part of a contribution or child record from member i (R142, R146, R149). -/
def reapPart (s : State) (port key i : Nat) (r : Run) (g : Group) (h : Header)
    (payload : List Byte) : CollRes :=
  let k := h.chunk
  let m := memberN s g i
  if partWrong s r g i k h payload.length then .done (discord s key port h.rank)
  else
    let bad := m.kind == mkChild && sheafed g &&
      (match groupOp g with
       | none => true
       | some op =>
         let old := match contribOf (chunkOf r k) i with
           | some c => c.bytes
           | none => []
         let v := sheafVersion s port
         let cls := classOf op g.inFmt
         match sheafRecords v cls payload.length payload with
         | none => true
         | some n => h.last
             && (sheafRecords v cls old.length old).getD 0 + n != elemsOfChunk g k)
    if bad then
      let s := event s 0x0902 srcPort port
        { group := r.group, plot := g.plot, rank := h.rank, number := r.seq }
      .done (discord s key port h.rank)
    else if h.first && !g.express then
      let size := (contribSize s r g m k).max
      if !admitUnits s r g k (csUnitsFor size) then .wait s .contribution
      else
        match allocStore s g.owner (ownHub g.owner) g.plot (size / 65536 + 1) size with
        | none => .wait (count s 6 (8 + g.owner) 1 1) .contribution
        | some (s', bs) => .done (storePart s' key i k h payload bs)
    else .done (storePart s key i k h payload [])

/-! ## Sows from the parent (R145, R158) -/

/-- Take in one sow packet. -/
def sowPart (s : State) (port key : Nat) (r : Run) (g : Group) (h : Header) (payload : List Byte) :
    State :=
  let k := h.chunk
  let s := modRun s key fun r => { r with sowCount := r.sowCount + 1 }
  if failing r then tryFinish s key
  else
    let next := tget 0 r.sowNext k
    if (h.first && (next != 0 || h.part != 0)) || (!h.first && (next = 0 || h.part != next))
        || decide (chunkCount g ≤ k) then
      tryFinish (discord s key port h.rank) key
    else
      let bs := tget [] r.sowIn k ++ payload
      if h.last then
        let s := modRun s key fun r =>
          { r with
            sowIn := tset [] r.sowIn k [], sowNext := tset 0 r.sowNext k 0,
            scale := some h.scaleEpoch, fallback := h.fallback }
        tryFinish (startSow s key k ⟨bs, [], [], none, false⟩) key
      else
        tryFinish (modRun s key fun r =>
          { r with sowIn := tset [] r.sowIn k bs, sowNext := tset 0 r.sowNext k (h.part + 1) }) key

/-! ## Held versions (R189, R190, R233, R474) -/

/-- What an entry says to a request for a version (R189, R246). -/
inductive Judged
  | serves (v : Nat) | waits | gone
deriving DecidableEq, Repr

def judgeEntry (s : State) (n e tag : Nat) : Judged :=
  let x := fbAt s n e
  let v := (expandTag x.version tag % (2 ^ 32 : Int)).toNat
  if x.state == esOutgoing then .gone
  else if x.state == esIncoming then .waits
  else if v = x.version then if s.stk.curLost.contains (feKey n e) then .gone else .serves v
  else if x.version ≠ 0 ∧ v + 1 = x.version ∧ x.olderHeld then .serves v
  else if (x.version : Int) < expandTag x.version tag then .waits
  else .gone

/-- Entries that hold elements of a range, in element order. -/
def heldEntriesOf (s : State) (g : Group) (lo n : Nat) : List Nat :=
  sortBy (fun a b => decide ((fbAt s g.owner a).elemBase ≤ (fbAt s g.owner b).elemBase))
    ((entriesMeeting s g.owner g.plot g.tensor lo n).filter fun e =>
      let st := fbState s g.owner e
      st == esActive || st == esIncoming || st == esOutgoing)

/-- Bytes [start, start + length) of a slot that hold elements [lo, lo + n) of the entry. -/
def slotSpan (x : Fb) (lo n : Nat) : Nat × Nat :=
  let i := lo - x.elemBase
  match fmtOf x.sownFmt with
  | some f =>
    if f.isMx then
      let b := superblockBytes ((f.bytesFor 256 - 8) / 32)
      (i / 256 * b, (ceilDiv (i + n) 256 - i / 256) * b)
    else (f.bytesFor i, f.bytesFor n)
  | none => (0, 0)

/-- The sown bytes of a chunk's elements at the versions judged, with their flags (R32, R474). -/
def sownChunk (s : State) (g : Group) (tag lo n : Nat) : List Byte × List Flags :=
  let parts := (heldEntriesOf s g lo n).map fun e =>
    let x := fbAt s g.owner e
    let v := match judgeEntry s g.owner e tag with
      | .serves v => v
      | _ => x.version
    let part := overlapOf lo n x.elemBase x.elems
    let sp := slotSpan x part.1 part.2
    let bs := hbmRead s g.owner (slotBase x v + sp.1) sp.2
    match fmtOf x.sownFmt with
    | some f => passElems f part.2 bs
    | none => (bs, [])
  (parts.flatMap Prod.fst, parts.flatMap Prod.snd)

/-- Serve every chunk of a judged run: each is read and sown; copies held in cluster store are used
up, the slots held, and the cursor moved (R190, R215, R233). -/
def serveRun (s : State) (key : Nat) (r : Run) (g : Group) : State :=
  let n := g.owner
  let es := heldEntriesOf s g g.elemBase g.elems
  let vs := es.filterMap fun e =>
    match judgeEntry s n e r.tag with
    | .serves v => some (e, v)
    | _ => none
  let first := match vs with
    | (e, v) :: _ =>
      let x := fbAt s n e
      let fp8 := x.sownFmt == 0x05 || x.sownFmt == 0x06
      let code := if v % 2 = 0 then x.scale0 else x.scale1
      (v, if fp8 then (code : Int) - 127 else 0)
    | [] => (0, 0)
  let scale := scaleEpoch s g.plot first.2
  let reads := (List.range (chunkCount g)).map fun k =>
    (k, sownChunk s g r.tag (g.elemBase + k * chunkElems g) (elemsOfChunk g k))
  let f := stickyOr (reads.flatMap fun x => x.2.2)
  let s := modRun s key fun r =>
    { r with
      served := true, judgeWait := false, step := first.1, scale := some scale,
      cvt := r.cvt ||| cvtOf f }
  let s := countFlags s n (reads.flatMap fun x => x.2.2)
  let held : List SlotHold := vs.map fun p => ⟨n, p.1, p.2 % 2, key⟩
  let s := { s with stk := { s.stk with slotHolds := s.stk.slotHolds ++ held } }
  let s := forAll (fun s p =>
    let x := fbAt s n p.1
    let part := overlapOf g.elemBase g.elems x.elemBase x.elems
    let sp := slotSpan x part.1 part.2
    advServe s n p.1 p.2 sp.1 sp.2) s vs
  let s := forAll (fun s x => startSow s key x.1 ⟨x.2.1, [], x.2.2, none, false⟩) s reads
  let pos := (es.map fun e => (fbAt s n e).planPos).foldl Nat.max 0
  advMove s n g.plot pos

/-- Judge a SOW_VERSION run whose every request is in (R189, R237, R246). -/
def judgeRun (s : State) (key : Nat) : State :=
  match runOf s key with
  | none => s
  | some r =>
    let g := groupAt s r.group
    if r.state ≠ .opened || r.served then s
    else
      let es := heldEntriesOf s g g.elemBase g.elems
      let covered := (es.map fun e =>
        let x := fbAt s g.owner e
        (overlapOf g.elemBase g.elems x.elemBase x.elems).2).sum
      let js := es.map fun e => judgeEntry s g.owner e r.tag
      let low := (r.requests.map fun i => (memberN s g i).rankLo).foldl Nat.min 0xFFFF
      if covered ≠ g.elems then failHere s key 4 0x1FF 0xFFFF
      else if js.contains .gone then failHere s key 7 0x1FF low
      else if js.contains .waits then modRun s key fun r => { r with judgeWait := true }
      else progress (serveRun s key r g) key

/-- Repeat the judgements that wait on stack n (R189). -/
def retryJudgements (s : State) (n : Nat) : State :=
  forAll (fun s r => judgeRun s (keyOf r)) s
    ((liveRuns s).filter fun r => r.judgeWait && (groupAt s r.group).owner == n)

/-- A SOW_REQUEST from member i (R142, R158). -/
def requestPart (s : State) (port key i : Nat) (r : Run) (g : Group) (h : Header) : State :=
  if !contributes (memberN s g i) || r.requests.contains i then discord s key port h.rank
  else
    let rs := r.requests ++ [i]
    let s := modRun s key fun r => { r with requests := rs }
    if !(List.range g.members).all fun j => !contributes (memberN s g j) || rs.contains j then s
    else if g.role == roleRoot then judgeRun s key
    else
      let h' := runHeader s g.parentPort tSowRequest 2 0 (flagFirst + flagLast) dstDevice 0 0 0 r g
      let f := newFrame s h' [] .plain
      let s := sendFrame f.1 (whoHub g.owner) g.parentPort f.2
      progress (modRun s key fun r => { r with served := true }) key

/-! ## Verdict records -/

/-- Own record's place among a run's verdict records, and the combined one's. -/
def ownSlot : Nat := 512
def combinedSlot : Nat := 513

/-- The record of this device and of every child are present: they are combined, and go up or wait
at the root for the notices (R204). -/
def verdictReady (s : State) (key : Nat) : State :=
  match runOf s key with
  | none => s
  | some r =>
    let g := groupAt s r.group
    let kids := childrenOf s g
    if r.state ≠ .opened || tget [] r.verdicts combinedSlot != []
        || tget [] r.verdicts ownSlot == [] || kids.any fun i => tget [] r.verdicts i == [] then s
    else
      let rec' := combineAll (tget [] r.verdicts ownSlot :: kids.map fun i => tget [] r.verdicts i)
      let s := modRun s key fun r => { r with verdicts := tset [] r.verdicts combinedSlot rec' }
      if g.role == roleRoot then
        if isVerdictKind rec' && isCommitKind rec' then failHere s key 2 0x1FF 0xFFFF
        else progress (setChunk s key 0 { Chunk.empty with stage := .placed }) key
      else
        let h := runHeader s g.parentPort tVerdict 1 64 (flagFirst + flagLast) dstDevice 0 0 0 r g
        let f := newFrame s h (leOfWords rec') (.upResult key 0 true)
        sendFrame f.1 (whoHub g.owner) g.parentPort f.2

/-- A VERDICT packet from a child (R142, R204). -/
def verdictUp (s : State) (port key i : Nat) (r : Run) (h : Header) (payload : List Byte) : State :=
  if h.chunk ≠ 0 || payload.length ≠ 64 || !h.first || !h.last || h.part != 0
      || tget [] r.verdicts i != [] then discord s key port h.rank
  else
    verdictReady (modRun s key fun r =>
      { r with verdicts := tset [] r.verdicts i (recordOf payload) }) key

/-- A global record from the parent (R204, R208, R211). -/
def verdictDown (s : State) (key : Nat) (g : Group) (payload : List Byte) : State :=
  let rec' := recordOf payload
  if isVerdictKind rec' then
    if !globalFits s g.plot rec' then failHere s key 2 0x1FF 0xFFFF
    else
      let s := applyOutcome (noteGlobal s g.plot rec') g.plot (decisionOf rec')
      sendVerdicts s key rec'
  else sendVerdicts s key rec'

/-- A device's own record enters the run of its group it belongs to, which opens if need be; none
where it must wait for a slot (R204, R212). -/
def contributeOwn (s : State) (p : Nat) (rec : List Word) : Option State :=
  let gno := rdf s (aVerdict p 0) 44 29
  let g := groupAt s gno
  let commit := isCommitKind rec
  let mine := (runsOf s gno).find? fun r =>
    r.state == .opened && r.commit == commit && tget [] r.verdicts ownSlot == []
  let put := fun (s : State) (r : Run) =>
    if r.state ≠ .opened then s
    else if r.tag ≠ recordStep rec % 2 ^ 16 then discord s (keyOf r) 0x1FF g.spanLo
    else verdictReady (modRun s (keyOf r) fun r =>
      { r with verdicts := tset [] r.verdicts ownSlot rec }) (keyOf r)
  if g.state == gsFree || g.gkind != gkVerdict then some s
  else
    match mine with
    | some r => some (put s r)
    | none =>
      let key := runKey gno g.instSeq
      match openRun s gno (recordStep rec % 2 ^ 16) 0x1FF g.spanLo with
      | none => none
      | some s' =>
        match runOf s' key with
        | some r => some (put s' r)
        | none => some s'

/-- Send the commit records that are owed; the plot returns to COLLECTING (R209, R210). A FALLOW plot
sends none (R226). -/
def serveCommits (s : State) : State :=
  forAll (fun s kv =>
    match (vrdWork s kv.1).owed with
    | none => s
    | some rec =>
      if vrdState s kv.1 = vsFallow || vrdState s kv.1 = vsFree then s else
      match contributeOwn s kv.1 rec with
      | none => s
      | some s' =>
        let s' := setVrdWork s' kv.1 { vrdWork s' kv.1 with owed := none }
        vrdEnter s' kv.1 vsCollecting) s (s.vrd.filter fun kv => kv.2.owed.isSome)

/-! ## Notices and records received (R145, R153) -/

/-- An up notice from child i. -/
def noticeUp (s : State) (key i : Nat) (r : Run) (w : List Word) : State :=
  let code := bitsOf (wordAt w 0) 7 0
  let s := modRun s key fun r =>
    { r with
      cvt := r.cvt ||| bitsOf (wordAt w 0) 15 8, arith := r.arith ||| bitsOf (wordAt w 0) 19 16,
      replays := Nat.min 0xFFFF (r.replays + bitsOf (wordAt w 4) 55 40),
      childOk := if code = 0 then r.childOk ++ [i] else r.childOk }
  if code = 0 then progress s key
  else if r.state == .opened || r.state == .sent then
    failRun s key code
      ⟨bitsOf (wordAt w 1) 56 48, bitsOf (wordAt w 1) 47 32, bitsOf (wordAt w 2) 17 0⟩
  else s

/-- The parent's final record: its code and status hold for this subtree, but a run that failed in
SENT keeps its own failure against an OK (R153 step 4). -/
def finalDown (s : State) (key : Nat) (r : Run) (w : List Word) : State :=
  let code := bitsOf (wordAt w 0) 7 0
  let g := groupAt s r.group
  if r.state == .closing then s
  else if r.state == .failed && r.failedLate && code = 0 then closeRun s key r.code r.cause
  else
    let s := modRun s key fun r =>
      { r with
        cvt := bitsOf (wordAt w 0) 15 8, arith := bitsOf (wordAt w 0) 19 16,
        fallback := bitOf (wordAt w 0) 20, miss := bitOf (wordAt w 0) 21,
        step := bitsOf (wordAt w 3) 31 0, replays := bitsOf (wordAt w 4) 55 40,
        sowTotal := bitsOf (wordAt w 3) 63 32 }
    let s := closeRun s key code
      ⟨bitsOf (wordAt w 1) 56 48, bitsOf (wordAt w 1) 47 32, bitsOf (wordAt w 2) 17 0⟩
    if code = 0 && g.gkind == gkVerdict && r.commit then turnRelease s g.plot r.step else s

/-! ## A collective packet (R142, R144) -/

/-- Whether the group carries a type from that kind of port: up from member i, or down. -/
def carried (s : State) (g : Group) (mem : Option Nat) (h : Header) (payload : List Byte) : Bool :=
  let up := bitOf (wordAt (wordsOfLe 1 payload) 0) 24
  match mem with
  | some i =>
    let child := (memberN s g i).kind == mkChild
    if h.type == tCompletion then child && up
    else if g.gkind == gkVerdict then h.type == tVerdict && child
    else if g.gkind == gkSowVersion then h.type == tSowRequest
    else h.type == (reapType g).1
  | none =>
    if h.type == tCompletion then !up
    else if g.gkind == gkVerdict then h.type == tVerdict
    else if g.gkind == gkReapToBin then false
    else h.type == (if g.express then tSowExpress else tSow)

/-- A packet of a run that has ended or is ending: dropped and counted (R144). -/
def staleDrop (s : State) (g : Group) : State := count s 5 g.owner 13 1

/-- A packet of an open run (R142, R145). -/
def packetOfRun (s : State) (port : Nat) (mem : Option Nat) (r : Run) (h : Header)
    (payload : List Byte) : CollRes :=
  let key := keyOf r
  let g := groupAt s r.group
  let sow := mem.isNone && (h.type == tSow || h.type == tSowExpress)
  let live := r.state == .opened || r.state == .sent
  let rankBad := match mem with
    | some i => h.rank != (memberN s g i).rankLo
    | none => false
  let bad := !carried s g mem h payload || h.signature != sigOf g r.seq || h.tag != r.tag || rankBad
  if bad then .done (if live then discord s key port h.rank else staleDrop s g)
  else if h.type == tCompletion then
    match mem with
    | some i =>
      if live then .done (noticeUp s key i r (wordsOfLe 5 payload)) else .done (staleDrop s g)
    | none => .done (finalDown s key r (wordsOfLe 5 payload))
  else if sow then .done (sowPart s port key r g h payload)
  else if !live then .done (staleDrop s g)
  else
    match mem with
    | none => .done (verdictDown s key g payload)
    | some i =>
      if h.type == tSowRequest then .done (requestPart s port key i r g h)
      else if h.type == tVerdict then .done (verdictUp s port key i r h payload)
      else reapPart s port key i r g h payload

/-- NOT_MEMBER (R142). -/
def notMember (s : State) (port : Nat) (g : Group) (h : Header) : State :=
  event (count s 5 (Nat.min 11 g.owner) 12 1) 0x0901 srcPort port
    { group := h.group, plot := h.plot, rank := h.rank }

/-- A collective packet as its group's cluster hub takes it (R142, R144). -/
def collPacket (s : State) (port : Nat) (k : Pkt) : CollRes :=
  let h := k.hdr
  let g := groupAt s h.group
  let mem := memberOnPort s g port
  let parent := g.role != roleRoot && g.parentPort == port
  if g.state == gsFree || (mem.isNone && !parent) then .done (notMember s port g h)
  else
    match findRun s h.group h.runNo with
    | some r => packetOfRun s port mem r h k.payload
    | none =>
      if h.runNo ≠ g.instSeq % 2 ^ 16 then .done (staleDrop s g)
      else
        match openRun s h.group h.tag port h.rank with
        | none => .wait s .opening
        | some s' =>
          match runOf s' (runKey h.group g.instSeq) with
          | none => .done (staleDrop s' g)
          | some r =>
            if r.state == .opened then packetOfRun s' port mem r h k.payload else .done s'

/-- Work on the waiting collective packets of a port and furrow from the head (R119, R144, R150).
Fuel: the number that wait. -/
def drainColl (p f : Nat) : Nat → State → State
  | 0, s => s
  | n + 1, s =>
    match waitsOf s p f with
    | [] => s
    | w :: rest =>
      match collPacket s p w.pkt with
      | .done s' =>
        drainColl p f n
          (giveBack (setWaits s' p f rest) w.pkt)
      | .wait s' why => setWaits s' p f ({ w with why := why } :: rest)

/-- Take a whole collective packet in: behind those that wait on its port and furrow, else at
once; its credits return when it has been taken (R106, R150). -/
def takeColl (s : State) (p : Nat) (fr : Frame) : State :=
  let f := fr.hdr.furrow
  let k : Pkt := ⟨0, fr.hdr, fr.payload, tailGood, true, [], .forward p, 0⟩
  let w : Waiter := ⟨k, none, .behind, false⟩
  if waitsOf s p f ≠ [] then setWaits s p f (waitsOf s p f ++ [w])
  else drainColl p f 1 (setWaits s p f [w])

end Sys2Proof.Machine
end

