-- ==== Sys2Proof/Machine/Flash.lean ====
section
/-! DEFINITION. The two QSPI flashes (R406): programs, erases and the order in which the reeve makes
them (R379, R403, R439). -/

namespace Sys2Proof.Machine

/-- What a flash byte reads after an erase, and before anything has been written (log 2). -/
def flashFill : Byte := 0xFF

def flashOf (s : State) (f : Nat) : Memory := if f = 0 then s.flashA else s.flashB
def setFlash (s : State) (f : Nat) (m : Memory) : State :=
  if f = 0 then { s with flashA := m } else { s with flashB := m }

def sectorBytes : Nat := 65536
def flashBytes : Nat := 0x400_0000

/-- Erase the 64 KiB sector that an offset lies in. -/
def eraseSector (m : Memory) (off : Nat) : Memory := m.filter fun c => c.1 / sectorBytes != off / sectorBytes

/-- A job's effect on its flash. -/
def runJob (s : State) (j : FlashJob) : State :=
  let m := flashOf s j.flash
  let m := if j.erase then eraseSector m j.offset else m
  setFlash s j.flash (writeBytes flashFill m j.offset j.bytes)

/-- The job a flash is at work on: the oldest one for it. -/
def flashJob (s : State) (f : Nat) : Option FlashJob := s.boot.flashJobs.find? fun j => j.flash == f

/-- Regions of a flash (R406). -/
def certBase : Nat := 0x1_0000
def imageBase : Nat := 0x2_0000
def bootBase : Nat := 0x3E2_0000
def ledgerBase : Nat := 0x3F2_0000

def isPath (j : FlashJob) : Bool :=
  match j.who with
  | .path _ => true
  | _ => false

/-- The reeve's own writes go ahead of management writes that wait (R411); `busy` says that the
flash's first job has been passed. -/
def insertJob (j : FlashJob) : Bool → List FlashJob → List FlashJob
  | _, [] => [j]
  | busy, x :: xs =>
    if x.flash = j.flash then
      if busy && isPath x then j :: x :: xs else x :: insertJob j true xs
    else x :: insertJob j busy xs

def setJobs (s : State) (js : List FlashJob) : State := { s with boot := { s.boot with flashJobs := js } }

/-- Give the reeve a flash program to make. -/
def pushFlash (s : State) (j : FlashJob) : State :=
  setJobs s (if isPath j then s.boot.flashJobs ++ [j] else insertJob j false s.boot.flashJobs)

/-- Remove the job a flash is at work on. -/
def dropJob (f : Nat) : List FlashJob → List FlashJob
  | [] => []
  | j :: js => if j.flash = f then js else j :: dropJob f js

/-- A ledger write that failed is logged and retried (R379). -/
def ledgerFailed (s : State) (f r : Nat) : State :=
  event { s with boot := { s.boot with ledgerDue := s.boot.ledgerDue ++ [(f, r)] } } 0x0F06 srcDevice 0xFFF {}

/-- The end of the job of flash f: A is followed by B for the journal and the ledger (R379, R403). -/
def endJob (s : State) (j : FlashJob) (written : Bool) : State :=
  let s := setJobs s (dropJob j.flash s.boot.flashJobs)
  let s := if written then runJob s j else s
  let s := match j.who, written with
    | .ledger r, false => ledgerFailed s j.flash r
    | _, _ => s
  match j.who with
  | .path _ => s
  | _ => if j.flash = 0 then pushFlash s { j with flash := 1 } else s

end Sys2Proof.Machine
end

