-- ==== Sys2Proof/Machine/CoreOps.lean ====
section
/-! DEFINITION. Cores: the fault ledger (R378, R379), strikes and retirement (R376, R377), clusters that
go fallow (R387), and which cores take which chunks (R341, R368, R373, R382). -/

namespace Sys2Proof.Machine

/-! ## The fault ledger -/

def ukCore : Nat := 1
def ukTiller : Nat := 2
def ukCluster : Nat := 3
def ukLane : Nat := 4
/-- A lane that is FAILED for this start and not retired (R397). -/
def ukLaneStart : Nat := 5

/-- Reasons of R378. -/
def lrStrikes : Nat := 1
def lrScanFail : Nat := 2
def lrBistFail : Nat := 3
def lrOperator : Nat := 4
def lrDrainTimeout : Nat := 5
def lrTooFewCores : Nat := 6

def ledgerKinds : Nat × Nat := (1, 2)

/-- A 32-byte record with its CRC over words 0 to 2 and the sequence (R378, R403). -/
def sealRecord (w0 w1 w2 : Word) (seq : Nat) : List Word :=
  let crc := crc32c (leOfWords [w0, w1, w2] ++ leBytes 4 (seq % 2 ^ 32))
  [w0, w1, w2, bitsAt 63 32 seq ||| bitsAt 31 0 crc]

/-- Flash offset of ledger record r in the bank in use (R406). -/
def ledgerOffset (s : State) (r : Nat) : Nat := ledgerBase + 0x8000 * s.boot.ledgerBank + 32 * r

/-- Append a ledger record and begin its write to flash A; LEDGER_FULL where no record is free.
Answers whether it was recorded (R379). -/
def appendLedger (s : State) (kind unitKind unit reason last : Nat) : State × Bool :=
  let n := s.boot.ledger.length
  if 1024 ≤ n then (event s 0x0F07 srcDevice 0xFFF {}, false)
  else
    let seq := (s.boot.ledger.map fun r => bitsOf (wordAt r 3) 63 32).foldl Nat.max 0 + 1
    let w0 := bitsAt 63 60 kind ||| bitsAt 59 56 unitKind ||| bitsAt 55 40 unit ||| bitsAt 39 32 reason
      ||| bitsAt 31 0 s.boot.powerOns
    let rec' := sealRecord w0 (BitVec.ofNat 64 (now s)) (bitsAt 59 48 last) seq
    let s := { s with boot := { s.boot with ledger := s.boot.ledger ++ [rec'] } }
    (pushFlash s ⟨0, ledgerOffset s n, leOfWords rec', false, .ledger n⟩, true)

/-- The newest ledger record of a unit retires it (R380). -/
def ledgerRetired (s : State) (unitKind unit : Nat) : Bool :=
  match (s.boot.ledger.filter fun r =>
      bitsOf (wordAt r 0) 59 56 == unitKind && bitsOf (wordAt r 0) 55 40 == unit).getLast? with
  | some r => bitsOf (wordAt r 0) 63 60 == 1
  | none => false

/-! ## Core states (R395) -/

def csActive : Nat := 0
def csReserve : Nat := 1
def csTesting : Nat := 2
def csMigrating : Nat := 3
def csFallow : Nat := 4
def csRetired : Nat := 5

def coreState (s : State) (u : Nat) : Nat := rdf s (aFltCore u) 63 61
def setCoreState (s : State) (u v : Nat) : State := wrf s (aFltCore u) 63 61 v
def jobOf (s : State) (u : Nat) : Option CoreJob := tone s.cores.jobs u
def setJob (s : State) (u : Nat) (j : List CoreJob) : State :=
  { s with cores := { s.cores with jobs := tset [] s.cores.jobs u j } }

/-- Cores of cluster n. -/
def coresOf (n : Nat) : List Nat := (List.range 9).map (9 * n + ·)

/-- The core marked for retirement (R377), or to have its run repeated after a timeout of its island
(R387). -/
def retireMark (s : State) (u : Nat) : Nat := tget 0 s.cores.retiring u
def setRetireMark (s : State) (u v : Nat) : State :=
  { s with cores := { s.cores with retiring := tset 0 s.cores.retiring u v } }
def timedOutMark : Nat := 255

/-- In service: the active cores, the reserve, and a core under test or moving its work for one. -/
def coreServes (s : State) (u : Nat) : Bool :=
  let st := coreState s u
  st == csActive || st == csReserve || st == csTesting || (st == csMigrating && retireMark s u == 0)

/-- Holds one of the cluster's active places (R7). -/
def coreActive (s : State) (u : Nat) : Bool :=
  let st := coreState s u
  st == csActive || st == csMigrating || (st == csFallow && retireMark s u != timedOutMark)

def reserveOf (s : State) (n : Nat) : Option Nat :=
  (coresOf n).find? fun u => coreState s u == csReserve

/-- CORES_IN_SERVICE: active cores of the clusters in service (R7). -/
def recountCores (s : State) : State :=
  wrf s aCapAvail 51 44 (((List.range 108).filter fun u => clusterUp s (u / 9) && coreActive s u).length)

/-- Active cores of a cluster by design (R381). -/
def designCores : Nat := 8

/-! ## Clusters that go fallow (R377, R387) -/

/-- Passes of a stack cut short: their plots' commit records carry STATE_LOST (R387). -/
def cutPasses (s : State) (n : Nat) : State :=
  let ps := passesOf s n
  forAll (fun s (p : Pass) =>
    let w := vrdWork s p.plot
    let left := w.stacksLeft.filter (· != n)
    let s := setVrdWork s p.plot { w with stacksLeft := left, flags := w.flags ||| 2 ^ 4 }
    if left = [] && w.stacksLeft != [] then oweCommit s p.plot p.step else s) (setPasses s n []) ps

/-- Cluster n, its stack included, goes out of service. `cut` says that the cause lies in the stack
base or the die-to-die link, so that a running pass cannot finish. -/
def clusterFallow (s : State) (n : Nat) (cut : Bool) : State :=
  if !clusterUp s n then s
  else
    let plots := sortNats ((entriesOf s n).map fun e => rdf s (aEntry n e 0) 51 40).eraseDups
    let s := recountCores (wrf s aCapAvail (52 + n) (52 + n) 0)
    let s := failGroups s 4 fun r => (groupAt s r.group).owner == n
    let s := forAll (fun s r => freeRecord s n r) s (recordsOf s n)
    let s := advDiscard s fun c => c.cluster == n
    let s := if cut then cutPasses s n else s
    if plots = [] then event s 0x0F05 srcCluster n {}
    else forAll (fun s p => event s 0x0F05 srcCluster n { plot := p }) s plots

/-! ## Retirement (R377, R382) -/

/-- The core's work has moved: it is RETIRED, recorded and logged, and the reserve takes its place. -/
def finishRetire (s : State) (u : Nat) : State :=
  let n := u / 9
  let reason := retireMark s u
  let last := if reason = lrStrikes then
      ((tget [] s.cores.strikes u).map Strike.reason).foldl (fun a r => a * 16 + r) 0 % 4096 else 0
  let s := setCoreState (setJob (setRetireMark s u 0) u []) u csRetired
  let s := (appendLedger s 1 ukCore u reason last).1
  let s := event s 0x0F03 srcCore u {}
  let active := ((coresOf n).filter (coreActive s)).length
  let s :=
    if designCores ≤ active then s
    else
      match reserveOf s n with
      | some r => setCoreState s r csActive
      | none => event s 0x0F04 srcCluster n {}
  let s := recountCores s
  if clusterUp s n && ((coresOf n).filter (coreServes s)).length < 3 then
    clusterFallow (appendLedger s 1 ukCluster n lrTooFewCores 0).1 n false
  else s

/-- The core that takes over for u, if one has been chosen. -/
def takerOf (s : State) (u : Nat) : Option Nat :=
  (coresOf (u / 9)).find? fun t =>
    match jobOf s t with
    | some (.takeover f _) => f == u
    | _ => false

/-- Retire a core: at once when it holds no work, else when its work has moved (R377). -/
def retireCore (s : State) (u reason : Nat) : State :=
  if coreState s u = csRetired || (retireMark s u ≠ 0 && retireMark s u ≠ timedOutMark) then s
  else
    let s := setRetireMark s u reason
    match jobOf s u with
    | some (.run _ _ _) =>
      match takerOf s u with
      | some t => setJob s t [.takeover u true]
      | none => setCoreState s u csFallow
    | some (.takeover f ret) =>
      let s := setCoreState (setJob s u []) f (if ret then csFallow else csActive)
      finishRetire s u
    | _ => finishRetire s u

/-! ## Strikes (R376) -/

def srOutvoted : Nat := 1
def srCheckOutvoted : Nat := 2
def srResidue : Nat := 3
def srRounding : Nat := 4
def srDrillTiming : Nat := 5

/-- A core takes a strike: logged, counted, and the third counted one retires it. -/
def strikeCore (s : State) (u reason gno : Nat) : State :=
  if coreState s u = csRetired then s
  else
    let s := event s 0x0F02 srcCore u { group := gno, detail := reason }
    let s := count s 5 (u / 9) 25 1
    let list := tget [] s.cores.strikes u ++ [⟨reason, now s⟩]
    let s := { s with cores := { s.cores with strikes := tset [] s.cores.strikes u list } }
    let s := wrf (wrf s (aFltCore u) 58 56 reason) (aFltCore u) 31 0 (now s / 1000000000)
    if 3 ≤ list.length then retireCore s u lrStrikes
    else wrf s (aFltCore u) 60 59 list.length

/-! ## Which cores take which chunks (R341, R368) -/

/-- Checked by residue, so by a single core (R86, R371). -/
def residueChecked (g : Group) : Bool := sheafed g || (g.op == 0x01 && fmtIsInt g.inFmt)

/-- A free active core. -/
def coreFree (s : State) (u : Nat) : Bool := coreState s u == csActive && (jobOf s u).isNone

def freeCores (s : State) (n : Nat) : List Nat := (coresOf n).filter (coreFree s)

/-- The reserve, idle. -/
def idleReserve (s : State) (n : Nat) : Option Nat :=
  (reserveOf s n).filter fun u => (jobOf s u).isNone

/-- Cores of cluster n at work on first runs of a plot. -/
def coresHeld (s : State) (n plot : Nat) : Nat :=
  ((coresOf n).filter fun u =>
    match jobOf s u with
    | some (.run key _ role) =>
      role != 2 && (match runOf s key with
        | some r => (groupAt s r.group).plot == plot
        | none => false)
    | _ => false).length

/-- A ready chunk that may be given to cores: of an open run, and for a group with an output scale at
its root only once the run before it is closing or gone (R216). -/
structure ReadyChunk where
  key : Nat
  chunk : Nat
  at' : Nat
  plot : Nat
  express : Bool
  single : Bool
deriving DecidableEq, Repr

def scaleBusy (s : State) (r : Run) (g : Group) : Bool :=
  keepsScale g && (match findRun s r.group ((r.seq + 2 ^ 16 - 1) % 2 ^ 16) with
    | some p => p.state == .opened || p.state == .sent
    | none => false)

def readyChunks (s : State) (n : Nat) : List ReadyChunk :=
  sortBy (fun a b => decide (a.at' ≤ b.at')) <| (liveRuns s).flatMap fun r =>
    let g := groupAt s r.group
    if g.owner ≠ n || r.state ≠ .opened || scaleBusy s r g then []
    else (r.chunks.filter fun kv => kv.1 < 2 ^ 24 && kv.2.stage == .ready).map fun kv =>
      ⟨keyOf r, kv.1, kv.2.readyAt, g.plot, g.express, residueChecked g⟩

/-- The chunk that R341 selects. -/
def pickChunk (s : State) (n : Nat) : Option ReadyChunk :=
  let cs := readyChunks s n
  match cs.find? (·.express) with
  | some c => some c
  | none =>
    match cs.find? fun c => coresHeld s n c.plot < 2 * rdf s (aPlot c.plot 0) 59 57 with
    | some c => some c
    | none => cs.head?

/-- Chunks that wait for their judge, oldest first. -/
def waitingJudge (s : State) (n : Nat) : List (Nat × Nat) :=
  let cs := (s.bnd.runs.flatMap Prod.snd).flatMap fun r =>
    if (groupAt s r.group).owner ≠ n then []
    else (r.chunks.filter fun kv => kv.2.stage == .judging && kv.2.judge.isNone).map fun kv =>
      (kv.2.readyAt, keyOf r, kv.1)
  (sortBy (fun a b => decide (a.1 ≤ b.1)) cs).map Prod.snd

/-- Replace a core of a chunk by the one that runs its work now. -/
def moveCore (s : State) (key k u t : Nat) : State :=
  modChunk s key k fun c =>
    { c with
      cores := c.cores.map fun x => if x = u then t else x
      judge := c.judge.map fun x => if x = u then t else x }

/-- One assignment, none when no core can be given out. -/
def assignOne (s : State) (n : Nat) : Option State :=
  let idle := match idleReserve s n with
    | some u => some u
    | none => (freeCores s n).head?
  let moving := (coresOf n).find? fun u =>
    coreState s u == csFallow && retireMark s u != 0 && (match jobOf s u with
      | some (.run _ _ _) => true
      | _ => false)
  match moving, idle with
  | some u, some t =>
    match jobOf s u with
    | some (.run key k role) =>
      if retireMark s u = timedOutMark then
        some (moveCore (setJob (setJob s u []) t [.run key k role]) key k u t)
      else some (setCoreState (setJob s t [.takeover u true]) u csMigrating)
    | _ => none
  | _, _ =>
    let judge := (waitingJudge s n).findSome? fun p =>
      match runOf s p.1 with
      | none => none
      | some r =>
        let c := chunkOf r p.2
        let t := match idleReserve s n with
          | some u => some u
          | none => (freeCores s n).find? fun u => !c.cores.contains u
        t.map fun t => (p.1, p.2, t)
    match judge with
    | some (key, k, t) =>
      let s := count (setJob s t [.run key k 2]) 5 n 24 1
      let s := modRun s key fun r => { r with replays := Nat.min 0xFFFF (r.replays + 1) }
      some (modChunk s key k fun c => { c with judge := some t })
    | none =>
      match pickChunk s n with
      | none => none
      | some x =>
        let free := freeCores s n
        let cs := if x.single then free.take 1 else free.take 2
        if cs.length < (if x.single then 1 else 2) then none
        else
          let s := forAll (fun s p => setJob s p.1 [.run x.key x.chunk p.2]) s cs.zipIdx
          some (modChunk s x.key x.chunk fun c => { c with stage := .running, cores := cs })

def assignCluster (n : Nat) : Nat → State → State
  | 0, s => s
  | f + 1, s =>
    match assignOne s n with
    | none => s
    | some s' => assignCluster n f s'

/-- Give free cores out in every cluster in service. Each assignment takes a core. -/
def assignAll (s : State) : State := forAll (fun s n => assignCluster n 32 s) s (stacksUp s)

/-- What follows every collective event: cores are given out, and commit records that waited for a
slot enter their runs. -/
def settle (s : State) : State := serveCommits (assignAll s)

/-! ## Runs of cores (R26, R352, R353) -/

/-- The items of a chunk in arrival order (R87). -/
def itemsOf (s : State) (g : Group) (c : Chunk) : List Item :=
  c.contribs.map fun x =>
    let m := memberN s g x.member
    ⟨m.rankLo, m.rankCount, m.kind == mkChild, x.bytes, c.order.idxOf x.member⟩

/-- What a run of chunk k computes. -/
def runOut' (s : State) (r : Run) (g : Group) (k : Nat) : ChunkOut :=
  match chunkDef s r g k with
  | some d => reduceChunk d (itemsOf s g (chunkOf r k))
  | none => ⟨[], [], [], none, false⟩

/-- The program number of a run: the loaded table's, else one that the hub chooses (R472, log 10). -/
def programNo (s : State) (g : Group) : Nat :=
  let root := g.role == roleRoot
  match s.boot.programs.find? fun p =>
      p.op == g.op && p.strict == g.strict && p.inFmt == g.inFmt && p.outFmt == g.outFmt && p.root == root with
  | some p => p.num
  | none => Config.programOf
      (g.op + 2 ^ 8 * g.inFmt + 2 ^ 14 * g.outFmt + 2 ^ 20 * b2n g.strict + 2 ^ 21 * b2n root) % 4096

def cycleCap : Nat := 0x1FF_FFFF

/-- DRL_RUN_CYCLES of a run, or of the part of it that this core ran (R352, R382). -/
def noteCycles (s : State) (u prog elems inputs cycles : Nat) : State :=
  wr s (aDrl u 0) (bitsAt 63 52 prog ||| bitsAt 51 35 elems ||| bitsAt 34 25 inputs
    ||| bitsAt 24 0 (Nat.min cycleCap cycles))

/-- The watch of a core (R352, R353): a run of the watched shape whose count is not the others' is a
strike. -/
def watchRun (s : State) (u gno prog elems inputs cycles : Nat) : State :=
  if rdf s (aDrl u 8) 63 52 ≠ prog || rdf s (aDrl u 8) 51 35 ≠ elems || rdf s (aDrl u 8) 34 25 ≠ inputs then s
  else
    let c := Nat.min cycleCap cycles
    let runs := rdf s (aDrl u 0x10) 14 0
    let lo := rdf s (aDrl u 0x10) 63 39
    let hi := rdf s (aDrl u 0x18) 63 39
    let fresh := runs == 0 || c == cycleCap
    let lo' := if fresh then c else Nat.min lo c
    let hi' := if fresh then c else Nat.max hi c
    let s := wr s (aDrl u 0x10) (bitsAt 63 39 lo' ||| bitsAt 14 0 (Nat.min 0x7FFF (runs + 1)))
    let s := wr s (aDrl u 0x18) (bitsAt 63 39 hi')
    if lo' ≠ hi' ∧ lo = hi then strikeCore (event s 0x0905 srcCore u {}) u srDrillTiming gno else s

/-! ## Ends of chunks -/

/-- A released run is forgotten once no core works for it. -/
def dropIfDone (s : State) (key : Nat) : State :=
  match runOf s key with
  | none => s
  | some r =>
    if r.released && !(r.chunks.any fun kv => kv.2.stage == .running || kv.2.stage == .judging) then
      setRuns s key []
    else s

/-- A chunk whose run has failed is over: its inputs return (R145). -/
def discardChunk (s : State) (key k : Nat) : State :=
  match runOf s key with
  | none => s
  | some r =>
    let s := freeHeld s (groupAt s r.group).owner key k
    dropIfDone (setChunk s key k Chunk.empty) key

def cfSplit : Nat := 1
def cfNoJudge : Nat := 2
def cfInput : Nat := 3

/-- A core within its cluster, 0xF for none (R374). -/
def coreNibble (u : Option Nat) : Nat :=
  match u with
  | some u => u % 9
  | none => 0xF

/-- A chunk ends as CHECK_FAILED: so does its run, and the event of R374 is logged. -/
def chunkFailed (s : State) (key k reason : Nat) : State :=
  match runOf s key with
  | none => s
  | some r =>
    let g := groupAt s r.group
    let c := chunkOf r k
    let rank := coreNibble c.cores.head? * 2 ^ 12 + coreNibble (c.cores.drop 1).head? * 2 ^ 8
      + coreNibble c.judge * 2 ^ 4
    let s := failHere (discardChunk s key k) key 1 0x1FF 0xFFFF
    event s 0x0F01 srcCluster g.owner
      { group := r.group, plot := g.plot, number := r.seq, rank := rank,
        detail := reason * 2 ^ 24 + k % 2 ^ 24 }

/-- The payload residue of a strict result differs where it is placed (R372): on its way up the copy
leaves with a bad tail; a landing or a sow does not take place; the run ends with CHECK_FAILED. -/
def outputBad (s : State) (key k : Nat) (out : ChunkOut) (g : Group) : State :=
  if g.role == roleRoot then failHere (discardChunk s key k) key 1 0x1FF 0xFFFF
  else
    let s := resultChecked s key k out
    let mark := fun (q : Pkt) =>
      match q.use with
      | .upResult a b _ => if a = key && b = k then { q with tail := tailBad 0x03 1 } else q
      | _ => q
    let f := (reapType g).2
    let s := setQueue s g.parentPort f ((queueOf s g.parentPort f).map mark)
    failHere s key 1 0x1FF 0xFFFF

/-- Place the result of one of the runs as the chunk's. -/
def placeRun (s : State) (key k : Nat) (x : RunResult) : State :=
  match runOf s key with
  | none => s
  | some r =>
    let g := groupAt s r.group
    if r.state ≠ .opened then discardChunk s key k
    else if g.strict && x.failed == some 6 then outputBad s key k x.out g
    else resultChecked s key k x.out

/-- Equal in every result byte and in both statuses (R370). -/
def sameResult (a b : RunResult) : Bool :=
  a.out.bytes == b.out.bytes && stickyOr a.out.flags == stickyOr b.out.flags
    && a.out.values == b.out.values

/-- A check of the run itself failed (R371). -/
def checkBad (x : RunResult) : Option Nat :=
  match x.failed with
  | some 3 => some srResidue
  | some 4 => some srRounding
  | _ => none

/-- All first runs of a chunk have delivered: they are compared or checked (R353, R370, R371). -/
def compareChunk (s : State) (key k : Nat) : State :=
  match runOf s key with
  | none => s
  | some r =>
    let g := groupAt s r.group
    let c := chunkOf r k
    let byCore := fun u => c.results.find? fun x => x.core == u
    let judge :=
      if (coresOf g.owner).any fun u => coreServes s u && !c.cores.contains u then
        setChunk s key k { c with stage := .judging }
      else chunkFailed s key k cfNoJudge
    if r.state ≠ .opened then discardChunk s key k
    else
      match c.cores.map byCore with
      | [some a] => if (checkBad a).isNone then placeRun s key k a else judge
      | [some a, some b] => if sameResult a b && a.cycles == b.cycles then placeRun s key k a else judge
      | _ => s

/-- The strikes of a judgement by cycle counts (R353). -/
def timingStrike (s : State) (gno : Nat) (a b c : RunResult) : State :=
  if a.cycles = b.cycles then s
  else if a.cycles = c.cycles then strikeCore s b.core srDrillTiming gno
  else if b.cycles = c.cycles then strikeCore s a.core srDrillTiming gno
  else event s 0x0905 srcCluster (a.core / 9) { detail := a.core }

/-- The replay's result decides the chunk (R373 to R375). -/
def judgeChunk (s : State) (key k : Nat) (x : RunResult) : State :=
  match runOf s key with
  | none => s
  | some r =>
    let c := chunkOf r k
    let byCore := fun u => c.results.find? fun y => y.core == u
    match c.cores.map byCore with
    | [some a] =>
      if (checkBad x).isSome then chunkFailed s key k cfSplit
      else
        let s := strikeCore s a.core ((checkBad a).getD srResidue) r.group
        placeRun s key k (if sameResult a x then a else x)
    | [some a, some b] =>
      let place := if sameResult x a then some a else if sameResult x b then some b else none
      let s :=
        if sameResult a b then s
        else if sameResult x a then strikeCore s b.core srCheckOutvoted r.group
        else if sameResult x b then strikeCore s a.core srOutvoted r.group
        else s
      let s := timingStrike s r.group a b x
      match place with
      | some y => placeRun s key k y
      | none => chunkFailed s key k cfSplit
    | _ => s

end Sys2Proof.Machine
end

