-- ==== Sys2Proof/Machine/Windows.lean ====
section
/-! DEFINITION. The staged multi-word windows (R441): words 1 to 7 are staged per path, and a write to
word 0 commits them together with it. -/

namespace Sys2Proof.Machine

/-- The entry that a commit would leave: each field by its type (R10 to R12). -/
def mergeEntry (fs : List (List RField)) (old staged : Entry) : Entry :=
  (fs.zip (old.zip staged)).map fun p => mergedWord true p.1 p.2.1 p.2.2

/-- What the words of a commit that differ from the entry's log under R10 to R12 (log 14). -/
def logEntryWords (s : State) (path target : Nat) (fs : List (List RField)) (old staged : Entry) : State :=
  forAll (fun s (p : (List RField × Word × Word) × Nat) =>
    if p.1.2.1 = p.1.2.2 then s else logWrite s path (target + 8 * p.2) p.1.1 p.1.2.1 p.1.2.2) s
    (fs.zip (old.zip staged)).zipIdx

/-- Commit an entry: `check` names the refusal code of the entry that would result, 0 for none;
`accept` stores it; `report` sets the table's RESULT. -/
def commitEntry (s : State) (path target : Nat) (fs : List (List RField)) (v : Word)
    (check : State → Entry → Nat) (accept : State → Entry → State) (report : State → Nat → State) :
    WrRes :=
  let old := rdEntry s target 8
  let staged := stagedEntry s path target v
  let s := dropStage (logEntryWords s path target fs old staged) path
  let e := mergeEntry fs old staged
  let code := check s e
  if code ≠ 0 then ⟨report s code, .refused code⟩ else ⟨report (accept s e) 0, .ok⟩

end Sys2Proof.Machine
end

