-- ==== Sys2Proof/Machine/Groups.lean ====
section
/-! DEFINITION. Group and member entries as they are written (R134 to R138, R202, R216, R474) and the group
commands (R139, R140). -/

namespace Sys2Proof.Machine

/-! ## Refusals of R138 -/

def rcOk : Nat := 0x00
def rcIllegalOp : Nat := 0x10
def rcIllegalFmt : Nat := 0x11
def rcUnaligned : Nat := 0x12
def rcGroupBusy : Nat := 0x13
def rcMemberRange : Nat := 0x14
def rcQuotaSmall : Nat := 0x15
def rcShare : Nat := 0x16
def rcDefSig : Nat := 0x17
def rcClusterDown : Nat := 0x18
def rcStackMismatch : Nat := 0x19
def rcTableFull : Nat := 0x1A
def rcStagingFull : Nat := 0x1B
def rcExpress : Nat := 0x1C
def rcChunk : Nat := 0x1D
def rcOutsidePlot : Nat := 0x64

/-- Fields of the eight words (R134). -/
def groupFields : List (List RField) :=
  [[ro 63 62, rwIf 61 60 (· ≤ 2), rwIf 59 57 (· ≤ 5), rw 56 52, rw 51 40, rw 39 32, rw 31 26, rw 25 20,
      rw 19 14, rsv 13 4, rwIf 3 0 (· ≤ 11)],
    [rwIf 63 24 (fun v => 1 ≤ v && v ≤ 2 ^ 39), rw 23 16, rw 15 0],
    [rwIf 63 47 (fun v => 1 ≤ v && v ≤ 65536), rw 46 30, rw 29 14, rsv 13 9, rw 8 0],
    [rwIf 63 40 (fun v => 1 ≤ v && v ≤ 10000000), rw 39 28, rwIf 27 24 (fun v => 1 ≤ v && v ≤ 8), rsv 23 10,
      rw 9 0],
    [rw 63 50, rsv 49 32, rw 31 0],
    [ro 63 32, ro 31 28, rsv 27 0],
    [rw 63 33, rsv 32 0],
    [rsv 63 40, rw 39 0]]

/-- Kinds that reduce. -/
def reaps (g : Group) : Bool := g.gkind ≤ 2

/-- ILLEGAL_OPERATION (R73, R202): only codes that R136 lists are judged against the operation. -/
def illegalOp (s : State) (g : Group) : Bool :=
  if g.gkind == gkVerdict then g.op != 0 || g.inFmt != 0 || g.outFmt != 0 || g.wFmt != 0
  else if !reaps g then g.op != 0
  else
    match groupOp g with
    | none => true
    | some op =>
      let listed := fun c => fmtListed c
      let tail := g.elems - (chunkCount g - 1) * chunkElems g
      (g.strict && !op.strictOk)
        || (listed g.inFmt && !opInOk op g.inFmt)
        || (listed g.inFmt && listed g.outFmt && !fmtBare g.outFmt && !opOutOk op g.inFmt g.outFmt)
        || (listed g.inFmt && listed g.wFmt && !opWeightOk op g.inFmt g.wFmt)
        || (op == .wsum && (65536 < g.rowLen || Nat.min (chunkElems g) g.elems % g.rowLen != 0
            || tail % g.rowLen != 0))
        || (op.varies && rdb s (aPlot g.plot 0) 61)

/-- ILLEGAL_FORMAT (R36, R136). -/
def illegalFmt (g : Group) : Bool :=
  !fmtListed g.inFmt || !fmtListed g.outFmt || !fmtListed g.wFmt || fmtBare g.outFmt

/-- Bytes of an endpoint-form contribution to a full chunk (R146, R160). -/
def endpointForm (g : Group) : Nat :=
  let n := elemsOfChunk g 0
  if g.gkind == gkSowData then
    if masked g then n / g.rowLen * tokenRecord g else fmtBytes g.inFmt n
  else
    match groupOp g with
    | some op => endpointBytes op g.inFmt g.wFmt n g.rowLen
    | none => 0

/-- A member sends node form (R146). -/
def nodeFormMember (g : Group) (m : Member) : Bool :=
  1 < m.rankCount && !g.strict && !fmtIsInt g.inFmt && ((groupOp g).any fun op => op.nodeForm)

/-- Field-book entries of the group's range in its stack that hold it (R246): OUTGOING ones do not. -/
def holdingEntries (s : State) (g : Group) : List Nat :=
  (entriesMeeting s g.owner g.plot g.tensor g.elemBase g.elems).filter fun e =>
    fbState s g.owner e != esOutgoing

/-- A SOW_VERSION range cuts a stored MXFP8 superblock (R474). -/
def cutsSuperblock (s : State) (g : Group) : Bool :=
  let stop := g.elemBase + g.elems
  let es := (holdingEntries s g).map (fbAt s g.owner)
  let mx := es.any fun x => x.sownFmt == 0x10 || x.sownFmt == 0x11
  let atEnd := es.any fun x => x.elemBase + x.elems == stop
  mx && (g.elemBase % 256 != 0 || (stop % 256 != 0 && !atEnd))

/-- CHUNK_ILLEGAL. -/
def chunkIllegal (s : State) (g : Group) : Bool :=
  let n := elemsOfChunk g 0
  let tail := g.elems - (chunkCount g - 1) * chunkElems g
  !(1 ≤ g.chunkSb && g.chunkSb ≤ 128) || decide (2 ^ 24 < chunkCount g)
    || (16384 < endpointForm g
        && (membersOf s g).any fun m => m.kind == mkEndpoint && !nodeFormMember g m)
    || (masked g && (n % g.rowLen != 0 || tail % g.rowLen != 0))
    || (g.gkind == gkSowVersion && g.role == roleRoot && cutsSuperblock s g)

/-- Whether blocks (start, count) are disjoint. -/
def disjointBlocks : List (Nat × Nat) → Bool
  | [] => true
  | b :: bs => bs.all (fun c => !meets b.1 b.2 c.1 c.2) && disjointBlocks bs

/-- MEMBER_RANGE (R138, R202). -/
def memberRange (s : State) (g : Group) : Bool :=
  let ms := membersOf s g
  let verdict := g.gkind == gkVerdict
  let lo := if verdict then g.spanLo + 1 else g.spanLo
  let hi := g.spanLo + g.spanCount
  let few := if verdict && g.role == roleLeaf then 0 else 1
  let kids := ms.any fun m => m.kind == mkChild
  let marked := (ms.filter Member.designated).length
  let root := g.role == roleRoot
  g.members < few || 512 < g.members || decide (16384 < g.memberBase + g.members)
    || ms.any (fun m => m.rankCount == 0 || m.rankLo < lo || hi < m.rankLo + m.rankCount
        || g.rankSpace < m.rankLo + m.rankCount)
    || !disjointBlocks (ms.map fun m => (m.rankLo, m.rankCount))
    || (g.role == roleInterior && !kids) || (g.role == roleLeaf && kids)
    || (root && (g.spanLo != 0 || g.spanCount != g.rankSpace))
    || (g.gkind == gkReapToOne && marked != 1)
    || (g.gkind == gkSowData && marked != (if root then 1 else 0))
    || (verdict && (g.elems != 8 || g.chunkSb != 1 || g.maxOut < 2 || g.express || g.deferred
        || ms.any fun m => m.kind == mkEndpoint))

/-- [lo, lo + n) is an aligned block within [0, 2^h) (R66). -/
def alignedBlock (h lo n : Nat) : Bool :=
  n != 0 && n == 2 ^ ceilLog2 n && lo % n == 0 && decide (lo + n ≤ 2 ^ h)

/-- SPAN_UNALIGNED (R66). -/
def spanUnaligned (s : State) (g : Group) : Bool :=
  let h := ceilLog2 g.rankSpace
  !g.strict && g.gkind != gkVerdict
    && ((membersOf s g).any (fun m => !alignedBlock h m.rankLo m.rankCount)
      || (g.role != roleRoot && !alignedBlock h g.spanLo g.spanCount))

/-- EXPRESS_LIMIT. -/
def expressLimit (g : Group) : Bool :=
  g.express && (64 < g.rankSpace || chunkCount g != 1 || g.deferred
    || !(g.gkind == gkReapSow || g.gkind == gkReapToOne))

/-- A run of the group before its first, for the sizes of R146. -/
def sizeRun (gno : Nat) : Run := newRun gno 0 0 0 false

/-- Bytes of a chunk set, for a full chunk even where the group's one chunk is shorter (R146; log 24). -/
def setBytes (s : State) (gno : Nat) (g : Group) : Nat :=
  let g := { g with elems := Nat.max g.elems (chunkElems g) }
  if !reaps g && g.gkind != gkSowData then 0
  else ((sourcesOf s g).map fun i => (contribSize s (sizeRun gno) g (memberN s g i) 0).max).sum

/-- Cluster-store capacity in 4 KiB units (R258). -/
def storeUnits (s : State) : Nat := 2048 - 256 * s.grn.captureMiB

/-- Claims of a plot in cluster n, one group left out: quotas, express staging and LIMIT_64K (R337). -/
def plotClaims (s : State) (plot n without : Nat) : Nat :=
  let gs := (groupsLive s).filter fun g =>
    g != without && (groupAt s g).plot == plot && (groupAt s g).owner == n
  (gs.map fun g =>
    let x := groupAt s g
    if x.express then csUnits (tget [] s.bnd.staging g) else x.quota4k).sum + 16 * advLimit s n plot

/-- Units of an express group's staging: MAX_OUT chunk sets (R159). -/
def stagingUnits (s : State) (gno : Nat) (g : Group) : Nat := g.maxOut * setUnits s (sizeRun gno) g

/-- CS_SHARE_4K of a plot. -/
def plotShare (s : State) (plot : Nat) : Nat := rdf s (aPlot plot 0) 56 45

/-- Release a group's staging. -/
def freeStaging (s : State) (gno n : Nat) : State :=
  let s := freeBufs s (some n) (tget [] s.bnd.staging gno)
  { s with bnd := { s.bnd with staging := tset [] s.bnd.staging gno [] } }

/-- The buffers of MAX_OUT chunk sets, none where the store has no room. -/
def takeStaging (n plot : Nat) : State → List Nat → Option (State × List Nat)
  | s, [] => some (s, [])
  | s, size :: rest =>
    match allocStore s n (ownHub n) plot (size / 65536 + 1) size with
    | none => none
    | some (s', bs) =>
      match takeStaging n plot s' rest with
      | none => none
      | some (s'', cs) => some (s'', bs ++ cs)

def stagingSizes (s : State) (gno : Nat) (g : Group) : List Nat :=
  let one := (sourcesOf s g).map fun i => (contribSize s (sizeRun gno) g (memberN s g i) 0).max
  (List.replicate g.maxOut one).flatten

/-- The state with an express group's staging reserved. -/
def reserveStaging (s : State) (gno : Nat) (g : Group) : Option State :=
  let old := groupAt s gno
  let s := freeStaging s gno old.owner
  if !g.express then some s
  else
    (takeStaging g.owner g.plot s (stagingSizes s gno g)).map fun p =>
      { p.1 with bnd := { p.1.bnd with staging := tset [] p.1.bnd.staging gno p.2 } }

/-- The first condition of R138 and R338 that an entry breaks. -/
def groupRefusal (s : State) (gno : Nat) (e : Entry) : Nat :=
  let g := groupOf e
  let root := g.role == roleRoot
  let held := ((holdingEntries s g).map fun e =>
    let x := fbAt s g.owner e
    (overlapOf g.elemBase g.elems x.elemBase x.elems).2).sum
  let claim := if g.express then stagingUnits s gno g else g.quota4k
  let lo := rdf s (aPlot g.plot 0) 15 0
  let n := rdf s (aPlot g.plot 0) 32 16
  let inPool := ((groupsLive s).filter fun x => x != gno && (groupAt s x).owner == g.owner).length
  if g.state == gsActive || (g.state == gsFallow && runsOf s gno != []) then rcGroupBusy
  else if !clusterUp s g.owner then rcClusterDown
  else if illegalOp s g then rcIllegalOp
  else if illegalFmt g then rcIllegalFmt
  else if chunkIllegal s g then rcChunk
  else if memberRange s g then rcMemberRange
  else if spanUnaligned s g then rcUnaligned
  else if expressLimit g then rcExpress
  else if g.defSig ≠ defSigOf g then rcDefSig
  else if !g.express && decide (4096 * g.quota4k < 2 * setBytes s gno g) then rcQuotaSmall
  else if plotShare s g.plot < plotClaims s g.plot g.owner gno + claim then rcShare
  else if (reserveStaging s gno g).isNone then rcStagingFull
  else if root && (g.gkind == gkReapToBin || g.gkind == gkSowVersion) && held != g.elems then
    rcStackMismatch
  else if 8192 ≤ inPool then rcTableFull
  else if !(lo ≤ gno && gno < lo + n) || rdf s (aPlot g.plot 0) 63 62 == 0 then rcOutsidePlot
  else rcOk

/-- RESULT and GROUP of BND_GROUP_STAT (R140). -/
def groupReport (s : State) (gno code : Nat) : State :=
  wr s aGroupStat (bitsAt 63 56 code ||| bitsAt 15 0 gno)

/-- Start a history afresh: FRESH, no entries; HEADROOM stays (R216). -/
def freshHist (s : State) (gno : Nat) : State :=
  wrf (wrf (clearHist s gno) (aOscale gno 8) 63 62 osFresh) (aOscale gno 8) 52 46 0

/-- Store a committed entry. -/
def groupAccept (s : State) (gno : Nat) (e : Entry) : State :=
  let g := groupOf e
  let s := (reserveStaging s gno g).getD s
  let free := g.state == gsFree
  let s := wrEntry s (aGroup gno 0) e
  let s := if free then
      wrf (wrf s (aGroup gno 0) 63 62 gsActive) (aGroup gno 5) 63 32 0
    else s
  if keepsScale g then freshHist s gno else s

/-- A write to word 0 of a group's window (R138). -/
def groupCommit (s : State) (path gno : Nat) (v : Word) : WrRes :=
  commitEntry s path (aGroup gno 0) groupFields v (fun s e => groupRefusal s gno e)
    (fun s e => groupAccept s gno e) (fun s code => groupReport s gno code)

/-- GROUP_COMMIT. -/
def execGroupCommit (path group : Nat) (value : Word) (s : State) : Answer :=
  .next (mgApply s (aGroup group 0) value fun s => groupCommit s path group value)

/-! ## Member entries (R137) -/

def memberFields (w : Nat) : List RField :=
  match w with
  | 0 => [rwIf 63 62 (· ≤ 2), rw 61 61, rw 60 52, rwIf 51 35 (fun v => 1 ≤ v && v ≤ 65536), rw 34 19,
      rsv 18 16, rw 15 0]
  | 1 => [rwIf 63 0 (fun v => v % 8 == 0)]
  | 2 => [rw 63 46, rsv 45 40, rw 39 0]
  | _ => [rsv 63 0]

/-- A write to a word of a member entry: GROUP_BUSY while an ACTIVE group uses it. -/
def memberWrite (s : State) (path n i w : Nat) (v : Word) : WrRes :=
  if !clusterUp s n then ⟨s, .access⟩
  else if (groupsOnMember s n i).any fun g => (groupAt s g).state == gsActive then
    ⟨s, .refused rcGroupBusy⟩
  else ⟨regWrite s path (aMember n i w) (memberFields w) v, .ok⟩

/-- MEMBER_ENTRY_WRITE. -/
def execMemberEntryWrite (path cluster index word : Nat) (value : Word) (s : State) : Answer :=
  .next (mgApply s (aMember cluster index word) value fun s =>
    memberWrite s path cluster index word value)

/-! ## Commands (R139) -/

/-- The runs of a group end with a code; those in CLOSING go on, and one in FAILED keeps the code it
failed with. -/
def endGroup (s : State) (gno code : Nat) : State := failGroups s code fun r => r.group == gno

/-- A FREE group: its words and its history read as after reset, its staging returns (R216). -/
def freeGroup (s : State) (gno : Nat) : State :=
  let s := freeStaging s gno (groupAt s gno).owner
  let s := wrEntry s (aGroup gno 0) ((List.range 8).map fun w => resetWord (aGroup gno w))
  wrEntry s (aOscale gno 0) ((List.range 16).map fun w => resetWord (aOscale gno w))

/-- A command of BND_GROUP_CMD: the state and the code. -/
def groupCommand (s : State) (op gno seq : Nat) : State × Nat :=
  let g := groupAt s gno
  let idle := runsOf s gno == []
  let r : State × Nat := match op with
    | 1 => (settle (endGroup s gno 5), rcOk)
    | 2 =>
      if g.state == gsFree then (s, rcGroupBusy)
      else (settle (endGroup (wrf s (aGroup gno 0) 63 62 gsFallow) gno 4), rcOk)
    | 3 => if g.state == gsFallow then (wrf s (aGroup gno 0) 63 62 gsActive, rcOk) else (s, rcGroupBusy)
    | 4 => if g.state == gsFallow && idle then (freeGroup s gno, rcOk) else (s, rcGroupBusy)
    | 5 =>
      if g.state == gsFallow then (wrf s (aGroup gno 5) 63 32 seq, rcOk) else (s, rcGroupBusy)
    | _ => (s, rcOk)
  (groupReport r.1 gno r.2, r.2)

def groupCmdFields : List RField :=
  [⟨63, 60, .wo, fun w => 1 ≤ bitsOf w 63 60 && bitsOf w 63 60 ≤ 6⟩, rsv 59 48, wo 47 16, wo 15 0]

/-- A write to BND_GROUP_CMD. -/
def groupCmdWrite (s : State) (path : Nat) (v : Word) : WrRes :=
  cmdWrite s path aGroupCmd groupCmdFields v fun s =>
    groupCommand s (bitsOf v 63 60) (bitsOf v 15 0) (bitsOf v 47 16)

/-- The word that gives a group command. -/
def groupCmdWord (op gno seq : Nat) : Word := bitsAt 63 60 op ||| bitsAt 47 16 seq ||| bitsAt 15 0 gno

def groupRow (s : State) (path op gno seq : Nat) : State :=
  mgApply s aGroupCmd (groupCmdWord op gno seq) fun s => groupCmdWrite s path (groupCmdWord op gno seq)

def execGroupAbort (path group : Nat) (s : State) : Answer := .next (groupRow s path 1 group 0)
def execGroupFallow (path group : Nat) (s : State) : Answer := .next (groupRow s path 2 group 0)
def execGroupRestore (path group : Nat) (s : State) : Answer := .next (groupRow s path 3 group 0)
def execGroupFree (path group : Nat) (s : State) : Answer := .next (groupRow s path 4 group 0)
def execSetSeq (path group seq : Nat) (s : State) : Answer := .next (groupRow s path 5 group seq)
def execGroupQuery (path group : Nat) (s : State) : Answer := .next (groupRow s path 6 group 0)

/-- BND_GROUP_STAT as read (R140). -/
def groupStatWord (s : State) : Word :=
  let gno := rdf s aGroupStat 15 0
  let g := groupAt s gno
  rd s aGroupStat ||| bitsAt 55 54 g.state ||| bitsAt 53 50 g.outstanding ||| bitsAt 47 16 g.instSeq

/-- BND_GROUP_DIR as read (R133). -/
def groupDirWord (s : State) (gno : Nat) : Word :=
  let g := groupAt s gno
  if g.state == gsFree then 0 else bitsAt 63 63 1 ||| bitsAt 62 59 g.owner ||| bitsAt 58 47 g.plot

/-! ## Output-scale histories (R229) -/

def oscaleFields (w : Nat) : List RField :=
  if w < 8 then [rw 63 0]
  else if w = 8 then [rw 63 62, rwIf 61 57 (· ≤ 16), rw 56 53, rw 52 46, rw 45 43, rsv 42 32, ro 31 0]
  else if w = 9 then [ro 63 32, ro 31 0]
  else [rsv 63 0]

/-- A write to a history: only while its group is FALLOW. -/
def oscaleWrite (s : State) (path gno w : Nat) (v : Word) : WrRes :=
  if (groupAt s gno).state ≠ gsFallow then ⟨s, .refused rcGroupBusy⟩
  else ⟨regWrite s path (aOscale gno w) (oscaleFields w) v, .ok⟩

/-- OSCALE_WRITE. -/
def execOscaleWrite (path group word : Nat) (value : Word) (s : State) : Answer :=
  .next (mgApply s (aOscale group word) value fun s => oscaleWrite s path group word value)

end Sys2Proof.Machine
end

