-- ==== Sys2Proof/Machine/Tillers.lean ====
section
/-! DEFINITION. Tiller arithmetic: the operations of R179, the values of R172, the recipes of R181 and
R183, and the load, store and sown encodings of R180. -/

namespace Sys2Proof.Machine

/-! ## Operations (R179) -/

inductive TOp
  | add | sub | mul | fma | fms | min | max | maxabs | sign | div | sqrt
deriving DecidableEq, Repr

/-- The number of an operation in a decoded microprogram (log 7). -/
def tilOpOf : Nat → TOp
  | 0 => .add | 1 => .sub | 2 => .mul | 3 => .fma | 4 => .fms | 5 => .min | 6 => .max
  | 7 => .maxabs | 8 => .sign | 9 => .div | _ => .sqrt

def TOp.num : TOp → Nat
  | .add => 0 | .sub => 1 | .mul => 2 | .fma => 3 | .fms => 4 | .min => 5 | .max => 6
  | .maxabs => 7 | .sign => 8 | .div => 9 | .sqrt => 10

/-- Cost in operations. -/
def TOp.cost : TOp → Nat
  | .div | .sqrt => 4
  | _ => 1

def negNum : Num → Num
  | .nan => .nan
  | .inf s => .inf (!s)
  | .fin s m e => .fin (!s) m e

def absNum : Num → Num
  | .fin _ m e => .fin false m e
  | .inf _ => .inf false
  | .nan => .nan

/-- A value rounded once to a format by RNE, flushed and saturated. -/
def roundTo (f : FloatFmt) (x : Num) : Num × Flags :=
  let r := convertFloat f .sat .rne x
  ((decodeFloat f r.1).1, r.2)

/-- a ÷ b for finite b ≠ 0, with enough bits and a sticky one that any rounding to 53 bits or fewer
is that of the exact quotient. -/
def quotient (a b : Num) : Num :=
  match a, b with
  | .fin s m e, .fin t n f =>
    let sh := Nat.log2 n + 62
    let q := (m <<< sh) / n
    let sticky := if q * n = m <<< sh then 0 else 1
    if m = 0 then .zero (s != t) else .fin (s != t) (2 * q + sticky) (e - f - sh - 1)
  | x, _ => x

/-- The integer square root below 2^k, bit by bit. -/
def isqrt : Nat → Nat → Nat → Nat
  | 0, _, r => r
  | k + 1, n, r => isqrt k n (if (r + 2 ^ k) * (r + 2 ^ k) ≤ n then r + 2 ^ k else r)

/-- The square root of a positive number, with a sticky bit. -/
def sqrtNum (m : Nat) (e : Int) : Num :=
  let m1 := if e % 2 = 0 then m else 2 * m
  let e1 := if e % 2 = 0 then e else e - 1
  let n := m1 <<< 128
  let r := isqrt 128 n 0
  .fin false (2 * r + (if r * r = n then 0 else 1)) ((e1 - 128) / 2 - 1)

def maxFinite (f : FloatFmt) (neg : Bool) : Num := (decodeFloat f (signCode f neg f.maxCode)).1

/-- The exact result of an operation on finite operands, with the flags of its special cases. -/
def TOp.exact (op : TOp) (a b c : Num) : Num × Flags :=
  match op with
  | .add => ((addNum a b).1, 0)
  | .sub => ((addNum a (negNum b)).1, 0)
  | .mul => (mulNum a b, 0)
  | .fma => ((addNum (mulNum a b) c).1, 0)
  | .fms => ((addNum (mulNum a b) (negNum c)).1, 0)
  | .min => (if numLt b a then b else a, 0)
  | .max => (if numLt a b then b else a, 0)
  | .maxabs => (if numLt a (absNum b) then absNum b else a, 0)
  | .sign => (if a.isZero then .zero false else .fin a.neg? 1 0, 0)
  | .div =>
    if b.isZero then
      if a.isZero then (.zero false, 0)
      else (maxFinite .fp32 (a.neg? != b.neg?), satFlag)
    else (quotient a b, 0)
  | .sqrt =>
    match a with
    | .fin s m e =>
      if m = 0 then (.zero false, 0)
      else if s then (.zero false, satFlag)
      else (sqrtNum m e, 0)
    | x => (x, 0)

/-- The FP32 code of a value, NaN and infinities included. -/
def fp32Code (x : Num) : Nat := (convertFloat .fp32 .inf .rne x).1

/-- One operation: exact, rounded once to FP32. A NaN or an infinity as operand, which no rule gives a
result for, gives a free finite value (log 18). -/
def tilOp (op : TOp) (a b c : Num) : Num × Flags :=
  if nonFinite a || nonFinite b || nonFinite c then
    let v := Config.tillerOf op.num (fp32Code a) (fp32Code b) (fp32Code c)
    ((decodeFloat .fp32 (v % 2 * 2 ^ 31 + v / 2 % 0x7F80_0000)).1, 0)
  else
    let x := op.exact a b c
    let r := roundTo .fp32 x.1
    (r.1, x.2 ||| r.2)

/-! ## The values of an entry (R170, R172) -/

/-- Hyperparameters and the values formed from them. -/
structure Hyper where
  lr : Num
  wd : Num
  beta1 : Num
  beta2 : Num
  mu : Num
  eps : Num
  tau : Num
  p : List Num
  biasCorr : Bool
  nesterov : Bool
  a1 : Num
  a2 : Num
  d1 : Num
  mu1 : Num
  nlr : Num
  nlrwd : Num
  c1 : Num
  c2 : Num
  flags : Flags
deriving DecidableEq, Repr

/-- FP64 arithmetic with the flush and saturation of R172. -/
def mul64 (a b : Num) : Num × Flags := roundTo .fp64 (mulNum a b)

/-- powk: square at every bit, multiply at the set ones. -/
def powk (b : Num) (k : Nat) : Num × Flags :=
  (List.range 32).reverse.foldl (fun acc bit =>
    let q := mul64 acc.1 acc.1
    let r := if k.testBit bit then mul64 q.1 b else (q.1, 0)
    (r.1, acc.2 ||| q.2 ||| r.2)) (Num.one, 0)

/-- 1 ÷ (1 − powk): a divisor of zero gives FP32 max finite and SAT. -/
def biasTerm (b : Num) (k : Nat) : Num × Flags :=
  let w := powk b k
  let d := roundTo .fp64 (addNum Num.one (negNum w.1)).1
  if d.1.isZero then (maxFinite .fp32 false, w.2 ||| d.2 ||| satFlag)
  else
    let q := roundTo .fp64 (quotient Num.one d.1)
    let r := roundTo .fp32 q.1
    (r.1, w.2 ||| d.2 ||| q.2 ||| r.2)

/-- The values of R172 from a CURRENT half and k = UPDATES + 1. -/
def hyperOf (h : Entry) (k : Nat) : Hyper :=
  let f := fun (w hi lo : Nat) => (decodeFloat .fp32 (bitsOf (wordAt h w) hi lo)).1
  let lr := f 0 31 0
  let wd := f 0 63 32
  let b1 := f 1 31 0
  let b2 := f 1 63 32
  let mu := f 2 63 32
  let tau := f 3 63 32
  let bias := bitOf (wordAt h 3) 1
  let a1 := tilOp .sub Num.one b1 (.zero false)
  let a2 := tilOp .sub Num.one b2 (.zero false)
  let d1 := tilOp .sub Num.one tau (.zero false)
  let mu1 := tilOp .add Num.one mu (.zero false)
  let lw := tilOp .mul lr wd (.zero false)
  let c1 := if bias then biasTerm b1 k else (Num.one, 0)
  let c2 := if bias then biasTerm b2 k else (Num.one, 0)
  { lr := lr, wd := wd, beta1 := b1, beta2 := b2, mu := mu, eps := f 2 31 0, tau := tau,
    p := [f 5 31 0, f 5 63 32, f 6 31 0, f 6 63 32, f 7 31 0, f 7 63 32],
    biasCorr := bias, nesterov := bitOf (wordAt h 3) 0,
    a1 := a1.1, a2 := a2.1, d1 := d1.1, mu1 := mu1.1, nlr := negNum lr, nlrwd := negNum lw.1,
    c1 := c1.1, c2 := c2.1,
    flags := a1.2 ||| a2.2 ||| d1.2 ||| mu1.2 ||| lw.2 ||| c1.2 ||| c2.2 }

/-! ## Recipes (R181, R183) -/

/-- What the load stage gives an element. -/
structure ElemIn where
  g : Num
  p : Num
  m1 : Num
  m2 : Num
deriving DecidableEq, Repr

/-- What a recipe gives: the new master and the moments it produces. -/
structure ElemOut where
  p1 : Num
  m1 : Option Num
  m2 : Option Num
  flags : Flags
deriving DecidableEq, Repr

def rpSgd : Nat := 0x88
def rpMsgd : Nat := 0x89
def rpAdam : Nat := 0x8A
def rpAdamw : Nat := 0x8B
def rpLion : Nat := 0x8C
def rpCustom : Nat := 0x8F

def zero' : Num := .zero false

def sgdElem (h : Hyper) (x : ElemIn) : ElemOut :=
  let p1 := tilOp .fma h.nlr x.g x.p
  ⟨p1.1, none, none, p1.2⟩

def msgdElem (h : Hyper) (x : ElemIn) : ElemOut :=
  let gd := tilOp .mul h.d1 x.g zero'
  let m1 := tilOp .fma h.mu x.m1 gd.1
  if h.nesterov then
    let t := tilOp .mul h.mu x.m1 zero'
    let s := tilOp .fms h.mu1 m1.1 t.1
    let p1 := tilOp .fma h.nlr s.1 x.p
    ⟨p1.1, some m1.1, none, gd.2 ||| m1.2 ||| t.2 ||| s.2 ||| p1.2⟩
  else
    let p1 := tilOp .fma h.nlr m1.1 x.p
    ⟨p1.1, some m1.1, none, gd.2 ||| m1.2 ||| p1.2⟩

/-- ADAM, or ADAMW with its decay first. -/
def adamElem (decay : Bool) (h : Hyper) (x : ElemIn) : ElemOut :=
  let ag := tilOp .mul h.a1 x.g zero'
  let m1 := tilOp .fma h.beta1 x.m1 ag.1
  let gg := tilOp .mul x.g x.g zero'
  let ag2 := tilOp .mul h.a2 gg.1 zero'
  let m2 := tilOp .fma h.beta2 x.m2 ag2.1
  let mh := tilOp .mul m1.1 h.c1 zero'
  let vh := tilOp .mul m2.1 h.c2 zero'
  let rt := tilOp .sqrt vh.1 zero' zero'
  let den := tilOp .add rt.1 h.eps zero'
  let u := tilOp .div mh.1 den.1 zero'
  let pd := if decay then tilOp .fma h.nlrwd x.p x.p else (x.p, 0)
  let p1 := tilOp .fma h.nlr u.1 pd.1
  ⟨p1.1, some m1.1, some m2.1,
    ag.2 ||| m1.2 ||| gg.2 ||| ag2.2 ||| m2.2 ||| mh.2 ||| vh.2 ||| rt.2 ||| den.2 ||| u.2 ||| pd.2
      ||| p1.2⟩

def lionElem (h : Hyper) (x : ElemIn) : ElemOut :=
  let ag := tilOp .mul h.a1 x.g zero'
  let c := tilOp .fma h.beta1 x.m1 ag.1
  let s := tilOp .sign c.1 zero' zero'
  let pd := tilOp .fma h.nlrwd x.p x.p
  let p1 := tilOp .fma h.nlr s.1 pd.1
  let ag2 := tilOp .mul h.a2 x.g zero'
  let m1 := tilOp .fma h.beta2 x.m1 ag2.1
  ⟨p1.1, some m1.1, none, ag.2 ||| c.2 ||| pd.2 ||| s.2 ||| p1.2 ||| ag2.2 ||| m1.2⟩

/-- Registers of a decoded microprogram (log 7): inputs, hyperparameters, values; 25 to 27 take the new
master and moments, 32 upward are free. -/
def customRegs (h : Hyper) (x : ElemIn) : Tbl Num :=
  [(0, x.g), (1, x.p), (2, x.m1), (3, x.m2), (4, h.lr), (5, h.wd), (6, h.beta1), (7, h.beta2),
    (8, h.mu), (9, h.eps), (10, h.tau), (11, h.p.getD 0 zero'), (12, h.p.getD 1 zero'),
    (13, h.p.getD 2 zero'), (14, h.p.getD 3 zero'), (15, h.p.getD 4 zero'), (16, h.p.getD 5 zero'),
    (17, h.a1), (18, h.a2), (19, h.d1), (20, h.mu1), (21, h.nlr), (22, h.nlrwd), (23, h.c1),
    (24, h.c2)]

def customElem (r : RecipeImage) (h : Hyper) (x : ElemIn) : ElemOut :=
  let out := r.ops.foldl (fun (acc : Tbl Num × Flags) o =>
    let get := tget zero' acc.1
    let y := tilOp (tilOpOf o.op) (get o.a) (get o.b) (get o.c)
    (tins acc.1 o.dst y.1, acc.2 ||| y.2)) (customRegs h x, 0)
  let wrote := fun k => r.ops.any fun o => o.dst == k
  ⟨if wrote 25 then tget zero' out.1 25 else x.p,
    if r.usesM1 && wrote 26 then some (tget zero' out.1 26) else none,
    if r.usesM2 && wrote 27 then some (tget zero' out.1 27) else none, out.2⟩

/-- The custom recipe in a slot. -/
def recipeAt (s : State) (n slot : Nat) : Option RecipeImage :=
  (tget [] s.stk.recipes n).find? fun r => r.slot == slot

/-- A recipe on one element. -/
def recipeElem (s : State) (n : Nat) (x : Fb) (h : Hyper) (i : ElemIn) : ElemOut :=
  match x.recipe with
  | 0x88 => sgdElem h i
  | 0x89 => msgdElem h i
  | 0x8A => adamElem false h i
  | 0x8B => adamElem true h i
  | 0x8C => lionElem h i
  | _ =>
    match recipeAt s n x.customId with
    | some r => customElem r h i
    | none => ⟨i.p, none, none, 0⟩

/-- Whether a recipe reads the first and the second moment. -/
def readsM1 (s : State) (n : Nat) (x : Fb) : Bool :=
  x.recipe == rpMsgd || x.recipe == rpAdam || x.recipe == rpAdamw || x.recipe == rpLion
    || (x.recipe == rpCustom && (recipeAt s n x.customId).any RecipeImage.usesM1)
def readsM2 (s : State) (n : Nat) (x : Fb) : Bool :=
  x.recipe == rpAdam || x.recipe == rpAdamw
    || (x.recipe == rpCustom && (recipeAt s n x.customId).any RecipeImage.usesM2)

/-! ## Load and store (R180) -/

/-- A state value as loaded: flushed (R31), promoted to FP32. -/
def loadElem (s : State) (n : Nat) (x : Fb) (a : StateArray) (i : Nat) : Num × Flags :=
  decodeFloat (stateFmt x) (elemCode s n x a i)

/-- The master as loaded: in layout B, RNE32(master + remainder). -/
def loadMaster (s : State) (n : Nat) (x : Fb) (i : Nat) : Num × Flags :=
  let m := loadElem s n x .master i
  if x.layoutB then
    let r := loadElem s n x .remainder i
    let q := roundTo .fp32 (addNum m.1 r.1).1
    (q.1, m.2 ||| r.2 ||| q.2)
  else m

/-- Write a value into a state array by RNE. -/
def storeElem (s : State) (n : Nat) (x : Fb) (a : StateArray) (i : Nat) (v : Num) : State × Flags :=
  let c := convertFloat (stateFmt x) .sat .rne v
  (setElemCode s n x a i c.1, c.2)

/-- Write a new master: in layout B, the high part and the remainder. -/
def storeMaster (s : State) (n : Nat) (x : Fb) (i : Nat) (p : Num) : State × Flags :=
  let h := storeElem s n x .master i p
  if x.layoutB then
    let hi := (loadElem h.1 n x .master i).1
    let r := storeElem h.1 n x .remainder i (addNum p (negNum hi)).1
    (r.1, h.2 ||| r.2)
  else h

/-- Write the moments that a recipe produces. -/
def storeMoment (s : State) (n : Nat) (x : Fb) (a : StateArray) (i : Nat) (v : Option Num) :
    State × Flags :=
  match v with
  | some m => storeElem s n x a i m
  | none => (s, 0)

/-! ## Sown images (R180, R221) -/

/-- Elements of group k of an entry: its first element and how many. -/
def groupSpan (x : Fb) (k : Nat) : Nat × Nat := (128 * k, Nat.min 128 (x.elems - 128 * k))
def groupTotal (x : Fb) : Nat := ceilDiv x.elems 128

def isFp8 (x : Fb) : Bool := x.sownFmt == 0x05 || x.sownFmt == 0x06

/-- Multiply by the power of two the slot code stands for, code minus 127: a sown element decodes as
element × 2^−OUT_EXP (R215, R221). E4M3 and E5M2 images alone have one. -/
def slotScaled (x : Fb) (code : Nat) (v : Num) : Num :=
  if isFp8 x then shiftNum v ((code : Int) - 127) else v

/-- Encode values as the slot image of group k: scattered over the superblock for MXFP8 (R35). -/
def writeSlotGroup (s : State) (n : Nat) (x : Fb) (v code k : Nat) (vals : List Num) :
    State × List Flags :=
  let pol := policyOf x.polInf
  match fmtOf x.sownFmt with
  | none => (s, [])
  | some f =>
    if f.isMx then
      let full := vals ++ List.replicate (128 - vals.length) (Num.zero false)
      let enc := (piecesOf 32 4 full).map fun b =>
        encodeMxBlock f.mxElem pol (List.replicate 32 .rne) b
      let base := slotBase x v + superblockBytes f.width * (k / 2)
      let half := k % 2
      let s := hbmWrite s n (base + 4 * half) (enc.map fun b => BitVec.ofNat 8 b.1)
      let s := hbmWrite s n (base + 8 + 128 * half)
        (enc.flatMap fun b => packCodes f.width (b.2.map Prod.fst))
      let tail := half == 0 && k + 1 == groupTotal x
      let s := if tail then
          hbmWrite (hbmWrite s n (base + 4) (List.replicate 4 0)) n (base + 136)
            (List.replicate 128 0)
        else s
      (s, (enc.flatMap fun b => b.2.map Prod.snd).take vals.length)
    else
      let e := encodeElems f pol none 0 (vals.map (slotScaled x code))
      (hbmWrite s n (slotBase x v + f.bytesFor (128 * k)) e.1, e.2)

/-- Encode group k of the slot of version v from the stored master (REENCODE, R93, R180). -/
def encodeGroup (s : State) (n : Nat) (x : Fb) (v code k : Nat) : State × List Flags :=
  let sp := groupSpan x k
  writeSlotGroup s n x v code k
    ((List.range sp.2).map fun i => (loadMaster s n x (sp.1 + i)).1)

/-- Encode a whole slot. -/
def encodeSlot (s : State) (n : Nat) (x : Fb) (v code : Nat) : State × List Flags :=
  (List.range (groupTotal x)).foldl (fun acc k =>
    let r := encodeGroup acc.1 n x v code k
    (r.1, acc.2 ++ r.2)) (s, [])

/-- The scale code stored for the slot of version v. -/
def slotCode (x : Fb) (v : Nat) : Nat := if v % 2 = 0 then x.scale0 else x.scale1

/-- The slot code for the largest magnitude A and a head-room (R221, R222). -/
def scaleCodeFor (fmt amax headroom : Nat) : Nat :=
  if amax = 0 then 127
  else
    let q : Int := (amax / 2 ^ 23 : Nat) - 127
    let emax : Int := if fmt = 0x06 then 8 else 15
    (max 63 (min 190 (127 + emax - headroom - q))).toNat

/-! ## A group (R181, R186) -/

/-- What the pass brings to a group: elements whose bin word or state word was uncorrectable. -/
structure GroupFaults where
  binLost : List Nat
  stateLost : List Nat
deriving DecidableEq, Repr

/-- Epilogue values so far, as FP32 codes, and the elements' flags; `ops` leaves encodings out. -/
structure GroupAcc where
  st : State
  upd : Nat
  amax : Nat
  ops : List Flags

/-- One element: load, recipe, epilogue, store. -/
def passElem (n : Nat) (x : Fb) (h : Hyper) (bad : GroupFaults) (acc : GroupAcc) (i : Nat) : GroupAcc :=
  let s := acc.st
  if bad.stateLost.contains i then { acc with ops := acc.ops ++ [0] }
  else
    let g := if bad.binLost.contains i then (zero', 0) else loadElem s n x .bin i
    let p := loadMaster s n x i
    let m1 := if readsM1 s n x then loadElem s n x .m1 i else (zero', 0)
    let m2 := if readsM2 s n x then loadElem s n x .m2 i else (zero', 0)
    let o := recipeElem s n x h ⟨g.1, p.1, m1.1, m2.1⟩
    let d := tilOp .sub o.p1 p.1 zero'
    let u := tilOp .maxabs (decodeFloat .fp32 acc.upd).1 d.1 zero'
    let a := tilOp .maxabs (decodeFloat .fp32 acc.amax).1 o.p1 zero'
    let w := storeMaster s n x i o.p1
    let w1 := storeMoment w.1 n x .m1 i o.m1
    let w2 := storeMoment w1.1 n x .m2 i o.m2
    { st := w2.1, upd := fp32Code u.1, amax := fp32Code a.1,
      ops := acc.ops ++ [g.2 ||| p.2 ||| m1.2 ||| m2.2 ||| o.flags ||| d.2 ||| u.2 ||| a.2 ||| w.2
        ||| w1.2 ||| w2.2] }

/-- Every element of group k. -/
def passGroup (s : State) (n : Nat) (x : Fb) (h : Hyper) (bad : GroupFaults) (upd amax k : Nat) :
    GroupAcc :=
  let sp := groupSpan x k
  ((List.range sp.2).map (sp.1 + ·)).foldl (passElem n x h bad) ⟨s, upd, amax, []⟩

end Sys2Proof.Machine
end

