-- ==== Sys2Proof/Machine/Passes.lean ====
section
/-! DEFINITION. Update passes (R185, R186, R221, R222), entries that go FALLOW (R197), sown versions
(R188 to R191) and tillers (R198). -/

namespace Sys2Proof.Machine

/-! ## Passes -/

def runningPass (s : State) (n : Nat) : Option Pass := (passesOf s n).find? Pass.started
def modPass (s : State) (n : Nat) (f : Pass → Pass) : State :=
  setPasses s n ((passesOf s n).map fun p => if p.started then f p else p)

def passHeld (s : State) (n plot : Nat) : Bool := s.stk.held.contains (4096 * n + plot)

/-- A pass that runs has not yet finished the entry, its tensor's FP8 images included (R186, R222). -/
def inRunning (s : State) (n e : Nat) : Bool :=
  (passesOf s n).any fun p => p.started && (p.left.contains e || tget 0 p.deferred e != 0)

/-- A running or queued pass of the entry's plot has not yet finished it (R197). -/
def entryUnfinished (s : State) (n e : Nat) : Bool :=
  let x := fbAt s n e
  inRunning s n e || (passesOf s n).any fun p =>
    !p.started && p.plot == x.plot && x.state == esActive && !x.frozen

/-- The plan order of R185. -/
def passBefore (a b : Fb) : Bool :=
  if a.planPos ≠ b.planPos then a.planPos < b.planPos
  else if a.tensor ≠ b.tensor then a.tensor < b.tensor
  else a.elemBase ≤ b.elemBase

/-- The entries a pass covers, in order. -/
def passEntries (s : State) (n plot : Nat) : List Nat :=
  sortBy (fun a b => passBefore (fbAt s n a) (fbAt s n b)) <| (entriesOf s n).filter fun e =>
    let x := fbAt s n e
    x.plot == plot && x.state == esActive && !x.frozen

/-! ## Hyperparameters (R170, R171) -/

/-- Copy an armed PENDING half whose step has come. -/
def copyHyper (s : State) (n st h : Nat) : State :=
  if rdb s (aHyp n h 11) 2 && rdf s (aHyp n h 12) 63 32 ≤ st then
    let w := rdEntry s (aHyp n h 8) 8
    wrf (wrf (wrEntry s (aHyp n h 0) w) (aHyp n h 3) 2 2 0) (aHyp n h 11) 2 2 0
  else s

/-- The R172 values of an entry. -/
def entryHyper (s : State) (n : Nat) (x : Fb) : Hyper :=
  hyperOf (rdEntry s (aHyp n x.hyp 0) 8) (x.updates + 1)

/-! ## Versions -/

/-- Retire version CUR_VERSION − 1 (R190, R191). -/
def retireOlder (s : State) (n e : Nat) : State :=
  let x := fbAt s n e
  if x.olderHeld then advRetire (wrf s (aEntry n e 5) 63 63 0) n e (x.version - 1) else s

/-- The slot that the pass writes is held by a SOW_VERSION instance (R190). -/
def slotHeld (s : State) (n e : Nat) : Bool :=
  let slot := ((fbAt s n e).version + 1) % 2
  s.stk.slotHolds.any fun h => h.stack == n && h.entry == e && h.slot == slot

/-! ## Beginning an entry (R186 steps 1 and 2, R221) -/

/-- FP8 entries of a tensor among a pass's entries. -/
def fp8Of (s : State) (n tensor : Nat) (es : List Nat) : List Nat :=
  es.filter fun e => (fbAt s n e).tensor == tensor && isFp8 (fbAt s n e)

/-- Choose the slot code of an FP8 entry's tensor at its first entry: the code and whether A is 0. -/
def firstCode (s : State) (n : Nat) (p : Pass) (x : Fb) : Nat × Bool :=
  let es := fp8Of s n x.tensor p.left
  let a := (es.map fun e => rdf s (aEntry n e 7) 31 0).foldl Nat.max 0
  (scaleCodeFor x.sownFmt a (rdf s (aVerdict p.plot 0) 56 54), a == 0)

/-- Begin the entry at the head of the running pass, once no hold stands against it. -/
def beginEntry (s : State) (n : Nat) : State :=
  match runningPass s n with
  | none => s
  | some p =>
    match p.left with
    | [] => s
    | e :: _ =>
      if p.begun || p.second.isSome || slotHeld s n e then s
      else
        let x := fbAt s n e
        let fl := (entryHyper s n x).flags
        let s := wrf s (aEntry n e 3) 7 0 (cvtOf fl)
        let fresh := isFp8 x && tget 0 p.codes x.tensor == 0
        let c := firstCode s n p x
        modPass s n fun p =>
          { p with
            begun := true, groupsDone := 0, lost := false, updMax := 0, amax := 0,
            codes := if fresh then tset 0 p.codes x.tensor (c.1 + 1) else p.codes,
            again := if fresh && c.2 then p.again ++ [x.tensor] else p.again,
            satOps := if fl.testBit 2 then p.satOps ++ [e] else p.satOps }

/-- The code of the slot an entry's pass writes: 0x7F for BF16 and MXFP8 (R166, R221). -/
def passCode' (p : Pass) (x : Fb) : Nat := if isFp8 x then tget 0 p.codes x.tensor - 1 else 0x7F

/-! ## Entries that go FALLOW (R197, R200) -/

/-- Groups rooted here, landing in or sowing from the entry's range. -/
def groupsMeeting (s : State) (n : Nat) (x : Fb) : List Nat :=
  (groupsLive s).filter fun g =>
    let y := groupAt s g
    y.role == roleRoot && (y.gkind == gkReapToBin || y.gkind == gkSowVersion) && y.owner == n
      && y.plot == x.plot && y.tensor == x.tensor && meets y.elemBase y.elems x.elemBase x.elems

/-- An entry becomes FALLOW, and the groups that meet it with it. -/
def fallowEntry (s : State) (n e : Nat) : State :=
  let x := fbAt s n e
  let s := advEntryGone (setFbState s n e esFallow) n e
  forAll (fun s g => endGroup (wrf s (aGroup g 0) 63 62 gsFallow) g 4) s (groupsMeeting s n x)

/-- FALLOW on an ACTIVE entry: at once, or when the passes have finished it. -/
def askFallow (s : State) (n e : Nat) : State :=
  if entryUnfinished s n e then
    { s with stk := { s.stk with fallowDue := feKey n e :: s.stk.fallowDue.filter (· != feKey n e) } }
  else fallowEntry s n e

/-- State was lost (R200): STATE_LOST, the event, and FALLOW. -/
def entryLost (s : State) (n e : Nat) : State :=
  let s := event (wrf s (aEntry n e 5) 60 60 1) 0x0B07 srcStack n {}
  if fbState s n e = esActive then askFallow s n e else s

/-- Re-encode the slot of CUR_VERSION (R194). -/
def rebuildSown (s : State) (n e : Nat) : State :=
  let x := fbAt s n e
  let r := encodeSlot s n x x.version (slotCode x x.version)
  countFlags r.1 n r.2

/-- What waited for the passes to finish the entry. -/
def serveDues (s : State) (n e : Nat) : State :=
  if entryUnfinished s n e then s
  else
    let k := feKey n e
    let s := if s.stk.rebuildDue.contains k then
        rebuildSown { s with stk := { s.stk with rebuildDue := s.stk.rebuildDue.filter (· != k) } } n e
      else s
    if s.stk.fallowDue.contains k then
      let s := { s with stk := { s.stk with fallowDue := s.stk.fallowDue.filter (· != k) } }
      if fbState s n e = esActive then fallowEntry s n e else s
    else s

/-! ## Finishing (R186 step 4, R192, R222) -/

/-- DORMANT and its event. -/
def judgeDormant (s : State) (n e : Nat) : State :=
  let x := fbAt s n e
  let d := if 999 * x.elems ≤ 1000 * rdf s (aEntry n e 6) 30 0 then
      Nat.min 0xFFFF (rdf s (aEntry n e 5) 47 32 + 1) else 0
  let s := wrf s (aEntry n e 5) 47 32 d
  let thr := rdf s (aTilCfg n) 15 0
  if thr ≠ 0 ∧ d ≠ 0 ∧ d % thr = 0 then
    event s 0x0B05 srcStack n { plot := x.plot, detail := x.tensor }
  else s

/-- A PASS entry of the journal (R356, R358, R359). -/
def capturePass (s : State) (n e : Nat) : State :=
  let x := fbAt s n e
  if recState s = recRecording && recSelect s == 0 && recPlot s == x.plot then
    let arr := fun (a : StateArray) => hbmRead s n (regionBase x + arrayStart x a) (arrayBytes x a x.elems)
    capture s (journalEntry s 0x8 noPort noCluster
      [bitsAt 62 48 e ||| bitsAt 47 44 n, bitsAt 63 32 x.version,
        digest64 (arr .master ++ arr .remainder), digest64 (hbmRead s n (slotBase x x.version) (slotBytes x))])
  else s

/-- The entry serves its new version: its counts, scale and AMAX_MASTER change, and what waited for
that goes on (R186, R189, R197, R247). -/
def advanceVersion (s : State) (n e st code amax : Nat) : State :=
  let x := fbAt s n e
  let v := (x.version + 1) % 2 ^ 32
  let lost := s.stk.curLost.contains (feKey n e)
  let s := { s with stk := { s.stk with curLost := s.stk.curLost.filter (· != feKey n e) } }
  let s := wrf (wrf s (aEntry n e 4) 63 32 (x.updates + 1)) (aEntry n e 4) 31 0 v
  let s := wrf s (aEntry n e 5) 63 63 (b2n !lost)
  let s := if v % 2 = 0 then wrf s (aEntry n e 1) 7 0 code else wrf s (aEntry n e 1) 15 8 code
  let s := capturePass (wrf s (aEntry n e 7) 31 0 amax) n e
  let s := serveDues s n e
  let s := forAll (fun s p =>
    if p.1 = n && turnEntry s n p.2 == e && fbState s n e == esActive then turnStart s n p.2 else s) s
    (sourcesDue s x.plot st)
  retryJudgements s n

/-- An FP8 tensor is finished in the stack: its entries serve the new version together. -/
def finishTensor (s : State) (n tensor : Nat) : State :=
  match runningPass s n with
  | none => s
  | some p =>
    let es := (p.deferred.map Prod.fst).filter fun e => (fbAt s n e).tensor == tensor
    let s := modPass s n fun p =>
      { p with deferred := p.deferred.filter fun kv => !es.contains kv.1, second := none }
    forAll (fun s e =>
      if fbState s n e = esFree then s
      else advanceVersion s n e p.step (tget 0 p.codes tensor - 1) (tget 0 p.deferred e - 1)) s es

/-- Every entry of the running pass is finished: the pass ends, and with the last stack's the commit
record is owed (R186, R209). -/
def endPass (s : State) (n : Nat) : State :=
  match runningPass s n with
  | none => s
  | some p =>
    if p.left ≠ [] || p.second.isSome then s
    else
      let s := setPasses s n ((passesOf s n).filter fun p => !p.started)
      let w := vrdWork s p.plot
      let left := w.stacksLeft.filter (· != n)
      let s := setVrdWork s p.plot { w with stacksLeft := left }
      if w.stacksLeft ≠ [] && left = [] then oweCommit s p.plot p.step else s

/-- Begin the next entry, or end the pass. -/
def nextEntry (s : State) (n : Nat) : State := endPass (beginEntry s n) n

/-- Note a fault of the pass in the plot's commit record (R203, R209): 3 BIN_FAULT, 4 STATE_LOST,
5 REENCODED. -/
def noteCommit (s : State) (plot bit : Nat) : State :=
  let w := vrdWork s plot
  setVrdWork s plot { w with flags := w.flags ||| 2 ^ bit }

/-! ## Tillers (R198) -/

def tillerUp (s : State) (n t : Nat) : Bool := decide (t < 16) && !s.cores.tillersOut.contains (16 * n + t)
def tillersUp (s : State) (n : Nat) : List Nat := (List.range 16).filter (tillerUp s n)

/-- No tiller is left: every entry goes FALLOW, and passes cannot finish. -/
def noTillers (s : State) (n : Nat) : State :=
  let s := cutPasses s n
  forAll (fun s e => if fbState s n e = esActive then fallowEntry s n e else s) s (entriesOf s n)

/-- A tiller leaves service for good. -/
def retireTiller (s : State) (u reason : Nat) : State :=
  if s.cores.tillersOut.contains u then s
  else
    let s := { s with cores := { s.cores with tillersOut := s.cores.tillersOut ++ [u] } }
    let s := (appendLedger s 1 ukTiller u reason 0).1
    if tillersUp s (u / 16) = [] then noTillers s (u / 16) else s

/-- A tiller takes a strike; the third counted one retires it. -/
def strikeTiller (s : State) (u : Nat) : State :=
  let s := event s 0x0B03 srcTiller u {}
  let list := tget [] s.cores.tillerStrikes u ++ [⟨0, now s⟩]
  let s := { s with cores := { s.cores with tillerStrikes := tset [] s.cores.tillerStrikes u list } }
  if 3 ≤ list.length then retireTiller s u lrStrikes else s

end Sys2Proof.Machine
end

