-- ==== Sys2Proof/Machine/Stacks.lean ====
section
/-! DEFINITION. The stack and tiller commands: field-book commits (R166, R167), window writes (R163),
hyperparameters (R170, R171), passes (R185, R186, R222), groups (R198), scrub (R200, R201) and TIL_CMD
(R194 to R197). -/

namespace Sys2Proof.Machine

/-! ## Codes of R167, R171 and R191 -/
def rcEntryBusy : Nat := 0x20
def rcRegionOverlap : Nat := 0x21
def rcShard : Nat := 0x22
def rcShardOverlap : Nat := 0x23
def rcRecipe : Nat := 0x24
def rcFbOutside : Nat := 0x25
def rcVersionCurrent : Nat := 0x26
def rcNotHeld : Nat := 0x27
def rcIllegalHyp : Nat := 0x29

/-- TIL_STAT.RESULT and ENTRY (R196). -/
def tilReport (s : State) (n e code : Nat) : State :=
  wr s (aTilStat n) (bitsAt 63 56 code ||| bitsAt 14 0 e)

/-! ## Field-book commits -/

def fbkFields : List (List RField) :=
  [[ro 63 61, rw 60 60, rw 59 59, rw 58 58, rw 57 52, rw 51 40, rw 39 32, rw 31 28, rw 27 18, rsv 17 16,
      rw 15 0],
    [rw 63 33, rsv 32 32, ro 31 16, rw 15 8, rw 7 0],
    [rw 63 24, rwIf 23 0 (· ≤ 0xEF_FFFF)],
    [rw 63 33, rsv 32 8, ro 7 0],
    [rw 63 32, rw 31 0],
    [rw 63 63, rsv 62 62, ro 61 61, ro 60 60, ro 59 52, ro 51 48, ro 47 32, rsv 31 31, ro 30 0],
    [rsv 63 63, ro 62 32, rsv 31 31, ro 30 0],
    [ro 63 32, ro 31 0]]

/-- SOWN_FMT codes of each layout. -/
def sownFmtOk (x : Fb) : Bool :=
  if x.layoutB then x.sownFmt == 0x05 || x.sownFmt == 0x06 || x.sownFmt == 0x10 || x.sownFmt == 0x11
  else x.sownFmt == 0x04

def recipeOk (x : Fb) : Bool := (0x88 ≤ x.recipe && x.recipe ≤ 0x8C) || x.recipe == rpCustom

/-- Slot CUSTOM_ID holds a microprogram that declares the entry's layout (R184). -/
def customOk (s : State) (n : Nat) (x : Fb) : Bool :=
  let a := aTilRecipe n x.customId
  rdb s a 63 && (if x.layoutB then rdb s a 61 else rdb s a 62)

/-- The refusal of R167, 0 for none. -/
def entryRefusal (s : State) (n e : Nat) (ent : Entry) : Nat :=
  let x := fbOf ent
  let others := (entriesOf s n).filter (· != e)
  let base := rdf s (aPlot x.plot 3) 63 40 * 4096
  let size := rdf s (aPlot x.plot 3) 39 16 * 4096
  if fbState s n e ≠ esFree ∧ fbState s n e ≠ esFallow then rcEntryBusy
  else if !x.frozen && !recipeOk x then rcIllegalOp
  else if x.recipe == rpCustom && !customOk s n x then rcRecipe
  else if !sownFmtOk x then rcIllegalFmt
  else if x.elems = 0 || 2 ^ 30 < x.elems || x.elemBase % 256 != 0 || 2 ^ 40 < x.elemBase + x.elems
      || userArea < regionBase x + regionBytes x then rcShard
  else if !(decide (base ≤ regionBase x) && decide (regionBase x + regionBytes x ≤ base + size)) then
    rcFbOutside
  else if others.any fun o =>
      let y := fbAt s n o
      meets (regionBase x) (regionBytes x) (regionBase y) (regionBytes y) then rcRegionOverlap
  else if others.any fun o =>
      let y := fbAt s n o
      y.plot == x.plot && y.tensor == x.tensor && meets x.elemBase x.elems y.elemBase y.elems then
    rcShardOverlap
  else 0

/-- Store an accepted entry: a FREE one becomes FALLOW with words 5 to 7 clear but OLDER_HELD. -/
def entryAccept (s : State) (n e : Nat) (ent : Entry) : State :=
  if fbState s n e = esFree then
    let s := wrEntry s (aEntry n e 0) ((ent.take 5) ++ [wordAt ent 5 &&& maskOf 63 63, 0, 0])
    setFbState s n e esFallow
  else wrEntry s (aEntry n e 0) ent

/-- A write to word 0 of FBK_ENTRY_WIN. -/
def entryCommit (s : State) (path n e : Nat) (v : Word) : WrRes :=
  if !clusterUp s n then ⟨s, .access⟩
  else commitEntry s path (aEntry n e 0) fbkFields v (fun s x => entryRefusal s n e x)
    (fun s x => entryAccept s n e x) (fun s code => tilReport s n e code)

/-- FBK_ENTRY_COMMIT (R167). -/
def execFbkEntryCommit (path stack entry : Nat) (value : Word) (s : State) : Answer :=
  .next (mgApply s (aEntry stack entry 0) value fun s => entryCommit s path stack entry value)

/-! ## The HBM window (R163) -/

/-- The entries, not FREE, whose region holds a stack offset. -/
def entriesAt (s : State) (n off : Nat) : List Nat :=
  (entriesOf s n).filter fun e =>
    let x := fbAt s n e
    meets off 1 (regionBase x) (regionBytes x)

/-- Management address of a stack offset (R437). -/
def aHbm (n off : Nat) : Nat := 0x0100_0000_0000 + 0x0010_0000_0000 * n + off

/-- A window write of one word. -/
def hbmWindowWrite (s : State) (n off : Nat) (v : Word) : WrRes :=
  let base := off / 8 * 8
  if !clusterUp s n || userArea ≤ base || (entriesAt s n base).any fun e => fbState s n e != esFallow then
    ⟨s, .access⟩
  else ⟨hbmWrite s n base (leBytes 8 v.toNat), .ok⟩

/-- HBM_WINDOW_WRITE (R163). -/
def execHbmWindowWrite (_path stack offset : Nat) (value : Word) (s : State) : Answer :=
  .next (mgApply s (aHbm stack offset) value fun s => hbmWindowWrite s stack offset value)

/-! ## Hyperparameter blocks (R170, R171) -/

def hypFields (w : Nat) : List RField :=
  match w with
  | 0 | 1 | 2 | 5 | 6 | 7 => [ro 63 32, ro 31 0]
  | 3 => [ro 63 32, rsv 31 3, ro 2 2, ro 1 1, ro 0 0]
  | 4 => [ro 63 32, rsv 31 0]
  | 11 => [rw 63 32, rsv 31 3, rw 2 2, rw 1 1, rw 0 0]
  | 12 => [rw 63 32, rsv 31 0]
  | _ => [rw 63 32, rw 31 0]

/-- An FP32 code that is neither a NaN nor an infinity. -/
def fp32Finite (c : Nat) : Bool := c / 2 ^ 23 % 256 != 255

/-- Every FP32 field of the PENDING half is finite. -/
def pendingFinite (s : State) (n h : Nat) : Bool :=
  [(8, 63, 32), (8, 31, 0), (9, 63, 32), (9, 31, 0), (10, 63, 32), (10, 31, 0), (11, 63, 32),
    (13, 63, 32), (13, 31, 0), (14, 63, 32), (14, 31, 0), (15, 63, 32), (15, 31, 0)].all fun f =>
      fp32Finite (rdf s (aHyp n h f.1) f.2.1 f.2.2)

/-- A write to a word of a block. -/
def hypWrite (s : State) (path n h w : Nat) (v : Word) : WrRes :=
  if !clusterUp s n then ⟨s, .access⟩
  else
    let s := regWrite s path (aHyp n h w) (hypFields w) v
    if w = 11 && bitOf v 2 then
      if pendingFinite s n h then ⟨wrf s (aTilStat n) 63 56 0, .ok⟩
      else ⟨wrf (wrf s (aHyp n h 11) 2 2 0) (aTilStat n) 63 56 rcIllegalHyp, .refused rcIllegalHyp⟩
    else ⟨s, .ok⟩

/-- HYP_ARM (R171): a write to word 11. -/
def execHypArm (path stack block : Nat) (value : Word) (s : State) : Answer :=
  .next (mgApply s (aHyp stack block 11) value fun s => hypWrite s path stack block 11 value)

/-! ## Passes -/

/-- PASS_START (R185, R171, R190). -/
def execPassStart (stack : Nat) (s : State) : Answer :=
  if (runningPass s stack).isSome then .next s
  else
    match (passesOf s stack).find? fun p => !passHeld s stack p.plot with
    | none => .next s
    | some p =>
      let es := passEntries s stack p.plot
      let s1 := forAll (copyHyper · stack p.step) s ((es.map fun e => (fbAt s stack e).hyp).eraseDups)
      let s2 := forAll (fun s e => retireOlder s stack e) s1 es
      let s3 := setPasses s2 stack
        ({ p with started := true, left := es } :: (passesOf s2 stack).erase p)
      .next (settle (nextEntry s3 stack))

/-- TILLER_GROUP_COMPLETE: words of the pass read that belong to the group (R199, R200). -/
def groupReads (s : State) (n : Nat) (x : Fb) (k : Nat) (bad : List BadRead) : List BadRead :=
  let sp := groupSpan x k
  let words := (bad.filter fun b =>
      b.ecc != .clean && decide (sp.1 ≤ b.elem ∧ b.elem < sp.1 + sp.2) && (match b.arr with
        | .bin | .master => true
        | .remainder => x.layoutB
        | .m1 => readsM1 s n x
        | .m2 => readsM2 s n x
        | _ => false)).map fun b =>
    { b with elem := b.elem / (32 / stateWidth x) * (32 / stateWidth x) }
  words.eraseDups

/-- The elements of the words that hold given first elements. -/
def wordElems (x : Fb) (bad : List BadRead) : List Nat :=
  bad.flatMap fun b => (List.range (32 / stateWidth x)).map (b.elem + ·)

/-- TILLER_GROUP_COMPLETE: count the words and note the faults. -/
def noteReads (s : State) (n e plot : Nat) (bad : List BadRead) : State :=
  let ce := (bad.filter fun b => b.ecc == .corrected).length
  let ue := bad.filter fun b => b.ecc == .uncorrectable
  let s := if ce = 0 then s else count s 8 n 1 ce
  let s := if ue = [] then s else count s 8 n 2 ue.length
  let s := forAll (fun s _ => event s 0x0B06 srcStack n { detail := e }) s
    (ue.filter fun b => b.arr == .bin)
  let s := if ue.any fun b => b.arr == .bin then noteCommit s plot 3 else s
  let x := fbAt s n e
  let s := forAll (fun s b => loseWord s n (arrayAddr x b.arr b.elem)) s (ue.filter fun b => b.arr != .bin)
  if ue.any fun b => b.arr != .bin then modPass s n fun p => { p with lost := true } else s

/-- TILLER_GROUP_COMPLETE: a group whose results agree is stored, and its slot image encoded (R180,
R181, R186). -/
def storeGroup (s : State) (n e : Nat) (p : Pass) (x : Fb) (faults : GroupFaults) : State :=
  let k := p.groupsDone
  let acc := passGroup s n x (entryHyper s n x) faults p.updMax p.amax k
  let enc := encodeGroup acc.st n x (x.version + 1) (passCode' p x) k
  let sat := (stickyOr enc.2).testBit 2
  let s := wrf enc.1 (aEntry n e 3) 7 0
    (rdf enc.1 (aEntry n e 3) 7 0 ||| cvtOf (stickyOr acc.ops) ||| cvtOf (stickyOr enc.2))
  let fp8 := isFp8 x
  let each := (acc.ops.zip enc.2).map fun q =>
    cvtOf (q.1 ||| (if fp8 then q.2 &&& (255 - satFlag) else q.2))
  let s := countFlags s n each
  modPass s n fun p =>
    { p with
      updMax := acc.upd, amax := acc.amax,
      again := if fp8 && sat && !p.again.contains x.tensor then p.again ++ [x.tensor] else p.again,
      satOps := if (stickyOr acc.ops).testBit 2 then p.satOps ++ [e] else p.satOps }

/-- TILLER_GROUP_COMPLETE (R186, R198 to R200): the next group of the entry in progress. -/
def execTillerGroupComplete (stack tiller : Nat) (check : PairCheck) (bad : List BadRead) (s : State) :
    Answer :=
  let s1 := beginEntry s stack
  match runningPass s1 stack with
  | none => .next s
  | some p =>
    match p.left with
    | [] => .next s
    | e :: _ =>
      let x := fbAt s1 stack e
      if !p.begun || p.second.isSome || !tillerUp s1 stack tiller || groupTotal x ≤ p.groupsDone then
        .next s
      else
        let reads := groupReads s1 stack x p.groupsDone bad
        let ue := reads.filter fun b => b.ecc == .uncorrectable
        let faults : GroupFaults :=
          ⟨wordElems x (ue.filter fun b => b.arr == .bin), wordElems x (ue.filter fun b => b.arr != .bin)⟩
        let s2 := noteReads s1 stack e p.plot reads
        let split := check == .split || (check == .outvoted && (tillersUp s1 stack).length < 2)
        let s3 :=
          if split then
            modPass (event s2 0x0B04 srcStack stack {}) stack fun p => { p with lost := true }
          else storeGroup s2 stack e p x faults
        let s4 := modPass s3 stack fun p => { p with groupsDone := p.groupsDone + 1 }
        let s5 := if check = .agree then s4 else strikeTiller s4 (16 * stack + tiller)
        .next (settle s5)

/-- ENTRY_PASS_DONE (R186, R192, R209, R222): the entry's last group is stored. -/
def execEntryPassDone (stack : Nat) (s : State) : Answer :=
  let n := stack
  match runningPass s n with
  | none => .next s
  | some p =>
    match p.left with
    | [] => .next s
    | e :: rest =>
      let x := fbAt s n e
      if !p.begun || p.second.isSome || p.groupsDone ≠ groupTotal x then .next s
      else
        let s := judgeDormant s n e
        let s := setBinStep (clearStats (freeStepRecords s n e p.step) n e) n e (p.step + 1)
        let w := vrdWork s p.plot
        let s := setVrdWork s p.plot
          { w with updMax := Nat.max w.updMax p.updMax, amaxMaster := Nat.max w.amaxMaster p.amax }
        let s := if p.lost then
            entryLost (noteCommit s p.plot 4) n e
          else s
        let fp8 := isFp8 x
        let s := modPass s n fun p =>
          { p with
            left := rest, begun := false,
            deferred := if fp8 then tins p.deferred e (p.amax + 1) else p.deferred }
        let s :=
          if !fp8 then advanceVersion s n e p.step 0x7F p.amax
          else if fp8Of s n x.tensor rest ≠ [] then s
          else if p.again.contains x.tensor then modPass s n fun p => { p with second := some x.tensor }
          else finishTensor s n x.tensor
        .next (settle (nextEntry s n))

/-- SECOND_ENCODING_END: one entry's slot encoded again at the new code. -/
def reencodeEntry (n code : Nat) (p : Pass) (s : State) (e : Nat) : State :=
  let x := fbAt s n e
  if x.state = esFree then s
  else
    let r := encodeSlot s n x (x.version + 1) code
    let old := rdf s (aEntry n e 3) 7 0
    let kept := if p.satOps.contains e then old else old &&& (255 - satFlag)
    let s := wrf r.1 (aEntry n e 3) 7 0 (kept ||| cvtOf (stickyOr r.2))
    countFlags s n (r.2.map fun f => f &&& satFlag)

/-- SECOND_ENCODING_END (R222). -/
def execSecondEncodingEnd (stack : Nat) (s : State) : Answer :=
  let n := stack
  match runningPass s n with
  | none => .next s
  | some p =>
    match p.second with
    | none => .next s
    | some tensor =>
      let mine := p.deferred.filter fun kv => (fbAt s n kv.1).tensor == tensor
      let a := (mine.map fun kv => kv.2 - 1).foldl Nat.max 0
      let fmt := match mine with
        | (e, _) :: _ => (fbAt s n e).sownFmt
        | [] => 0x06
      let code := scaleCodeFor fmt a 1
      let s := forAll (reencodeEntry n code p) s (mine.map Prod.fst)
      let s := noteCommit (count s 8 n 3 1) p.plot 5
      let s := modPass s n fun p =>
        { p with codes := tset 0 p.codes tensor (code + 1), again := p.again.filter (· != tensor) }
      .next (settle (nextEntry (finishTensor s n tensor) n))

/-- SOW_VERSION_READ_DONE (R190): the instance's hold goes, and a pass that waited proceeds. -/
def execSowVersionReadDone (group seq : Nat) (s : State) : Answer :=
  let key := runKey group seq
  let s1 := { s with stk := { s.stk with slotHolds := s.stk.slotHolds.filter fun h => h.run != key } }
  .next (forAll beginEntry s1 (stacksUp s1))

/-! ## Patrol scrub (R199 to R201) -/

/-- The array of an entry's region that holds a region offset, and the offset within it. -/
def arrayAt (x : Fb) : List StateArray → Nat → Option (StateArray × Nat)
  | [], _ => none
  | a :: rest, off =>
    let size := pageRound (arrayBytes x a x.elems)
    if off < size then (if off < arrayBytes x a x.elems then some (a, off) else none)
    else arrayAt x rest (off - size)

/-- SOWN_REBUILT: the word's elements are encoded again from the master. -/
def rebuildWord (s : State) (n e addr : Nat) : State :=
  let x := fbAt s n e
  let t := (encodeSlot s n x x.version (slotCode x x.version)).1
  event (hbmWrite s n addr (hbmRead t n addr 32)) 0x0B08 srcStack n {}

/-- SOWN_LOST: the version is retired on the entry. -/
def loseOlder (s : State) (n e : Nat) : State := event (retireOlder s n e) 0x0B09 srcStack n {}
def loseCurrent (s : State) (n e : Nat) : State :=
  let k := feKey n e
  let s := { s with stk := { s.stk with curLost := k :: s.stk.curLost.filter (· != k) } }
  event (advRetire s n e (fbAt s n e).version) 0x0B09 srcStack n {}

/-- What R200 does about an uncorrectable word of a slot. -/
def slotWordLost (s : State) (n e slot addr : Nat) : State :=
  let x := fbAt s n e
  if x.version % 2 = slot then
    if inRunning s n e then loseCurrent s n e else rebuildWord s n e addr
  else if x.olderHeld then loseOlder s n e else s

/-- What R200 does about an uncorrectable word that scrub finds at a stack offset. -/
def scrubLost (s : State) (n addr : Nat) : State :=
  match entriesAt s n addr with
  | [] => s
  | e :: _ =>
    let x := fbAt s n e
    match arrayAt x arrayOrder (addr - regionBase x) with
    | some (.slot0, _) => slotWordLost s n e 0 addr
    | some (.slot1, _) => slotWordLost s n e 1 addr
    | some (.bin, _) | none => s
    | some _ => entryLost (loseWord s n addr) n e

/-- PATROL_SCRUB (R201): the next 256-bit word. -/
def execPatrolScrub (stack : Nat) (ecc : Ecc) (s : State) : Answer :=
  let addr := tget 0 s.stk.scrubAt stack
  let s := { s with stk := { s.stk with scrubAt := tset 0 s.stk.scrubAt stack ((addr + 32) % 2 ^ 36) } }
  match ecc with
  | .clean => .next s
  | .corrected => .next (count s 8 stack 1 1)
  | .uncorrectable => .next (settle (scrubLost (count s 8 stack 2 1) stack addr))

/-! ## TIL_CMD (R194 to R197) -/

/-- ACTIVATE: AMAX_MASTER is 0 afterwards (R221). -/
def activateEntry (s : State) (n e : Nat) : State :=
  let s := setFbState s n e esActive
  let s := setBinStep s n e (plotStep s (fbAt s n e).plot)
  let s := wrf (wrf (clearStats s n e) (aEntry n e 5) 60 60 0) (aEntry n e 7) 31 0 0
  if tillersUp s n = [] then fallowEntry s n e else s

/-- RELEASE_VERSION (R191). -/
def releaseCommand (s : State) (n plot : Nat) : State × Nat :=
  let tensor := rdf s (aTilArg n) 63 33
  let v := rdf s (aTilArg n) 31 0
  let es := (entriesOf s n).filter fun e =>
    let x := fbAt s n e
    x.plot == plot && x.tensor == tensor && (x.state == esActive || x.state == esFallow)
  if !es.any fun e => fbState s n e == esActive then (s, 0)
  else if es.any fun e => (fbAt s n e).version == v then (s, rcVersionCurrent)
  else if es.any fun e => !((fbAt s n e).olderHeld && v + 1 == (fbAt s n e).version) then (s, rcNotHeld)
  else (forAll (fun s e => retireOlder s n e) s es, 0)

/-- A command: the state and its code. -/
def tilCommand (s : State) (n op plot e : Nat) : State × Nat :=
  let st := fbState s n e
  let k := 4096 * n + plot
  let r : State × Nat := match op with
    | 1 => if st = esFallow then (settle (activateEntry s n e), 0) else (s, rcEntryBusy)
    | 2 => if st = esActive then (settle (askFallow s n e), 0) else (s, rcEntryBusy)
    | 3 => if st = esFallow then (freeEntry s n e, 0) else (s, rcEntryBusy)
    | 4 => releaseCommand s n plot
    | 5 => ({ s with stk := { s.stk with held := k :: s.stk.held.filter (· != k) } }, 0)
    | 6 => ({ s with stk := { s.stk with held := s.stk.held.filter (· != k) } }, 0)
    | 7 =>
      if st ≠ esActive ∧ st ≠ esFallow then (s, rcEntryBusy)
      else if inRunning s n e then
        ({ s with stk := { s.stk with
            rebuildDue := feKey n e :: s.stk.rebuildDue.filter (· != feKey n e) } }, 0)
      else (rebuildSown s n e, 0)
    | _ => (s, 0)
  let named := op = 4 || op = 5 || op = 6
  (tilReport r.1 n (if named then rdf s (aTilStat n) 14 0 else e) r.2, r.2)

def tilCmdFields : List RField :=
  [⟨63, 60, .wo, fun w => 1 ≤ bitsOf w 63 60 && bitsOf w 63 60 ≤ 8⟩, wo 59 48, wo 47 33, rsv 32 0]

/-- A write to TIL_CMD. -/
def tilCmdWrite (s : State) (path n : Nat) (v : Word) : WrRes :=
  if !clusterUp s n then ⟨s, .access⟩
  else cmdWrite s path (aTilCmd n) tilCmdFields v fun s =>
    tilCommand s n (bitsOf v 63 60) (bitsOf v 59 48) (bitsOf v 47 33)

def tilCmdWord (op plot e : Nat) : Word := bitsAt 63 60 op ||| bitsAt 59 48 plot ||| bitsAt 47 33 e

def tilRow (s : State) (path n op plot e : Nat) : State :=
  mgApply s (aTilCmd n) (tilCmdWord op plot e) fun s => tilCmdWrite s path n (tilCmdWord op plot e)

def execEntryActivate (path stack entry : Nat) (s : State) : Answer := .next (tilRow s path stack 1 0 entry)
def execEntryFallow (path stack entry : Nat) (s : State) : Answer := .next (tilRow s path stack 2 0 entry)
def execEntryFree (path stack entry : Nat) (s : State) : Answer := .next (tilRow s path stack 3 0 entry)
def execReleaseVersion (path stack plot : Nat) (s : State) : Answer := .next (tilRow s path stack 4 plot 0)
def execPassHold (path stack plot : Nat) (s : State) : Answer := .next (tilRow s path stack 5 plot 0)
def execPassRelease (path stack plot : Nat) (s : State) : Answer := .next (tilRow s path stack 6 plot 0)
def execRebuildSown (path stack entry : Nat) (s : State) : Answer := .next (tilRow s path stack 7 0 entry)
def execEntryQuery (path stack entry : Nat) (s : State) : Answer := .next (tilRow s path stack 8 0 entry)

/-- TIL_STAT as read (R196). -/
def tilStatWord (s : State) (n : Nat) : Word :=
  let last := rd s (aTilStat n) ||| bitsAt 25 21 (tillersUp s n).length
  match runningPass s n with
  | some p =>
    let e := p.left.headD 0
    let waits := !p.begun && p.second.isNone && p.left != [] && slotHeld s n e
    last ||| bitsAt 55 53 (if waits then 2 else 1) ||| bitsAt 52 41 p.plot ||| bitsAt 40 26 e
  | none =>
    match passesOf s n with
    | p :: _ => if passHeld s n p.plot then last ||| bitsAt 55 53 3 ||| bitsAt 52 41 p.plot else last
    | [] => last

def tilCfgFields : List RField := [rsv 63 24, rwIf 23 16 (1 ≤ ·), rw 15 0]
def tilArgFields : List RField := [rw 63 33, rsv 32 32, rw 31 0]

end Sys2Proof.Machine
end

