-- ==== Sys2Proof/Machine/AdvanceRows.lean ====
section
/-! DEFINITION. Advance sowing: what the hub fetches and when (R231 to R235), and BND_ADV_PLOT (R236). -/

namespace Sys2Proof.Machine

/-- The plot waits at the cluster (R231). -/
def plotWaits (s : State) (n plot : Nat) : Bool :=
  (liveRuns s).any fun r =>
    let g := groupAt s r.group
    g.owner == n && g.plot == plot && r.state == .opened &&
      (if g.gkind == gkSowVersion then
        let need := (List.range g.members).filter fun i => contributes (memberN s g i)
        r.requests != [] && decide (r.requests.length < need.length)
      else r.chunks.any fun kv =>
        kv.1 < 2 ^ 24 && kv.2.stage == .gathering && kv.2.contribs.any Contrib.done)

/-- Candidates in the order of the walk: the next DEPTH plan positions after CURSOR (R232). -/
def advCandidates (s : State) (n plot : Nat) : List Nat :=
  let es := (entriesOf s n).filter fun e =>
    let x := fbAt s n e
    x.plot == plot && x.state == esActive
  let c := advCursor s n plot
  let ahead := fun e => advAhead c (fbAt s n e).planPos
  let near := (sortNats (es.map ahead).eraseDups).take (advDepth s n plot)
  sortBy (fun a b =>
    if ahead a ≠ ahead b then decide (ahead a < ahead b) else passBefore (fbAt s n a) (fbAt s n b))
    (es.filter fun e => near.contains (ahead e))

/-- Pieces of an entry's slot that have been fetched into its current copy. -/
def advFetched (s : State) (n e : Nat) : Nat :=
  match s.adv.find? (isCopy n e (fbAt s n e).version) with
  | some c => c.fetched
  | none => 0

def advPieces (x : Fb) : Nat := ceilDiv (slotBytes x) advPiece

/-- The entry whose slot is fetched next: none when every candidate is held, or the walk stops at an
entry that a pass has not finished (R232). -/
def advNext (s : State) (n plot : Nat) : Option Nat :=
  match (advCandidates s n plot).find? fun e => advFetched s n e < advPieces (fbAt s n e) with
  | none => none
  | some e => if entryUnfinished s n e then none else some e

/-- The conditions of R231. -/
def advMay (s : State) (n plot : Nat) : Bool :=
  clusterUp s n && advEn s n plot && plotWaits s n plot
    && decide (((s.adv.filter fun c => c.cluster == n && c.plot == plot).map fun c => c.bufs.length).sum
      < 4 * advLimit s n plot)

/-- Add a piece to the entry's copy. -/
def addPiece (s : State) (n plot e v i : Nat) (buf : Option Nat) (done : Nat) : State :=
  let old := s.adv.find? (isCopy n e v)
  let c : AdvCopy := old.getD ⟨n, plot, e, v, [], 0⟩
  let c' : AdvCopy :=
    { c with
      fetched := done
      bufs := match buf with
        | some b => tins c.bufs i b
        | none => c.bufs }
  { s with adv := (s.adv.filter fun d => !isCopy n e v d) ++ [c'] }

/-- ADVANCE_FETCH: one piece of the next slot. -/
def execAdvanceFetch (cluster : Nat) (plot : Nat) (ecc : Ecc) (s : State) : Answer :=
  let n := cluster
  if !advMay s n plot then .next s
  else
    match advNext s n plot with
    | none => .next s
    | some e =>
      let x := fbAt s n e
      let i := advFetched s n e
      let at' := slotBase x x.version + i * advPiece
      if ecc = .uncorrectable then
        .next (addPiece (rebuildWord (count s 8 n 2 1) n e at') n plot e x.version i none (advPieces x))
      else
        let s := if ecc = .corrected then count s 8 n 1 1 else s
        match csFreeAtLeast s n 2 1 with
        | none => .next (count s 6 (8 + n) 1 1)
        | some b =>
          let m := pieceBytes (slotBytes x) i
          let s := if 1 < csClass b then count s 6 (8 + n) 0 1 else s
          let s := fillBufs (claim s (some n) b (ownHub n) plot 0) (some n) advPiece [b]
            (hbmRead s n at' m)
          .next (showHeld (count (addPiece s n plot e x.version i (some b) (i + 1)) 5 n 26 m) n plot)

/-- Copies of a plot, those furthest ahead first. -/
def furthestFirst (s : State) (n plot : Nat) : List AdvCopy :=
  let c := advCursor s n plot
  sortBy (fun a b =>
    decide (advAhead c (fbAt s n b.entry).planPos ≤ advAhead c (fbAt s n a.entry).planPos))
    (s.adv.filter fun d => d.cluster == n && d.plot == plot)

/-- Discard copies until what is held is within LIMIT_64K (R234). -/
def trimCopies (s : State) (n plot : Nat) : State :=
  forAll (fun s (d : AdvCopy) =>
    if advLimit s n plot < advHeld s n plot then advDiscard s (isCopy n d.entry d.version) else s) s
    (furthestFirst s n plot)

/-- Fields of BND_ADV_PLOT: a LIMIT_64K that would exceed the plot's share is out of range. -/
def advFields (s : State) (n plot : Nat) : List RField :=
  let old := advLimit s n plot
  let rest := plotClaims s plot n 65536 - 16 * old
  [rw 63 63, rwIf 62 59 (1 ≤ ·),
    rwIf 58 47 (fun v => 1 ≤ v && v ≤ 128
      && (v == old || decide (rest + 16 * v ≤ plotShare s plot))),
    ro 46 35, rsv 34 32, ro 31 16, ro 15 0]

/-- NEXT as read. -/
def advNextPos (s : State) (n plot : Nat) : Nat :=
  if advMay s n plot then
    match advNext s n plot with
    | some e => (fbAt s n e).planPos
    | none => 0xFFFF
  else 0xFFFF

def advPlotWord (s : State) (n plot : Nat) : Word := putBits (rd s (aAdv n plot)) 15 0 (advNextPos s n plot)

/-- A write to BND_ADV_PLOT. -/
def advPlotWrite (s : State) (path n plot : Nat) (v : Word) : WrRes :=
  if !clusterUp s n then ⟨s, .access⟩
  else
    let s := regWrite s path (aAdv n plot) (advFields s n plot) v
    if !advEn s n plot then ⟨advDiscard s fun c => c.cluster == n && c.plot == plot, .ok⟩
    else ⟨trimCopies s n plot, .ok⟩

/-- ADV_PLOT_WRITE (R234, R236). -/
def execAdvPlotWrite (path cluster plot : Nat) (value : Word) (s : State) : Answer :=
  .next (mgApply s (aAdv cluster plot) value fun s => advPlotWrite s path cluster plot value)

end Sys2Proof.Machine
end

