-- ==== Sys2Proof/Machine/Drills.lean ====
section
/-! DEFINITION. Ends of core runs (R26, R368 to R375), the watches of R352 and R354, and what refresh and
die-to-die retries add to a watched chunk. -/

namespace Sys2Proof.Machine

/-- What a run delivered in place of its own result: the values are those the bytes spell. -/
def wrongOut (d : Option ChunkDef) (out : ChunkOut) (bytes : List Byte) : ChunkOut :=
  match d with
  | some d =>
    if d.toBin then
      { out with values := (decodeElems (.flt (nodeFmtOf d.inFmt)) d.elems bytes).map Prod.fst }
    else { out with bytes := padTo out.bytes.length bytes }
  | none => out

/-- The result entry of a run (R370 to R372). -/
def runResult (s : State) (r : Run) (g : Group) (k u cycles : Nat) (fault : RunFault) : RunResult :=
  let out := runOut' s r g k
  let d := chunkDef s r g k
  match fault with
  | .wrong bs => ⟨u, wrongOut d out bs, cycles, none⟩
  | .residue bs =>
    if residueChecked g then ⟨u, wrongOut d out bs, cycles, some 3⟩ else ⟨u, out, cycles, none⟩
  | .rounding bs =>
    if residueChecked g then ⟨u, wrongOut d out bs, cycles, some 4⟩ else ⟨u, out, cycles, none⟩
  | .output => ⟨u, out, cycles, some 6⟩
  | _ => ⟨u, out, cycles, none⟩

/-- A run of chunk k has ended on core u. -/
def endRun (s : State) (u key k role cycles : Nat) (fault : RunFault) : State :=
  match runOf s key with
  | none => s
  | some r =>
    let g := groupAt s r.group
    let c := chunkOf r k
    let mine := if role = 2 then c.stage == .judging && c.judge == some u
      else c.stage == .running && c.cores.contains u
    if !mine then s
    else
      let prog := programNo s g
      let elems := elemsOfChunk g k
      let inputs := c.contribs.length
      let before := tget 0 s.cores.migrated u
      let s := { s with cores := { s.cores with migrated := tset 0 s.cores.migrated u 0 } }
      let s := noteCycles s u prog elems inputs cycles
      let s := if before = 0 then watchRun s u r.group prog elems inputs cycles else s
      let x := runResult s r g k u (Nat.min cycleCap (cycles + (before - 1))) fault
      if fault == .input then chunkFailed s key k cfInput
      else if role = 2 then judgeChunk s key k x
      else
        let c' := { c with results := c.results ++ [x] }
        let s := setChunk s key k c'
        if c'.results.length < c'.cores.length then s else compareChunk s key k

/-- A core under retirement that has ended its run before another took it over holds no work (R377). -/
def retireIfDone (s : State) (u : Nat) : State :=
  if coreState s u = csFallow ∧ (jobOf s u).isNone ∧ retireMark s u ≠ 0 ∧ retireMark s u ≠ timedOutMark then
    finishRetire s u
  else s

/-- DRILL_RUN_END: the core's run ends after a number of cycles. -/
def execDrillRunEnd (cluster core cycles : Nat) (fault : RunFault) (s : State) : Answer :=
  let u := 9 * cluster + core
  match jobOf s u with
  | some (.run key k role) =>
    .next (settle (retireIfDone (endRun (setJob s u []) u key k role cycles fault) u))
  | _ => .next s

/-- NO_JUDGE_TIMEOUT (R373): no core became free for the replay. -/
def execNoJudgeTimeout (group seq chunk : Nat) (s : State) : Answer :=
  let key := runKey group seq
  match runOf s key with
  | none => .next s
  | some r =>
    let c := chunkOf r chunk
    if c.stage == .judging && c.judge.isNone then .next (settle (chunkFailed s key chunk cfNoJudge))
    else .next s

/-! ## Watches -/

/-- A write to DRL_WATCH clears MIN, MAX and RUNS (R353). -/
def drillWatchSet (s : State) (path u : Nat) (v : Word) : WrRes :=
  if !clusterUp s (u / 9) then ⟨s, .access⟩
  else
    let s := regWrite s path (aDrl u 8) [rw 63 52, rw 51 35, rw 34 25, rsv 24 0] v
    ⟨wr (wr s (aDrl u 0x10) 0) (aDrl u 0x18) 0, .ok⟩

/-- DRILL_WATCH_WRITE. -/
def execDrillWatchWrite (path cluster core : Nat) (value : Word) (s : State) : Answer :=
  .next (mgApply s (aDrl (9 * cluster + core) 8) value fun s =>
    drillWatchSet s path (9 * cluster + core) value)

/-- A write to BND_HUB_WATCH starts RUNS afresh (R354). -/
def hubWatchSet (s : State) (path n : Nat) (v : Word) : WrRes :=
  if !clusterUp s n then ⟨s, .access⟩
  else
    let s := regWrite s path (aHubWatch n) [rw 63 48, rsv 47 24, rw 23 0] v
    ⟨wrf s (aHubTime n) 13 0 0, .ok⟩

/-- HUB_WATCH_WRITE. -/
def execHubWatchWrite (path cluster : Nat) (value : Word) (s : State) : Answer :=
  .next (mgApply s (aHubWatch cluster) value fun s => hubWatchSet s path cluster value)

/-- The watched chunk of cluster n is between ready and placed (R354). -/
def watchOpen (s : State) (n : Nat) : Bool :=
  (liveRuns s).any fun r =>
    r.group == rdf s (aHubWatch n) 63 48 && (groupAt s r.group).owner == n
      && (let st := (chunkOf r (rdf s (aHubWatch n) 23 0)).stage
          st == .ready || st == .running || st == .judging || st == .checked)

/-- HBM_REFRESH (R27, R354): a refresh stall of stack n. -/
def execHbmRefresh (stack : Nat) (s : State) : Answer :=
  .next (if watchOpen s stack then
      { s with cores := { s.cores with stalls := tmod 0 s.cores.stalls stack (· + 1) } }
    else s)

/-- D2D_RETRY (R27, R354): a link-level retry of die-to-die link n. -/
def execD2dRetry (stack : Nat) (s : State) : Answer :=
  .next (if watchOpen s stack then
      { s with cores := { s.cores with retries := tmod 0 s.cores.retries stack (· + 1) } }
    else s)

end Sys2Proof.Machine
end

