-- ==== Sys2Proof/Machine/Journal.lean ====
section
/-! DEFINITION. The boot journal and the fault ledger as the flashes hold them (R378 to R380, R403, R405). -/

namespace Sys2Proof.Machine

/-! ## Records -/

def jkStart : Nat := 1
def jkStepBegin : Nat := 2
def jkStepEnd : Nat := 3
def jkUnit : Nat := 4
def jkHalt : Nat := 5
def jkReady : Nat := 6
def jkSvn : Nat := 7

/-- Result codes of R404. -/
def jrOk : Nat := 0x00
def jrTimeout : Nat := 0x01
def jrStrapParity : Nat := 0x02
def jrStrapIllegal : Nat := 0x03
def jrRomCheck : Nat := 0x04
def jrSigInvalid : Nat := 0x05
def jrSvnLow : Nat := 0x06
def jrFlashCrc : Nat := 0x07
def jrFormat : Nat := 0x08
def jrWrongPart : Nat := 0x09
def jrSectionDigest : Nat := 0x0A
def jrPllLock : Nat := 0x0B
def jrTrainFail : Nat := 0x0C
def jrBistFail : Nat := 0x0D
def jrCalFail : Nat := 0x0E
def jrTableInvalid : Nat := 0x0F
def jrNoPosition : Nat := 0x10
def jrSliceFailed : Nat := 0x11
def jrStartLimit : Nat := 0x12
def jrOwnerKey : Nat := 0x13

def recSeq (r : List Word) : Nat := bitsOf (wordAt r 3) 63 32
def recKind (r : List Word) : Nat := bitsOf (wordAt r 0) 63 60
def recStep (r : List Word) : Nat := bitsOf (wordAt r 0) 59 56
def jrResultOf (r : List Word) : Nat := bitsOf (wordAt r 0) 55 48
def recUnit (r : List Word) : Nat := bitsOf (wordAt r 0) 47 32
def recDetail (r : List Word) : Nat := (wordAt r 2).toNat

def nextSeq (rs : List (List Word)) : Nat := (rs.map recSeq).foldl Nat.max 0 + 1

/-- Records of the journal's ring. -/
def ringSize : Nat := 32768

/-- Append a journal record and begin its write: the sector ahead is erased as the head enters it. -/
def journal (s : State) (kind step result unit detail : Nat) : State :=
  let seq := nextSeq s.boot.journal
  let w0 := bitsAt 63 60 kind ||| bitsAt 59 56 step ||| bitsAt 55 48 result ||| bitsAt 47 32 unit
    ||| bitsAt 31 0 s.boot.starts
  let r := sealRecord w0 (BitVec.ofNat 64 (Config.powerUs s.picks)) (BitVec.ofNat 64 detail) seq
  let i := (seq - 1) % ringSize
  let s := { s with picks := s.picks + 1, boot := { s.boot with journal := s.boot.journal ++ [r] } }
  pushFlash s ⟨0, bootBase + 32 * i, leOfWords r, i % 2048 == 0, .journal⟩

/-! ## Reading the flashes -/

/-- A record whose CRC holds (R378, R403). -/
def goodRecord (r : List Word) : Bool :=
  bitsOf (wordAt r 3) 31 0 == crc32c (leOfWords [wordAt r 0, wordAt r 1, wordAt r 2] ++ leBytes 4 (recSeq r))

/-- The record numbers of a region of which some byte has been written. -/
def writtenRecords (m : Memory) (base bytes : Nat) : List Nat :=
  ((m.filter fun c => decide (base ≤ c.1) && decide (c.1 < base + bytes)).map fun c => (c.1 - base) / 32).eraseDups

/-- The records of a region with a good CRC. -/
def recordsAt (m : Memory) (base bytes : Nat) : List (List Word) :=
  ((writtenRecords m base bytes).map fun i =>
    wordsOfLe 4 (readBytes flashFill m (base + 32 * i) 32)).filter goodRecord

/-- The union of both flashes' good records, ordered by SEQ. -/
def unionRecords (s : State) (base bytes : Nat) : List (List Word) :=
  let add := fun (rs : List (List Word)) r => if rs.any fun q => recSeq q == recSeq r then rs else rs ++ [r]
  let rs := (recordsAt s.flashA base bytes ++ recordsAt s.flashB base bytes).foldl add []
  sortBy (fun a b => decide (recSeq a ≤ recSeq b)) rs

def readJournal (s : State) : List (List Word) := unionRecords s bootBase (32 * ringSize)
def readLedger (s : State) : List (List Word) := unionRecords s ledgerBase 0x1_0000

/-- Records from the last START with the cold bit on. -/
def sinceCold : List (List Word) → List (List Word)
  | [] => []
  | r :: rs =>
    if rs.any fun q => recKind q == jkStart && recDetail q % 2 == 1 then sinceCold rs else r :: rs

/-- STARTs that have not reached Ready (R402). -/
def failedOf (rs : List (List Word)) : Nat :=
  (rs.filter fun r => recKind r == jkStart).length - (rs.filter fun r => recKind r == jkReady).length

/-- Failed attempts recorded for a unit at step 7 or 8 since the last cold START (R405). -/
def failuresOf (s : State) (step u : Nat) : Nat :=
  ((sinceCold s.boot.journal).filter fun r =>
    recKind r == jkUnit && recStep r == step && recUnit r == u).length

/-- Records of the last start. -/
def lastStart (rs : List (List Word)) : List (List Word) :=
  match rs with
  | [] => []
  | r :: rest => if rest.any fun q => recKind q == jkStart then lastStart rest else r :: rest

/-! ## The ledger at start-up (R380) -/

/-- The bank that the newest record lies in. -/
def bankInUse (s : State) : Nat :=
  let top := fun (b : Nat) =>
    ((recordsAt s.flashA (ledgerBase + 0x8000 * b) 0x8000 ++ recordsAt s.flashB (ledgerBase + 0x8000 * b) 0x8000).map
      recSeq).foldl Nat.max 0
  if top 0 < top 1 then 1 else 0

/-- For each unit its newest record, and only where that is RETIRE. -/
def newestRetires (rs : List (List Word)) : List (List Word) :=
  rs.filter fun r =>
    let unit := fun (q : List Word) => bitsOf (wordAt q 0) 59 40
    recKind r == 1 && !(rs.any fun q => unit q == unit r && decide (recSeq r < recSeq q))

/-- Rewrite one flash's ledger into the other bank. -/
def rewriteFlash (s : State) (f bank : Nat) (rs : List (List Word)) : State :=
  setFlash s f (writeBytes flashFill (eraseSector (flashOf s f) ledgerBase) (ledgerBase + 0x8000 * bank)
    (rs.flatMap leOfWords))

/-- The ledger as the reeve reads it at step 5; with more than 768 records it is rewritten. -/
def takeLedger (s : State) : State :=
  let rs := readLedger s
  let bank := bankInUse s
  if rs.length ≤ 768 then { s with boot := { s.boot with ledger := rs, ledgerBank := bank } }
  else
    let kept := newestRetires rs
    let s := rewriteFlash (rewriteFlash s 0 (1 - bank) kept) 1 (1 - bank) kept
    { s with boot := { s.boot with ledger := kept, ledgerBank := 1 - bank } }

/-- Units of a kind that the ledger keeps out. -/
def keptOut (s : State) (kind count : Nat) : List Nat := (List.range count).filter (ledgerRetired s kind)

end Sys2Proof.Machine
end

