-- ==== Sys2Proof/Machine/GranaryRows.lean ====
section
/-! DEFINITION. The Granary commands: allocation (R260), clears and their checks (R262, R266), the
Gleaner (R271 to R274) and its registers (R278 to R280). -/

namespace Sys2Proof.Machine

/-! ## Allocation (R260) -/

/-- The round-robin slot of an owner as a requester: its octet, its hub, or the reeve. -/
def whoOf (o : Nat) : Nat :=
  if o < 0x400 then octetOf (o % 0x200)
  else if 0x400 ≤ o ∧ o < 0x40C then whoHub (o - 0x400)
  else 76

/-- The head of an ingress port and furrow waits for a buffer. -/
def waitsForBuffer (s : State) (owner furrow : Nat) : Bool :=
  decide (0x200 ≤ owner ∧ owner < 0x400) &&
    (match waitsOf s (owner - 0x200) furrow with
     | w :: _ => w.why == .buffer
     | [] => false)

/-- Buffers for a request of its own, charged to its plot and furrow; nothing where none is free or
the quota is full. -/
def allocFor (s : State) (st : Store) (owner plot furrow bytes : Nat) : State :=
  match st with
  | some n =>
    match allocStore s n owner plot (bytes / 65536 + 1) bytes with
    | some (s', _) => s'
    | none => s
  | none =>
    match allocChain s (whoOf owner) owner plot furrow (bytes / 16384 + 1) bytes with
    | none => s
    | some (s', bs) =>
      if quotaOk s' plot furrow (unitsOf bs) then
        setChain (chargeQuota s' plot furrow (unitsOf bs)) none bs
      else count s 7 plot 0 1

/-- GRANARY_ALLOC: the waiting packet of the owner, the frames at their source units, or else the
request itself. -/
def execGranaryAlloc (store : Option Nat) (owner plot furrow bytes : Nat) (s : State) : Answer :=
  if store.isNone && waitsForBuffer s owner furrow then .next (drainPort s (owner - 0x200) furrow)
  else if store.isNone && s.fab.atSource != [] then .next (drainSource s.fab.atSource.length s)
  else .next (allocFor s store owner plot furrow bytes)

/-! ## Clears (R262, R266) -/

/-- Plot and furrow that a status word is charged to. -/
def chargedTo (s : State) (st : Store) (p : Nat) : Nat × Nat :=
  (rdf s (statusAddr st p) 61 50, rdf s (statusAddr st p) 49 46)

/-- What the decoder of a buffer's units found (R275). -/
def noteUnit (s : State) (st : Store) (p : Nat) (ecc : Ecc) : State :=
  let m := managerOf st p
  let c := chargedTo s st p
  match ecc with
  | .clean => s
  | .corrected => count s 6 m 12 1
  | .uncorrectable =>
    let s := grnReport s 0x48 m p 0xFFFF c.1 c.2
    let k := bufKey st p
    { s with grn := { s.grn with bad := if s.grn.bad.contains k then s.grn.bad else s.grn.bad ++ [k] } }

/-- A clear as an owner presents it. -/
def presentClear (s : State) (st : Store) (owner p : Nat) (ecc : Ecc) : State :=
  let m := managerOf st p
  match ptrError s st p with
  | some code => grnReport s code m p owner 0xFFF 0
  | none =>
    let c := chargedTo s st p
    match bufState s st p with
    | 0 => grnReport s 0x42 m p owner 0xFFF 0
    | 3 => grnReport s 0x43 m p owner 0xFFF 0
    | _ =>
      if (ownersOf s st p).contains owner then clearOwner (noteUnit s st p ecc) st p owner
      else grnReport s 0x44 m p owner c.1 c.2

/-- OWNER_CLEAR. -/
def execOwnerClear (store : Option Nat) (owner pointer : Nat) (ecc : Ecc) (s : State) : Answer :=
  let s := presentClear s store owner pointer ecc
  .next (drainSource s.fab.atSource.length s)

/-! ## The Gleaner -/

/-- Packets the device holds. -/
def allPkts (s : State) : List Pkt :=
  s.fab.queues.flatMap Prod.snd ++ s.fab.sending.flatMap Prod.snd
    ++ (s.fab.waits.flatMap Prod.snd).map Waiter.pkt ++ s.fab.atSource.map Prod.snd

/-- A result on its way up, whose buffer is a cluster-store one (R268). -/
def fromStore (k : Pkt) : Bool :=
  match k.use with
  | .upResult _ _ _ => true
  | _ => false

/-- A named owner still references the buffer (R271). -/
def referenced (s : State) (st : Store) (p : Nat) : Bool :=
  let chunks := (s.bnd.runs.flatMap Prod.snd).flatMap fun r =>
    r.chunks.map fun kv => ((groupAt s r.group).owner, kv)
  match st with
  | none =>
    (allPkts s).any (fun k => !fromStore k && k.bufs.contains p)
      || (s.fab.leftCopies.flatMap Prod.snd).any (fun c => c.bufs.contains p)
      || chunks.any fun c => 2 ^ 24 ≤ c.2.1 && c.2.2.resultBufs.contains p
  | some n =>
    (allPkts s).any (fun k => fromStore k && k.bufs.contains p)
      || (chunks.any fun c => c.1 == n && decide (c.2.1 < 2 ^ 24)
        && (c.2.2.resultBufs.contains p || (c.2.2.contribs.flatMap Contrib.bufs).contains p))
      || s.bnd.staging.any (fun kv => kv.2.contains p)
      || s.adv.any fun c => c.cluster == n && c.bufs.any fun b => b.2 == p

/-- The buffers that are PRIVATE or SHARED, packet buffers first, each store in address order. -/
def heldBufs (s : State) : List (Store × Nat) :=
  let inUse := fun (w : Word) => bitsOf w 63 62 == bsPrivate || bitsOf w 63 62 == bsShared
  let pk := s.regs.filterMap fun kv =>
    if aBufStatus 0 ≤ kv.1 ∧ kv.1 < aBufStatus (2 ^ 20) ∧ inUse kv.2 then
      let row := (kv.1 - aBufStatus 0) / 8
      let k := (List.range 7).find? fun k =>
        decide (classBaseRow s k ≤ row) && decide (row < classBaseRow s k + classCount s k * 2 ^ k)
      k.map fun k => ((none : Store), bufPtr s k ((row - classBaseRow s k) / 2 ^ k))
    else none
  let cs := s.regs.filterMap fun kv =>
    if 0x4000_0000 ≤ kv.1 ∧ kv.1 < 0x7000_0000 ∧ inUse kv.2 then
      let n := (kv.1 - 0x4000_0000) / 0x0400_0000
      let off := (kv.1 - 0x4000_0000) % 0x0400_0000
      if 0x0130_1000 ≤ off ∧ off < 0x0130_1000 + 8 * 3072 then
        let i := (off - 0x0130_1000) / 8
        some (some n, csPtr n (i / 1024) (i % 1024))
      else none
    else none
  pk ++ cs

def gleanFlag (s : State) (k : Nat) : GleanFlag :=
  (tone s.grn.flags k).getD ⟨false, false, false⟩
def setGleanFlag (s : State) (k : Nat) (x : GleanFlag) : State :=
  let t := tset [] s.grn.flags k (if x = ⟨false, false, false⟩ then [] else [x])
  { s with grn := { s.grn with flags := t } }

/-- Age limit in µs. -/
def ageLimit (s : State) (st : Store) : Nat :=
  1000 * (match st with
    | none => rdf s aGleanCfg 43 24
    | some _ => rdf s aGleanCfg 19 0)

/-- Reclaim a buffer: QUARANTINED until the end of the next pass. -/
def reclaim (s : State) (st : Store) (p : Nat) : State :=
  let c := chargedTo s st p
  let s := grnReport s 0x45 (managerOf st p) p 0xFFFF c.1 c.2
  let s := freeOne s st p
  let s := { s with grn := { s.grn with chains := tset [] s.grn.chains (bufKey st p) [] } }
  if s.grn.bad.contains (bufKey st p) then s
  else setGleanFlag (wr s (statusAddr st p) (bitsAt 63 62 bsQuarantined)) (bufKey st p)
    ⟨false, false, true⟩

/-- Judge one held buffer (R272, R273). -/
def gleanBuf (baseline : Bool) (s : State) (x : Store × Nat) : State :=
  let st := x.1
  let p := x.2
  let k := bufKey st p
  let age := (nowUs s + 2 ^ 32 - rdf s (statusAddr st p) 31 0) % 2 ^ 32
  let s := if 2 ^ 30 ≤ age then setGleanFlag s k { gleanFlag s k with stale := true } else s
  if !((gleanFlag s k).stale || decide (ageLimit s st < age)) then s
  else if referenced s st p then
    if (gleanFlag s k).agedLogged then s
    else
      let c := chargedTo s st p
      setGleanFlag (grnReport s 0x46 (managerOf st p) p 0xFFFF c.1 c.2) k
        { gleanFlag s k with agedLogged := true }
  else if baseline then s
  else reclaim s st p

/-- A free list that fails its check: logged with the manager and class, and rebuilt (R274). -/
def gleanList (s : State) (x : Nat × Nat) : State :=
  let k := 8 * x.1 + x.2
  let s := grnReport s 0x47 x.1 x.2 0xFFFF 0xFFF 0
  { s with grn := { s.grn with rebuilding :=
      if s.grn.rebuilding.contains k then s.grn.rebuilding else s.grn.rebuilding ++ [k] } }

/-- The status address of a buffer key. -/
def keyStatus (k : Nat) : Nat :=
  if 2 ^ 32 ≤ k then statusAddr none (k - 2 ^ 32) else statusAddr (some (csCluster k)) k

/-- Buffers reclaimed in the pass before return to their free lists (R273). -/
def returnReclaimed (s : State) (ks : List Nat) : State :=
  forAll (fun s k => setGleanFlag (wr s (keyStatus k) 0) k ⟨false, false, false⟩) s ks

/-- GLEANER_PASS. -/
def execGleanerPass (badLists : List (Nat × Nat)) (micros : Nat) (s : State) : Answer :=
  if !rdb s aGleanCfg 63 then .next s
  else
    let baseline := s.grn.baselineNext
    let old := (s.grn.flags.filter fun kv => kv.2.any GleanFlag.reclaimed).map Prod.fst
    let s := { s with grn := { s.grn with baselineNext := false } }
    let s := forAll gleanList (wrf s aGleanStat 63 63 (b2n baseline)) badLists
    let s := returnReclaimed (forAll (gleanBuf baseline) s (heldBufs s)) old
    let s := wrf (bump s aGleanStat 61 32 1) aGleanStat 31 0 micros
    .next (drainSource s.fab.atSource.length s)

/-- LIST_REBUILD_END (R274). -/
def execListRebuildEnd (manager cls : Nat) (s : State) : Answer :=
  let s := { s with grn := { s.grn with rebuilding := s.grn.rebuilding.filter (· != 8 * manager + cls) } }
  .next (drainSource s.fab.atSource.length s)

def gleanFields : List RField :=
  [rw 63 63, rwIf 62 47 (fun v => 10 ≤ v && v ≤ 60000), rsv 46 44,
    rwIf 43 24 (fun v => 1 ≤ v && v ≤ 1000000), rsv 23 20, rwIf 19 0 fun v => 1 ≤ v && v ≤ 1000000]

/-- A write to GRN_GLEAN_CFG: the next pass is a baseline pass. -/
def gleanCfgWrite (s : State) (path : Nat) (v : Word) : WrRes :=
  let s := regWrite s path aGleanCfg gleanFields v
  ⟨{ s with grn := { s.grn with baselineNext := true } }, .ok⟩

/-- GLEAN_CFG_WRITE (R274, R278). -/
def execGleanCfgWrite (path : Nat) (value : Word) (s : State) : Answer :=
  .next (mgApply s aGleanCfg value fun s => gleanCfgWrite s path value)

/-- The capture of GRN_ERR is re-armed by a read of its word 1 (R280). -/
def rearmGrnErr (s : State) : State := wrf s (aGrnErr 0) 63 62 0b00

/-- GRN_ERR_READ; the halted device serves no such read (R429). -/
def execGrnErrRead (_path : Nat) (s : State) : Answer :=
  .next (if isHalted s || !mgmtUp s then s else rearmGrnErr s)

/-! ## Derived words -/

/-- Credits granted on all ports (R257, R276): FLOORs of the lossless furrows and the pools. -/
def grantedOf (s : State) : Nat :=
  ((List.range 512).map fun p =>
    (losslessFurrows.map fun f => furFloor s p f).sum + rdf s (aPool p) 31 0).sum

/-- GRN_SHARE as read (R276). -/
def shareWord (s : State) : Word := putBits (rd s aGrnShare) 20 0 (grantedOf s)

/-- GRN_CLASS_k as read (R277). -/
def classWord (s : State) (k : Nat) : Word :=
  let held := (s.regs.filter fun kv =>
    decide (aBufStatus (classBaseRow s k) ≤ kv.1)
      && decide (kv.1 < aBufStatus (classBaseRow s k + classCount s k * 2 ^ k))).length
  putBits (rd s (aGrnClass k)) 25 8 (classCount s k - held)

end Sys2Proof.Machine
end

