-- ==== Sys2Proof/Machine/Scheduler.lean ====
section
/-! DEFINITION. The egress scheduler (R281 to R286), the shapers and policers (R287 to R289, R292 to
R296), the end of a packet at its port (R106, R315) and the writes to their registers (R108, R288,
R290, R295, R296). -/

namespace Sys2Proof.Machine

/-! ## Retry units on the way out (R315) -/

/-- A packet as its blocks carry it: header, payload and trailer, padded to whole blocks (R301). -/
def blocksOf (k : Pkt) : List Byte :=
  padMul 32 (k.hdr.bytes ++ padTo k.hdr.length k.payload
    ++ beBytes 4 (packetCrc k.hdr k.payload) ++ beBytes 4 k.tail)

/-- WINDOW of R326: min(4,095, 256 × active transmit lanes). -/
def retryWindow (s : State) (p : Nat) : Nat := Nat.min 4095 (256 * rdf s (aLinkStat p) 59 55)

/-- Full units of a byte string, numbered from a sequence number; the rest is the unit in progress. -/
def cutUnits : Nat → Nat → List Byte → List Unit' × List Byte
  | 0, _, bs => ([], bs)
  | n + 1, seq, bs =>
    if bs.length < 256 then ([], bs)
    else
      let r := cutUnits n ((seq + 1) % 4096) (bs.drop 256)
      (⟨seq, bs.take 256⟩ :: r.1, r.2)

/-- Append bytes to the stream of unit blocks. -/
def pushUnits (l : Link) (bs : List Byte) : Link :=
  let r := cutUnits (bs.length / 256 + 1) l.txNext (l.part ++ bs)
  { l with window := l.window ++ r.1, part := r.2, txNext := (l.txNext + r.1.length) % 4096 }

/-- A FILL block (R302). -/
def fillBlock : List Byte := 0x55 :: List.replicate 31 0

/-- Complete the unit in progress with FILL (R315). -/
def fillUnit (l : Link) : Link :=
  if l.part = [] then l
  else pushUnits l ((List.replicate (8 - l.part.length / 32) fillBlock).flatten)

/-- Units that would stand unacknowledged once these bytes had left. -/
def unitsAfter (l : Link) (bs : List Byte) : Nat :=
  l.window.length + ceilDiv (l.part.length + bs.length) 256

/-! ## The egress decision (R281 to R286) -/

/-- Furrows in the order tier 1 takes them. -/
def strictFurrows : List Nat := [0, 1, 6]
def fairFurrows : List Nat := [2, 3, 4, 5, 8, 9, 10, 11, 12, 13, 14, 15]
def allFurrows : List Nat := [0, 1, 2, 3, 4, 5, 6, 8, 9, 10, 11, 12, 13, 14, 15]

def commitTok (s : State) (p f : Nat) : Int := signed 25 (rdf s (aSch p f 2) 24 0)
def peakTok (s : State) (p f : Nat) : Int := signed 25 (rdf s (aSch p f 2) 49 25)
def setCommitTok (s : State) (p f : Nat) (v : Int) : State :=
  wrf s (aSch p f 2) 24 0 (unsigned 25 v)
def setPeakTok (s : State) (p f : Nat) (v : Int) : State :=
  wrf s (aSch p f 2) 49 25 (unsigned 25 v)

/-- The head packet of a furrow lacks credits of the partner (R106). -/
def lacksCredit (s : State) (p f : Nat) : Bool :=
  match (queueOf s p f).head? with
  | some k => lossless f && decide (senderCredits s p f < creditsOf k.hdr.length)
  | none => false

/-- The peak bucket holds a head packet back. -/
def lacksPeak (s : State) (p f : Nat) : Bool :=
  queueOf s p f != [] && decide (peakTok s p f ≤ 0)

/-- The head packet of a furrow is eligible (R282). A copy is built when it is queued (R123). -/
def eligible (s : State) (p f : Nat) : Bool :=
  queueOf s p f != [] && portTakes s p f && !lacksCredit s p f && !lacksPeak s p f

/-- The further condition of tiers 1 and 2. -/
def committed (s : State) (p f : Nat) : Bool :=
  rdf s (aSch p f 0) 19 0 != 0 && decide (0 < commitTok s p f)

def headTag (s : State) (p f : Nat) : Nat :=
  match (queueOf s p f).head? with
  | some k => k.tag
  | none => tget 0 s.fab.lastTag (qKey p f)

/-- The furrow of smallest tag; equal tags go to the lower furrow (R285). -/
def smallestTag (s : State) (p : Nat) : List Nat → Option Nat
  | [] => none
  | f :: fs => some (fs.foldl (fun a b => if tagLt (headTag s p b) (headTag s p a) then b else a) f)

/-- The tier and the furrow that the port serves next. -/
def chooseFurrow (s : State) (p : Nat) : Option (Nat × Nat) :=
  match strictFurrows.find? fun f => eligible s p f && committed s p f with
  | some f => some (1, f)
  | none =>
    match smallestTag s p (fairFurrows.filter fun f => eligible s p f && committed s p f) with
    | some f => some (2, f)
    | none => (smallestTag s p (allFurrows.filter (eligible s p))).map fun f => (3, f)

/-- A head passed over for lack of credits: counted, and its epoch counts as stalled (R297, R346). -/
def countStall (s : State) (p f : Nat) : State :=
  setStat (count s 2 (qKey p f) 2 1) p f { statOf s p f with stalledNow := true }

/-- Heads passed over for lack of credits or of peak tokens (R297). -/
def countPassed (s : State) (p : Nat) : State :=
  forAll (fun s f =>
    let s := if lacksCredit s p f then countStall s p f else s
    if lacksPeak s p f then count s 2 (qKey p f) 3 1 else s) s allFurrows

/-- The store a packet's buffers lie in. -/
def pktStore (s : State) (k : Pkt) : Store :=
  match k.use with
  | .upResult key _ _ =>
    if k.hdr.type == tVerdict then none else some (groupAt s (key / 2 ^ 32)).owner
  | _ => none

/-- The instance whose copy a packet is, as the event of R275 names it. -/
def pktRun (k : Pkt) : Nat × Nat :=
  match k.use with
  | .sow key _ _ _ | .upResult key _ _ => (key / 2 ^ 32, key % 2 ^ 32)
  | _ => (0xFFFF, 0xFFFF_FFFF)

/-- What the Granary's ECC finds as a packet's payload is read (R275): an uncorrectable unit makes
the copy leave with a bad-tail mark, reason 0x03. -/
def readPayload (s : State) (p : Nat) (k : Pkt) (ecc : Ecc) : State × Pkt :=
  match k.bufs, ecc with
  | b :: _, .corrected => (count s 6 (managerOf (pktStore s k) b) 12 1, k)
  | b :: _, .uncorrectable =>
    let st := pktStore s k
    let key := bufKey st b
    let s := grnReport s 0x48 (managerOf st b) b 0xFFFF k.hdr.plot k.hdr.furrow (pktRun k).1 (pktRun k).2
    let bad := if s.grn.bad.contains key then s.grn.bad else s.grn.bad ++ [key]
    let s := { s with grn := { s.grn with bad := bad } }
    (countPort s p dcBadTailSent, { k with tail := tailBad 0x03 k.hdr.hop })
  | _, _ => (s, k)

/-- Begin to send the head packet of a furrow (R282, R284, R285, R315). -/
def beginSend (s : State) (p tier f : Nat) (k : Pkt) (rest : List Pkt) (ecc : Ecc) : State :=
  let b := wireBytes k.hdr.length
  let s := if tier = 1 then s else wrf s (aSchPort p) 63 32 k.tag
  let s := tagHead (setQueue s p f rest) p f
  let s := if tier = 3 then s else setCommitTok s p f (commitTok s p f - b)
  let s := setPeakTok s p f (peakTok s p f - b)
  let l := link s p
  let s :=
    if lossless f then
      setLink s p { l with used := tset 0 l.used f ((tget 0 l.used f + creditsOf k.hdr.length) % 2 ^ 16) }
    else s
  let s := count (count s 2 (qKey p f) 1 1) 2 (qKey p f) 8 b
  let s := if tier = 1 then count s 2 (qKey p f) 9 b else s
  let s := if tier = 3 then count s 2 (qKey p f) 10 b else s
  let s := count (count s 0 0 1 b) 0 0 3 1
  let x := statOf s p f
  let s := setStat s p f { x with bytes := x.bytes + b }
  let r := readPayload s p k ecc
  setSending r.1 p [r.2]

/-- The port can begin a packet: it takes traffic, none is leaving, and the retry window is not full
(R281, R315). -/
def canBegin (s : State) (p : Nat) : Bool :=
  portTakes s p 0 && (sendingOn s p).isNone && decide ((link s p).window.length < retryWindow s p)

/-- SCHEDULER_DECISION: with nothing eligible, the unit in progress is completed with FILL. -/
def execSchedulerDecision (port : Nat) (ecc : Ecc) (s : State) : Answer :=
  if !canBegin s port then .next s
  else
    let choice := chooseFurrow s port
    let s := countPassed s port
    match choice with
    | none => .next (setLink s port (fillUnit (link s port)))
    | some (tier, f) =>
      match queueOf s port f with
      | [] => .next s
      | k :: rest => .next (beginSend s port tier f k rest ecc)

/-! ## A packet has gone (R106, R123, R145, R155, R266 to R268) -/

/-- What follows once a packet has left a port, or is discarded there. -/
def pktGone (s : State) (p : Nat) (k : Pkt) (sent : Bool) : State :=
  match k.use with
  | .upResult key c last =>
    if k.hdr.type == tVerdict then
      let s := forAll (fun s b => clearOwner s none b (ownPort p)) s (k.bufs.take 1)
      let s := setChunk s key 0 { Chunk.empty with stage := .placed }
      if sent then progress s key else s
    else if !last then s
    else
      match runOf s key with
      | none => freeBufs s (some (groupAt s (key / 2 ^ 32)).owner) k.bufs
      | some _ => if sent then progress (chunkPlaced s key c) key else chunkPlaced s key c
  | .final key _ => finalGone (releasePkt s p k) key
  | .yieldPart =>
    let s := releasePkt s p k
    { s with yld := { s.yld with partsLeft := s.yld.partsLeft - 1 } }
  | .sow key c i last =>
    if !last then s
    else if sent then
      let old := tget [] s.fab.leftCopies p
      let t := tset [] s.fab.leftCopies p (old ++ [⟨key, c, i, k.bufs⟩])
      { s with fab := { s.fab with leftCopies := t } }
    else tryFinish (releaseHeld (copyOver s key c i) key) key
  | _ =>
    if k.tailSeen then releasePkt s p k else giveBack (freeBufs s none k.bufs) k

/-- Note a data packet whose last retry unit the partner has still to acknowledge (R126). -/
def noteUnacked (s : State) (p dst unit : Nat) : State :=
  let t := tset [] s.fab.unacked p (tget [] s.fab.unacked p ++ [(dst, unit)])
  { s with fab := { s.fab with unacked := t } }

/-- PACKET_SENT: the last byte of the packet that is leaving. It cannot leave before its tail has
come, nor beyond the retry window. -/
def execPacketSent (port : Nat) (s : State) : Answer :=
  match sendingOn s port with
  | none => .next s
  | some k =>
    let bs := blocksOf k
    let l := link s port
    if !k.tailSeen || retryWindow s port < unitsAfter l bs then .next s
    else
      let unit := (l.txNext + ceilDiv (l.part.length + bs.length) 256 + 4095) % 4096
      let s := setSending (setLink s port (pushUnits l bs)) port []
      let s := if typeCollective k.hdr.type then s else noteUnacked s port k.hdr.dst unit
      let s := pktGone s port k true
      .next (settle (drainSource s.fab.atSource.length s))

/-! ## Refill (R283, R287, R288, R293, R296) -/

/-- Cap of a strict furrow in parts in 1,000; 0 for the others. -/
def capOf (f : Nat) : Nat := if f = 0 ∨ f = 1 then 50 else if f = 6 then 100 else 0

/-- Bytes that the committed bucket gains at a refill (R283). -/
def commitGain (s : State) (p f : Nat) : Nat :=
  let cir := rdf s (aSch p f 0) 19 0
  if capOf f = 0 then cir else Nat.min cir (capOf f * netPerRefill s p / 1000)

/-- Refill the two buckets of a port's furrow. -/
def refillFurrow (p : Nat) (s : State) (f : Nat) : State :=
  let c := min (commitTok s p f + commitGain s p f) (rdf s (aSch p f 1) 23 0)
  let k := min (peakTok s p f + rdf s (aSch p f 0) 39 20) (rdf s (aSch p f 1) 47 24)
  setPeakTok (setCommitTok s p f c) p f k

/-- Refill the two buckets of a policer slot. -/
def refillSlot (p : Nat) (s : State) (i : Nat) : State :=
  let a := aPol p i 2
  let k := Nat.min (rdf s a 47 24 + rdf s (aPol p i 0) 39 20) (rdf s (aPol p i 1) 47 24)
  let c := Nat.min (rdf s a 23 0 + rdf s (aPol p i 0) 19 0) (rdf s (aPol p i 1) 23 0)
  wrf (wrf s a 47 24 k) a 23 0 c

/-- Both buckets of a policer slot full (R293, R296). -/
def fillSlot (s : State) (p i : Nat) : State :=
  wrf (wrf s (aPol p i 2) 47 24 (rdf s (aPol p i 1) 47 24)) (aPol p i 2) 23 0
    (rdf s (aPol p i 1) 23 0)

/-- Both buckets of a port's furrow full (R289). -/
def fillFurrow (p : Nat) (s : State) (f : Nat) : State :=
  setPeakTok (setCommitTok s p f (rdf s (aSch p f 1) 23 0)) p f (rdf s (aSch p f 1) 47 24)

/-- The policer slot whose word 0 an address is. -/
def polSlotOf (a : Nat) : Option (Nat × Nat) :=
  if aPol 0 0 0 ≤ a ∧ a < aPol 512 0 0 then
    let off := (a - aPol 0 0 0) % 0x1000
    if off < 0x200 ∧ off % 32 = 0 then some ((a - aPol 0 0 0) / 0x1000, off / 32) else none
  else none

/-- Fields that the refill applies from a staged word: the rates or sizes of a furrow, all of a
policer slot's words. A weight acts at once (R286). -/
def stagedKeep (a : Nat) (old new : Word) : Word :=
  if a < aPol 0 0 0 ∧ (a - aSchPort 0) % 32 = 0 then putBits new 63 56 (bitsOf old 63 56) else new

/-- Apply every staged write; a slot whose key changes gets full buckets. -/
def applyStaged (s : State) : State :=
  let st := s.fab.staged.filter fun kv => decide (aSchPort 0 ≤ kv.1)
  let s := { s with fab := { s.fab with staged := [] } }
  let keyed := st.filterMap fun kv =>
    match polSlotOf kv.1 with
    | some x => if bitsOf kv.2 63 49 = rdf s kv.1 63 49 then none else some x
    | none => none
  let s := forAll (fun s kv => wr s kv.1 (stagedKeep kv.1 (rd s kv.1) kv.2)) s st
  forAll (fun s x => fillSlot s x.1 x.2) s keyed

/-- A port whose buckets have a meaning (R289, R389). -/
def hasBuckets (s : State) (p : Nat) : Bool := portTakes s p 0

/-- A map is being gathered (R346, R349). -/
def mapRuns (s : State) : Bool := bitOf s.yld.cfg 63

/-- Sample the depth of a queue in 256-byte units (R346). -/
def sampleQueue (p : Nat) (s : State) (f : Nat) : State :=
  let d := Nat.min 0xFFFF (queueDepth s p f / 256)
  let x := statOf s p f
  if d = 0 then s else setStat s p f { x with occMax := Nat.max x.occMax d, occSum := x.occSum + d }

/-- The samples of one refill. -/
def sampleMap (s : State) : State :=
  if !mapRuns s then s
  else
    let s := { s with yld := { s.yld with samples := s.yld.samples + 1 } }
    forAll (fun s p => forAll (sampleQueue p) s allFurrows) s ((portsOf s).filter (forwarding s))

/-- REFILL: one instant of the 64 ns grid, which begins at Ready. -/
def execRefill (s : State) : Answer :=
  if !isReady s then .next s
  else
    let s := applyStaged s
    let s := forAll (fun s p => forAll (refillFurrow p) s allFurrows) s ((portsOf s).filter (hasBuckets s))
    .next (sampleMap (forAll (fun s p => forAll (refillSlot p) s (List.range 16)) s (portsOf s)))

/-! ## Writes -/

/-- Stage a word: the fields written on top of what is staged or held. -/
def stageShaper (s : State) (path a : Nat) (fs : List RField) (v : Word) : State :=
  let base := tget (rd s a) s.fab.staged a
  let s := logWrite s path a fs base v
  let t := tins s.fab.staged a (mergedWord true fs base v)
  { s with fab := { s.fab with staged := t } }

/-- Fields of a word of SCH_FURROW_f (R290). -/
def schFields (f w : Nat) : List RField :=
  if f = 7 then [rsv 63 0]
  else
    match w with
    | 0 => [rwIf 63 56 (· != 0), rsv 55 40, rwIf 39 20 (· != 0), rw 19 0]
    | 1 => [rsv 63 48, rwIf 47 24 (8232 ≤ ·), rw 23 0]
    | 2 => [rsv 63 50, ro 49 25, ro 24 0]
    | _ =>
      if 14 ≤ f then
        [ro 63 32, rwIf 31 16 (· != 0), ⟨15, 0, .rw, fun v => bitsOf v 15 0 ≤ bitsOf v 31 16⟩]
      else [ro 63 32, rsv 31 0]

/-- A write to a word of SCH_FURROW_f (R286, R288, R290). -/
def shaperWrite (s : State) (path p f w : Nat) (v : Word) : WrRes :=
  let a := aSch p f w
  if f ≠ 7 && w ≤ 1 then
    let s := stageShaper s path a (schFields f w) v
    ⟨if w = 0 then wrf s a 63 56 (bitsOf (tget 0 s.fab.staged a) 63 56) else s, .ok⟩
  else ⟨regWrite s path a (schFields f w) v, .ok⟩

/-- SHAPER_WRITE. -/
def execShaperWrite (path port furrow word : Nat) (value : Word) (s : State) : Answer :=
  .next (mgApply s (aSch port furrow word) value fun s => shaperWrite s path port furrow word value)

/-- Fields of a word of POL_SLOT_i (R295). -/
def polFields (w : Nat) : List RField :=
  match w with
  | 0 => [rw 63 63, rw 62 62, rw 61 61, rw 60 49, rsv 48 40,
      ⟨39, 20, .rw, fun v => bitsOf v 19 0 ≤ bitsOf v 39 20⟩, rw 19 0]
  | 1 => [rsv 63 48, rwIf 47 24 (8232 ≤ ·), ⟨23, 0, .rw, fun v => bitsOf v 23 0 ≤ bitsOf v 47 24⟩]
  | 2 => [rsv 63 48, ro 47 24, ro 23 0]
  | _ => [rsv 63 0]

/-- A write to a word of a policer slot (R295, R296). -/
def policerWrite (s : State) (path p i w : Nat) (v : Word) : WrRes :=
  let a := aPol p i w
  if w ≤ 1 then ⟨stageShaper s path a (polFields w) v, .ok⟩
  else ⟨regWrite s path a (polFields w) v, .ok⟩

/-- POLICER_SLOT_WRITE. -/
def execPolicerSlotWrite (path port slot word : Nat) (value : Word) (s : State) : Answer :=
  .next (mgApply s (aPol port slot word) value fun s => policerWrite s path port slot word value)

/-- Address of a credit register. -/
def creditAddr (p : Nat) : CreditReg → Nat
  | .furrow f => aCredit p f
  | .pool => aPool p

def creditFields : CreditReg → List RField
  | .furrow _ => [rsv 63 48, rw 47 32, rw 31 16, ro 15 0]
  | .pool => [rsv 63 32, rw 31 0]

/-- A FLOOR below 33 or a CEILING below FLOOR (R108). -/
def creditIllegal (r : CreditReg) (v : Word) : Bool :=
  match r with
  | .furrow f => lossless f && (bitsOf v 31 16 < 33 || bitsOf v 47 32 < bitsOf v 31 16)
  | .pool => false

/-- A write to PRT_FURROW_CREDIT or PRT_SHARED_POOL (R108, R257): refused whole under R12 on a port
that is not FALLOW, with an illegal value, or beyond the ingress share. -/
def creditWrite (s : State) (path p : Nat) (r : CreditReg) (v : Word) : WrRes :=
  let a := creditAddr p r
  let s' := regWrite s path a (creditFields r) v
  if portState s p != lsFallow || creditIllegal r v
      || (decide (rdf s aGrnShare 41 21 < grantedOf s') && decide (grantedOf s < grantedOf s')) then
    ⟨refuseR12 s path a, .ok⟩
  else ⟨s', .ok⟩

/-- CREDIT_CONFIG_WRITE: a lane that is not the lowest of a port has no such register (R300). -/
def execCreditConfigWrite (path port : Nat) (reg : CreditReg) (value : Word) (s : State) : Answer :=
  if cfgWidth s port = 0 then .next s
  else .next (mgApply s (creditAddr port reg) value fun s => creditWrite s path port reg value)

end Sys2Proof.Machine
end

