-- ==== Sys2Proof/Machine/Ports.lean ====
section
/-! DEFINITION. What takes a port down, up or out of service: lanes and their attempts (R305, R307), the
start of bring-up (R308, R325), the loss of block lock (R113, R152, R267, R314, R319), FALLOW (R325,
R387, R389) and the entry to FORWARDING (R289, R312). -/

namespace Sys2Proof.Machine

def modLink (s : State) (p : Nat) (f : Link → Link) : State := setLink s p (f (link s p))

/-! ## Lanes -/

/-- Lane states of R327. -/
def lnTrain : Nat := 1
def lnHunt : Nat := 2
def lnLocked : Nat := 3
def lnSwitch : Nat := 4
def lnMarkerHunt : Nat := 5
def lnAligned : Nat := 6
def lnRelock : Nat := 7
def lnFailed : Nat := 8
def lnTest : Nat := 9

def laneState (s : State) (l : Nat) : Nat := rdf s (aLaneStat l) 63 60
def setLaneState (s : State) (l st : Nat) : State := wrf s (aLaneStat l) 63 60 st
def laneAttempt (s : State) (l : Nat) : Nat := rdf s (aLaneStat l) 59 56

/-- Lanes of a port (R300). -/
def lanesOf (s : State) (p : Nat) : List Nat := (List.range (cfgWidth s p)).map (p + ·)

/-- The configured port that a lane belongs to. -/
def portOfLane (s : State) (l : Nat) : Option Nat :=
  (List.range 16).findSome? fun d =>
    if d ≤ l ∧ d < cfgWidth s (l - d) ∧ portRole s (l - d) ≠ 3 then some (l - d) else none

def alignedLanes (s : State) (p : Nat) : List Nat :=
  (lanesOf s p).filter fun l => laneState s l == lnAligned

def firstPreset (s : State) : Nat :=
  match s.boot.tables with
  | some t => t.firstPreset
  | none => 0

/-- A lane held FAILED: retired, or out for this start (R380, R393, R397). -/
def laneHeld (s : State) (l : Nat) : Bool :=
  s.cores.unitsOut.contains (ukLane, l) || s.cores.unitsOut.contains (ukLaneStart, l)

/-- Start attempt k of a lane at TRAIN with the preset of R305; a retired lane is held FAILED
(R380, R393). -/
def startAttempt (s : State) (l k : Nat) : State :=
  if laneHeld s l then setLaneState s l lnFailed
  else
    wrf (wrf (setLaneState s l lnTrain) (aLaneStat l) 59 56 k) (aLaneStat l) 55 53
      ((firstPreset s + k - 1) % 8)

/-- The attempt of a lane has failed: the next one, or FAILED after the eighth (R305). -/
def nextAttempt (s : State) (l : Nat) : State :=
  if 8 ≤ laneAttempt s l then event (setLaneState s l lnFailed) 0x0501 srcLane l {}
  else startAttempt s l (laneAttempt s l + 1)

/-- Every lane of a port back to TRAIN with ATTEMPT 1. -/
def trainLanes (s : State) (p : Nat) : State := forAll (fun s l => startAttempt s l 1) s (lanesOf s p)

/-- RX_MASK and RX_WIDTH: the ALIGNED lanes by the partner's index (R313, R323). -/
def showRx (s : State) (p : Nat) : State :=
  let up := alignedLanes s p
  let mask := up.foldl (fun m l => m ||| 2 ^ rdf s (aLaneStat l) 52 49) 0
  wrf (wrf s (aLinkStat p) 15 0 mask) (aLinkStat p) 54 50 up.length

/-! ## Port state -/

/-- Show a state of R323. -/
def setPortState (s : State) (p st : Nat) : State := wrf s (aLinkStat p) 63 60 st

/-- The phase of a link whose exchange was refused: it runs and carries nothing (R310, R389). -/
def phRefused : Nat := 5

/-- Enter a phase of bring-up; a FALLOW port goes through it without showing it (R389). -/
def setLinkPhase (s : State) (p ph : Nat) : State :=
  let s := modLink s p fun l => { l with phase := ph }
  if portState s p == lsFallow || portState s p == lsTest then s else setPortState s p ph

/-- Event codes of R328's reasons (R445). -/
def reasonEvent (r : Nat) : Nat := 0x0503 + r

/-- Set REASON and log it (R328). -/
def setPortReason (s : State) (p r : Nat) (x : EvItem := {}) : State :=
  event (wrf s (aLinkStat p) 31 24 r) (reasonEvent r) srcPort p x

/-- MIN_WIDTH in use. -/
def minWidth (s : State) (p : Nat) : Nat := bitsOf (link s p).cfg 55 51

/-- Retry and credit counters afresh (R312, R319). -/
def freshCounters (s : State) (p : Nat) : State :=
  let s := modLink s p fun l =>
    { l with
      txNext := 0, txAcked := 0, rxExpect := 0, discarding := false, part := [], window := [],
      used := [], ret := [], peerRet := [] }
  forAll (fun s f => wrf s (aCredit p f) 15 0 0) s losslessFurrows

/-- The settings of PRT_LINK_CFG are taken up (R322). A rate or coding that differs from the one in
use sends every lane to TRAIN; a rate step taken since the last RESTART stands. -/
def takeSettings (s : State) (p : Nat) (restart : Bool) : State :=
  let l := link s p
  let c := rd s (aLinkCfg p)
  let inUse := rdf s (aLinkStat p) 49 48
  let rate := if l.stepped && !restart && bitsOf c 58 57 == bitsOf l.cfg 58 57 then inUse
    else bitsOf c 58 57
  let s := setLink s p { l with cfg := c }
  let s := wrf s (aLinkStat p) 49 48 rate
  if rate ≠ inUse || bitsOf c 56 56 ≠ bitsOf l.cfg 56 56 then trainLanes s p else s

/-- Leave LANES or RATE_STEP (R308): deskew, then CAPS, or bring-up again with too few lanes. -/
def leaveLanes (s : State) (p : Nat) : State :=
  let late := (link s p).late
  let up := alignedLanes s p
  let first := (up.map (tget 0 late)).foldl Nat.min (tget 0 late (up.headD 0))
  let skewed := up.filter fun l => decide (first + 80 < tget 0 late l)
  let s := forAll (fun s l => nextAttempt (event s 0x0502 srcLane l {}) l) s skewed
  let s := showRx s p
  if (alignedLanes s p).length < minWidth s p then takeSettings s p false
  else setLinkPhase (modLink s p fun l => { l with record := none, peerSeen := false }) p lsCaps

/-- Leave LANES once every lane is ALIGNED or FAILED (R308). -/
def checkLanes (s : State) (p : Nat) : State :=
  let ph := (link s p).phase
  let done := (lanesOf s p).all fun l => laneState s l == lnAligned || laneState s l == lnFailed
  let some' := (lanesOf s p).any fun l => laneState s l == lnAligned
  if portState s p != lsTest && (ph == lsLanes || ph == lsRateStep) && done && some' then leaveLanes s p
  else s

/-- Bring-up starts again at LANES (R308, R314, R325). -/
def bringUp (s : State) (p : Nat) (restart : Bool) : State :=
  let s := modLink (freshCounters s p) p fun l =>
    { l with record := none, peerSeen := false, stepTo := none, txSet := 0, txMask := 0 }
  let s := wrf (setLinkPhase s p lsLanes) (aLinkStat p) 59 55 0
  checkLanes (takeSettings s p restart) p

/-! ## Loss of a port's traffic (R113, R123, R152, R267, R319) -/

/-- Queued packets of a port are discarded and counted (R113). -/
def discardQueues (s : State) (p : Nat) : State :=
  let drop := fun (s : State) (k : Pkt) => pktGone (countPort s p dcEgrDiscard) p k false
  let sending := (sendingOn s p).toList
  let s := forAll drop (setSending s p []) sending
  let s := forAll (fun s f =>
    let q := queueOf s p f
    forAll drop (setQueue s p f []) q) s allFurrows
  let mine := s.fab.atSource.filter fun x => x.1 == p
  let s := { s with fab := { s.fab with atSource := s.fab.atSource.filter fun x => x.1 != p } }
  forAll (fun s x => drop s x.2) s mine

/-- Copies that have left, or wait their turn, for a port that is lost: their owner bits clear (R123,
R267). -/
def dropPortCopies (s : State) (p : Nat) : State :=
  let left := tget [] s.fab.leftCopies p
  let s := { s with fab := { s.fab with leftCopies := tset [] s.fab.leftCopies p [] } }
  let s := forAll (fun s c => copyOver s c.run c.chunk c.member) s left
  forAll (fun s r =>
    let g := groupAt s r.group
    let held := r.chunks.flatMap fun kv =>
      if 2 ^ 24 ≤ kv.1 then
        (kv.2.copies.filter fun c => c.2 == 1 && (memberN s g c.1).port == p).map fun c =>
          (kv.1 - 2 ^ 24, c.1)
      else []
    forAll (fun s x => copyOver (countPort s p dcEgrDiscard) (keyOf r) x.1 x.2) s held) s (liveRuns s)

/-- The manager clears the port's owner bits and frees its PRIVATE buffers (R267). -/
def clearPort (s : State) (p : Nat) : State :=
  forAll (fun s (x : Store × Nat) => clearOwner s x.1 x.2 (ownPort p)) s
    ((heldBufs s).filter fun x => (ownersOf s x.1 x.2).contains (ownPort p))

/-- Packets that waited at ingress for the port look up again. -/
def unselect (s : State) (p : Nat) : State :=
  let f := fun (w : Waiter) => if w.sel == some p then { w with sel := none } else w
  { s with fab := { s.fab with waits := s.fab.waits.map fun kv => (kv.1, kv.2.map f) } }

/-- Traffic toward a port ends: queues, copies, owner bits, the instances that use it (R113, R152,
R267). -/
def endTraffic (s : State) (p : Nat) : State :=
  let s := discardQueues s p
  let s := dropPortCopies s p
  losePort (unselect (clearPort s p) p) p

/-- A packet that a lost port was still receiving (R319): the copy that has begun to leave ends with
reason 0x04, and the part received is discarded. -/
def cutOff (s : State) (k : Pkt) : State :=
  match sendingPort s k.uid with
  | some e =>
    match sendingOn s e with
    | some q => setSending (countPort s e dcBadTailSent) e
        [{ q with tail := tailBad 0x04 q.hdr.hop, tailSeen := true }]
    | none => s
  | none =>
    match queueHolding s k.uid with
    | some key =>
      let q := (tget [] s.fab.queues key).filter fun q => q.uid == k.uid
      forAll (fun s q => freeBufs s none q.bufs) (unqueue s key k.uid) q
    | none =>
      let key := (s.fab.waits.find? fun kv => kv.2.any fun w => w.pkt.uid == k.uid).map Prod.fst
      match key with
      | some key =>
        let ws := tget [] s.fab.waits key
        let s := forAll (fun s w => if w.pkt.uid = k.uid then freeBufs s none w.pkt.bufs else s) s ws
        setWaits s (key / 16) (key % 16) (ws.filter fun w => w.pkt.uid != k.uid)
      | none => s

/-- The credits that packets of a lost link hold are not returned on its next one (R319). -/
def forgetCredits (s : State) (p : Nat) : State :=
  let f := fun (k : Pkt) => if k.use == .forward p then { k with use := .plain } else k
  let t := fun (t : Tbl (List Pkt)) => t.map fun kv => (kv.1, kv.2.map f)
  let w := fun (w : Waiter) => { w with pkt := f w.pkt }
  let fab := { s.fab with
    queues := t s.fab.queues, sending := t s.fab.sending,
    waits := s.fab.waits.map fun kv => (kv.1, kv.2.map w) }
  { s with fab := fab }

/-- What arrives on a port that loses its link ends (R319). -/
def endArrivals (s : State) (p : Nat) : State :=
  let rs := rxOf s p
  let s := setRx s p []
  let s := forAll (fun s r => match r.place with
    | .placed => cutOff s r.pkt
    | _ => s) s rs
  let s := forgetCredits s p
  let fab := { s.fab with
    unacked := tset [] s.fab.unacked p [], settled := tset 0 s.fab.settled p 0,
    hinted := s.fab.hinted.filter (· != p), epochPorts := s.fab.epochPorts.filter (· != p),
    hints := s.fab.hints.filter fun kv => kv.1 / 16 != p }
  { s with fab := fab }

/-- The link of a port runs: its exchange is complete, agreed or refused (R309, R389). -/
def linkRuns (s : State) (p : Nat) : Bool :=
  ((link s p).phase == lsForwarding || (link s p).phase == phRefused) && portState s p != lsTest

/-- A port loses block lock (R113, R152, R314, R319): CNT_PRT_DOWN, REASON and the ends of its
traffic; bring-up starts again. A FALLOW port stays FALLOW with its reason. -/
def portLost (s : State) (p reason : Nat) : State :=
  if !linkRuns s p then s
  else
    let fwd := forwarding s p
    let s := countPort s p dcDown
    let s := if fwd then setPortReason (setPortState s p lsLanes) p reason else s
    bringUp (endTraffic (endArrivals s p) p) p false

/-- A port goes FALLOW; a reason of 0 leaves REASON as it is (R325, R328, R387). -/
def portFallow (s : State) (p reason : Nat) (x : EvItem := {}) : State :=
  let fwd := forwarding s p
  let s := setPortState s p lsFallow
  let s := if reason = 0 then s else setPortReason s p reason x
  if fwd then endTraffic s p else s

/-! ## Capability records (R309) -/

/-- Furrow order of CREDITS. -/
def recordFurrows : List Nat := losslessFurrows

/-- The record that a port sends. -/
def ownRecord (s : State) (p : Nat) : List Byte :=
  let l := link s p
  let credits := recordFurrows.flatMap fun f => beBytes 2 (furFloor s p f) ++ beBytes 2 (furCeiling s p f)
  let mode := bitsOf l.cfg 56 56 + 2 * bitsOf l.cfg 50 50 + 4 * b2n l.stepped
  let body := [0x11, 0x11, 0x11, 0x07, 0x02, BitVec.ofNat 8 mode, BitVec.ofNat 8 (cfgWidth s p),
      BitVec.ofNat 8 (s.boot.tier * 64 + s.boot.plane * 4)]
    ++ beBytes 4 (deviceId s * 2 ^ 14 + p * 2 ^ 5) ++ List.replicate 4 0 ++ credits
    ++ List.replicate 12 0
  body ++ beBytes 4 (crc32c body)

/-- The three CAPABILITY blocks of a record. -/
def capBlocks (rec' : List Byte) (seen : Bool) : List (List Byte) :=
  (List.range 3).map fun i =>
    [0x1E, BitVec.ofNat 8 (i * 64 + b2n seen * 32)] ++ (rec'.drop (28 * i)).take 28 ++ [0, 0]

def beNat (bs : List Byte) : Nat := leNat bs.reverse

/-- A received record, none where its CRC or size is wrong. -/
def parseRecord (bs : List Byte) : Option CapRecord :=
  if bs.length ≠ 84 || beNat (bs.drop 80) ≠ crc32c (bs.take 80) then none
  else
    let b := fun i => (bs.getD i 0).toNat
    let id := beNat ((bs.drop 8).take 4)
    let cr := fun i => beNat ((bs.drop (16 + 2 * i)).take 2)
    let idx := fun f => recordFurrows.findIdx (· == f)
    some
      { linkLo := b 0 % 16, linkHi := b 0 / 16, hdrLo := b 1 % 16, hdrHi := b 1 / 16,
        sheafLo := b 2 % 16, sheafHi := b 2 / 16, rates := b 3 % 8, preferred := b 4,
        fec := b 5 % 2, device := id / 2 ^ 14, port := id / 2 ^ 5 % 2 ^ 9, tier := b 7 / 64,
        plane := b 7 / 4 % 16, width := b 6, stepEn := b 5 / 2 % 2 == 1, stepped := b 5 / 4 % 2 == 1,
        floors := (List.range 14).map fun f => if lossless f then cr (2 * idx f) else 0,
        ceilings := (List.range 14).map fun f => if lossless f then cr (2 * idx f + 1) else 0 }

/-! ## The end of CAPS (R310 to R312, R336) -/

/-- Version agreed on an interface whose own versions are 1 to 1: none where the partner has no
common one (R14, R310). -/
def agreeVersion (lo hi : Nat) : Option Nat :=
  let v := Nat.min 1 hi
  if v < 1 || v < lo then none else some v

/-- Lines of R310: the interface refused (0 link, 1 header, 2 sheaf), or the three versions. -/
def agreeAll (r : CapRecord) : Nat ⊕ (Nat × Nat × Nat) :=
  match agreeVersion r.linkLo r.linkHi, agreeVersion r.hdrLo r.hdrHi, agreeVersion r.sheafLo r.sheafHi with
  | none, _, _ => .inl 0
  | some _, none, _ => .inl 1
  | some _, some _, none => .inl 2
  | some a, some b, some c => .inr (a, b, c)

/-- Target rate of R311: every rate is supported here, and the highest is preferred. -/
def targetRate (r : CapRecord) : Nat :=
  let ok := (List.range 3).filter fun k => r.rates.testBit k && decide (k ≤ Nat.min 2 r.preferred)
  ok.foldl Nat.max 0

/-- A rate step takes place (R311). -/
def stepsRate (s : State) (p : Nat) (r : CapRecord) : Bool :=
  let l := link s p
  targetRate r != rdf s (aLinkStat p) 49 48 && bitOf l.cfg 50 && !l.stepped && r.stepEn && !r.stepped

/-- Largest power of two not above n, at most 16; 0 for 0. -/
def pow2Below (n : Nat) : Nat := if n = 0 then 0 else 2 ^ Nat.log2 (Nat.min 16 n)

/-- The lowest 2^k set bits of a lane mask (R313). -/
def activeSet (mask : Nat) : Nat :=
  let is := (List.range 16).filter mask.testBit
  (is.take (pow2Below is.length)).foldl (fun m i => m + 2 ^ i) 0

def setSize (mask : Nat) : Nat := ((List.range 16).filter mask.testBit).length

/-- Take an active transmit set into use. -/
def setActive (s : State) (p mask : Nat) : State :=
  wrf (modLink s p fun l => { l with txSet := mask }) (aLinkStat p) 59 55 (setSize mask)

/-- The link runs (R312): credits and retry sequences afresh; the transmit set is that of the aligned
lanes until the partner reports (log 25). -/
def startLink (s : State) (p : Nat) : State :=
  let s := modLink (freshCounters s p) p fun l => { l with stepTo := none }
  let mask := (alignedLanes s p).foldl (fun m l => m ||| 2 ^ (l - p)) 0
  let s := setActive (modLink s p fun l => { l with txMask := mask }) p (activeSet mask)
  wrf s (aLinkPeer p) 30 15 mask

/-- Entry to FORWARDING (R289, R312): the buckets start full, V and every tag at 0. -/
def enterForwarding (s : State) (p : Nat) : State :=
  let s := setLinkPhase (startLink s p) p lsForwarding
  let s := forAll (fillFurrow p) (wrf s (aSchPort p) 63 32 0) allFurrows
  let fab := { s.fab with
    lastTag := s.fab.lastTag.filter fun kv => kv.1 / 16 != p, settled := tset 0 s.fab.settled p 0 }
  { s with fab := fab }

/-- A refused exchange: FALLOW with its reason, the link running (R310, R389). -/
def refuseLink (s : State) (p reason : Nat) (x : EvItem) : State :=
  portFallow (modLink (startLink s p) p fun l => { l with phase := phRefused }) p reason x

/-- The item of MISCABLED: the identity expected, in the layout of IDENTITY (R309, R336, R444). -/
def miscabledItem (s : State) (p : Nat) : EvItem :=
  { detail := rdf s (aCable p) 58 41 * 2 ^ 14
      + (if portRole s p = 0 then 0 else rdf s (aCable p) 40 32 * 2 ^ 5) }

/-- CAPS ends: both sides hold a valid record and have seen PEER_SEEN (R309 to R312, R336). -/
def endCaps (s : State) (p : Nat) (r : CapRecord) : State :=
  match agreeAll r with
  | .inl i => refuseLink s p 3 { detail := i }
  | .inr (a, b, c) =>
    let s := wrf (wrf (wrf s (aLinkStat p) 43 40 a) (aLinkStat p) 39 36 b) (aLinkStat p) 35 32 c
    if !peerMatches s p r then
      refuseLink s p 4 (miscabledItem s p)
    else if stepsRate s p r then
      let s := modLink s p fun l => { l with stepTo := some (targetRate r), stepped := true }
      let s := wrf (setLinkPhase s p lsRateStep) (aLinkStat p) 49 48 (targetRate r)
      trainLanes s p
    else enterForwarding s p

end Sys2Proof.Machine
end

