-- ==== Sys2Proof/Machine/Links.lean ====
section
/-! DEFINITION. Lanes, bring-up, capability exchange, width, retry and credits: the commands of R305 to
R328. An event of a lane, or of a port, that is not in the state the event leaves changes nothing
(log 4). -/

namespace Sys2Proof.Machine

/-! ## Lanes (R305 to R308) -/

/-- A lane event: it moves a lane of a configured port, outside TEST, from one of some states; then
the port may leave LANES. -/
def laneEvent (s : State) (l : Nat) (from' : List Nat) (f : State → Nat → State) : Answer :=
  match portOfLane s l with
  | none => .next s
  | some p =>
    if !silent s && octetRuns s l && portState s p != lsTest && from'.contains (laneState s l) then
      .next (checkLanes (showRx (f s p) p) p)
    else .next s

/-- ADAPTATION_CONVERGED: TRAIN to HUNT. -/
def execAdaptationConverged (lane : Nat) (s : State) : Answer :=
  laneEvent s lane [lnTrain] fun s _ => setLaneState s lane lnHunt

/-- HEADER_LOCK: HUNT to LOCKED, with the polarity and the partner's index. -/
def execHeaderLock (lane : Nat) (inverted : Bool) (peerLane : Nat) (s : State) : Answer :=
  laneEvent s lane [lnHunt] fun s _ =>
    wrf (wrf (setLaneState s lane lnLocked) (aLaneStat lane) 52 49 peerLane) (aLaneStat lane) 48 48
      (b2n inverted)

/-- HEADER_LOSS: LOCKED to HUNT. -/
def execHeaderLoss (lane : Nat) (s : State) : Answer :=
  laneEvent s lane [lnLocked] fun s _ => setLaneState s lane lnHunt

/-- COUNTDOWN_START: LOCKED to SWITCH (R306). -/
def execCountdownStart (lane : Nat) (s : State) : Answer :=
  laneEvent s lane [lnLocked] fun s _ => setLaneState s lane lnSwitch

/-- COUNTDOWN_END: SWITCH to MARKER_HUNT. -/
def execCountdownEnd (lane : Nat) (s : State) : Answer :=
  laneEvent s lane [lnSwitch] fun s _ => setLaneState s lane lnMarkerHunt

/-- MARKER_CHECK: both MARKERs valid make the lane ALIGNED; else it returns to HUNT, or hunts on in
RELOCK (R305, R307). -/
def execMarkerCheck (lane : Nat) (valid : Bool) (lateNs : Nat) (s : State) : Answer :=
  laneEvent s lane [lnMarkerHunt, lnRelock] fun s p =>
    if valid then
      modLink (setLaneState s lane lnAligned) p fun l => { l with late := tset 0 l.late lane lateNs }
    else if laneState s lane = lnRelock then s
    else setLaneState s lane lnHunt

/-- ATTEMPT_TIMEOUT: 50 ms into an attempt. -/
def execAttemptTimeout (lane : Nat) (s : State) : Answer :=
  laneEvent s lane [lnTrain, lnHunt, lnLocked, lnSwitch, lnMarkerHunt] fun s _ => nextAttempt s lane

/-- LOCK_LOSS: ALIGNED to RELOCK, counted (R307). -/
def execLockLoss (lane : Nat) (s : State) : Answer :=
  laneEvent s lane [lnAligned] fun s _ => count (setLaneState s lane lnRelock) 4 lane 0 1

/-- RELOCK_TIMEOUT: a new attempt at TRAIN with ATTEMPT 1 (R307). -/
def execRelockTimeout (lane : Nat) (s : State) : Answer :=
  laneEvent s lane [lnRelock] fun s _ => startAttempt s lane 1

/-- PORT_WAIT_EXPIRY: the port leaves LANES with the lanes it has (R308). -/
def execPortWaitExpiry (port : Nat) (s : State) : Answer :=
  let ph := (link s port).phase
  if portExists s port && portState s port != lsTest && (ph == lsLanes || ph == lsRateStep) then
    .next (leaveLanes s port)
  else .next s

/-! ## Capability exchange (R309 to R312) -/

/-- A configured port in a phase of bring-up, outside TEST. -/
def inPhase (s : State) (p ph : Nat) : Bool :=
  portExists s p && portState s p != lsTest && (link s p).phase == ph

/-- CAPABILITY_SEND: the three blocks of the port's record, on every aligned lane. -/
def execCapabilitySend (port : Nat) (s : State) : Answer :=
  if inPhase s port lsCaps then
    let blocks := capBlocks (ownRecord s port) (link s port).record.isSome
    .next (modLink s port fun l => { l with lastSent := blocks })
  else .next s

/-- PRT_LINK_PEER of a record (R324). -/
def showPeer (s : State) (p : Nat) (r : CapRecord) : State :=
  let a := aLinkPeer p
  let s := wrf (wrf (wrf (wrf s a 63 46 r.device) a 45 37 r.port) a 36 35 r.tier) a 34 31 r.plane
  wrf s (aLinkStat p) 47 47 r.fec

/-- CAPABILITY_RECEIVED: a record whose CRC matches is held; CAPS ends with both flags. -/
def execCapabilityReceived (port : Nat) (record : List Byte) (peerSeen : Bool) (s : State) : Answer :=
  if !inPhase s port lsCaps then .next s
  else
    match parseRecord record with
    | none => .next s
    | some r =>
      let s := showPeer s port r
      let s := modLink s port fun l => { l with record := some r, peerSeen := l.peerSeen || peerSeen }
      .next (if (link s port).peerSeen then endCaps s port r else s)

/-- CAP_TIMEOUT: bring-up again and one CAP_ATTEMPTS; the fourth makes the port FALLOW (R309). -/
def execCapTimeout (port : Nat) (s : State) : Answer :=
  if !inPhase s port lsCaps then .next s
  else
    let s := bump s (aLinkStat port) 23 20 1
    let s := if rdf s (aLinkStat port) 23 20 = 4 then portFallow s port 2 else s
    .next (bringUp s port false)

/-- RATE_STEP_FAILED: back to the configured rate, with no further step (R311). -/
def execRateStepFailed (port : Nat) (s : State) : Answer :=
  if (inPhase s port lsRateStep || inPhase s port lsCaps) && (link s port).stepTo.isSome then
    let s := setPortReason (modLink s port fun l => { l with stepTo := none, record := none }) port 5
    let s := wrf (setLinkPhase s port lsLanes) (aLinkStat port) 49 48 (bitsOf (link s port).cfg 58 57)
    .next (showRx (trainLanes s port) port)
  else .next s

/-! ## Width and loss of lock (R313, R314) -/

/-- WIDTH_CHANGE: the transmitter applies the active set of the last RX_MASK. -/
def execWidthChange (port : Nat) (s : State) : Answer :=
  let set := activeSet (link s port).txMask
  if linkRuns s port && set != (link s port).txSet then
    .next (event (setActive s port set) 0x0503 srcPort port {})
  else .next s

/-- PORT_DOWN: block lock is lost with the width below MIN_WIDTH. -/
def execPortDown (port : Nat) (s : State) : Answer := .next (settle (portLost s port 1))

/-- CONTROL_SILENT: no CREDIT_A for 5 µs. -/
def execControlSilent (port : Nat) (s : State) : Answer := .next (settle (portLost s port 7))

/-! ## Retry (R315 to R318) -/

/-- RETRY_NAK and REPLAY blocks (R318). -/
def nakBlock (q reason : Nat) : List Byte :=
  [0x4B] ++ beBytes 2 (q * 16) ++ [BitVec.ofNat 8 reason] ++ List.replicate 28 0
def replayBlock (q : Nat) : List Byte := [0x4C] ++ beBytes 2 (q * 16) ++ List.replicate 29 0

/-- Ask for the unit expected (R316). -/
def sendNak (s : State) (p reason : Nat) : State :=
  modLink s p fun l => { l with lastSent := [nakBlock l.rxExpect reason] }

/-- A bad unit: it and what follows are discarded until it is replayed. -/
def badUnit (s : State) (p reason : Nat) : State :=
  if (link s p).discarding then s
  else sendNak (modLink s p fun l => { l with discarding := true }) p reason

/-- A good unit: accepted where it is the next one expected, else a duplicate, or ahead, and discarded. -/
def goodUnit (s : State) (port seq : Nat) : State :=
  let l := link s port
  if l.discarding || seq ≠ l.rxExpect then s
  else modLink s port fun l => { l with rxExpect := (l.rxExpect + 1) % 4096 }

/-- RETRY_UNIT: a good unit, or one that is discarded and asked for again; codewords that were corrected and
those that could not be are counted on their lane (R316, R328). -/
def execRetryUnit (port seq : Nat) (judge : UnitJudge) (s : State) : Answer :=
  if !linkRuns s port then .next s
  else
    match judge with
    | .good => .next (goodUnit s port seq)
    | .corrected lane n => .next (goodUnit (count s 4 lane 3 n) port seq)
    | .codeword lane => .next (badUnit (count s 4 lane 2 1) port 1)
    | .block => .next (badUnit s port 2)
    | .badCtrl lane => .next (badUnit (count s 4 lane 1 1) port 2)

/-- Send a unit of the window and every later one again (R317). -/
def replayFrom (s : State) (p seq : Nat) : State :=
  let us := (link s p).window.dropWhile fun u => u.seq != seq
  let s := count s 1 p dcReplay us.length
  modLink s p fun l => { l with lastSent := replayBlock seq :: us.map Unit'.bytes }

/-- RETRY_NAK: outside the window it is a retry protocol error (R317). -/
def execRetryNak (port expect : Nat) (s : State) : Answer :=
  if !linkRuns s port then .next s
  else if (link s port).window.any fun u => u.seq == expect then .next (replayFrom s port expect)
  else .next (settle (portLost s port 6))

/-- REPLAY: it names the unit awaited, and units are accepted again. -/
def execReplay (port first : Nat) (s : State) : Answer :=
  let l := link s port
  if linkRuns s port && l.discarding && first == l.rxExpect then
    .next (setLink s port { l with discarding := false })
  else .next s

/-- NAK_REPEAT: reason 0x03, while the REPLAY is awaited. -/
def execNakRepeat (port : Nat) (s : State) : Answer :=
  if linkRuns s port && (link s port).discarding then .next (sendNak s port 3) else .next s

/-- RETRY_TIMEOUT: replay from the oldest unacknowledged unit (R317). -/
def execRetryTimeout (port : Nat) (s : State) : Answer :=
  match (link s port).window with
  | [] => .next s
  | u :: _ => if linkRuns s port then .next (replayFrom s port u.seq) else .next s

/-- A cumulative ACK: the units up to it leave the retry buffer. -/
def takeAck (s : State) (p ack : Nat) : State :=
  let l := link s p
  if l.window.any fun u => u.seq == ack then
    let old := l.window.takeWhile fun u => u.seq != ack
    let gone := old.map Unit'.seq ++ [ack]
    let s := setLink s p { l with window := l.window.drop gone.length, txAcked := ack }
    let left := (tget [] s.fab.unacked p).filter fun x => !gone.contains x.2
    { s with fab := { s.fab with unacked := tset [] s.fab.unacked p left } }
  else s

/-- ACK, RX_MASK and RET of a CREDIT block for some furrows (R318). -/
def takeCredit (s : State) (p ack rxMask : Nat) (fs ret : List Nat) : State :=
  let s := takeAck s p ack
  let pr := (fs.zip ret).foldl (fun t x => tset 0 t x.1 (x.2 % 2 ^ 16)) (link s p).peerRet
  let s := modLink s p fun l => { l with peerRet := pr, txMask := rxMask }
  wrf s (aLinkPeer p) 30 15 rxMask

/-- The partner's RX_MASK leaves too narrow a transmit width (R314). -/
def tooNarrow (s : State) (p rxMask : Nat) : Bool :=
  decide (setSize (activeSet rxMask) < minWidth s p)

/-- CREDIT_A. -/
def execCreditA (port ack rxMask : Nat) (ret : List Nat) (s : State) : Answer :=
  if !linkRuns s port then .next s
  else
    let s := takeCredit s port ack rxMask [0, 1, 2, 3, 4, 5, 6] ret
    .next (if tooNarrow s port rxMask then settle (portLost s port 1) else s)

/-- Hints of furrows 8 to 15 (R114, R116). -/
def takeHints (s : State) (p : Nat) (hints : List Nat) : State :=
  let t := (([8, 9, 10, 11, 12, 13, 14, 15] : List Nat).zip hints).foldl
    (fun t x => tset 0 t (qKey p x.1) (x.2 % 16)) s.fab.hints
  let h := if s.fab.hinted.contains p then s.fab.hinted else s.fab.hinted ++ [p]
  { s with fab := { s.fab with hints := t, hinted := h } }

/-- CREDIT_B. -/
def execCreditB (port ack rxMask : Nat) (ret hints : List Nat) (s : State) : Answer :=
  if !linkRuns s port then .next s
  else
    let s := takeHints (takeCredit s port ack rxMask [8, 9, 10, 11, 12, 13] ret) port hints
    .next (if tooNarrow s port rxMask then settle (portLost s port 1) else s)

/-! ## PRT_LINK_CMD (R325) -/

def rsOrdered : Nat := 8

/-- A link that runs is taken down by command: what crosses it and what waits for it ends. -/
def cutLink (s : State) (p : Nat) : State :=
  if linkRuns s p then endTraffic (endArrivals s p) p else s

/-- RESTART: any state to LANES, attempt counters and the rate-step allowance reset. -/
def portRestart (s : State) (p : Nat) : State :=
  let fwd := forwarding s p
  let test := portState s p == lsTest
  let s := if fwd then countPort s p dcDown else s
  let s := cutLink (setPortReason (setPortState s p lsLanes) p rsOrdered) p
  let s := modLink (wrf s (aLinkStat p) 23 20 0) p fun l => { l with stepped := false }
  let s := forAll (fun s l =>
    if test || laneState s l == lnFailed then startAttempt s l 1 else wrf s (aLaneStat l) 59 56 1)
    s (lanesOf s p)
  bringUp (showRx s p) p true

/-- RESTORE: FALLOW to LANES. -/
def portRestore (s : State) (p : Nat) : State :=
  bringUp (cutLink (setPortState s p lsLanes) p) p false

/-- A command in a state not listed for it is ignored and logged. -/
def portIgnored (s : State) (p : Nat) : State := event s 0x050D srcPort p {}

/-- TEST: the lanes stop and obey LNK_LANE_TEST. -/
def portTest (s : State) (p : Nat) : State :=
  let s := setPortState (cutLink s p) p lsTest
  let s := modLink (freshCounters s p) p fun l => { l with phase := lsLanes, record := none, txSet := 0 }
  let lanes := (lanesOf s p).filter fun l => !laneHeld s l
  let s := forAll (fun s l => setLaneState s l lnTest) (wrf s (aLinkStat p) 59 55 0) lanes
  showRx s p

/-- END_TEST: TEST to FALLOW, with the lanes restarting at TRAIN. -/
def portEndTest (s : State) (p : Nat) : State :=
  bringUp (trainLanes (setPortState s p lsFallow) p) p false

/-- An operation of PRT_LINK_CMD. -/
def linkCommand (s : State) (p op : Nat) : State :=
  match op with
  | 1 => portRestart s p
  | 2 => if portState s p == lsFallow || portState s p == lsTest then portIgnored s p
      else portFallow s p rsOrdered
  | 3 => if portState s p == lsFallow then portRestore s p else portIgnored s p
  | 4 => if portState s p == lsFallow then portTest s p else portIgnored s p
  | _ => if portState s p == lsTest then portEndTest s p else portIgnored s p

/-- A write to PRT_LINK_CMD; a lane that is not the lowest of a port has none (R300). -/
def linkCmdWrite (s : State) (path p : Nat) (v : Word) : WrRes :=
  if cfgWidth s p = 0 then ⟨s, .access⟩
  else
    cmdWrite s path (aLinkCmd p)
      [⟨63, 60, .wo, fun w => 1 ≤ bitsOf w 63 60 && bitsOf w 63 60 ≤ 5⟩, rsv 59 0] v
      fun s => (settle (linkCommand s p (bitsOf v 63 60)), 0)

def linkRow (s : State) (path p op : Nat) : State :=
  mgApply s (aLinkCmd p) (bitsAt 63 60 op) fun s => linkCmdWrite s path p (bitsAt 63 60 op)

/-- PORT_RESTART. -/
def execPortRestart (path port : Nat) (s : State) : Answer := .next (linkRow s path port 1)
/-- PORT_FALLOW. -/
def execPortFallow (path port : Nat) (s : State) : Answer := .next (linkRow s path port 2)
/-- PORT_RESTORE. -/
def execPortRestore (path port : Nat) (s : State) : Answer := .next (linkRow s path port 3)
/-- PORT_TEST. -/
def execPortTest (path port : Nat) (s : State) : Answer := .next (linkRow s path port 4)
/-- END_TEST. -/
def execEndTest (path port : Nat) (s : State) : Answer := .next (linkRow s path port 5)

/-- Fields of PRT_LINK_CFG (R322). -/
def linkCfgFields (w : Nat) : List RField :=
  [ro 63 59, rwIf 58 57 (· != 3), rw 56 56,
    rwIf 55 51 (fun v => [1, 2, 4, 8, 16].contains v && decide (v ≤ w)), rw 50 50, rsv 49 48,
    rwIf 47 40 (· != 0), rsv 39 32, rwIf 31 16 (fun v => 1 ≤ v && v ≤ 60000),
    rwIf 15 0 fun v => 1 ≤ v && v ≤ 60000]

/-- PRT_RETRY_STAT as read (R326). -/
def retryWord (s : State) (p : Nat) : Word :=
  let l := link s p
  bitsAt 63 52 l.txNext ||| bitsAt 51 40 l.txAcked ||| bitsAt 39 28 l.rxExpect
    ||| bitsAt 27 16 (retryWindow s p) ||| bitsAt 15 15 (b2n l.discarding)

/-! ## Lane commands and tests (R320, R321, R327) -/

/-- An operation of LNK_LANE_CMD. -/
def laneCommand (s : State) (l op : Nat) : State :=
  let retrain := fun (s : State) =>
    match portOfLane s l with
    | none => startAttempt s l 1
    | some p => checkLanes (showRx (startAttempt s l 1) p) p
  match op with
  | 1 => if laneState s l == lnTest then s else retrain s
  | 2 => if laneState s l == lnFailed then retrain s else s
  | _ => wrf s (aPrbsErr l) 47 0 0

/-- A write to LNK_LANE_CMD. -/
def laneCmdWrite (s : State) (path l : Nat) (v : Word) : WrRes :=
  cmdWrite s path (aLaneCmd l)
    [⟨63, 60, .wo, fun w => 1 ≤ bitsOf w 63 60 && bitsOf w 63 60 ≤ 3⟩, rsv 59 0] v
    fun s => (laneCommand s l (bitsOf v 63 60), 0)

def laneRow (s : State) (path l op : Nat) : State :=
  mgApply s (aLaneCmd l) (bitsAt 63 60 op) fun s => laneCmdWrite s path l (bitsAt 63 60 op)

/-- RETRAIN. -/
def execRetrain (path lane : Nat) (s : State) : Answer := .next (laneRow s path lane 1)
/-- CLEAR_FAILED. -/
def execClearFailed (path lane : Nat) (s : State) : Answer := .next (laneRow s path lane 2)
/-- CLEAR_PRBS. -/
def execClearPrbs (path lane : Nat) (s : State) : Answer := .next (laneRow s path lane 3)

/-- The lane belongs to a port in TEST. -/
def laneInTest (s : State) (l : Nat) : Bool :=
  match portOfLane s l with
  | some p => portState s p == lsTest
  | none => false

/-- A write to LNK_LANE_TEST: refused under R12 outside TEST. A change of the pattern checked starts
the checker anew. -/
def laneTestWrite (s : State) (path l : Nat) (v : Word) : WrRes :=
  if !laneInTest s l then ⟨refuseR12 s path (aLaneTest l), .ok⟩
  else
    let old := rdf s (aLaneTest l) 59 58
    let s := regWrite s path (aLaneTest l)
      [rw 63 62, rwIf 61 60 (· != 3), rwIf 59 58 (· != 3), ro 57 57, rsv 56 0] v
    ⟨if rdf s (aLaneTest l) 59 58 = old then s else wrf s (aLaneTest l) 57 57 0, .ok⟩

/-- LANE_TEST_WRITE. -/
def execLaneTestWrite (path lane : Nat) (value : Word) (s : State) : Answer :=
  .next (mgApply s (aLaneTest lane) value fun s => laneTestWrite s path lane value)

/-- The checker of a lane runs. -/
def checkerRuns (s : State) (l : Nat) : Bool := laneInTest s l && rdf s (aLaneTest l) 59 58 != 0

/-- PRBS_LOCK. -/
def execPrbsLock (lane : Nat) (s : State) : Answer :=
  if checkerRuns s lane then .next (wrf s (aLaneTest lane) 57 57 1) else .next s

/-- PRBS_LOCK_LOSS: the bits that differed while locked are counted. -/
def execPrbsLockLoss (lane bitErrors : Nat) (s : State) : Answer :=
  if checkerRuns s lane && rdb s (aLaneTest lane) 57 then
    .next (wrf (bump s (aPrbsErr lane) 47 0 bitErrors) (aLaneTest lane) 57 57 0)
  else .next s

end Sys2Proof.Machine
end

