-- ==== Sys2Proof/Machine/Resets.lean ====
section
/-! DEFINITION. Resets and halts (R400, R401, R412, R414, R422, R460), and the beginning of a start (R402,
R405). -/

namespace Sys2Proof.Machine

/-! ## GLB_BOOT (R423) -/

def bootStep (s : State) : Nat := rdf s aBoot 63 60
def setBootStep (s : State) (k : Nat) : State := wrf s aBoot 63 60 k
def bsRunning : Nat := 0
def bootReady : Nat := 1
def bootHalted : Nat := 2
def copyInUse (s : State) : Nat := rdf s aBoot 56 56
def skipped (s : State) (n : Nat) : Bool := rdb s aBoot (28 + n)
def skip (s : State) (n : Nat) : State := wrf s aBoot (28 + n) (28 + n) 1

/-- Clusters that this start has not skipped. -/
def startClusters (s : State) : List Nat := (List.range 12).filter fun n => !skipped s n

/-- The start runs: neither reset pin is low and it has neither halted nor reached Ready. -/
def starting (s : State) : Bool :=
  !inReset s && rdf s aBoot 59 58 == bsRunning

/-! ## What a reset leaves (R400, R422) -/

/-- Free bits in place of those that an interrupted fuse change would set. -/
def someBits (k : Nat) (old new : List Byte) : List Byte :=
  old.zipIdx.map fun p => p.1 ||| (new.getD p.2 0 &&& Config.freeByte (k + p.2))

def hashBytes (s : State) (slot : Nat) : List Byte := padTo 32 (tget [] s.boot.slotHashes slot)
def setHash (t : Tbl (List Byte)) (slot : Nat) (h : List Byte) : Tbl (List Byte) :=
  tset [] t slot (if h.all (· == 0) then [] else h)

/-- The fuses after a reset: work in progress stops at a point the manual leaves open (R412, R414). -/
def resetFuses (s : State) : Word × Tbl (List Byte) :=
  let w := rd s aFuse &&& maskOf 63 49
  let k := s.picks
  let svn := bitsOf w 63 57
  let w := if s.boot.svnTarget = 0 then w
    else putBits w 63 57 (svn + Config.pick k % (s.boot.svnTarget + 1 - svn))
  match s.boot.fuseWork with
  | some (3, slot) =>
    (w, setHash s.boot.slotHashes slot (someBits (k + 1) (hashBytes s slot) s.boot.fuseHash))
  | some (_, slot) =>
    (if Config.pick (k + 1) % 2 = 1 then putBits w (49 + slot) (49 + slot) 1 else w, s.boot.slotHashes)
  | none => (w, s.boot.slotHashes)

/-- A flash program cut short by a reset: a management write leaves free bytes; a journal or ledger
record fails its CRC and counts as not written (R403, R411, R422; log 21). -/
def cutJob (s : State) (f : Nat) : State :=
  match flashJob s f with
  | none => s
  | some j =>
    if isPath j then
      runJob s { j with bytes := j.bytes.zipIdx.map fun p => Config.freeByte (s.picks + 64 + p.2) }
    else if j.erase then setFlash s f (eraseSector (flashOf s f) j.offset)
    else s

/-- Every state but fuses, flash and pins is lost. -/
def resetState (s : State) : State :=
  let s := cutJob (cutJob s 0) 1
  let f := resetFuses s
  let boot := { Boot.reset with
    slotHashes := f.2, porLow := s.boot.porLow, warmLow := s.boot.warmLow, cold := s.boot.cold,
    resetHeld := s.boot.resetHeld }
  let el := { Elec.reset with
    avsMv := s.el.avsMv, railsDown := s.el.railsDown, sdrefLost := s.el.sdrefLost,
    sysclkLost := s.el.sysclkLost, tripped := s.el.tripped, strapPins := s.el.strapPins, tap := s.el.tap }
  let t := { State.reset with
    pending := s.pending, picks := s.picks + 4096, boot := boot, el := el, flashA := s.flashA,
    flashB := s.flashB }
  wr t aFuse f.1

/-! ## Halts (R401) -/

/-- The serial transmitters stop: no port keeps a link. -/
def stopTransmitters (s : State) : State :=
  forAll (fun s p =>
    let s := setLink s p Link.empty
    let s := forAll (fun s l => setLaneState s l lnTrain) s (lanesOf s p)
    wrf (wrf (setPortState s p lsLanes) (aLinkStat p) 59 50 0) (aLinkStat p) 15 0 0) s (portsOf s)

/-- The device halts at the step that runs; a halt at step 1 asserts ALERT_L only. -/
def halt (s : State) (code detail : Nat) : State :=
  let k := bootStep s
  let s := if k = 1 then s else journal s jkHalt k code 0xFFFF detail
  let s := wrf (wrf s aBoot 59 58 bootHalted) aBoot 47 40 code
  stopTransmitters (wrf s aAlert 63 63 1)

/-- A halt whose DETAIL no rule states (log 19). -/
def haltFree (s : State) (code : Nat) : State :=
  halt { s with picks := s.picks + 1 } code (Config.haltDetail code s.picks)

/-! ## The beginning of a start -/

def startLimit : Nat := 6

/-- A step begins. Step 5 begins with the count of failed starts checked (R402). -/
def beginStep (s : State) (k : Nat) : State :=
  let s := journal (setBootStep s k) jkStepBegin k jrOk 0xFFFF 0
  if k = 5 ∧ startLimit ≤ s.boot.failedStarts then haltFree s jrStartLimit else s

/-- The copy that the last start used, when a section of it failed after step 5 (R410). -/
def failedCopySeq (rs : List (List Word)) : Option Nat :=
  let last := lastStart rs
  if last.any fun r => recKind r == jkStepEnd && jrResultOf r == jrSectionDigest && decide (6 ≤ recStep r) then
    (last.find? fun r => recKind r == jkStepEnd && recStep r == 4 && jrResultOf r == jrOk).map recDetail
  else none

/-- The START record: the journal's count of starts, of cold starts and of failed ones (R402, R403). -/
def openStart (s : State) : State :=
  let rs := readJournal s
  let cold := s.boot.cold
  let starts := rs.filter fun r => recKind r == jkStart
  let seq := match starts.getLast? with
    | some r => (bitsOf (wordAt r 0) 31 0 + 1) % 2 ^ 32
    | none => 1
  let ons := (match starts.getLast? with
    | some r => bitsOf (wordAt r 2) 47 16
    | none => 0) + b2n cold
  let failed := if cold then 0 else failedOf (sinceCold rs)
  let boot := { s.boot with journal := rs, starts := seq, powerOns := ons, failedStarts := failed }
  let s := { s with boot := boot }
  let s := wrf (wrf s aBoot 57 57 (b2n cold)) aBoot 55 48 (Nat.min 0xFF failed)
  let s := journal s jkStart 0 jrOk 0xFFFF (ons % 2 ^ 32 * 2 ^ 16 + Nat.min 0xFF failed * 2 ^ 8 + b2n cold)
  beginStep s 2

/-- The pins allow a start: a warm one skips step 1 (R400), which waits for the supplies. -/
def beginStart (s : State) : State :=
  if inReset s then s
  else if s.boot.cold then setBootStep s 1
  else openStart s

/-- The device resets itself (R388, R398, R410): what the reeve had begun to write to flash is written,
and a warm start begins. -/
def selfReset (s : State) : State :=
  let js := s.boot.flashJobs.filter fun j => !isPath j
  let s := setJobs s (s.boot.flashJobs.filter isPath)
  let s := forAll (fun s j =>
    let s := runJob s j
    if j.flash = 0 then runJob s { j with flash := 1 } else s) s js
  beginStart (resetState { s with boot := { s.boot with cold := false } })

/-! ## POR_L and WARM_RESET_L (R460) -/

/-- POR_ASSERT: a cold reset; THERM_TRIP_L is cleared. -/
def execPorAssert (s : State) : Answer :=
  let s := { s with
    boot := { s.boot with porLow := true, cold := true }, el := { s.el with tripped := false } }
  .next (resetState s)

/-- POR_RELEASE: a cold start begins, once WARM_RESET_L is high too. -/
def execPorRelease (s : State) : Answer :=
  if !s.boot.porLow then .next s
  else
    let s := { s with
      boot := { s.boot with porLow := false, resetHeld := false }, el := { s.el with sysclkLost := false } }
    .next (beginStart s)

/-- WARM_RESET_ASSERT: a warm reset, or a start abandoned. -/
def execWarmResetAssert (s : State) : Answer :=
  let cold := s.boot.cold && inReset s
  let s := { s with boot := { s.boot with warmLow := true, cold := cold } }
  .next (if s.boot.porLow then s else resetState s)

/-- WARM_RESET_RELEASE: the start begins. -/
def execWarmResetRelease (s : State) : Answer :=
  if !s.boot.warmLow then .next s
  else
    let s := { s with boot := { s.boot with warmLow := false } }
    if s.boot.porLow then .next s
    else
      let s := { s with
        boot := { s.boot with resetHeld := false }, el := { s.el with sysclkLost := false } }
      .next (beginStart s)

end Sys2Proof.Machine
end

