-- ==== Sys2Proof/Machine/Electrical.lean ====
section
/-! DEFINITION. Rails, clocks, temperature, alerts and the test access port (R454 to R470), and what an
island that stops does (R22, R24, R388). -/

namespace Sys2Proof.Machine

/-! ## GLB_ALERT (R466, R468) -/

/-- RAIL_MASK: rails outside their limits, and rail 0 after an AVS failure (R455, R456). -/
def railMask (s : State) : Nat := s.el.railsDown ||| (if 4 ≤ s.el.avsFailed then 1 else 0)

/-- GLB_ALERT: its live bits on top of the sticky ones. -/
def alertWord (s : State) : Word :=
  rd s aAlert ||| bitsAt 56 56 (b2n s.el.tripped) ||| bitsAt 55 45 (railMask s)
    ||| bitsAt 44 41 s.el.sdrefLost

/-- ALERT_L is low: a cause bit is set or a live cause persists. -/
def alertLow (s : State) : Bool :=
  rdf s aAlert 63 57 != 0 || s.el.tripped || railMask s != 0 || s.el.sdrefLost != 0 || s.el.sysclkLost

/-- TEMP of a sensor in units of 0.125 °C (R470). -/
def sensorTemp (s : State) (n : Nat) : Int := signed 12 (rdf s (aSensor n) 61 50)
def sensorState (s : State) (n : Nat) : Nat := rdf s (aSensor n) 63 62

/-- Main-die and stack-base sensors, and DRAM sensors (R464). -/
def dieSensors : List Nat := List.range 49
def dramSensors : List Nat := (List.range 12).map (49 + ·)
def allSensors : List Nat := List.range 61

/-- Sticky bits whose cause is still live: RAIL, CLOCK, TJ_HIGH, DRAM_HIGH, SENSOR. -/
def liveCauses (s : State) : Word :=
  bitsAt 61 61 (b2n (railMask s != 0)) ||| bitsAt 60 60 (b2n (s.el.sdrefLost != 0))
    ||| bitsAt 59 59 (b2n (dieSensors.any fun n => decide (800 ≤ sensorTemp s n)))
    ||| bitsAt 58 58 (b2n (dramSensors.any fun n => decide (680 ≤ sensorTemp s n)))
    ||| bitsAt 57 57 (b2n (allSensors.any fun n => sensorState s n == 2))

def alertFields : List RField :=
  [ro 63 63, ro 62 62, w1c 61 61, w1c 60 60, w1c 59 59, w1c 58 58, w1c 57 57, ro 56 56, ro 55 45, ro 44 41,
    rsv 40 0]

/-- A write to GLB_ALERT: a bit whose cause is live stays set. -/
def alertWrite (s : State) (path : Nat) (v : Word) : WrRes :=
  let s := logWrite s path aAlert alertFields (alertWord s) v
  ⟨wr s aAlert (mergedWord true alertFields (rd s aAlert) (v &&& ~~~ liveCauses s)), .ok⟩

/-- ALERT_CLEAR. -/
def execAlertClear (path : Nat) (value : Word) (s : State) : Answer :=
  .next (mgApply s aAlert value fun s => alertWrite s path value)

/-! ## Rails (R455, R456) -/

/-- RAIL_FAULT. -/
def execRailFault (rail : Nat) (s : State) : Answer :=
  if 11 ≤ rail then .next s
  else
    let s := { s with el := { s.el with railsDown := s.el.railsDown ||| 2 ^ rail } }
    .next (if inReset s then s else wrf s aAlert 61 61 1)

/-- RAIL_RETURN. -/
def execRailReturn (rail : Nat) (s : State) : Answer :=
  if s.el.railsDown.testBit rail then
    .next { s with el := { s.el with railsDown := s.el.railsDown - 2 ^ rail } }
  else .next s

/-- A setpoint on the 5 mV grid between 0.60 V and 0.75 V. -/
def avsLegal (mv : Nat) : Bool := 600 ≤ mv && mv ≤ 750 && mv % 5 == 0

/-- AVS_UPDATE: a command to the regulator, or one that it fails to acknowledge; the fourth failure in a row
keeps the setpoint and raises RAIL. -/
def execAvsUpdate (millivolts : Nat) (acknowledged : Bool) (s : State) : Answer :=
  if inReset s || decide (bootStep s < 6) || !avsLegal millivolts then .next s
  else if acknowledged then .next { s with el := { s.el with avsMv := millivolts, avsFailed := 0 } }
  else
    let s := { s with el := { s.el with avsFailed := Nat.min 4 (s.el.avsFailed + 1) } }
    .next (if s.el.avsFailed = 4 then wrf s aAlert 61 61 1 else s)

/-! ## Clocks (R22, R459) -/

/-- Configured ports with a lane in octet o. -/
def octetPorts (s : State) (o : Nat) : List Nat :=
  (portsOf s).filter fun p => decide (p / 8 ≤ o ∧ 8 * o < p + cfgWidth s p)

/-- The lanes of a port fall out of lock with their octet's clock. -/
def dropLanes (s : State) (p : Nat) : State :=
  forAll (fun s l =>
    let s := if laneState s l = lnAligned then count s 4 l 0 1 else s
    if laneState s l = lnFailed || laneState s l = lnTest then s else startAttempt s l 1) s (lanesOf s p)

/-- An octet's clock is lost: its ports lose block lock (R314). -/
def octetDown (s : State) (o : Nat) : State :=
  forAll (fun s p => portLost (showRx (dropLanes s p) p) p 1) s (octetPorts s o)

/-- An octet's clock is back: its ports start their bring-up again at LANES. -/
def octetUp (s : State) (o : Nat) : State :=
  forAll (fun s p => if portState s p = lsTest then s else bringUp (trainLanes s p) p false) s (octetPorts s o)

/-- PLL_RELOCKS advances and the island runs. -/
def relock (s : State) (i : Nat) : State := setIsland (bump s (aIsland i) 15 0 1) i islandRunning

/-- SDREF_LOSS: the octets of a quadrant lose their clock. -/
def execSdrefLoss (quadrant : Nat) (s : State) : Answer :=
  if 4 ≤ quadrant || s.el.sdrefLost.testBit quadrant then .next s
  else
    let s := { s with el := { s.el with sdrefLost := s.el.sdrefLost ||| 2 ^ quadrant } }
    if inReset s then .next s
    else
      let s := wrf s aAlert 60 60 1
      let os := ((List.range 16).map (16 * quadrant + ·)).filter fun o =>
        islandState s (108 + o) == islandRunning
      .next (settle (forAll (fun s o => octetDown (setIsland s (108 + o) islandLocking) o) s os))

/-- SDREF_RETURN. -/
def execSdrefReturn (quadrant : Nat) (s : State) : Answer :=
  if !s.el.sdrefLost.testBit quadrant then .next s
  else
    let s := { s with el := { s.el with sdrefLost := s.el.sdrefLost - 2 ^ quadrant } }
    let os := ((List.range 16).map (16 * quadrant + ·)).filter fun o =>
      islandState s (108 + o) == islandLocking
    .next (forAll (fun s o => octetUp (relock s (108 + o)) o) s os)

/-- SYSCLK_LOSS: the device holds itself in reset until a reset pin releases it. -/
def execSysclkLoss (s : State) : Answer :=
  let cold := s.boot.cold && inReset s
  let s := { s with
    boot := { s.boot with resetHeld := true, cold := cold }, el := { s.el with sysclkLost := true } }
  .next (resetState s)

/-- PLL_LOCK_LOSS: STATE leaves running; an octet's ports lose block lock. -/
def execPllLockLoss (island : Nat) (s : State) : Answer :=
  if 205 ≤ island || islandState s island != islandRunning then .next s
  else
    let s := setIsland s island islandLocking
    if 108 ≤ island ∧ island < 172 then .next (settle (octetDown s (island - 108))) else .next s

/-- PLL_RELOCK: an octet without its reference cannot lock. -/
def execPllRelock (island : Nat) (s : State) : Answer :=
  if 205 ≤ island || islandState s island != islandLocking
      || (decide (108 ≤ island ∧ island < 172) && s.el.sdrefLost.testBit ((island - 108) / 16)) then .next s
  else
    let s := relock s island
    if 108 ≤ island ∧ island < 172 then .next (octetUp s (island - 108)) else .next s

/-! ## Handshake timeouts (R24, R388) -/

/-- A core whose island stopped: what it ran is repeated on another core from held inputs (R387), and a
cluster left with fewer than three cores goes fallow. -/
def coreIslandDown (s : State) (u : Nat) : State :=
  if coreState s u = csRetired || coreState s u = csFallow then s
  else
    let s := match jobOf s u with
      | some (.takeover f ret) => setCoreState (setJob s u []) f (if ret then csFallow else csActive)
      | some .test => setJob s u []
      | _ => s
    let s := recountCores (setRetireMark (setCoreState s u csFallow) u timedOutMark)
    let n := u / 9
    if clusterUp s n && decide (((coresOf n).filter (coreServes s)).length < 3) then clusterFallow s n false
    else s

/-- A port of an octet whose island stopped: FALLOW with no reason of R328. -/
def octetPortDown (s : State) (p : Nat) : State := portFallow (wrf s (aLinkStat p) 31 24 0) p 0

/-- The unit that goes fallow with its island. -/
def islandDown (s : State) (i : Nat) : State :=
  if i < 108 then settle (coreIslandDown s i)
  else if i < 172 then settle (forAll octetPortDown s (octetPorts s (i - 108)))
  else if i < 180 then selfReset (journal s jkUnit (bootStep s) jrSliceFailed (i - 172) 0)
  else if i < 192 then settle (clusterFallow s (i - 180) true)
  else if i < 204 then settle (clusterFallow s (i - 192) true)
  else wrf s aAlert 62 62 1

/-- XING_TIMEOUT: counted on both islands and logged; the receiver goes fallow. -/
def execXingTimeout (sender receiver : Nat) (s : State) : Answer :=
  let st := islandState s receiver
  if inReset s || decide (205 ≤ sender) || decide (205 ≤ receiver) || sender == receiver
      || !(st == islandRunning || st == islandLocking) then .next s
  else
    let s := bump (bump s (aIsland sender) 31 16 1) (aIsland receiver) 31 16 1
    let s := event s 0x0105 srcIsland sender { detail := receiver }
    .next (islandDown (setIsland s receiver islandFallow) receiver)

/-! ## Temperature (R464, R465, R469) -/

/-- One sensor's sample, in units of 0.125 °C. -/
def sampleSensor (s : State) (n : Nat) (t : Int) : State :=
  if sensorState s n = 2 then s
  else
    let last := sensorTemp s n
    let far := s.el.sampled.contains n && (decide (t < last - 40) || decide (last + 40 < t))
    if t < -320 || 1200 < t || far then
      let k := tget 0 s.el.discards n + 1
      let s := { s with el := { s.el with discards := tset 0 s.el.discards n k } }
      let s := wrf (bump s (aSensor n) 49 34 1) (aSensor n) 63 62 1
      if k < 16 then s
      else wrf (bump (wrf s (aSensor n) 63 62 2) aTherm 39 32 1) aAlert 57 57 1
    else
      let seen := if s.el.sampled.contains n then s.el.sampled else n :: s.el.sampled
      let s := { s with el := { s.el with discards := tset 0 s.el.discards n 0, sampled := seen } }
      wrf (wrf s (aSensor n) 61 50 (unsigned 12 t)) (aSensor n) 63 62 0

/-- The highest of some readings. -/
def hottest (s : State) : List Nat → Option Int
  | [] => none
  | n :: ns =>
    match hottest s ns with
    | none => some (sensorTemp s n)
    | some t => some (max t (sensorTemp s n))

/-- A failed sensor of a kind reads 5 °C above the highest valid one, or `default` when none is valid. -/
def substitute (default : Int) (kind : List Nat) (s : State) : State :=
  let t := match hottest s (kind.filter fun n => sensorState s n == 0) with
    | some t => t + 40
    | none => default
  forAll (fun s n => wrf s (aSensor n) 61 50 (unsigned 12 t)) s (kind.filter fun n => sensorState s n == 2)

/-- Whole degrees of the highest reading of a kind. -/
def degrees (s : State) (kind : List Nat) : Nat := unsigned 8 (((hottest s kind).getD 0) / 8)

/-- SENSOR_SAMPLE: every sensor is read. -/
def execSensorSample (readings : List Int) (s : State) : Answer :=
  if inReset s then .next s
  else
    let s := forAll (fun s (x : Int × Nat) => sampleSensor s x.2 x.1) s (readings.take 61).zipIdx
    let s := substitute 680 dramSensors (substitute 840 dieSensors s)
    let s := wrf (wrf s aTherm 63 56 (degrees s dieSensors)) aTherm 55 48 (degrees s dramSensors)
    .next (wr s aAlert (rd s aAlert ||| (liveCauses s &&& maskOf 59 58)))

/-- One domain's next step count. -/
def stepTo (k : Nat) (t : Int) : Nat := if 760 ≤ t then Nat.min 8 (k + 1) else if t ≤ 736 then k - 1 else k

/-- The reading of a stack's domain. -/
def stackReading (s : State) (n : Nat) : Int := max (sensorTemp s (37 + n)) (sensorTemp s (49 + n) + 120)

/-- THERMAL_THROTTLE: the milliseconds below nominal are counted, and each domain steps. -/
def execThermalThrottle (s : State) : Answer :=
  if inReset s then .next s
  else
    let slow := rdf s aTherm 47 40 != 0
    let s := if isReady s && slow then bump s aTherm 31 0 1 else s
    let s := wrf s aTherm 47 44 (stepTo (rdf s aTherm 47 44) ((hottest s (List.range 37)).getD 0))
    let steps := (List.range 12).foldl (fun t n => tset 0 t n (stepTo (tget 0 t n) (stackReading s n)))
      s.el.stackSteps
    let s := { s with el := { s.el with stackSteps := steps } }
    .next (wrf s aTherm 43 40 ((steps.map Prod.snd).foldl Nat.max 0))

/-- DROOP_STRETCH: a core island's clock is stretched. -/
def execDroopStretch (core : Nat) (s : State) : Answer :=
  if inReset s || decide (108 ≤ core) then .next s
  else .next { s with el := { s.el with droops := tset 0 s.el.droops core (now s + 1) } }

/-- THERM_TRIP: the transmitters stop and every island but the reeve halts until POR_L falls (R466). -/
def execThermTrip (s : State) : Answer :=
  let s := { s with el := { s.el with tripped := true } }
  .next (stopTransmitters (forAll (fun s i => setIsland s i islandOff) s (List.range 204)))

/-! ## The test access port (R463) -/

/-- The supplies that the TAP needs, VDD_MISC and VDDIO_18, are within their limits. -/
def tapPowered (s : State) : Bool := !s.el.railsDown.testBit 9 && !s.el.railsDown.testBit 10

def setTap (s : State) (t : Tap) : State := if tapPowered s then { s with el := { s.el with tap := t } } else s

/-- IDCODE: the stepping's low four bits, part 0x7200, manufacturer 0x5D3, and a one. -/
def idcode : Nat := stepping % 16 * 2 ^ 28 + 0x7200 * 2 ^ 12 + 0x5D3 * 2 + 1

def tapBypass (s : State) : State := setTap s { s.el.tap with ir := .bypass, dr := 0 }

/-- TAP_BYPASS. -/
def execTapBypass (s : State) : Answer := .next (tapBypass s)

/-- TAP_IDCODE. -/
def execTapIdcode (s : State) : Answer := .next (setTap s { s.el.tap with ir := .idcode, dr := idcode })

/-- TAP_EXTEST: the cells drive the pins; only while POR_L is low, else BYPASS. -/
def execTapExtest (cells : List Bool) (s : State) : Answer :=
  .next (if s.boot.porLow then setTap s { s.el.tap with ir := .extest, driven := cells } else tapBypass s)

/-- TAP_SAMPLE_PRELOAD. -/
def execTapSamplePreload (cells : List Bool) (s : State) : Answer :=
  .next (if s.boot.porLow then setTap s { s.el.tap with ir := .samplePreload, sampled := cells }
    else tapBypass s)

/-- TAP_PACKET_ACCESS. -/
def execTapPacketAccess (data : List Byte) (s : State) : Answer :=
  .next (if s.boot.porLow then setTap s { s.el.tap with ir := .packetAccess, data := data } else tapBypass s)

end Sys2Proof.Machine
end

