-- ==== Sys2Proof/Machine/Faults.lean ====
section
/-! DEFINITION. Strikes that expire, takeovers, in-field test, drain bounds and the FLT registers
(R376 to R396). -/

namespace Sys2Proof.Machine

/-! ## Strikes (R376) -/

/-- STRIKE_EXPIRY: the oldest strike of a core or tiller no longer counts. -/
def execStrikeExpiry (kind : UnitKind) (index : Nat) (s : State) : Answer :=
  match kind with
  | .core =>
    if coreState s index = csRetired then .next s
    else
      let list := (tget [] s.cores.strikes index).drop 1
      let s := { s with cores := { s.cores with strikes := tset [] s.cores.strikes index list } }
      .next (wrf s (aFltCore index) 60 59 list.length)
  | .tiller =>
    let list := (tget [] s.cores.tillerStrikes index).drop 1
    .next { s with cores := { s.cores with tillerStrikes := tset [] s.cores.tillerStrikes index list } }
  | _ => .next s

/-! ## Takeovers (R382) -/

/-- What core u ran so far, and the cycles it took, go over to core t. -/
def moveRun (s : State) (u t key k cycles : Nat) : State :=
  match runOf s key with
  | none => s
  | some r =>
    let g := groupAt s r.group
    let prior := tget 0 s.cores.migrated u - 1
    let s := noteCycles s u (programNo s g) (elemsOfChunk g k) (chunkOf r k).contribs.length cycles
    let m := tset 0 (tset 0 s.cores.migrated u 0) t (prior + cycles + 1)
    moveCore { s with cores := { s.cores with migrated := m } } key k u t

/-- The takeover of core u's work by core t is complete. -/
def takeOver (s : State) (u t cycles : Nat) (retiring : Bool) : State :=
  let s := match jobOf s u with
    | some (.run key k role) => setJob (moveRun s u t key k cycles) t [.run key k role]
    | _ => setJob s t []
  let s := setJob s u []
  if retiring then finishRetire s u
  else
    let s := setCoreState (setJob s u [.test]) u csTesting
    recountCores (if coreState s t = csReserve then setCoreState s t csActive else s)

/-- MIGRATION_DONE: core u leaves its work at a segment boundary after a number of cycles. -/
def execMigrationDone (core cycles : Nat) (s : State) : Answer :=
  match takerOf s core with
  | none => .next s
  | some t =>
    match jobOf s t with
    | some (.takeover _ ret) => .next (settle (takeOver s core t cycles ret))
    | _ => .next s

/-! ## The ledger's flash writes (R379) -/

/-- LEDGER_WRITE_RETRY: the oldest write that failed is tried again. -/
def execLedgerWriteRetry (written : Bool) (s : State) : Answer :=
  match s.boot.ledgerDue with
  | [] => .next s
  | (f, r) :: rest =>
    let s := { s with boot := { s.boot with ledgerDue := rest } }
    .next (if written then
        runJob s ⟨f, ledgerOffset s r, leOfWords (s.boot.ledger.getD r []), false, .ledger r⟩
      else ledgerFailed s f r)

/-! ## In-field test (R381, R383) -/

/-- A core that may be tested: active or the reserve. -/
def testable (s : State) (u : Nat) : Bool := coreState s u == csActive || coreState s u == csReserve

/-- How old a core's last passed test is, in minutes of device time: 0xFF_FFFF is the oldest. -/
def testedAt (s : State) (u : Nat) : Nat :=
  let m := rdf s (aFltCore u) 55 32
  if m = 0xFFFFFF then 0 else m + 1

/-- The cores of cluster n whose last passed test is oldest. -/
def oldestTested (s : State) (n : Nat) : List Nat :=
  let us := (coresOf n).filter (testable s)
  us.filter fun u => us.all fun v => decide (testedAt s u ≤ testedAt s v)

/-- The core to test: the one asked for, else the oldest tested; among equals the choice is free
(log 6). -/
def testChoice (s : State) (n : Nat) : Option Nat :=
  let asked := tget 0 s.cores.testNext n
  if asked ≠ 0 && testable s (asked - 1) then some (asked - 1)
  else
    match oldestTested s n with
    | [] => none
    | [u] => some u
    | us => us[Config.pick s.picks % us.length]?

/-- A test is in progress in cluster n, or its core's work moves for one. -/
def testRuns (s : State) (n : Nat) : Bool :=
  (coresOf n).any fun u =>
    coreState s u == csTesting || (coreState s u == csMigrating && retireMark s u == 0)

/-- The test of core u begins. -/
def beginTest (s : State) (n u : Nat) : State :=
  let s := { s with cores := { s.cores with testNext := tset 0 s.cores.testNext n 0 }, picks := s.picks + 1 }
  recountCores (setCoreState (setJob s u [.test]) u csTesting)

/-- Core t is to take over the work of core u, which is then tested. -/
def beginMove (s : State) (n u t : Nat) : State :=
  let s := { s with cores := { s.cores with testNext := tset 0 s.cores.testNext n 0 }, picks := s.picks + 1 }
  setCoreState (setJob s t [.takeover u false]) u csMigrating

/-- Core u is tested if the cluster can spare it now; else the test waits. -/
def tryTest (s : State) (n u : Nat) : State :=
  match reserveOf s n with
  | some r =>
    if (jobOf s r).isSome then s
    else if u = r then beginTest s n u
    else
      match jobOf s u with
      | none => recountCores (setCoreState (beginTest s n u) r csActive)
      | some (.run _ _ _) => beginMove s n u r
      | _ => s
  | none =>
    let others := ((coresOf n).filter fun v => v != u && coreServes s v).length
    if others < 4 then s
    else
      match jobOf s u with
      | none => beginTest s n u
      | some (.run _ _ _) =>
        match (freeCores s n).find? (· != u) with
        | some t => beginMove s n u t
        | none => s
      | _ => s

/-- FIELD_TEST_START: the test of a core of the cluster is due. -/
def execFieldTestStart (cluster : Nat) (s : State) : Answer :=
  if !clusterUp s cluster || !rdb s aFltCfg 63 || testRuns s cluster then .next s
  else
    match testChoice s cluster with
    | none => .next s
    | some u => .next (settle (tryTest s cluster u))

/-- A core that has passed its test: the reserve where the cluster has one to spare and none yet. -/
def passTest (s : State) (n u : Nat) : State :=
  let s := wrf (setJob s u []) (aFltCore u) 55 32 (Nat.min 0xFFFFFE (now s / 60000000000))
  let spare := decide (designCores < ((coresOf n).filter (coreServes s)).length)
  if (reserveOf s n).isNone && spare then setCoreState s u csReserve
  else recountCores (setCoreState s u csActive)

/-- FIELD_TEST_END: the test in progress in the cluster ends. -/
def execFieldTestEnd (cluster : Nat) (passed : Bool) (s : State) : Answer :=
  match (coresOf cluster).find? fun u => coreState s u == csTesting with
  | none => .next s
  | some u =>
    .next (settle (if passed then passTest s cluster u else retireCore (setJob s u []) u lrScanFail))

/-! ## Drain bounds (R386, R387) -/

/-- The work of core u ends with FALLOW, and the core is retired. -/
def drainCore (s : State) (u : Nat) : State :=
  match jobOf s u with
  | some (.run key k _) =>
    let s := event s 0x0F08 srcCore u {}
    let s := match takerOf s u with
      | some t => setJob s t []
      | none => s
    let s := setJob s u []
    let s := failHere (discardChunk s key k) key 4 0x1FF 0xFFFF
    finishRetire (setRetireMark s u lrDrainTimeout) u
  | _ => s

/-- DRAIN_TIMEOUT: the bound of a fallow unit has passed. Only cores hold work that the model does
not end at once. -/
def execDrainTimeout (kind : UnitKind) (index : Nat) (s : State) : Answer :=
  let leaving := fun u => coreState s u == csFallow || coreState s u == csMigrating
  match kind with
  | .core => .next (if leaving index then settle (drainCore s index) else s)
  | .cluster =>
    .next (if clusterUp s index then s else settle (forAll drainCore s (coresOf index)))
  | _ => .next s

/-! ## FLT_CMD and FLT_STAT (R393, R394) -/

def fltUnitRange : Nat := 0x80
def fltState : Nat := 0x81
def fltLedgerFull : Nat := 0x82

/-- Number of units of a kind. -/
def unitCount : Nat → Nat
  | 1 => 108
  | 2 => 192
  | 3 => 12
  | 4 => 512
  | _ => 0

/-- A unit is out of service for good in this start. -/
def unitOut (s : State) (kind u : Nat) : Bool :=
  match kind with
  | 1 => coreState s u == csRetired || (retireMark s u != 0 && retireMark s u != timedOutMark)
  | 2 => s.cores.tillersOut.contains u
  | _ => s.cores.unitsOut.contains (kind, u)

/-- A unit counts as retired by its newest record; without one, when it is out of service. -/
def unitRetired (s : State) (kind u : Nat) : Bool :=
  if s.boot.ledger.any fun r => bitsOf (wordAt r 0) 59 56 == kind && bitsOf (wordAt r 0) 55 40 == u then
    ledgerRetired s kind u
  else unitOut s kind u

/-- Put a unit out of service and record it. -/
def retireUnit (s : State) (kind u : Nat) : State :=
  if unitOut s kind u then (appendLedger s 1 kind u lrOperator 0).1
  else
    match kind with
    | 1 => retireCore s u lrOperator
    | 2 => retireTiller s u lrOperator
    | _ =>
      let s := (appendLedger s 1 kind u lrOperator 0).1
      let s := { s with cores := { s.cores with unitsOut := s.cores.unitsOut ++ [(kind, u)] } }
      if kind = ukCluster then clusterFallow s u false
      else
        let s := setLaneState s u lnFailed
        match portOfLane s u with
        | none => s
        | some p => checkLanes (showRx s p) p

/-- A command of FLT_CMD: the state and the RESULT code. -/
def fltCommand (s : State) (op kind u : Nat) : State × Nat :=
  let full := decide (1024 ≤ s.boot.ledger.length)
  let r : State × Nat :=
    if unitCount kind ≤ u || (op = 3 && kind != ukCore) then (s, fltUnitRange)
    else
      match op with
      | 1 =>
        if unitRetired s kind u then (s, fltState)
        else (settle (retireUnit s kind u), if full then fltLedgerFull else 0)
      | 2 =>
        if unitRetired s kind u then
          ((appendLedger s 2 kind u 0 0).1, if full then fltLedgerFull else 0)
        else (s, fltState)
      | 3 => ({ s with cores := { s.cores with testNext := tset 0 s.cores.testNext (u / 9) (u + 1) } }, 0)
      | _ => (s, 0)
  (wr r.1 aFltStat (bitsAt 63 56 r.2 ||| bitsAt 19 16 kind ||| bitsAt 15 0 u), r.2)

def fltCmdFields : List RField :=
  let oneToFour := fun v : Nat => decide (1 ≤ v ∧ v ≤ 4)
  [⟨63, 60, .wo, fun w => oneToFour (bitsOf w 63 60)⟩, ⟨59, 56, .wo, fun w => oneToFour (bitsOf w 59 56)⟩,
    rsv 55 16, wo 15 0]

/-- A write to FLT_CMD. A command accepted but not recorded is no refusal. -/
def fltCmdWrite (s : State) (path : Nat) (v : Word) : WrRes :=
  cmdWrite s path aFltCmd fltCmdFields v fun s =>
    let r := fltCommand s (bitsOf v 63 60) (bitsOf v 59 56) (bitsOf v 15 0)
    (r.1, if r.2 = fltLedgerFull then 0 else r.2)

def fltCmdWord (op kind u : Nat) : Word := bitsAt 63 60 op ||| bitsAt 59 56 kind ||| bitsAt 15 0 u

def fltRow (s : State) (path op kind u : Nat) : State :=
  mgApply s aFltCmd (fltCmdWord op kind u) fun s => fltCmdWrite s path (fltCmdWord op kind u)

/-- RETIRE. -/
def execRetire (path kind unit : Nat) (s : State) : Answer := .next (fltRow s path 1 kind unit)
/-- REINSTATE. -/
def execReinstate (path kind unit : Nat) (s : State) : Answer := .next (fltRow s path 2 kind unit)
/-- TEST_NOW. -/
def execTestNow (path kind unit : Nat) (s : State) : Answer := .next (fltRow s path 3 kind unit)
/-- FLT_QUERY. -/
def execFltQuery (path kind unit : Nat) (s : State) : Answer := .next (fltRow s path 4 kind unit)

/-- FLT_STAT as read. -/
def fltStatWord (s : State) : Word := rd s aFltStat ||| bitsAt 55 45 s.boot.ledger.length

/-- FLT_CFG (R392). -/
def fltCfgFields : List RField := [rw 63 63, rwIf 62 55 (· != 0), rsv 54 0]

/-- FLT_LEDGER_r as read (R396). -/
def ledgerWord (s : State) (r w : Nat) : Word := wordAt (s.boot.ledger.getD r []) w

end Sys2Proof.Machine
end

