-- ==== Sys2Proof/Machine/Places.lean ====
section
/-! DEFINITION. Decoding of a management address (R437, R438): the register, table word or window word that
lies at it. An address that no block maps, a hole in a block included, has no place (log 40). -/

namespace Sys2Proof.Machine

/-- What lies at a management address. -/
inductive Place
  /-- A read-only word that is read as it is stored. -/
  | stored (a : Nat)
  /-- A read-only word of a cluster or stack, read as stored while the unit is in service. -/
  | unitStored (n a : Nat)
  | islandSel | islandStat | strap | role | roleCmd | alert | capAvail
  | stage (path word : Nat)
  | identity (w : Nat) | chain (c w : Nat) | nonce (i : Nat) | secCmd | quoteWord (w : Nat) | grantWord (w : Nat)
  | htcStat
  | flash (f off : Nat)
  | linkCfg (p : Nat) | linkCmd (p : Nat) | retryStat (p : Nat) | retrySel (p : Nat) | prtStored (p a : Nat)
  | credit (p f : Nat) | pool (p : Nat) | markThr (p f : Nat) | fence (p j : Nat)
  | retryWin (p w : Nat) | queueWin (p f i w : Nat)
  | laneTest (l : Nat) | laneCmd (l : Nat)
  | fwdCfg | fwdEpoch | fwdCmd | fwdStat | fwdEntry (i : Nat) | ecmp (set w : Nat)
  | grnShare | gleanCfg | peekPtr | peekWin (w : Nat) | grnErr (w : Nat) | grnClass (k : Nat)
  | quota (plot f : Nat)
  | schPort (p : Nat) | shaper (p f w : Nat) | policer (p i w : Nat)
  | csWin (n off : Nat) | coreWin (u off : Nat) | member (n i w : Nat) | adv (n p : Nat) | hubWatch (n : Nat)
  | drlWatch (u : Nat)
  | group (g w : Nat) | groupDir (g : Nat) | groupCmd | groupStat | oscale (g w : Nat)
  | plot (p w : Nat) | plotCmd | plotStat
  | tilCfg (n : Nat) | tilCmd (n : Nat) | tilArg (n : Nat) | tilStat (n : Nat)
  | vrdCmd (n : Nat) | vrdArg (n : Nat) (second : Bool) | vrdStat (n : Nat) | verdict (n p w : Nat)
  | turnCfg (n : Nat) | turnCmd (n : Nat) | turnStat (n : Nat) | turnSlot (n t w : Nat)
  | entry (n e w : Nat) | hyp (n h w : Nat)
  | yldReg (i : Nat) | yldMap (slot w : Nat)
  | recCfg | recCmd | recMask (j : Nat)
  | fltCfg | fltCmd | fltStat | ledger (r w : Nat)
  | evtCfg | evtAck
  | counter (g i x w : Nat) | snapCmd | snapCfg
  | hbm (n off : Nat)
deriving DecidableEq, Repr

/-- GLB and CAP. -/
def placeGlb (a : Nat) : Option Place :=
  if a = aIslandSel then some .islandSel
  else if a = aIslandStat then some .islandStat
  else if a = aStrap then some .strap
  else if a = aRole then some .role
  else if a = aRoleCmd then some .roleCmd
  else if a = aAlert then some .alert
  else if a = aCapAvail then some .capAvail
  else if [aBoot, aEpoch, aTime, aTherm, aCapId, aCapSizes].contains a then some (.stored a)
  else if aSensor 0 ≤ a ∧ a < aSensor 64 then some (.stored a)
  else if aStage 0 ≤ a ∧ a < aStage 9 then some (.stage ((a - aStage 0) / 128) ((a - aStage 0) % 128 / 8))
  else none

/-- SEC, by offset (R425 to R428). -/
def placeSec (off : Nat) : Option Place :=
  if off = 0 then some (.stored aFuse)
  else if 0x40 ≤ off ∧ off < 0x80 then some (.identity ((off - 0x40) / 8))
  else if 0x100 ≤ off ∧ off < 0x200 then some (.chain ((off - 0x100) / 64) ((off - 0x100) % 64 / 8))
  else if 0x200 ≤ off ∧ off < 0x220 then some (.nonce ((off - 0x200) / 8))
  else if off = 0x220 then some .secCmd
  else if off = 0x228 then some (.stored aSecStat)
  else if 0x1_0000 ≤ off ∧ off < 0x1_75E8 then some (.quoteWord ((off - 0x1_0000) / 8))
  else if 0x2_0000 ≤ off ∧ off < 0x2_8000 then some (.grantWord ((off - 0x2_0000) / 8))
  else none

/-- PRT of port p and LNK of lane p, by offset. -/
def placePrt (p off : Nat) : Option Place :=
  if off = 0x0000 then some (.linkCfg p)
  else if off = 0x0008 ∨ off = 0x0010 ∨ off = 0x0028 then some (.prtStored p (aPrt p off))
  else if off = 0x0018 then some (.linkCmd p)
  else if off = 0x0020 then some (.retryStat p)
  else if off = 0x0030 then some (.retrySel p)
  else if 0x0200 ≤ off ∧ off < 0x0270 then some (.credit p ((off - 0x0200) / 8))
  else if off = 0x0280 then some (.pool p)
  else if 0x0400 ≤ off ∧ off < 0x0440 then some (.markThr p (8 + (off - 0x0400) / 8))
  else if 0x1000 ≤ off ∧ off < 0x1200 then some (.fence p ((off - 0x1000) / 8))
  else if 0x2000 ≤ off ∧ off < 0x2100 then some (.retryWin p ((off - 0x2000) / 8))
  else if 0x4000 ≤ off ∧ off < 0x6000 then
    let i := (off - 0x4000) / 64
    some (.queueWin p (i / 8) (i % 8) (off % 64 / 8))
  else if off = 0x8000 ∨ off = 0x8018 then some (.stored (aPrt p off))
  else if off = 0x8008 then some (.laneTest p)
  else if off = 0x8010 then some (.laneCmd p)
  else none

/-- FWD (R111, R112, R127 to R129). -/
def placeFwd (a : Nat) : Option Place :=
  if a = aFwdCfg then some .fwdCfg
  else if a = aFwdEpoch then some .fwdEpoch
  else if a = aFwdCmd then some .fwdCmd
  else if a = aFwdStat then some .fwdStat
  else if aFwdEntry 0 ≤ a ∧ a < aFwdEntry 262144 then some (.fwdEntry ((a - aFwdEntry 0) / 8))
  else if aEcmp 0 0 ≤ a ∧ a < aEcmp 4096 0 then some (.ecmp ((a - aEcmp 0 0) / 128) ((a - aEcmp 0 0) % 128 / 8))
  else none

/-- GRN (R263, R264, R269, R276 to R280, R438). -/
def placeGrn (a : Nat) : Option Place :=
  if a = aGrnShare then some .grnShare
  else if a = aGleanCfg then some .gleanCfg
  else if a = aGleanStat then some (.stored a)
  else if a = aPeekPtr then some .peekPtr
  else if a = aGrnErr 0 then some (.grnErr 0)
  else if a = aGrnErr 1 then some (.grnErr 1)
  else if aGrnClass 0 ≤ a ∧ a < aGrnClass 7 then some (.grnClass ((a - aGrnClass 0) / 8))
  else if aQuota 0 0 ≤ a ∧ a < aQuota 4096 0 then
    let i := (a - aQuota 0 0) / 8
    some (.quota (i / 16) (i % 16))
  else if 0x3040_0000 ≤ a ∧ a < 0x3040_4000 then some (.peekWin ((a - 0x3040_0000) / 8))
  else if aBufStatus 0 ≤ a ∧ a < aBufStatus 1048576 then some (.stored a)
  else if aOwnerRec 0 0 ≤ a ∧ a < aOwnerRec 16384 0 then some (.stored a)
  else none

/-- SCH and POL, 4 KiB per port. -/
def placeSch (a : Nat) : Option Place :=
  let p := (a - 0x3800_0000) / 0x1000
  let off := (a - 0x3800_0000) % 0x1000
  if 512 ≤ p then none
  else if off = 0 then some (.schPort p)
  else if 0x100 ≤ off ∧ off < 0x300 then some (.shaper p ((off - 0x100) / 32) (off % 32 / 8))
  else none

def placePol (a : Nat) : Option Place :=
  let p := (a - 0x3C00_0000) / 0x1000
  let off := (a - 0x3C00_0000) % 0x1000
  if 512 ≤ p ∨ 0x200 ≤ off then none else some (.policer p (off / 32) (off % 32 / 8))

/-- Cluster n, by offset. -/
def placeCluster (n off : Nat) : Option Place :=
  if off < 0x80_0000 then some (.csWin n off)
  else if 0x0110_0000 ≤ off ∧ off < 0x0110_0000 + 32 * 16384 then
    some (.member n ((off - 0x0110_0000) / 32) (off % 32 / 8))
  else if 0x0120_0000 ≤ off ∧ off < 0x0120_0000 + 8 * 4096 then some (.adv n ((off - 0x0120_0000) / 8))
  else if 0x0130_1000 ≤ off ∧ off < 0x0130_1000 + 8 * 3072 then some (.unitStored n (aCluster n off))
  else if off = 0x0140_0000 then some (.hubWatch n)
  else if off = 0x0140_0008 then some (.unitStored n (aCluster n off))
  else if 0x0200_0000 ≤ off ∧ off < 0x0209_0000 then
    let k := (off - 0x0200_0000) / 0x1_0000
    match off % 0x1_0000 with
    | 0x00 | 0x10 | 0x18 => some (.unitStored n (aCluster n off))
    | 0x08 => some (.drlWatch (9 * n + k))
    | _ => none
  else if 0x0280_0000 ≤ off ∧ off < 0x0280_0000 + 0x0020_0000 * 9 then
    some (.coreWin (9 * n + (off - 0x0280_0000) / 0x0020_0000) (off % 0x0020_0000))
  else none

/-- BND. -/
def placeBnd (a : Nat) : Option Place :=
  if a < aGroup 65536 0 then some (.group ((a - aGroup 0 0) / 64) (a % 64 / 8))
  else if aGroupDir 0 ≤ a ∧ a < aGroupDir 65536 then some (.groupDir ((a - aGroupDir 0) / 8))
  else if a = aGroupCmd then some .groupCmd
  else if a = aGroupStat then some .groupStat
  else if aOscale 0 0 ≤ a ∧ a < aOscale 65536 0 then some (.oscale ((a - aOscale 0 0) / 128) (a % 128 / 8))
  else if aPlot 0 0 ≤ a ∧ a < aPlot 4096 0 then some (.plot ((a - aPlot 0 0) / 64) (a % 64 / 8))
  else if a = aPlotCmd then some .plotCmd
  else if a = aPlotStat then some .plotStat
  else none

/-- TIL, VRD and FBK of stack n, by offset. -/
def placeStack (n off : Nat) : Option Place :=
  if off = 0x00 then some (.tilCfg n)
  else if off = 0x08 then some (.tilCmd n)
  else if off = 0x10 then some (.tilArg n)
  else if off = 0x18 then some (.tilStat n)
  else if 0x100 ≤ off ∧ off < 0x180 then some (.unitStored n (aStack n off))
  else if off = 0x40_0008 then some (.vrdCmd n)
  else if off = 0x40_0010 then some (.vrdArg n false)
  else if off = 0x40_0018 then some (.vrdArg n true)
  else if off = 0x40_0020 then some (.vrdStat n)
  else if 0x41_0000 ≤ off ∧ off < 0x41_0000 + 64 * 4096 then
    some (.verdict n ((off - 0x41_0000) / 64) (off % 64 / 8))
  else if off = 0x80_0000 then some (.turnCfg n)
  else if off = 0x80_0008 then some (.turnCmd n)
  else if off = 0x80_0010 then some (.turnStat n)
  else if 0x88_0000 ≤ off ∧ off < 0x88_0000 + 32 * 64 then
    some (.turnSlot n ((off - 0x88_0000) / 32) (off % 32 / 8))
  else if 0x90_0000 ≤ off ∧ off < 0x90_0000 + 64 * 32768 then
    some (.entry n ((off - 0x90_0000) / 64) (off % 64 / 8))
  else if 0xE0_0000 ≤ off ∧ off < 0xE0_0000 + 128 * 1024 then
    some (.hyp n ((off - 0xE0_0000) / 128) (off % 128 / 8))
  else if 0xF0_0000 ≤ off ∧ off < 0xF0_0000 + 16 * 4096 then some (.unitStored n (aStack n off))
  else none

/-- YLD, REC, FLT and EVT. -/
def placeYld (off : Nat) : Option Place :=
  if off < 0x18 then some (.yldReg (off / 8))
  else if off = 0x18 then some (.stored (aYld 0x18))
  else if 0x10_0000 ≤ off ∧ off < 0x20_0000 then
    some (.yldMap ((off - 0x10_0000) / 0x2_0000) (off % 0x2_0000 / 8))
  else none

def placeRec (off : Nat) : Option Place :=
  if off = 0 then some .recCfg
  else if off = 8 then some .recCmd
  else if off < 0x30 then some (.stored (aRec off))
  else if 0x100 ≤ off ∧ off < 0x140 then some (.recMask ((off - 0x100) / 8))
  else none

def placeFlt (off : Nat) : Option Place :=
  if off = 0 then some .fltCfg
  else if off = 8 then some .fltCmd
  else if off = 0x10 then some .fltStat
  else if 0x100 ≤ off ∧ off < 0x100 + 8 * 108 then some (.stored (0xA200_0000 + off))
  else if 0x1_0000 ≤ off ∧ off < 0x1_0000 + 32 * 1024 then
    some (.ledger ((off - 0x1_0000) / 32) (off % 32 / 8))
  else none

def placeEvt (off : Nat) : Option Place :=
  if off = 0 then some .evtCfg
  else if off = 8 ∨ off = 0x18 then some (.stored (aEvt off))
  else if off = 0x10 then some .evtAck
  else if 0x1_0000 ≤ off ∧ off < 0x1_0000 + 32 * 8192 then some (.stored (aEvt off))
  else none

/-- CNT: counter slots and the snapshot registers (R448, R452). -/
def placeCnt (a : Nat) : Option Place :=
  let g := (a - 0xA400_0000) / 0x0100_0000
  let off := (a - 0xA400_0000) % 0x0100_0000
  let x := off % 512 / 16
  if a = aSnapCmd then some .snapCmd
  else if a = aSnapStat then some (.stored a)
  else if a = aSnapCfg then some .snapCfg
  else if aSnapGroup 0 0 ≤ a ∧ a < aSnapGroup 9 0 then some (.stored a)
  else if off / 512 < (cntShape g).1 ∧ x < (cntShape g).2 then some (.counter g (off / 512) x (off % 16 / 8))
  else none

/-- The place of an address of the map below the HBM window. -/
def placeLow (a : Nat) : Option Place :=
  if a < 0x0100_0000 then placeGlb a
  else if a < 0x0110_0000 then none
  else if a < 0x0120_0000 then placeSec (a - 0x0110_0000)
  else if a = aHtcStat then some .htcStat
  else if a < 0x0400_0000 then none
  else if a < 0x0800_0000 then some (.flash 0 (a - 0x0400_0000))
  else if a < 0x0C00_0000 then some (.flash 1 (a - 0x0800_0000))
  else if a < 0x1000_0000 then none
  else if a < 0x1200_0000 then placePrt ((a - 0x1000_0000) / 0x1_0000) (a % 0x1_0000)
  else if a < 0x2000_0000 then none
  else if a < 0x3000_0000 then placeFwd a
  else if a < 0x3800_0000 then placeGrn a
  else if a < 0x3C00_0000 then placeSch a
  else if a < 0x4000_0000 then placePol a
  else if a < 0x7000_0000 then placeCluster ((a - 0x4000_0000) / 0x0400_0000) ((a - 0x4000_0000) % 0x0400_0000)
  else if a < 0x8000_0000 then placeBnd a
  else if a < 0x8C00_0000 then placeStack ((a - 0x8000_0000) / 0x0100_0000) (a % 0x0100_0000)
  else if a < 0xA000_0000 then none
  else if a < 0xA100_0000 then placeYld (a - 0xA000_0000)
  else if a < 0xA200_0000 then placeRec (a - 0xA100_0000)
  else if a < 0xA300_0000 then placeFlt (a - 0xA200_0000)
  else if a < 0xA400_0000 then placeEvt (a - 0xA300_0000)
  else if a < 0xAD00_0000 then placeCnt a
  else none

/-- The place of a management address: aligned, in the 48-bit space (R9). -/
def placeOf (a : Nat) : Option Place :=
  if a % 8 ≠ 0 then none
  else if a < 0x0100_0000_0000 then placeLow a
  else
    let n := (a - 0x0100_0000_0000) / 0x0010_0000_0000
    if n < 12 then some (.hbm n ((a - 0x0100_0000_0000) % 0x0010_0000_0000)) else none

end Sys2Proof.Machine
end

