-- ==== Sys2Proof/Machine/Plots.lean ====
section
/-! DEFINITION. Plots (R337 to R340), the headland role (R343 to R345) and yield maps (R346 to R349). -/

namespace Sys2Proof.Machine

/-! ## Plot entries (R337, R338) -/

def rcPlotBusy : Nat := 0x60
def rcPlotRange : Nat := 0x61
def rcPlotCores : Nat := 0x62
def rcPlotWeight : Nat := 0x63

def psFree : Nat := 0
def psActive : Nat := 1
def psFallow : Nat := 2

def plotState (s : State) (p : Nat) : Nat := rdf s (aPlot p 0) 63 62

/-- Fields of the eight words. -/
def plotFields : List (List RField) :=
  [[ro 63 62, rw 61 61, rsv 60 60, rwIf 59 57 (· ≤ 4), rwIf 56 45 (· ≤ 2048), rsv 44 33,
      rwIf 32 16 (· ≤ 65536), rw 15 0],
    [rw 63 0], [rw 63 56, rw 55 48, rw 47 40, rw 39 32, rw 31 24, rsv 23 0],
    [rwIf 63 40 (· ≤ 0xEF_FFFF), rwIf 39 16 (· ≤ 0xF0_0000), rsv 15 0],
    [rsv 63 0], [rsv 63 0], [rsv 63 0], [rsv 63 0]]

/-- Plots that are not FREE, in ascending order. -/
def plotsLive (s : State) : List Nat :=
  s.regs.filterMap fun kv =>
    if aPlot 0 0 ≤ kv.1 ∧ kv.1 < aPlot 4096 0 ∧ (kv.1 - aPlot 0 0) % 64 = 0 ∧ bitsOf kv.2 63 62 ≠ psFree
    then some ((kv.1 - aPlot 0 0) / 64) else none

/-- The entries of the other plots that are not FREE. -/
def otherPlots (s : State) (p : Nat) : List Entry :=
  ((plotsLive s).filter (· != p)).map fun q => rdEntry s (aPlot q 0) 8

def groupRange (e : Entry) : Nat × Nat := (bitsOf (wordAt e 0) 15 0, bitsOf (wordAt e 0) 32 16)
def fieldRegion (e : Entry) : Nat × Nat := (bitsOf (wordAt e 3) 63 40, bitsOf (wordAt e 3) 39 16)

/-- Non-FREE groups of a plot. -/
def groupsOfPlot (s : State) (p : Nat) : List Nat :=
  (groupsLive s).filter fun g => (groupAt s g).plot == p

/-- PLOT_BUSY. -/
def plotBusy (s : State) (p : Nat) (e : Entry) : Bool :=
  let old := rdEntry s (aPlot p 0) 8
  let det := bitOf (wordAt e 0) 61
  p == 0
    || (plotState s p == psActive && (wordAt old 1 != wordAt e 1 || groupRange old != groupRange e
      || bitOf (wordAt old 0) 61 != det))
    || (det && (groupsOfPlot s p).any fun g =>
      let op := (groupAt s g).op
      decide (0x40 ≤ op ∧ op ≤ 0x7F))

/-- A non-FREE field-book entry of the plot lies outside a region of 4 KiB units. -/
def entryOutside (s : State) (p : Nat) (r : Nat × Nat) : Bool :=
  (List.range 12).any fun n => (entriesOf s n).any fun e =>
    let x := fbAt s n e
    x.plot == p
      && (regionBase x < r.1 * 4096 || decide ((r.1 + r.2) * 4096 < regionBase x + regionBytes x))

/-- PLOT_RANGE. -/
def plotRange (s : State) (p : Nat) (e : Entry) : Bool :=
  let g := groupRange e
  let f := fieldRegion e
  65536 < g.1 + g.2
    || (otherPlots s p).any (fun o => meets g.1 g.2 (groupRange o).1 (groupRange o).2)
    || (groupsOfPlot s p).any (fun x => !(g.1 ≤ x && decide (x < g.1 + g.2)))
    || decide (0xF0_0000 < f.1 + f.2)
    || (otherPlots s p).any (fun o => meets f.1 f.2 (fieldRegion o).1 (fieldRegion o).2)
    || entryOutside s p f

/-- Sum of a field over a plot's entry and the other non-FREE plots. -/
def plotSum (s : State) (p : Nat) (e : Entry) (word hi lo : Nat) : Nat :=
  ((e :: otherPlots s p).map fun x => bitsOf (wordAt x word) hi lo).sum

/-- SHARE_EXCEEDED. -/
def plotShareBad (s : State) (p : Nat) (e : Entry) : Bool :=
  storeUnits s < plotSum s p e 0 56 45
    || (List.range 12).any fun n => decide (bitsOf (wordAt e 0) 56 45 < plotClaims s p n 65536)

/-- The first condition of R338 that an entry breaks. -/
def plotRefusal (s : State) (p : Nat) (e : Entry) : Nat :=
  if plotBusy s p e then rcPlotBusy
  else if plotRange s p e then rcPlotRange
  else if plotShareBad s p e then rcShare
  else if 4 < plotSum s p e 0 59 57 then rcPlotCores
  else if [63, 55, 47, 39, 31].any fun hi => decide (255 < plotSum s p e 2 hi (hi - 7)) then rcPlotWeight
  else 0

/-- RESULT and PLOT of BND_PLOT_STAT. -/
def plotReport (s : State) (p code : Nat) : State := wr s aPlotStat (bitsAt 63 56 code ||| bitsAt 11 0 p)

/-- Store a committed entry: a FREE one becomes FALLOW. -/
def plotAccept (s : State) (p : Nat) (e : Entry) : State :=
  let free := plotState s p == psFree
  let s := wrEntry s (aPlot p 0) e
  if free then wrf s (aPlot p 0) 63 62 psFallow else s

/-- A write to word 0 of a plot's window. -/
def plotCommit (s : State) (path p : Nat) (v : Word) : WrRes :=
  commitEntry s path (aPlot p 0) plotFields v (fun s e => plotRefusal s p e)
    (fun s e => plotAccept s p e) (fun s code => plotReport s p code)

/-- PLOT_COMMIT. -/
def execPlotCommit (path plot : Nat) (value : Word) (s : State) : Answer :=
  .next (mgApply s (aPlot plot 0) value fun s => plotCommit s path plot value)

/-! ## Commands (R339) -/

/-- A Granary charge of the plot remains (R269). -/
def plotCharged (s : State) (p : Nat) : Bool :=
  ((List.range 16).any fun f => rdf s (aQuota p f) 20 0 != 0)
    || (heldBufs s).any fun x => x.1.isSome && rdf s (statusAddr x.1 x.2) 61 50 == p

/-- Nothing of the plot remains. -/
def plotEmpty (s : State) (p : Nat) : Bool :=
  groupsOfPlot s p == []
    && (List.range 12).all (fun n => (entriesOf s n).all fun e => (fbAt s n e).plot != p)
    && vrdState s p == vsFree && !plotCharged s p

/-- A plot goes FALLOW: its open instances end (R144, R156, R339). -/
def fallowPlot (s : State) (p : Nat) : State :=
  let s := wrf s (aPlot p 0) 63 62 psFallow
  settle (failGroups s 4 fun r => (groupAt s r.group).plot == p)

/-- A command of BND_PLOT_CMD: the state and the code. -/
def plotCommand (s : State) (op p : Nat) : State × Nat :=
  let st := plotState s p
  let r : State × Nat :=
    if op = 4 then (s, 0)
    else if p = 0 then (s, rcPlotBusy)
    else
      match op with
      | 1 => if st == psFallow then (wrf s (aPlot p 0) 63 62 psActive, 0) else (s, rcPlotBusy)
      | 2 => if st == psActive then (fallowPlot s p, 0) else (s, rcPlotBusy)
      | _ =>
        if st == psFallow && plotEmpty s p then
          (wrEntry s (aPlot p 0) ((List.range 8).map fun w => resetWord (aPlot p w)), 0)
        else (s, rcPlotBusy)
  (plotReport r.1 p r.2, r.2)

/-- A write to BND_PLOT_CMD. -/
def plotCmdWrite (s : State) (path : Nat) (v : Word) : WrRes :=
  cmdWrite s path aPlotCmd
    [⟨63, 60, .wo, fun w => 1 ≤ bitsOf w 63 60 && bitsOf w 63 60 ≤ 4⟩, rsv 59 12, wo 11 0] v
    fun s => plotCommand s (bitsOf v 63 60) (bitsOf v 11 0)

def plotRow (s : State) (path op p : Nat) : State :=
  let v := bitsAt 63 60 op ||| bitsAt 11 0 p
  mgApply s aPlotCmd v fun s => plotCmdWrite s path v

/-- PLOT_ACTIVATE. -/
def execPlotActivate (path plot : Nat) (s : State) : Answer := .next (plotRow s path 1 plot)
/-- PLOT_FALLOW. -/
def execPlotFallow (path plot : Nat) (s : State) : Answer := .next (plotRow s path 2 plot)
/-- PLOT_FREE. -/
def execPlotFree (path plot : Nat) (s : State) : Answer := .next (plotRow s path 3 plot)
/-- PLOT_QUERY. -/
def execPlotQuery (path plot : Nat) (s : State) : Answer := .next (plotRow s path 4 plot)

/-- BND_PLOT_STAT as read. -/
def plotStatWord (s : State) : Word :=
  rd s aPlotStat ||| bitsAt 55 54 (plotState s (rdf s aPlotStat 11 0))

/-! ## Fences (R340) -/

/-- A write to a word of PRT_PLOT_FENCE: plot 0 only on a management-capable port. -/
def fenceWrite (s : State) (path p j : Nat) (v : Word) : WrRes :=
  if cfgWidth s p = 0 then ⟨s, .access⟩
  else
    plainWrite s path (aFence p j)
      [⟨63, 0, .rw, fun w => !(j == 0 && bitOf w 0 && !rdb s (aCable p) 59)⟩] v

/-- PLOT_FENCE_WRITE. -/
def execPlotFenceWrite (path port index : Nat) (value : Word) (s : State) : Answer :=
  .next (mgApply s (aFence port index) value fun s => fenceWrite s path port index value)

/-! ## Headland role (R343 to R345) -/

def rcNotHeadland : Nat := 0x50
def rcRoleState : Nat := 0x51
def rcNoRole : Nat := 0x52
def rcNoTables : Nat := 0x53

def roleState (s : State) : Nat := rdf s aRole 63 62
def roleServing : Nat := 0
def roleStandby : Nat := 1

/-- A write to GLB_ROLE: ROLE_OF only in STANDBY. -/
def roleWrite (s : State) (path : Nat) (v : Word) : WrRes :=
  plainWrite s path aRole
    [ro 63 62, ro 61 61, rwIf 60 43 (fun _ => roleState s == roleStandby), ro 42 35, rsv 34 32, ro 31 0] v

/-- ROLE_OF_WRITE. -/
def execRoleOfWrite (path : Nat) (value : Word) (s : State) : Answer :=
  .next (mgApply s aRole value fun s => roleWrite s path value)

/-- Ports whose cabling entry has STANDBY set, in ascending order. -/
def standbyPorts (s : State) : List Nat := (portsOf s).filter fun p => rdb s (aCable p) 60

/-- A port FALLOW with reason ORDERED. -/
def orderedFallow (s : State) (p : Nat) : Bool := portState s p == lsFallow && portReason s p == rsOrdered

/-- ADOPT, accepted. -/
def adopt (s : State) : State :=
  let s := bumpMod (wrf s aRole 63 62 roleServing) aRole 31 0 1
  let s := event s 0x0107 srcDevice 0xFFF { detail := rdf s aRole 60 43 }
  forAll (fun s p => if orderedFallow s p then portRestore s p else s) s (standbyPorts s)

/-- Put a port FALLOW with reason ORDERED, from TEST through END_TEST. -/
def orderFallow (s : State) (p : Nat) : State :=
  if orderedFallow s p then s
  else if portState s p == lsTest then setPortReason (portEndTest s p) p rsOrdered
  else portFallow s p rsOrdered

/-- STAND_DOWN, accepted. -/
def standDown (s : State) : State :=
  let s := wrf (wrf s aRole 63 62 roleStandby) aRole 60 43 0x3FFFF
  settle (forAll orderFallow s (standbyPorts s))

/-- A command of GLB_ROLE_CMD (R345). -/
def roleCommand (s : State) (op : Nat) : State × Nat :=
  let code :=
    if !rdb s aRole 61 then rcNotHeadland
    else if op = 1 && roleState s == roleServing then rcRoleState
    else if op = 2 && roleState s == roleStandby then rcRoleState
    else if op = 1 && rdf s aRole 60 43 == 0x3FFFF then rcNoRole
    else if op = 1 && rd s aFwdEpoch == 0 then rcNoTables
    else 0
  let s := wrf s aRole 42 35 code
  if code ≠ 0 then (s, code) else if op = 1 then (adopt s, 0) else (standDown s, 0)

/-- A write to GLB_ROLE_CMD. -/
def roleCmdWrite (s : State) (path : Nat) (v : Word) : WrRes :=
  cmdWrite s path aRoleCmd
    [⟨63, 60, .wo, fun w => 1 ≤ bitsOf w 63 60 && bitsOf w 63 60 ≤ 2⟩, rsv 59 0] v
    fun s => roleCommand s (bitsOf v 63 60)

/-- ADOPT. -/
def execAdopt (path : Nat) (s : State) : Answer :=
  .next (mgApply s aRoleCmd (bitsAt 63 60 1) fun s => roleCmdWrite s path (bitsAt 63 60 1))

/-- STAND_DOWN. -/
def execStandDown (path : Nat) (s : State) : Answer :=
  .next (mgApply s aRoleCmd (bitsAt 63 60 2) fun s => roleCmdWrite s path (bitsAt 63 60 2))

/-! ## Yield maps (R346 to R349) -/

def aYldCfg : Nat := aYld 0x0
def aYldCollect : Nat := aYld 0x8
def aYldBase : Nat := aYld 0x10
def aYldStat : Nat := aYld 0x18

/-- Ports and hints of an epoch that ends (R116). -/
def endHints (s : State) : State :=
  let full := s.fab.epochPorts.filter fun p => forwarding s p && s.fab.hinted.contains p
  let t := full.foldl (fun t p => tset 0 t p 1) s.fab.settled
  let fab := { s.fab with
    settled := t, hinted := [], epochPorts := (portsOf s).filter (forwarding s) }
  { s with fab := fab }

/-- STALL counts the epoch (R346). -/
def endStalls (s : State) : State :=
  let f := fun (x : QueueStat) =>
    if x.stalledNow then { x with stall := Nat.min 255 (x.stall + 1), stalledNow := false } else x
  forAll (fun s kv => setStat s (kv.1 / 16) (kv.1 % 16) (f kv.2)) s s.yld.stats

/-- The word of a port's furrow in a map (R346, R347). -/
def furrowWord (s : State) (p f : Nat) : Word :=
  let x := statOf s p f
  let net := netPerRefill s p * s.yld.samples
  bitsAt 63 48 x.occMax ||| bitsAt 47 32 (Nat.min 0xFFFF (x.occSum / Nat.max 1 s.yld.samples))
    ||| bitsAt 31 16 x.marks ||| bitsAt 15 8 x.stall
    ||| bitsAt 7 0 (if net = 0 then 0 else Nat.min 255 (255 * x.bytes / net))

/-- The block of a port, empty where its mask would be. -/
def portBlock (s : State) (p : Nat) : List Byte :=
  let fs := allFurrows.filter fun f => furrowWord s p f != 0
  if !forwarding s p || fs = [] then []
  else
    let mask := fs.foldl (fun m f => m + 2 ^ f) 0
    leOfWords ((bitsAt 63 55 p ||| bitsAt 54 39 mask ||| bitsAt 38 34 (rdf s (aLinkStat p) 59 55)
      ||| bitsAt 33 29 (rdf s (aLinkStat p) 54 50)) :: fs.map (furrowWord s p))

/-- Blocks packed into parts of at most 8,160 bytes: (blocks, bytes) each. -/
def packParts : List (List Byte) → Nat × List Byte → List (Nat × List Byte)
  | [], acc => [acc]
  | b :: bs, acc =>
    if acc.2.length + b.length ≤ 8160 then packParts bs (acc.1 + 1, acc.2 ++ b)
    else acc :: packParts bs (1, b)

/-- The parts of the map that closes, with their headers. -/
def mapParts (s : State) (seq : Nat) : List (List Byte) :=
  let parts := packParts (((portsOf s).map (portBlock s)).filter (· ≠ [])) (0, [])
  parts.zipIdx.map fun x =>
    leOfWords [bitsAt 63 32 seq ||| bitsAt 31 24 x.2 ||| bitsAt 23 16 parts.length
        ||| bitsAt 15 8 (bitsOf s.yld.cfg 62 55),
      BitVec.ofNat 64 s.yld.start, bitsAt 63 46 (deviceId s) ||| bitsAt 45 36 x.1.1, 0] ++ x.1.2

/-- Header of part i of a map. -/
def mapHeader (s : State) (seq i n len : Nat) : Header :=
  let flags := (if i = 0 then flagFirst else 0) + (if i + 1 = n then flagLast else 0)
  dataHeader 0 tYieldMap 0 0 len flags (bitsOf s.yld.collect 63 46) (deviceId s) 0
    (BitVec.ofNat 64 (s.yld.base.toNat + 0x2_0000 * (seq % 8) + 8192 * i)) (BitVec.ofNat 64 seq)

/-- Queue a map for sending, or skip it while the previous one still waits (R348). -/
def sendMap (s : State) (seq : Nat) (parts : List (List Byte)) : State :=
  if bitsOf s.yld.collect 63 46 = 0x3FFFF then s
  else if s.yld.partsLeft ≠ 0 then bump s aYldStat 31 16 1
  else
    forAll (fun s x =>
      let h := mapHeader s seq x.2 parts.length x.1.length
      match routeOf s none h with
      | .toPort _ =>
        let s := { s with yld := { s.yld with partsLeft := s.yld.partsLeft + 1 } }
        sendRouted s 76 h x.1 .yieldPart
      | _ => s) s parts.zipIdx

/-- A map closes: it is kept readable and sent (R348). -/
def closeMap (s : State) : State :=
  let seq := (rdf s aYldStat 63 32 + 1) % 2 ^ 32
  let parts := mapParts s seq
  let s := wrf s aYldStat 63 32 seq
  let kept := tset [] s.yld.maps (seq % 8) parts.flatten
  sendMap { s with yld := { s.yld with maps := kept } } seq parts

/-- A map begins with the settings then in the registers (R349). -/
def beginMap (s : State) : State :=
  let y := { s.yld with
    cfg := rd s aYldCfg, collect := rd s aYldCollect, base := rd s aYldBase,
    epochs := 0, samples := 0, start := now s, stats := [] }
  { s with yld := y }

/-- YIELD_EPOCH: one 10 µs boundary. -/
def execYieldEpoch (s : State) : Answer :=
  if !isReady s then .next s
  else
    let s := endHints s
    if !mapRuns s then .next (beginMap s)
    else
      let s := endStalls s
      let s := { s with yld := { s.yld with epochs := s.yld.epochs + 1 } }
      if s.yld.epochs < bitsOf s.yld.cfg 62 55 then .next s
      else .next (beginMap (closeMap s))

/-- Fields of the YLD registers, by offset. -/
def yieldFields (i : Nat) : List RField :=
  match i with
  | 0 => [rw 63 63, rwIf 62 55 (· != 0), rsv 54 0]
  | 1 => [rw 63 46, rsv 45 0]
  | _ => [rwIf 63 0 fun v => v % 0x2_0000 == 0]

/-- A write to YLD_CFG, YLD_COLLECT or YLD_BASE (index 0 to 2). -/
def yieldWrite (s : State) (path i : Nat) (v : Word) : WrRes :=
  plainWrite s path (aYld (8 * i)) (yieldFields i) v

/-- YIELD_CONFIG_WRITE. -/
def execYieldConfigWrite (path index : Nat) (value : Word) (s : State) : Answer :=
  .next (mgApply s (aYld (8 * index)) value fun s => yieldWrite s path index value)

end Sys2Proof.Machine
end

