-- ==== Sys2Proof/Machine/Startup.lean ====
section
/-! DEFINITION. The fourteen steps of a start (R329, R330, R380, R397 to R416). -/

namespace Sys2Proof.Machine

/-! ## Strap sampling (R329 to R331) -/

/-- GLB_STRAP of 22 pins, which stand in the order of its bits 63:42. -/
def strapWord (pins : BitVec 22) (status : Nat) : Word := bitsAt 63 42 pins.toNat ||| bitsAt 41 40 status

/-- An odd number of ones (R330). -/
def oddOnes (pins : BitVec 22) : Bool :=
  ((List.range 22).filter fun i => pins.toNat.testBit i).length % 2 == 1

/-- TIER, PLANE and TRAY are legal (R330). -/
def strapLegal (pins : BitVec 22) : Bool :=
  let w := strapWord pins 0
  decide (bitsOf w 48 47 ≤ 2) && decide (bitsOf w 46 43 ≤ 7) && bitsOf w 63 52 != 0xFFF

/-- STRAP_ACCEPT: the value is taken, or the start halts. -/
def execStrapAccept (pins : BitVec 22) (s : State) : Answer :=
  if !starting s || bootStep s != 2 || rdf s aStrap 41 40 != 0 then .next s
  else
    let s := { s with el := { s.el with strapPins := pins } }
    if !oddOnes pins then .next (haltFree (wr s aStrap (strapWord pins 2)) jrStrapParity)
    else if !strapLegal pins then .next (haltFree (wr s aStrap (strapWord pins 3)) jrStrapIllegal)
    else .next (wr s aStrap (strapWord pins 1))

/-- STRAP_CHANGED: each change seen after acceptance. -/
def execStrapChanged (pins : BitVec 22) (s : State) : Answer :=
  if inReset s || rdf s aStrap 41 40 = 0 || pins = s.el.strapPins then .next s
  else
    let s := { s with el := { s.el with strapPins := pins } }
    .next (event (wrf s aStrap 39 39 1) 0x0106 srcDevice 0xFFF {})

/-! ## Measurement (R416) -/

def chainOf (s : State) (c : Nat) : List Byte := padTo 64 (s.boot.chains.getD c [])
def setChainBytes (s : State) (c : Nat) (x : List Byte) : State :=
  { s with boot := { s.boot with chains := ((List.range 4).map (chainOf s)).set c x } }

/-- Extend chain c by its i-th tag and a digest. -/
def extend (s : State) (c i : Nat) (digest : List Byte) : State :=
  setChainBytes s c (shake256 64 (chainOf s c ++ padTo 4 (Config.chainTag c i) ++ padTo 64 digest))

/-! ## Seed images (R407 to R410) -/

def partNumber : Nat := 0x7200
def fusedCount (s : State) : Nat := rdf s aFuse 63 57
def slotValid (s : State) (slot : Nat) : Bool := rdb s aFuse (53 + slot)
def slotRevoked (s : State) (slot : Nat) : Bool := rdb s aFuse (49 + slot)

/-- The section types that a manifest must carry once (R408). -/
def mandatory : List Nat := [0x0001, 0x0002, 0x0003, 0x0010, 0x0011, 0x0012, 0x0013, 0x0014, 0x0015]

/-- Check 2 of R409 on the manifest. -/
def manifestOk (xs : List Section) : Bool :=
  decide (1 ≤ xs.length) && decide (xs.length ≤ 64)
    && (mandatory.all fun t => (xs.filter fun x => x.typ == t).length == 1)
    && xs.all fun x => mandatory.contains x.typ
      || (x.typ == 0x0020 && decide (x.slot ≤ 15)
          && (xs.filter fun y => y.typ == 0x0020 && y.slot == x.slot).length == 1)

/-- The checks of R409 in order: the code of the first that fails. -/
def copyFault (s : State) (c : SeedCopy) : Nat :=
  if !(c.headerCrcOk && c.bodyCrcOk) then jrFlashCrc
  else if c.magic ≠ 0x53454544 || c.formatVersion ≠ 1 || !manifestOk c.sections then jrFormat
  else if c.part ≠ partNumber then jrWrongPart
  else if 4 ≤ c.ownerSlot || !slotValid s c.ownerSlot || slotRevoked s c.ownerSlot
      || shake256 32 (padTo 64 c.ownerPk) != hashBytes s c.ownerSlot then jrOwnerKey
  else if c.svn < fusedCount s then jrSvnLow
  else if !c.sigOk then jrSigInvalid
  else jrOk

def copyAt (s : State) (i : Nat) : Option SeedCopy := s.boot.image[i]?
def chosen (s : State) : Option SeedCopy := copyAt s (copyInUse s)

/-- The digest that the chosen copy's manifest gives a section. -/
def sectionDigest (s : State) (typ slot : Nat) : List Byte :=
  match chosen s with
  | some c => ((c.sections.find? fun x => x.typ == typ && x.slot == slot).map Section.digest).getD []
  | none => []

/-- Take a copy into use: chain 1 measures it. -/
def useCopy (s : State) (i : Nat) : State :=
  match copyAt s i with
  | none => s
  | some c =>
    let s := wrf (wrf s aBoot 56 56 i) aFuse 48 47 c.ownerSlot
    let s := setChainBytes s 1 []
    extend (extend s 1 0 (shake256 64 c.signed)) 1 1 c.ownerPk

/-- The copy of step 4: the one forced, else the valid one with the higher IMAGE_SEQ, A when equal. -/
def chooseCopy (s : State) (a b : SeedCopy) : Option Nat :=
  let okA := copyFault s a == jrOk
  let okB := copyFault s b == jrOk
  match failedCopySeq (s.boot.journal.takeWhile fun r =>
      !(recKind r == jkStart && bitsOf (wordAt r 0) 31 0 == s.boot.starts)) with
  | some q =>
    let used := if okA && a.imageSeq == q then 0 else 1
    if used = 0 then (if okB then some 1 else none) else (if okA then some 0 else none)
  | none =>
    if okA && (!okB || decide (b.imageSeq ≤ a.imageSeq)) then some 0
    else if okB then some 1 else none

/-- A step ends: its record, and the next one begins. -/
def endStep (s : State) (detail : Nat) : State :=
  let k := bootStep s
  beginStep (journal s jkStepEnd k jrOk 0xFFFF detail) (k + 1)

/-- A step ends with HALT. -/
def failStep (s : State) (code : Nat) : State :=
  haltFree (journal s jkStepEnd (bootStep s) code 0xFFFF 0) code

/-- Step 4. -/
def stepImage (s : State) (a b : SeedCopy) : State :=
  let s := { s with boot := { s.boot with image := [a, b] } }
  let forced := (failedCopySeq (s.boot.journal.takeWhile fun r =>
    !(recKind r == jkStart && bitsOf (wordAt r 0) 31 0 == s.boot.starts))).isSome
  match chooseCopy s a b with
  | none => failStep s (let c := copyFault s a; if c = jrOk then copyFault s b else c)
  | some i =>
    let c := if i = 0 then a else b
    let s := { s with boot := { s.boot with otherUsed := forced } }
    endStep (useCopy s i) c.imageSeq

/-- A section failed at step 5: the step runs again from the other copy, or the start halts (R398). -/
def otherCopy (s : State) : State :=
  let i := 1 - copyInUse s
  let ok := match copyAt s i with
    | some c => copyFault s c == jrOk
    | none => false
  if s.boot.otherUsed || !ok then failStep s jrSectionDigest
  else useCopy { s with boot := { s.boot with otherUsed := true } } i

/-- A section failed after step 5: a warm reset onto the other copy, or a halt (R410). -/
def badLater (s : State) : State :=
  if s.boot.otherUsed then failStep s jrSectionDigest
  else selfReset (journal s jkStepEnd (bootStep s) jrSectionDigest 0xFFFF 0)

/-! ## Step 3 -/

/-- The reeve ROM: START_EPOCH, START_SEQ, the identity key and chain 0 (R415, R416, R424). -/
def stepRom (s : State) (r : StepReport) : State :=
  let s := wr s aEpoch (bitsAt 63 32 r.random ||| bitsAt 31 0 s.boot.starts)
  let s := { s with boot := { s.boot with identity := padTo 64 r.identityPk } }
  let s := wrf (wrf s aFuse 46 46 1) aFuse 45 45 (b2n r.certMatches)
  let s := setIsland s 204 islandRunning
  let fuses := [fusedCount s, rdf s aFuse 56 53, rdf s aFuse 52 49]
    ++ (List.range 4).flatMap fun k => (hashBytes s k).map BitVec.toNat
  endStep (extend (extend s 0 0 r.romDigest) 0 1 (shake256 64 (Config.measured 0 fuses))) 0

/-! ## Step 5 (R380, R405, R446) -/

/-- Cores of a cluster that are kept out or have failed. -/
def coreOut (s : State) (u : Nat) : Bool := coreState s u == csRetired || coreState s u == csFallow
def coresLeft (s : State) (n : Nat) : Nat := ((coresOf n).filter fun u => !coreOut s u).length

/-- Clusters with fewer than three cores left are skipped (R377, R380, R398). -/
def skipSmall (s : State) : State :=
  forAll (fun s n => if coresLeft s n < 3 then skip s n else s) s (startClusters s)

/-- The retry settings of R405. -/
def retrySettings (s : State) : State :=
  forAll (fun s n =>
    let stack := failuresOf s 7 n
    let s := if stack = 1 then wrf s aBoot (16 + n) (16 + n) 1 else s
    if 2 ≤ stack || 2 ≤ failuresOf s 8 n then skip s n else s) s (List.range 12)

/-- The reeve's firmware runs: the log starts, the ledger and the journal are applied. -/
def stepFirmware (s : State) : State :=
  let s := { s with mg := { s.mg with logging := true } }
  let s := takeLedger s
  let cores := keptOut s ukCore 108
  let lanes := keptOut s ukLane 512
  let clusters := keptOut s ukCluster 12
  let tillers := keptOut s ukTiller 192
  let out := (clusters.map fun n => (ukCluster, n)) ++ lanes.map fun l => (ukLane, l)
  let s := { s with cores := { s.cores with tillersOut := tillers, unitsOut := out } }
  let s := forAll (fun s u => setCoreState s u csRetired) s cores
  let s := forAll (fun s n => skip s n) s clusters
  let s := retrySettings (skipSmall s)
  let s := extend s 2 0 (sectionDigest s 0x0001 0)
  let s := extend s 3 0 (shake256 64 (Config.measured 1
    (cores.map (65536 + ·) ++ tillers.map (131072 + ·) ++ clusters.map (196608 + ·) ++ lanes.map (262144 + ·))))
  let s := forAll (fun s i => setIsland s i islandLocking) s (List.range 204)
  endStep s 0

/-! ## Steps 6 to 8, 10 and 11 -/

/-- A core stays out for this start without a ledger record: its island or its test failed. -/
def keepCoreOut (s : State) (u : Nat) : State :=
  setRetireMark (setCoreState s u csFallow) u timedOutMark

/-- Lanes FAILED for this start (R397, R398). -/
def failLanes (s : State) (ls : List Nat) : State :=
  { s with cores := { s.cores with unitsOut := s.cores.unitsOut ++ ls.map fun l => (ukLaneStart, l) } }

/-- An island without lock keeps its unit out. -/
def islandOut (s : State) (i : Nat) : State :=
  let s := setIsland s i islandOff
  if i < 108 then keepCoreOut s i
  else if i < 172 then failLanes s ((List.range 8).map (8 * (i - 108) + ·))
  else if 180 ≤ i ∧ i < 192 then skip s (i - 180)
  else if 192 ≤ i ∧ i < 204 then skip s (i - 192)
  else s

/-- Step 6: a crossbar slice, or the reeve itself, without lock halts the start. -/
def stepIslands (s : State) (failed : List Nat) (avsMv code : Nat) : State :=
  let s := { s with el := { s.el with avsMv := if avsMv = 0 then s.el.avsMv else avsMv } }
  let s := forAll (fun s i =>
    if failed.contains i then journal (islandOut s i) jkUnit 6 code i 0 else setIsland s i islandRunning) s
    (List.range 204)
  if failed.any fun i => 172 ≤ i && i < 180 then failStep s code
  else endStep (skipSmall s) 0

/-- Steps 7 and 8: units that fail are journaled, and a warm reset retries them with the setting of R405. -/
def stepTrain (s : State) (k : Nat) (failed : List Nat) (code : Nat) : State :=
  let bad := (startClusters s).filter failed.contains
  if bad = [] then endStep s 0
  else
    let detail := fun n =>
      if k = 7 then (if failuresOf s 7 n = 0 then 0x0A00 else 0x0800) + failuresOf s 7 n + 1 else 0
    let s := forAll (fun s n => journal s jkUnit k code n (detail n)) s bad
    selfReset (journal s jkStepEnd k code 0xFFFF 0)

/-- A core that failed its test is retired (R377, R398). -/
def bistFail (s : State) (u : Nat) : State :=
  if coreOut s u || skipped s (u / 9) then s
  else
    let spare := decide (designCores < coresLeft s (u / 9))
    let s := (appendLedger (setCoreState s u csRetired) 1 ukCore u lrBistFail 0).1
    let s := event s 0x0F03 srcCore u {}
    if spare then s else event s 0x0F04 srcCluster (u / 9) {}

/-- Each cluster chooses its reserve (R381). -/
def chooseReserve (s : State) (n : Nat) : State :=
  let us := (coresOf n).filter fun u => !coreOut s u
  if designCores < us.length then setCoreState s (us.getLastD 0) csReserve else s

/-- Step 10. -/
def stepBist (s : State) (failed : List Nat) (programs : List DrillProgram) (code : Nat) : State :=
  let s := forAll (fun s u => journal (bistFail s u) jkUnit 10 code u 0) s
    ((List.range 108).filter fun u => failed.contains u && !coreOut s u && !skipped s (u / 9))
  let s := skipSmall s
  let s := forAll chooseReserve s (startClusters s)
  let s := { s with boot := { s.boot with programs := programs } }
  let s := extend s 2 2 (sectionDigest s 0x0003 0)
  let slots := (List.range 16).filter fun i =>
    (startClusters s).any fun n => rdb s (aTilRecipe n i) 63
  let s := forAll (fun s i => extend s 2 (3 + i) (sectionDigest s 0x0020 i)) s slots
  endStep s 0

/-- Step 11. -/
def stepLanes (s : State) (failed : List Nat) (code : Nat) : State :=
  let ls := (List.range 512).filter failed.contains
  endStep (forAll (fun s l => journal s jkUnit 11 code l 0) (failLanes s ls) ls) 0

/-! ## Step 9 (R183, R184) -/

/-- Costs of a microprogram's operations, with the epilogue's three (R181). -/
def recipeCost (r : RecipeImage) : Nat := (r.ops.map fun o => (tilOpOf o.op).cost).sum + 3

def recipeAccepted (r : RecipeImage) : Bool :=
  r.sigOk && r.formatVersion == 1 && !r.branches && !r.undeclaredAccess && r.endsWithEpilogue
    && r.declaredOps == recipeCost r && decide (recipeCost r ≤ 256)

/-- TIL_RECIPE_i of an accepted microprogram. -/
def recipeWord (r : RecipeImage) : Word :=
  bitsAt 63 63 1 ||| bitsAt 62 62 (b2n r.layoutA) ||| bitsAt 61 61 (b2n r.layoutB)
    ||| bitsAt 60 53 r.declaredOps ||| bitsAt 52 52 (b2n r.usesM1) ||| bitsAt 51 51 (b2n r.usesM2)
    ||| bitsAt 39 32 r.formatVersion ||| bitsAt 31 0 (leNat (r.digest.take 4))

/-- A microprogram for stack n: loaded, or refused and logged. -/
def loadRecipe (n : Nat) (s : State) (r : RecipeImage) : State :=
  if 16 ≤ r.slot then s
  else if recipeAccepted r then
    let s := { s with stk := { s.stk with recipes := tmod [] s.stk.recipes n (· ++ [r]) } }
    wr s (aTilRecipe n r.slot) (recipeWord r)
  else event s 0x0B02 srcStack n {}

def stepTillers (s : State) (recipes : List RecipeImage) : State :=
  let s := forAll (fun s n => forAll (loadRecipe n) s recipes) s (startClusters s)
  endStep (extend s 2 1 (sectionDigest s 0x0002 0)) 0

/-! ## Step 12 -/

/-- The position record of the straps (R332). -/
def positionOf (s : State) (t : SeedTables) : Option Position :=
  t.positions.find? fun p =>
    p.tray == rdf s aStrap 63 52 && p.slot == rdf s aStrap 51 49 && p.tier == rdf s aStrap 48 47
      && p.plane == rdf s aStrap 46 43

/-- R255 on the class layout. -/
def classesOk (cs : List (Nat × Nat)) : Bool :=
  let regions := cs.zipIdx.map fun p => (p.1.1, p.1.2 * 2 ^ p.2)
  decide (cs.length ≤ 7)
    && (cs.zipIdx.all fun p => p.1.2 % 8 == 0 && p.1.1 % 2 ^ p.2 == 0
      && decide (p.1.1 + p.1.2 * 2 ^ p.2 ≤ 2 ^ 20))
    && (regions.zipIdx.all fun a => regions.zipIdx.all fun b =>
      a.2 == b.2 || !meets a.1.1 a.1.2 b.1.1 b.1.2)

/-- R258 on the cluster stores. -/
def storesOk (t : SeedTables) : Bool :=
  decide (t.captureMiB ≤ 1) && decide (t.storeCounts.length ≤ 3)
    && decide ((t.storeCounts.zipIdx.map fun p => p.1 * 4 ^ p.2).sum ≤ 2048 - 256 * t.captureMiB)

/-- R300 on the port widths. -/
def widthsOk (ws : List (Nat × Nat)) : Bool :=
  (ws.all fun x => [1, 2, 4, 8, 16].contains x.2 && x.1 % x.2 == 0 && decide (x.1 + x.2 ≤ 512))
    && ws.zipIdx.all fun a => ws.zipIdx.all fun b =>
      a.2 == b.2 || !meets a.1.1 a.1.2 b.1.1 b.1.2

/-- R333: the device's own entry, and no other, carries LOCAL. -/
def localOk (t : SeedTables) (id : Nat) : Bool :=
  let marked := (t.inits.filter fun x =>
    decide (aFwdEntry 0 ≤ x.1) && decide (x.1 < aFwdEntry 262144) && bitOf x.2 61).map Prod.fst
  marked.contains (aFwdEntry id) && marked.all (· == aFwdEntry id)

/-- R335 on the cabling entries. -/
def cableOk (top tier : Nat) (c : Cable) : Bool :=
  match c.role with
  | 0 => tier == 0
  | 1 => tier != top && c.checkPeer
  | 2 => tier != 0 && c.checkPeer
  | _ => true

/-- The word of PRT_CABLE (R334). -/
def cableWord (c : Cable) : Word :=
  bitsAt 63 62 c.role ||| bitsAt 61 61 (b2n c.checkPeer) ||| bitsAt 60 60 (b2n c.standby)
    ||| bitsAt 59 59 (b2n c.manager) ||| bitsAt 58 41 c.peerId ||| bitsAt 40 32 c.peerPort

/-- The tables as loaded for a position: words of the ports and of what lies above them in the map. A port
that no cabling entry names is UNUSED. -/
def loadTables (s : State) (t : SeedTables) (p : Position) : State :=
  let s := forAll (fun s (x : Nat × Word) => if aPrt 0 0 ≤ x.1 then wr s x.1 x.2 else s) s t.inits
  let s := forAll (fun s (x : Nat × Nat) =>
    let cable := match p.cables.find? fun c => c.port == x.1 with
      | some c => cableWord c
      | none => bitsAt 63 62 3
    wr (wrf s (aLinkCfg x.1) 63 59 x.2) (aCable x.1) cable) s t.widths
  let s := forAll (fun s (c : (Nat × Nat) × Nat) =>
    wr s (aGrnClass c.2) (bitsAt 63 44 c.1.1 ||| bitsAt 43 26 c.1.2)) s t.classes.zipIdx
  let s := wrf s aGrnShare 41 21 t.ingress256
  let s := wrf s aRole 61 61 (b2n p.headland)
  let s := wr s aFwdEpoch 0
  { s with
    grn := { s.grn with captureMiB := t.captureMiB, storeCounts := t.storeCounts },
    boot := { s.boot with tables := some t, deviceId := p.deviceId, tier := p.tier, plane := p.plane } }

/-- The seed-image conditions on loaded registers: FLOOR and CEILING (R108), the granted credits
(R257) and scheduler weights (R286). The rule of the first that is broken. -/
def loadedFault (s : State) : Option Nat :=
  let ports := portsOf s
  if ports.any fun p => losslessFurrows.any fun f => furFloor s p f < 33 || furCeiling s p f < furFloor s p f then
    some 108
  else if rdf s aGrnShare 41 21 < grantedOf s then some 257
  else if ports.any fun p => (List.range 16).any fun f => f != 7 && rdf s (aSch p f 0) 63 56 == 0 then some 286
  else none

/-- The first rule that the image breaks for a position, with the state it would leave. -/
def tablesFault (s : State) (t : SeedTables) (p : Position) : Option Nat :=
  if !classesOk t.classes then some 255
  else if !storesOk t then some 258
  else if !widthsOk t.widths then some 300
  else if p.deviceId = 0x3FFFF || !localOk t p.deviceId then some 333
  else if !(p.cables.all (cableOk t.topTier p.tier)) then some 335
  else if p.headland && p.tier != t.topTier then some 343
  else loadedFault (loadTables s t p)

/-- What the tables section measures (R416). -/
def measureTables (s : State) : State :=
  let s := extend s 3 1 (shake256 64 (Config.measured 2 [(rd s aStrap).toNat]))
  forAll (fun s (x : Nat × Nat) => extend s 3 (2 + x.2) (sectionDigest s x.1 0)) s
    ([0x0010, 0x0011, 0x0012, 0x0013, 0x0014, 0x0015] : List Nat).zipIdx

/-- Step 13 begins: every port comes up FALLOW with reason ORDERED (R390). -/
def blindBringUp (s : State) : State :=
  forAll (fun s p => bringUp (trainLanes (portFallow s p rsOrdered) p) p true) s (portsOf s)

def stepTables (s : State) (t : SeedTables) : State :=
  let bad := fun code (rule : Nat) => halt (journal s jkStepEnd 12 code 0xFFFF 0) code rule
  match positionOf s t with
  | none => bad jrNoPosition 332
  | some p =>
    match tablesFault s t p with
    | some rule => bad jrTableInvalid rule
    | none =>
      let s := endStep (measureTables (loadTables s t p)) 0
      if isHalted s then s else blindBringUp s

/-! ## Step 14: Ready -/

/-- The security version is advanced when both copies allow it (R412). -/
def startAdvance (s : State) : State :=
  match chosen s, copyAt s (1 - copyInUse s) with
  | some c, some o =>
    if c.fuseAdvance && decide (fusedCount s < c.svn) && copyFault s o == jrOk && decide (c.svn ≤ o.svn) then
      { s with boot := { s.boot with svnTarget := c.svn } }
    else s
  | _, _ => s

/-- Lanes not marked failed (R7). -/
def lanesUp (s : State) : Nat :=
  ((List.range 512).filter fun l => laneState s l != lnFailed && !laneHeld s l).length

/-- CAP_AVAIL as read: LANES_IN_SERVICE counts from Ready. -/
def capWord (s : State) : Word :=
  putBits (rd s aCapAvail) 31 20 (if isReady s then lanesUp s else 0)

/-- CAP_AVAIL is set, the policer buckets are full, a headland spare is in STANDBY, and the device is
Ready (R7, R293, R343, R397). -/
def stepReady (s : State) : State :=
  let s := forAll (fun s n => wrf s aCapAvail (52 + n) (52 + n) 1) s (startClusters s)
  let s := recountCores s
  let s := forAll (fun s p => forAll (fun s i => fillSlot s p i) s (List.range 16)) s (portsOf s)
  let s := if rdb s aRole 61 then wrf (wrf s aRole 63 62 1) aRole 60 43 0x3FFFF else s
  let s := journal (journal s jkStepEnd 14 jrOk 0xFFFF 0) jkReady 14 jrOk 0xFFFF 0
  startAdvance (wrf s aBoot 59 58 bootReady)

/-! ## The rows -/

/-- Step 1 ends the supplies' wait: the start is journaled from here. -/
def stepPower (s : State) (ok : Bool) : State :=
  if ok then openStart s else halt s jrTimeout 0

/-- STARTUP_STEP_COMPLETE: the step that runs ends with its report (R397, R398). -/
def execStartupStepComplete (report : StepReport) (s : State) : Answer :=
  if !starting s then .next s
  else
    .next (match bootStep s with
      | 1 => stepPower s report.ok
      | 2 => if rdf s aStrap 41 40 = 1 then endStep s 0 else s
      | 3 => if report.ok then stepRom s report else failStep s jrRomCheck
      | 4 => stepImage s report.copyA report.copyB
      | 5 => if report.badSection.isSome || !report.ok then otherCopy s else stepFirmware s
      | 6 => stepIslands s report.failed report.avsMv jrPllLock
      | 7 => if report.badSection.isSome then badLater s else stepTrain s 7 report.failed jrTrainFail
      | 8 => stepTrain s 8 report.failed jrTrainFail
      | 9 =>
        if report.badSection.isSome then badLater s
        else if report.ok then stepTillers s report.recipes
        else failStep s jrTimeout
      | 10 =>
        if report.badSection.isSome then badLater s
        else stepBist s report.failed report.programs jrBistFail
      | 11 => if report.badSection.isSome then badLater s else stepLanes s report.failed jrCalFail
      | 12 => if report.badSection.isSome then badLater s else stepTables s report.tables
      | 13 => endStep s 0
      | 14 => if report.ok then stepReady s else failStep s jrTimeout
      | _ => s)

/-- STARTUP_STEP_TIMEOUT: the step's time runs out with these units unfinished (R397, R398). -/
def execStartupStepTimeout (unfinished : List Nat) (s : State) : Answer :=
  if !starting s then .next s
  else
    .next (match bootStep s with
      | 1 => halt s jrTimeout 0
      | 6 => stepIslands s unfinished 0 jrTimeout
      | 7 => stepTrain s 7 unfinished jrTimeout
      | 8 => stepTrain s 8 unfinished jrTimeout
      | 10 => stepBist s unfinished [] jrTimeout
      | 11 => stepLanes s unfinished jrTimeout
      | 13 => endStep s 0
      | _ => failStep s jrTimeout)

/-- SVN_ADVANCE_DONE: the fuses are blown and the advance is journaled (R412). -/
def execSvnAdvanceDone (s : State) : Answer :=
  let t := s.boot.svnTarget
  if t = 0 then .next s
  else
    let old := fusedCount s
    let s := { wrf s aFuse 63 57 t with boot := { s.boot with svnTarget := 0 } }
    .next (journal s jkSvn 14 jrOk 0xFFFF (old * 256 + t))

end Sys2Proof.Machine
end

