-- ==== Sys2Proof/Machine/Trust.lean ====
section
/-! DEFINITION. The SEC commands: quotes, copy checks and owner-key slots (R413, R414, R417, R426 to R428),
and writes through the flash windows (R411, R439). -/

namespace Sys2Proof.Machine

/-! ## SEC_STAT (R427) -/

def srSecBusy : Nat := 0x90
def srNotReady : Nat := 0x91
def srGrantInvalid : Nat := 0x92
def srLastSlot : Nat := 0x93
def srVerifyChanged : Nat := 0x94
def srSlotState : Nat := 0x95
def srNoRight : Nat := 0x96

def secBusy (s : State) : Nat := rdf s aSecStat 55 54
def setSecResult (s : State) (code : Nat) : State := wrf s aSecStat 63 56 code
def setSecBusy (s : State) (op : Nat) : State := wrf s aSecStat 55 54 op
/-- A command ends with a result. -/
def secDone (s : State) (code : Nat) : State := setSecBusy (setSecResult s code) 0

def aSecNonce (i : Nat) : Nat := 0x0110_0200 + 8 * i

/-! ## Quotes (R417) -/

/-- The 392-byte body that a quote signs. -/
def quoteBody (s : State) : List Byte :=
  let flags := rdf s aBoot 57 57 + 2 * copyInUse s + 4 * b2n (rdf s aBoot 39 16 != 0)
  [0x01, BitVec.ofNat 8 (fusedCount s)] ++ leBytes 2 partNumber ++ [BitVec.ofNat 8 stepping]
    ++ [BitVec.ofNat 8 flags, 0, 0]
    ++ leBytes 8 (match chosen s with
      | some c => c.imageSeq
      | none => 0)
    ++ leBytes 4 (deviceId s) ++ leBytes 4 (rdf s aEpoch 63 32)
    ++ leOfWords [rd s aStrap, capWord s] ++ leOfWords ((List.range 4).map fun i => rd s (aSecNonce i))
    ++ padTo 64 s.boot.identity ++ (List.range 4).flatMap (chainOf s)

/-- QUOTE_DONE: body and signature are in the quote buffer. -/
def execQuoteDone (signature : List Byte) (s : State) : Answer :=
  if secBusy s ≠ 1 then .next s
  else
    let q := padTo 392 s.boot.quoteWork ++ padTo 29792 signature
    let s := { s with boot := { s.boot with quote := q, quoteWork := [] } }
    .next (bumpMod (secDone s 0) aSecStat 31 0 1)

/-! ## Grants (R414) -/

def grantByte (s : State) (i : Nat) : Byte := readByte 0 s.boot.grant i
def grantBytes (s : State) (i n : Nat) : List Byte := (List.range n).map fun k => grantByte s (i + k)

/-- Programmed and not revoked. -/
def slotGood (s : State) (slot : Nat) : Bool := slotValid s slot && !slotRevoked s slot

/-- GRANT_INVALID's conditions. -/
def grantBad (s : State) (op slot : Nat) : Bool :=
  let signer := (grantByte s 3).toNat
  let zero := fun i n => (grantBytes s i n).all (· == 0)
  grantByte s 0 != 1 || (grantByte s 1).toNat != op || (grantByte s 2).toNat != slot
    || leNat (grantBytes s 4 4) != rdf s aEpoch 63 32 || leNat (grantBytes s 8 2) != partNumber
    || !zero 10 6 || !zero 176 16 || (op == 4 && !zero 16 32)
    || grantBytes s 48 64 != padTo 64 s.boot.identity
    || signer == slot || decide (4 ≤ signer) || !slotGood s signer
    || shake256 32 (grantBytes s 112 64) != hashBytes s signer
    || !Config.slhVerify (grantBytes s 112 64) (grantBytes s 0 192) (grantBytes s 192 29792)

/-- Every fuse already blown is set in the new hash. -/
def hashFits (s : State) (slot : Nat) (new : List Byte) : Bool :=
  (hashBytes s slot).zipIdx.all fun p => p.1 &&& new.getD p.2 0 == p.1

/-- The first failing check of R414, 0 when the grant stands. -/
def grantFault (s : State) (op slot : Nat) : Nat :=
  let others := (List.range 4).filter fun k => k != slot && slotGood s k
  if grantBad s op slot then srGrantInvalid
  else if op = 3 && (slotValid s slot || !hashFits s slot (grantBytes s 16 32)) then srSlotState
  else if op = 4 && !slotGood s slot then srSlotState
  else if op = 4 && others == [] then srLastSlot
  else 0

/-- A slot change begins. -/
def beginSlot (s : State) (op slot : Nat) : State × Nat :=
  let code := grantFault s op slot
  if code ≠ 0 then (setSecResult s code, code)
  else
    let boot := { s.boot with
      fuseWork := some (op, slot), fuseHash := if op = 3 then grantBytes s 16 32 else [] }
    (setSecBusy (setSecResult { s with boot := boot } 0) 3, 0)

/-- SLOT_FUSES_DONE. -/
def execSlotFusesDone (s : State) : Answer :=
  match s.boot.fuseWork with
  | none => .next s
  | some (op, slot) =>
    let t := if op = 3 then setHash s.boot.slotHashes slot s.boot.fuseHash else s.boot.slotHashes
    let s := { s with boot := { s.boot with slotHashes := t, fuseWork := none, fuseHash := [] } }
    let bit := if op = 3 then 53 + slot else 49 + slot
    .next (secDone (wrf s aFuse bit bit 1) 0)

/-! ## SEC_CMD (R426) -/

/-- A command by a path: slot changes only over the Hitch link; one at a time; from Ready on. -/
def secCommand (s : State) (path op slot : Nat) : State × Nat :=
  let refuse := fun (code : Nat) => (setSecResult s code, code)
  if path ≠ 0 && 3 ≤ op then refuse srNoRight
  else if secBusy s ≠ 0 then refuse srSecBusy
  else if !isReady s then refuse srNotReady
  else
    match op with
    | 1 =>
      let s := { s with boot := { s.boot with quoteWork := quoteBody s } }
      (setSecBusy (setSecResult s 0) 1, 0)
    | 2 => (setSecBusy (setSecResult s 0) 2, 0)
    | _ => beginSlot s op slot

def secCmdFields : List RField :=
  [⟨63, 60, .wo, fun w => 1 ≤ bitsOf w 63 60 && bitsOf w 63 60 ≤ 4⟩, wo 59 58, rsv 57 0]

/-- A write to SEC_CMD. -/
def secCmdWrite (s : State) (path : Nat) (v : Word) : WrRes :=
  cmdWrite s path aSecCmd secCmdFields v fun s => secCommand s path (bitsOf v 63 60) (bitsOf v 59 58)

def secRow (s : State) (path op slot : Nat) : State :=
  mgApply s aSecCmd (bitsAt 63 60 op ||| bitsAt 59 58 slot) fun s =>
    secCmdWrite s path (bitsAt 63 60 op ||| bitsAt 59 58 slot)

/-- QUOTE. -/
def execQuote (path : Nat) (s : State) : Answer := .next (secRow s path 1 0)
/-- VERIFY_COPY. -/
def execVerifyCopy (path : Nat) (s : State) : Answer := .next (secRow s path 2 0)
/-- PROGRAM_SLOT. -/
def execProgramSlot (path slot : Nat) (s : State) : Answer := .next (secRow s path 3 slot)
/-- REVOKE_SLOT. -/
def execRevokeSlot (path slot : Nat) (s : State) : Answer := .next (secRow s path 4 slot)

/-- VERIFY_COPY_DONE: the copy not chosen as R409 and R410 judge it. -/
def execVerifyCopyDone (copy : SeedCopy) (badSection : Option Nat) (s : State) : Answer :=
  if secBusy s ≠ 2 then .next s
  else
    let code := copyFault s copy
    .next (secDone s (if code = jrOk && badSection.isSome then jrSectionDigest else code))

/-! ## Flash windows (R411, R439) -/

/-- The key of a sector in `flashTop`. -/
def sectorKey (f off : Nat) : Nat := 1024 * f + off / sectorBytes

/-- The regions that management may write: the certificate, and the image of the copy not chosen. -/
def flashWritable (s : State) (f off : Nat) : Bool :=
  (decide (certBase ≤ off) && decide (off < imageBase))
    || (decide (imageBase ≤ off) && decide (off < bootBase) && decide (5 ≤ bootStep s) && f != copyInUse s)

/-- A write to a flash window: the sector's first word erases it, and later ones ascend. -/
def flashWindowWrite (s : State) (path f off : Nat) (v : Word) : WrRes :=
  let top := tget 0 s.mg.flashTop (sectorKey f off)
  let first := off % sectorBytes == 0
  if !flashWritable s f off || (!first && (top == 0 || decide (off < top))) then ⟨s, .access⟩
  else
    let s := { s with mg := { s.mg with flashTop := tset 0 s.mg.flashTop (sectorKey f off) (off + 8) } }
    let s := pushFlash s ⟨f, off, leBytes 8 v.toNat, first, .path path⟩
    let image := decide (imageBase ≤ off)
    ⟨if image && secBusy s == 2 then secDone s srVerifyChanged else s, .ok⟩

/-- Address of a flash window (R437). -/
def aFlash (f off : Nat) : Nat := 0x0400_0000 * (f + 1) + off

/-- FLASH_WRITE. -/
def execFlashWrite (path flash offset : Nat) (value : Word) (s : State) : Answer :=
  .next (mgApply s (aFlash flash offset) value fun s => flashWindowWrite s path flash offset value)

end Sys2Proof.Machine
end

