-- ==== Sys2Proof/Machine/TurnRows.lean ====
section
/-! DEFINITION. Turnover: slots and commands (R241 to R245), the destination (R250) and the source
(R251). -/

namespace Sys2Proof.Machine

/-! ## Slots and commands -/

def rcTurnBusy : Nat := 0x30
def rcTurnEntry : Nat := 0x31
def rcTurnBoundary : Nat := 0x32
def rcTurnPeer : Nat := 0x33
def rcTurnPhase : Nat := 0x34

def turnReport (s : State) (n t code : Nat) : State :=
  wr s (aTurnStat n) (bitsAt 63 56 code ||| bitsAt 5 0 t)

def turnFields (w : Nat) : List RField :=
  match w with
  | 0 => [ro 63 61, rw 60 60, rw 59 56, rw 55 41, rw 40 26, rw 25 8, ro 7 4, rsv 3 0]
  | 1 => [rw 63 32, rw 31 0]
  | 2 => [ro 63 40, ro 39 16, ro 15 8, rsv 7 0]
  | _ => [ro 63 32, rsv 31 0]

/-- A write to a word of a slot (R241). -/
def turnSlotWrite (s : State) (path n t w : Nat) (v : Word) : WrRes :=
  if !clusterUp s n then ⟨s, .access⟩
  else if turnPhase s n t ≠ tpFree then ⟨turnReport s n t rcTurnBusy, .refused rcTurnBusy⟩
  else ⟨turnReport (regWrite s path (aTurn n t w) (turnFields w) v) n t 0, .ok⟩

/-- TURN_SLOT_WRITE. -/
def execTurnSlotWrite (path stack slot word : Nat) (value : Word) (s : State) : Answer :=
  .next (mgApply s (aTurn stack slot word) value fun s => turnSlotWrite s path stack slot word value)

/-- The refusal of ARM, 0 for none (R245). -/
def armRefusal (s : State) (n t : Nat) : Nat :=
  let e := turnEntry s n t
  let x := fbAt s n e
  let dest := turnDest s n t
  let st := plotStep s x.plot
  let b := turnBoundary s n t
  let peer := turnPeerStack s n t
  if turnPhase s n t ≠ tpFree then rcTurnBusy
  else if (!dest && x.state != esActive) || (dest && (x.state != esFallow || x.updates != 0)) then
    rcTurnEntry
  else if (!dest && b ≤ st) || (dest && b < st) then rcTurnBoundary
  else if 11 < peer || (turnPeer s n t == deviceId s && (peer == n || !clusterUp s peer)) then
    rcTurnPeer
  else 0

/-- ARM (R242). -/
def turnArm (s : State) (n t : Nat) : State :=
  let s := wr (wr (setPhase (wrf s (aTurn n t 0) 7 4 0) n t tpArmed) (aTurn n t 2) 0) (aTurn n t 3) 0
  let s := setTurnWork s n t TurnWork.empty
  if turnDest s n t then setFbState s n (turnEntry s n t) esIncoming else s

/-- An ABORT packet. -/
def sendAbort (s : State) (n t reason : Nat) : State :=
  sendTurn s (endsOf s n t) tkAbort reason 0 (turnTotal s n t) 0 []

/-- The region of an aborted destination holds unspecified bytes (log 9). -/
def spoilRegion (s : State) (n : Nat) (x : Fb) : State :=
  let k := regionBytes x
  let s := hbmWrite s n (regionBase x) ((List.range k).map fun i => Config.freeByte (s.picks + i))
  { s with picks := s.picks + k }

/-- Landings and judgements that wait on an entry end with FALLOW. -/
def failWaiting (s : State) (n : Nat) (x : Fb) : State :=
  failGroups s 4 fun r =>
    let g := groupAt s r.group
    (r.landing == .waiting || r.judgeWait) && g.owner == n && g.plot == x.plot && g.tensor == x.tensor
      && meets g.elemBase g.elems x.elemBase x.elems

/-- ABORT (R242). -/
def turnAbort (s : State) (n t : Nat) : State :=
  let e := turnEntry s n t
  let x := fbAt s n e
  let s := if turnPhase s n t = tpArmed then s else sendAbort s n t trPeerAbort
  let s :=
    if turnDest s n t then
      if x.state = esIncoming then failWaiting (spoilRegion (setFbState s n e esFallow) n x) n x else s
    else if x.state ≠ esOutgoing then s
    else if x.stateLost then fallowEntry s n e
    else setBinStep (setFbState s n e esActive) n e (plotStep s x.plot)
  freeTurn s n t

/-- RESTART (R242). -/
def turnRestart (s : State) (n t : Nat) : State :=
  let s := setPhase (wrf s (aTurn n t 0) 7 4 0) n t tpMoving
  if turnDest s n t then
    wrf (setTurnWork s n t { turnWork s n t with nextPage := 0, checks := [], rejected := false })
      (aTurn n t 2) 39 16 0
  else sendPages s n t 0

/-- FINISH (R242). -/
def turnFinish (s : State) (n t : Nat) : State :=
  let e := turnEntry s n t
  let src := !turnDest s n t
  let s := freeTurn s n t
  if src then freeEntry s n e else s

/-- A command: the state and its code. -/
def turnCommand (s : State) (n op t : Nat) : State × Nat :=
  let ph := turnPhase s n t
  let r : State × Nat := match op with
    | 1 =>
      let c := armRefusal s n t
      if c ≠ 0 then (s, c) else (turnArm s n t, 0)
    | 2 => if ph = tpFree then (s, rcTurnPhase) else (settle (turnAbort s n t), 0)
    | 3 => if ph ≠ tpFailed then (s, rcTurnPhase) else (turnRestart s n t, 0)
    | 4 => if ph ≠ tpHanded then (s, rcTurnPhase) else (turnFinish s n t, 0)
    | _ => (s, 0)
  (turnReport r.1 n t r.2, r.2)

def turnCmdFields : List RField :=
  [⟨63, 60, .wo, fun w => 1 ≤ bitsOf w 63 60 && bitsOf w 63 60 ≤ 5⟩, rsv 59 6, wo 5 0]

/-- A write to FBK_TURN_CMD. -/
def turnCmdWrite (s : State) (path n : Nat) (v : Word) : WrRes :=
  if !clusterUp s n then ⟨s, .access⟩
  else cmdWrite s path (aTurnCmd n) turnCmdFields v fun s =>
    turnCommand s n (bitsOf v 63 60) (bitsOf v 5 0)

def turnCmdWord (op t : Nat) : Word := bitsAt 63 60 op ||| bitsAt 5 0 t

def turnRow (s : State) (path n op t : Nat) : State :=
  mgApply s (aTurnCmd n) (turnCmdWord op t) fun s => turnCmdWrite s path n (turnCmdWord op t)

def execTurnArm (path stack slot : Nat) (s : State) : Answer := .next (turnRow s path stack 1 slot)
def execTurnAbort (path stack slot : Nat) (s : State) : Answer := .next (turnRow s path stack 2 slot)
def execTurnRestart (path stack slot : Nat) (s : State) : Answer := .next (turnRow s path stack 3 slot)
def execTurnFinish (path stack slot : Nat) (s : State) : Answer := .next (turnRow s path stack 4 slot)
def execTurnQuery (path stack slot : Nat) (s : State) : Answer := .next (turnRow s path stack 5 slot)

/-- FBK_TURN_STAT as read (R243). -/
def turnStatWord (s : State) (n : Nat) : Word :=
  rd s (aTurnStat n) ||| bitsAt 55 53 (turnPhase s n (rdf s (aTurnStat n) 5 0))

def turnCfgFields : List RField := [rsv 63 24, rwIf 23 20 (1 ≤ ·), rsv 19 16, rwIf 15 0 fun v => 1 ≤ v && v ≤ 60000]

/-! ## Packets (R248) -/

/-- A TURNOVER packet as received. -/
structure TurnPkt where
  src : Nat
  plot : Nat
  kind : Nat
  dstStack : Nat
  dstEntry : Nat
  srcEntry : Nat
  srcStack : Nat
  reason : Nat
  id : Nat
  boundary : Nat
  page : Nat
  total : Nat
  check : Nat
  body : List Byte
deriving DecidableEq, Repr

def turnPktOf (fr : Frame) : TurnPkt :=
  let d := wordsOfLe 4 fr.payload
  let w := wordAt d
  { src := fr.hdr.src, plot := fr.hdr.plot, kind := bitsOf (w 0) 63 60, dstStack := bitsOf (w 0) 59 56,
    dstEntry := bitsOf (w 0) 55 41, srcEntry := bitsOf (w 0) 40 26, srcStack := bitsOf (w 0) 25 22,
    reason := bitsOf (w 0) 15 8, id := bitsOf (w 1) 63 32, boundary := bitsOf (w 1) 31 0,
    page := bitsOf (w 2) 63 40, total := bitsOf (w 2) 39 16, check := bitsOf (w 3) 63 32,
    body := fr.payload.drop 32 }

/-- The slot a packet is for, by the role of the receiving end (R250). -/
def turnMatch (s : State) (k : TurnPkt) (dest : Bool) : Option Nat :=
  (List.range 64).find? fun t =>
    let n := k.dstStack
    turnPhase s n t != tpFree && turnDest s n t == dest && turnEntry s n t == k.dstEntry
      && turnId s n t == k.id && turnPeer s n t == k.src

/-- REJECT NOT_ARMED to the sender of a packet. -/
def rejectNotArmed (s : State) (k : TurnPkt) : State :=
  sendTurn s ⟨k.src, k.plot, k.srcStack, k.srcEntry, k.dstEntry, k.dstStack, k.id, k.boundary⟩
    tkReject trNotArmed 0 k.total 0 []

/-- Take a TURNOVER frame of a kind: from a port its credits return; one of this device's own comes
from its list. None where the frame is not there or is of another kind. -/
def takeTurn (s : State) (port : Nat) (fr : Frame) (kind : Nat) : Option (State × TurnPkt) :=
  let k := turnPktOf fr
  if fr.hdr.type ≠ tTurnover || k.kind ≠ kind then none
  else if k.src = deviceId s then
    if s.fab.ownTurn.contains fr then
      some ({ s with fab := { s.fab with ownTurn := s.fab.ownTurn.erase fr } }, k)
    else none
  else some (returnCredits s port fr.hdr.furrow (creditsOf fr.hdr.length), k)

/-- Run a packet's effect at its stack; out of service, it is dropped and counted (R248). -/
def turnPacket (s : State) (port : Nat) (fr : Frame) (kind : Nat)
    (f : State → TurnPkt → State) : State :=
  match takeTurn s port fr kind with
  | none => s
  | some (s', k) =>
    if clusterUp s' k.dstStack then settle (f s' k)
    else if k.dstStack < 12 then count s' 8 k.dstStack 4 1
    else s'

/-! ## The destination (R250) -/

/-- A PAGE at its slot. -/
def pageAt (s : State) (n t : Nat) (k : TurnPkt) : State :=
  let w := turnWork s n t
  let x := fbAt s n (turnEntry s n t)
  if turnPhase s n t ≠ tpArmed ∧ turnPhase s n t ≠ tpMoving then s
  else if k.page < w.nextPage then s
  else if w.nextPage < k.page then
    if w.rejected then s
    else turnReject (setTurnWork s n t { w with rejected := true }) n t trGap w.nextPage
  else if crc32c k.body ≠ k.check then turnReject s n t trPageCrc k.page
  else
    let s := if k.page < pageTotal x then hbmWrite s n (pageAddr x copyArrays k.page) k.body else s
    let s := setTurnWork s n t
      { w with nextPage := k.page + 1, checks := w.checks ++ [k.check], rejected := false }
    let s := wrf (wrf s (aTurn n t 2) 63 40 k.total) (aTurn n t 2) 39 16 (k.page + 1)
    if turnPhase s n t = tpArmed then setPhase s n t tpMoving else s

/-- PAGE. -/
def execPage (port : Nat) (frame : Frame) (s : State) : Answer :=
  .next (turnPacket s port frame tkPage fun s k =>
    match turnMatch s k true with
    | none => rejectNotArmed s k
    | some t => if turnPhase s k.dstStack t = tpFailed then rejectNotArmed s k else pageAt s k.dstStack t k)

/-- What DONE compares of the two entries. -/
def sameShard (a b : Fb) : Bool :=
  a.plot == b.plot && a.layoutB == b.layoutB && a.frozen == b.frozen && a.polInf == b.polInf
    && a.sownFmt == b.sownFmt && a.recipe == b.recipe && a.customId == b.customId
    && a.tensor == b.tensor && a.elemBase == b.elemBase && a.elems == b.elems

/-- A DONE at its slot. -/
def doneAt (s : State) (n t : Nat) (k : TurnPkt) : State :=
  let w := turnWork s n t
  let ws := wordsOfLe 8 k.body
  let total := if turnPhase s n t = tpArmed then k.total else turnTotal s n t
  if turnPhase s n t = tpHanded then sendTurn s (endsOf s n t) tkConfirm 0 0 total 0 []
  else if turnDone s n t < total then turnReject s n t trGap w.nextPage
  else if !sameShard (fbOf ws) (fbAt s n (turnEntry s n t))
      || bitsOf (wordAt ws 1) 31 16 != turnBoundary s n t % 2 ^ 16 then
    setPhase (turnReject s n t trMismatch w.nextPage) n t tpFailed
  else
    let s := wrf s (aTurn n t 3) 63 32 (listCrc w.checks)
    setPhase (setTurnWork s n t { w with doneWords := ws, doneCheck := k.check }) n t tpVerifying

/-- DONE. -/
def execDone (port : Nat) (frame : Frame) (s : State) : Answer :=
  .next (turnPacket s port frame tkDone fun s k =>
    match turnMatch s k true with
    | none => rejectNotArmed s k
    | some t => if turnPhase s k.dstStack t = tpFailed then rejectNotArmed s k else doneAt s k.dstStack t k)

/-- The slot goes back to a page. -/
def turnBack (s : State) (n t page : Nat) : State :=
  let w := turnWork s n t
  let s := setTurnWork s n t { w with nextPage := page, checks := w.checks.take page, rejected := true }
  turnReject (wrf (setPhase s n t tpMoving) (aTurn n t 2) 39 16 page) n t trListCrc page

/-- The copy is right: the entry takes over and serves (R250). -/
def turnTake (s : State) (n t : Nat) : State :=
  let e := turnEntry s n t
  let ws := (turnWork s n t).doneWords
  let b := fbOf ws
  let s := wr s (aEntry n e 4) (wordAt ws 4)
  let s := wrf (wrf s (aEntry n e 1) 15 8 b.scale1) (aEntry n e 1) 7 0 b.scale0
  let s := setBinStep (clearStats s n e) n e (turnBoundary s n t)
  let s := wrf (wrf s (aEntry n e 5) 63 63 (b2n b.olderHeld)) (aEntry n e 5) 47 32
    (bitsOf (wordAt ws 5) 47 32)
  let s := wrf s (aEntry n e 7) 31 0 (bitsOf (wordAt ws 7) 31 0)
  let s := setFbState s n e esActive
  let s := sendTurn s (endsOf s n t) tkConfirm 0 0 (turnTotal s n t) 0 []
  retryJudgements (setPhase s n t tpHanded) n

/-- VERIFYING_END (R250). -/
def execVerifyingEnd (stack slot : Nat) (s : State) : Answer :=
  let n := stack
  let t := slot
  if !turnDest s n t || turnPhase s n t ≠ tpVerifying then .next s
  else
    let w := turnWork s n t
    let x := fbAt s n (turnEntry s n t)
    let bad := (List.range w.checks.length).find? fun i =>
      crc32c (pageOf s n x i) != w.checks.getD i 0
    match bad with
    | some i => .next (turnBack s n t i)
    | none =>
      if listCrc w.checks ≠ w.doneCheck then .next (turnBack s n t 0)
      else .next (settle (turnTake s n t))

/-- TURNOVER_TIMEOUT (R250). -/
def execTurnoverTimeout (stack slot : Nat) (s : State) : Answer :=
  if !turnDest s stack slot || turnPhase s stack slot ≠ tpMoving then .next s
  else
    let w := turnWork s stack slot
    let s := setTurnWork s stack slot { w with rejected := true }
    .next (turnAttempt (turnReject s stack slot trTimeout w.nextPage) stack slot trTimeout)

/-! ## The source (R251) -/

/-- A source slot that copies. -/
def copying (s : State) (n t : Nat) : Bool :=
  turnPhase s n t == tpMoving || turnPhase s n t == tpVerifying

/-- CONFIRM. -/
def execConfirm (port : Nat) (frame : Frame) (s : State) : Answer :=
  .next (turnPacket s port frame tkConfirm fun s k =>
    match turnMatch s k false with
    | none => s
    | some t => if copying s k.dstStack t then setPhase s k.dstStack t tpHanded else s)

/-- The source resumes at a page, unless its attempts are used up. -/
def turnResume (s : State) (n t reason page : Nat) (ecc : Ecc) : State :=
  let s := turnAttempt s n t reason
  if turnPhase s n t = tpFailed then s
  else
    match ecc with
    | .uncorrectable =>
      let s := entryLost (count s 8 n 2 1) n (turnEntry s n t)
      sendAbort (failTurn s n t trSourceUe) n t trSourceUe
    | .corrected => sendPages (setPhase (count s 8 n 1 1) n t tpMoving) n t page
    | .clean => sendPages (setPhase s n t tpMoving) n t page

/-- A REJECT at its slot. -/
def rejectAt (s : State) (n t : Nat) (k : TurnPkt) (ecc : Ecc) : State :=
  if !copying s n t then s
  else if k.reason = trMismatch then failTurn s n t trMismatch
  else if k.reason = trNotArmed then
    let s := turnAttempt s n t trNotArmed
    if turnPhase s n t = tpFailed then s else setPhase s n t tpMoving
  else if k.reason = trGap ∨ k.reason = trPageCrc ∨ k.reason = trListCrc ∨ k.reason = trTimeout then
    turnResume s n t k.reason k.page ecc
  else s

/-- REJECT. -/
def execReject (port : Nat) (frame : Frame) (ecc : Ecc) (s : State) : Answer :=
  .next (turnPacket s port frame tkReject fun s k =>
    match turnMatch s k false with
    | none => s
    | some t => rejectAt s k.dstStack t k ecc)

/-- PEER_ABORT: an ABORT for either end (R248, R251). -/
def execPeerAbort (port : Nat) (frame : Frame) (s : State) : Answer :=
  .next (turnPacket s port frame tkAbort fun s k =>
    let fail := fun t => failTurn s k.dstStack t trPeerAbort
    match turnMatch s k false with
    | some t => fail t
    | none =>
      match turnMatch s k true with
      | some t => fail t
      | none => s)

/-- DONE_TIMEOUT. -/
def execDoneTimeout (stack slot : Nat) (s : State) : Answer :=
  if turnDest s stack slot || turnPhase s stack slot ≠ tpVerifying then .next s
  else
    let s := turnAttempt s stack slot (rdf s (aTurn stack slot 2) 15 8)
    .next (if turnPhase s stack slot = tpFailed then s else sendDone s stack slot)

/-- NOT_ARMED_RESEND. -/
def execNotArmedResend (stack slot : Nat) (s : State) : Answer :=
  if turnDest s stack slot || turnPhase s stack slot ≠ tpMoving
      || rdf s (aTurn stack slot 2) 15 8 ≠ trNotArmed then .next s
  else .next (sendPages s stack slot 0)

end Sys2Proof.Machine
end

