-- ==== Sys2Proof/Machine/Verdicts.lean ====
section
/-! DEFINITION. The verdict commands: local records (R205), VERDICT packets (R204), plot entries (R223,
R224) and VRD_CMD (R225 to R228). -/

namespace Sys2Proof.Machine

/-- An ACTIVE VERDICT group of the plot (R226). -/
def vgroupOk (s : State) (p : Nat) : Bool :=
  let g := groupAt s (rdf s (aVerdict p 0) 44 29)
  g.state == gsActive && g.gkind == gkVerdict && g.plot == p

/-- The plot's VERDICT group takes records. -/
def vgroupUp (s : State) (p : Nat) : Bool :=
  let g := groupAt s (rdf s (aVerdict p 0) 44 29)
  g.state != gsFree && g.gkind == gkVerdict

/-- The local verdict for STEP is due (R205). -/
def localDue (s : State) (p : Nat) : Bool :=
  vrdState s p == vsCollecting && plotBinned s p (plotStep s p) && (vrdWork s p).owed.isNone
    && vgroupUp s p

/-- LOCAL_VERDICT_SEND: the record enters its run, and the plot votes (R205, R206). -/
def execLocalVerdictSend (plot : Nat) (s : State) : Answer :=
  if !localDue s plot then .next s
  else
    let rec' := localRecord s plot
    let s1 := wrf (wrf s (aVerdict plot 0) 63 61 vsVoting) (aVerdict plot 0) 53 53 0
    let s1 := wr s1 (aVerdict plot 4)
      (bitsAt 63 32 (bitsOf (wordAt rec' 1) 31 0) ||| bitsAt 31 0 (bitsOf (wordAt rec' 1) 63 32))
    match contributeOwn s1 plot rec' with
    | none => .next s
    | some s2 => .next (settle s2)

/-- VERDICT (R204, R208): a packet of another type has its own row. -/
def execVerdict (port : Nat) (frame : Frame) (s : State) : Answer :=
  if frame.hdr.type = tVerdict then .next (settle (takeColl s port frame)) else .next s

/-! ## The plot entry (R223, R224) -/

def rcVerdictBusy : Nat := 0x2A
def rcWrongStep : Nat := 0x2B
def rcIllegalOutcome : Nat := 0x2C
def rcVgroupInvalid : Nat := 0x2D

/-- A loss exponent of −32 to 32 in eight bits. -/
def lossExpOk (v : Nat) : Bool := v ≤ 0x20 || 0xE0 ≤ v

def verdictFields (w : Nat) : List RField :=
  match w with
  | 0 => [ro 63 61, rw 60 60, rwIf 59 57 (1 ≤ ·), rw 56 54, ro 53 53, rwIf 52 45 lossExpOk, rw 44 29,
      rsv 28 0]
  | 1 => [rw 63 32, rw 31 0]
  | 2 => [rw 63 32, rw 31 0]
  | 3 => [ro 63 32, ro 31 24, rsv 23 0]
  | 7 => [rsv 63 0]
  | _ => [ro 63 32, ro 31 0]

/-- The fields that are accepted only in FREE and FALLOW. -/
def guardedBits (w : Nat) : List (Nat × Nat) :=
  match w with
  | 0 => [(52, 45), (44, 29)]
  | 1 => [(63, 32), (31, 0)]
  | 2 => [(31, 0)]
  | _ => []

/-- Address of a plot entry's word in a stack's block, as a write names it. -/
def aVerdictIn (stack p w : Nat) : Nat := aVrd stack (0x0001_0000 + 64 * p + 8 * w)

/-- The one entry is written, and what the write logs names the address written (R445). -/
def verdictStore (s : State) (path stack p w : Nat) (v : Word) : State :=
  let old := rd s (aVerdict p w)
  wr (logWrite s path (aVerdictIn stack p w) (verdictFields w) old v) (aVerdict p w)
    (mergedWord true (verdictFields w) old v)

/-- A write to a word of a plot entry. -/
def verdictWrite (s : State) (path stack p w : Nat) (v : Word) : WrRes :=
  if !clusterUp s stack then ⟨s, .access⟩
  else
    let st := vrdState s p
    let old := rd s (aVerdict p w)
    let open' := st == vsFree || st == vsFallow
    let changes := (guardedBits w).any fun b => bitsOf v b.1 b.2 != bitsOf old b.1 b.2
    if open' || !changes then ⟨verdictStore s path stack p w v, .ok⟩
    else
      let v' := (guardedBits w).foldl (fun x b => putBits x b.1 b.2 (bitsOf old b.1 b.2)) v
      ⟨verdictStore s path stack p w v', .refused rcVerdictBusy⟩

/-- VERDICT_ENTRY_WRITE. -/
def execVerdictEntryWrite (path stack plot word : Nat) (value : Word) (s : State) : Answer :=
  .next (mgApply s (aVerdictIn stack plot word) value fun s => verdictWrite s path stack plot word value)

/-! ## VRD_CMD (R225, R226) -/

/-- What RESOLVE applies (R227). -/
def resolveArgs (s : State) (stack : Nat) : Decision :=
  ⟨rdf s (aVrdArg0 stack) 31 24, signed 8 (rdf s (aVrdArg0 stack) 23 16), rdf s (aVrdArg1 stack) 63 32,
    rdf s (aVrdArg1 stack) 31 0⟩

/-- A command: the state and its code. -/
def verdictCommand (s : State) (stack op p : Nat) : State × Nat :=
  let st := vrdState s p
  let d := resolveArgs s stack
  let r : State × Nat := match op with
    | 1 =>
      if st ≠ vsFree ∧ st ≠ vsFallow then (s, rcVerdictBusy)
      else if !vgroupOk s p then (s, rcVgroupInvalid)
      else (settle (wr (wrf s (aVerdict p 0) 63 61 vsCollecting) (aVerdict p 6) 0), 0)
    | 2 =>
      if st = vsFree then (s, rcVerdictBusy)
      else if st = vsCollecting ∨ st = vsUnresolved then (wrf s (aVerdict p 0) 63 61 vsFallow, 0)
      else if st = vsFallow then (s, 0)
      else (setVrdWork s p { vrdWork s p with fallowDue := true }, 0)
    | 3 =>
      if st ≠ vsFallow then (s, rcVerdictBusy)
      else (setVrdWork (wrf s (aVerdict p 0) 63 61 vsFree) p VerdictWork.empty, 0)
    | 4 =>
      if !(st == vsUnresolved || (st == vsCollecting && d.outcome != ocFit)) then (s, rcVerdictBusy)
      else if rdf s (aVrdArg0 stack) 63 32 ≠ plotStep s p then (s, rcWrongStep)
      else if d.outcome < 1 || 4 < d.outcome then (s, rcIllegalOutcome)
      else (settle (applyOutcome s p d), 0)
    | 5 => if st ≠ vsCollecting then (s, rcVerdictBusy) else (wrf s (aVerdict p 0) 53 53 1, 0)
    | _ => (s, 0)
  (wr r.1 (aVrdStat stack) (bitsAt 63 56 r.2 ||| bitsAt 11 0 p), r.2)

def verdictCmdFields : List RField :=
  [⟨63, 60, .wo, fun w => 1 ≤ bitsOf w 63 60 && bitsOf w 63 60 ≤ 6⟩, rsv 59 12, wo 11 0]

/-- A write to VRD_CMD. -/
def verdictCmdWrite (s : State) (path stack : Nat) (v : Word) : WrRes :=
  if !clusterUp s stack then ⟨s, .access⟩
  else cmdWrite s path (aVrdCmd stack) verdictCmdFields v fun s =>
    verdictCommand s stack (bitsOf v 63 60) (bitsOf v 11 0)

/-- The word that gives a verdict command. -/
def verdictCmdWord (op p : Nat) : Word := bitsAt 63 60 op ||| bitsAt 11 0 p

def verdictRow (s : State) (path stack op p : Nat) : State :=
  mgApply s (aVrdCmd stack) (verdictCmdWord op p) fun s =>
    verdictCmdWrite s path stack (verdictCmdWord op p)

def execVerdictStart (path stack plot : Nat) (s : State) : Answer := .next (verdictRow s path stack 1 plot)
def execVerdictFallow (path stack plot : Nat) (s : State) : Answer := .next (verdictRow s path stack 2 plot)
def execVerdictFree (path stack plot : Nat) (s : State) : Answer := .next (verdictRow s path stack 3 plot)
def execResolve (path stack plot : Nat) (s : State) : Answer := .next (verdictRow s path stack 4 plot)
def execSkipNext (path stack plot : Nat) (s : State) : Answer := .next (verdictRow s path stack 5 plot)
def execVerdictQuery (path stack plot : Nat) (s : State) : Answer := .next (verdictRow s path stack 6 plot)

/-- VRD_STAT as read (R228). -/
def verdictStatWord (s : State) (stack : Nat) : Word :=
  rd s (aVrdStat stack) ||| bitsAt 55 53 (vrdState s (rdf s (aVrdStat stack) 11 0))

def resolveArgFields (second : Bool) : List RField :=
  if second then [rw 63 32, rw 31 0] else [rw 63 32, rw 31 24, rwIf 23 16 lossExpOk, rsv 15 0]

end Sys2Proof.Machine
end

