-- ==== Sys2Proof/Machine/ReadBack.lean ====
section
/-! DEFINITION. Reading state back (R438, R440): the value that each place of the map shows. Nothing here
changes state. -/

namespace Sys2Proof.Machine

/-! ## Islands and heat (R20, R22, R465) -/

/-- Nominal clock of an island in units of 1/32 MHz (R18); an octet's follows its fastest port. -/
def nominal32 (s : State) (i : Nat) : Nat :=
  if i < 108 then 2250 * 32
  else if i < 172 then
    let o := i - 108
    let ports := (portsOf s).filter fun p => decide (p / 8 ≤ o ∧ 8 * o < p + cfgWidth s p)
    match (ports.map fun p => rdf s (aLinkStat p) 49 48).foldl Nat.max 0 with
    | 0 => 15000
    | 1 => 30000
    | _ => 60000
  else if i < 180 then 2500 * 32
  else if i < 192 then 2000 * 32
  else if i < 204 then 1500 * 32
  else 800 * 32

/-- Steps below nominal of an island's throttling domain. -/
def stepsOf (s : State) (i : Nat) : Nat :=
  if 108 ≤ i ∧ i < 172 then 0
  else if 192 ≤ i ∧ i < 204 then tget 0 s.el.stackSteps (i - 192)
  else rdf s aTherm 47 44

/-- A droop has stretched a core island's clock within the last 1 ms. -/
def drooping (s : State) (i : Nat) : Bool :=
  let t := tget 0 s.el.droops i
  t != 0 && decide (now s < t - 1 + 1000000)

/-- GLB_ISLAND_STAT for island i. -/
def islandWord (s : State) (i : Nat) : Word :=
  let st := islandState s i
  let k := stepsOf s i
  let mhz := if st = islandOff ∨ st = islandLocking then 0 else nominal32 s i * (16 - k) / 512
  bitsAt 63 56 i ||| bitsAt 55 54 st ||| bitsAt 53 52 (b2n (k != 0) + 2 * b2n (drooping s i))
    ||| bitsAt 51 40 mhz ||| bitsAt 31 0 (rdf s (aIsland i) 31 0)

/-! ## Windows -/

/-- The little-endian word of eight bytes. -/
def wordOf (bs : List Byte) : Word := BitVec.ofNat 64 (leNat bs)

/-- Word w of a byte string that reads zero beyond its end. -/
def byteWord (bs : List Byte) (w : Nat) : Word := wordOf ((bs.drop (8 * w)).take 8)

/-- Word `w` of the staging buffer of a path (R441). -/
def stagedWord (s : State) (path w : Nat) : Word :=
  let x := stageOf s path
  if w = 0 then bitsAt 63 63 (b2n x.valid) ||| bitsAt 54 48 (x.written / 2) ||| bitsAt 47 0 x.target
  else if w < 8 && x.written.testBit w then wordAt x.words w
  else 0

/-- A word of a store whose layout the manual does not give (log 42). -/
def looseWord (s : State) (store byte : Nat) : Word :=
  wordOf ((List.range 8).map fun i => Config.storeByte store s.picks (byte + i))

/-- Retry unit UNIT of PRT_RETRY_SEL, when it is held. -/
def heldUnit (s : State) (p : Nat) : Option Unit' :=
  (link s p).window.find? fun u => u.seq == rdf s (aRetrySel p) 11 0

/-- Packet i of egress queue (p, f): the one that is leaving stands first. -/
def queuedPkt (s : State) (p f i : Nat) : Option Pkt :=
  (((sendingOn s p).toList.filter fun k => k.hdr.furrow == f) ++ queueOf s p f)[i]?

/-- Word w of a queue slot (R438). -/
def queueWord (s : State) (p f i w : Nat) : Word :=
  match queuedPkt s p f i with
  | none => 0
  | some k =>
    match w with
    | 0 => k.hdr.w0
    | 1 => k.hdr.w1
    | 2 => k.hdr.w2
    | 3 => k.hdr.w3
    | 4 => bitsAt 63 32 (packetCrc k.hdr k.payload) ||| bitsAt 31 0 k.tail
    | 5 => bitsAt 31 0 (k.bufs.headD 0)
    | 6 => bitsAt 31 0 k.tag
    | _ => 0

/-- A byte of a packet buffer: as written, else a free value (log 9). -/
def bufByte (s : State) (ptr i : Nat) : Byte :=
  match (tget [] s.grn.data (bufKey none ptr))[i]? with
  | some b => b
  | none => Config.freeByte (s.picks + i)

/-- Word w of the peek window: none where the pointer fails R262. -/
def peekWord (s : State) (w : Nat) : Option Word :=
  let ptr := rdf s aPeekPtr 31 0
  if (ptrError s none ptr).isSome then none
  else if bufSize none ptr ≤ 8 * w then some 0
  else some (wordOf ((List.range 8).map fun i => bufByte s ptr (8 * w + i)))

/-- A word of the HBM window: none for a word that R200 has lost. -/
def hbmWord (s : State) (n off : Nat) : Option Word :=
  if s.stk.lostWords.contains (hbmKey n off / 32) then none
  else if tableBase ≤ off then some (looseWord s 2 (hbmKey n off))
  else some (wordOf (hbmRead s n off 8))

/-- A word of a counter slot: its shadow while the group is frozen (R450), zero for a unit out of service
(R448). -/
def counterWord (s : State) (g i x w : Nat) : Word :=
  let a := aCnt g i x + 8 * w
  let out := match g with
    | 1 => cfgWidth s i == 0
    | 2 | 3 => cfgWidth s (i / 16) == 0
    | 5 | 8 => !clusterUp s i
    | 6 => decide (8 ≤ i) && !clusterUp s (i - 8)
    | _ => false
  if out then 0
  else if rdb s (aSnapGroup g 0) 63 && s.mg.taken.contains g then tget (resetWord a) s.mg.shadow a
  else rd s a

/-- A word of the place of a port: its half of the block answers only at the port's lowest lane (R300). -/
def onPort (s : State) (p : Nat) (w : Word) : Option Word := if cfgWidth s p = 0 then none else some w

/-- A word of a cluster or stack in service (R437). -/
def onUnit (s : State) (n : Nat) (w : Word) : Option Word := if clusterUp s n then some w else none

/-- An ECMP set's word as read (R112, R113). -/
def ecmpWord (s : State) (set w : Nat) : Word :=
  match w with
  | 0 => putBits (rd s (aEcmp set 0)) 56 38 (refsActive s set)
  | 11 => BitVec.ofNat 64 (liveMask s set)
  | _ => rd s (aEcmp set w)

/-- A shaper's word as read: what has been staged, and the head's tag (R288, R290). -/
def shaperWord (s : State) (p f w : Nat) : Word :=
  if w ≤ 1 then tget (rd s (aSch p f w)) s.fab.staged (aSch p f w)
  else if w = 3 ∧ f ≠ 7 then putBits (rd s (aSch p f 3)) 63 32 (headTag s p f)
  else rd s (aSch p f w)

/-- The value that a place shows; none is an access error. -/
def readPlace (s : State) : Place → Option Word
  | .stored a => some (rd s a)
  | .unitStored n a => onUnit s n (rd s a)
  | .islandSel => some (rd s aIslandSel)
  | .islandStat => some (islandWord s (rdf s aIslandSel 7 0))
  | .strap => some (rd s aStrap)
  | .role => some (rd s aRole)
  | .roleCmd => some (rd s aRoleCmd)
  | .alert => some (alertWord s)
  | .capAvail => some (capWord s)
  | .stage p w => some (stagedWord s p w)
  | .identity w => some (byteWord s.boot.identity w)
  | .chain c w => some (byteWord (chainOf s c) w)
  | .nonce i => some (rd s (aSecNonce i))
  | .secCmd => some (rd s aSecCmd)
  | .quoteWord w => some (byteWord s.boot.quote w)
  | .grantWord w => some (wordOf (grantBytes s (8 * w) 8))
  | .htcStat => some (putBits (rd s aHtcStat) 57 48 s.mg.queue.length)
  | .flash f off => some (wordOf (readBytes flashFill (flashOf s f) off 8))
  | .linkCfg p => onPort s p (rd s (aLinkCfg p))
  | .linkCmd p => onPort s p (rd s (aLinkCmd p))
  | .retryStat p => onPort s p (retryWord s p)
  | .retrySel p => onPort s p (putBits (rd s (aRetrySel p)) 63 63 (b2n (heldUnit s p).isSome))
  | .prtStored p a => onPort s p (rd s a)
  | .credit p f => onPort s p (rd s (aCredit p f))
  | .pool p => onPort s p (rd s (aPool p))
  | .markThr p f => onPort s p (rd s (aCmarkThr p f))
  | .fence p j => onPort s p (rd s (aFence p j))
  | .retryWin p w => onPort s p (byteWord (((heldUnit s p).map Unit'.bytes).getD []) w)
  | .queueWin p f i w => onPort s p (queueWord s p f i w)
  | .laneTest l => some (rd s (aLaneTest l))
  | .laneCmd l => some (rd s (aLaneCmd l))
  | .fwdCfg => some (rd s aFwdCfg)
  | .fwdEpoch => some (rd s aFwdEpoch)
  | .fwdCmd => some (rd s aFwdCmd)
  | .fwdStat => some (fwdStatWord s)
  | .fwdEntry i => some (rd s (aFwdEntry i))
  | .ecmp set w => some (ecmpWord s set w)
  | .grnShare => some (shareWord s)
  | .gleanCfg => some (rd s aGleanCfg)
  | .peekPtr => some (rd s aPeekPtr)
  | .peekWin w => peekWord s w
  | .grnErr w => some (rd s (aGrnErr w))
  | .grnClass k => some (classWord s k)
  | .quota p f => some (rd s (aQuota p f))
  | .schPort p => some (putBits (rd s (aSchPort p)) 15 0 (netPerRefill s p))
  | .shaper p f w => some (shaperWord s p f w)
  | .policer p i w => some (tget (rd s (aPol p i w)) s.fab.staged (aPol p i w))
  | .csWin n off => onUnit s n (looseWord s 0 (n * 2 ^ 23 + off))
  | .coreWin u off => onUnit s (u / 9) (looseWord s 1 (u * 2 ^ 21 + off))
  | .member n i w => onUnit s n (rd s (aMember n i w))
  | .adv n p => onUnit s n (advPlotWord s n p)
  | .hubWatch n => onUnit s n (rd s (aHubWatch n))
  | .drlWatch u => onUnit s (u / 9) (rd s (aDrl u 8))
  | .group g w => some (rd s (aGroup g w))
  | .groupDir g => some (groupDirWord s g)
  | .groupCmd => some (rd s aGroupCmd)
  | .groupStat => some (groupStatWord s)
  | .oscale g w => some (rd s (aOscale g w))
  | .plot p w => some (rd s (aPlot p w))
  | .plotCmd => some (rd s aPlotCmd)
  | .plotStat => some (plotStatWord s)
  | .tilCfg n => onUnit s n (rd s (aTilCfg n))
  | .tilCmd n => onUnit s n (rd s (aTilCmd n))
  | .tilArg n => onUnit s n (rd s (aTilArg n))
  | .tilStat n => onUnit s n (tilStatWord s n)
  | .vrdCmd n => onUnit s n (rd s (aVrdCmd n))
  | .vrdArg n second => onUnit s n (rd s (if second then aVrdArg1 n else aVrdArg0 n))
  | .vrdStat n => onUnit s n (verdictStatWord s n)
  | .verdict n p w => onUnit s n (rd s (aVerdict p w))
  | .turnCfg n => onUnit s n (rd s (aTurnCfg n))
  | .turnCmd n => onUnit s n (rd s (aTurnCmd n))
  | .turnStat n => onUnit s n (turnStatWord s n)
  | .turnSlot n t w => onUnit s n (rd s (aTurn n t w))
  | .entry n e w => onUnit s n (rd s (aEntry n e w))
  | .hyp n h w => onUnit s n (rd s (aHyp n h w))
  | .yldReg i => some (rd s (aYld (8 * i)))
  | .yldMap slot w => some (byteWord (tget [] s.yld.maps slot) w)
  | .recCfg => some (rd s (aRec 0))
  | .recCmd => some (rd s (aRec 8))
  | .recMask j => some (rd s (aRec (0x100 + 8 * j)))
  | .fltCfg => some (rd s aFltCfg)
  | .fltCmd => some (rd s aFltCmd)
  | .fltStat => some (fltStatWord s)
  | .ledger r w => some (ledgerWord s r w)
  | .evtCfg => some (rd s (aEvt 0))
  | .evtAck => some (rd s (aEvt 0x10))
  | .counter g i x w => some (counterWord s g i x w)
  | .snapCmd => some (rd s aSnapCmd)
  | .snapCfg => some (rd s aSnapCfg)
  | .hbm n off => if clusterUp s n then hbmWord s n off else none

/-- A management read of one word (R9, R437); none is an access error. -/
def mgmtRead (s : State) (a : Nat) : Option Word := (placeOf a).bind (readPlace s)

/-- What a served read of an address leaves: only word 1 of GRN_ERR has a side effect (R280, R440). -/
def afterRead (s : State) (a : Nat) : State := if a = aGrnErr 1 then rearmGrnErr s else s

end Sys2Proof.Machine
end

