-- ==== Sys2Proof/Machine/Recording.lean ====
section
/-! DEFINITION. The journal (R357, R358, R360, R361), the REC registers (R362 to R364) and replay (R365 to
R367). -/

namespace Sys2Proof.Machine

def aRecCfg : Nat := aRec 0x0
def aRecCmd : Nat := aRec 0x8
def aRecDiverge : Nat := aRec 0x20
def aRecMask (j : Nat) : Nat := aRec (0x100 + 8 * j)

def rcRecBusy : Nat := 0x70
def rcReplayActive : Nat := 0x71
def rcReplaySig : Nat := 0x72
def rcReplayStacks : Nat := 0x73
def rcNoCapture : Nat := 0x74

def setRcd (s : State) (f : Recorder → Recorder) : State := { s with rcd := f s.rcd }

/-! ## Blocks (R357, R360) -/

def blocksPerStack : Nat := 49152
def totalBlocks (s : State) : Nat := blocksPerStack * (journalStacks s).length

/-- Stack and offset of block b. -/
def blockPlace (s : State) (b : Nat) : Nat × Nat :=
  let ks := journalStacks s
  let k := Nat.max 1 ks.length
  (ks.getD (b % k) 0, journalBase + 65536 * (b / k))

/-- The 64-byte header of the block in progress, over its body. -/
def blockHeader (s : State) (stack first time : Nat) (body : List Byte) : List Byte :=
  leOfWords
    [bitsAt 63 32 s.rcd.blocks ||| bitsAt 31 16 first ||| bitsAt 15 8 0x01 ||| bitsAt 7 0 stack,
     BitVec.ofNat 64 time, bitsAt 63 46 (deviceId s), bitsAt 63 32 (crc32c body), 0, 0, 0, 0]

/-- MARK (R358): its third word, REC_SEL, is no register of the manual and stays a free value. -/
def markEntry (s : State) (what : Nat) : JEntry :=
  journalEntry s 0x9 noPort noCluster
    [bitsAt 63 56 what, rd s aRecCfg, BitVec.ofNat 64 (Config.pick s.picks)]

/-- The last block is written: recording stops, or goes on at block 0 behind MARK WRAP (R360). -/
def journalEnd (s : State) (last : Nat) : State :=
  if rdb s aRecCfg 61 then
    let s := if rdb s aRecStat 59 then s else event s 0x0E02 srcDevice 0xFFF {}
    let m := markEntry s 3
    wrf { setRcd s (fun r => { r with pending := m :: r.pending }) with picks := s.picks + 1 }
      aRecStat 59 59 1
  else
    let s := setRcd s fun r => { r with pending := [], body := [] }
    event (wrf (wrf s aRecStat 63 60 recFull) aRecStat 39 20 last) 0x0E01 srcDevice 0xFFF {}

/-- Write the block in progress, short ones padded with zeros; what lies beyond it stays for the next
block. The time of the first entry of a block in which none begins is a free value. -/
def putBlock (s : State) : State :=
  let n := totalBlocks s
  let b := s.rcd.blocks % Nat.max 1 n
  let body := padTo blockBody s.rcd.body
  let place := blockPlace s b
  let none' := s.rcd.firstEntry == 0xFFFF
  let time := if none' then Config.pick s.picks else s.rcd.firstTime
  let s := hbmWrite s place.1 place.2 (blockHeader s place.1 s.rcd.firstEntry time body ++ body)
  let s := setRcd s fun r =>
    { r with blocks := r.blocks + 1, body := r.body.drop blockBody, firstEntry := 0xFFFF, firstTime := 0 }
  let s := { s with picks := s.picks + b2n none' }
  let s := if b + 1 = n then journalEnd s b else s
  if recState s = recFull then s
  else
    let head := s.rcd.blocks % Nat.max 1 n
    let s := wrf s aRecStat 39 20 head
    let s := if rdb s aRecStat 59 then wrf s aRecStat 19 0 ((head + 1) % Nat.max 1 n) else s
    if head % 16384 = 0 then captureGroupStates s else s

/-- Take the oldest captured entry into the block in progress. -/
def takeEntry (s : State) : State :=
  match s.rcd.pending with
  | [] => s
  | e :: rest =>
    setRcd s fun r =>
      { r with
        pending := rest, body := r.body ++ leOfWords e,
        firstEntry := if r.firstEntry = 0xFFFF then 64 + r.body.length else r.firstEntry,
        firstTime := if r.firstEntry = 0xFFFF then (wordAt e 1).toNat else r.firstTime }

/-- Take captured entries in until the block in progress is full, and write it. Fuel: how many wait. -/
def fillBlock' : Nat → State → State
  | 0, s => if blockBody ≤ s.rcd.body.length then putBlock s else s
  | n + 1, s => if blockBody ≤ s.rcd.body.length then putBlock s else fillBlock' n (takeEntry s)

/-- JOURNAL_WRITE. -/
def execJournalWrite (s : State) : Answer :=
  if recState s = recRecording && journalStacks s != [] then
    .next (fillBlock' s.rcd.pending.length s)
  else .next s

/-- Write every captured entry, the last block short. Fuel: entries that wait and wraps on the way. -/
def flushJournal : Nat → State → State
  | 0, s => s
  | n + 1, s =>
    if recState s ≠ recRecording then s
    else if s.rcd.pending = [] && s.rcd.body.length < blockBody then
      if s.rcd.body = [] then s else putBlock s
    else flushJournal n (fillBlock' s.rcd.pending.length s)

/-! ## Commands (R360, R363) -/

def recResult (s : State) (code : Nat) : State := wrf s aRecStat 57 50 code

/-- START, accepted: MARK START and a GROUP_STATE of every selected ACTIVE group. -/
def recStart (s : State) : State :=
  let mask := rdf s aCapAvail 63 52
  let s := setRcd s fun r =>
    { r with
      pending := [], body := [], firstEntry := 0xFFFF, firstTime := 0, blocks := 0, mask := mask,
      lost := 0, lostBytes := 0, gapDue := false }
  let s := wrf (wrf (wrf s aRecStat 59 58 0) aRecStat 39 0 0) aRecStat 63 60 recRecording
  let m := markEntry s 1
  captureGroupStates { setRcd s (fun r => { r with pending := [m] }) with picks := s.picks + 1 }

/-- STOP, accepted. -/
def recStop (s : State) : State :=
  let m := markEntry s 2
  let s := { setRcd s (fun r => { r with pending := r.pending ++ [m] }) with picks := s.picks + 1 }
  let s := flushJournal (s.rcd.pending.length + 70000) s
  if recState s = recFull then s
  else
    let n := Nat.max 1 (totalBlocks s)
    let last := (s.rcd.blocks + n - 1) % n
    let s := wrf (wrf s aRecStat 63 60 recStopped) aRecStat 39 20 last
    if rdb s aRecStat 59 then wrf s aRecStat 19 0 ((last + 1) % n) else s

/-! ## Reading the journal -/

/-- Entries of a byte string, up to a word that begins none. Fuel: the bytes. -/
def parseEntries : Nat → List Byte → List JEntry
  | 0, _ => []
  | n + 1, bs =>
    let w := BitVec.ofNat 64 (leNat (bs.take 8))
    let words := bitsOf w 59 44
    if words < 2 || bitsOf w 63 60 = 0 || bs.length < 8 * words then []
    else wordsOfLe words bs :: parseEntries n (bs.drop (8 * words))

/-- The kept blocks, oldest first. -/
def keptBlocks (s : State) : List Nat :=
  let n := Nat.max 1 (totalBlocks s)
  let tail := rdf s aRecStat 19 0
  let head := rdf s aRecStat 39 20
  (List.range ((head + n - tail) % n + 1)).map fun i => (tail + i) % n

def blockBytes (s : State) (b : Nat) : List Byte :=
  let p := blockPlace s b
  hbmRead s p.1 p.2 65536

/-- Bodies of the kept blocks from the first entry that begins in one of them. -/
def keptBytes (s : State) : List Nat → List Byte
  | [] => []
  | b :: bs =>
    let raw := blockBytes s b
    let first := leNat ((raw.drop 2).take 2)
    if first = 0xFFFF then keptBytes s bs
    else raw.drop first ++ bs.flatMap fun c => (blockBytes s c).drop 64

/-- The entries of the kept journal; none when nothing has been written since START. -/
def keptEntries (s : State) : List JEntry :=
  if s.rcd.blocks = 0 then []
  else
    let bs := keptBytes s (keptBlocks s)
    parseEntries bs.length bs

def entryKind (e : JEntry) : Nat := bitsOf (wordAt e 0) 63 60

/-- The group that an entry names: GROUP_STATE, DIGEST, ORDER, INSTANCE. -/
def entryGroup (e : JEntry) : Nat := bitsOf (wordAt e 2) 63 48
def entrySeq (e : JEntry) : Nat := bitsOf (wordAt e 3) 63 32

/-- Groups with a GROUP_STATE entry. -/
def stateGroups (es : List JEntry) : List Nat :=
  ((es.filter fun e => entryKind e == 0x6).map entryGroup).eraseDups

/-- The checks of R366. -/
def replayRefusal (s : State) (es : List JEntry) : Nat :=
  let gs := stateGroups es
  let latest := fun g => ((es.filter fun e => entryKind e == 0x6 && entryGroup e == g).getLast?).map entrySeq
  if recState s ≠ recFull && recState s ≠ recStopped then rcRecBusy
  else if rdf s aCapAvail 63 52 ≠ s.rcd.mask then rcReplayStacks
  else if gs.any fun g => (groupAt s g).state == gsActive then rcReplayActive
  else if gs.any fun g => latest g != some (groupAt s g).defSig then rcReplaySig
  else 0

/-- REPLAY, accepted: each group begins at its first GROUP_STATE entry (R365). -/
def startReplay (s : State) (es : List JEntry) : State :=
  let seqs := (stateGroups es).foldl (fun t g =>
    match es.find? fun e => entryKind e == 0x6 && entryGroup e == g with
    | some e => tins t g (bitsOf (wordAt e 3) 31 0)
    | none => t) []
  let s := setRcd s fun r => { r with replay := es, replaySeq := seqs, replayBad := 0 }
  let s := wr (wr s aRecDiverge 0xFFFF_FFFF_FFFF_FFFF) (aRecDiverge + 8) 0xFFFF_FFFF_FFFF_FFFF
  wrf s aRecStat 63 60 recReplaying

/-- A replay ends. -/
def endReplay (s : State) : State :=
  wrf (setRcd s fun r => { r with replay := [], replaySeq := [] }) aRecStat 63 60 recReplayDone

/-- A command of REC_CMD: the state and the code. -/
def recCommand (s : State) (op : Nat) : State × Nat :=
  let st := recState s
  let idle := st != recRecording && st != recReplaying
  let r : State × Nat := match op with
    | 1 =>
      if !idle then (s, rcRecBusy) else if s.grn.captureMiB = 0 then (s, rcNoCapture) else (recStart s, 0)
    | 2 => if st = recRecording then (recStop s, 0) else (s, rcRecBusy)
    | 3 =>
      let es := keptEntries s
      let code := replayRefusal s es
      if code = 0 then (startReplay s es, 0) else (s, code)
    | 4 => if st = recReplaying then (endReplay s, 0) else (s, rcRecBusy)
    | _ => if idle then (wrf s aRecStat 63 60 recIdle, 0) else (s, rcRecBusy)
  (recResult r.1 r.2, r.2)

/-- A write to REC_CMD. -/
def recCmdWrite (s : State) (path : Nat) (v : Word) : WrRes :=
  cmdWrite s path aRecCmd
    [⟨63, 60, .wo, fun w => 1 ≤ bitsOf w 63 60 && bitsOf w 63 60 ≤ 5⟩, rsv 59 0] v
    fun s => recCommand s (bitsOf v 63 60)

def recRow (s : State) (path op : Nat) : State :=
  mgApply s aRecCmd (bitsAt 63 60 op) fun s => recCmdWrite s path (bitsAt 63 60 op)

/-- REC_START. -/
def execRecStart (path : Nat) (s : State) : Answer := .next (recRow s path 1)
/-- REC_STOP. -/
def execRecStop (path : Nat) (s : State) : Answer := .next (recRow s path 2)
/-- REC_REPLAY. -/
def execRecReplay (path : Nat) (s : State) : Answer := .next (recRow s path 3)
/-- REPLAY_ABORT: at a chunk boundary, since an instance is replayed whole. -/
def execReplayAbort (path : Nat) (s : State) : Answer := .next (recRow s path 4)
/-- REC_CLEAR. -/
def execRecClear (path : Nat) (s : State) : Answer := .next (recRow s path 5)

/-- Fields of REC_CFG (R362). -/
def recCfgFields : List RField :=
  [rwIf 63 62 (· != 3), rw 61 61,
    ⟨60, 49, .rw, fun v => bitsOf v 63 62 != 0 || bitsOf v 60 49 != 0⟩, rw 48 33,
    ⟨32, 16, .rw, fun v => decide (bitsOf v 32 16 ≤ 65536)
      && (bitsOf v 63 62 != 1 || bitsOf v 32 16 != 0)⟩, rsv 15 0]

/-- A write to REC_CFG, or to a word of REC_PORT_MASK. -/
def recCfgWrite (s : State) (path : Nat) (mask : Option Nat) (v : Word) : WrRes :=
  let a := match mask with
    | none => aRecCfg
    | some j => aRecMask j
  if recState s = recRecording || recState s = recReplaying then
    ⟨refuseR12 (recResult s rcRecBusy) path a, .refused rcRecBusy⟩
  else plainWrite s path a (if mask.isNone then recCfgFields else [rw 63 0]) v

/-- REC_CFG_WRITE. -/
def execRecCfgWrite (path : Nat) (maskIndex : Option Nat) (value : Word) (s : State) : Answer :=
  let a := match maskIndex with
    | none => aRecCfg
    | some j => aRecMask j
  .next (mgApply s a value fun s => recCfgWrite s path maskIndex value)

/-! ## Replay (R365, R367) -/

/-- The port, header and payload of a PACKET entry. -/
def entryPacket (e : JEntry) : Nat × Header × List Byte :=
  let bs := leOfWords (e.drop 2)
  let w := fun i => BitVec.ofNat 64 (beNat ((bs.drop (8 * i)).take 8))
  let h : Header := ⟨w 0, w 1, w 2, w 3⟩
  (bitsOf (wordAt e 0) 43 35, h, (bs.drop 32).take h.length)

/-- A TABLE entry that commits an entry of a group. -/
def commitsGroup (g : Nat) (e : JEntry) : Bool :=
  entryKind e == 0x5 && bitsOf (wordAt e 2) 47 0 == aGroup g 0

/-- The stretches of the journal in which a group can be replayed: from a GROUP_STATE entry to a gap or
to a commit of the group (R361, R366). -/
def stretches (g : Nat) : List JEntry → Option (List JEntry) → List (List JEntry)
  | [], none => []
  | [], some acc => [acc.reverse]
  | e :: es, cur =>
    let begins := entryKind e == 0x6 && entryGroup e == g
    let ends := entryKind e == 0x7 || commitsGroup g e
    match cur with
    | none => stretches g es (if begins then some [] else none)
    | some acc => if ends then acc.reverse :: stretches g es none else stretches g es (some (e :: acc))

/-- The entries of a stretch between the ends of the instance 2^16 earlier, whose packets carry the same
INSTANCE, and of this one. -/
def aroundRun (g seq : Nat) (es : List JEntry) : List JEntry :=
  let ends := fun n (e : JEntry) => entryKind e == 0x4 && entryGroup e == g && entrySeq e == n
  let before := if 2 ^ 16 ≤ seq && es.any (ends (seq - 2 ^ 16)) then
      es.dropWhile fun e => !ends (seq - 2 ^ 16) e
    else es
  if before.any (ends seq) then before.takeWhile fun e => !ends seq e else before

/-- Feed a PACKET entry to a replayed run: the run, and whether it has become DISCORDANT. -/
def replayPacket (s : State) (g : Group) (acc : Run × Bool) (e : JEntry) : Run × Bool :=
  let r := acc.1
  let p := entryPacket e
  let h := p.2.1
  match memberOnPort s g p.1 with
  | none => acc
  | some i =>
    if !typeCollective h.type || h.group ≠ r.group || h.runNo ≠ r.seq % 2 ^ 16 || h.type ≠ (reapType g).1 then acc
    else if h.signature ≠ sigOf g r.seq || partWrong s r g i h.chunk h p.2.2.length then (r, true)
    else
      let c := chunkOf r h.chunk
      let x := (contribOf c i).getD ⟨i, 0, [], false, []⟩
      let c := putContrib c
        { x with nextPart := h.part + 1, bytes := x.bytes ++ p.2.2, done := h.last }
      let c := if h.last then { c with order := c.order ++ [i] } else c
      ({ r with chunks := tset Chunk.empty r.chunks h.chunk c }, acc.2)

/-- Every source has delivered every chunk. -/
def replayWhole (s : State) (g : Group) (r : Run) : Bool :=
  (List.range (chunkCount g)).all fun k =>
    (sourcesOf s g).all fun i => (contribOf (chunkOf r k) i).any Contrib.done

/-- The arrival order of a chunk's ORDER entry, where there is one (R88). -/
def replayOrder (s : State) (g : Group) (es : List JEntry) (k : Nat) (r : Run) : Run :=
  let ord := es.find? fun e =>
    entryKind e == 0x2 && entryGroup e == r.group && entrySeq e == r.seq && bitsOf (wordAt e 2) 23 0 == k
  match ord with
  | none => r
  | some e =>
    let bs := leOfWords (e.drop 4)
    let ranks := (List.range (bitsOf (wordAt e 3) 15 0)).map fun j => leNat ((bs.drop (2 * j)).take 2)
    let is := ranks.filterMap fun x => (List.range g.members).find? fun i => (memberN s g i).rankLo == x
    { r with chunks := tmod Chunk.empty r.chunks k fun c => { c with order := is } }

/-- A mismatch (R367). -/
def mismatch (s : State) (g seq chunk dest : Nat) : State :=
  let s :=
    if s.rcd.replayBad = 0 then
      let s := wr s aRecDiverge (bitsAt 63 48 g ||| bitsAt 23 0 chunk)
      event (wr s (aRecDiverge + 8) (bitsAt 63 32 seq ||| bitsAt 1 0 dest)) 0x0E04 srcDevice 0xFFF {}
    else s
  setRcd (bump s aRecLost 31 0 1) fun r => { r with replayBad := r.replayBad + 1 }

/-- Compare the digest of a chunk with its DIGEST entry. -/
def compareDigest (g : Group) (r : Run) (es : List JEntry) (s : State) (k : Nat) : State :=
  match chunkDef s r g k with
  | none => s
  | some d =>
    let dest := b2n d.root
    let e := es.find? fun e =>
      entryKind e == 0x3 && entryGroup e == r.group && entrySeq e == r.seq
        && bitsOf (wordAt e 2) 47 46 == dest && bitsOf (wordAt e 2) 23 0 == k
    match e with
    | none => s
    | some e =>
      if wordAt e 4 = digestOf d (runOut' s (replayOrder s g es k r) g k) then s
      else mismatch s r.group r.seq k dest

/-- Compare an instance's code with its INSTANCE entry; the chunk that a differing code shows is a free
value. -/
def compareCode (s : State) (g seq code : Nat) (es : List JEntry) : State :=
  match es.find? fun e => entryKind e == 0x4 && entryGroup e == g && entrySeq e == seq with
  | none => s
  | some e =>
    if bitsOf (wordAt e 2) 15 8 = code then s
    else { mismatch s g seq (Config.pick s.picks % 2 ^ 24) 3 with picks := s.picks + 1 }

/-- Replay one instance within a stretch: the state with its comparisons, none where the journal does
not hold its contributions complete. -/
def replayIn (s : State) (gno seq : Nat) (es : List JEntry) : Option State :=
  let g := groupAt s gno
  let near := aroundRun gno seq es
  let start : Run := { newRun gno seq 0 0 false with replayed := true }
  let r := (near.filter fun e => entryKind e == 0x1).foldl (replayPacket s g) (start, false)
  if r.2 then some (compareCode s gno seq 2 es)
  else if !replayWhole s g r.1 || sourcesOf s g = [] || !(reaps g || g.gkind == gkSowData) then none
  else
    some (compareCode (forAll (compareDigest g r.1 es) s (List.range (chunkCount g))) gno seq 0 es)

/-- REPLAY_INSTANCE: the next instance of a group, in sequence order; one the journal does not hold
complete is skipped. -/
def execReplayInstance (group seq : Nat) (s : State) : Answer :=
  match (s.rcd.replaySeq.find? fun kv => kv.1 == group) with
  | none => .next s
  | some kv =>
    if recState s ≠ recReplaying || seq < kv.2 then .next s
    else
      let s := setRcd s fun r => { r with replaySeq := tins r.replaySeq group (seq + 1) }
      .next (((stretches group s.rcd.replay none).findSome? (replayIn s group seq)).getD s)

/-- REPLAY_DONE: HEAD is reached. -/
def execReplayDone (s : State) : Answer :=
  if recState s = recReplaying then
    .next (event (endReplay s) 0x0E05 srcDevice 0xFFF { detail := s.rcd.replayBad })
  else .next s

end Sys2Proof.Machine
end

