-- ==== Sys2Proof/Machine/Snapshots.lean ====
section
/-! DEFINITION. Counter snapshots (R450 to R452). -/

namespace Sys2Proof.Machine

def rcSnapBusy : Nat := 0xA0
def rcNotOwner : Nat := 0xA1
def rcSnapGroup : Nat := 0xA2

def frozen (s : State) (g : Nat) : Bool := rdb s (aSnapGroup g 0) 63
def snapOwner (s : State) (g : Nat) : Nat := rdf s (aSnapGroup g 0) 62 59

/-- Frozen by another path. -/
def heldByOther (s : State) (path g : Nat) : Bool := frozen s g && snapOwner s g != path

/-- The address lies in a counter slot of group g. -/
def inGroup (g a : Nat) : Bool :=
  decide (aCnt g 0 0 ≤ a) && decide (a < aCnt g (cntShape g).1 0)

/-- Drop what the shadow of a group holds. -/
def dropShadow (s : State) (g : Nat) : State :=
  let mg := { s.mg with
    shadow := s.mg.shadow.filter fun kv => !inGroup g kv.1, taken := s.mg.taken.filter (· != g) }
  { s with mg := mg }

/-- FREEZE of a group: T is GLB_TIME plus 2 µs. -/
def freezeGroup (path : Nat) (s : State) (g : Nat) : State :=
  let s := wr (dropShadow s g) (aSnapGroup g 0) (bitsAt 63 63 1 ||| bitsAt 62 59 path)
  wr s (aSnapGroup g 1) (BitVec.ofNat 64 (now s + 2000))

/-- A group is thawed: its slots read live again. -/
def thawGroup (s : State) (g : Nat) : State := wr (dropShadow s g) (aSnapGroup g 0) 0

/-- Groups 0 to 8. -/
def snapGroups : List Nat := List.range 9

/-- An operation of CNT_SNAP_CMD: the state and the result code. -/
def snapCommand (s : State) (path op g : Nat) : State × Nat :=
  let r : State × Nat :=
    if op = 3 then
      if snapGroups.any (heldByOther s path) then (s, rcSnapBusy)
      else (forAll (freezeGroup path) s snapGroups, 0)
    else if 8 < g then (s, rcSnapGroup)
    else if op = 1 then if heldByOther s path g then (s, rcSnapBusy) else (freezeGroup path s g, 0)
    else if heldByOther s path g then (s, rcNotOwner)
    else (if frozen s g then thawGroup s g else s, 0)
  (wr r.1 aSnapStat (bitsAt 63 56 r.2), r.2)

def snapCmdFields : List RField :=
  [⟨63, 60, .wo, fun w => 1 ≤ bitsOf w 63 60 && bitsOf w 63 60 ≤ 3⟩, rsv 59 4, wo 3 0]

/-- A write to CNT_SNAP_CMD. -/
def snapCmdWrite (s : State) (path : Nat) (v : Word) : WrRes :=
  cmdWrite s path aSnapCmd snapCmdFields v fun s => snapCommand s path (bitsOf v 63 60) (bitsOf v 3 0)

def snapRow (s : State) (path op g : Nat) : State :=
  mgApply s aSnapCmd (bitsAt 63 60 op ||| bitsAt 3 0 g) fun s =>
    snapCmdWrite s path (bitsAt 63 60 op ||| bitsAt 3 0 g)

/-- FREEZE. -/
def execFreeze (path group : Nat) (s : State) : Answer := .next (snapRow s path 1 group)
/-- THAW. -/
def execThaw (path group : Nat) (s : State) : Answer := .next (snapRow s path 2 group)
/-- FREEZE_ALL. -/
def execFreezeAll (path : Nat) (s : State) : Answer := .next (snapRow s path 3 0)

/-- SNAPSHOT_TAKEN: at T the group's counters are copied into the shadow. -/
def execSnapshotTaken (group : Nat) (s : State) : Answer :=
  if 9 ≤ group || !frozen s group || s.mg.taken.contains group then .next s
  else
    let live := s.regs.filter fun kv => inGroup group kv.1
    let shadow := live.foldl (fun t kv => tins t kv.1 kv.2) (s.mg.shadow.filter fun kv => !inGroup group kv.1)
    .next { s with mg := { s.mg with shadow := shadow, taken := group :: s.mg.taken } }

/-- SELF_THAW: HOLD_S seconds after its freeze. -/
def execSelfThaw (group : Nat) (s : State) : Answer :=
  .next (if group < 9 && frozen s group then thawGroup s group else s)

end Sys2Proof.Machine
end

