-- ==== Sys2Proof/Machine/WriteMap.lean ====
section
/-! DEFINITION. Management writes by address (R9 to R12, R437, R438, R441). -/

namespace Sys2Proof.Machine

/-- Fields of a read-only word that is read as it is stored. -/
def storedFields (a : Nat) : List RField :=
  if a = aBoot then [ro 63 16, rsv 15 0]
  else if a = aCapId then [ro 63 24, rsv 23 0]
  else if a = aFuse then [ro 63 45, rsv 44 0]
  else if a = aSecStat then [ro 63 54, rsv 53 32, ro 31 0]
  else if a = aSnapStat then [ro 63 56, rsv 55 0]
  else if aSensor 0 ≤ a ∧ a < aSensor 64 then [ro 63 34, rsv 33 0]
  else if aPrt 0 0 ≤ a ∧ a < aPrt 512 0 then
    (if a % 0x1_0000 = 0x8000 then [ro 63 48, rsv 47 0] else [rsv 63 48, ro 47 0])
  else if a = aYld 0x18 then [ro 63 16, rsv 15 0]
  else if a = aRec 0x10 then [ro 63 50, rsv 49 40, ro 39 0]
  else if aSnapGroup 0 0 ≤ a ∧ a < aSnapGroup 9 0 then
    (if a % 16 = 0 then [ro 63 59, rsv 58 0] else [ro 63 0])
  else [ro 63 0]

/-- Fields of a read-only word of a cluster (R352) or a stack (R178, R184). -/
def unitFields (a : Nat) : List RField :=
  if a < aStack 0 0 then
    let off := (a - aCluster 0 0) % 0x0400_0000
    if 0x0200_0000 ≤ off ∧ off < 0x0209_0000 then
      match off % 0x1_0000 with
      | 0x10 => [ro 63 39, rsv 38 15, ro 14 0]
      | 0x18 => [ro 63 39, rsv 38 0]
      | _ => [ro 63 0]
    else [ro 63 0]
  else
    let off := a % 0x0100_0000
    if off < 0x180 then [ro 63 51, rsv 50 40, ro 39 0]
    else if off % 16 = 0 then [ro 63 15, rsv 14 0]
    else [ro 63 32, rsv 31 31, ro 30 0]

/-- Fields of the read-only registers that have reserved bits; any other word is read-only whole. -/
def roFields : Place → List RField
  | .capAvail => [ro 63 44, rsv 43 32, ro 31 20, rsv 19 0]
  | .islandStat => [ro 63 40, rsv 39 32, ro 31 0]
  | .retryStat _ => [ro 63 15, rsv 14 0]
  | .htcStat => [ro 63 16, rsv 15 0]
  | .grnShare => [rsv 63 42, ro 41 0]
  | .grnClass _ => [ro 63 8, rsv 7 0]
  | .grnErr 0 => [ro 63 62, rsv 61 56, ro 55 43, rsv 42 32, ro 31 0]
  | .schPort _ => [ro 63 32, rsv 31 16, ro 15 0]
  | .groupDir _ => [ro 63 47, rsv 46 0]
  | .groupStat => [ro 63 50, rsv 49 48, ro 47 0]
  | .plotStat => [ro 63 54, rsv 53 12, ro 11 0]
  | .tilStat _ => [ro 63 21, rsv 20 15, ro 14 0]
  | .vrdStat _ => [ro 63 53, rsv 52 12, ro 11 0]
  | .turnStat _ => [ro 63 53, rsv 52 6, ro 5 0]
  | .fltStat => [ro 63 45, rsv 44 20, ro 19 0]
  | .stage _ w => if w < 8 then [ro 63 0] else [rsv 63 0]
  | .stored a => storedFields a
  | .unitStored _ a => unitFields a
  | .prtStored _ a =>
    match a % 0x1_0000 with
    | 0x08 => [ro 63 47, rsv 46 44, ro 43 20, rsv 19 16, ro 15 0]
    | 0x10 => [ro 63 15, rsv 14 0]
    | 0x28 => [ro 63 32, rsv 31 0]
    | _ => [ro 63 0]
  | _ => [ro 63 0]

/-- A write to a place that has no writable field: it is ignored and logged (R10, R11); one that the map
does not serve is an access error. -/
def readOnly (s : State) (path a : Nat) (pl : Place) (v : Word) : WrRes :=
  match readPlace s pl with
  | none => ⟨s, .access⟩
  | some old => ⟨logWrite s path a (roFields pl) old v, .ok⟩

/-- A write to a register whose read-only fields are derived. -/
def derivedWrite (s : State) (path a : Nat) (shown : Word) (fs : List RField) (v : Word) : WrRes :=
  ⟨wr (logWrite s path a fs shown v) a (mergedWord true fs (rd s a) v), .ok⟩

/-- The operation, on a port's lowest lane only (R300). -/
def ifPort (s : State) (p : Nat) (r : WrRes) : WrRes := if cfgWidth s p = 0 then ⟨s, .access⟩ else r

/-- The operation, on a cluster or stack in service (R437). -/
def ifUnit (s : State) (n : Nat) (r : WrRes) : WrRes := if clusterUp s n then r else ⟨s, .access⟩

/-- Fields of PRT_CMARK_THR (R121). -/
def markFields (s : State) (a : Nat) : List RField :=
  let t1 := fun (v : Word) => if bitsOf v 23 0 = 0 then rdf s a 23 0 else bitsOf v 23 0
  [rsv 63 48, ⟨47, 24, .rw, fun v => decide (t1 v ≤ bitsOf v 47 24)⟩, rwIf 23 0 (· != 0)]

/-- Fields of FWD_CFG (R127). -/
def fwdCfgFields : List RField :=
  [rw 63 63, rwIf 62 58 (1 ≤ ·), rsv 57 56, rw 55 48, rwIf 47 32 (fun v => 1 ≤ v && v ≤ 10000), rw 31 0]

/-- Fields of GRN_QUOTA: the entries of furrows 0, 1, 2, 4 and 7 are reserved (R269). -/
def quotaFields (f : Nat) : List RField :=
  if charged f then [rsv 63 53, rwIf 52 32 (· ≤ 1048576), rsv 31 21, ro 20 0] else [rsv 63 0]

/-- A word of the grant buffer: over the Hitch link only (R428, R429). -/
def grantWrite (s : State) (path w : Nat) (v : Word) : WrRes :=
  if path ≠ 0 then ⟨s, .access⟩
  else
    let g := writeBytes 0 s.boot.grant (8 * w) (leBytes 8 v.toNat)
    ⟨{ s with boot := { s.boot with grant := g } }, .ok⟩

/-- Words 1 to 7 of a staged window are staged (R441). -/
def stagedWrite (s : State) (path a w : Nat) (v : Word) (commit : WrRes) : WrRes :=
  if w = 0 then commit else ⟨stageWord s path (a - 8 * w) w v, .ok⟩

/-- A write to a place of the map. -/
def writePlace (s : State) (path a : Nat) (pl : Place) (v : Word) : WrRes :=
  match pl with
  | .islandSel => plainWrite s path a [rsv 63 8, rwIf 7 0 (· < 205)] v
  | .strap => plainWrite s path a [ro 63 42, ro 41 40, w1c 39 39, rsv 38 0] v
  | .role => roleWrite s path v
  | .roleCmd => roleCmdWrite s path v
  | .alert => alertWrite s path v
  | .nonce _ => plainWrite s path a [rw 63 0] v
  | .secCmd => secCmdWrite s path v
  | .grantWord w => grantWrite s path w v
  | .flash f off => flashWindowWrite s path f off v
  | .linkCfg p => ifPort s p (plainWrite s path a (linkCfgFields (cfgWidth s p)) v)
  | .linkCmd p => ifPort s p (linkCmdWrite s path p v)
  | .retrySel p =>
    ifPort s p (derivedWrite s path a (putBits (rd s a) 63 63 (b2n (heldUnit s p).isSome))
      [ro 63 63, rsv 62 12, rw 11 0] v)
  | .credit p f => ifPort s p (creditWrite s path p (.furrow f) v)
  | .pool p => ifPort s p (creditWrite s path p .pool v)
  | .markThr p _ => ifPort s p (plainWrite s path a (markFields s a) v)
  | .fence p j => fenceWrite s path p j v
  | .laneTest l => laneTestWrite s path l v
  | .laneCmd l => laneCmdWrite s path l v
  | .fwdCfg => plainWrite s path a fwdCfgFields v
  | .fwdEpoch => plainWrite s path a [rsv 63 32, rw 31 0] v
  | .fwdCmd => fwdCmdWrite s path v
  | .fwdEntry i => fwdTableWrite s path i v
  | .ecmp set w => ecmpSetWrite s path set w v
  | .gleanCfg => gleanCfgWrite s path v
  | .peekPtr => plainWrite s path a [rsv 63 32, rw 31 0] v
  | .quota _ f => plainWrite s path a (quotaFields f) v
  | .shaper p f w => shaperWrite s path p f w v
  | .policer p i w => policerWrite s path p i w v
  | .member n i w => memberWrite s path n i w v
  | .adv n p => advPlotWrite s path n p v
  | .hubWatch n => hubWatchSet s path n v
  | .drlWatch u => drillWatchSet s path u v
  | .group g w => stagedWrite s path a w v (groupCommit s path g v)
  | .groupCmd => groupCmdWrite s path v
  | .oscale g w => oscaleWrite s path g w v
  | .plot p w => stagedWrite s path a w v (plotCommit s path p v)
  | .plotCmd => plotCmdWrite s path v
  | .tilCfg n => ifUnit s n (plainWrite s path a tilCfgFields v)
  | .tilCmd n => tilCmdWrite s path n v
  | .tilArg n => ifUnit s n (plainWrite s path a tilArgFields v)
  | .vrdCmd n => verdictCmdWrite s path n v
  | .vrdArg n second => ifUnit s n (plainWrite s path a (resolveArgFields second) v)
  | .verdict n p w => verdictWrite s path n p w v
  | .turnCfg n => ifUnit s n (plainWrite s path a turnCfgFields v)
  | .turnCmd n => turnCmdWrite s path n v
  | .turnSlot n t w => turnSlotWrite s path n t w v
  | .entry n e w => ifUnit s n (stagedWrite s path a w v (entryCommit s path n e v))
  | .hyp n h w => hypWrite s path n h w v
  | .yldReg i => yieldWrite s path i v
  | .recCfg => recCfgWrite s path none v
  | .recCmd => recCmdWrite s path v
  | .recMask j => recCfgWrite s path (some j) v
  | .fltCfg => plainWrite s path a fltCfgFields v
  | .fltCmd => fltCmdWrite s path v
  | .evtCfg => plainWrite s path a [rw 63 63, rsv 62 0] v
  | .evtAck => plainWrite s path a [rsv 63 32, rw 31 0] v
  | .counter _ _ _ 1 => plainWrite s path a [ro 63 56, rsv 55 1, w1c 0 0] v
  | .snapCmd => snapCmdWrite s path v
  | .snapCfg => plainWrite s path a [rwIf 63 48 (fun h => 1 ≤ h && h ≤ 3600), rsv 47 0] v
  | .hbm n off => hbmWindowWrite s n off v
  | .csWin _ _ | .coreWin _ _ | .peekWin _ | .retryWin _ _ | .queueWin _ _ _ _ | .yldMap _ _ => ⟨s, .access⟩
  | .stored _ | .unitStored _ _ | .islandStat | .capAvail | .stage _ _ | .identity _ | .chain _ _
  | .quoteWord _ | .htcStat | .retryStat _ | .prtStored _ _ | .fwdStat | .grnShare | .grnErr _ | .grnClass _
  | .schPort _ | .groupDir _ | .groupStat | .plotStat | .tilStat _ | .vrdStat _ | .turnStat _ | .fltStat
  | .ledger _ _ | .counter _ _ _ _ => readOnly s path a pl v

/-- A management write of one word (R9). -/
def mgmtWrite (s : State) (path a : Nat) (v : Word) : WrRes :=
  match placeOf a with
  | none => ⟨s, .access⟩
  | some pl => writePlace s path a pl v

/-- A write as a request makes it: an accepted one is recorded (R356). -/
def applyWrite (s : State) (path a : Nat) (v : Word) : WrRes :=
  let r := mgmtWrite s path a v
  match r.out with
  | .ok => ⟨captureWrite r.st a v, .ok⟩
  | _ => r

/-- REGISTER_WRITE. -/
def execRegisterWrite (path addr : Nat) (value : Word) (s : State) : Answer :=
  .next (mgApply s addr value fun s => mgmtWrite s path addr value)

/-- A staged word's address: words 1 to 7 of a group, field-book or plot entry. -/
def isStaged (a : Nat) : Bool :=
  match placeOf a with
  | some (.group _ w) | some (.plot _ w) | some (.entry _ _ w) => w != 0
  | _ => false

/-- STAGE_WRITE. -/
def execStageWrite (path addr : Nat) (value : Word) (s : State) : Answer :=
  if isStaged addr then .next (mgApply s addr value fun s => mgmtWrite s path addr value) else .next s

end Sys2Proof.Machine
end

