-- ==== Sys2Proof/Machine/Hitch.lean ====
section
/-! DEFINITION. The Hitch link (R429 to R436) and event streaming (R435). -/

namespace Sys2Proof.Machine

/-! ## Frames (R431, R432) -/

def htHello : Nat := 1
def htRead : Nat := 2
def htWrite : Nat := 3

/-- STATUS values of R432. -/
def hsOk : Nat := 0x00
def hsAccess : Nat := 0x01
def hsBadFrame : Nat := 0x02
def hsNoHello : Nat := 0x03
def hsBusy : Nat := 0x04
def hsRefused : Nat := 0x07

def HitchFrame.type (f : HitchFrame) : Nat := bitsOf f.w0 63 60
def HitchFrame.version (f : HitchFrame) : Nat := bitsOf f.w0 59 56
def HitchFrame.tag (f : HitchFrame) : Nat := bitsOf f.w0 55 51
def HitchFrame.count (f : HitchFrame) : Nat := bitsOf f.w0 50 41
def HitchFrame.seqNo (f : HitchFrame) : Nat := bitsOf f.w1 63 48
def HitchFrame.address (f : HitchFrame) : Nat := bitsOf f.w1 47 0

/-- The trailer's CRC-32C over a frame's words. -/
def frameCrc (ws : List Word) : Nat := crc32c (leOfWords ws)

/-- The CRC of a received frame passes. -/
def HitchFrame.crcOk (f : HitchFrame) : Bool :=
  bitsOf f.trailer 31 0 == frameCrc (f.w0 :: f.w1 :: f.payload)

/-- A frame to the host: its words and their trailer. -/
def sendHost (s : State) (ws : List Word) : State :=
  { s with mg := { s.mg with sent := s.mg.sent ++ [ws ++ [bitsAt 31 0 (frameCrc ws)]] } }

/-- Header word 0 of a response. -/
def responseHead (f : HitchFrame) (count status result : Nat) : Word :=
  bitsAt 63 60 4 ||| bitsAt 59 56 f.version ||| bitsAt 55 51 f.tag ||| bitsAt 50 41 count
    ||| bitsAt 40 33 status ||| bitsAt 32 25 result

/-- A response: SEQ and ADDRESS are echoed. -/
def response (f : HitchFrame) (count status result : Nat) (values : List Word) : List Word :=
  responseHead f count status result :: f.w1 :: values

/-! ## HELLO (R14, R433) -/

/-- The version agreed with a range of versions: 0x1, or 0 for a host that excludes it. -/
def agreedHitch (lo hi : Nat) : Nat := if lo ≤ 1 ∧ 1 ≤ hi then 1 else 0

/-- A HELLO is answered, and every stored response is cleared. -/
def doHello (s : State) (f : HitchFrame) : State :=
  let v := agreedHitch (bitsOf f.w1 3 0) (bitsOf f.w1 7 4)
  let s := { s with mg := { s.mg with stored := [], helloDone := v == 1 } }
  let s := wrf s aHtcStat 61 58 v
  sendHost s
    [bitsAt 63 60 htHello ||| bitsAt 59 56 v ||| bitsAt 55 51 f.tag, bitsAt 63 48 f.seqNo ||| bitsAt 7 0 0x11]

/-! ## Reads and writes -/

/-- What the halted device serves: GLB, CAP, SEC and the flash windows (R429). -/
def haltServes (a : Nat) : Bool :=
  decide (a < 0x0100_0000) || (decide (0x0110_0000 ≤ a) && decide (a < 0x0120_0000))
    || (decide (0x0400_0000 ≤ a) && decide (a < 0x0C00_0000))

/-- A read of one word by a path. -/
def readWord (s : State) (a : Nat) : Option Word := if isHalted s && !haltServes a then none else mgmtRead s a

/-- Values of consecutive words up to the first one that is refused, and the state after them. -/
def readRun : Nat → State → Nat → State × List Word
  | 0, s, _ => (s, [])
  | n + 1, s, a =>
    match readWord s a with
    | none => (s, [])
    | some w =>
      let r := readRun n (afterRead s a) (a + 8)
      (r.1, w :: r.2)

/-- How a write order ended: words applied, and what stopped it. -/
structure WriteEnd where
  st : State
  done : Nat
  out : WrOut

/-- Writes of consecutive words up to the first one that is refused. -/
def writeRun (path : Nat) : State → Nat → List Word → WriteEnd
  | s, _, [] => ⟨s, 0, .ok⟩
  | s, a, v :: vs =>
    let r := if isHalted s then ⟨s, .access⟩ else applyWrite s path a v
    match r.out with
    | .ok =>
      let x := writeRun path r.st (a + 8) vs
      ⟨x.st, x.done + 1, x.out⟩
    | o => ⟨r.st, 0, o⟩

/-- The windows whose refusals the Hitch link answers with ACCESS_ERROR: the forwarding tables (R130). -/
def fwdWindow (a : Nat) : Bool := decide (aFwdEntry 0 ≤ a) && decide (a < aEcmp 4096 0)

/-- STATUS and RESULT of a write that ended at address a. -/
def hitchStatus (o : WrOut) (a : Nat) : Nat × Nat :=
  match o with
  | .ok => (hsOk, 0)
  | .access => (hsAccess, 0)
  | .refused c => if fwdWindow a then (hsAccess, 0) else (hsRefused, c)

/-- A flash whose program or erase a read of n words from a would meet (R439). -/
def meetsBusyFlash (s : State) (a n : Nat) : Bool :=
  [0, 1].any fun f =>
    (flashJob s f).isSome && decide (a < aFlash (f + 1) 0) && decide (aFlash f 0 < a + 8 * n)

/-- The store of a tag's last executed request (R434). -/
def storeResponse (s : State) (tag seqNo : Nat) (ws : List Word) : State :=
  { s with mg := { s.mg with stored := tset [] s.mg.stored tag [(seqNo, ws)] } }

/-- Send an executed request's response and keep it. -/
def finishRequest (s : State) (f : HitchFrame) (ws : List Word) : State :=
  sendHost (storeResponse s f.tag f.seqNo ws) ws

/-- A flash program of a path is under way. -/
def pathBusy (s : State) (path : Nat) : Bool := s.boot.flashJobs.any fun j => j.who == .path path

/-- Execute a READ. -/
def doRead (s : State) (f : HitchFrame) : State :=
  let r := readRun f.count s f.address
  let n := r.2.length
  finishRequest r.1 f (response f n (if n = f.count then hsOk else hsAccess) 0 r.2)

/-- Execute a WRITE: the response waits for the flash programs it began (R439). -/
def doWrite (s : State) (f : HitchFrame) : State :=
  let r := writeRun 0 s f.address f.payload
  let x := hitchStatus r.out (f.address + 8 * r.done)
  let ws := response f r.done x.1 x.2 []
  if pathBusy r.st 0 then { r.st with mg := { r.st.mg with held := some (f.tag, f.seqNo, ws) } }
  else finishRequest r.st f ws

/-- STATUS of a READ or WRITE frame that is not executed. -/
def frameFault (s : State) (f : HitchFrame) : Option Nat :=
  let words := if f.type = htWrite then f.count else 0
  if f.type ≠ htRead ∧ f.type ≠ htWrite then some hsBadFrame
  else if !s.mg.helloDone then some hsNoHello
  else if f.count = 0 ∨ 512 < f.count ∨ f.payload.length ≠ words then some hsBadFrame
  else if f.version ≠ rdf s aHtcStat 61 58 then some hsBadFrame
  else none

/-- A HELLO frame's own checks. -/
def helloBad (f : HitchFrame) : Bool := f.version != 0 || f.count != 0 || !f.payload.isEmpty

/-- Serve the request at the head of the queue: none when it has to wait for a flash. -/
def serveRequest (s : State) (f : HitchFrame) : Option State :=
  if f.type = htHello then
    some (if helloBad f then sendHost s (response f 0 hsBadFrame 0 []) else doHello s f)
  else
    match frameFault s f with
    | some st => some (sendHost s (response f 0 st 0 []))
    | none =>
      match tone s.mg.stored f.tag with
      | some (q, ws) =>
        if q = f.seqNo then some (sendHost s ws)
        else if f.type = htRead then
          if meetsBusyFlash s f.address f.count then none else some (doRead s f)
        else some (doWrite s f)
      | none =>
        if f.type = htRead then
          if meetsBusyFlash s f.address f.count then none else some (doRead s f)
        else some (doWrite s f)

/-- Serve waiting requests in order until one has to wait. -/
def serveQueue : Nat → State → State
  | 0, s => s
  | n + 1, s =>
    match s.mg.held, s.mg.queue with
    | none, f :: rest =>
      match serveRequest { s with mg := { s.mg with queue := rest } } f with
      | none => s
      | some s' => serveQueue n s'
    | _, _ => s

/-- Requests that the device holds. -/
def requestsHeld (s : State) : Nat := s.mg.queue.length + b2n s.mg.held.isSome

/-- A request frame arrives (R432, R434). -/
def receiveFrame (s : State) (f : HitchFrame) : State :=
  if !mgmtUp s then s
  else if !f.crcOk then bump s aHtcStat 47 32 1
  else if 32 ≤ requestsHeld s then sendHost (bump s aHtcStat 31 16 1) (response f 0 hsBusy 0 [])
  else
    let q := s.mg.queue ++ [f]
    serveQueue q.length { s with mg := { s.mg with queue := q } }

/-- HELLO. -/
def execHello (frame : HitchFrame) (s : State) : Answer := .next (receiveFrame s frame)
/-- HITCH_READ. -/
def execHitchRead (frame : HitchFrame) (s : State) : Answer := .next (receiveFrame s frame)
/-- HITCH_WRITE. -/
def execHitchWrite (frame : HitchFrame) (s : State) : Answer := .next (receiveFrame s frame)

/-! ## Lanes (R430) -/

def setHitchLane (s : State) (lane v : Nat) : State :=
  if inReset s || decide (2 ≤ lane) then s else wrf s aHtcStat (62 + lane) (62 + lane) v

/-- HITCH_LANE_LOCK. -/
def execHitchLaneLock (lane : Nat) (s : State) : Answer := .next (setHitchLane s lane 1)
/-- HITCH_LANE_LOCK_LOSS. -/
def execHitchLaneLockLoss (lane : Nat) (s : State) : Answer := .next (setHitchLane s lane 0)

/-! ## Events (R435) -/

/-- Entries logged and not yet sent. -/
def unsentEvents (s : State) : Nat := (rdf s (aEvt 8) 63 32 + 2 ^ 32 - s.mg.streamNext) % 2 ^ 32

/-- The stream jumps to the oldest kept entry. -/
def streamJump (s : State) : State :=
  let n := unsentEvents s
  if n ≤ 8192 then s
  else
    let s := bump s (aEvt 0x18) 31 0 (n - 8192)
    { s with mg := { s.mg with streamNext := (s.mg.streamNext + (n - 8192)) % 2 ^ 32 } }

/-- Send the next unsent entries, up to 16 in a frame. Word 1 of the header is a free value (log 43). -/
def sendEvents (s : State) : State :=
  let n := Nat.min 16 (unsentEvents s)
  let first := s.mg.streamNext
  let words := (List.range n).flatMap fun i => rdEntry s (aEvtEntry (first + i) 0) 4
  let head := bitsAt 63 60 5 ||| bitsAt 59 56 (rdf s aHtcStat 61 58) ||| bitsAt 50 41 (4 * n)
  let w1 := wordOf ((List.range 8).map fun i => Config.freeByte (s.picks + i))
  let s := { s with picks := s.picks + 8, mg := { s.mg with streamNext := (first + n) % 2 ^ 32 } }
  sendHost s (head :: w1 :: words)

/-- EVENT_FRAME. -/
def execEventFrame (s : State) : Answer :=
  .next (if !mgmtUp s || !rdb s (aEvt 0) 63 || unsentEvents s == 0 then s else sendEvents (streamJump s))

end Sys2Proof.Machine
end

