-- ==== Sys2Proof/Machine/Orders.lean ====
section
/-! DEFINITION. Field orders (R418 to R421) and the end of flash programs (R439). -/

namespace Sys2Proof.Machine

/-! ## Order responses (R421) -/

def osOk : Nat := 0x00
def osAccess : Nat := 0x01
def osBadOrder : Nat := 0x02
def osNotManager : Nat := 0x03
def osWrongEpoch : Nat := 0x04
def osStaleSeq : Nat := 0x05
def osNoRight : Nat := 0x06
def osRefused : Nat := 0x07

def startEpoch (s : State) : Nat := rdf s aEpoch 63 32

/-- A response's payload. -/
def orderReply (s : State) (status result done : Nat) (values : List Word) : List Byte :=
  leOfWords ((bitsAt 63 56 status ||| bitsAt 55 48 result ||| bitsAt 47 36 done
    ||| bitsAt 31 0 (startEpoch s)) :: values)

/-- Send an ORDER_RESPONSE: by the arrival port where that is FALLOW under orders (R389), else by its
forwarding entry. -/
def sendReply (s : State) (port : Nat) (order : Frame) (reply : List Byte) : State :=
  let h := dataHeader 0 tOrderResponse 0 0 reply.length (flagFirst + flagLast) order.hdr.src (deviceId s) 0
    order.hdr.w2 order.hdr.w3
  let out := if carriesOrders s port then some port else
    match routeOf s none h with
    | .toPort p => some p
    | _ => none
  match out with
  | none => s
  | some p =>
    let f := newFrame s { h with w0 := putBits h.w0 63 60 (headVersion s p) } reply .plain
    sendFrame f.1 76 p f.2

/-! ## Checks (R418, R419) -/

/-- OP and COUNT of an order. -/
def orderWord (f : Frame) : Word := wordOf (f.payload.take 8)
def orderOp (f : Frame) : Nat := bitsOf (orderWord f) 63 60
def orderCount (f : Frame) : Nat := bitsOf (orderWord f) 59 50
def orderValues (f : Frame) : List Word := wordsOfLe (orderCount f) (f.payload.drop 8)
def orderAddr (f : Frame) : Nat := bitsOf f.hdr.w2 47 0

/-- Check 2. -/
def orderBad (f : Frame) : Bool :=
  let len := if orderOp f = 2 then 8 + 8 * orderCount f else 8
  f.hdr.plot != 0 || !(orderOp f == 1 || orderOp f == 2) || orderCount f == 0 || f.hdr.length != len
    || f.payload.length != len

def managersOf (s : State) : List Manager :=
  match s.boot.tables with
  | some t => t.managers
  | none => []

/-- Check 3: the manager-list entry of SRC and its path (R441). -/
def managerOfSrc (s : State) (src : Nat) : Option (Manager × Nat) :=
  ((managersOf s).zipIdx.find? fun x => x.1.id == src).map fun x => (x.1, x.2 + 1)

/-- The last SEQ accepted from a path, and the stored response. -/
def lastOrder (s : State) (path : Nat) : Nat × List Byte := ((tget [] s.boot.orders path).head?).getD (0, [])
def setOrder (s : State) (path seq : Nat) (reply : List Byte) : State :=
  { s with boot := { s.boot with orders := tset [] s.boot.orders path [(seq, reply)] } }

/-- An address that a write reaches only with SECURITY: the SEC block and the flash windows. -/
def securityAddr (a : Nat) : Bool :=
  (decide (0x0110_0000 ≤ a) && decide (a < 0x0120_0000)) || (decide (0x0400_0000 ≤ a) && decide (a < 0x0C00_0000))

/-- The grant buffer, which no order reaches (R429). -/
def grantAddr (a : Nat) : Bool := decide (0x0112_0000 ≤ a) && decide (a < 0x0112_8000)

/-- Check 6: the rights mask has bit 0 READ, bit 1 WRITE and bit 2 SECURITY. -/
def orderAllowed (m : Manager) (f : Frame) : Bool :=
  let as := (List.range (orderCount f)).map fun i => orderAddr f + 8 * i
  let right := if orderOp f = 1 then m.rights.testBit 0
    else m.rights.testBit 1 && (m.rights.testBit 2 || !as.any securityAddr)
  right && !as.any grantAddr

/-! ## Execution (R420) -/

/-- The response is stored and sent. -/
def endOrder (s : State) (path port : Nat) (f : Frame) (reply : List Byte) : State :=
  sendReply (setOrder s path (bitsOf f.hdr.w3 31 0) reply) port f reply

/-- STATUS and RESULT of a stopped write. -/
def orderStatus : WrOut → Nat × Nat
  | .ok => (osOk, 0)
  | .access => (osAccess, 0)
  | .refused c => (osRefused, c)

/-- Execute an order; none when it reads a flash that a program keeps busy. -/
def runOrder (s : State) (path port : Nat) (f : Frame) : Option State :=
  let n := orderCount f
  if orderOp f = 1 then
    if meetsBusyFlash s (orderAddr f) n then none
    else
      let r := readRun n s (orderAddr f)
      let k := r.2.length
      some (endOrder r.1 path port f (orderReply s (if k = n then osOk else osAccess) 0 k r.2))
  else
    let r := writeRun path s (orderAddr f) (orderValues f)
    let x := orderStatus r.out
    let reply := orderReply s x.1 x.2 r.done []
    if pathBusy r.st path then
      let w : HeldOrder := ⟨path, port, f, reply⟩
      some { r.st with mg := { r.st.mg with heldOrders := r.st.mg.heldOrders ++ [w] } }
    else some (endOrder r.st path port f reply)

/-- An order of a manager that waits: a later one of the same manager waits behind it. -/
def orderWaits (s : State) (src : Nat) : Bool :=
  s.mg.orderQueue.any (fun x => x.2.hdr.src == src) || s.mg.heldOrders.any fun w => w.order.hdr.src == src

/-- Execute an order, or let it wait. -/
def startOrder (s : State) (path port : Nat) (f : Frame) : State :=
  let wait := { s with mg := { s.mg with orderQueue := s.mg.orderQueue ++ [(port, f)] } }
  if orderWaits s f.hdr.src then wait else (runOrder s path port f).getD wait

/-- The checks of R419, in order. -/
def takeOrder (s : State) (port : Nat) (f : Frame) : State :=
  let answer := fun (s : State) (st : Nat) => sendReply s port f (orderReply s st 0 0 [])
  if !rdb s (aCable port) 59 then count s 0 0 4 1
  else if orderBad f then answer s osBadOrder
  else
    match managerOfSrc s f.hdr.src with
    | none => answer s osNotManager
    | some (m, path) =>
      let seq := bitsOf f.hdr.w3 31 0
      let last := lastOrder s path
      if bitsOf f.hdr.w3 63 32 ≠ startEpoch s then answer s osWrongEpoch
      else if seq = last.1 then if last.2 = [] then s else sendReply s port f last.2
      else if seq < last.1 then answer s osStaleSeq
      else
        let s := setOrder s path seq []
        if orderAllowed m f then startOrder s path port f
        else endOrder s path port f (orderReply s osNoRight 0 0 [])

/-- FIELD_ORDER. -/
def execFieldOrder (port : Nat) (frame : Frame) (s : State) : Answer :=
  .next (if !mgmtUp s || isHalted s || frame.hdr.type != tFieldOrder then s
    else settle (takeOrder s port frame))

/-! ## Flash programs (R439) -/

/-- The STATUS of a response becomes ACCESS_ERROR: a program it waited for was not made (log 44). -/
def failHeld (s : State) (path : Nat) : State :=
  let held := match s.mg.held with
    | some (t, q, w :: ws) => if path = 0 then some (t, q, putBits w 40 33 hsAccess :: ws) else s.mg.held
    | x => x
  let fail := fun (w : HeldOrder) =>
    if w.path = path then
      { w with reply := leOfWords [putBits (wordOf (w.reply.take 8)) 63 56 osAccess] ++ w.reply.drop 8 }
    else w
  { s with mg := { s.mg with held := held, heldOrders := s.mg.heldOrders.map fail } }

/-- The Hitch response that waited is sent once no program of its path is left. -/
def releaseHeldFrame (s : State) : State :=
  match s.mg.held with
  | none => s
  | some (t, q, ws) =>
    if pathBusy s 0 then s
    else sendHost (storeResponse { s with mg := { s.mg with held := none } } t q ws) ws

/-- Likewise the order responses. -/
def releaseHeldOrders (s : State) : State :=
  let due := s.mg.heldOrders.filter fun w => !pathBusy s w.path
  let s := { s with mg := { s.mg with heldOrders := s.mg.heldOrders.filter fun w => pathBusy s w.path } }
  forAll (fun s w => endOrder s w.path w.port w.order w.reply) s due

/-- Orders that waited are taken up in turn. -/
def resumeOrders (s : State) : State :=
  let q := s.mg.orderQueue
  forAll (fun s (x : Nat × Frame) =>
    match managerOfSrc s x.2.hdr.src with
    | none => s
    | some (_, path) => startOrder s path x.1 x.2) { s with mg := { s.mg with orderQueue := [] } } q

/-- FLASH_PROGRAM_DONE: the program stands, and what waited for it goes on. -/
def execFlashProgramDone (flash : Nat) (written : Bool) (s : State) : Answer :=
  match flashJob s flash with
  | none => .next s
  | some j =>
    let s := endJob s j written
    let s := match j.who, written with
      | .path p, false => failHeld s p
      | _, _ => s
    let s := releaseHeldOrders (releaseHeldFrame s)
    let s := serveQueue s.mg.queue.length s
    .next (resumeOrders s)

end Sys2Proof.Machine
end

