-- ==== Sys2Proof/Machine/Reaping.lean ====
section
/-! DEFINITION. The collective commands: packets that have passed their tail checks (R142), admissions
(R144, R150, R270), timers (R151, R153), sow copies that have left (R123) and landings that resume
(R173, R174). -/

namespace Sys2Proof.Machine

/-- A collective packet of the row's type; another type's packet has its own row (log 4). -/
def collRow (s : State) (t port : Nat) (fr : Frame) : State :=
  if fr.hdr.type = t then settle (takeColl s port fr) else s

/-- REAP (R142 to R149). -/
def execReap (port : Nat) (frame : Frame) (s : State) : Answer := .next (collRow s tReap port frame)

/-- REAP_DEFERRED (R238). -/
def execReapDeferred (port : Nat) (frame : Frame) (s : State) : Answer :=
  .next (collRow s tReapDeferred port frame)

/-- REAP_EXPRESS (R159). -/
def execReapExpress (port : Nat) (frame : Frame) (s : State) : Answer :=
  .next (collRow s tReapExpress port frame)

/-- SOW (R157, R158). -/
def execSow (port : Nat) (frame : Frame) (s : State) : Answer := .next (collRow s tSow port frame)

/-- SOW_EXPRESS (R159). -/
def execSowExpress (port : Nat) (frame : Frame) (s : State) : Answer :=
  .next (collRow s tSowExpress port frame)

/-- SOW_REQUEST (R158, R189). -/
def execSowRequest (port : Nat) (frame : Frame) (s : State) : Answer :=
  .next (collRow s tSowRequest port frame)

/-- COMPLETION (R153, R155). -/
def execCompletion (port : Nat) (frame : Frame) (s : State) : Answer :=
  .next (collRow s tCompletion port frame)

/-- The head of a port and furrow waits for a reason. -/
def headWaits (s : State) (p f : Nat) (why : WaitWhy) : Bool :=
  match waitsOf s p f with
  | w :: _ => w.why == why
  | [] => false

/-- CONTRIBUTION_ADMIT (R149, R150): the head is tried again, and those behind it. -/
def execContributionAdmit (port furrow : Nat) (s : State) : Answer :=
  .next (if headWaits s port furrow .contribution then
      settle (drainColl port furrow (waitsOf s port furrow).length s)
    else s)

/-- OPENING_PACKET_ADMIT (R144). -/
def execOpeningPacketAdmit (port furrow : Nat) (s : State) : Answer :=
  .next (if headWaits s port furrow .opening then
      settle (drainColl port furrow (waitsOf s port furrow).length s)
    else s)

/-- The members whose part a run still lacks: of its oldest incomplete chunk, its requests or its
verdict records (R151). -/
def missingMembers (s : State) (r : Run) (g : Group) : List Member :=
  let all := List.range g.members
  let lack := match g.gkind with
    | 3 => all.filter fun i => contributes (memberN s g i) && !r.requests.contains i
    | 5 => (childrenOf s g).filter fun i => tget [] r.verdicts i == []
    | _ =>
      match firstOpenChunk r (chunkCount g) with
      | some k => (sourcesOf s g).filter fun i => !(contribOf (chunkOf r k) i).any Contrib.done
      | none => []
  lack.map (memberN s g)

/-- STRAGGLER_TIMEOUT (R151). -/
def execStragglerTimeout (group seq : Nat) (s : State) : Answer :=
  match runOf s (runKey group seq) with
  | none => .next s
  | some r =>
    if r.state ≠ .opened then .next s
    else
      let c := match sortBy (fun a b => decide (a.rankLo ≤ b.rankLo)) (missingMembers s r (groupAt s group)) with
        | m :: _ => (m.port, m.rankLo)
        | [] => (0x1FF, 0xFFFF)
      .next (settle (failHere s (runKey group seq) 9 c.1 c.2))

/-- SETTLE_TIMEOUT (R153 step 4): no final record has come; the run settles on its own code. -/
def execSettleTimeout (group seq : Nat) (s : State) : Answer :=
  match runOf s (runKey group seq) with
  | none => .next s
  | some r =>
    if r.state ≠ .failed then .next s
    else .next (settle (closeRun s (runKey group seq) r.code r.cause))

/-- SOW_COPY_SENT (R123, R158): the oldest copy that has left the port clears its owner bit. -/
def execSowCopySent (port : Nat) (s : State) : Answer :=
  match tget [] s.fab.leftCopies port with
  | [] => .next s
  | c :: rest =>
    let s := { s with fab := { s.fab with leftCopies := tset [] s.fab.leftCopies port rest } }
    let s := tryFinish (releaseHeld (copyOver s c.run c.chunk c.member) c.run) c.run
    .next (settle (drainSource s.fab.atSource.length s))

/-- A sow chunk that waited for room (R268, R270). -/
def admitSow (s : State) (key k : Nat) : State :=
  match runOf s key with
  | none => s
  | some r =>
    if (chunkOf r (sowKey k)).stage ≠ .checked then s
    else
      let s := placeSow s key k
      match runOf s key with
      | none => s
      | some r' =>
        if (chunkOf r' k).stage == .placed then tryFinish (progress (chunkPlaced s key k) key) key else s

/-- QUOTA_ADMIT (R270). -/
def execQuotaAdmit (waiter : QuotaWaiter) (s : State) : Answer :=
  match waiter with
  | .ingress port furrow => .next (quotaAdmitIngress s port furrow)
  | .sow group seq chunk => .next (settle (admitSow s (runKey group seq) chunk))

/-- LANDING_RESERVATION_RESUME (R173, R174): the reservation is tried again; results that waited for it
land. -/
def execLandingReservationResume (group seq : Nat) (s : State) : Answer :=
  let key := runKey group seq
  match runOf s key with
  | none => .next s
  | some r =>
    if r.landing ≠ .waiting || r.state ≠ .opened then .next s
    else
      let s := reserveRun s key
      match runOf s key with
      | none => .next (settle s)
      | some r =>
        let waiting := (r.chunks.filter fun kv => kv.1 < 2 ^ 24 && kv.2.stage == .checked).map Prod.fst
        let s := if r.landing == .waiting then s else forAll (fun s k => placeResult s key k) s waiting
        .next (settle (progress s key))

end Sys2Proof.Machine
end

