-- ==== Sys2Proof/Machine/Dispatch.lean ====
section
/-! DEFINITION. The dispatch: one arm per command of the table, each one direct call of its meaning. -/

namespace Sys2Proof.Machine

open Sys2Proof

def exec (i : Instr) (s : State) : Host.Outcome State Fault Refusal :=
  match i with
  | .registerWrite path addr value => Sys2Proof.Machine.execRegisterWrite path addr value s
  | .xingTimeout sender receiver => Sys2Proof.Machine.execXingTimeout sender receiver s
  | .hbmRefresh stack => Sys2Proof.Machine.execHbmRefresh stack s
  | .d2dRetry stack => Sys2Proof.Machine.execD2dRetry stack s
  | .packetHeader port hdr => Sys2Proof.Machine.execPacketHeader port hdr s
  | .quotaAdmit waiter => Sys2Proof.Machine.execQuotaAdmit waiter s
  | .packetTail port payload crc tail clean => Sys2Proof.Machine.execPacketTail port payload crc tail clean s
  | .packetSent port => Sys2Proof.Machine.execPacketSent port s
  | .fwdTableWrite path index value => Sys2Proof.Machine.execFwdTableWrite path index value s
  | .ecmpSetWrite path set word value => Sys2Proof.Machine.execEcmpSetWrite path set word value s
  | .fwdHold path index => Sys2Proof.Machine.execFwdHold path index s
  | .fwdRelease path index => Sys2Proof.Machine.execFwdRelease path index s
  | .fwdInvalidate path index => Sys2Proof.Machine.execFwdInvalidate path index s
  | .fwdQuery path index => Sys2Proof.Machine.execFwdQuery path index s
  | .holdTimeout port furrow => Sys2Proof.Machine.execHoldTimeout port furrow s
  | .occScanEnd index => Sys2Proof.Machine.execOccScanEnd index s
  | .sowCopySent port => Sys2Proof.Machine.execSowCopySent port s
  | .stageWrite path addr value => Sys2Proof.Machine.execStageWrite path addr value s
  | .groupCommit path group value => Sys2Proof.Machine.execGroupCommit path group value s
  | .memberEntryWrite path cluster index word value => Sys2Proof.Machine.execMemberEntryWrite path cluster index word value s
  | .groupAbort path group => Sys2Proof.Machine.execGroupAbort path group s
  | .groupFallow path group => Sys2Proof.Machine.execGroupFallow path group s
  | .groupRestore path group => Sys2Proof.Machine.execGroupRestore path group s
  | .groupFree path group => Sys2Proof.Machine.execGroupFree path group s
  | .setSeq path group seq => Sys2Proof.Machine.execSetSeq path group seq s
  | .groupQuery path group => Sys2Proof.Machine.execGroupQuery path group s
  | .reap port frame => Sys2Proof.Machine.execReap port frame s
  | .reapDeferred port frame => Sys2Proof.Machine.execReapDeferred port frame s
  | .reapExpress port frame => Sys2Proof.Machine.execReapExpress port frame s
  | .sow port frame => Sys2Proof.Machine.execSow port frame s
  | .sowExpress port frame => Sys2Proof.Machine.execSowExpress port frame s
  | .sowRequest port frame => Sys2Proof.Machine.execSowRequest port frame s
  | .completion port frame => Sys2Proof.Machine.execCompletion port frame s
  | .contributionAdmit port furrow => Sys2Proof.Machine.execContributionAdmit port furrow s
  | .openingPacketAdmit port furrow => Sys2Proof.Machine.execOpeningPacketAdmit port furrow s
  | .stragglerTimeout group seq => Sys2Proof.Machine.execStragglerTimeout group seq s
  | .settleTimeout group seq => Sys2Proof.Machine.execSettleTimeout group seq s
  | .drillRunEnd cluster core cycles fault => Sys2Proof.Machine.execDrillRunEnd cluster core cycles fault s
  | .noJudgeTimeout group seq chunk => Sys2Proof.Machine.execNoJudgeTimeout group seq chunk s
  | .fbkEntryCommit path stack entry value => Sys2Proof.Machine.execFbkEntryCommit path stack entry value s
  | .hbmWindowWrite path stack offset value => Sys2Proof.Machine.execHbmWindowWrite path stack offset value s
  | .hypArm path stack block value => Sys2Proof.Machine.execHypArm path stack block value s
  | .passStart stack => Sys2Proof.Machine.execPassStart stack s
  | .entryPassDone stack => Sys2Proof.Machine.execEntryPassDone stack s
  | .secondEncodingEnd stack => Sys2Proof.Machine.execSecondEncodingEnd stack s
  | .tillerGroupComplete stack tiller check bad => Sys2Proof.Machine.execTillerGroupComplete stack tiller check bad s
  | .patrolScrub stack ecc => Sys2Proof.Machine.execPatrolScrub stack ecc s
  | .landingReservationResume group seq => Sys2Proof.Machine.execLandingReservationResume group seq s
  | .localVerdictSend plot => Sys2Proof.Machine.execLocalVerdictSend plot s
  | .entryActivate path stack entry => Sys2Proof.Machine.execEntryActivate path stack entry s
  | .entryFallow path stack entry => Sys2Proof.Machine.execEntryFallow path stack entry s
  | .entryFree path stack entry => Sys2Proof.Machine.execEntryFree path stack entry s
  | .releaseVersion path stack plot => Sys2Proof.Machine.execReleaseVersion path stack plot s
  | .passHold path stack plot => Sys2Proof.Machine.execPassHold path stack plot s
  | .passRelease path stack plot => Sys2Proof.Machine.execPassRelease path stack plot s
  | .rebuildSown path stack entry => Sys2Proof.Machine.execRebuildSown path stack entry s
  | .entryQuery path stack entry => Sys2Proof.Machine.execEntryQuery path stack entry s
  | .verdict port frame => Sys2Proof.Machine.execVerdict port frame s
  | .verdictEntryWrite path stack plot word value => Sys2Proof.Machine.execVerdictEntryWrite path stack plot word value s
  | .verdictStart path stack plot => Sys2Proof.Machine.execVerdictStart path stack plot s
  | .verdictFallow path stack plot => Sys2Proof.Machine.execVerdictFallow path stack plot s
  | .verdictFree path stack plot => Sys2Proof.Machine.execVerdictFree path stack plot s
  | .resolve path stack plot => Sys2Proof.Machine.execResolve path stack plot s
  | .skipNext path stack plot => Sys2Proof.Machine.execSkipNext path stack plot s
  | .verdictQuery path stack plot => Sys2Proof.Machine.execVerdictQuery path stack plot s
  | .oscaleWrite path group word value => Sys2Proof.Machine.execOscaleWrite path group word value s
  | .advanceFetch cluster plot ecc => Sys2Proof.Machine.execAdvanceFetch cluster plot ecc s
  | .advPlotWrite path cluster plot value => Sys2Proof.Machine.execAdvPlotWrite path cluster plot value s
  | .turnSlotWrite path stack slot word value => Sys2Proof.Machine.execTurnSlotWrite path stack slot word value s
  | .turnArm path stack slot => Sys2Proof.Machine.execTurnArm path stack slot s
  | .turnAbort path stack slot => Sys2Proof.Machine.execTurnAbort path stack slot s
  | .turnRestart path stack slot => Sys2Proof.Machine.execTurnRestart path stack slot s
  | .turnFinish path stack slot => Sys2Proof.Machine.execTurnFinish path stack slot s
  | .turnQuery path stack slot => Sys2Proof.Machine.execTurnQuery path stack slot s
  | .page port frame => Sys2Proof.Machine.execPage port frame s
  | .done port frame => Sys2Proof.Machine.execDone port frame s
  | .verifyingEnd stack slot => Sys2Proof.Machine.execVerifyingEnd stack slot s
  | .confirm port frame => Sys2Proof.Machine.execConfirm port frame s
  | .reject port frame ecc => Sys2Proof.Machine.execReject port frame ecc s
  | .peerAbort port frame => Sys2Proof.Machine.execPeerAbort port frame s
  | .turnoverTimeout stack slot => Sys2Proof.Machine.execTurnoverTimeout stack slot s
  | .doneTimeout stack slot => Sys2Proof.Machine.execDoneTimeout stack slot s
  | .notArmedResend stack slot => Sys2Proof.Machine.execNotArmedResend stack slot s
  | .granaryAlloc store owner plot furrow bytes => Sys2Proof.Machine.execGranaryAlloc store owner plot furrow bytes s
  | .ownerClear store owner pointer ecc => Sys2Proof.Machine.execOwnerClear store owner pointer ecc s
  | .gleanerPass badLists micros => Sys2Proof.Machine.execGleanerPass badLists micros s
  | .listRebuildEnd manager cls => Sys2Proof.Machine.execListRebuildEnd manager cls s
  | .gleanCfgWrite path value => Sys2Proof.Machine.execGleanCfgWrite path value s
  | .grnErrRead path => Sys2Proof.Machine.execGrnErrRead path s
  | .creditConfigWrite path port reg value => Sys2Proof.Machine.execCreditConfigWrite path port reg value s
  | .schedulerDecision port ecc => Sys2Proof.Machine.execSchedulerDecision port ecc s
  | .refill => Sys2Proof.Machine.execRefill s
  | .shaperWrite path port furrow word value => Sys2Proof.Machine.execShaperWrite path port furrow word value s
  | .policerSlotWrite path port slot word value => Sys2Proof.Machine.execPolicerSlotWrite path port slot word value s
  | .adaptationConverged lane => Sys2Proof.Machine.execAdaptationConverged lane s
  | .headerLock lane inverted peerLane => Sys2Proof.Machine.execHeaderLock lane inverted peerLane s
  | .headerLoss lane => Sys2Proof.Machine.execHeaderLoss lane s
  | .countdownStart lane => Sys2Proof.Machine.execCountdownStart lane s
  | .countdownEnd lane => Sys2Proof.Machine.execCountdownEnd lane s
  | .markerCheck lane valid lateNs => Sys2Proof.Machine.execMarkerCheck lane valid lateNs s
  | .attemptTimeout lane => Sys2Proof.Machine.execAttemptTimeout lane s
  | .lockLoss lane => Sys2Proof.Machine.execLockLoss lane s
  | .relockTimeout lane => Sys2Proof.Machine.execRelockTimeout lane s
  | .portWaitExpiry port => Sys2Proof.Machine.execPortWaitExpiry port s
  | .capabilitySend port => Sys2Proof.Machine.execCapabilitySend port s
  | .capabilityReceived port record peerSeen => Sys2Proof.Machine.execCapabilityReceived port record peerSeen s
  | .capTimeout port => Sys2Proof.Machine.execCapTimeout port s
  | .rateStepFailed port => Sys2Proof.Machine.execRateStepFailed port s
  | .widthChange port => Sys2Proof.Machine.execWidthChange port s
  | .portDown port => Sys2Proof.Machine.execPortDown port s
  | .controlSilent port => Sys2Proof.Machine.execControlSilent port s
  | .retryUnit port seq judge => Sys2Proof.Machine.execRetryUnit port seq judge s
  | .retryNak port expect => Sys2Proof.Machine.execRetryNak port expect s
  | .replay port first => Sys2Proof.Machine.execReplay port first s
  | .nakRepeat port => Sys2Proof.Machine.execNakRepeat port s
  | .retryTimeout port => Sys2Proof.Machine.execRetryTimeout port s
  | .creditA port ack rxMask ret => Sys2Proof.Machine.execCreditA port ack rxMask ret s
  | .creditB port ack rxMask ret hints => Sys2Proof.Machine.execCreditB port ack rxMask ret hints s
  | .portRestart path port => Sys2Proof.Machine.execPortRestart path port s
  | .portFallow path port => Sys2Proof.Machine.execPortFallow path port s
  | .portRestore path port => Sys2Proof.Machine.execPortRestore path port s
  | .portTest path port => Sys2Proof.Machine.execPortTest path port s
  | .endTest path port => Sys2Proof.Machine.execEndTest path port s
  | .retrain path lane => Sys2Proof.Machine.execRetrain path lane s
  | .clearFailed path lane => Sys2Proof.Machine.execClearFailed path lane s
  | .clearPrbs path lane => Sys2Proof.Machine.execClearPrbs path lane s
  | .laneTestWrite path lane value => Sys2Proof.Machine.execLaneTestWrite path lane value s
  | .prbsLock lane => Sys2Proof.Machine.execPrbsLock lane s
  | .prbsLockLoss lane bitErrors => Sys2Proof.Machine.execPrbsLockLoss lane bitErrors s
  | .strapAccept pins => Sys2Proof.Machine.execStrapAccept pins s
  | .strapChanged pins => Sys2Proof.Machine.execStrapChanged pins s
  | .plotCommit path plot value => Sys2Proof.Machine.execPlotCommit path plot value s
  | .plotActivate path plot => Sys2Proof.Machine.execPlotActivate path plot s
  | .plotFallow path plot => Sys2Proof.Machine.execPlotFallow path plot s
  | .plotFree path plot => Sys2Proof.Machine.execPlotFree path plot s
  | .plotQuery path plot => Sys2Proof.Machine.execPlotQuery path plot s
  | .plotFenceWrite path port index value => Sys2Proof.Machine.execPlotFenceWrite path port index value s
  | .roleOfWrite path value => Sys2Proof.Machine.execRoleOfWrite path value s
  | .adopt path => Sys2Proof.Machine.execAdopt path s
  | .standDown path => Sys2Proof.Machine.execStandDown path s
  | .yieldEpoch => Sys2Proof.Machine.execYieldEpoch s
  | .yieldConfigWrite path index value => Sys2Proof.Machine.execYieldConfigWrite path index value s
  | .drillWatchWrite path cluster core value => Sys2Proof.Machine.execDrillWatchWrite path cluster core value s
  | .hubWatchWrite path cluster value => Sys2Proof.Machine.execHubWatchWrite path cluster value s
  | .journalWrite => Sys2Proof.Machine.execJournalWrite s
  | .recCfgWrite path maskIndex value => Sys2Proof.Machine.execRecCfgWrite path maskIndex value s
  | .recStart path => Sys2Proof.Machine.execRecStart path s
  | .recStop path => Sys2Proof.Machine.execRecStop path s
  | .recReplay path => Sys2Proof.Machine.execRecReplay path s
  | .replayAbort path => Sys2Proof.Machine.execReplayAbort path s
  | .recClear path => Sys2Proof.Machine.execRecClear path s
  | .replayInstance group seq => Sys2Proof.Machine.execReplayInstance group seq s
  | .replayDone => Sys2Proof.Machine.execReplayDone s
  | .strikeExpiry kind index => Sys2Proof.Machine.execStrikeExpiry kind index s
  | .migrationDone core cycles => Sys2Proof.Machine.execMigrationDone core cycles s
  | .ledgerWriteRetry written => Sys2Proof.Machine.execLedgerWriteRetry written s
  | .fieldTestStart cluster => Sys2Proof.Machine.execFieldTestStart cluster s
  | .fieldTestEnd cluster passed => Sys2Proof.Machine.execFieldTestEnd cluster passed s
  | .drainTimeout kind index => Sys2Proof.Machine.execDrainTimeout kind index s
  | .retire path kind unit => Sys2Proof.Machine.execRetire path kind unit s
  | .reinstate path kind unit => Sys2Proof.Machine.execReinstate path kind unit s
  | .testNow path kind unit => Sys2Proof.Machine.execTestNow path kind unit s
  | .fltQuery path kind unit => Sys2Proof.Machine.execFltQuery path kind unit s
  | .porAssert => Sys2Proof.Machine.execPorAssert s
  | .porRelease => Sys2Proof.Machine.execPorRelease s
  | .warmResetAssert => Sys2Proof.Machine.execWarmResetAssert s
  | .warmResetRelease => Sys2Proof.Machine.execWarmResetRelease s
  | .startupStepComplete report => Sys2Proof.Machine.execStartupStepComplete report s
  | .startupStepTimeout unfinished => Sys2Proof.Machine.execStartupStepTimeout unfinished s
  | .flashWrite path flash offset value => Sys2Proof.Machine.execFlashWrite path flash offset value s
  | .quote path => Sys2Proof.Machine.execQuote path s
  | .quoteDone signature => Sys2Proof.Machine.execQuoteDone signature s
  | .verifyCopy path => Sys2Proof.Machine.execVerifyCopy path s
  | .verifyCopyDone copy badSection => Sys2Proof.Machine.execVerifyCopyDone copy badSection s
  | .programSlot path slot => Sys2Proof.Machine.execProgramSlot path slot s
  | .revokeSlot path slot => Sys2Proof.Machine.execRevokeSlot path slot s
  | .slotFusesDone => Sys2Proof.Machine.execSlotFusesDone s
  | .fieldOrder port frame => Sys2Proof.Machine.execFieldOrder port frame s
  | .hitchLaneLock lane => Sys2Proof.Machine.execHitchLaneLock lane s
  | .hitchLaneLockLoss lane => Sys2Proof.Machine.execHitchLaneLockLoss lane s
  | .hello frame => Sys2Proof.Machine.execHello frame s
  | .hitchRead frame => Sys2Proof.Machine.execHitchRead frame s
  | .hitchWrite frame => Sys2Proof.Machine.execHitchWrite frame s
  | .eventFrame => Sys2Proof.Machine.execEventFrame s
  | .freeze path group => Sys2Proof.Machine.execFreeze path group s
  | .thaw path group => Sys2Proof.Machine.execThaw path group s
  | .freezeAll path => Sys2Proof.Machine.execFreezeAll path s
  | .snapshotTaken group => Sys2Proof.Machine.execSnapshotTaken group s
  | .selfThaw group => Sys2Proof.Machine.execSelfThaw group s
  | .railFault rail => Sys2Proof.Machine.execRailFault rail s
  | .avsUpdate millivolts acknowledged => Sys2Proof.Machine.execAvsUpdate millivolts acknowledged s
  | .sdrefLoss quadrant => Sys2Proof.Machine.execSdrefLoss quadrant s
  | .sdrefReturn quadrant => Sys2Proof.Machine.execSdrefReturn quadrant s
  | .sysclkLoss => Sys2Proof.Machine.execSysclkLoss s
  | .sensorSample readings => Sys2Proof.Machine.execSensorSample readings s
  | .thermalThrottle => Sys2Proof.Machine.execThermalThrottle s
  | .droopStretch core => Sys2Proof.Machine.execDroopStretch core s
  | .thermTrip => Sys2Proof.Machine.execThermTrip s
  | .alertClear path value => Sys2Proof.Machine.execAlertClear path value s
  | .tapExtest cells => Sys2Proof.Machine.execTapExtest cells s
  | .tapSamplePreload cells => Sys2Proof.Machine.execTapSamplePreload cells s
  | .tapBypass => Sys2Proof.Machine.execTapBypass s
  | .tapIdcode => Sys2Proof.Machine.execTapIdcode s
  | .tapPacketAccess data => Sys2Proof.Machine.execTapPacketAccess data s
  | .railReturn rail => Sys2Proof.Machine.execRailReturn rail s
  | .pllLockLoss island => Sys2Proof.Machine.execPllLockLoss island s
  | .pllRelock island => Sys2Proof.Machine.execPllRelock island s
  | .flashProgramDone flash written => Sys2Proof.Machine.execFlashProgramDone flash written s
  | .sowVersionReadDone group seq => Sys2Proof.Machine.execSowVersionReadDone group seq s
  | .svnAdvanceDone => Sys2Proof.Machine.execSvnAdvanceDone s

end Sys2Proof.Machine
end

