-- ==== Sys2Proof/Machine/Idle.lean ====
section
/-! DEFINITION. What passes on an empty command queue: device time (R442, log 3). -/

namespace Sys2Proof.Machine

/-- GLB_TIME counts nanoseconds from Ready; before Ready, and while halted, it does not count. -/
def idleTick (s : State) : State :=
  if isReady s then wr s aTime (BitVec.ofNat 64 (now s + 1)) else s

end Sys2Proof.Machine
end

