-- ==== Sys2Proof/Safety.lean ====
section
/-! DEFINITION. What counts as a sound state and a safe run, in the terms the claims use. -/

namespace Sys2Proof.Machine

open Sys2Proof

/-- The canonical form of the register table: addresses strictly rising, none listed with the word that it
reads at reset. -/
def regsWf : Tbl Word → Bool
  | [] => true
  | (a, w) :: t => decide (w ≠ resetWord a) && tableAbove a t && regsWf t

/-- Every memory of the block is in its canonical form. -/
def memoriesWf (s : State) : Prop :=
  memoryWf 0x00 s.stk.hbm = true ∧ memoryWf 0xFF s.flashA = true ∧ memoryWf 0xFF s.flashB = true
    ∧ memoryWf 0x00 s.boot.grant = true

/-- What every step keeps: the register table and the memories in their canonical forms, the words that
identify the part and its sizes as the manual gives them (R5, R6), and a legal start state (R423). -/
def sound (s : State) : Prop :=
  regsWf s.regs = true ∧ memoriesWf s ∧ rd s aCapId = resetWord aCapId ∧ rd s aCapSizes = resetWord aCapSizes
    ∧ rdf s aBoot 59 58 ≤ 2

/-- A run is safe as long as every step answers a next state: no fault, no refusal. -/
def safeStep (s : State) : Prop := ∃ t, step s = .next t

/-! ## Frames -/

/-- The parts of a state besides its registers, its queue and the model's own counters. -/
inductive Part
  | fabric | links | granary | binding | cores | stack | stackMemory | verdicts | advance | recorder | yield
  | queuedWork | management | electrical | flashes | startState
deriving DecidableEq, Repr

/-- The work that waits for the flashes with the ledger and the journal, and the rest of the start state. -/
def workOf (b : Boot) : Boot :=
  { Boot.reset with
    flashJobs := b.flashJobs, ledger := b.ledger, ledgerBank := b.ledgerBank, ledgerDue := b.ledgerDue,
    journal := b.journal }
def trustOf (b : Boot) : Boot :=
  { b with flashJobs := [], ledger := [], ledgerBank := 0, ledgerDue := [], journal := [] }

/-- The stacks' state apart from the bytes of their memories. -/
def stackState (x : Stacks) : Stacks := { x with hbm := [] }

/-- A part is the same in two states. -/
def Part.same (s t : State) : Part → Prop
  | .fabric => t.fab = s.fab
  | .links => t.links = s.links
  | .granary => t.grn = s.grn
  | .binding => t.bnd = s.bnd
  | .cores => t.cores = s.cores
  | .stack => stackState t.stk = stackState s.stk
  | .stackMemory => t.stk.hbm = s.stk.hbm
  | .verdicts => t.vrd = s.vrd
  | .advance => t.adv = s.adv
  | .recorder => t.rcd = s.rcd
  | .yield => t.yld = s.yld
  | .queuedWork => workOf t.boot = workOf s.boot
  | .management => t.mg = s.mg
  | .electrical => t.el = s.el
  | .flashes => t.flashA = s.flashA ∧ t.flashB = s.flashB
  | .startState => trustOf t.boot = trustOf s.boot

/-- Nothing differs but the named parts, the registers from an address upward and those that a list names,
and the queue is the same. -/
def touchesOnly (ps : List Part) (base : Nat) (as : List Nat) (s t : State) : Prop :=
  t.pending = s.pending ∧ (∀ p, p ∉ ps → p.same s t) ∧ ∀ a, a < base → a ∉ as → rd t a = rd s a

/-- Every register bit outside the named fields (address, highest bit, lowest bit) is the same. -/
def onlyBits (fs : List (Nat × Nat × Nat)) (s t : State) : Prop :=
  ∀ a k, (∀ f ∈ fs, a = f.1 → k < f.2.2 ∨ f.2.1 < k) → rdb t a k = rdb s a k

/-- The device takes commands from its managers: R424 and R427 leave it management and it is not halted. -/
def manageable (s : State) : Prop := mgmtUp s = true ∧ isHalted s = false

/-- Nothing but the named parts and register fields differs, and the queue is the same. -/
def changesOnly (ps : List Part) (fs : List (Nat × Nat × Nat)) (s t : State) : Prop :=
  t.pending = s.pending ∧ (∀ p, p ∉ ps → p.same s t) ∧ onlyBits fs s t

/-! ## Classes of commands -/

/-- What a manager or the Hitch host commands through a register. -/
def managerCommand : Instr → Bool
  | .registerWrite .. | .fwdTableWrite .. | .ecmpSetWrite .. | .fwdHold .. | .fwdRelease ..
  | .fwdInvalidate .. | .fwdQuery .. | .stageWrite .. | .groupCommit .. | .memberEntryWrite ..
  | .groupAbort .. | .groupFallow .. | .groupRestore .. | .groupFree .. | .setSeq .. | .groupQuery ..
  | .fbkEntryCommit .. | .hbmWindowWrite .. | .hypArm .. | .entryActivate .. | .entryFallow ..
  | .entryFree .. | .releaseVersion .. | .passHold .. | .passRelease .. | .rebuildSown .. | .entryQuery ..
  | .verdictEntryWrite .. | .verdictStart .. | .verdictFallow .. | .verdictFree .. | .resolve ..
  | .skipNext .. | .verdictQuery .. | .oscaleWrite .. | .advPlotWrite .. | .turnSlotWrite .. | .turnArm ..
  | .turnAbort .. | .turnRestart .. | .turnFinish .. | .turnQuery .. | .gleanCfgWrite .. | .grnErrRead ..
  | .creditConfigWrite .. | .shaperWrite .. | .policerSlotWrite .. | .portRestart .. | .portFallow ..
  | .portRestore .. | .portTest .. | .endTest .. | .retrain .. | .clearFailed .. | .clearPrbs ..
  | .laneTestWrite .. | .plotCommit .. | .plotActivate .. | .plotFallow .. | .plotFree .. | .plotQuery ..
  | .plotFenceWrite .. | .roleOfWrite .. | .adopt .. | .standDown .. | .yieldConfigWrite ..
  | .drillWatchWrite .. | .hubWatchWrite .. | .recCfgWrite .. | .recStart .. | .recStop .. | .recReplay ..
  | .replayAbort .. | .recClear .. | .retire .. | .reinstate .. | .testNow .. | .fltQuery ..
  | .flashWrite .. | .quote .. | .verifyCopy .. | .programSlot .. | .revokeSlot .. | .freeze .. | .thaw ..
  | .freezeAll .. | .alertClear .. => true
  | _ => false

/-- What happens on the links, in the fabric, the clusters and the stacks: no word of a manager, and nothing
that starts, resets, tests or powers the device. -/
def dataPlane : Instr → Bool
  | .hbmRefresh .. | .d2dRetry .. | .packetHeader .. | .quotaAdmit .. | .packetTail .. | .packetSent ..
  | .holdTimeout .. | .occScanEnd .. | .sowCopySent .. | .reap .. | .reapDeferred .. | .reapExpress ..
  | .sow .. | .sowExpress .. | .sowRequest .. | .completion .. | .contributionAdmit ..
  | .openingPacketAdmit .. | .stragglerTimeout .. | .settleTimeout .. | .noJudgeTimeout .. | .passStart ..
  | .entryPassDone .. | .secondEncodingEnd .. | .tillerGroupComplete .. | .patrolScrub ..
  | .landingReservationResume .. | .localVerdictSend .. | .verdict .. | .advanceFetch .. | .page ..
  | .done .. | .verifyingEnd .. | .confirm .. | .reject .. | .peerAbort .. | .turnoverTimeout ..
  | .doneTimeout .. | .notArmedResend .. | .granaryAlloc .. | .ownerClear .. | .gleanerPass ..
  | .listRebuildEnd .. | .schedulerDecision .. | .refill | .adaptationConverged .. | .headerLock ..
  | .headerLoss .. | .countdownStart .. | .countdownEnd .. | .markerCheck .. | .attemptTimeout ..
  | .lockLoss .. | .relockTimeout .. | .portWaitExpiry .. | .capabilitySend .. | .capabilityReceived ..
  | .capTimeout .. | .rateStepFailed .. | .widthChange .. | .portDown .. | .controlSilent ..
  | .retryUnit .. | .retryNak .. | .replay .. | .nakRepeat .. | .retryTimeout .. | .creditA ..
  | .creditB .. | .prbsLock .. | .prbsLockLoss .. | .yieldEpoch | .journalWrite | .replayInstance ..
  | .replayDone | .strikeExpiry .. | .pllLockLoss .. | .pllRelock .. | .sowVersionReadDone .. => true
  | _ => false

end Sys2Proof.Machine
end

