-- ==== Sys2Proof/Certificates/Slice0/Obligations.lean ====
section
/-! DEFINITION. The statements about the block that the provers are given. -/

open Sys2Proof Sys2Proof.Machine

/-- RAIL_FAULT, RAIL_RETURN and AVS_UPDATE (R455, R456): what each leaves in the electrical state, when ALERT
bit 61 rises, and that nothing else changes. A rail past 10 does not exist and a rail that is up does not
return (log 4). DROOP_STRETCH (R465) and THERM_TRIP (R466): the core's clock is stretched from now on; a
trip stops the islands 0 to 203 and every transmitter. -/
def Obligations.RailsDroopAndTrip : Prop :=
  ((∀ s rail, rail < 11 → ∃ t, exec (.railFault rail) s = .next t
      ∧ t.el = { s.el with railsDown := s.el.railsDown ||| 2 ^ rail }
      ∧ (inReset s = false → rdb t aAlert 61 = true) ∧ (inReset s = true → t.regs = s.regs)
      ∧ changesOnly [.electrical] [(aAlert, 61, 61)] s t)
  ∧ (∀ s rail, s.el.railsDown.testBit rail = true → ∃ t, exec (.railReturn rail) s = .next t
      ∧ t.el = { s.el with railsDown := s.el.railsDown - 2 ^ rail } ∧ t.regs = s.regs
      ∧ changesOnly [.electrical] [] s t)
  ∧ (∀ s mv, inReset s = false → 6 ≤ bootStep s → avsLegal mv = true →
      ∃ t, exec (.avsUpdate mv true) s = .next t ∧ t.el = { s.el with avsMv := mv, avsFailed := 0 }
        ∧ t.regs = s.regs ∧ changesOnly [.electrical] [] s t)
  ∧ ∀ s mv, inReset s = false → 6 ≤ bootStep s → avsLegal mv = true →
      ∃ t, exec (.avsUpdate mv false) s = .next t
        ∧ t.el = { s.el with avsFailed := Nat.min 4 (s.el.avsFailed + 1) }
        ∧ (3 ≤ s.el.avsFailed → rdb t aAlert 61 = true) ∧ (s.el.avsFailed < 3 → t.regs = s.regs)
        ∧ changesOnly [.electrical] [(aAlert, 61, 61)] s t)
  ∧ ((∀ s core, inReset s = false → core < 108 → ∃ t, exec (.droopStretch core) s = .next t
      ∧ tget 0 t.el.droops core = now s + 1 ∧ (∀ k, k ≠ core → tget 0 t.el.droops k = tget 0 s.el.droops k)
      ∧ changesOnly [.electrical] [] s t)
  ∧ ∀ s, ∃ t u, exec .thermTrip s = .next t ∧ t = stopTransmitters u ∧ t.el = { s.el with tripped := true }
      ∧ (∀ i, i < 204 → islandState u i = islandOff)
      ∧ changesOnly [.electrical] ((List.range 204).map fun i => (aIsland i, 55, 54)) s u
      ∧ touchesOnly [.links, .electrical] 0x1000_0000 [] s t)

/-- SDREF_LOSS and SDREF_RETURN (R459), PLL_LOCK_LOSS and PLL_RELOCK (R22): the lost quadrants, ALERT bit 60,
the island's state and its relock count, and what the rest of the row works on. XING_TIMEOUT (R24): both
islands count the timeout, the receiver goes FALLOW, and the row then takes down what stood on it. -/
def Obligations.ClocksAndCrossings : Prop :=
  ((∀ s q, q < 4 → s.el.sdrefLost.testBit q = false → ∃ t, exec (.sdrefLoss q) s = .next t
      ∧ t.el = { s.el with sdrefLost := s.el.sdrefLost ||| 2 ^ q }
      ∧ (inReset s = false → rdb t aAlert 60 = true) ∧ (inReset s = true → t.regs = s.regs)
      ∧ touchesOnly [.fabric, .links, .granary, .binding, .cores, .stack, .stackMemory, .verdicts, .advance,
          .recorder, .yield, .electrical] 0x1000_0000 [aAlert] s t)
  ∧ (∀ s q, s.el.sdrefLost.testBit q = true → ∃ t, exec (.sdrefReturn q) s = .next t
      ∧ t.el = { s.el with sdrefLost := s.el.sdrefLost - 2 ^ q }
      ∧ touchesOnly [.links, .electrical] 0x1000_0000 [] s t)
  ∧ (∀ s i, i < 205 → islandState s i = islandRunning → ∃ u, islandState u i = islandLocking
      ∧ changesOnly [] [(aIsland i, 55, 54)] s u
      ∧ exec (.pllLockLoss i) s = .next (if 108 ≤ i ∧ i < 172 then settle (octetDown u (i - 108)) else u))
  ∧ ∀ s i, i < 205 → islandState s i = islandLocking →
      (108 ≤ i ∧ i < 172 → s.el.sdrefLost.testBit ((i - 108) / 16) = false) → ∃ u,
        islandState u i = islandRunning
        ∧ rdf u (aIsland i) 15 0 = Nat.min 0xFFFF (rdf s (aIsland i) 15 0 + 1)
        ∧ changesOnly [] [(aIsland i, 55, 54), (aIsland i, 15, 0)] s u
        ∧ exec (.pllRelock i) s = .next (if 108 ≤ i ∧ i < 172 then octetUp u (i - 108) else u))
  ∧ (∀ s i j, inReset s = false → i < 205 → j < 205 → i ≠ j →
    (islandState s j = islandRunning ∨ islandState s j = islandLocking) → ∃ u,
      rdf u (aIsland i) 31 16 = Nat.min 0xFFFF (rdf s (aIsland i) 31 16 + 1)
      ∧ rdf u (aIsland j) 31 16 = Nat.min 0xFFFF (rdf s (aIsland j) 31 16 + 1)
      ∧ islandState u j = islandFallow ∧ touchesOnly [] 0xA300_0000 [] s u
      ∧ exec (.xingTimeout i j) s = .next (islandDown u j))

/-- SENSOR_SAMPLE (R464): a reading within −40 to 150 °C that is within 5 °C of the sensor's last accepted one,
or its first, is the sensor's temperature, and the sensor is valid; only sensors, GLB_THERM and GLB_ALERT
change, with the discard counts. THERMAL_THROTTLE (R465): every domain moves one step toward the limit that
its sensors ask for, and the time in throttling is counted in the ready device. -/
def Obligations.SensorsAndThrottle : Prop :=
  (∀ s readings n r, inReset s = false → n < 61 → readings[n]? = some r → sensorState s n ≠ 2 →
    -320 ≤ r → r ≤ 1200 →
    (s.el.sampled.contains n = true → sensorTemp s n - 40 ≤ r ∧ r ≤ sensorTemp s n + 40) →
    ∃ t, exec (.sensorSample readings) s = .next t ∧ sensorState t n = 0 ∧ sensorTemp t n = r
      ∧ tget 0 t.el.discards n = 0
      ∧ (∀ a, a ≠ aTherm → a ≠ aAlert → (∀ k, k < 61 → a ≠ aSensor k) → rd t a = rd s a)
      ∧ t.pending = s.pending ∧ ∀ p, p ∉ [Part.electrical] → p.same s t)
  ∧ (∀ s, inReset s = false → ∃ t, exec .thermalThrottle s = .next t
    ∧ rdf t aTherm 47 44 = stepTo (rdf s aTherm 47 44) ((hottest s (List.range 37)).getD 0)
    ∧ (∀ n, n < 12 → tget 0 t.el.stackSteps n = stepTo (tget 0 s.el.stackSteps n) (stackReading s n))
    ∧ rdf t aTherm 31 0 = (if isReady s = true ∧ rdf s aTherm 47 40 ≠ 0 then
        Nat.min 0xFFFFFFFF (rdf s aTherm 31 0 + 1) else rdf s aTherm 31 0)
    ∧ changesOnly [.electrical] [(aTherm, 47, 44), (aTherm, 43, 40), (aTherm, 31, 0)] s t)

/-- The five TAP rows (R463): with rails 9 and 10 up the instruction is selected and its data register holds
what the row gives it; EXTEST, SAMPLE_PRELOAD and the packet access work under POR_N alone, and elsewhere
they select BYPASS. Nothing else changes. ALERT_CLEAR (R468): a 1 clears each of bits 61 to 57 whose cause
is over, every other bit of GLB_ALERT stays, and no register below the recorder's changes but GLB_ALERT. -/
def Obligations.TestPortAndAlert : Prop :=
  (∀ s, tapPowered s = true →
    (exec .tapBypass s = .next { s with el := { s.el with tap := { s.el.tap with ir := .bypass, dr := 0 } } })
    ∧ (exec .tapIdcode s
        = .next { s with el := { s.el with tap := { s.el.tap with ir := .idcode, dr := idcode } } })
    ∧ (∀ cells, s.boot.porLow = true → exec (.tapExtest cells) s
        = .next { s with el := { s.el with tap := { s.el.tap with ir := .extest, driven := cells } } })
    ∧ (∀ cells, s.boot.porLow = true → exec (.tapSamplePreload cells) s
        = .next { s with el := { s.el with tap := { s.el.tap with ir := .samplePreload, sampled := cells } } })
    ∧ (∀ data, s.boot.porLow = true → exec (.tapPacketAccess data) s
        = .next { s with el := { s.el with tap := { s.el.tap with ir := .packetAccess, data := data } } })
    ∧ ∀ cells data, s.boot.porLow = false → exec (.tapExtest cells) s = exec .tapBypass s
        ∧ exec (.tapSamplePreload cells) s = exec .tapBypass s
        ∧ exec (.tapPacketAccess data) s = exec .tapBypass s)
  ∧ (∀ s path value, manageable s → ∃ t, exec (.alertClear path value) s = .next t
    ∧ (∀ k, 57 ≤ k → k ≤ 61 →
        rdb t aAlert k = (rdb s aAlert k && !(bitOf value k && !bitOf (liveCauses s) k)))
    ∧ (∀ k, k < 57 ∨ 61 < k → rdb t aAlert k = rdb s aAlert k)
    ∧ touchesOnly [.recorder] 0xA000_0000 [aAlert] s t)

/-- The rows that move one lane through R305 and R307. For a lane of a configured port that is not in TEST,
whose octet runs and whose device transmits, each row in a state R305 lists for it answers the state that
R305 names, and changes that lane's fields and what PRT_LINK_STAT shows of the port's lanes. A row that may
leave every lane ALIGNED or FAILED goes on to the port's own rule (R308), named checkLanes. A failed attempt
(R305) and a relock that took too long (R307): the next attempt starts at TRAIN with its number and its
preset, and the eighth failure leaves the lane FAILED. A lane that a fault holds out stays FAILED (R394). -/
def Obligations.LaneTrainingAndAttempts : Prop :=
  (∀ s l p, l < 512 → portOfLane s l = some p → silent s = false → octetRuns s l = true → portState s p ≠ lsTest →
    let shown := [(aLaneStat l, 63, 60), (aLinkStat p, 15, 0), (aLinkStat p, 54, 50)]
    (laneState s l = lnTrain → ∃ t, exec (.adaptationConverged l) s = .next t
        ∧ laneState t l = lnHunt ∧ changesOnly [] shown s t)
    ∧ (laneState s l = lnHunt → ∀ inverted peer, peer < 16 → ∃ t, exec (.headerLock l inverted peer) s = .next t
        ∧ laneState t l = lnLocked ∧ rdf t (aLaneStat l) 52 49 = peer ∧ rdb t (aLaneStat l) 48 = inverted
        ∧ changesOnly [] ((aLaneStat l, 52, 49) :: (aLaneStat l, 48, 48) :: shown) s t)
    ∧ (laneState s l = lnLocked → ∃ t, exec (.headerLoss l) s = .next t
        ∧ laneState t l = lnHunt ∧ changesOnly [] shown s t)
    ∧ (laneState s l = lnLocked → ∃ t, exec (.countdownStart l) s = .next t
        ∧ laneState t l = lnSwitch ∧ changesOnly [] shown s t)
    ∧ (laneState s l = lnSwitch → ∃ t, exec (.countdownEnd l) s = .next t
        ∧ laneState t l = lnMarkerHunt ∧ changesOnly [] shown s t)
    ∧ (laneState s l = lnMarkerHunt → ∀ late, ∃ t, exec (.markerCheck l false late) s = .next t
        ∧ laneState t l = lnHunt ∧ changesOnly [] shown s t)
    ∧ (laneState s l = lnMarkerHunt ∨ laneState s l = lnRelock → ∀ late, ∃ u,
        exec (.markerCheck l true late) s = .next (checkLanes (showRx u p) p) ∧ laneState u l = lnAligned
        ∧ link u p = { link s p with late := tset 0 (link s p).late l late }
        ∧ changesOnly [.links] [(aLaneStat l, 63, 60)] s u)
    ∧ (laneState s l = lnAligned → ∃ t, exec (.lockLoss l) s = .next t ∧ laneState t l = lnRelock
        ∧ (rd t (aCnt 4 l 0)).toNat = ((rd s (aCnt 4 l 0)).toNat + 1) % 2 ^ cntWidth 4 0
        ∧ changesOnly [] ((aCnt 4 l 0, 63, 0) :: (aCnt 4 l 0 + 8, 0, 0) :: shown) s t))
  ∧ (∀ s l p, l < 512 → portOfLane s l = some p → silent s = false → octetRuns s l = true → portState s p ≠ lsTest →
    let shown := [(aLaneStat l, 63, 60), (aLaneStat l, 59, 56), (aLaneStat l, 55, 53), (aLinkStat p, 15, 0),
      (aLinkStat p, 54, 50)]
    (laneHeld s l = false → laneAttempt s l < 8 → laneState s l ∈ [lnTrain, lnHunt, lnLocked, lnSwitch, lnMarkerHunt] →
      ∃ t, exec (.attemptTimeout l) s = .next t ∧ laneState t l = lnTrain
        ∧ laneAttempt t l = laneAttempt s l + 1
        ∧ rdf t (aLaneStat l) 55 53 = (firstPreset s + laneAttempt s l) % 8 ∧ changesOnly [] shown s t)
    ∧ (8 ≤ laneAttempt s l → laneState s l ∈ [lnTrain, lnHunt, lnLocked, lnSwitch, lnMarkerHunt] → ∃ u,
        exec (.attemptTimeout l) s = .next (checkLanes (showRx u p) p) ∧ laneState u l = lnFailed
        ∧ touchesOnly [] 0xA300_0000 [aLaneStat l] s u)
    ∧ (laneHeld s l = false → laneState s l = lnRelock → ∃ t, exec (.relockTimeout l) s = .next t
        ∧ laneState t l = lnTrain ∧ laneAttempt t l = 1 ∧ rdf t (aLaneStat l) 55 53 = firstPreset s % 8
        ∧ changesOnly [] shown s t)
    ∧ (laneHeld s l = true → laneState s l = lnRelock → ∃ u,
        exec (.relockTimeout l) s = .next (checkLanes (showRx u p) p) ∧ laneState u l = lnFailed
        ∧ changesOnly [] [(aLaneStat l, 63, 60)] s u))

/-- A port's bring-up (R308 to R313): the wait that ends LANES, the record that it sends and receives in CAPS,
the timeout of CAPS, a rate step that failed and a new active set. PORT_DOWN and CONTROL_SILENT (R314): a
running link is lost with the reason of the row, and what that lets go on follows; a link that does not run
has no block lock to lose. -/
def Obligations.PortBringUpAndLoss : Prop :=
  ((∀ s p, portExists s p = true → portState s p ≠ lsTest →
      ((link s p).phase = lsLanes ∨ (link s p).phase = lsRateStep) →
      exec (.portWaitExpiry p) s = .next (leaveLanes s p))
  ∧ (∀ s p, inPhase s p lsCaps = true → ∃ t, exec (.capabilitySend p) s = .next t
      ∧ link t p = { link s p with lastSent := capBlocks (ownRecord s p) (link s p).record.isSome }
      ∧ (∀ q, q ≠ p → link t q = link s q) ∧ changesOnly [.links] [] s t)
  ∧ (∀ s p bytes r seen, inPhase s p lsCaps = true → parseRecord bytes = some r → ∃ u,
      exec (.capabilityReceived p bytes seen) s
        = .next (if (link u p).peerSeen = true then endCaps u p r else u)
      ∧ link u p = { link s p with record := some r, peerSeen := (link s p).peerSeen || seen }
      ∧ (∀ q, q ≠ p → link u q = link s q)
      ∧ changesOnly [.links] [(aLinkPeer p, 63, 46), (aLinkPeer p, 45, 37), (aLinkPeer p, 36, 35),
          (aLinkPeer p, 34, 31), (aLinkStat p, 47, 47)] s u)
  ∧ (∀ s p bytes seen, inPhase s p lsCaps = true → parseRecord bytes = none →
      exec (.capabilityReceived p bytes seen) s = .next s)
  ∧ (∀ s p, inPhase s p lsCaps = true → ∃ u,
      rdf u (aLinkStat p) 23 20 = Nat.min 15 (rdf s (aLinkStat p) 23 20 + 1)
      ∧ changesOnly [] [(aLinkStat p, 23, 20)] s u
      ∧ exec (.capTimeout p) s
        = .next (bringUp (if rdf u (aLinkStat p) 23 20 = 4 then portFallow u p 2 else u) p false))
  ∧ (∀ s p, (inPhase s p lsRateStep = true ∨ inPhase s p lsCaps = true) → (link s p).stepTo.isSome = true →
      ∃ t, exec (.rateStepFailed p) s = .next t
        ∧ link t p = { link s p with phase := lsLanes, stepTo := none, record := none }
        ∧ (∀ q, q ≠ p → link t q = link s q) ∧ touchesOnly [.links] 0x1000_0000 [] s t)
  ∧ ∀ s p, linkRuns s p = true → activeSet (link s p).txMask ≠ (link s p).txSet →
      ∃ t, exec (.widthChange p) s = .next t
        ∧ link t p = { link s p with txSet := activeSet (link s p).txMask }
        ∧ (∀ q, q ≠ p → link t q = link s q)
        ∧ rdf t (aLinkStat p) 59 55 = setSize (activeSet (link s p).txMask)
        ∧ touchesOnly [.links] 0xA300_0000 [aLinkStat p] s t)
  ∧ ((∀ s p, linkRuns s p = true → ∃ t, exec (.portDown p) s = .next t ∧ t = settle (portLost s p 1)
      ∧ t.boot = s.boot ∧ t.el = s.el ∧ t.mg = s.mg ∧ ∀ a, a < 0x1000_0000 → rd t a = rd s a)
  ∧ (∀ s p, linkRuns s p = true → ∃ t, exec (.controlSilent p) s = .next t ∧ t = settle (portLost s p 7)
      ∧ t.boot = s.boot ∧ t.el = s.el ∧ t.mg = s.mg ∧ ∀ a, a < 0x1000_0000 → rd t a = rd s a)
  ∧ ∀ s p, linkRuns s p = false → exec (.portDown p) s = .next (settle s)
      ∧ exec (.controlSilent p) s = .next (settle s))

/-- Link-level retry (R316, R317): what each row does to the port's retry state, to what the port sent last and
to its counters. CREDIT_A and CREDIT_B (R318): the partner's returned credits, its mask of healthy lanes and
its hints are taken; units up to the acknowledged one leave the window. A mask that leaves too few lanes
loses the link (R314). -/
def Obligations.RetryAndCredits : Prop :=
  (∀ s p, linkRuns s p = true → p < 512 →
    ((link s p).discarding = false → ∃ t, exec (.retryUnit p (link s p).rxExpect .good) s = .next t
        ∧ link t p = { link s p with rxExpect := ((link s p).rxExpect + 1) % 4096 }
        ∧ (∀ q, q ≠ p → link t q = link s q) ∧ changesOnly [.links] [] s t)
    ∧ (∀ seq, (link s p).discarding = true ∨ seq ≠ (link s p).rxExpect →
        exec (.retryUnit p seq .good) s = .next s)
    ∧ ((link s p).discarding = false → ∀ lane n, ∃ t,
        exec (.retryUnit p (link s p).rxExpect (.corrected lane n)) s = .next t
        ∧ link t p = { link s p with rxExpect := ((link s p).rxExpect + 1) % 4096 }
        ∧ (∀ q, q ≠ p → link t q = link s q)
        ∧ (rd t (aCnt 4 lane 3)).toNat = ((rd s (aCnt 4 lane 3)).toNat + n) % 2 ^ cntWidth 4 3
        ∧ changesOnly [.links] [(aCnt 4 lane 3, 63, 0), (aCnt 4 lane 3 + 8, 0, 0)] s t)
    ∧ ((link s p).discarding = false → ∀ seq, ∃ t, exec (.retryUnit p seq .block) s = .next t
        ∧ link t p = { link s p with discarding := true, lastSent := [nakBlock (link s p).rxExpect 2] }
        ∧ (∀ q, q ≠ p → link t q = link s q) ∧ changesOnly [.links] [] s t)
    ∧ ((link s p).discarding = false → ∀ seq lane, ∃ t, exec (.retryUnit p seq (.codeword lane)) s = .next t
        ∧ link t p = { link s p with discarding := true, lastSent := [nakBlock (link s p).rxExpect 1] }
        ∧ (∀ q, q ≠ p → link t q = link s q)
        ∧ (rd t (aCnt 4 lane 2)).toNat = ((rd s (aCnt 4 lane 2)).toNat + 1) % 2 ^ cntWidth 4 2
        ∧ changesOnly [.links] [(aCnt 4 lane 2, 63, 0), (aCnt 4 lane 2 + 8, 0, 0)] s t)
    ∧ ((link s p).discarding = false → ∀ seq lane, ∃ t, exec (.retryUnit p seq (.badCtrl lane)) s = .next t
        ∧ link t p = { link s p with discarding := true, lastSent := [nakBlock (link s p).rxExpect 2] }
        ∧ (∀ q, q ≠ p → link t q = link s q)
        ∧ (rd t (aCnt 4 lane 1)).toNat = ((rd s (aCnt 4 lane 1)).toNat + 1) % 2 ^ cntWidth 4 1
        ∧ changesOnly [.links] [(aCnt 4 lane 1, 63, 0), (aCnt 4 lane 1 + 8, 0, 0)] s t)
    ∧ (∀ k, (link s p).window.any (fun u => u.seq == k) = true → ∃ t, exec (.retryNak p k) s = .next t
        ∧ link t p = { link s p with
            lastSent := replayBlock k :: ((link s p).window.dropWhile fun u => u.seq != k).map Unit'.bytes }
        ∧ (∀ q, q ≠ p → link t q = link s q)
        ∧ changesOnly [.links] [(aCnt 1 p dcReplay, 63, 0), (aCnt 1 p dcReplay + 8, 0, 0)] s t)
    ∧ (∀ k, (link s p).window.any (fun u => u.seq == k) = false →
        exec (.retryNak p k) s = .next (settle (portLost s p 6)))
    ∧ ((link s p).discarding = true → ∃ t, exec (.replay p (link s p).rxExpect) s = .next t
        ∧ link t p = { link s p with discarding := false } ∧ (∀ q, q ≠ p → link t q = link s q)
        ∧ changesOnly [.links] [] s t)
    ∧ ((link s p).discarding = true → ∃ t, exec (.nakRepeat p) s = .next t
        ∧ link t p = { link s p with lastSent := [nakBlock (link s p).rxExpect 3] }
        ∧ (∀ q, q ≠ p → link t q = link s q) ∧ changesOnly [.links] [] s t)
    ∧ ∀ u us, (link s p).window = u :: us → ∃ t, exec (.retryTimeout p) s = .next t
        ∧ link t p = { link s p with lastSent := replayBlock u.seq :: (u :: us).map Unit'.bytes }
        ∧ (∀ q, q ≠ p → link t q = link s q)
        ∧ changesOnly [.links] [(aCnt 1 p dcReplay, 63, 0), (aCnt 1 p dcReplay + 8, 0, 0)] s t)
  ∧ ((∀ s p ack mask ret, linkRuns s p = true → ret.length = 7 → ∃ u,
      (∀ i, i < 7 → tget 0 (link u p).peerRet i = ret.getD i 0 % 2 ^ 16) ∧ (link u p).txMask = mask
      ∧ rdf u (aLinkPeer p) 30 15 = mask % 2 ^ 16
      ∧ ((∀ x ∈ (link s p).window, x.seq ≠ ack) → (link u p).window = (link s p).window)
      ∧ (∀ older x newer, (link s p).window = older ++ x :: newer → x.seq = ack → (∀ y ∈ older, y.seq ≠ ack) →
          (link u p).window = newer)
      ∧ (∀ q, q ≠ p → link u q = link s q) ∧ changesOnly [.links, .fabric] [(aLinkPeer p, 30, 15)] s u
      ∧ exec (.creditA p ack mask ret) s
        = .next (if tooNarrow s p mask = true then settle (portLost u p 1) else u))
  ∧ ∀ s p ack mask ret hints, linkRuns s p = true → ret.length = 6 → hints.length = 8 → ∃ u,
      (∀ i, i < 6 → tget 0 (link u p).peerRet (8 + i) = ret.getD i 0 % 2 ^ 16) ∧ (link u p).txMask = mask
      ∧ rdf u (aLinkPeer p) 30 15 = mask % 2 ^ 16
      ∧ (∀ i, i < 8 → tget 0 u.fab.hints (qKey p (8 + i)) = hints.getD i 0 % 16) ∧ p ∈ u.fab.hinted
      ∧ (∀ q, q ≠ p → link u q = link s q) ∧ changesOnly [.links, .fabric] [(aLinkPeer p, 30, 15)] s u
      ∧ exec (.creditB p ack mask ret hints) s
        = .next (if tooNarrow s p mask = true then settle (portLost u p 1) else u))

/-- The commands of PRT_LINK_CMD (R325): in a state that R325 lists each has its effect on a port that the
device has; in any other it is ignored and logged. -/
def Obligations.LinkCommands : Prop :=
  ∀ s path p, manageable s → cfgWidth s p ≠ 0 →
    let cmd := fun op => wrf s (aLinkCmd p) 63 60 op
    let done := fun op t => captureWrite (settle t) (aLinkCmd p) (bitsAt 63 60 op)
    exec (.portRestart path p) s = .next (done 1 (portRestart (cmd 1) p))
    ∧ (portState s p ≠ lsFallow → portState s p ≠ lsTest →
        exec (.portFallow path p) s = .next (done 2 (portFallow (cmd 2) p rsOrdered)))
    ∧ (portState s p = lsFallow → exec (.portRestore path p) s = .next (done 3 (portRestore (cmd 3) p)))
    ∧ (portState s p = lsFallow → exec (.portTest path p) s = .next (done 4 (portTest (cmd 4) p)))
    ∧ (portState s p = lsTest → exec (.endTest path p) s = .next (done 5 (portEndTest (cmd 5) p)))
    ∧ (portState s p = lsFallow ∨ portState s p = lsTest → exec (.portFallow path p) s
        = .next (done 2 (event (cmd 2) 0x050D srcPort p {})))
    ∧ (portState s p ≠ lsFallow → exec (.portRestore path p) s = .next (done 3 (event (cmd 3) 0x050D srcPort p {}))
        ∧ exec (.portTest path p) s = .next (done 4 (event (cmd 4) 0x050D srcPort p {})))
    ∧ (portState s p ≠ lsTest → exec (.endTest path p) s
        = .next (done 5 (event (cmd 5) 0x050D srcPort p {})))

/-- The lane commands and the lane tests (R320, R321, R327). -/
def Obligations.LaneCommands : Prop :=
  (∀ s path l p, manageable s → l < 512 → portOfLane s l = some p → laneHeld s l = false →
      laneState s l ≠ lnTest → ∃ t, exec (.retrain path l) s = .next t ∧ laneState t l = lnTrain
        ∧ laneAttempt t l = 1 ∧ touchesOnly [.links, .recorder] 0x1000_0000 [] s t)
  ∧ (∀ s path l p, manageable s → l < 512 → portOfLane s l = some p → laneHeld s l = false →
      laneState s l = lnFailed → ∃ t, exec (.clearFailed path l) s = .next t ∧ laneState t l = lnTrain
        ∧ laneAttempt t l = 1 ∧ touchesOnly [.links, .recorder] 0x1000_0000 [] s t)
  ∧ (∀ s path l, manageable s → l < 512 → ∃ t, exec (.clearPrbs path l) s = .next t
        ∧ rdf t (aPrbsErr l) 47 0 = 0 ∧ touchesOnly [.recorder] 0xA000_0000 [aPrbsErr l, aLaneCmd l] s t)
  ∧ (∀ s path l value, manageable s → l < 512 → laneInTest s l = true → bitsOf value 61 60 ≠ 3 →
      bitsOf value 59 58 ≠ 3 → ∃ t, exec (.laneTestWrite path l value) s = .next t
        ∧ rdf t (aLaneTest l) 63 58 = bitsOf value 63 58
        ∧ rdf t (aLaneTest l) 57 57 = (if rdf s (aLaneTest l) 59 58 = bitsOf value 59 58 then
            rdf s (aLaneTest l) 57 57 else 0)
        ∧ touchesOnly [.recorder] 0xA000_0000 [aLaneTest l] s t)
  ∧ (∀ s path l value, manageable s → l < 512 → laneInTest s l = false →
      ∃ t, exec (.laneTestWrite path l value) s = .next t
        ∧ touchesOnly [.recorder] 0xA000_0000 [] s t)
  ∧ (∀ s l, checkerRuns s l = true → ∃ t, exec (.prbsLock l) s = .next t ∧ rdb t (aLaneTest l) 57 = true
        ∧ changesOnly [] [(aLaneTest l, 57, 57)] s t)
  ∧ ∀ s l bits, checkerRuns s l = true → rdb s (aLaneTest l) 57 = true →
      ∃ t, exec (.prbsLockLoss l bits) s = .next t ∧ rdb t (aLaneTest l) 57 = false
        ∧ rdf t (aPrbsErr l) 47 0 = Nat.min (2 ^ 48 - 1) (rdf s (aPrbsErr l) 47 0 + bits)
        ∧ changesOnly [] [(aLaneTest l, 57, 57), (aPrbsErr l, 47, 0)] s t

/-- FWD_HOLD, FWD_RELEASE, FWD_INVALIDATE and FWD_QUERY (R125 to R130) in a device that takes commands: the
entry's new state, its HOLD record, RESULT of FWD_STAT, and for a refused command that nothing but the
command register and RESULT changes. A RELEASE lets the packets that waited on the entry go on. Writes to
the forwarding table and to an ECMP set (R111, R112, R124, R130): an INVALID entry takes the written fields
and is VALID when LOCAL or a set is named, a held one whose packets are gone keeps its state, and a set that
no live entry names takes the written members; OCC_SCAN_END ends the scan of R126. -/
def Obligations.ForwardingCommandsAndTables : Prop :=
  (∀ s path i, manageable s → i < 2 ^ 18 →
    let result := fun t => rdf t aFwdStat 63 56
    (fwdState s i = fwdValid → s.fab.holds.length < 64 → ∃ t, exec (.fwdHold path i) s = .next t
        ∧ fwdState t i = fwdHeld ∧ holdOf t i = some ⟨true, 0⟩ ∧ result t = 0
        ∧ (∀ j, j ≠ i → holdOf t j = holdOf s j)
        ∧ touchesOnly [.fabric, .recorder] 0xA000_0000 [aFwdCmd, aFwdStat, aFwdEntry i] s t)
    ∧ (fwdState s i = fwdHeld → ∃ u, fwdState u i = fwdValid ∧ holdOf u i = none
        ∧ (∀ j, j ≠ i → holdOf u j = holdOf s j)
        ∧ touchesOnly [.fabric] (2 ^ 64) [aFwdCmd, aFwdEntry i] s u
        ∧ exec (.fwdRelease path i) s
          = .next (captureWrite (wrf (drainHolds u) aFwdStat 63 56 0) aFwdCmd (fwdCmdWord 2 i)))
    ∧ (fwdState s i = fwdHeld → (holdOf s i).any Hold.scanning = false → occOf s i = 0 →
        ∃ t, exec (.fwdInvalidate path i) s = .next t ∧ fwdState t i = 0 ∧ holdOf t i = none ∧ result t = 0
        ∧ (∀ j, j ≠ i → holdOf t j = holdOf s j)
        ∧ touchesOnly [.fabric, .recorder] 0xA000_0000 [aFwdCmd, aFwdStat, aFwdEntry i] s t)
    ∧ (∃ t, exec (.fwdQuery path i) s = .next t ∧ result t = 0 ∧ rdf t aFwdCmd 17 0 = i
        ∧ touchesOnly [.recorder] 0xA000_0000 [aFwdCmd, aFwdStat] s t)
    ∧ (∀ c code, (c, code) ∈ [(Instr.fwdHold path i, if fwdState s i = 1 ∧ 64 ≤ s.fab.holds.length then 0x04
            else if fwdState s i = 0 ∨ fwdState s i = 3 then 0x06 else 0),
          (.fwdRelease path i, if fwdState s i ≠ fwdHeld then 0x01 else 0),
          (.fwdInvalidate path i, if fwdState s i ≠ fwdHeld then 0x01
            else if (holdOf s i).any Hold.scanning = true then 0x03
            else if occOf s i ≠ 0 then 0x02 else 0)] → code ≠ 0 →
        ∃ t, exec c s = .next t ∧ result t = code ∧ touchesOnly [] (2 ^ 64) [aFwdCmd, aFwdStat] s t))
  ∧ ((∀ s path i v, manageable s → i < 2 ^ 18 →
      (fwdState s i = 0 ∨ fwdState s i = fwdHeld ∧ (holdOf s i).any Hold.scanning = false ∧ occOf s i = 0) →
      ∃ t, exec (.fwdTableWrite path i v) s = .next t ∧ rdf t aFwdStat 63 56 = 0
        ∧ rdf t (aFwdEntry i) 61 61 = bitsOf v 61 61 ∧ rdf t (aFwdEntry i) 57 46 = bitsOf v 57 46
        ∧ rdf t (aFwdEntry i) 45 34 = bitsOf v 45 34 ∧ rdf t (aFwdEntry i) 33 32 = bitsOf v 33 32
        ∧ fwdState t i = (if fwdState s i = 0 ∧ (bitOf v 61 || bitOf v 33 || bitOf v 32) = true then fwdValid
          else fwdState s i)
        ∧ touchesOnly [.recorder] 0xA000_0000 [aFwdStat, aFwdEntry i] s t)
  ∧ (∀ s path i v, manageable s → i < 2 ^ 18 → fwdState s i = fwdValid →
      ∃ t, exec (.fwdTableWrite path i v) s = .next t ∧ rdf t aFwdStat 63 56 = 0x01
        ∧ touchesOnly [] (2 ^ 64) [aFwdStat] s t)
  ∧ (∀ s path set w v, manageable s → set < 4096 → w ≤ 10 → (w = 0 → bitsOf v 63 57 ≤ 64) →
      setInUse s set = false → ∃ t, exec (.ecmpSetWrite path set w v) s = .next t
        ∧ rdf t aFwdStat 63 56 = 0
        ∧ (w = 0 → rdf t (aEcmp set w) 63 57 = bitsOf v 63 57)
        ∧ (w ≠ 0 → rdf t (aEcmp set w) 62 0 = bitsOf v 62 0)
        ∧ touchesOnly [.recorder] 0xA000_0000 [aFwdStat, aEcmp set w] s t)
  ∧ (∀ s path set w v, manageable s → setInUse s set = true →
      ∃ t, exec (.ecmpSetWrite path set w v) s = .next t ∧ rdf t aFwdStat 63 56 = 0x05
        ∧ touchesOnly [] (2 ^ 64) [aFwdStat] s t)
  ∧ ∀ s i x, holdOf s i = some x → ∃ t, exec (.occScanEnd i) s = .next t
      ∧ holdOf t i = some ⟨false, x.arrivals⟩ ∧ (∀ j, j ≠ i → holdOf t j = holdOf s j)
      ∧ changesOnly [.fabric] [] s t)

/-- PACKET_HEADER (R105 to R108, R110, R125): a header that fails a range check, an overrun and a header on a
FALLOW port are dropped and counted; a collective header waits for its whole packet with its credits in use;
a packet behind others of its port and furrow waits in their order, and one that the forwarding table cannot
route is dropped. -/
def Obligations.PacketHeader : Prop :=
  ∀ s p hdr, p < 512 → forwarding s p = true → carriesOrders s p = false →
    let f := hdr.furrow
    let c := creditsOf hdr.length
    let received := fun t place => ∃ k : Pkt, k.hdr = hdr ∧ rxOf t p = rxOf s p ++ [⟨k, place, now s⟩]
    let counted := fun t x => (rd t (aCnt 1 p x)).toNat = ((rd s (aCnt 1 p x)).toNat + 1) % 2 ^ 48
    let same := fun t => t.fab.queues = s.fab.queues ∧ (∀ q, q ≠ p → rxOf t q = rxOf s q)
      ∧ touchesOnly [.fabric, .links, .granary, .yield] 0x1000_0000 [] s t
    (∀ x, rangeCheck s p hdr = some x → ∃ t, exec (.packetHeader p hdr) s = .next t
        ∧ received t .dropped ∧ counted t x ∧ t.fab.waits = s.fab.waits ∧ same t)
    ∧ (rangeCheck s p hdr = none → lossless f = true → overrun s p f c = true →
        ∃ t, exec (.packetHeader p hdr) s = .next t ∧ received t .dropped ∧ counted t dcOverrun
          ∧ rd t (aCredit p f) = rd s (aCredit p f) ∧ t.fab.waits = s.fab.waits ∧ same t)
    ∧ (rangeCheck s p hdr = none → (lossless f = true → overrun s p f c = false) →
        (typeCollective hdr.type = true → ∃ t, exec (.packetHeader p hdr) s = .next t ∧ received t .whole
          ∧ (lossless f = true → rdf t (aCredit p f) 15 0 = (rdf s (aCredit p f) 15 0 + c) % 2 ^ 16)
          ∧ t.fab.waits = s.fab.waits ∧ same t)
        ∧ (typeCollective hdr.type = false → waitsOf s p f ≠ [] → ∃ t w, exec (.packetHeader p hdr) s = .next t
          ∧ received t .placed ∧ w.pkt.hdr = hdr ∧ waitsOf t p f = waitsOf s p f ++ [w] ∧ same t)
        ∧ (typeCollective hdr.type = false → waitsOf s p f = [] → heldBack s p hdr = false →
          routeOf s (some p) hdr = .unroutable → ∃ t, exec (.packetHeader p hdr) s = .next t
          ∧ received t .dropped ∧ counted t dcUnroute ∧ t.fab.waits = s.fab.waits ∧ same t))

/-- PACKET_TAIL (R103, R118): the oldest packet being received ends. One dropped at its header stays dropped; a
bad tail of a packet that this device was to handle whole is counted and its credits return; a good tail
completes a packet that waits in an egress queue. HOLD_TIMEOUT drops the head that waited (R125). -/
def Obligations.PacketTail : Prop :=
  (∀ s p r rest payload crc tail clean, rxOf s p = r :: rest → r.place = .dropped →
      ∃ t, exec (.packetTail p payload crc tail clean) s = .next t ∧ rxOf t p = rest
        ∧ (∀ q, q ≠ p → rxOf t q = rxOf s q) ∧ changesOnly [.fabric] [] s t)
  ∧ (∀ s p r rest payload crc tail clean x reason hop, p < 512 → rxOf s p = r :: rest → r.place = .whole →
      tailFault r.pkt.hdr payload crc tail clean = some (x, reason, hop) →
      ∃ t, exec (.packetTail p payload crc tail clean) s = .next t ∧ rxOf t p = rest
        ∧ (rd t (aCnt 1 p x)).toNat = ((rd s (aCnt 1 p x)).toNat + 1) % 2 ^ 48
        ∧ (lossless r.pkt.hdr.furrow = true → tget 0 (link t p).ret r.pkt.hdr.furrow
          = (tget 0 (link s p).ret r.pkt.hdr.furrow + creditsOf r.pkt.hdr.length) % 2 ^ 16)
        ∧ t.fab.queues = s.fab.queues ∧ t.fab.waits = s.fab.waits
        ∧ touchesOnly [.fabric, .links] 0x1000_0000 [] s t)
  ∧ (∀ s p r rest payload crc tail clean key, rxOf s p = r :: rest → r.place = .placed →
      recState s ≠ recRecording → tailFault r.pkt.hdr payload crc tail clean = none →
      sendingPort s r.pkt.uid = none → queueHolding s r.pkt.uid = some key →
      ∃ t, exec (.packetTail p payload crc tail clean) s = .next t ∧ rxOf t p = rest
        ∧ tget [] t.fab.queues key = (tget [] s.fab.queues key).map (fun q =>
          if q.uid = r.pkt.uid then { q with payload := payload, tailSeen := true } else q)
        ∧ touchesOnly [.fabric, .granary] 0x1000_0000 [] s t)
  ∧ (∀ s p r rest payload crc tail clean, rxOf s p = r :: rest → r.place = .whole →
      tailFault r.pkt.hdr payload crc tail clean = none →
      ∃ t, exec (.packetTail p payload crc tail clean) s = .next t ∧ rxOf t p = rest
        ∧ t.fab.queues = s.fab.queues ∧ touchesOnly [.fabric, .recorder] 0xA000_0000 [] s t)
  ∧ ∀ s p f w rest, p < 512 → waitsOf s p f = w :: rest → w.why = .hold → w.pkt.bufs = [] →
      ∃ u, waitsOf u p f = rest
      ∧ (rd u (aCnt 1 p dcHold)).toNat = ((rd s (aCnt 1 p dcHold)).toNat + 1) % 2 ^ 48
      ∧ u.fab.queues = s.fab.queues ∧ touchesOnly [.fabric, .links, .granary, .yield] 0x1000_0000 [] s u
      ∧ exec (.holdTimeout p f) s = .next (drainPort u p f)

/-- SCHEDULER_DECISION and PACKET_SENT (R281 to R286): a port that can begin sends the head of the furrow
chosen, a strict furrow with committed tokens first; the packet leaves its queue, takes its credits and is
counted. With nothing to send a unit begun is filled. PACKET_SENT puts the packet into retry units. REFILL
(R283, R287, R296): with nothing staged, each bucket gains its rate and is lowered to its size. -/
def Obligations.EgressAndRefill : Prop :=
  ((∀ s p f, strictFurrows.find? (fun f => eligible s p f && committed s p f) = some f →
      chooseFurrow s p = some (1, f))
  ∧ (∀ s p ecc tier f k rest, p < 512 → canBegin s p = true → chooseFurrow s p = some (tier, f) →
      queueOf s p f = k :: rest → k.hdr.furrow = f →
      ∃ t k', exec (.schedulerDecision p ecc) s = .next t ∧ sendingOn t p = some k' ∧ k'.uid = k.uid
        ∧ k'.hdr = k.hdr ∧ (ecc ≠ .uncorrectable → k' = k)
        ∧ (queueOf t p f).map Pkt.uid = rest.map Pkt.uid
        ∧ (lossless f = true → tget 0 (link t p).used f
          = (tget 0 (link s p).used f + creditsOf k.hdr.length) % 2 ^ 16)
        ∧ (rd t (aCnt 2 (16 * p + f) 1)).toNat = ((rd s (aCnt 2 (16 * p + f) 1)).toNat + 1) % 2 ^ 48
        ∧ touchesOnly [.fabric, .links, .granary, .yield] 0x3000_0000 [] s t)
  ∧ (∀ s p ecc, canBegin s p = true → chooseFurrow s p = none →
      ∃ t, exec (.schedulerDecision p ecc) s = .next t ∧ link t p = fillUnit (link s p)
        ∧ (∀ q, q ≠ p → link t q = link s q) ∧ touchesOnly [.links, .yield] 0xA300_0000 [] s t)
  ∧ ∀ s p k, sendingOn s p = some k → k.tailSeen = true →
      unitsAfter (link s p) (blocksOf k) ≤ retryWindow s p → ∃ u, sendingOn u p = none
        ∧ link u p = pushUnits (link s p) (blocksOf k) ∧ (∀ q, q ≠ p → link u q = link s q)
        ∧ u.fab.queues = s.fab.queues ∧ changesOnly [.fabric, .links] [] s u
        ∧ exec (.packetSent p) s = .next (settle
          (drainSource (pktGone u p k true).fab.atSource.length (pktGone u p k true))))
  ∧ (∀ s, isReady s = true → s.fab.staged = [] → ∃ t, exec .refill s = .next t
    ∧ (∀ p f, p ∈ portsOf s → hasBuckets s p = true → f ∈ allFurrows →
        commitTok t p f = min (commitTok s p f + commitGain s p f) (rdf s (aSch p f 1) 23 0)
        ∧ peakTok t p f = min (peakTok s p f + rdf s (aSch p f 0) 39 20) (rdf s (aSch p f 1) 47 24))
    ∧ (∀ p i, p ∈ portsOf s → i < 16 →
        rdf t (aPol p i 2) 47 24 = Nat.min (rdf s (aPol p i 2) 47 24 + rdf s (aPol p i 0) 39 20)
          (rdf s (aPol p i 1) 47 24)
        ∧ rdf t (aPol p i 2) 23 0 = Nat.min (rdf s (aPol p i 2) 23 0 + rdf s (aPol p i 0) 19 0)
          (rdf s (aPol p i 1) 23 0))
    ∧ touchesOnly [.fabric, .yield] 0x3800_0000 [] s t)

/-- Writes to shapers, policer slots and credits (R288, R290, R296, R108): rates and sizes are staged and take
effect at a refill, a queue's own limits at once, and credits only while the port is FALLOW. -/
def Obligations.QueueSettings : Prop :=
  (∀ s path p f v, manageable s → p < 512 → f < 16 → f ≠ 7 → 8232 ≤ bitsOf v 47 24 →
      ∃ t, exec (.shaperWrite path p f 1 v) s = .next t
        ∧ bitsOf (tget 0 t.fab.staged (aSch p f 1)) 47 24 = bitsOf v 47 24
        ∧ bitsOf (tget 0 t.fab.staged (aSch p f 1)) 23 0 = bitsOf v 23 0
        ∧ touchesOnly [.fabric, .recorder] 0xA000_0000 [] s t)
  ∧ (∀ s path p f v, manageable s → p < 512 → f < 16 → f ≠ 7 → bitsOf v 63 56 ≠ 0 → bitsOf v 39 20 ≠ 0 →
      ∃ t, exec (.shaperWrite path p f 0 v) s = .next t
        ∧ bitsOf (tget 0 t.fab.staged (aSch p f 0)) 39 20 = bitsOf v 39 20
        ∧ bitsOf (tget 0 t.fab.staged (aSch p f 0)) 19 0 = bitsOf v 19 0
        ∧ rdf t (aSch p f 0) 63 56 = bitsOf v 63 56 ∧ rdf t (aSch p f 0) 39 20 = rdf s (aSch p f 0) 39 20
        ∧ touchesOnly [.fabric, .recorder] 0xA000_0000 [aSch p f 0] s t)
  ∧ (∀ s path p f v, manageable s → p < 512 → 14 ≤ f → f < 16 → bitsOf v 31 16 ≠ 0 →
      bitsOf v 15 0 ≤ bitsOf v 31 16 → ∃ t, exec (.shaperWrite path p f 3 v) s = .next t
        ∧ rdf t (aSch p f 3) 31 16 = bitsOf v 31 16 ∧ rdf t (aSch p f 3) 15 0 = bitsOf v 15 0
        ∧ touchesOnly [.recorder] 0xA000_0000 [aSch p f 3] s t)
  ∧ (∀ s path p i v, manageable s → p < 512 → i < 16 → bitsOf v 19 0 ≤ bitsOf v 39 20 →
      ∃ t, exec (.policerSlotWrite path p i 0 v) s = .next t
        ∧ bitsOf (tget 0 t.fab.staged (aPol p i 0)) 63 49 = bitsOf v 63 49
        ∧ bitsOf (tget 0 t.fab.staged (aPol p i 0)) 39 20 = bitsOf v 39 20
        ∧ bitsOf (tget 0 t.fab.staged (aPol p i 0)) 19 0 = bitsOf v 19 0
        ∧ touchesOnly [.fabric, .recorder] 0xA000_0000 [] s t)
  ∧ (∀ s path p f v, manageable s → p < 512 → f < 14 → lossless f = true → cfgWidth s p ≠ 0 →
      portState s p = lsFallow → 33 ≤ bitsOf v 31 16 → bitsOf v 31 16 ≤ bitsOf v 47 32 →
      grantedOf (wrf (wrf s (aCredit p f) 47 32 (bitsOf v 47 32)) (aCredit p f) 31 16 (bitsOf v 31 16))
        ≤ rdf s aGrnShare 41 21 →
      ∃ t, exec (.creditConfigWrite path p (.furrow f) v) s = .next t
        ∧ rdf t (aCredit p f) 47 32 = bitsOf v 47 32 ∧ rdf t (aCredit p f) 31 16 = bitsOf v 31 16
        ∧ rdf t (aCredit p f) 15 0 = rdf s (aCredit p f) 15 0
        ∧ touchesOnly [.recorder] 0xA000_0000 [aCredit p f] s t)
  ∧ ∀ s path p reg v, manageable s → p < 512 → cfgWidth s p ≠ 0 → portState s p ≠ lsFallow →
      ∃ t, exec (.creditConfigWrite path p reg v) s = .next t
        ∧ touchesOnly [.recorder] 0xA000_0000 [] s t

/-- GRANARY_ALLOC (R258 to R265): the buffer that the manager finds becomes PRIVATE to the owner that asked,
stamped with the plot and the time, and a packet buffer is charged to its plot and furrow; with no buffer
free nothing changes. A packet that waits for a buffer is tried first (R260). -/
def Obligations.GranaryAllocation : Prop :=
  (∀ s n owner plot f bytes p, n < 12 → owner < 2 ^ 14 → plot < 4096 → 0 < bytes → bytes ≤ 65536 →
      csFreeAtLeast s n (3 - csFitClass bytes) (csFitClass bytes) = some p →
      ∃ t, exec (.granaryAlloc (some n) owner plot f bytes) s = .next t
        ∧ bufState t (some n) p = bsPrivate ∧ rdf t (statusAddr (some n) p) 61 50 = plot
        ∧ rdf t (statusAddr (some n) p) 45 32 = owner ∧ rdf t (statusAddr (some n) p) 31 0 = nowUs s
        ∧ touchesOnly [] 0xA300_0000 [statusAddr (some n) p] s t)
  ∧ (∀ s n owner plot f bytes, 0 < bytes → bytes ≤ 65536 →
      csFreeAtLeast s n (3 - csFitClass bytes) (csFitClass bytes) = none →
      exec (.granaryAlloc (some n) owner plot f bytes) s = .next s)
  ∧ (∀ s owner plot f bytes p, waitsForBuffer s owner f = false → s.fab.atSource = [] → owner < 2 ^ 14 →
      plot < 4096 → f < 16 → 0 < bytes → bytes ≤ 16384 →
      freeAtLeast s (tget 0 s.fab.rr (whoOf owner)) (7 - fitClass bytes) (fitClass bytes) = some p →
      quotaOk s plot f (2 ^ ptrClass p) = true →
      ∃ t, exec (.granaryAlloc none owner plot f bytes) s = .next t
        ∧ bufState t none p = bsPrivate ∧ rdf t (statusAddr none p) 61 50 = plot
        ∧ rdf t (statusAddr none p) 49 46 = f ∧ rdf t (statusAddr none p) 45 32 = owner
        ∧ (charged f = true → rdf t (aQuota plot f) 20 0 = (rdf s (aQuota plot f) 20 0 + 2 ^ ptrClass p) % 2 ^ 21)
        ∧ touchesOnly [.fabric, .granary] 0xA300_0000 [statusAddr none p, aQuota plot f] s t)
  ∧ ∀ s owner plot f bytes, waitsForBuffer s owner f = true →
      exec (.granaryAlloc none owner plot f bytes) s = .next (drainPort s (owner - 0x200) f)

/-- OWNER_CLEAR (R262, R263, R266): a clear that fails a check changes no state but its report, which GRN_ERR
captures when it is armed; the clear of a PRIVATE buffer's owner frees it and gives its quota back; the
clear of one owner of several leaves the buffer to the others. -/
def Obligations.OwnerClears : Prop :=
  (∀ s st owner p ecc code, s.fab.atSource = [] →
      (ptrError s st p = some code
        ∨ ptrError s st p = none ∧ (bufState s st p = 0 ∧ code = 0x42 ∨ bufState s st p = 3 ∧ code = 0x43
          ∨ (bufState s st p = 1 ∨ bufState s st p = 2) ∧ (ownersOf s st p).contains owner = false
            ∧ code = 0x44)) →
      ∃ t, exec (.ownerClear st owner p ecc) s = .next t
        ∧ (rdb s (aGrnErr 0) 63 = false → rdb t (aGrnErr 0) 63 = true ∧ rdf t (aGrnErr 0) 55 48 = code
          ∧ rdf t (aGrnErr 0) 31 0 = p % 2 ^ 32 ∧ rdf t (aGrnErr 1) 63 48 = owner % 2 ^ 16)
        ∧ (rdb s (aGrnErr 0) 63 = true → rdb t (aGrnErr 0) 62 = true)
        ∧ touchesOnly [] 0xA300_0000 [aGrnErr 0, aGrnErr 1] s t)
  ∧ (∀ s owner p, s.fab.atSource = [] → ptrError s none p = none → bufState s none p = bsPrivate →
      rdf s (statusAddr none p) 45 32 = owner → tget [] s.grn.chains (bufKey none p) = [] →
      s.grn.bad.contains (bufKey none p) = false →
      ∃ t, exec (.ownerClear none owner p .clean) s = .next t ∧ rd t (statusAddr none p) = 0
        ∧ (let q := aQuota (rdf s (statusAddr none p) 61 50) (rdf s (statusAddr none p) 49 46)
          (charged (rdf s (statusAddr none p) 49 46) = true →
            rdf t q 20 0 = rdf s q 20 0 - 2 ^ ptrClass p)
          ∧ touchesOnly [.granary] 0xA300_0000 [statusAddr none p, q] s t))
  ∧ ∀ s n owner p b, s.fab.atSource = [] → ptrError s (some n) p = none → bufState s (some n) p = bsShared →
      maskBit owner = some b → (ownersOf s (some n) p).contains owner = true →
      let r := rdf s (statusAddr (some n) p) 45 32
      (recMask s (some n) r).testBit b = true → recMask s (some n) r ≠ 2 ^ b →
      ∃ t, exec (.ownerClear (some n) owner p .clean) s = .next t
        ∧ recMask t (some n) r = recMask s (some n) r - 2 ^ b ∧ t.regs = s.regs
        ∧ changesOnly [.granary] [] s t

/-- GLEANER_PASS (R271 to R274, R279), the end of a rebuild (R274) and the Gleaner's registers (R278, R280). A
baseline pass reclaims nothing. -/
def Obligations.Gleaner : Prop :=
  (∀ s badLists micros, rdb s aGleanCfg 63 = false → exec (.gleanerPass badLists micros) s = .next s)
  ∧ (∀ s badLists micros, rdb s aGleanCfg 63 = true → s.fab.atSource = [] →
      ∃ t, exec (.gleanerPass badLists micros) s = .next t ∧ t.grn.baselineNext = false
        ∧ rdf t aGleanStat 63 63 = b2n s.grn.baselineNext
        ∧ rdf t aGleanStat 61 32 = Nat.min (2 ^ 30 - 1) (rdf s aGleanStat 61 32 + 1)
        ∧ rdf t aGleanStat 31 0 = micros % 2 ^ 32
        ∧ touchesOnly [.fabric, .granary, .yield] 0x3000_0000 [] s t
        ∧ (s.grn.baselineNext = true → (∀ kv ∈ s.grn.flags, kv.2.any GleanFlag.reclaimed = false) →
          touchesOnly [.fabric, .granary, .yield] 0xA300_0000 [aGleanStat, aGrnErr 0, aGrnErr 1] s t))
  ∧ (∀ s m c, ∃ u, u.grn = { s.grn with rebuilding := s.grn.rebuilding.filter (· != 8 * m + c) }
      ∧ changesOnly [.granary] [] s u
      ∧ exec (.listRebuildEnd m c) s = .next (drainSource u.fab.atSource.length u))
  ∧ (∀ s path v, manageable s → 10 ≤ bitsOf v 62 47 → bitsOf v 62 47 ≤ 60000 → 1 ≤ bitsOf v 43 24 →
      bitsOf v 43 24 ≤ 1000000 → 1 ≤ bitsOf v 19 0 → bitsOf v 19 0 ≤ 1000000 →
      ∃ t, exec (.gleanCfgWrite path v) s = .next t ∧ t.grn = { s.grn with baselineNext := true }
        ∧ rdf t aGleanCfg 63 47 = bitsOf v 63 47 ∧ rdf t aGleanCfg 43 24 = bitsOf v 43 24
        ∧ rdf t aGleanCfg 19 0 = bitsOf v 19 0
        ∧ touchesOnly [.granary, .recorder] 0xA000_0000 [aGleanCfg] s t)
  ∧ ∀ s path, manageable s → ∃ t, exec (.grnErrRead path) s = .next t ∧ rdf t (aGrnErr 0) 63 62 = 0
      ∧ changesOnly [] [(aGrnErr 0, 63, 62)] s t

/-- ADVANCE_FETCH and ADV_PLOT_WRITE (R231 to R236): the next piece of the next slot enters the cluster's store;
a plot whose advance sowing is disabled holds no copies. -/
def Obligations.AdvanceSowing : Prop :=
  (∀ s n plot e b, advMay s n plot = true → advNext s n plot = some e → plot < 4096 →
      csFreeAtLeast s n 2 1 = some b → ∃ t c, exec (.advanceFetch n plot .clean) s = .next t ∧ c ∈ t.adv
        ∧ isCopy n e (fbAt s n e).version c = true ∧ c.fetched = advFetched s n e + 1
        ∧ tget 0 c.bufs (advFetched s n e) = b ∧ rdf t (aAdv n plot) 46 35 = advHeld t n plot % 2 ^ 12
        ∧ touchesOnly [.granary, .advance] 0xA300_0000 [statusAddr (some n) b, aAdv n plot] s t)
  ∧ (∀ s n plot e, advMay s n plot = true → advNext s n plot = some e → csFreeAtLeast s n 2 1 = none →
      exec (.advanceFetch n plot .clean) s = .next (count s 6 (8 + n) 1 1))
  ∧ (∀ s n plot ecc, advMay s n plot = false ∨ advNext s n plot = none →
      exec (.advanceFetch n plot ecc) s = .next s)
  ∧ (∀ s path n plot v, manageable s → clusterUp s n = true → plot < 4096 → bitOf v 63 = false →
      ∃ t, exec (.advPlotWrite path n plot v) s = .next t
        ∧ t.adv = s.adv.filter (fun c => !(c.cluster == n && c.plot == plot))
        ∧ rdb t (aAdv n plot) 63 = false
        ∧ touchesOnly [.granary, .advance, .recorder, .management] 0x3000_0000 [] s t)
  ∧ ∀ s path n plot v, manageable s → clusterUp s n = true → plot < 4096 → bitOf v 63 = true →
      1 ≤ bitsOf v 62 59 → ∃ t, exec (.advPlotWrite path n plot v) s = .next t
        ∧ rdb t (aAdv n plot) 63 = true ∧ rdf t (aAdv n plot) 62 59 = bitsOf v 62 59
        ∧ touchesOnly [.granary, .advance, .recorder, .management] 0x3000_0000 [] s t

/-- GROUP_COMMIT (R134 to R138): the staged words and word 0 are judged together. A refused commit discards what
was staged, keeps the entry and reports its code; an accepted one stores it, and a FREE group becomes
ACTIVE. PLOT_COMMIT (R337, R338): a refused commit keeps the plot's entry and reports its code; an accepted
one stores it and a FREE plot becomes FALLOW. FBK_ENTRY_COMMIT (R166, R167): a refused commit keeps the
entry and reports its code; an accepted one stores it, and a FREE entry becomes FALLOW with words 5 to 7
clear but OLDER_HELD. -/
def Obligations.EntryCommits : Prop :=
  (∀ s path g v, manageable s → g < 65536 →
    let e := mergeEntry groupFields (rdEntry s (aGroup g 0) 8) (stagedEntry s path (aGroup g 0) v)
    ∃ u, touchesOnly [.management] 0xA300_0000 [] s u ∧ stageOf u path = Stage.empty
      ∧ (groupRefusal u g e = 0 → ∃ t, exec (.groupCommit path g v) s = .next t
          ∧ (∀ w ∈ [1, 2, 3, 4, 6, 7], rd t (aGroup g w) = wordAt e w)
          ∧ rdf t (aGroup g 0) 61 0 = bitsOf (wordAt e 0) 61 0
          ∧ (groupOf e).state ≠ gsActive
          ∧ ((groupOf e).state = gsFree → (groupAt t g).state = gsActive ∧ (groupAt t g).instSeq = 0)
          ∧ ((groupOf e).state = gsFallow → (groupAt t g).state = gsFallow)
          ∧ rdf t aGroupStat 63 56 = 0 ∧ rdf t aGroupStat 15 0 = g ∧ stageOf t path = Stage.empty
          ∧ touchesOnly [.management, .granary, .binding, .recorder] 0x3000_0000 [] s t)
      ∧ (groupRefusal u g e ≠ 0 → ∃ t, exec (.groupCommit path g v) s = .next t
          ∧ rdf t aGroupStat 63 56 = groupRefusal u g e % 256 ∧ rdf t aGroupStat 15 0 = g
          ∧ stageOf t path = Stage.empty ∧ touchesOnly [.management] 0xA300_0000 [aGroupStat] s t))
  ∧ (∀ s path p v, manageable s → p < 4096 →
    let e := mergeEntry plotFields (rdEntry s (aPlot p 0) 8) (stagedEntry s path (aPlot p 0) v)
    ∃ u, touchesOnly [.management] 0xA300_0000 [] s u ∧ stageOf u path = Stage.empty
      ∧ (plotRefusal u p e = 0 → ∃ t, exec (.plotCommit path p v) s = .next t
          ∧ (∀ w ∈ [1, 2, 3], rd t (aPlot p w) = wordAt e w)
          ∧ rdf t (aPlot p 0) 61 0 = bitsOf (wordAt e 0) 61 0
          ∧ plotState t p = (if plotState s p = psFree then psFallow else plotState s p)
          ∧ rdf t aPlotStat 63 56 = 0 ∧ rdf t aPlotStat 11 0 = p ∧ stageOf t path = Stage.empty
          ∧ touchesOnly [.management, .recorder] 0xA000_0000
            (aPlotStat :: (List.range 8).map (aPlot p)) s t)
      ∧ (plotRefusal u p e ≠ 0 → ∃ t, exec (.plotCommit path p v) s = .next t
          ∧ rdf t aPlotStat 63 56 = plotRefusal u p e ∧ rdf t aPlotStat 11 0 = p
          ∧ stageOf t path = Stage.empty ∧ touchesOnly [.management] 0xA300_0000 [aPlotStat] s t))
  ∧ (∀ s path n x v, manageable s → clusterUp s n = true → x < 32768 →
    let e := mergeEntry fbkFields (rdEntry s (aEntry n x 0) 8) (stagedEntry s path (aEntry n x 0) v)
    let answers := fun t code => rdf t (aTilStat n) 63 56 = code ∧ rdf t (aTilStat n) 14 0 = x
    ∃ u, touchesOnly [.management] 0xA300_0000 [] s u ∧ stageOf u path = Stage.empty
      ∧ (entryRefusal u n x e = 0 → ∃ t, exec (.fbkEntryCommit path n x v) s = .next t
          ∧ (∀ w ∈ [1, 2, 3, 4], rd t (aEntry n x w) = wordAt e w)
          ∧ rdf t (aEntry n x 0) 60 0 = bitsOf (wordAt e 0) 60 0 ∧ fbState t n x = esFallow
          ∧ (fbState s n x = esFree → rdb t (aEntry n x 5) 63 = bitOf (wordAt e 5) 63
            ∧ rdf t (aEntry n x 5) 62 0 = 0 ∧ rd t (aEntry n x 6) = 0 ∧ rd t (aEntry n x 7) = 0)
          ∧ (fbState s n x = esFallow → ∀ w ∈ [5, 6, 7], rd t (aEntry n x w) = wordAt e w)
          ∧ answers t 0 ∧ stageOf t path = Stage.empty
          ∧ touchesOnly [.management, .recorder] 0xA000_0000
            (aTilStat n :: (List.range 8).map (aEntry n x)) s t)
      ∧ (entryRefusal u n x e ≠ 0 → ∃ t, exec (.fbkEntryCommit path n x v) s = .next t
          ∧ answers t (entryRefusal u n x e) ∧ stageOf t path = Stage.empty
          ∧ touchesOnly [.management] 0xA300_0000 [aTilStat n] s t))

/-- The group commands (R139, R140): what each does to the group it names, with RESULT and GROUP of
BND_GROUP_STAT. ABORT and FALLOW end the group's runs with codes 5 and 4. -/
def Obligations.GroupCommands : Prop :=
  ∀ s path g, manageable s → g < 65536 →
    let answers := fun t code => rdf t aGroupStat 63 56 = code ∧ rdf t aGroupStat 15 0 = g
    let st := (groupAt s g).state
    (∃ t, exec (.groupQuery path g) s = .next t ∧ answers t 0
        ∧ touchesOnly [.recorder] 0xA000_0000 [aGroupCmd, aGroupStat] s t)
    ∧ (∀ seq, st = gsFallow → ∃ t, exec (.setSeq path g seq) s = .next t ∧ answers t 0
        ∧ (groupAt t g).instSeq = seq % 2 ^ 32
        ∧ touchesOnly [.recorder] 0xA000_0000 [aGroupCmd, aGroupStat, aGroup g 5] s t)
    ∧ (st = gsFallow → ∃ t, exec (.groupRestore path g) s = .next t ∧ answers t 0
        ∧ (groupAt t g).state = gsActive
        ∧ touchesOnly [.recorder] 0xA000_0000 [aGroupCmd, aGroupStat, aGroup g 0] s t)
    ∧ (st = gsFallow → runsOf s g = [] → ∃ t, exec (.groupFree path g) s = .next t ∧ answers t 0
        ∧ (∀ w, w < 8 → rd t (aGroup g w) = resetWord (aGroup g w))
        ∧ (∀ w, w < 16 → rd t (aOscale g w) = resetWord (aOscale g w))
        ∧ tget [] t.bnd.staging g = [] ∧ touchesOnly [.granary, .binding, .recorder] 0x3000_0000 [] s t)
    ∧ (st ≠ gsFree → ∃ u, (groupAt u g).state = gsFallow ∧ touchesOnly [] (2 ^ 64) [aGroupCmd, aGroup g 0] s u
        ∧ exec (.groupFallow path g) s = .next (captureWrite (groupReport (settle (endGroup u g 4)) g 0)
          aGroupCmd (groupCmdWord 2 g 0)))
    ∧ (∃ u, touchesOnly [] (2 ^ 64) [aGroupCmd] s u
        ∧ exec (.groupAbort path g) s = .next (captureWrite (groupReport (settle (endGroup u g 5)) g 0)
          aGroupCmd (groupCmdWord 1 g 0)))
    ∧ ∀ c seq, c = .setSeq path g seq ∧ st ≠ gsFallow ∨ c = .groupRestore path g ∧ st ≠ gsFallow
        ∨ c = .groupFree path g ∧ (st ≠ gsFallow ∨ runsOf s g ≠ []) ∨ c = .groupFallow path g ∧ st = gsFree →
        ∃ t, exec c s = .next t ∧ answers t 0x13 ∧ touchesOnly [] (2 ^ 64) [aGroupCmd, aGroupStat] s t

/-- Member entries (R137, R138) and output-scale histories (R229): a write is taken when no ACTIVE group uses
the entry, or while the history's group is FALLOW, and otherwise changes nothing. -/
def Obligations.MembersAndScales : Prop :=
  (∀ s path n i v, manageable s → clusterUp s n = true → i < 16384 →
      (∀ g ∈ groupsOnMember s n i, (groupAt s g).state ≠ gsActive) → bitsOf v 63 62 ≤ 2 →
      1 ≤ bitsOf v 51 35 → bitsOf v 51 35 ≤ 65536 →
      ∃ t, exec (.memberEntryWrite path n i 0 v) s = .next t
        ∧ rdf t (aMember n i 0) 63 19 = bitsOf v 63 19 ∧ rdf t (aMember n i 0) 15 0 = bitsOf v 15 0
        ∧ touchesOnly [.recorder] 0xA000_0000 [aMember n i 0] s t)
  ∧ (∀ s path n i v, manageable s → clusterUp s n = true → i < 16384 →
      (∀ g ∈ groupsOnMember s n i, (groupAt s g).state ≠ gsActive) → v.toNat % 8 = 0 →
      ∃ t, exec (.memberEntryWrite path n i 1 v) s = .next t ∧ rd t (aMember n i 1) = v
        ∧ touchesOnly [.recorder] 0xA000_0000 [aMember n i 1] s t)
  ∧ (∀ s path n i v, manageable s → clusterUp s n = true → i < 16384 →
      (∀ g ∈ groupsOnMember s n i, (groupAt s g).state ≠ gsActive) →
      ∃ t, exec (.memberEntryWrite path n i 2 v) s = .next t
        ∧ rdf t (aMember n i 2) 63 46 = bitsOf v 63 46 ∧ rdf t (aMember n i 2) 39 0 = bitsOf v 39 0
        ∧ touchesOnly [.recorder] 0xA000_0000 [aMember n i 2] s t)
  ∧ (∀ s path n i w v g, manageable s → g ∈ groupsOnMember s n i → (groupAt s g).state = gsActive →
      exec (.memberEntryWrite path n i w v) s = .next s)
  ∧ (∀ s path g w v, manageable s → g < 65536 → w < 8 → (groupAt s g).state = gsFallow →
      ∃ t, exec (.oscaleWrite path g w v) s = .next t ∧ rd t (aOscale g w) = v
        ∧ touchesOnly [.recorder] 0xA000_0000 [aOscale g w] s t)
  ∧ (∀ s path g v, manageable s → g < 65536 → (groupAt s g).state = gsFallow → bitsOf v 61 57 ≤ 16 →
      ∃ t, exec (.oscaleWrite path g 8 v) s = .next t ∧ rdf t (aOscale g 8) 63 43 = bitsOf v 63 43
        ∧ rdf t (aOscale g 8) 42 0 = rdf s (aOscale g 8) 42 0
        ∧ touchesOnly [.recorder] 0xA000_0000 [aOscale g 8] s t)
  ∧ ∀ s path g w v, manageable s → (groupAt s g).state ≠ gsFallow →
      exec (.oscaleWrite path g w v) s = .next s

/-- The plot commands (R339) and fences (R340). Plot 0 takes no command but QUERY. -/
def Obligations.PlotCommands : Prop :=
  (∀ s path p, manageable s → p < 4096 →
    let answers := fun t code => rdf t aPlotStat 63 56 = code ∧ rdf t aPlotStat 11 0 = p
    (∃ t, exec (.plotQuery path p) s = .next t ∧ answers t 0
        ∧ touchesOnly [.recorder] 0xA000_0000 [aPlotCmd, aPlotStat] s t)
    ∧ (p ≠ 0 → plotState s p = psFallow → ∃ t, exec (.plotActivate path p) s = .next t ∧ answers t 0
        ∧ plotState t p = psActive ∧ touchesOnly [.recorder] 0xA000_0000 [aPlotCmd, aPlotStat, aPlot p 0] s t)
    ∧ (p ≠ 0 → plotState s p = psActive → ∃ u, plotState u p = psFallow
        ∧ touchesOnly [] (2 ^ 64) [aPlotCmd, aPlot p 0] s u
        ∧ exec (.plotFallow path p) s = .next (captureWrite
          (plotReport (settle (failGroups u 4 fun r => (groupAt u r.group).plot == p)) p 0) aPlotCmd
          (bitsAt 63 60 2 ||| bitsAt 11 0 p)))
    ∧ (∃ u, touchesOnly [] (2 ^ 64) [aPlotCmd] s u
        ∧ (p ≠ 0 → plotState s p = psFallow → plotEmpty u p = true →
          ∃ t, exec (.plotFree path p) s = .next t ∧ answers t 0
            ∧ (∀ w, w < 8 → rd t (aPlot p w) = resetWord (aPlot p w))
            ∧ touchesOnly [.recorder] 0xA000_0000 (aPlotCmd :: aPlotStat :: (List.range 8).map (aPlot p)) s t)
        ∧ (p = 0 ∨ plotState s p ≠ psFallow ∨ plotEmpty u p = false →
          ∃ t, exec (.plotFree path p) s = .next t ∧ answers t 0x60
            ∧ touchesOnly [] (2 ^ 64) [aPlotCmd, aPlotStat] s t))
    ∧ ∀ c, c = .plotActivate path p ∧ (p = 0 ∨ plotState s p ≠ psFallow)
        ∨ c = .plotFallow path p ∧ (p = 0 ∨ plotState s p ≠ psActive) →
        ∃ t, exec c s = .next t ∧ answers t 0x60 ∧ touchesOnly [] (2 ^ 64) [aPlotCmd, aPlotStat] s t)
  ∧ (∀ s path p j v, manageable s → p < 512 → j < 64 → cfgWidth s p ≠ 0 →
      (j = 0 → bitOf v 0 = true → rdb s (aCable p) 59 = true) →
      ∃ t, exec (.plotFenceWrite path p j v) s = .next t ∧ rd t (aFence p j) = v
        ∧ touchesOnly [.recorder] 0xA000_0000 [aFence p j] s t)
  ∧ ∀ s path p v, manageable s → p < 512 → cfgWidth s p ≠ 0 → bitOf v 0 = true → rdb s (aCable p) 59 = false →
      ∃ t, exec (.plotFenceWrite path p 0 v) s = .next t ∧ touchesOnly [.recorder] 0xA000_0000 [] s t

/-- The headland role (R343 to R345): ADOPT serves under a new term, STAND_DOWN gives the role back, and a
refused command changes nothing but RESULT; ROLE_OF is written in STANDBY alone. -/
def Obligations.HeadlandRole : Prop :=
  ∀ s path, manageable s →
    let moved := fun t => touchesOnly [.fabric, .links, .granary, .binding, .cores, .stack, .stackMemory,
      .verdicts, .advance, .recorder, .yield] 0x1000_0000 [aRole, aRoleCmd] s t
    (rdb s aRole 61 = true → roleState s ≠ roleServing → rdf s aRole 60 43 ≠ 0x3FFFF → rd s aFwdEpoch ≠ 0 →
      ∃ t, exec (.adopt path) s = .next t ∧ roleState t = roleServing
        ∧ rdf t aRole 31 0 = (rdf s aRole 31 0 + 1) % 2 ^ 32 ∧ rdf t aRole 60 43 = rdf s aRole 60 43
        ∧ rdf t aRole 42 35 = 0 ∧ moved t)
    ∧ (rdb s aRole 61 = true → roleState s ≠ roleStandby → ∃ t, exec (.standDown path) s = .next t
        ∧ roleState t = roleStandby ∧ rdf t aRole 60 43 = 0x3FFFF ∧ rdf t aRole 42 35 = 0
        ∧ rdf t aRole 31 0 = rdf s aRole 31 0 ∧ moved t)
    ∧ (∀ c code, (c = .adopt path ∨ c = .standDown path) ∧ rdb s aRole 61 = false ∧ code = 0x50
        ∨ c = .adopt path ∧ rdb s aRole 61 = true ∧ (roleState s = roleServing ∧ code = 0x51
          ∨ roleState s ≠ roleServing ∧ (rdf s aRole 60 43 = 0x3FFFF ∧ code = 0x52
            ∨ rdf s aRole 60 43 ≠ 0x3FFFF ∧ rd s aFwdEpoch = 0 ∧ code = 0x53))
        ∨ c = .standDown path ∧ rdb s aRole 61 = true ∧ roleState s = roleStandby ∧ code = 0x51 →
        ∃ t, exec c s = .next t ∧ rdf t aRole 42 35 = code
          ∧ changesOnly [] [(aRole, 42, 35), (aRoleCmd, 63, 0)] s t)
    ∧ (∀ v, roleState s = roleStandby → ∃ t, exec (.roleOfWrite path v) s = .next t
        ∧ rdf t aRole 60 43 = bitsOf v 60 43 ∧ rdf t aRole 63 61 = rdf s aRole 63 61
        ∧ rdf t aRole 42 0 = rdf s aRole 42 0 ∧ touchesOnly [.recorder] 0xA000_0000 [aRole] s t)
    ∧ ∀ v, roleState s ≠ roleStandby → ∃ t, exec (.roleOfWrite path v) s = .next t
        ∧ touchesOnly [.recorder] 0xA000_0000 [] s t

/-- YIELD_EPOCH and YIELD_CONFIG_WRITE (R116, R346 to R349): an epoch that ends settles the ports it served; a
map closes after EPOCHS epochs with the next sequence number and the next begins with the settings then
written. -/
def Obligations.YieldMaps : Prop :=
  (∀ s, isReady s = false → exec .yieldEpoch s = .next s)
  ∧ (∀ s, isReady s = true → (mapRuns s = false ∨ s.yld.epochs + 1 < bitsOf s.yld.cfg 62 55) →
      ∃ t, exec .yieldEpoch s = .next t ∧ t.fab.hinted = []
        ∧ t.fab.epochPorts = (portsOf s).filter (forwarding s)
        ∧ (∀ p, p ∈ s.fab.epochPorts → forwarding s p = true → p ∈ s.fab.hinted →
          tget 0 t.fab.settled p = 1)
        ∧ (mapRuns s = false → t.yld = { s.yld with
            cfg := rd s aYldCfg, collect := rd s aYldCollect, base := rd s aYldBase, epochs := 0, samples := 0,
            start := now s, stats := [] })
        ∧ (mapRuns s = true → t.yld.epochs = s.yld.epochs + 1 ∧ t.yld.cfg = s.yld.cfg ∧ t.yld.maps = s.yld.maps)
        ∧ changesOnly [.fabric, .yield] [] s t)
  ∧ (∀ s, isReady s = true → mapRuns s = true → bitsOf s.yld.cfg 62 55 ≤ s.yld.epochs + 1 →
      ∃ t, exec .yieldEpoch s = .next t ∧ rdf t aYldStat 63 32 = (rdf s aYldStat 63 32 + 1) % 2 ^ 32
        ∧ t.yld.epochs = 0 ∧ t.yld.samples = 0 ∧ t.yld.stats = [] ∧ t.yld.cfg = rd s aYldCfg
        ∧ touchesOnly [.fabric, .granary, .yield] 0x3000_0000 [] s t)
  ∧ ∀ s path v, manageable s →
      (bitsOf v 62 55 ≠ 0 → ∃ t, exec (.yieldConfigWrite path 0 v) s = .next t
        ∧ rdf t aYldCfg 63 55 = bitsOf v 63 55 ∧ touchesOnly [.recorder] 0xA000_0000 [] s t)
      ∧ (∃ t, exec (.yieldConfigWrite path 1 v) s = .next t ∧ rdf t aYldCollect 63 46 = bitsOf v 63 46
        ∧ touchesOnly [.recorder] 0xA000_0000 [] s t)
      ∧ (v.toNat % 0x2_0000 = 0 → ∃ t, exec (.yieldConfigWrite path 2 v) s = .next t ∧ rd t aYldBase = v
        ∧ touchesOnly [.recorder] 0xA000_0000 [] s t)

/-- The REC commands (R360, R363, R366) and REC_CFG (R362). -/
def Obligations.RecorderCommands : Prop :=
  ∀ s path, manageable s →
    let idle := recState s ≠ recRecording ∧ recState s ≠ recReplaying
    let result := fun t code => rdf t aRecStat 57 50 = code
    (idle → s.grn.captureMiB ≠ 0 → ∃ t, exec (.recStart path) s = .next t ∧ recState t = recRecording
        ∧ result t 0 ∧ t.rcd.blocks = 0 ∧ t.rcd.body = [] ∧ t.rcd.mask = rdf s aCapAvail 63 52
        ∧ touchesOnly [.recorder] 0xA000_0000 [] s t)
    ∧ (recState s = recRecording → ∃ t, exec (.recStop path) s = .next t ∧ result t 0
        ∧ (recState t = recStopped ∨ recState t = recFull)
        ∧ touchesOnly [.recorder, .stack, .stackMemory] 0xA000_0000 [] s t)
    ∧ (∃ u, touchesOnly [] (2 ^ 64) [aRecCmd] s u
        ∧ (replayRefusal u (keptEntries u) = 0 → ∃ t, exec (.recReplay path) s = .next t
          ∧ recState t = recReplaying ∧ result t 0 ∧ t.rcd.replay = keptEntries u ∧ t.rcd.replayBad = 0
          ∧ rd t aRecDiverge = 0xFFFF_FFFF_FFFF_FFFF ∧ rd t (aRecDiverge + 8) = 0xFFFF_FFFF_FFFF_FFFF
          ∧ touchesOnly [.recorder] 0xA000_0000 [] s t)
        ∧ (replayRefusal u (keptEntries u) ≠ 0 → ∃ t, exec (.recReplay path) s = .next t
          ∧ result t (replayRefusal u (keptEntries u)) ∧ changesOnly [] [(aRecCmd, 63, 0), (aRecStat, 57, 50)] s t))
    ∧ (recState s = recReplaying → ∃ t, exec (.replayAbort path) s = .next t ∧ recState t = recReplayDone
        ∧ result t 0 ∧ t.rcd.replay = [] ∧ touchesOnly [.recorder] 0xA000_0000 [] s t)
    ∧ (idle → ∃ t, exec (.recClear path) s = .next t ∧ recState t = recIdle ∧ result t 0
        ∧ touchesOnly [.recorder] 0xA000_0000 [] s t)
    ∧ (∀ c, (c = .recStart path ∨ c = .recClear path) ∧ ¬ idle ∨ c = .recStop path ∧ recState s ≠ recRecording
        ∨ c = .replayAbort path ∧ recState s ≠ recReplaying → ∃ t, exec c s = .next t ∧ result t 0x70
          ∧ changesOnly [] [(aRecCmd, 63, 0), (aRecStat, 57, 50)] s t)
    ∧ (∀ j v, j < 8 → idle → ∃ t, exec (.recCfgWrite path (some j) v) s = .next t ∧ rd t (aRecMask j) = v
        ∧ changesOnly [] [(aRecMask j, 63, 0)] s t)
    ∧ ∀ v, idle → bitsOf v 63 62 ≠ 3 → (bitsOf v 63 62 = 0 ∨ bitsOf v 60 49 ≠ 0) → bitsOf v 32 16 ≤ 65536 →
        (bitsOf v 63 62 = 1 → bitsOf v 32 16 ≠ 0) → ∃ t, exec (.recCfgWrite path none v) s = .next t
          ∧ rdf t aRecCfg 63 16 = bitsOf v 63 16 ∧ touchesOnly [] 0xA100_0000 [] s t

/-- The journal and its replay (R357, R360, R365, R367). -/
def Obligations.JournalAndReplay : Prop :=
  (∀ s, recState s = recRecording → journalStacks s ≠ [] → blockBody ≤ s.rcd.body.length →
      s.rcd.blocks % Nat.max 1 (totalBlocks s) + 1 ≠ totalBlocks s →
      ∃ t, exec .journalWrite s = .next t ∧ t.rcd.blocks = s.rcd.blocks + 1
        ∧ t.rcd.body = s.rcd.body.drop blockBody ∧ recState t = recRecording
        ∧ touchesOnly [.recorder, .stack, .stackMemory] 0xA000_0000 [] s t)
  ∧ (∀ s, recState s = recRecording → journalStacks s ≠ [] → blockBody ≤ s.rcd.body.length →
      s.rcd.blocks % Nat.max 1 (totalBlocks s) + 1 = totalBlocks s → rdb s aRecCfg 61 = false →
      ∃ t, exec .journalWrite s = .next t ∧ recState t = recFull ∧ t.rcd.pending = []
        ∧ touchesOnly [.recorder, .stack, .stackMemory] 0xA000_0000 [] s t)
  ∧ (∀ s, recState s ≠ recRecording → exec .journalWrite s = .next s)
  ∧ (∀ s g seq next, recState s = recReplaying → s.rcd.replaySeq.find? (fun kv => kv.1 == g) = some (g, next) →
      next ≤ seq → ∃ t, exec (.replayInstance g seq) s = .next t ∧ tget 0 t.rcd.replaySeq g = seq + 1
        ∧ recState t = recReplaying ∧ touchesOnly [.recorder] 0xA000_0000 [] s t)
  ∧ ∀ s, recState s = recReplaying → ∃ t, exec .replayDone s = .next t ∧ recState t = recReplayDone
      ∧ t.rcd.replay = [] ∧ t.rcd.replaySeq = [] ∧ touchesOnly [.recorder] 0xA000_0000 [] s t

/-- Counter snapshots (R450 to R452): a FREEZE takes the group for its path and sets T 2 µs ahead; at T the
counters are copied, and live counting goes on; a thawed group shows no shadow. Another path's FREEZE and
THAW are refused. -/
def Obligations.Snapshots : Prop :=
  (∀ s path g, manageable s → path < 16 → g ≤ 8 → heldByOther s path g = false →
      ∃ t, exec (.freeze path g) s = .next t ∧ frozen t g = true ∧ snapOwner t g = path
        ∧ rd t (aSnapGroup g 1) = BitVec.ofNat 64 (now s + 2000) ∧ rdf t aSnapStat 63 56 = 0
        ∧ g ∉ t.mg.taken ∧ touchesOnly [.management, .recorder] 0xA000_0000 [] s t)
  ∧ (∀ s path g, manageable s → g ≤ 8 → heldByOther s path g = false →
      ∃ t, exec (.thaw path g) s = .next t ∧ frozen t g = false ∧ rdf t aSnapStat 63 56 = 0
        ∧ touchesOnly [.management, .recorder] 0xA000_0000 [] s t)
  ∧ (∀ s path, manageable s → path < 16 → (∀ g, g ≤ 8 → heldByOther s path g = false) →
      ∃ t, exec (.freezeAll path) s = .next t ∧ (∀ g, g ≤ 8 → frozen t g = true ∧ snapOwner t g = path)
        ∧ rdf t aSnapStat 63 56 = 0 ∧ touchesOnly [.management, .recorder] 0xA000_0000 [] s t)
  ∧ (∀ s path g c code, manageable s → g < 16 →
      (g ≤ 8 ∧ heldByOther s path g = true
        ∧ (c = .freeze path g ∧ code = 0xA0 ∨ c = .thaw path g ∧ code = 0xA1 ∨ c = .freezeAll path ∧ code = 0xA0)
        ∨ 8 < g ∧ (c = .freeze path g ∨ c = .thaw path g) ∧ code = 0xA2) →
      ∃ t, exec c s = .next t ∧ rdf t aSnapStat 63 56 = code
        ∧ touchesOnly [] (2 ^ 64) [aSnapCmd, aSnapStat] s t)
  ∧ (∀ s g, regsWf s.regs = true → g < 9 → frozen s g = true → s.mg.taken.contains g = false →
      ∃ t, exec (.snapshotTaken g) s = .next t ∧ g ∈ t.mg.taken
        ∧ (∀ a, inGroup g a = true → tget (resetWord a) t.mg.shadow a = rd s a)
        ∧ (∀ a, inGroup g a = false → tget (resetWord a) t.mg.shadow a = tget (resetWord a) s.mg.shadow a)
        ∧ changesOnly [.management] [] s t)
  ∧ ∀ s g, g < 9 → frozen s g = true → ∃ t, exec (.selfThaw g) s = .next t ∧ frozen t g = false
      ∧ g ∉ t.mg.taken ∧ touchesOnly [.management] (2 ^ 64) [aSnapGroup g 0] s t

/-- REAP, REAP_DEFERRED, REAP_EXPRESS, SOW, SOW_EXPRESS, SOW_REQUEST, COMPLETION and VERDICT (R119, R142 to
R150): each behind packets that wait on its port and furrow waits behind them; one that is no member's and
not the parent's is counted, reported and dropped, and changes no run. -/
def Obligations.CollectivePackets : Prop :=
  ∀ row ∈ [(Instr.reap, tReap), (Instr.reapDeferred, tReapDeferred), (Instr.reapExpress, tReapExpress),
      (Instr.sow, tSow), (Instr.sowExpress, tSowExpress), (Instr.sowRequest, tSowRequest),
      (Instr.completion, tCompletion), (Instr.verdict, tVerdict)],
    ∀ s p fr, fr.hdr.type = row.2 →
      let f := fr.hdr.furrow
      let g := groupAt s fr.hdr.group
      (waitsOf s p f ≠ [] → ∃ u w, exec (row.1 p fr) s = .next (settle u) ∧ w.pkt.hdr = fr.hdr
          ∧ w.pkt.payload = fr.payload ∧ waitsOf u p f = waitsOf s p f ++ [w]
          ∧ (∀ q x, qKey q x ≠ qKey p f → waitsOf u q x = waitsOf s q x) ∧ changesOnly [.fabric] [] s u)
      ∧ (p < 512 → waitsOf s p f = [] →
          (g.state = gsFree ∨ memberOnPort s g p = none ∧ (g.role = roleRoot ∨ g.parentPort ≠ p)) →
          ∃ u, exec (row.1 p fr) s = .next (settle u) ∧ waitsOf u p f = []
          ∧ (rd u (aCnt 5 (Nat.min 11 g.owner) 12)).toNat
            = ((rd s (aCnt 5 (Nat.min 11 g.owner) 12)).toNat + 1) % 2 ^ 64
          ∧ (lossless f = true → rdf u (aCredit p f) 15 0 = rdf s (aCredit p f) 15 0 - creditsOf fr.hdr.length)
          ∧ u.bnd = s.bnd ∧ touchesOnly [.fabric, .links] 0x1000_0000 [] s u)

/-- REAP and its kinds (R142, R146, R149, R150): a part after the first that is neither early nor late joins its
contribution; a contribution that the group's quota does not admit waits at ingress and changes no run. SOW
and SOW_EXPRESS from the parent (R158), SOW_REQUEST (R158, R189), COMPLETION from a child (R145, R153, R155)
and VERDICT from a child (R204): what the run of the packet holds of it afterwards. -/
def Obligations.PartsAndPacketsOfRuns : Prop :=
  (∀ row ∈ [(Instr.reap, tReap), (Instr.reapDeferred, tReapDeferred), (Instr.reapExpress, tReapExpress)],
    ∀ s p fr i r, fr.hdr.type = row.2 → waitsOf s p fr.hdr.furrow = [] →
      let h := fr.hdr
      let g := groupAt s r.group
      findRun s h.group h.runNo = some r → runOf s (keyOf r) = some r → r.group = h.group → r.state = .opened →
      g.state ≠ gsFree → memberOnPort s g p = some i → carried s g (some i) h fr.payload = true →
      h.signature = sigOf g r.seq → h.tag = r.tag → h.rank = (memberN s g i).rankLo →
      partWrong s r g i h.chunk h fr.payload.length = false → sheafed g = false →
      (∀ x, h.first = false → h.last = false → contribOf (chunkOf r h.chunk) i = some x →
        ∃ u r', exec (row.1 p fr) s = .next (settle u) ∧ runOf u (keyOf r) = some r'
          ∧ contribOf (chunkOf r' h.chunk) i
            = some { x with nextPart := h.part + 1, bytes := x.bytes ++ fr.payload, done := false }
          ∧ (∀ k, k ≠ h.chunk → chunkOf r' k = chunkOf r k) ∧ r'.state = .opened
          ∧ (∀ key, key ≠ keyOf r → runOf u key = runOf s key)
          ∧ touchesOnly [.fabric, .links, .granary, .binding] 0xA300_0000 [] s u)
      ∧ (h.first = true → g.express = false →
        admitUnits s r g h.chunk (csUnitsFor (contribSize s r g (memberN s g i) h.chunk).max) = false →
        ∃ u w, exec (row.1 p fr) s = .next (settle u) ∧ waitsOf u p h.furrow = [w] ∧ w.why = .contribution
          ∧ w.pkt.hdr = h ∧ w.pkt.payload = fr.payload ∧ changesOnly [.fabric] [] s u))
  ∧ (∀ s p fr r, waitsOf s p fr.hdr.furrow = [] →
    let h := fr.hdr
    let g := groupAt s r.group
    let w := fun k => wordAt (wordsOfLe 5 fr.payload) k
    findRun s h.group h.runNo = some r → runOf s (keyOf r) = some r → r.group = h.group → r.state = .opened →
    g.state ≠ gsFree → h.signature = sigOf g r.seq → h.tag = r.tag →
    (∀ row ∈ [(Instr.sow, tSow), (Instr.sowExpress, tSowExpress)], h.type = row.2 → r.code = 0 →
      memberOnPort s g p = none → g.role ≠ roleRoot → g.parentPort = p → carried s g none h fr.payload = true →
      h.chunk < chunkCount g → h.part = tget 0 r.sowNext h.chunk → h.first = decide (h.part = 0) →
      h.last = false → ∃ u, exec (row.1 p fr) s = .next (settle u)
        ∧ runOf u (keyOf r) = some { r with
          sowCount := r.sowCount + 1, sowIn := tset [] r.sowIn h.chunk (tget [] r.sowIn h.chunk ++ fr.payload),
          sowNext := tset 0 r.sowNext h.chunk (h.part + 1) }
        ∧ touchesOnly [.fabric, .links, .binding] 0x1000_0000 [] s u)
    ∧ ∀ i, memberOnPort s g p = some i → carried s g (some i) h fr.payload = true →
      h.rank = (memberN s g i).rankLo →
      (∀ j, h.type = tSowRequest → contributes (memberN s g i) = true → r.requests.contains i = false →
        j < g.members → j ≠ i → contributes (memberN s g j) = true → r.requests.contains j = false →
        ∃ u, exec (.sowRequest p fr) s = .next (settle u)
          ∧ runOf u (keyOf r) = some { r with requests := r.requests ++ [i] }
          ∧ touchesOnly [.fabric, .links, .binding] 0x1000_0000 [] s u)
      ∧ (∀ j, h.type = tCompletion → bitsOf (w 0) 7 0 = 0 → j ∈ childrenOf s g → j ≠ i →
        r.childOk.contains j = false → ∃ u, exec (.completion p fr) s = .next (settle u)
          ∧ runOf u (keyOf r) = some { r with
            cvt := r.cvt ||| bitsOf (w 0) 15 8, arith := r.arith ||| bitsOf (w 0) 19 16,
            replays := Nat.min 0xFFFF (r.replays + bitsOf (w 4) 55 40), childOk := r.childOk ++ [i] }
          ∧ touchesOnly [.fabric, .links, .binding] 0x1000_0000 [] s u)
      ∧ (h.type = tVerdict → h.chunk = 0 → fr.payload.length = 64 → h.first = true → h.last = true →
        h.part = 0 → tget [] r.verdicts i = [] → i ≠ ownSlot → tget [] r.verdicts ownSlot = [] →
        ∃ u, exec (.verdict p fr) s = .next (settle u)
          ∧ runOf u (keyOf r) = some { r with
            verdicts := tset [] r.verdicts i (recordOf fr.payload) }
          ∧ touchesOnly [.fabric, .links, .binding] 0x1000_0000 [] s u))

/-- What a run waits for comes or does not come (R123, R144, R150, R151, R153, R158, R173, R270, R373): the
packet at a head is tried again; the member of lowest rank whose part is missing is the cause of a
straggler's failure; a failed run with no final record closes on its own code; a copy that has left is no
longer owed; a reservation that is now granted is the run's; a chunk without a judge fails. -/
def Obligations.CollectiveTimers : Prop :=
  (∀ row ∈ [(Instr.contributionAdmit, WaitWhy.contribution), (Instr.openingPacketAdmit, WaitWhy.opening)],
      ∀ s p f w rest, waitsOf s p f = w :: rest →
      (w.why ≠ row.2 → exec (row.1 p f) s = .next s)
      ∧ (w.why = row.2 → ∀ t, collPacket s p w.pkt = .done t → exec (row.1 p f) s
        = .next (settle (drainColl p f rest.length (giveBack (setWaits t p f rest) w.pkt))))
      ∧ (w.why = row.2 → ∀ t why, collPacket s p w.pkt = .wait t why → exec (row.1 p f) s
        = .next (settle (setWaits t p f ({ w with why := why } :: rest)))))
  ∧ (∀ s g seq r m, runOf s (runKey g seq) = some r → r.state = .opened →
      m ∈ missingMembers s r (groupAt s g) →
      (∀ x ∈ missingMembers s r (groupAt s g), x ≠ m → m.rankLo < x.rankLo) →
      exec (.stragglerTimeout g seq) s = .next (settle (failHere s (runKey g seq) 9 m.port m.rankLo)))
  ∧ (∀ s g seq, (∀ r, runOf s (runKey g seq) = some r → r.state ≠ .opened) →
      exec (.stragglerTimeout g seq) s = .next s)
  ∧ (∀ s g seq r, runOf s (runKey g seq) = some r → r.state = .failed →
      exec (.settleTimeout g seq) s = .next (settle (closeRun s (runKey g seq) r.code r.cause)))
  ∧ (∀ s p c rest r, tget [] s.fab.leftCopies p = c :: rest → s.fab.atSource = [] →
      runOf s c.run = some r → r.state = .opened →
      (∀ kv ∈ r.chunks, ∀ x ∈ kv.2.copies, x.2 ≠ 1) →
      (∃ i, i ≠ c.member ∧ tget 0 (chunkOf r (sowKey c.chunk)).copies i = 2
        ∧ (memberN s (groupAt s r.group) i).port = (memberN s (groupAt s r.group) c.member).port) →
      ∃ u r', exec (.sowCopySent p) s = .next (settle u) ∧ tget [] u.fab.leftCopies p = rest
        ∧ runOf u c.run = some r' ∧ tget 0 (chunkOf r' (sowKey c.chunk)).copies c.member = 0
        ∧ (∀ i, i ≠ c.member → tget 0 (chunkOf r' (sowKey c.chunk)).copies i
          = tget 0 (chunkOf r (sowKey c.chunk)).copies i)
        ∧ changesOnly [.fabric, .binding] [] s u)
  ∧ (∀ s p f w rest, waitsOf s p f = w :: rest → w.why = .quota →
      exec (.quotaAdmit (.ingress p f)) s = .next (drainPort s p f))
  ∧ (∀ s g seq k r, runOf s (runKey g seq) = some r → (chunkOf r (sowKey k)).stage = .checked →
      (∃ r', runOf (placeSow s (runKey g seq) k) (runKey g seq) = some r' ∧ (chunkOf r' k).stage = .placed) →
      exec (.quotaAdmit (.sow g seq k)) s
        = .next (settle (tryFinish (progress (chunkPlaced (placeSow s (runKey g seq) k) (runKey g seq) k)
          (runKey g seq)) (runKey g seq))))
  ∧ (∀ s g seq r s' recs, let x := groupAt s r.group
      runOf s (runKey g seq) = some r → r.landing = .waiting → r.state = .opened →
      (∀ kv ∈ r.chunks, kv.1 < 2 ^ 24 → kv.2.stage ≠ .checked) →
      reserveLanding s r.group r.seq r.tag x = .reserved s' recs →
      ∃ u, exec (.landingReservationResume g seq) s = .next (settle (progress u (runKey g seq)))
        ∧ runOf u (runKey g seq) = some { r with landing := .reserved recs (vrdLossExp s x.plot) })
  ∧ ∀ s g seq k r, runOf s (runKey g seq) = some r → (chunkOf r k).stage = .judging →
      (chunkOf r k).judge = none →
      exec (.noJudgeTimeout g seq k) s = .next (settle (chunkFailed s (runKey g seq) k 2))

/-- DRILL_RUN_END (R26, R352, R353, R369): the first of a chunk's two runs to end leaves its core without that
job, its result with the chunk and its shape and cycles in DRL_RUN_CYCLES; the first watched run since a
write to DRL_WATCH sets MIN and MAX to its count. HBM_REFRESH and D2D_RETRY (R27, R354) count while the
watched chunk is between ready and placed; DRILL_WATCH_WRITE clears MIN, MAX and RUNS (R353);
HUB_WATCH_WRITE starts RUNS afresh (R354). -/
def Obligations.DrillRunsAndWatches : Prop :=
  (∀ s n core cycles fault key k role r, n < 12 → core < 9 →
    let u := 9 * n + core
    let g := groupAt s r.group
    let c := chunkOf r k
    let shape := bitsAt 63 52 (programNo s g) ||| bitsAt 51 35 (elemsOfChunk g k)
      ||| bitsAt 34 25 c.contribs.length
    let took := Nat.min 0x1FF_FFFF cycles
    let watched := rdf s (aDrl u 8) 63 52 = programNo s g ∧ rdf s (aDrl u 8) 51 35 = elemsOfChunk g k
      ∧ rdf s (aDrl u 8) 34 25 = c.contribs.length
    jobOf s u = some (.run key k role) → runOf s key = some r → role ≠ 2 → c.stage = .running →
    c.cores.contains u = true → c.results.length + 1 < c.cores.length → fault ≠ .input →
    coreState s u ≠ csFallow → tget 0 s.cores.migrated u = 0 →
    ((¬watched →
        ∃ t x r', exec (.drillRunEnd n core cycles fault) s = .next (settle t) ∧ jobOf t u = none
          ∧ (∀ v, v ≠ u → jobOf t v = jobOf s v) ∧ rd t (aDrl u 0) = shape ||| bitsAt 24 0 took
          ∧ x.core = u ∧ x.cycles = took ∧ runOf t key = some r'
          ∧ chunkOf r' k = { c with results := c.results ++ [x] }
          ∧ (∀ j, j ≠ k → chunkOf r' j = chunkOf r j)
          ∧ changesOnly [.cores, .binding] [(aDrl u 0, 63, 0)] s t)
      ∧ (watched → rdf s (aDrl u 0x10) 14 0 = 0 →
          ∃ t, exec (.drillRunEnd n core cycles fault) s = .next (settle t)
          ∧ rdf t (aDrl u 0x10) 63 39 = took ∧ rdf t (aDrl u 0x18) 63 39 = took
          ∧ rdf t (aDrl u 0x10) 14 0 = 1
          ∧ changesOnly [.cores, .binding]
            [(aDrl u 0, 63, 0), (aDrl u 0x10, 63, 0), (aDrl u 0x18, 63, 0)] s t)))
  ∧ ((∀ s n, watchOpen s n = true → ∃ t, exec (.hbmRefresh n) s = .next t
      ∧ t.cores = { s.cores with stalls := t.cores.stalls } ∧ tget 0 t.cores.stalls n = tget 0 s.cores.stalls n + 1
      ∧ (∀ m, m ≠ n → tget 0 t.cores.stalls m = tget 0 s.cores.stalls m) ∧ changesOnly [.cores] [] s t)
  ∧ (∀ s n, watchOpen s n = true → ∃ t, exec (.d2dRetry n) s = .next t
      ∧ t.cores = { s.cores with retries := t.cores.retries }
      ∧ tget 0 t.cores.retries n = tget 0 s.cores.retries n + 1
      ∧ (∀ m, m ≠ n → tget 0 t.cores.retries m = tget 0 s.cores.retries m) ∧ changesOnly [.cores] [] s t)
  ∧ (∀ s n, watchOpen s n = false → exec (.hbmRefresh n) s = .next s ∧ exec (.d2dRetry n) s = .next s)
  ∧ (∀ s path n core v, manageable s → clusterUp s n = true → core < 9 →
      let a := aDrl (9 * n + core)
      ∃ t, exec (.drillWatchWrite path n core v) s = .next t ∧ rdf t (a 8) 63 25 = bitsOf v 63 25
        ∧ rdf t (a 8) 24 0 = rdf s (a 8) 24 0 ∧ rd t (a 0x10) = 0 ∧ rd t (a 0x18) = 0
        ∧ touchesOnly [.recorder] 0xA000_0000 [a 8, a 0x10, a 0x18] s t)
  ∧ ∀ s path n v, manageable s → clusterUp s n = true →
      ∃ t, exec (.hubWatchWrite path n v) s = .next t ∧ rdf t (aHubWatch n) 63 48 = bitsOf v 63 48
        ∧ rdf t (aHubWatch n) 23 0 = bitsOf v 23 0 ∧ rdf t (aHubTime n) 13 0 = 0
        ∧ rdf t (aHubTime n) 63 14 = rdf s (aHubTime n) 63 14
        ∧ touchesOnly [.recorder] 0xA000_0000 [aHubWatch n, aHubTime n] s t)

/-- HBM_WINDOW_WRITE (R163): a word below the user area's end that every entry over it, if any, holds FALLOW is
stored lowest byte first and every other byte of every stack is unchanged; any other write changes nothing.
HYP_ARM (R171): a block whose 13 FP32 fields are finite is armed; with one that is not, ARM clears and
TIL_STAT shows code 0x29. SOW_VERSION_READ_DONE (R190): the holds of the run go, and a pass whose entry they
alone held begins it. PATROL_SCRUB (R200, R201): the next word of the stack, its counters, and what a lost
word costs. -/
def Obligations.WindowsHoldsAndScrub : Prop :=
  ((∀ s path n off v, manageable s →
      let base := off / 8 * 8
      let open' := clusterUp s n = true ∧ base < userArea ∧ ∀ e ∈ entriesAt s n base, fbState s n e = esFallow
      (open' → ∃ t, exec (.hbmWindowWrite path n off v) s = .next t
          ∧ (∀ i, i < 8 → readByte 0x00 t.stk.hbm (hbmKey n (base + i))
            = BitVec.ofNat 8 (v.toNat / 2 ^ (8 * i)))
          ∧ (∀ a, a < hbmKey n base ∨ hbmKey n base + 8 ≤ a →
            readByte 0x00 t.stk.hbm a = readByte 0x00 s.stk.hbm a)
          ∧ stackState t.stk = { stackState s.stk with lostWords := t.stk.lostWords }
          ∧ (∀ w, w ∈ t.stk.lostWords ↔ w ∈ s.stk.lostWords
            ∧ (32 * w + 32 ≤ hbmKey n base ∨ hbmKey n base + 8 ≤ 32 * w))
          ∧ touchesOnly [.stack, .stackMemory, .recorder] 0xA000_0000 [] s t)
      ∧ (¬open' → exec (.hbmWindowWrite path n off v) s = .next s))
  ∧ ∀ s path n b v, manageable s → clusterUp s n = true → b < 1024 →
      let a := aHyp n b 11
      ∃ u, rdf u a 63 32 = bitsOf v 63 32 ∧ rdf u a 2 0 = bitsOf v 2 0 ∧ rdf u a 31 3 = rdf s a 31 3
      ∧ touchesOnly [] 0xA300_0000 [a] s u
      ∧ (bitOf v 2 = true → pendingFinite u n b = true → ∃ t, exec (.hypArm path n b v) s = .next t
          ∧ rd t a = rd u a ∧ rdf t (aTilStat n) 63 56 = 0
          ∧ touchesOnly [.recorder] 0xA000_0000 [a, aTilStat n] s t)
      ∧ (bitOf v 2 = true → pendingFinite u n b = false → ∃ t, exec (.hypArm path n b v) s = .next t
          ∧ rdb t a 2 = false ∧ rdf t (aTilStat n) 63 56 = 0x29
          ∧ touchesOnly [] 0xA300_0000 [a, aTilStat n] s t)
      ∧ (bitOf v 2 = false → exec (.hypArm path n b v) s = .next (captureWrite u a v)))
  ∧ ((∀ s g seq, ∃ t, exec (.sowVersionReadDone g seq) s = .next t
      ∧ t.stk.slotHolds = s.stk.slotHolds.filter (fun h => h.run != runKey g seq)
      ∧ ((∀ n, runningPass s n = none) → changesOnly [.stack] [] s t)
      ∧ (∀ n p e rest, n < 12 → clusterUp s n = true → runningPass s n = some p → p.left = e :: rest →
        p.begun = false → p.second = none → (∀ h ∈ s.stk.slotHolds, h.stack = n → h.entry = e →
          h.run = runKey g seq) → ∃ p', runningPass t n = some p' ∧ p'.begun = true ∧ p'.left = p.left
            ∧ p'.groupsDone = 0)
      ∧ touchesOnly [.stack] 0x8000_0000 [] s t)
  ∧ ∀ s n, n < 12 → let addr := tget 0 s.stk.scrubAt n
      let moved := fun t => tget 0 t.stk.scrubAt n = (addr + 32) % 2 ^ 36
        ∧ stackState t.stk = { stackState s.stk with scrubAt := t.stk.scrubAt }
      (∃ t, exec (.patrolScrub n .clean) s = .next t ∧ moved t ∧ changesOnly [.stack] [] s t)
      ∧ (∃ t, exec (.patrolScrub n .corrected) s = .next t ∧ moved t
        ∧ (rd t (aCnt 8 n 1)).toNat = ((rd s (aCnt 8 n 1)).toNat + 1) % 2 ^ 64
        ∧ changesOnly [.stack] [(aCnt 8 n 1, 63, 0), (aCnt 8 n 1 + 8, 0, 0)] s t)
      ∧ ∃ u, exec (.patrolScrub n .uncorrectable) s = .next (settle (scrubLost u n addr)) ∧ moved u
        ∧ (rd u (aCnt 8 n 2)).toNat = ((rd s (aCnt 8 n 2)).toNat + 1) % 2 ^ 64
        ∧ changesOnly [.stack] [(aCnt 8 n 2, 63, 0), (aCnt 8 n 2 + 8, 0, 0)] s u)

/-- The commands of TIL_CMD (R191, R194 to R197, R221): what each does, with RESULT and ENTRY of TIL_STAT; a
command on an entry in another state answers 0x20 and changes nothing else. RELEASE_VERSION, PASS_HOLD and
PASS_RELEASE (R191, R195, R196): a release frees the older slot of every ACTIVE and FALLOW entry of the
tensor when each holds that version, 0x26 for a current version and 0x27 for one not held; the holds keep
ENTRY of TIL_STAT. -/
def Obligations.TillerAndPlotWideCommands : Prop :=
  (∀ s path n e, manageable s → clusterUp s n = true → e < 32768 →
    let answers := fun t code => rdf t (aTilStat n) 63 56 = code ∧ rdf t (aTilStat n) 14 0 = e
    let st := fbState s n e
    let done := fun op t => captureWrite (tilReport t n e 0) (aTilCmd n) (tilCmdWord op 0 e)
    (∃ t, exec (.entryQuery path n e) s = .next t ∧ answers t 0
        ∧ touchesOnly [.recorder] 0xA000_0000 [aTilCmd n, aTilStat n] s t)
    ∧ (st = esFallow → tillersUp s n ≠ [] → ∃ u, exec (.entryActivate path n e) s = .next (done 1 (settle u))
        ∧ fbState u n e = esActive ∧ binStep u n e = plotStep s (fbAt s n e).plot
        ∧ rdb u (aEntry n e 5) 60 = false ∧ rd u (aEntry n e 7) = 0
        ∧ touchesOnly [.stack] (2 ^ 64)
          [aTilCmd n, aEntry n e 0, aEntry n e 1, aEntry n e 5, aEntry n e 6, aEntry n e 7] s u)
    ∧ (st = esActive → ∃ u, touchesOnly [] (2 ^ 64) [aTilCmd n] s u
        ∧ exec (.entryFallow path n e) s = .next (done 2 (settle (askFallow u n e))))
    ∧ (st = esFallow → ∃ t, exec (.entryFree path n e) s = .next t ∧ answers t 0 ∧ binStep t n e = 0
        ∧ (∀ w, w < 8 → rd t (aEntry n e w) = 0) ∧ touchesOnly [.stack, .recorder] 0x8000_0000 [] s t)
    ∧ (st = esActive ∨ st = esFallow → inRunning s n e = false → ∃ u, touchesOnly [] (2 ^ 64) [aTilCmd n] s u
        ∧ exec (.rebuildSown path n e) s = .next (done 7 (rebuildSown u n e)))
    ∧ (st = esActive ∨ st = esFallow → inRunning s n e = true →
        ∃ t, exec (.rebuildSown path n e) s = .next t ∧ answers t 0
        ∧ feKey n e ∈ t.stk.rebuildDue ∧ (∀ k, k ≠ feKey n e → (k ∈ t.stk.rebuildDue ↔ k ∈ s.stk.rebuildDue))
        ∧ touchesOnly [.stack, .recorder] 0xA000_0000 [aTilCmd n, aTilStat n] s t)
    ∧ ∀ c, c = .entryActivate path n e ∧ st ≠ esFallow ∨ c = .entryFallow path n e ∧ st ≠ esActive
        ∨ c = .entryFree path n e ∧ st ≠ esFallow
        ∨ c = .rebuildSown path n e ∧ st ≠ esActive ∧ st ≠ esFallow →
        ∃ t, exec c s = .next t ∧ answers t 0x20 ∧ touchesOnly [] (2 ^ 64) [aTilCmd n, aTilStat n] s t)
  ∧ (∀ s path n plot, manageable s → clusterUp s n = true → plot < 4096 →
    let tensor := rdf s (aTilArg n) 63 33
    let v := rdf s (aTilArg n) 31 0
    let mine := fun e => e ∈ entriesOf s n ∧ (fbAt s n e).plot = plot ∧ (fbAt s n e).tensor = tensor
      ∧ (fbState s n e = esActive ∨ fbState s n e = esFallow)
    let answers := fun t code => rdf t (aTilStat n) 63 56 = code ∧ rdf t (aTilStat n) 14 0 = rdf s (aTilStat n) 14 0
    let quiet := fun c code => ∃ t, exec c s = .next t ∧ answers t code
      ∧ touchesOnly [.recorder] 0xA000_0000 [aTilCmd n, aTilStat n] s t
    ((∀ e, mine e → fbState s n e ≠ esActive) → quiet (.releaseVersion path n plot) 0)
    ∧ (∀ a e, mine a → fbState s n a = esActive → mine e → (fbAt s n e).version = v →
        quiet (.releaseVersion path n plot) 0x26)
    ∧ (∀ a e, mine a → fbState s n a = esActive → (∀ o, mine o → (fbAt s n o).version ≠ v) → mine e →
        ((fbAt s n e).olderHeld = false ∨ (fbAt s n e).version ≠ v + 1) →
        quiet (.releaseVersion path n plot) 0x27)
    ∧ (∀ a, mine a → fbState s n a = esActive →
        (∀ o, mine o → (fbAt s n o).olderHeld = true ∧ (fbAt s n o).version = v + 1) →
        ∃ t, exec (.releaseVersion path n plot) s = .next t ∧ answers t 0
          ∧ (∀ o, mine o → rdb t (aEntry n o 5) 63 = false)
          ∧ touchesOnly [.granary, .advance, .recorder] 0x3000_0000 [] s t)
    ∧ (∃ t, exec (.passHold path n plot) s = .next t ∧ answers t 0 ∧ passHeld t n plot = true
        ∧ (∀ m p, 4096 * m + p ≠ 4096 * n + plot → passHeld t m p = passHeld s m p)
        ∧ stackState t.stk = { stackState s.stk with held := t.stk.held }
        ∧ touchesOnly [.stack, .recorder] 0xA000_0000 [aTilCmd n, aTilStat n] s t)
    ∧ ∃ t, exec (.passRelease path n plot) s = .next t ∧ answers t 0 ∧ passHeld t n plot = false
        ∧ (∀ m p, 4096 * m + p ≠ 4096 * n + plot → passHeld t m p = passHeld s m p)
        ∧ stackState t.stk = { stackState s.stk with held := t.stk.held }
        ∧ touchesOnly [.stack, .recorder] 0xA000_0000 [aTilCmd n, aTilStat n] s t)

/-- PASS_START (R171, R185, R190): the first queued pass that is not held starts over the plot's ACTIVE entries
that are not frozen, in plan order; armed hyperparameters whose step has come are copied, and older versions
retire. While a pass runs, and with none queued that may start, nothing changes. TILLER_GROUP_COMPLETE
(R186, R198, R199), ENTRY_PASS_DONE (R186, R192, R221, R222) and SECOND_ENCODING_END (R222): what the
running pass and the plot's commit record hold afterwards. -/
def Obligations.UpdatePasses : Prop :=
  ((∀ s n, runningPass s n ≠ none ∨ (∀ p ∈ passesOf s n, passHeld s n p.plot = true) →
      exec (.passStart n) s = .next s)
  ∧ ∀ s n p, n < 12 → runningPass s n = none →
      (passesOf s n).find? (fun p => !passHeld s n p.plot) = some p →
      ∃ u, exec (.passStart n) s = .next (settle (nextEntry u n))
        ∧ passesOf u n = { p with started := true, left := passEntries s n p.plot } :: (passesOf s n).erase p
        ∧ (∀ e ∈ passEntries s n p.plot, rdb u (aEntry n e 5) 63 = false)
        ∧ (∀ e ∈ passEntries s n p.plot, let h := (fbAt s n e).hyp
          rdb s (aHyp n h 11) 2 = true → rdf s (aHyp n h 12) 63 32 ≤ p.step →
          (∀ w ∈ [0, 1, 2, 4, 5, 6, 7], rd u (aHyp n h w) = rd s (aHyp n h (8 + w)))
          ∧ rdf u (aHyp n h 3) 63 32 = rdf s (aHyp n h 11) 63 32 ∧ rdb u (aHyp n h 11) 2 = false)
        ∧ touchesOnly [.granary, .advance, .stack] 0x3000_0000 [] s u)
  ∧ ((∀ s n tiller p e rest, runningPass s n = some p → p.left = e :: rest → p.begun = true → p.second = none →
      tillerUp s n tiller = true → p.groupsDone < groupTotal (fbAt s n e) →
      exec (.tillerGroupComplete n tiller .agree []) s
        = .next (settle (modPass (storeGroup s n e p (fbAt s n e) ⟨[], []⟩) n
          fun p => { p with groupsDone := p.groupsDone + 1 }))
      ∧ ∃ u, exec (.tillerGroupComplete n tiller .split []) s = .next (settle (strikeTiller u (16 * n + tiller)))
        ∧ runningPass u n = some { p with lost := true, groupsDone := p.groupsDone + 1 }
        ∧ touchesOnly [.stack] 0xA300_0000 [] s u)
  ∧ (∀ s n tiller check bad p e rest, runningPass s n = some p → p.left = e :: rest → p.begun = true →
      (tillerUp s n tiller = false ∨ groupTotal (fbAt s n e) ≤ p.groupsDone) →
      exec (.tillerGroupComplete n tiller check bad) s = .next s)
  ∧ (∀ s n p e rest, n < 12 → e < 32768 → runningPass s n = some p → p.left = e :: rest → p.begun = true →
      p.second = none → p.groupsDone = groupTotal (fbAt s n e) → p.lost = false → ∃ u,
        binStep u n e = (p.step + 1) % 2 ^ 32 ∧ rd u (aEntry n e 6) = 0
        ∧ (vrdWork u p.plot).updMax = Nat.max (vrdWork s p.plot).updMax p.updMax
        ∧ (vrdWork u p.plot).amaxMaster = Nat.max (vrdWork s p.plot).amaxMaster p.amax
        ∧ touchesOnly [.stack, .verdicts] 0x8000_0000 [] s u
        ∧ (isFp8 (fbAt s n e) = false → runningPass u n = some { p with left := rest, begun := false }
          ∧ exec (.entryPassDone n) s
            = .next (settle (nextEntry (advanceVersion u n e p.step 0x7F p.amax) n)))
        ∧ (isFp8 (fbAt s n e) = true → fp8Of s n (fbAt s n e).tensor rest ≠ [] → (∀ o ∈ rest, o < 32768) →
          runningPass u n = some
            { p with left := rest, begun := false, deferred := tins p.deferred e (p.amax + 1) }
          ∧ exec (.entryPassDone n) s = .next (settle (nextEntry u n))))
  ∧ (∀ s n p, runningPass s n = some p → p.begun = false ∨ p.second ≠ none → exec (.entryPassDone n) s = .next s)
  ∧ (∀ s n p tensor, n < 12 → runningPass s n = some p → p.second = some tensor →
        (∀ kv ∈ p.deferred, kv.1 < 32768) → ∃ u p',
        exec (.secondEncodingEnd n) s = .next (settle (nextEntry (finishTensor u n tensor) n))
        ∧ runningPass u n = some p'
        ∧ p' = { p with codes := p'.codes, again := p.again.filter (· != tensor) }
        ∧ (∀ x, x ≠ tensor → tget 0 p'.codes x = tget 0 p.codes x) ∧ 1 ≤ tget 0 p'.codes tensor
        ∧ (vrdWork u p.plot).flags = (vrdWork s p.plot).flags ||| 2 ^ 5
        ∧ (rd u (aCnt 8 n 3)).toNat = ((rd s (aCnt 8 n 3)).toNat + 1) % 2 ^ 64
        ∧ touchesOnly [.stack, .stackMemory, .verdicts] 0x8000_0000 [] s u)
  ∧ ∀ s n p, runningPass s n = some p → p.second = none → exec (.secondEncodingEnd n) s = .next s)

/-- LOCAL_VERDICT_SEND (R205, R206): when the local verdict is due the plot votes, SKIP_NEXT clears and the
record enters the plot's run; otherwise nothing changes. VERDICT_ENTRY_WRITE (R223, R224): outside FREE and
FALLOW the guarded fields keep their values. -/
def Obligations.VerdictEntries : Prop :=
  (∀ s p, localDue s p = false → exec (.localVerdictSend p) s = .next s)
  ∧ (∀ s p, p < 4096 → localDue s p = true → ∃ u, vrdState u p = vsVoting ∧ rdb u (aVerdict p 0) 53 = false
      ∧ rdf u (aVerdict p 4) 63 32 = bitsOf (wordAt (localRecord s p) 1) 31 0
      ∧ rdf u (aVerdict p 4) 31 0 = bitsOf (wordAt (localRecord s p) 1) 63 32
      ∧ touchesOnly [] (2 ^ 64) [aVerdict p 0, aVerdict p 4] s u
      ∧ exec (.localVerdictSend p) s = match contributeOwn u p (localRecord s p) with
        | none => .next u
        | some t => .next (settle t))
  ∧ (∀ s path n p v, manageable s → clusterUp s n = true → p < 4096 →
      let open' := vrdState s p = vsFree ∨ vrdState s p = vsFallow
      let a := aVerdict p
      let kept := bitsOf v 52 29 = rdf s (a 0) 52 29
      (1 ≤ bitsOf v 59 57 → lossExpOk (bitsOf v 52 45) = true → open' ∨ kept →
        ∃ t, exec (.verdictEntryWrite path n p 0 v) s = .next t ∧ rdf t (a 0) 60 54 = bitsOf v 60 54
          ∧ rdf t (a 0) 52 29 = bitsOf v 52 29 ∧ rdf t (a 0) 63 61 = rdf s (a 0) 63 61
          ∧ rdb t (a 0) 53 = rdb s (a 0) 53 ∧ touchesOnly [.recorder] 0xA000_0000 [a 0] s t)
      ∧ (1 ≤ bitsOf v 59 57 → ¬open' → ¬kept → ∃ t, exec (.verdictEntryWrite path n p 0 v) s = .next t
          ∧ rdf t (a 0) 60 54 = bitsOf v 60 54 ∧ rdf t (a 0) 52 29 = rdf s (a 0) 52 29
          ∧ rdf t (a 0) 63 61 = rdf s (a 0) 63 61 ∧ touchesOnly [] 0xA300_0000 [a 0] s t)
      ∧ (open' → ∃ t, exec (.verdictEntryWrite path n p 1 v) s = .next t ∧ rd t (a 1) = v
          ∧ touchesOnly [.recorder] 0xA000_0000 [a 1] s t)
      ∧ (¬open' → ∃ t, exec (.verdictEntryWrite path n p 1 v) s = .next t ∧ touchesOnly [] (2 ^ 64) [] s t)
      ∧ (open' → ∃ t, exec (.verdictEntryWrite path n p 2 v) s = .next t ∧ rd t (a 2) = v
          ∧ touchesOnly [.recorder] 0xA000_0000 [a 2] s t)
      ∧ (¬open' → bitsOf v 31 0 ≠ rdf s (a 2) 31 0 → ∃ t, exec (.verdictEntryWrite path n p 2 v) s = .next t
          ∧ rdf t (a 2) 63 32 = bitsOf v 63 32 ∧ rdf t (a 2) 31 0 = rdf s (a 2) 31 0
          ∧ touchesOnly [] 0xA300_0000 [a 2] s t))

/-- The commands of VRD_CMD (R225 to R228): START, FALLOW, FREE, SKIP_NEXT and QUERY, with RESULT and PLOT of
VRD_STAT; a command in another state answers 0x2A, START without an ACTIVE VERDICT group 0x2D. -/
def Obligations.VerdictCommands : Prop :=
  ∀ s path n p, manageable s → clusterUp s n = true → p < 4096 →
    let st := vrdState s p
    let answers := fun t code => rdf t (aVrdStat n) 63 56 = code ∧ rdf t (aVrdStat n) 11 0 = p
    let quiet := fun c code => ∃ t, exec c s = .next t ∧ answers t code
      ∧ touchesOnly [.recorder] 0xA000_0000 [aVrdCmd n, aVrdStat n] s t
    quiet (.verdictQuery path n p) 0
    ∧ (st = vsFree ∨ st = vsFallow → vgroupOk s p = true → ∃ u, vrdState u p = vsCollecting
        ∧ rd u (aVerdict p 6) = 0
        ∧ touchesOnly [] (2 ^ 64) [aVrdCmd n, aVerdict p 0, aVerdict p 6] s u
        ∧ exec (.verdictStart path n p) s = .next (captureWrite
          (wr (settle u) (aVrdStat n) (bitsAt 63 56 0 ||| bitsAt 11 0 p)) (aVrdCmd n) (verdictCmdWord 1 p)))
    ∧ (st = vsFree ∨ st = vsFallow → vgroupOk s p = false → quiet (.verdictStart path n p) 0x2D)
    ∧ (st ≠ vsFree → st ≠ vsFallow → quiet (.verdictStart path n p) 0x2A)
    ∧ (st = vsCollecting ∨ st = vsUnresolved → ∃ t, exec (.verdictFallow path n p) s = .next t ∧ answers t 0
        ∧ vrdState t p = vsFallow
        ∧ touchesOnly [.recorder] 0xA000_0000 [aVrdCmd n, aVrdStat n, aVerdict p 0] s t)
    ∧ (st = vsVoting ∨ st = vsApplying → ∃ t, exec (.verdictFallow path n p) s = .next t ∧ answers t 0
        ∧ vrdWork t p = { vrdWork s p with fallowDue := true } ∧ (∀ q, q ≠ p → vrdWork t q = vrdWork s q)
        ∧ touchesOnly [.verdicts, .recorder] 0xA000_0000 [aVrdCmd n, aVrdStat n] s t)
    ∧ (st = vsFallow → quiet (.verdictFallow path n p) 0)
    ∧ (st = vsFree → quiet (.verdictFallow path n p) 0x2A)
    ∧ (st = vsFallow → ∃ t, exec (.verdictFree path n p) s = .next t ∧ answers t 0 ∧ vrdState t p = vsFree
        ∧ vrdWork t p = VerdictWork.empty ∧ (∀ q, q ≠ p → vrdWork t q = vrdWork s q)
        ∧ touchesOnly [.verdicts, .recorder] 0xA000_0000 [aVrdCmd n, aVrdStat n, aVerdict p 0] s t)
    ∧ (st ≠ vsFallow → quiet (.verdictFree path n p) 0x2A)
    ∧ (st = vsCollecting → ∃ t, exec (.skipNext path n p) s = .next t ∧ answers t 0
        ∧ rdb t (aVerdict p 0) 53 = true
        ∧ touchesOnly [.recorder] 0xA000_0000 [aVrdCmd n, aVrdStat n, aVerdict p 0] s t)
    ∧ (st ≠ vsCollecting → quiet (.skipNext path n p) 0x2A)

/-- RESOLVE (R208, R227): the outcome and the fields of VRD_RESOLVE apply to the plot's STEP, which advances;
after a FIT with no turnover due the plot is APPLYING with a pass of that step queued on each of its stacks.
Codes 0x2A, 0x2B and 0x2C refuse it. -/
def Obligations.ResolveCommand : Prop :=
  ∀ s path n p, manageable s → clusterUp s n = true → p < 4096 →
    let st := vrdState s p
    let d := resolveArgs s n
    let step' := rdf s (aVrdArg0 n) 63 32
    let allowed := st = vsUnresolved ∨ st = vsCollecting ∧ d.outcome ≠ ocFit
    let quiet := fun code => ∃ t, exec (.resolve path n p) s = .next t ∧ rdf t (aVrdStat n) 63 56 = code
      ∧ rdf t (aVrdStat n) 11 0 = p ∧ touchesOnly [] (2 ^ 64) [aVrdCmd n, aVrdStat n] s t
    (¬allowed → quiet 0x2A)
    ∧ (allowed → step' ≠ plotStep s p → quiet 0x2B)
    ∧ (allowed → step' = plotStep s p → (d.outcome < 1 ∨ 4 < d.outcome) → quiet 0x2C)
    ∧ (allowed → step' = plotStep s p → 1 ≤ d.outcome → d.outcome ≤ 4 → ∃ u,
        touchesOnly [] (2 ^ 64) [aVrdCmd n] s u
        ∧ exec (.resolve path n p) s = .next (captureWrite
          (wr (settle (applyOutcome u p d)) (aVrdStat n) (bitsAt 63 56 0 ||| bitsAt 11 0 p)) (aVrdCmd n)
          (verdictCmdWord 4 p))
        ∧ (d.outcome = ocFit → sourcesDue u p (plotStep s p) = [] → plotStacks s p ≠ [] →
          let a := applyOutcome u p d
          plotStep a p = (plotStep s p + 1) % 2 ^ 32 ∧ rdf a (aVerdict p 3) 63 32 = plotStep s p
          ∧ rdf a (aVerdict p 3) 31 24 = ocFit ∧ vrdState a p = vsApplying
          ∧ rdf a (aVerdict p 6) 63 32 = (rdf s (aVerdict p 6) 63 32 + 1) % 2 ^ 32
          ∧ rdf a (aVerdict p 1) 31 0 = rdf s (aVrdArg1 n) 63 32
          ∧ rdf a (aVerdict p 2) 31 0 = rdf s (aVrdArg1 n) 31 0
          ∧ rdf a (aVerdict p 0) 52 45 = rdf s (aVrdArg0 n) 23 16
          ∧ (∀ k ∈ plotStacks s p, passesOf a k = passesOf s k ++ [Pass.empty p (plotStep s p)])
          ∧ (vrdWork a p).stacksLeft = plotStacks s p
          ∧ touchesOnly [.stack, .verdicts] 0x8000_0000 [] s a))

/-- TURN_SLOT_WRITE and the commands of FBK_TURN_CMD (R241 to R245): each in the phase it is for, with RESULT
and SLOT of FBK_TURN_STAT; in another it answers 0x30 or 0x34 and changes nothing else. ABORT leaves a FREE
slot. -/
def Obligations.TurnoverCommands : Prop :=
  ∀ s path n t, manageable s → clusterUp s n = true → t < 64 →
    let ph := turnPhase s n t
    let e := turnEntry s n t
    let slot := (List.range 4).map (aTurn n t)
    let answers := fun u code => rdf u (aTurnStat n) 63 56 = code ∧ rdf u (aTurnStat n) 5 0 = t
    let cleared := fun u => (∀ w, w < 4 → rd u (aTurn n t w) = 0) ∧ turnWork u n t = TurnWork.empty
    let quiet := fun c code => ∃ u, exec c s = .next u ∧ answers u code
      ∧ touchesOnly [] (2 ^ 64) [aTurnCmd n, aTurnStat n] s u
    let done := fun op u => captureWrite (turnReport u n t 0) (aTurnCmd n) (turnCmdWord op t)
    (∀ v, ph = tpFree → ∃ u, exec (.turnSlotWrite path n t 0 v) s = .next u ∧ answers u 0
        ∧ rdf u (aTurn n t 0) 60 8 = bitsOf v 60 8 ∧ rdf u (aTurn n t 0) 63 61 = rdf s (aTurn n t 0) 63 61
        ∧ rdf u (aTurn n t 0) 7 0 = rdf s (aTurn n t 0) 7 0
        ∧ touchesOnly [.recorder] 0xA000_0000 [aTurnStat n, aTurn n t 0] s u)
    ∧ (∀ v, ph = tpFree → ∃ u, exec (.turnSlotWrite path n t 1 v) s = .next u ∧ answers u 0
        ∧ rd u (aTurn n t 1) = v ∧ touchesOnly [.recorder] 0xA000_0000 [aTurnStat n, aTurn n t 1] s u)
    ∧ (∀ w v, ph ≠ tpFree → quiet (.turnSlotWrite path n t w v) 0x30)
    ∧ (armRefusal s n t ≠ 0 → quiet (.turnArm path n t) (armRefusal s n t))
    ∧ (armRefusal s n t = 0 → ∃ u, exec (.turnArm path n t) s = .next u ∧ answers u 0
        ∧ turnPhase u n t = tpArmed ∧ rdf u (aTurn n t 0) 7 4 = 0 ∧ rd u (aTurn n t 2) = 0
        ∧ rd u (aTurn n t 3) = 0 ∧ turnWork u n t = TurnWork.empty
        ∧ fbState u n e = (if turnDest s n t = true then esIncoming else fbState s n e)
        ∧ touchesOnly [.stack, .recorder] 0xA000_0000 (aTurnCmd n :: aTurnStat n :: aEntry n e 0 :: slot) s u)
    ∧ (ph = tpFree → quiet (.turnAbort path n t) 0x34)
    ∧ (ph ≠ tpFree → ∃ u, touchesOnly [] (2 ^ 64) [aTurnCmd n] s u ∧ cleared (turnAbort u n t)
        ∧ exec (.turnAbort path n t) s = .next (done 2 (settle (turnAbort u n t))))
    ∧ (ph = tpArmed → turnDest s n t = false → fbState s n e ≠ esOutgoing → ∃ u,
        exec (.turnAbort path n t) s = .next (done 2 (settle u)) ∧ cleared u
        ∧ touchesOnly [.stack] (2 ^ 64) (aTurnCmd n :: slot) s u)
    ∧ (ph ≠ tpFailed → quiet (.turnRestart path n t) 0x34)
    ∧ (ph = tpFailed → turnDest s n t = true → ∃ u, exec (.turnRestart path n t) s = .next u ∧ answers u 0
        ∧ turnPhase u n t = tpMoving ∧ rdf u (aTurn n t 0) 7 4 = 0 ∧ turnDone u n t = 0
        ∧ (turnWork u n t).nextPage = 0 ∧ (turnWork u n t).checks = []
        ∧ touchesOnly [.stack, .recorder] 0xA000_0000 (aTurnCmd n :: aTurnStat n :: slot) s u)
    ∧ (ph = tpFailed → turnDest s n t = false → ∃ u, exec (.turnRestart path n t) s
          = .next (done 3 (sendPages u n t 0))
        ∧ turnPhase u n t = tpMoving ∧ rdf u (aTurn n t 0) 7 4 = 0
        ∧ touchesOnly [] (2 ^ 64) [aTurnCmd n, aTurn n t 0] s u)
    ∧ (ph ≠ tpHanded → quiet (.turnFinish path n t) 0x34)
    ∧ (ph = tpHanded → turnDest s n t = true → ∃ u, exec (.turnFinish path n t) s = .next u ∧ answers u 0
        ∧ cleared u ∧ touchesOnly [.stack, .recorder] 0xA000_0000 (aTurnCmd n :: aTurnStat n :: slot) s u)
    ∧ (ph = tpHanded → turnDest s n t = false → ∃ u, exec (.turnFinish path n t) s = .next u ∧ answers u 0
        ∧ cleared u ∧ (∀ w, w < 8 → rd u (aEntry n e w) = 0)
        ∧ touchesOnly [.stack, .recorder] 0x8000_0000 [] s u)
    ∧ ∃ u, exec (.turnQuery path n t) s = .next u ∧ answers u 0
        ∧ touchesOnly [.recorder] 0xA000_0000 [aTurnCmd n, aTurnStat n] s u

/-- TURNOVER packets from a port (R248, R250, R251): their credits return; a PAGE in order with its check right
is stored and no other byte changes; a DONE that fits starts the verification; CONFIRM hands over, a
MISMATCH reject and an ABORT fail the slot; a packet for a stack out of service is dropped and counted. -/
def Obligations.TurnoverPackets : Prop :=
  ∀ s port fr, port < 512 → fr.hdr.type = tTurnover →
    let k := turnPktOf fr
    let n := k.dstStack
    let x := fun t => fbAt s n (turnEntry s n t)
    k.src ≠ deviceId s →
    (clusterUp s n = true →
      (∀ t, k.kind = tkPage → turnMatch s k true = some t → turnPhase s n t = tpArmed ∨ turnPhase s n t = tpMoving →
        k.page = (turnWork s n t).nextPage → crc32c k.body = k.check → k.page < pageTotal (x t) →
        ∃ u, exec (.page port fr) s = .next (settle u)
          ∧ (∀ i, i < k.body.length → readByte 0x00 u.stk.hbm (hbmKey n (pageAddr (x t) copyArrays k.page) + i)
            = k.body.getD i 0x00)
          ∧ (∀ a, a < hbmKey n (pageAddr (x t) copyArrays k.page)
            ∨ hbmKey n (pageAddr (x t) copyArrays k.page) + k.body.length ≤ a →
            readByte 0x00 u.stk.hbm a = readByte 0x00 s.stk.hbm a)
          ∧ turnWork u n t = { turnWork s n t with
            nextPage := k.page + 1, checks := (turnWork s n t).checks ++ [k.check], rejected := false }
          ∧ turnPhase u n t = tpMoving ∧ turnTotal u n t = k.total ∧ turnDone u n t = (k.page + 1) % 2 ^ 24
          ∧ touchesOnly [.links, .stack, .stackMemory] 0x1000_0000 [] s u)
      ∧ (∀ t, k.kind = tkPage → turnMatch s k true = some t → turnPhase s n t = tpArmed ∨ turnPhase s n t = tpMoving →
        k.page < (turnWork s n t).nextPage → ∃ u, exec (.page port fr) s = .next (settle u)
          ∧ touchesOnly [.links] 0x1000_0000 [aCredit port fr.hdr.furrow] s u)
      ∧ (∀ t, k.kind = tkDone → turnMatch s k true = some t → turnPhase s n t = tpMoving →
        turnTotal s n t ≤ turnDone s n t → sameShard (fbOf (wordsOfLe 8 k.body)) (x t) = true →
        bitsOf (wordAt (wordsOfLe 8 k.body) 1) 31 16 = turnBoundary s n t % 2 ^ 16 →
        ∃ u, exec (.done port fr) s = .next (settle u) ∧ turnPhase u n t = tpVerifying
          ∧ turnWork u n t
            = { turnWork s n t with doneWords := wordsOfLe 8 k.body, doneCheck := k.check }
          ∧ touchesOnly [.links, .stack] 0x1000_0000 [] s u)
      ∧ (∀ t, k.kind = tkConfirm → turnMatch s k false = some t → copying s n t = true →
        ∃ u, exec (.confirm port fr) s = .next (settle u) ∧ turnPhase u n t = tpHanded
          ∧ touchesOnly [.links] 0x1000_0000 [] s u)
      ∧ (∀ t ecc, k.kind = tkReject → turnMatch s k false = some t → copying s n t = true → k.reason = trMismatch →
        ∃ u, exec (.reject port fr ecc) s = .next (settle u) ∧ turnPhase u n t = tpFailed
          ∧ rdf u (aTurn n t 2) 15 8 = trMismatch ∧ touchesOnly [.links] 0x1000_0000 [] s u)
      ∧ (∀ t, k.kind = tkAbort → turnMatch s k false = some t ∨
          turnMatch s k false = none ∧ turnMatch s k true = some t →
        ∃ u, exec (.peerAbort port fr) s = .next (settle u) ∧ turnPhase u n t = tpFailed
          ∧ rdf u (aTurn n t 2) 15 8 = trPeerAbort ∧ touchesOnly [.links] 0x1000_0000 [] s u)
      ∧ (∀ c, turnMatch s k false = none → c = .confirm port fr ∧ k.kind = tkConfirm
          ∨ (∃ ecc, c = .reject port fr ecc ∧ k.kind = tkReject) →
        ∃ u, exec c s = .next (settle u) ∧ touchesOnly [.links] 0x1000_0000 [aCredit port fr.hdr.furrow] s u))
    ∧ (clusterUp s n = false → n < 12 → ∀ row ∈ [(Instr.page, tkPage), (Instr.done, tkDone),
        (Instr.confirm, tkConfirm), (Instr.peerAbort, tkAbort)], k.kind = row.2 →
        ∃ u, exec (row.1 port fr) s = .next u
          ∧ (rd u (aCnt 8 n 4)).toNat = ((rd s (aCnt 8 n 4)).toNat + 1) % 2 ^ 64
          ∧ touchesOnly [.links] 0x1000_0000 [aCredit port fr.hdr.furrow] s u)

/-- VERIFYING_END and TURNOVER_TIMEOUT at a destination (R250), DONE_TIMEOUT and NOT_ARMED_RESEND at a source
(R251): the slot's phase, attempts and pages; a slot past RETRIES is FAILED. In any other phase nothing
changes. -/
def Obligations.TurnoverTimers : Prop :=
  ∀ s n t, n < 12 → t < 64 →
    let ph := turnPhase s n t
    let w := turnWork s n t
    let e := turnEntry s n t
    let x := fbAt s n e
    let tried := rdf s (aTurn n t 0) 7 4 + 1
    let past := rdf s (aTurnCfg n) 23 20 < tried
    (turnDest s n t = false ∨ ph ≠ tpVerifying → exec (.verifyingEnd n t) s = .next s)
    ∧ (∀ i, turnDest s n t = true → ph = tpVerifying →
        (List.range w.checks.length).find? (fun i => crc32c (pageOf s n x i) != w.checks.getD i 0) = some i →
        ∃ u, exec (.verifyingEnd n t) s = .next u ∧ turnPhase u n t = tpMoving ∧ turnDone u n t = i % 2 ^ 24
          ∧ turnWork u n t = { w with nextPage := i, checks := w.checks.take i, rejected := true }
          ∧ rdf u (aTurn n t 2) 15 8 = trListCrc)
    ∧ (turnDest s n t = true → ph = tpVerifying →
        (∀ i, i < w.checks.length → crc32c (pageOf s n x i) = w.checks.getD i 0) → listCrc w.checks = w.doneCheck →
        ∃ u, exec (.verifyingEnd n t) s = .next (settle (retryJudgements u n)) ∧ turnPhase u n t = tpHanded
          ∧ fbState u n e = esActive ∧ rd u (aEntry n e 4) = wordAt w.doneWords 4
          ∧ binStep u n e = turnBoundary s n t ∧ rd u (aEntry n e 6) = 0)
    ∧ (turnDest s n t = false ∨ ph ≠ tpMoving → exec (.turnoverTimeout n t) s = .next s)
    ∧ (turnDest s n t = true → ph = tpMoving → ∃ u, exec (.turnoverTimeout n t) s = .next u
        ∧ rdf u (aTurn n t 0) 7 4 = Nat.min 15 tried ∧ rdf u (aTurn n t 2) 15 8 = trTimeout
        ∧ turnPhase u n t = (if past then tpFailed else tpMoving))
    ∧ (turnDest s n t = true ∨ ph ≠ tpVerifying → exec (.doneTimeout n t) s = .next s)
    ∧ (turnDest s n t = false → ph = tpVerifying → ∃ u, rdf u (aTurn n t 0) 7 4 = Nat.min 15 tried
        ∧ turnPhase u n t = (if past then tpFailed else tpVerifying)
        ∧ touchesOnly [] 0xA300_0000 [aTurn n t 0, aTurn n t 2] s u
        ∧ exec (.doneTimeout n t) s = .next (if past then u else sendDone u n t))
    ∧ (turnDest s n t = true ∨ ph ≠ tpMoving ∨ rdf s (aTurn n t 2) 15 8 ≠ trNotArmed →
        exec (.notArmedResend n t) s = .next s)
    ∧ (turnDest s n t = false → ph = tpMoving → rdf s (aTurn n t 2) 15 8 = trNotArmed →
        exec (.notArmedResend n t) s = .next (sendPages s n t 0))

/-- STRAP_ACCEPT and STRAP_CHANGED (R329, R330): at step 2 an odd and legal value is accepted; an even one and
an illegal one halt the start with codes 2 and 3. A later change is marked and logged and changes no strap.
STARTUP_STEP_COMPLETE and STARTUP_STEP_TIMEOUT (R397, R398): steps without a failure follow one another;
step 14 leaves the device Ready with the clusters of this start in service; a step that fails or runs out of
time halts the start with its code. Outside a start nothing changes. -/
def Obligations.StartRows : Prop :=
  ((∀ s pins, starting s = true → bootStep s = 2 → rdf s aStrap 41 40 = 0 →
      (oddOnes pins = true → strapLegal pins = true → ∃ t, exec (.strapAccept pins) s = .next t
        ∧ rd t aStrap = strapWord pins 1 ∧ t.el = { s.el with strapPins := pins }
        ∧ touchesOnly [.electrical] (2 ^ 64) [aStrap] s t)
      ∧ (∀ status code, oddOnes pins = false ∧ status = 2 ∧ code = 2
          ∨ oddOnes pins = true ∧ strapLegal pins = false ∧ status = 3 ∧ code = 3 →
        ∃ t, exec (.strapAccept pins) s = .next t ∧ rd t aStrap = strapWord pins status ∧ isHalted t = true
          ∧ rdf t aBoot 47 40 = code ∧ rdb t aAlert 63 = true ∧ t.flashA = s.flashA ∧ t.flashB = s.flashB))
  ∧ (∀ s pins, starting s = false ∨ bootStep s ≠ 2 ∨ rdf s aStrap 41 40 ≠ 0 →
      exec (.strapAccept pins) s = .next s)
  ∧ (∀ s pins, inReset s = false → rdf s aStrap 41 40 ≠ 0 → pins ≠ s.el.strapPins →
      ∃ t, exec (.strapChanged pins) s = .next t ∧ rdb t aStrap 39 = true
        ∧ rdf t aStrap 63 40 = rdf s aStrap 63 40 ∧ t.el = { s.el with strapPins := pins }
        ∧ touchesOnly [.electrical] 0xA300_0000 [aStrap] s t)
  ∧ ∀ s pins, inReset s = true ∨ rdf s aStrap 41 40 = 0 ∨ pins = s.el.strapPins →
      exec (.strapChanged pins) s = .next s)
  ∧ ((∀ s r failed, starting s = false → exec (.startupStepComplete r) s = .next s
      ∧ exec (.startupStepTimeout failed) s = .next s)
  ∧ (∀ s r, starting s = true → (bootStep s = 2 ∧ rdf s aStrap 41 40 = 1
        ∨ (bootStep s = 8 ∨ bootStep s = 11 ∧ r.badSection = none) ∧ r.failed = [] ∨ bootStep s = 13) →
      ∃ t, exec (.startupStepComplete r) s = .next t ∧ bootStep t = bootStep s + 1 ∧ starting t = true
        ∧ t.flashA = s.flashA ∧ t.flashB = s.flashB ∧ t.mg = s.mg ∧ t.el = s.el)
  ∧ (∀ s r, starting s = true → bootStep s = 2 → rdf s aStrap 41 40 ≠ 1 →
      exec (.startupStepComplete r) s = .next s)
  ∧ (∀ s r, starting s = true → bootStep s = 1 → r.ok = true →
      exec (.startupStepComplete r) s = .next (openStart s))
  ∧ (∀ s r, starting s = true → bootStep s = 14 → r.ok = true →
      ∃ t, exec (.startupStepComplete r) s = .next t ∧ isReady t = true
        ∧ (∀ n, n < 12 → skipped s n = false → clusterUp t n = true)
        ∧ (∀ n, n < 12 → skipped s n = true → clusterUp t n = clusterUp s n)
        ∧ touchesOnly [.queuedWork, .startState] 0 [] s t)
  ∧ (∀ s r code, starting s = true → bootStep s = 1 ∧ code = jrTimeout ∨ bootStep s = 3 ∧ code = jrRomCheck
        ∨ bootStep s = 9 ∧ r.badSection = none ∧ code = jrTimeout ∨ bootStep s = 14 ∧ code = jrTimeout →
      r.ok = false → ∃ t, exec (.startupStepComplete r) s = .next t ∧ isHalted t = true
        ∧ rdf t aBoot 47 40 = code ∧ rdb t aAlert 63 = true ∧ bootStep t = bootStep s)
  ∧ (∀ s failed, starting s = true → bootStep s ∈ [1, 2, 3, 4, 5, 9, 12, 14] →
      ∃ t, exec (.startupStepTimeout failed) s = .next t ∧ isHalted t = true
        ∧ rdf t aBoot 47 40 = jrTimeout ∧ rdb t aAlert 63 = true ∧ bootStep t = bootStep s)
  ∧ ∀ s, starting s = true → bootStep s = 13 → ∃ t, exec (.startupStepTimeout []) s = .next t
      ∧ bootStep t = 14 ∧ starting t = true)

/-- POR_ASSERT, WARM_RESET_ASSERT and SYSCLK_LOSS (R400, R422, R460) leave every part as reset leaves it but the
flashes, the fuses and the pins; a program in progress is cut short. POR_RELEASE and WARM_RESET_RELEASE
(R400, R460): with both pins high the start begins, a cold one at step 1 and a warm one at step 2 with its
START record; a pin that is not low has no release. SVN_ADVANCE_DONE (R412): the fuses show the security
version reached. -/
def Obligations.ResetAndRelease : Prop :=
  (∀ s, s.boot.svnTarget = 0 → s.boot.fuseWork = none → s.boot.flashJobs = [] →
    let r := State.reset
    let clean := fun t => (∀ a, a ≠ aFuse → rd t a = rd r a) ∧ rdf t aFuse 63 49 = rdf s aFuse 63 49
      ∧ rdf t aFuse 48 0 = 0 ∧ t.boot.slotHashes = s.boot.slotHashes ∧ t.flashA = s.flashA
      ∧ t.flashB = s.flashB ∧ t.boot.flashJobs = [] ∧ t.el.strapPins = s.el.strapPins
      ∧ t.el.railsDown = s.el.railsDown ∧ t.el.tap = s.el.tap ∧ t.pending = s.pending
      ∧ ∀ p, p ∉ [Part.electrical, .flashes, .startState] → p.same r t
    (∃ t, exec .porAssert s = .next t ∧ clean t ∧ t.boot.porLow = true ∧ t.boot.warmLow = s.boot.warmLow
        ∧ t.boot.cold = true ∧ t.el.tripped = false)
    ∧ (s.boot.porLow = false → ∃ t, exec .warmResetAssert s = .next t ∧ clean t ∧ t.boot.warmLow = true
        ∧ t.boot.cold = (s.boot.cold && inReset s) ∧ t.el.tripped = s.el.tripped)
    ∧ (s.boot.porLow = true → exec .warmResetAssert s
        = .next { s with boot := { s.boot with warmLow := true, cold := s.boot.cold && inReset s } })
    ∧ ∃ t, exec .sysclkLoss s = .next t ∧ clean t ∧ t.boot.resetHeld = true ∧ t.el.sysclkLost = true
        ∧ t.boot.cold = (s.boot.cold && inReset s))
  ∧ ((∀ s, s.boot.porLow = false → exec .porRelease s = .next s)
  ∧ (∀ s, s.boot.warmLow = false → exec .warmResetRelease s = .next s)
  ∧ (∀ s row, row = Instr.porRelease ∧ s.boot.porLow = true ∧ s.boot.warmLow = false
        ∨ row = Instr.warmResetRelease ∧ s.boot.warmLow = true ∧ s.boot.porLow = false → ∃ u,
      u = { s with
        boot := { s.boot with porLow := false, warmLow := false, resetHeld := false },
        el := { s.el with sysclkLost := false } }
      ∧ (s.boot.cold = true → ∃ t, exec row s = .next t ∧ bootStep t = 1 ∧ t.boot = u.boot ∧ t.el = u.el
          ∧ changesOnly [] [(aBoot, 63, 60)] u t)
      ∧ (s.boot.cold = false → exec row s = .next (openStart u) ∧ bootStep (openStart u) = 2
          ∧ rdb (openStart u) aBoot 57 = false
          ∧ touchesOnly [.queuedWork, .startState] (2 ^ 64) [aBoot] u (openStart u)))
  ∧ (∀ s, s.boot.porLow = true → s.boot.warmLow = true → exec .warmResetRelease s
      = .next { s with boot := { s.boot with warmLow := false } })
  ∧ (∀ s, s.boot.svnTarget = 0 → exec .svnAdvanceDone s = .next s)
  ∧ ∀ s, s.boot.svnTarget ≠ 0 → ∃ t, exec .svnAdvanceDone s = .next t
      ∧ rdf t aFuse 63 57 = s.boot.svnTarget % 128 ∧ rdf t aFuse 56 0 = rdf s aFuse 56 0
      ∧ t.boot.svnTarget = 0 ∧ touchesOnly [.queuedWork, .startState] (2 ^ 64) [aFuse] s t)

/-- STRIKE_EXPIRY (R376), MIGRATION_DONE (R382), LEDGER_WRITE_RETRY (R379), FIELD_TEST_START and FIELD_TEST_END
(R381, R383) and DRAIN_TIMEOUT (R386, R387): what each leaves of strikes, jobs, core states and flashes. -/
def Obligations.FaultTimers : Prop :=
  (∀ s u, u < 108 → coreState s u ≠ csRetired → ∃ t, exec (.strikeExpiry .core u) s = .next t
      ∧ tget [] t.cores.strikes u = (tget [] s.cores.strikes u).drop 1
      ∧ (∀ v, v ≠ u → tget [] t.cores.strikes v = tget [] s.cores.strikes v)
      ∧ rdf t (aFltCore u) 60 59 = (tget [] t.cores.strikes u).length % 4
      ∧ changesOnly [.cores] [(aFltCore u, 60, 59)] s t)
  ∧ (∀ s u, coreState s u = csRetired → exec (.strikeExpiry .core u) s = .next s)
  ∧ (∀ s u, ∃ t, exec (.strikeExpiry .tiller u) s = .next t
      ∧ tget [] t.cores.tillerStrikes u = (tget [] s.cores.tillerStrikes u).drop 1
      ∧ (∀ v, v ≠ u → tget [] t.cores.tillerStrikes v = tget [] s.cores.tillerStrikes v)
      ∧ changesOnly [.cores] [] s t)
  ∧ (∀ s u cycles, takerOf s u = none → exec (.migrationDone u cycles) s = .next s)
  ∧ (∀ s u t cycles key k role ret, takerOf s u = some t → jobOf s t = some (.takeover u ret) →
      jobOf s u = some (.run key k role) → ∃ m, exec (.migrationDone u cycles) s = .next (settle m)
        ∧ m = takeOver s u t cycles ret
        ∧ (ret = false → u < 108 → jobOf m t = some (.run key k role) ∧ jobOf m u = some .test
          ∧ coreState m u = csTesting ∧ (coreState s t = csReserve → coreState m t = csActive)))
  ∧ (∀ s written, s.boot.ledgerDue = [] → exec (.ledgerWriteRetry written) s = .next s)
  ∧ (∀ s f r rest, s.boot.ledgerDue = (f, r) :: rest → ∃ u, u = { s with boot := { s.boot with ledgerDue := rest } }
      ∧ exec (.ledgerWriteRetry false) s = .next (ledgerFailed u f r)
      ∧ ∃ t, exec (.ledgerWriteRetry true) s = .next t
        ∧ (∀ i, i < (leOfWords (s.boot.ledger.getD r [])).length →
          readByte flashFill (flashOf t f) (ledgerOffset s r + i) = (leOfWords (s.boot.ledger.getD r [])).getD i 0xFF)
        ∧ (∀ a, a < ledgerOffset s r ∨ ledgerOffset s r + (leOfWords (s.boot.ledger.getD r [])).length ≤ a →
          readByte flashFill (flashOf t f) a = readByte flashFill (flashOf s f) a)
        ∧ t.boot = u.boot ∧ touchesOnly [.flashes, .queuedWork] (2 ^ 64) [] s t)
  ∧ (∀ s n, clusterUp s n = false ∨ rdb s aFltCfg 63 = false ∨ testRuns s n = true ∨ testChoice s n = none →
      exec (.fieldTestStart n) s = .next s)
  ∧ (∀ s n r u, clusterUp s n = true → rdb s aFltCfg 63 = true → testRuns s n = false →
      testChoice s n = some u → reserveOf s n = some r → jobOf s r = none → jobOf s u = none → u < 108 →
      ∃ t, exec (.fieldTestStart n) s = .next (settle t) ∧ coreState t u = csTesting ∧ jobOf t u = some .test
        ∧ (r ≠ u → coreState t r = csActive) ∧ tget 0 t.cores.testNext n = 0
        ∧ touchesOnly [.cores] (2 ^ 64) [aCapAvail, aFltCore u, aFltCore r] s t)
  ∧ (∀ s n passed, (∀ u ∈ coresOf n, coreState s u ≠ csTesting) → exec (.fieldTestEnd n passed) s = .next s)
  ∧ (∀ s n u, n < 12 → (coresOf n).find? (fun u => coreState s u == csTesting) = some u →
      exec (.fieldTestEnd n false) s = .next (settle (retireCore (setJob s u []) u 2))
      ∧ ∃ t, exec (.fieldTestEnd n true) s = .next (settle t) ∧ jobOf t u = none
        ∧ rdf t (aFltCore u) 55 32 = Nat.min 0xFFFFFE (now s / 60000000000)
        ∧ coreState t u = (if reserveOf s n = none ∧ 8 < ((coresOf n).filter (coreServes s)).length then csReserve
          else csActive)
        ∧ touchesOnly [.cores] (2 ^ 64) [aCapAvail, aFltCore u] s t)
  ∧ (∀ s u, coreState s u = csFallow ∨ coreState s u = csMigrating →
      exec (.drainTimeout .core u) s = .next (settle (drainCore s u)))
  ∧ (∀ s u, coreState s u ≠ csFallow → coreState s u ≠ csMigrating →
      exec (.drainTimeout .core u) s = .next s)
  ∧ ∀ s n, clusterUp s n = true → exec (.drainTimeout .cluster n) s = .next s

/-- FLT_CMD (R393, R394): a unit that does not exist answers 0x80, a command in the wrong state 0x81; TEST_NOW
marks the core to test next, REINSTATE adds a ledger record, RETIRE takes the unit out of service. -/
def Obligations.FaultCommands : Prop :=
  ∀ s path kind u, manageable s → 1 ≤ kind → kind ≤ 4 → u < 65536 →
    let answers := fun t code => rdf t aFltStat 63 56 = code ∧ rdf t aFltStat 19 16 = kind
      ∧ rdf t aFltStat 15 0 = u
    let quiet := fun c code => ∃ t, exec c s = .next t ∧ answers t code
      ∧ touchesOnly [.recorder] 0xA000_0000 [] s t
      ∧ ∀ a, 0xA200_0000 ≤ a → a < 0xA300_0000 → a ≠ aFltCmd → a ≠ aFltStat → rd t a = rd s a
    (∀ c ∈ [Instr.retire path kind u, .reinstate path kind u, .testNow path kind u, .fltQuery path kind u],
        unitCount kind ≤ u → quiet c 0x80)
    ∧ (kind ≠ 1 → quiet (.testNow path kind u) 0x80)
    ∧ (u < unitCount kind → quiet (.fltQuery path kind u) 0)
    ∧ (kind = 1 → u < 108 → ∃ t, exec (.testNow path kind u) s = .next t ∧ answers t 0
        ∧ tget 0 t.cores.testNext (u / 9) = u + 1
        ∧ (∀ n, n ≠ u / 9 → tget 0 t.cores.testNext n = tget 0 s.cores.testNext n)
        ∧ t.cores = { s.cores with testNext := t.cores.testNext }
        ∧ touchesOnly [.cores, .recorder] 0xA000_0000 [] s t)
    ∧ (u < unitCount kind → unitRetired s kind u = true → quiet (.retire path kind u) 0x81)
    ∧ (u < unitCount kind → unitRetired s kind u = false → quiet (.reinstate path kind u) 0x81)
    ∧ (u < unitCount kind → unitRetired s kind u = false → s.boot.ledger.length < 1024 →
        ∃ v, touchesOnly [] (2 ^ 64) [aFltCmd] s v
        ∧ exec (.retire path kind u) s = .next (captureWrite
          (wr (settle (retireUnit v kind u)) aFltStat (bitsAt 63 56 0 ||| bitsAt 19 16 kind ||| bitsAt 15 0 u))
          aFltCmd (fltCmdWord 1 kind u)))
    ∧ (u < unitCount kind → unitRetired s kind u = true → s.boot.ledger.length < 1024 →
        ∃ t r, exec (.reinstate path kind u) s = .next t ∧ answers t 0
        ∧ t.boot.ledger = s.boot.ledger ++ [r] ∧ bitsOf (wordAt r 0) 63 60 = 2
        ∧ bitsOf (wordAt r 0) 59 56 = kind ∧ bitsOf (wordAt r 0) 55 40 = u
        ∧ touchesOnly [.queuedWork, .recorder] 0xA000_0000 [] s t)
    ∧ (u < unitCount kind → unitRetired s kind u = true → 1024 ≤ s.boot.ledger.length →
        ∃ t, exec (.reinstate path kind u) s = .next t ∧ answers t 0x82 ∧ t.boot = s.boot
        ∧ touchesOnly [.recorder] 0xA000_0000 [] s t)

/-- SEC_CMD (R413, R414, R426, R427): a slot change not over the Hitch link answers 0x96, a command while one
runs 0x90, one before Ready 0x91, a grant that fails a check its code; QUOTE, VERIFY_COPY and a slot change
begin otherwise, BUSY 1, 2 and 3. -/
def Obligations.SecurityCommands : Prop :=
  ∀ s path slot, manageable s → slot < 4 →
    let rows := [(Instr.quote path, 1), (Instr.verifyCopy path, 2), (Instr.programSlot path slot, 3),
      (Instr.revokeSlot path slot, 4)]
    let quiet := fun c code => ∃ t, exec c s = .next t ∧ rdf t aSecStat 63 56 = code
      ∧ rdf t aSecStat 55 0 = rdf s aSecStat 55 0 ∧ touchesOnly [] (2 ^ 64) [aSecCmd, aSecStat] s t
    let begun := fun c busy boot => ∃ t, exec c s = .next t ∧ rdf t aSecStat 63 56 = 0
      ∧ rdf t aSecStat 55 54 = busy ∧ rdf t aSecStat 53 0 = rdf s aSecStat 53 0 ∧ t.boot = boot
      ∧ touchesOnly [.startState, .recorder] 0xA000_0000 [aSecCmd, aSecStat] s t
    (∀ row ∈ rows, 3 ≤ row.2 → path ≠ 0 → quiet row.1 0x96)
    ∧ (∀ row ∈ rows, (row.2 < 3 ∨ path = 0) → secBusy s ≠ 0 → quiet row.1 0x90)
    ∧ (∀ row ∈ rows, (row.2 < 3 ∨ path = 0) → secBusy s = 0 → isReady s = false → quiet row.1 0x91)
    ∧ (secBusy s = 0 → isReady s = true → begun (.quote path) 1 { s.boot with quoteWork := quoteBody s }
      ∧ begun (.verifyCopy path) 2 s.boot)
    ∧ ∀ row ∈ rows, 3 ≤ row.2 → path = 0 → secBusy s = 0 → isReady s = true →
      (grantFault s row.2 slot ≠ 0 → quiet row.1 (grantFault s row.2 slot))
      ∧ (grantFault s row.2 slot = 0 → begun row.1 3 { s.boot with
        fuseWork := some (row.2, slot), fuseHash := if row.2 = 3 then grantBytes s 16 32 else [] })

/-- QUOTE_DONE (R417), VERIFY_COPY_DONE (R409, R413), SLOT_FUSES_DONE (R414), FLASH_WRITE (R411, R439) and
FLASH_PROGRAM_DONE: the quote buffer, the result, the slot's fuses, and the flashes' jobs and bytes. -/
def Obligations.SecurityEnds : Prop :=
  (∀ s sig, secBusy s ≠ 1 → exec (.quoteDone sig) s = .next s)
  ∧ (∀ s sig, secBusy s = 1 → ∃ t, exec (.quoteDone sig) s = .next t
      ∧ t.boot = { s.boot with quote := padTo 392 s.boot.quoteWork ++ padTo 29792 sig, quoteWork := [] }
      ∧ rdf t aSecStat 63 54 = 0 ∧ rdf t aSecStat 31 0 = (rdf s aSecStat 31 0 + 1) % 2 ^ 32
      ∧ touchesOnly [.startState] (2 ^ 64) [aSecStat] s t)
  ∧ (∀ s copy bad, secBusy s ≠ 2 → exec (.verifyCopyDone copy bad) s = .next s)
  ∧ (∀ s copy bad, secBusy s = 2 → ∃ t, exec (.verifyCopyDone copy bad) s = .next t
      ∧ rdf t aSecStat 55 54 = 0 ∧ rdf t aSecStat 53 0 = rdf s aSecStat 53 0
      ∧ rdf t aSecStat 63 56 = (if copyFault s copy = jrOk ∧ bad.isSome then jrSectionDigest
        else copyFault s copy)
      ∧ touchesOnly [] (2 ^ 64) [aSecStat] s t)
  ∧ (∀ s, s.boot.fuseWork = none → exec .slotFusesDone s = .next s)
  ∧ (∀ s slot, slot < 4 → s.boot.fuseWork = some (3, slot) → ∃ t, exec .slotFusesDone s = .next t
      ∧ slotValid t slot = true ∧ (∀ k, k < 4 → slotRevoked t k = slotRevoked s k)
      ∧ (∀ k, k < 4 → k ≠ slot → slotValid t k = slotValid s k ∧ hashBytes t k = hashBytes s k)
      ∧ (s.boot.fuseHash.length = 32 → hashBytes t slot = s.boot.fuseHash)
      ∧ rdf t aSecStat 63 54 = 0 ∧ touchesOnly [.startState] (2 ^ 64) [aFuse, aSecStat] s t)
  ∧ (∀ s slot, slot < 4 → s.boot.fuseWork = some (4, slot) → ∃ t, exec .slotFusesDone s = .next t
      ∧ slotRevoked t slot = true ∧ (∀ k, k < 4 → slotValid t k = slotValid s k ∧ hashBytes t k = hashBytes s k)
      ∧ rdf t aSecStat 63 54 = 0 ∧ touchesOnly [.startState] (2 ^ 64) [aFuse, aSecStat] s t)
  ∧ (∀ s path f off v, manageable s → off % 8 = 0 →
      let top := tget 0 s.mg.flashTop (sectorKey f off)
      let opens := flashWritable s f off = true ∧ (off % 65536 = 0 ∨ top ≠ 0 ∧ top ≤ off)
      let job : FlashJob := ⟨f, off, leBytes 8 v.toNat, decide (off % 65536 = 0), .path path⟩
      (¬opens → exec (.flashWrite path f off v) s = .next s)
      ∧ (opens → ∃ t, exec (.flashWrite path f off v) s = .next t
          ∧ t.boot.flashJobs = s.boot.flashJobs ++ [job]
          ∧ tget 0 t.mg.flashTop (sectorKey f off) = off + 8 ∧ t.flashA = s.flashA ∧ t.flashB = s.flashB
          ∧ (imageBase ≤ off → secBusy s = 2 → rdf t aSecStat 63 56 = 0x94 ∧ rdf t aSecStat 55 54 = 0)
          ∧ touchesOnly [.queuedWork, .management, .recorder] 0xA000_0000 [aSecStat] s t))
  ∧ (∀ s f written, flashJob s f = none → exec (.flashProgramDone f written) s = .next s)
  ∧ ∀ s f job path, flashJob s f = some job → job.who = .path path → job.erase = false → f < 2 →
      s.mg.held = none → s.mg.heldOrders = [] → s.mg.queue = [] → s.mg.orderQueue = [] →
      ∃ t, exec (.flashProgramDone f true) s = .next t
      ∧ (∀ i, i < job.bytes.length → readByte flashFill (flashOf t f) (job.offset + i) = job.bytes.getD i 0xFF)
      ∧ (∀ a, a < job.offset ∨ job.offset + job.bytes.length ≤ a →
        readByte flashFill (flashOf t f) a = readByte flashFill (flashOf s f) a)
      ∧ flashOf t (1 - f) = flashOf s (1 - f)
      ∧ touchesOnly [.flashes, .queuedWork] (2 ^ 64) [] s t

/-- HELLO, HITCH_READ and HITCH_WRITE (R431 to R434): a frame with a bad CRC is counted and dropped, one beyond
32 held requests is answered BUSY; a HELLO agrees the version and clears the stored responses; a request
whose tag still has its SEQ is answered again and executed no more; a new READ or WRITE is executed. -/
def Obligations.HitchRequests : Prop :=
  ∀ row ∈ [Instr.hello, Instr.hitchRead, Instr.hitchWrite], ∀ s f,
    let sent := fun t ws => t.mg.sent = s.mg.sent ++ [ws ++ [bitsAt 31 0 (frameCrc ws)]]
    (mgmtUp s = false → exec (row f) s = .next s)
    ∧ (mgmtUp s = true → f.crcOk = false → ∃ t, exec (row f) s = .next t
        ∧ rdf t aHtcStat 47 32 = Nat.min 0xFFFF (rdf s aHtcStat 47 32 + 1)
        ∧ changesOnly [] [(aHtcStat, 47, 32)] s t)
    ∧ (mgmtUp s = true → f.crcOk = true → 32 ≤ requestsHeld s → ∃ t, exec (row f) s = .next t
        ∧ sent t (response f 0 0x04 0 [])
        ∧ rdf t aHtcStat 31 16 = Nat.min 0xFFFF (rdf s aHtcStat 31 16 + 1)
        ∧ t.mg = { s.mg with sent := t.mg.sent } ∧ changesOnly [.management] [(aHtcStat, 31, 16)] s t)
    ∧ (mgmtUp s = true → f.crcOk = true → requestsHeld s < 32 → s.mg.held ≠ none → ∃ t,
        exec (row f) s = .next t ∧ t.mg = { s.mg with queue := s.mg.queue ++ [f] }
        ∧ changesOnly [.management] [] s t)
    ∧ (mgmtUp s = true → f.crcOk = true → s.mg.held = none → s.mg.queue = [] →
      (f.type = 1 → helloBad f = false → ∃ t, exec (row f) s = .next t ∧ t.mg.stored = []
        ∧ t.mg.helloDone = (agreedHitch (bitsOf f.w1 3 0) (bitsOf f.w1 7 4) == 1)
        ∧ rdf t aHtcStat 61 58 = agreedHitch (bitsOf f.w1 3 0) (bitsOf f.w1 7 4)
        ∧ t.mg.sent.length = s.mg.sent.length + 1
        ∧ changesOnly [.management] [(aHtcStat, 61, 58)] s t)
      ∧ (f.type ≠ 1 → ∀ st, frameFault s f = some st → ∃ t, exec (row f) s = .next t
        ∧ sent t (response f 0 st 0 []) ∧ t.mg = { s.mg with sent := t.mg.sent }
        ∧ changesOnly [.management] [] s t)
      ∧ (f.type ≠ 1 → frameFault s f = none → ∀ ws, tone s.mg.stored f.tag = some (f.seqNo, ws) →
        ∃ t, exec (row f) s = .next t ∧ sent t ws ∧ t.mg = { s.mg with sent := t.mg.sent }
        ∧ changesOnly [.management] [] s t)
      ∧ (frameFault s f = none → (∀ q ws, tone s.mg.stored f.tag = some (q, ws) → q ≠ f.seqNo) →
        (f.type = 2 → meetsBusyFlash s f.address f.count = false → exec (row f) s = .next (doRead s f))
        ∧ (f.type = 3 → exec (row f) s = .next (doWrite s f)))
      ∧ (f.type = 2 → f.count = 1 → frameFault s f = none → f.address ≠ aGrnErr 1 →
        (∀ q ws, tone s.mg.stored f.tag = some (q, ws) → q ≠ f.seqNo) →
        meetsBusyFlash s f.address 1 = false → ∀ w, readWord s f.address = some w → ∃ t,
          exec (row f) s = .next t ∧ sent t (response f 1 0 0 [w])
          ∧ tone t.mg.stored f.tag = some (f.seqNo, response f 1 0 0 [w])
          ∧ changesOnly [.management] [] s t))

/-- HITCH_LANE_LOCK and HITCH_LANE_LOCK_LOSS (R430), and EVENT_FRAME (R435): up to 16 unsent entries leave in
one frame and are sent once. -/
def Obligations.HitchLanesAndEvents : Prop :=
  (∀ s lane, inReset s = false → lane < 2 →
      (∃ t, exec (.hitchLaneLock lane) s = .next t ∧ rdb t aHtcStat (62 + lane) = true
        ∧ changesOnly [] [(aHtcStat, 62 + lane, 62 + lane)] s t)
      ∧ ∃ t, exec (.hitchLaneLockLoss lane) s = .next t ∧ rdb t aHtcStat (62 + lane) = false
        ∧ changesOnly [] [(aHtcStat, 62 + lane, 62 + lane)] s t)
  ∧ (∀ s, mgmtUp s = false ∨ rdb s (aEvt 0) 63 = false ∨ unsentEvents s = 0 → exec .eventFrame s = .next s)
  ∧ (∀ s, mgmtUp s = true → rdb s (aEvt 0) 63 = true → 0 < unsentEvents s → unsentEvents s ≤ 8192 →
      s.mg.streamNext < 2 ^ 32 →
      ∃ t ws, exec .eventFrame s = .next t ∧ unsentEvents t = unsentEvents s - Nat.min 16 (unsentEvents s)
        ∧ t.mg.sent = s.mg.sent ++ [ws] ∧ ws.length = 3 + 4 * Nat.min 16 (unsentEvents s)
        ∧ bitsOf (wordAt ws 0) 63 60 = 5 ∧ bitsOf (wordAt ws 0) 50 41 = 4 * Nat.min 16 (unsentEvents s)
        ∧ (∀ i w, i < Nat.min 16 (unsentEvents s) → w < 4 →
          wordAt ws (2 + 4 * i + w) = rd s (aEvtEntry (s.mg.streamNext + i) w))
        ∧ touchesOnly [.management] (2 ^ 64) [] s t)
  ∧ ∀ s, mgmtUp s = true → rdb s (aEvt 0) 63 = true → 8192 < unsentEvents s → s.mg.streamNext < 2 ^ 32 →
      ∃ t, exec .eventFrame s = .next t ∧ unsentEvents t = 8192 - 16
        ∧ rdf t (aEvt 0x18) 31 0 = Nat.min (2 ^ 32 - 1) (rdf s (aEvt 0x18) 31 0 + (unsentEvents s - 8192))
        ∧ changesOnly [.management] [(aEvt 0x18, 31, 0)] s t

/-- FIELD_ORDER (R418 to R421): an order on a port without the MANAGER mark is counted and dropped; the checks
answer in their order; a repeated order is answered with the stored response and executed no more; an order
without the right answers 6, and one that may run is executed with its SEQ taken. -/
def Obligations.FieldOrders : Prop :=
  ∀ s port f,
    let seq := bitsOf f.hdr.w3 31 0
    let answer := fun st => Host.Outcome.next (settle (sendReply s port f (orderReply s st 0 0 [])))
    (mgmtUp s = false ∨ isHalted s = true ∨ f.hdr.type ≠ tFieldOrder → exec (.fieldOrder port f) s = .next s)
    ∧ (manageable s → f.hdr.type = tFieldOrder →
      (rdb s (aCable port) 59 = false → ∃ u, exec (.fieldOrder port f) s = .next (settle u)
        ∧ (rd u (aCnt 0 0 4)).toNat = ((rd s (aCnt 0 0 4)).toNat + 1) % 2 ^ 64
        ∧ changesOnly [] [(aCnt 0 0 4, 63, 0), (aCnt 0 0 4 + 8, 0, 0)] s u)
      ∧ (rdb s (aCable port) 59 = true → orderBad f = true → exec (.fieldOrder port f) s = answer 2)
      ∧ (rdb s (aCable port) 59 = true → orderBad f = false →
        (managerOfSrc s f.hdr.src = none → exec (.fieldOrder port f) s = answer 3)
        ∧ ∀ m path, managerOfSrc s f.hdr.src = some (m, path) →
          (bitsOf f.hdr.w3 63 32 ≠ startEpoch s → exec (.fieldOrder port f) s = answer 4)
          ∧ (bitsOf f.hdr.w3 63 32 = startEpoch s →
            (seq < (lastOrder s path).1 → exec (.fieldOrder port f) s = answer 5)
            ∧ (seq = (lastOrder s path).1 → (lastOrder s path).2 ≠ [] → exec (.fieldOrder port f) s
              = .next (settle (sendReply s port f (lastOrder s path).2)))
            ∧ ((lastOrder s path).1 < seq → ∃ u, lastOrder u path = (seq, [])
              ∧ (∀ q, q ≠ path → lastOrder u q = lastOrder s q) ∧ changesOnly [.startState] [] s u
              ∧ (orderAllowed m f = false → exec (.fieldOrder port f) s
                = .next (settle (endOrder u path port f (orderReply u 6 0 0 []))))
              ∧ (orderAllowed m f = true → orderWaits s f.hdr.src = false → ∀ t, runOrder u path port f = some t →
                exec (.fieldOrder port f) s = .next (settle t))
              ∧ (orderAllowed m f = true → (orderWaits s f.hdr.src = true ∨ runOrder u path port f = none) →
                exec (.fieldOrder port f) s = .next (settle { u with
                  mg := { u.mg with orderQueue := u.mg.orderQueue ++ [(port, f)] } }))))))

/-- REGISTER_WRITE (R9 to R12, R437): the device that is halted or out of its managers' reach, and an address
that the map does not have, take no write; RW fields take the value, a reserved field and one out of its
range keep theirs, a 1 clears a W1C bit, a read-only word keeps its value; every other register below the
event log is as before. STAGE_WRITE (R441): words 1 to 7 of a group, plot or field-book entry are staged for
the path that writes them; the entry keeps its words until a commit, and a different entry's words staged
before are discarded. -/
def Obligations.RegisterAndStagedWrites : Prop :=
  (∀ s path v, (∀ a, ¬manageable s ∨ placeOf a = none → exec (.registerWrite path a v) s = .next s)
    ∧ (manageable s →
      (∀ row ∈ [(aSecNonce 0, 63, 0), (aSecNonce 1, 63, 0), (aSecNonce 2, 63, 0), (aSecNonce 3, 63, 0),
          (aFwdEpoch, 31, 0), (aPeekPtr, 31, 0)],
        ∃ t, exec (.registerWrite path row.1 v) s = .next t ∧ rdf t row.1 row.2.1 row.2.2 = bitsOf v row.2.1 row.2.2
          ∧ (∀ k, row.2.1 < k → rdb t row.1 k = rdb s row.1 k)
          ∧ touchesOnly [.recorder] 0xA000_0000 [row.1] s t)
      ∧ (∃ t, exec (.registerWrite path aIslandSel v) s = .next t
          ∧ rdf t aIslandSel 7 0 = (if bitsOf v 7 0 < 205 then bitsOf v 7 0 else rdf s aIslandSel 7 0)
          ∧ rdf t aIslandSel 63 8 = rdf s aIslandSel 63 8
          ∧ touchesOnly [.recorder] 0xA000_0000 [aIslandSel] s t)
      ∧ (∃ t, exec (.registerWrite path aFltCfg v) s = .next t ∧ rdb t aFltCfg 63 = bitOf v 63
          ∧ rdf t aFltCfg 62 55 = (if bitsOf v 62 55 ≠ 0 then bitsOf v 62 55 else rdf s aFltCfg 62 55)
          ∧ rdf t aFltCfg 54 0 = rdf s aFltCfg 54 0
          ∧ touchesOnly [.recorder] 0xA000_0000 [] s t)
      ∧ (∃ t, exec (.registerWrite path aStrap v) s = .next t ∧ rdb t aStrap 39 = (rdb s aStrap 39 && !bitOf v 39)
          ∧ rdf t aStrap 63 40 = rdf s aStrap 63 40 ∧ rdf t aStrap 38 0 = rdf s aStrap 38 0
          ∧ touchesOnly [.recorder] 0xA000_0000 [aStrap] s t)
      ∧ (∀ a ∈ [aCapId, aCapSizes, aEpoch, aBoot, aTherm, aFuse, aSecStat, aGleanStat, aGroupStat, aPlotStat],
          ∃ t, exec (.registerWrite path a v) s = .next t ∧ touchesOnly [.recorder] 0xA000_0000 [] s t)
      ∧ ∀ p f a, placeOf a = some (.quota p f) → charged f = true → a < 0xA000_0000 →
          ∃ t, exec (.registerWrite path a v) s = .next t ∧ rdf t a 20 0 = rdf s a 20 0
          ∧ (bitsOf v 52 32 ≤ 1048576 → rdf t a 52 32 = bitsOf v 52 32)
          ∧ (1048576 < bitsOf v 52 32 → rdf t a 52 32 = rdf s a 52 32)
          ∧ touchesOnly [.recorder] 0xA000_0000 [a] s t))
  ∧ ((∀ s path a v, isStaged a = false → exec (.stageWrite path a v) s = .next s)
  ∧ (∀ s path a v n e w, clusterUp s n = false → placeOf a = some (.entry n e w) →
      exec (.stageWrite path a v) s = .next s)
  ∧ ∀ s path a v w, manageable s → w ≠ 0 → w < 8 → (∃ g, placeOf a = some (.group g w) ∨ placeOf a = some (.plot g w)
        ∨ ∃ n, clusterUp s n = true ∧ placeOf a = some (.entry n g w)) →
      ∃ t, exec (.stageWrite path a v) s = .next t ∧ (stageOf t path).valid = true
        ∧ (stageOf t path).target = a - 8 * w ∧ (stageOf t path).written.testBit w = true
        ∧ wordAt (stageOf t path).words w = v
        ∧ ((stageOf s path).valid = true → (stageOf s path).target = a - 8 * w → ∀ i, i < 8 → i ≠ w →
          (stageOf t path).written.testBit i = (stageOf s path).written.testBit i
          ∧ wordAt (stageOf t path).words i = wordAt (stageOf s path).words i)
        ∧ ((stageOf s path).valid = false ∨ (stageOf s path).target ≠ a - 8 * w → ∀ i, i ≠ w →
          (stageOf t path).written.testBit i = false)
        ∧ (∀ q, q ≠ path → stageOf t q = stageOf s q)
        ∧ touchesOnly [.management, .recorder] 0xA000_0000 [] s t)

/-- R402: a cold start resets the count of failed starts, a warm one counts those since the last cold start that
have not reached Ready, and a start that begins with the count at 6 halts at step 5 with START_LIMIT. -/
def Obligations.StartLimit : Prop :=
  (∀ s r, starting s = true → bootStep s = 1 → r.ok = true → s.boot.cold = true →
      ∃ t, exec (.startupStepComplete r) s = .next t ∧ t.boot.failedStarts = 0 ∧ rdf t aBoot 55 48 = 0
        ∧ bootStep t = 2 ∧ starting t = true)
  ∧ (∀ s, s.boot.warmLow = true → s.boot.porLow = false → s.boot.cold = false → ∃ t,
      exec .warmResetRelease s = .next t ∧ t.boot.failedStarts = failedOf (sinceCold (readJournal s))
        ∧ rdf t aBoot 55 48 = Nat.min 0xFF t.boot.failedStarts)
  ∧ ∀ s r, starting s = true → bootStep s = 4 → copyFault s r.copyA = jrOk → copyFault s r.copyB = jrOk →
      ∃ t, exec (.startupStepComplete r) s = .next t ∧ bootStep t = 5
        ∧ (6 ≤ s.boot.failedStarts → isHalted t = true ∧ rdf t aBoot 47 40 = 0x12 ∧ rdb t aAlert 63 = true)
        ∧ (s.boot.failedStarts < 6 → starting t = true)

/-- Four registers as the manual lays them out: CAP_SIZES (R6), GLB_ISLAND_SEL (R21), TIL_ARG (R195) and
GLB_EPOCH (R424), at reset, when a manager writes them, and at start-up step 3. -/
def Obligations.StatedRegisters : Prop :=
  (aCapSizes = 0x1008 ∧ rdf State.reset aCapSizes 63 56 = 0x0C ∧ rdf State.reset aCapSizes 55 48 = 0x6C
      ∧ rdf State.reset aCapSizes 47 40 = 0x60 ∧ rdf State.reset aCapSizes 39 32 = 0x0C
      ∧ rdf State.reset aCapSizes 31 20 = 0x200 ∧ rdf State.reset aCapSizes 19 12 = 0x10
      ∧ rdf State.reset aCapSizes 11 8 = 0x4 ∧ rdf State.reset aCapSizes 7 0 = 0x40
      ∧ ∀ s path v, manageable s → ∃ t, exec (.registerWrite path aCapSizes v) s = .next t
        ∧ rd t aCapSizes = rd s aCapSizes)
  ∧ (aIslandSel = 0x200 ∧ rd State.reset aIslandSel = 0 ∧ ∀ s path v, manageable s →
      ∃ t, exec (.registerWrite path aIslandSel v) s = .next t ∧ rdf t aIslandSel 63 8 = rdf s aIslandSel 63 8
        ∧ (bitsOf v 7 0 ≤ 204 → rdf t aIslandSel 7 0 = bitsOf v 7 0)
        ∧ (205 ≤ bitsOf v 7 0 → rdf t aIslandSel 7 0 = rdf s aIslandSel 7 0))
  ∧ (∀ n, n < 12 → aTilArg n = aTilCfg n + 0x10 ∧ rd State.reset (aTilArg n) = 0
      ∧ ∀ s path v, manageable s → clusterUp s n = true →
        ∃ t, exec (.registerWrite path (aTilArg n) v) s = .next t
          ∧ rdf t (aTilArg n) 63 33 = bitsOf v 63 33 ∧ rdf t (aTilArg n) 31 0 = bitsOf v 31 0
          ∧ rdb t (aTilArg n) 32 = rdb s (aTilArg n) 32)
  ∧ aEpoch = 0x408 ∧ rd State.reset aEpoch = 0
  ∧ (∀ s path v, manageable s → ∃ t, exec (.registerWrite path aEpoch v) s = .next t ∧ rd t aEpoch = rd s aEpoch)
  ∧ ∀ s r, starting s = true → bootStep s = 3 → r.ok = true →
      ∃ t, exec (.startupStepComplete r) s = .next t ∧ rdf t aEpoch 63 32 = r.random % 2 ^ 32
        ∧ rdf t aEpoch 31 0 = s.boot.starts % 2 ^ 32

/-- The command at the front of the queue is run with the queue's rest; on an empty queue only GLB_TIME moves,
one nanosecond a step from Ready on (the model's idle tick, log 3). -/
def Obligations.StepRunsFront : Prop :=
  (∀ s c, step { s with pending := c :: s.pending } = exec c s)
  ∧ (∀ s c rest, s.pending = c :: rest → step s = exec c { s with pending := rest })
  ∧ (∀ s, s.pending = [] → isReady s = true → ∃ t, step s = .next t
      ∧ (rd t aTime).toNat = ((rd s aTime).toNat + 1) % 2 ^ 64 ∧ changesOnly [] [(aTime, 63, 0)] s t)
  ∧ ∀ s, s.pending = [] → isReady s = false → step s = .next s

/-- Every command answers a next state in every state, and takes nothing from the queue and puts nothing in: a
step removes exactly the command it ran. -/
def Obligations.EveryStepAnswers : Prop :=
  (∀ c s, ∃ t, exec c s = .next t ∧ t.pending = s.pending) ∧ (∀ s, safeStep s)
    ∧ ∀ s t, step s = .next t → t.pending = s.pending.tail

/-- The state after reset: an empty queue, every register at its reset word (those words are the manual's and,
where it gives none, the model's: log 1), and the invariant that every step keeps. -/
def Obligations.ResetState : Prop :=
  State.reset.pending = [] ∧ (∀ a, rd State.reset a = resetWord a)
    ∧ (∀ n off, readByte 0x00 State.reset.stk.hbm (hbmKey n off) = 0x00)
    ∧ mgmtUp State.reset = false ∧ starting State.reset = !inReset State.reset ∧ bootStep State.reset = 1
    ∧ (∀ n, clusterUp State.reset n = false) ∧ sound State.reset

/-- Whatever command a step runs, from any state: the register table and the memories keep their canonical form,
CAP_ID and CAP_SIZES keep the part's words (R5, R6), and the start state stays a legal one (R423). -/
def Obligations.StepsKeepSound : Prop :=
  ∀ s t, sound s → step s = .next t → sound t

/-- No step takes back a blown fuse of the owner-key slots: VALID and REVOKED stay once they are set, resets
included (R412, R414). -/
def Obligations.FusesStay : Prop :=
  ∀ s t slot, slot < 4 → step s = .next t → (slotValid s slot = true → slotValid t slot = true)
    ∧ (slotRevoked s slot = true → slotRevoked t slot = true)

/-- What happens on the links, in the fabric, the clusters and the stacks never reaches the flashes, the trust
and start state, the management path's own state, the electrical state, or a register below the ports:
straps, boot state, fuses, alerts and the Hitch link (R16, R429). -/
def Obligations.DataPlaneIsolated : Prop :=
  ∀ c s t, dataPlane c = true → exec c s = .next t →
    Part.same s t .flashes ∧ Part.same s t .startState ∧ Part.same s t .management ∧ Part.same s t .electrical
    ∧ ∀ a, a < 0x1000_0000 → rd t a = rd s a

/-- A device that is halted, in reset, or that R424 to R427 keep from its managers takes no manager's command:
nothing changes at all. -/
def Obligations.NoCommandUnmanaged : Prop :=
  ∀ c s, managerCommand c = true → ¬manageable s → exec c s = .next s
end

