-- ==== Sys2Proof/Laws/Bits.lean ====
section
/-! SUPPORT. Laws of bit fields: what a field reads after a field of the word has been written. -/

namespace Sys2Proof.Machine

set_option Elab.async false

open Sys2Proof

theorem testBit_bitsOf (w : Word) (hi lo i : Nat) :
    (bitsOf w hi lo).testBit i = (decide (i < hi + 1 - lo) && w.getLsbD (lo + i)) := by
  simp [bitsOf, Nat.testBit_mod_two_pow, Nat.testBit_shiftRight, BitVec.getLsbD]

theorem getLsbD_bitsAt (hi lo v i : Nat) :
    (bitsAt hi lo v).getLsbD i
      = (decide (i < 64) && (decide (lo ≤ i) && (decide (i < hi + 1) && v.testBit (i - lo)))) := by
  simp only [bitsAt, BitVec.getLsbD_ofNat, Nat.testBit_shiftLeft, Nat.testBit_mod_two_pow]
  by_cases h : lo ≤ i
  · have : (i - lo < hi + 1 - lo) ↔ i < hi + 1 := by omega
    simp [h, this]
  · simp [h]

theorem testBit_ones (n i : Nat) : (2 ^ n - 1).testBit i = decide (i < n) := Nat.testBit_two_pow_sub_one n i

theorem getLsbD_putBits (w : Word) (hi lo v i : Nat) :
    (putBits w hi lo v).getLsbD i
      = if lo ≤ i ∧ i < hi + 1 then (decide (i < 64) && v.testBit (i - lo)) else w.getLsbD i := by
  simp only [putBits, BitVec.getLsbD_or, BitVec.getLsbD_and, BitVec.getLsbD_not, getLsbD_bitsAt, testBit_ones]
  by_cases h1 : lo ≤ i <;> by_cases h2 : i < hi + 1 <;> by_cases h3 : i < 64
  · have : i - lo < hi + 1 - lo := by omega
    simp [h1, h2, h3, this]
  · have h4 : w.getLsbD i = false := BitVec.getLsbD_of_ge w i (by omega)
    simp [h1, h2, h3, h4]
  · simp [h1, h2, h3]
  · have h4 : w.getLsbD i = false := BitVec.getLsbD_of_ge w i (by omega)
    simp [h1, h2, h3, h4]
  · simp [h1, h2, h3]
  · have h4 : w.getLsbD i = false := BitVec.getLsbD_of_ge w i (by omega)
    simp [h1, h2, h3, h4]
  · simp [h1, h2, h3]
  · have h4 : w.getLsbD i = false := BitVec.getLsbD_of_ge w i (by omega)
    simp [h1, h2, h3, h4]

/-- A field reads what was written to it, cut to its size. -/
theorem bitsOf_putBits_same (w : Word) {hi lo : Nat} (v : Nat) (h : hi < 64) :
    bitsOf (putBits w hi lo v) hi lo = v % 2 ^ (hi + 1 - lo) := by
  apply Nat.eq_of_testBit_eq
  intro i
  rw [testBit_bitsOf, getLsbD_putBits, Nat.testBit_mod_two_pow]
  by_cases hi' : i < hi + 1 - lo
  · have h1 : lo ≤ lo + i ∧ lo + i < hi + 1 := by omega
    have h2 : lo + i < 64 := by omega
    simp [hi', h1.2, h2]
  · simp [hi']

/-- A field that lies apart from the one written reads as before. -/
theorem bitsOf_putBits_other (w : Word) {hi lo hi' lo' : Nat} (v : Nat) (h : hi' < lo ∨ hi < lo') :
    bitsOf (putBits w hi lo v) hi' lo' = bitsOf w hi' lo' := by
  apply Nat.eq_of_testBit_eq
  intro i
  rw [testBit_bitsOf, testBit_bitsOf, getLsbD_putBits]
  by_cases hi' : i < hi' + 1 - lo'
  · rw [if_neg (by omega)]
  · simp [hi']

theorem bitOf_putBits_other (w : Word) {hi lo k : Nat} (v : Nat) (h : k < lo ∨ hi < k) :
    bitOf (putBits w hi lo v) k = bitOf w k := by
  have := getLsbD_putBits w hi lo v k
  rw [if_neg (by omega)] at this
  exact this

theorem bitOf_putBits_same (w : Word) {hi lo k : Nat} (v : Nat) (h1 : lo ≤ k) (h2 : k ≤ hi) (h3 : hi < 64) :
    bitOf (putBits w hi lo v) k = v.testBit (k - lo) := by
  have := getLsbD_putBits w hi lo v k
  rw [if_pos (by omega)] at this
  have h4 : decide (k < 64) = true := by simp; omega
  rw [h4, Bool.true_and] at this
  exact this

theorem bitsOf_lt (w : Word) (hi lo : Nat) : bitsOf w hi lo < 2 ^ (hi + 1 - lo) :=
  Nat.mod_lt _ (by positivity)

/-- A field of a word built from its fields alone. -/
theorem bitsOf_bitsAt_same {hi lo : Nat} (v : Nat) (h : hi < 64) :
    bitsOf (bitsAt hi lo v) hi lo = v % 2 ^ (hi + 1 - lo) := by
  apply Nat.eq_of_testBit_eq
  intro i
  rw [testBit_bitsOf, getLsbD_bitsAt, Nat.testBit_mod_two_pow]
  by_cases hi' : i < hi + 1 - lo
  · have h1 : lo + i < hi + 1 := by omega
    have h2 : lo + i < 64 := by omega
    simp [hi', h1, h2]
  · simp [hi']

theorem bitsOf_bitsAt_other {hi lo hi' lo' : Nat} (v : Nat) (h : hi' < lo ∨ hi < lo') :
    bitsOf (bitsAt hi lo v) hi' lo' = 0 := by
  apply Nat.eq_of_testBit_eq
  intro i
  rw [testBit_bitsOf, getLsbD_bitsAt, Nat.zero_testBit]
  by_cases h1 : i < hi' + 1 - lo'
  · by_cases h2 : lo ≤ lo' + i
    · have : ¬ lo' + i < hi + 1 := by omega
      simp [this]
    · simp [h2]
  · simp [h1]

theorem bitsOf_or (a b : Word) (hi lo : Nat) :
    bitsOf (a ||| b) hi lo = bitsOf a hi lo ||| bitsOf b hi lo := by
  apply Nat.eq_of_testBit_eq
  intro i
  rw [Nat.testBit_or, testBit_bitsOf, testBit_bitsOf, testBit_bitsOf, BitVec.getLsbD_or]
  cases decide (i < hi + 1 - lo) <;> simp

theorem bitsOf_zero (hi lo : Nat) : bitsOf 0 hi lo = 0 := by simp [bitsOf]

@[simp] theorem b2n_true : b2n true = 1 := rfl
@[simp] theorem b2n_false : b2n false = 0 := rfl

end Sys2Proof.Machine
end

