-- ==== Sys2Proof/Laws/Table.lean ====
section
/-! SUPPORT. Laws of sparse tables and memories: a read after a write, and the canonical form. -/

namespace Sys2Proof.Machine

set_option Elab.async false

/-! ## Reads after writes -/

theorem tget_tdel {α : Type} (d : α) (t : Tbl α) (i j : Nat) :
    tget d (tdel t i) j = if j = i then d else tget d t j := by
  induction t with
  | nil => simp [tdel, tget]
  | cons kv t ih =>
    obtain ⟨k, v⟩ := kv
    simp only [tdel]
    split
    · rw [ih]; split <;> simp_all [tget]
    next hki =>
      simp only [tget, ih]
      split
      next hjk => subst hjk; simp [Ne.symm hki]
      · rfl

theorem tget_tins {α : Type} (d : α) (t : Tbl α) (i j : Nat) (x : α) :
    tget d (tins t i x) j = if j = i then x else tget d t j := by
  induction t with
  | nil => simp [tins, tget]
  | cons kv t ih =>
    obtain ⟨k, v⟩ := kv
    simp only [tins]
    split
    · simp [tget]
    · split
      · simp only [tget]; split <;> simp_all
      next hki =>
        simp only [tget, ih]
        split
        next hjk => subst hjk; simp [Ne.symm hki]
        · rfl

/-- A read after a write to a table. -/
theorem tget_tset {α : Type} [DecidableEq α] (d : α) (t : Tbl α) (i j : Nat) (x : α) :
    tget d (tset d t i x) j = if j = i then x else tget d t j := by
  unfold tset
  split
  · rw [tget_tdel]; split <;> simp_all
  · rw [tget_tins]

@[simp] theorem tget_tset_same {α : Type} [DecidableEq α] (d : α) (t : Tbl α) (i : Nat) (x : α) :
    tget d (tset d t i x) i = x := by simp [tget_tset]

/-- A write leaves every other key, whatever an unlisted key is taken to hold. -/
theorem tget_tset_other {α : Type} [DecidableEq α] (d d' : α) (t : Tbl α) {i j : Nat} (x : α)
    (h : j ≠ i) : tget d' (tset d t i x) j = tget d' t j := by
  unfold tset
  split
  · rw [tget_tdel, if_neg h]
  · rw [tget_tins, if_neg h]

/-- A byte reads as it was last written. -/
theorem readByte_writeByte (d : Byte) (m : Memory) (a b : Nat) (x : Byte) :
    readByte d (writeByte d m a x) b = if b = a then x else readByte d m b := tget_tset d m a b x

/-- A byte outside a written range reads as before. -/
theorem readByte_writeBytes_other (d : Byte) (bs : List Byte) :
    ∀ (m : Memory) (a b : Nat), b < a ∨ a + bs.length ≤ b →
      readByte d (writeBytes d m a bs) b = readByte d m b := by
  induction bs with
  | nil => intro m a b _; rfl
  | cons x xs ih =>
    intro m a b h
    simp only [List.length_cons] at h
    rw [writeBytes, ih _ _ _ (by omega), readByte_writeByte, if_neg (by omega)]

/-- A byte of a written range reads as it was written. -/
theorem readByte_writeBytes_at (d : Byte) (bs : List Byte) :
    ∀ (m : Memory) (a i : Nat), i < bs.length →
      readByte d (writeBytes d m a bs) (a + i) = bs.getD i d := by
  induction bs with
  | nil => intro m a i h; simp at h
  | cons x xs ih =>
    intro m a i h
    rw [writeBytes]
    cases i with
    | zero =>
      rw [readByte_writeBytes_other _ _ _ _ _ (by omega), readByte_writeByte, if_pos (by omega)]
      rfl
    | succ i =>
      have : a + (i + 1) = a + 1 + i := by omega
      rw [this, ih _ _ _ (by simpa using h)]
      rfl

/-! ## The canonical form -/

/-- The canonical form where the default depends on the key. -/
def canon {α : Type} (d : Nat → α) : Tbl α → Prop
  | [] => True
  | (k, v) :: t => v ≠ d k ∧ tableAbove k t = true ∧ canon d t

theorem tableAbove_trans {α : Type} {m n : Nat} {t : Tbl α} (h : m ≤ n) (ht : tableAbove n t = true) :
    tableAbove m t = true := by
  cases t with
  | nil => rfl
  | cons kv t =>
    simp only [tableAbove, decide_eq_true_eq] at ht ⊢
    omega

theorem canon_tail_above {α : Type} {d : Nat → α} {n : Nat} {t : Tbl α} {k : Nat} {v : α}
    (h : canon d ((k, v) :: t)) (hn : tableAbove n ((k, v) :: t) = true) : tableAbove n t = true := by
  simp only [tableAbove, decide_eq_true_eq] at hn
  exact tableAbove_trans (by omega) h.2.1

theorem tdel_above {α : Type} {d : Nat → α} {n : Nat} (t : Tbl α) (i : Nat) (h : canon d t)
    (hn : tableAbove n t = true) : tableAbove n (tdel t i) = true := by
  induction t with
  | nil => rfl
  | cons kv t ih =>
    obtain ⟨k, v⟩ := kv
    simp only [tdel]
    split
    · exact ih h.2.2 (canon_tail_above h hn)
    · exact hn

theorem canon_tdel {α : Type} {d : Nat → α} (t : Tbl α) (i : Nat) (h : canon d t) :
    canon d (tdel t i) := by
  induction t with
  | nil => trivial
  | cons kv t ih =>
    obtain ⟨k, v⟩ := kv
    simp only [tdel]
    split
    · exact ih h.2.2
    · exact ⟨h.1, tdel_above t i h.2.2 h.2.1, ih h.2.2⟩

theorem tins_above {α : Type} {n : Nat} (t : Tbl α) (i : Nat) (x : α) (hn : tableAbove n t = true)
    (hi : n < i) : tableAbove n (tins t i x) = true := by
  cases t with
  | nil => simpa [tins, tableAbove] using hi
  | cons kv t =>
    obtain ⟨k, v⟩ := kv
    simp only [tins]
    split
    · simpa [tableAbove] using hi
    · split
      · simpa [tableAbove] using hi
      · exact hn

theorem canon_tins {α : Type} {d : Nat → α} (t : Tbl α) (i : Nat) (x : α) (hx : x ≠ d i)
    (h : canon d t) : canon d (tins t i x) := by
  induction t with
  | nil => exact ⟨hx, rfl, trivial⟩
  | cons kv t ih =>
    obtain ⟨k, v⟩ := kv
    simp only [tins]
    split
    next hik => exact ⟨hx, by simpa [tableAbove] using hik, h⟩
    next hik =>
      split
      next he => subst he; exact ⟨hx, h.2.1, h.2.2⟩
      next he => exact ⟨h.1, tins_above t i x h.2.1 (by omega), ih h.2.2⟩

theorem canon_tset {α : Type} [DecidableEq α] {d : Nat → α} (t : Tbl α) (i : Nat) (x : α)
    (h : canon d t) : canon d (tset (d i) t i x) := by
  unfold tset
  split
  · exact canon_tdel t i h
  next hx => exact canon_tins t i x hx h

theorem tableWf_iff {α : Type} [DecidableEq α] (d : α) (t : Tbl α) :
    tableWf d t = true ↔ canon (fun _ => d) t := by
  induction t with
  | nil => simp [tableWf, canon]
  | cons kv t ih => simp [tableWf, canon, ih, and_assoc]

/-- Writing one byte keeps a memory canonical. -/
theorem memoryWf_writeByte {d : Byte} {m : Memory} (a : Nat) (b : Byte) (h : memoryWf d m = true) :
    memoryWf d (writeByte d m a b) = true := by
  rw [memoryWf, tableWf_iff] at *
  exact canon_tset (d := fun _ => d) m a b h

/-- Writing a byte string keeps a memory canonical. -/
theorem memoryWf_writeBytes {d : Byte} (bs : List Byte) :
    ∀ {m : Memory} (a : Nat), memoryWf d m = true → memoryWf d (writeBytes d m a bs) = true := by
  induction bs with
  | nil => intro m a h; exact h
  | cons b bs ih => intro m a h; exact ih _ (memoryWf_writeByte a b h)

theorem filter_above {α : Type} {d : Nat → α} {n : Nat} (t : Tbl α) (f : Nat × α → Bool) (h : canon d t)
    (hn : tableAbove n t = true) : tableAbove n (t.filter f) = true := by
  induction t with
  | nil => rfl
  | cons kv t ih =>
    obtain ⟨k, v⟩ := kv
    simp only [List.filter_cons]
    split
    · exact hn
    · exact ih h.2.2 (canon_tail_above h hn)

theorem canon_filter {α : Type} {d : Nat → α} (t : Tbl α) (f : Nat × α → Bool) (h : canon d t) :
    canon d (t.filter f) := by
  induction t with
  | nil => trivial
  | cons kv t ih =>
    obtain ⟨k, v⟩ := kv
    simp only [List.filter_cons]
    split
    · exact ⟨h.1, filter_above t f h.2.2 h.2.1, ih h.2.2⟩
    · exact ih h.2.2

/-- Leaving cells out (an erase) keeps a memory canonical. -/
theorem memoryWf_filter {d : Byte} {m : Memory} (f : Nat × Byte → Bool) (h : memoryWf d m = true) :
    memoryWf d (m.filter f) = true := by
  rw [memoryWf, tableWf_iff] at *
  exact canon_filter m f h

end Sys2Proof.Machine
end

