-- ==== Sys2Proof/Laws/State.lean ====
section
/-! SUPPORT. What the smallest updates of State leave: one lemma per field and update, and the reads of a
register after a write. -/

namespace Sys2Proof.Machine

set_option Elab.async false

open Sys2Proof

/-! ## Reads of registers -/

/-- A register reads as it was last written (R9). -/
theorem rd_wr (s : State) (a b : Nat) (w : Word) : rd (wr s a w) b = if b = a then w else rd s b := by
  unfold rd wr
  by_cases h : b = a
  · subst h; simp
  · simp [tget_tset_other _ _ _ _ h, h]

@[simp] theorem rd_wr_same (s : State) (a : Nat) (w : Word) : rd (wr s a w) a = w := by simp [rd_wr]

theorem rd_wr_other {s : State} {a b : Nat} {w : Word} (h : b ≠ a) : rd (wr s a w) b = rd s b := by
  simp [rd_wr, h]

theorem rd_wrf_other {s : State} {a b hi lo v : Nat} (h : b ≠ a) : rd (wrf s a hi lo v) b = rd s b :=
  rd_wr_other h

theorem rd_bump_other {s : State} {a b hi lo n : Nat} (h : b ≠ a) : rd (bump s a hi lo n) b = rd s b :=
  rd_wr_other h

theorem rd_bumpMod_other {s : State} {a b hi lo n : Nat} (h : b ≠ a) : rd (bumpMod s a hi lo n) b = rd s b :=
  rd_wr_other h

theorem rd_drain_other {s : State} {a b hi lo n : Nat} (h : b ≠ a) : rd (drain s a hi lo n) b = rd s b :=
  rd_wr_other h

/-- A field reads what was written to it. -/
theorem rdf_wrf_same (s : State) (a : Nat) {hi lo : Nat} (v : Nat) (h : hi < 64) :
    rdf (wrf s a hi lo v) a hi lo = v % 2 ^ (hi + 1 - lo) := by
  simp [rdf, wrf, bitsOf_putBits_same _ _ h]

/-- A field apart from the one written reads as before. -/
theorem rdf_wrf_field (s : State) (a : Nat) {hi lo hi' lo' : Nat} (v : Nat) (h : hi' < lo ∨ hi < lo') :
    rdf (wrf s a hi lo v) a hi' lo' = rdf s a hi' lo' := by
  simp [rdf, wrf, bitsOf_putBits_other _ _ h]

theorem rdf_wrf_other {s : State} {a b hi lo hi' lo' v : Nat} (h : b ≠ a) :
    rdf (wrf s a hi lo v) b hi' lo' = rdf s b hi' lo' := by
  rw [rdf, rd_wrf_other h, rdf]

theorem rdb_wrf_field (s : State) (a : Nat) {hi lo k : Nat} (v : Nat) (h : k < lo ∨ hi < k) :
    rdb (wrf s a hi lo v) a k = rdb s a k := by
  simp [rdb, wrf, bitOf_putBits_other _ _ h]

theorem rdb_wrf_other {s : State} {a b hi lo k v : Nat} (h : b ≠ a) :
    rdb (wrf s a hi lo v) b k = rdb s b k := by
  rw [rdb, rd_wrf_other h, rdb]

/-- Only the register table decides what a register reads. -/
theorem rd_congr {s t : State} (h : t.regs = s.regs) (a : Nat) : rd t a = rd s a := by rw [rd, h, rd]

/-! ## The other fields after a register write -/

@[simp] theorem wr_pending (s : State) (a : Nat) (w : Word) : (wr s a w).pending = s.pending := rfl
@[simp] theorem wr_picks (s : State) (a : Nat) (w : Word) : (wr s a w).picks = s.picks := rfl
@[simp] theorem wr_roWrites (s : State) (a : Nat) (w : Word) : (wr s a w).roWrites = s.roWrites := rfl
@[simp] theorem wr_fab (s : State) (a : Nat) (w : Word) : (wr s a w).fab = s.fab := rfl
@[simp] theorem wr_links (s : State) (a : Nat) (w : Word) : (wr s a w).links = s.links := rfl
@[simp] theorem wr_grn (s : State) (a : Nat) (w : Word) : (wr s a w).grn = s.grn := rfl
@[simp] theorem wr_bnd (s : State) (a : Nat) (w : Word) : (wr s a w).bnd = s.bnd := rfl
@[simp] theorem wr_cores (s : State) (a : Nat) (w : Word) : (wr s a w).cores = s.cores := rfl
@[simp] theorem wr_stk (s : State) (a : Nat) (w : Word) : (wr s a w).stk = s.stk := rfl
@[simp] theorem wr_vrd (s : State) (a : Nat) (w : Word) : (wr s a w).vrd = s.vrd := rfl
@[simp] theorem wr_adv (s : State) (a : Nat) (w : Word) : (wr s a w).adv = s.adv := rfl
@[simp] theorem wr_rcd (s : State) (a : Nat) (w : Word) : (wr s a w).rcd = s.rcd := rfl
@[simp] theorem wr_yld (s : State) (a : Nat) (w : Word) : (wr s a w).yld = s.yld := rfl
@[simp] theorem wr_boot (s : State) (a : Nat) (w : Word) : (wr s a w).boot = s.boot := rfl
@[simp] theorem wr_mg (s : State) (a : Nat) (w : Word) : (wr s a w).mg = s.mg := rfl
@[simp] theorem wr_el (s : State) (a : Nat) (w : Word) : (wr s a w).el = s.el := rfl
@[simp] theorem wr_flashA (s : State) (a : Nat) (w : Word) : (wr s a w).flashA = s.flashA := rfl
@[simp] theorem wr_flashB (s : State) (a : Nat) (w : Word) : (wr s a w).flashB = s.flashB := rfl

@[simp] theorem wrf_pending (s : State) (a hi lo v : Nat) : (wrf s a hi lo v).pending = s.pending := rfl
@[simp] theorem wrf_picks (s : State) (a hi lo v : Nat) : (wrf s a hi lo v).picks = s.picks := rfl
@[simp] theorem wrf_roWrites (s : State) (a hi lo v : Nat) : (wrf s a hi lo v).roWrites = s.roWrites := rfl
@[simp] theorem wrf_fab (s : State) (a hi lo v : Nat) : (wrf s a hi lo v).fab = s.fab := rfl
@[simp] theorem wrf_links (s : State) (a hi lo v : Nat) : (wrf s a hi lo v).links = s.links := rfl
@[simp] theorem wrf_grn (s : State) (a hi lo v : Nat) : (wrf s a hi lo v).grn = s.grn := rfl
@[simp] theorem wrf_bnd (s : State) (a hi lo v : Nat) : (wrf s a hi lo v).bnd = s.bnd := rfl
@[simp] theorem wrf_cores (s : State) (a hi lo v : Nat) : (wrf s a hi lo v).cores = s.cores := rfl
@[simp] theorem wrf_stk (s : State) (a hi lo v : Nat) : (wrf s a hi lo v).stk = s.stk := rfl
@[simp] theorem wrf_vrd (s : State) (a hi lo v : Nat) : (wrf s a hi lo v).vrd = s.vrd := rfl
@[simp] theorem wrf_adv (s : State) (a hi lo v : Nat) : (wrf s a hi lo v).adv = s.adv := rfl
@[simp] theorem wrf_rcd (s : State) (a hi lo v : Nat) : (wrf s a hi lo v).rcd = s.rcd := rfl
@[simp] theorem wrf_yld (s : State) (a hi lo v : Nat) : (wrf s a hi lo v).yld = s.yld := rfl
@[simp] theorem wrf_boot (s : State) (a hi lo v : Nat) : (wrf s a hi lo v).boot = s.boot := rfl
@[simp] theorem wrf_mg (s : State) (a hi lo v : Nat) : (wrf s a hi lo v).mg = s.mg := rfl
@[simp] theorem wrf_el (s : State) (a hi lo v : Nat) : (wrf s a hi lo v).el = s.el := rfl
@[simp] theorem wrf_flashA (s : State) (a hi lo v : Nat) : (wrf s a hi lo v).flashA = s.flashA := rfl
@[simp] theorem wrf_flashB (s : State) (a hi lo v : Nat) : (wrf s a hi lo v).flashB = s.flashB := rfl

@[simp] theorem bump_pending (s : State) (a hi lo v : Nat) : (bump s a hi lo v).pending = s.pending := rfl
@[simp] theorem bump_picks (s : State) (a hi lo v : Nat) : (bump s a hi lo v).picks = s.picks := rfl
@[simp] theorem bump_roWrites (s : State) (a hi lo v : Nat) : (bump s a hi lo v).roWrites = s.roWrites := rfl
@[simp] theorem bump_fab (s : State) (a hi lo v : Nat) : (bump s a hi lo v).fab = s.fab := rfl
@[simp] theorem bump_links (s : State) (a hi lo v : Nat) : (bump s a hi lo v).links = s.links := rfl
@[simp] theorem bump_grn (s : State) (a hi lo v : Nat) : (bump s a hi lo v).grn = s.grn := rfl
@[simp] theorem bump_bnd (s : State) (a hi lo v : Nat) : (bump s a hi lo v).bnd = s.bnd := rfl
@[simp] theorem bump_cores (s : State) (a hi lo v : Nat) : (bump s a hi lo v).cores = s.cores := rfl
@[simp] theorem bump_stk (s : State) (a hi lo v : Nat) : (bump s a hi lo v).stk = s.stk := rfl
@[simp] theorem bump_vrd (s : State) (a hi lo v : Nat) : (bump s a hi lo v).vrd = s.vrd := rfl
@[simp] theorem bump_adv (s : State) (a hi lo v : Nat) : (bump s a hi lo v).adv = s.adv := rfl
@[simp] theorem bump_rcd (s : State) (a hi lo v : Nat) : (bump s a hi lo v).rcd = s.rcd := rfl
@[simp] theorem bump_yld (s : State) (a hi lo v : Nat) : (bump s a hi lo v).yld = s.yld := rfl
@[simp] theorem bump_boot (s : State) (a hi lo v : Nat) : (bump s a hi lo v).boot = s.boot := rfl
@[simp] theorem bump_mg (s : State) (a hi lo v : Nat) : (bump s a hi lo v).mg = s.mg := rfl
@[simp] theorem bump_el (s : State) (a hi lo v : Nat) : (bump s a hi lo v).el = s.el := rfl
@[simp] theorem bump_flashA (s : State) (a hi lo v : Nat) : (bump s a hi lo v).flashA = s.flashA := rfl
@[simp] theorem bump_flashB (s : State) (a hi lo v : Nat) : (bump s a hi lo v).flashB = s.flashB := rfl

@[simp] theorem bumpMod_pending (s : State) (a hi lo v : Nat) : (bumpMod s a hi lo v).pending = s.pending := rfl
@[simp] theorem bumpMod_picks (s : State) (a hi lo v : Nat) : (bumpMod s a hi lo v).picks = s.picks := rfl
@[simp] theorem bumpMod_roWrites (s : State) (a hi lo v : Nat) : (bumpMod s a hi lo v).roWrites = s.roWrites := rfl
@[simp] theorem bumpMod_fab (s : State) (a hi lo v : Nat) : (bumpMod s a hi lo v).fab = s.fab := rfl
@[simp] theorem bumpMod_links (s : State) (a hi lo v : Nat) : (bumpMod s a hi lo v).links = s.links := rfl
@[simp] theorem bumpMod_grn (s : State) (a hi lo v : Nat) : (bumpMod s a hi lo v).grn = s.grn := rfl
@[simp] theorem bumpMod_bnd (s : State) (a hi lo v : Nat) : (bumpMod s a hi lo v).bnd = s.bnd := rfl
@[simp] theorem bumpMod_cores (s : State) (a hi lo v : Nat) : (bumpMod s a hi lo v).cores = s.cores := rfl
@[simp] theorem bumpMod_stk (s : State) (a hi lo v : Nat) : (bumpMod s a hi lo v).stk = s.stk := rfl
@[simp] theorem bumpMod_vrd (s : State) (a hi lo v : Nat) : (bumpMod s a hi lo v).vrd = s.vrd := rfl
@[simp] theorem bumpMod_adv (s : State) (a hi lo v : Nat) : (bumpMod s a hi lo v).adv = s.adv := rfl
@[simp] theorem bumpMod_rcd (s : State) (a hi lo v : Nat) : (bumpMod s a hi lo v).rcd = s.rcd := rfl
@[simp] theorem bumpMod_yld (s : State) (a hi lo v : Nat) : (bumpMod s a hi lo v).yld = s.yld := rfl
@[simp] theorem bumpMod_boot (s : State) (a hi lo v : Nat) : (bumpMod s a hi lo v).boot = s.boot := rfl
@[simp] theorem bumpMod_mg (s : State) (a hi lo v : Nat) : (bumpMod s a hi lo v).mg = s.mg := rfl
@[simp] theorem bumpMod_el (s : State) (a hi lo v : Nat) : (bumpMod s a hi lo v).el = s.el := rfl
@[simp] theorem bumpMod_flashA (s : State) (a hi lo v : Nat) : (bumpMod s a hi lo v).flashA = s.flashA := rfl
@[simp] theorem bumpMod_flashB (s : State) (a hi lo v : Nat) : (bumpMod s a hi lo v).flashB = s.flashB := rfl

@[simp] theorem drain_pending (s : State) (a hi lo v : Nat) : (drain s a hi lo v).pending = s.pending := rfl
@[simp] theorem drain_picks (s : State) (a hi lo v : Nat) : (drain s a hi lo v).picks = s.picks := rfl
@[simp] theorem drain_roWrites (s : State) (a hi lo v : Nat) : (drain s a hi lo v).roWrites = s.roWrites := rfl
@[simp] theorem drain_fab (s : State) (a hi lo v : Nat) : (drain s a hi lo v).fab = s.fab := rfl
@[simp] theorem drain_links (s : State) (a hi lo v : Nat) : (drain s a hi lo v).links = s.links := rfl
@[simp] theorem drain_grn (s : State) (a hi lo v : Nat) : (drain s a hi lo v).grn = s.grn := rfl
@[simp] theorem drain_bnd (s : State) (a hi lo v : Nat) : (drain s a hi lo v).bnd = s.bnd := rfl
@[simp] theorem drain_cores (s : State) (a hi lo v : Nat) : (drain s a hi lo v).cores = s.cores := rfl
@[simp] theorem drain_stk (s : State) (a hi lo v : Nat) : (drain s a hi lo v).stk = s.stk := rfl
@[simp] theorem drain_vrd (s : State) (a hi lo v : Nat) : (drain s a hi lo v).vrd = s.vrd := rfl
@[simp] theorem drain_adv (s : State) (a hi lo v : Nat) : (drain s a hi lo v).adv = s.adv := rfl
@[simp] theorem drain_rcd (s : State) (a hi lo v : Nat) : (drain s a hi lo v).rcd = s.rcd := rfl
@[simp] theorem drain_yld (s : State) (a hi lo v : Nat) : (drain s a hi lo v).yld = s.yld := rfl
@[simp] theorem drain_boot (s : State) (a hi lo v : Nat) : (drain s a hi lo v).boot = s.boot := rfl
@[simp] theorem drain_mg (s : State) (a hi lo v : Nat) : (drain s a hi lo v).mg = s.mg := rfl
@[simp] theorem drain_el (s : State) (a hi lo v : Nat) : (drain s a hi lo v).el = s.el := rfl
@[simp] theorem drain_flashA (s : State) (a hi lo v : Nat) : (drain s a hi lo v).flashA = s.flashA := rfl
@[simp] theorem drain_flashB (s : State) (a hi lo v : Nat) : (drain s a hi lo v).flashB = s.flashB := rfl

/-! ## The other fields after a change of the data plane, a link or a staging buffer -/

@[simp] theorem setLink_regs (s : State) (p : Nat) (l : Link) : (setLink s p l).regs = s.regs := rfl
@[simp] theorem setLink_pending (s : State) (p : Nat) (l : Link) : (setLink s p l).pending = s.pending := rfl
@[simp] theorem setLink_picks (s : State) (p : Nat) (l : Link) : (setLink s p l).picks = s.picks := rfl
@[simp] theorem setLink_roWrites (s : State) (p : Nat) (l : Link) : (setLink s p l).roWrites = s.roWrites := rfl
@[simp] theorem setLink_fab (s : State) (p : Nat) (l : Link) : (setLink s p l).fab = s.fab := rfl
@[simp] theorem setLink_grn (s : State) (p : Nat) (l : Link) : (setLink s p l).grn = s.grn := rfl
@[simp] theorem setLink_bnd (s : State) (p : Nat) (l : Link) : (setLink s p l).bnd = s.bnd := rfl
@[simp] theorem setLink_cores (s : State) (p : Nat) (l : Link) : (setLink s p l).cores = s.cores := rfl
@[simp] theorem setLink_stk (s : State) (p : Nat) (l : Link) : (setLink s p l).stk = s.stk := rfl
@[simp] theorem setLink_vrd (s : State) (p : Nat) (l : Link) : (setLink s p l).vrd = s.vrd := rfl
@[simp] theorem setLink_adv (s : State) (p : Nat) (l : Link) : (setLink s p l).adv = s.adv := rfl
@[simp] theorem setLink_rcd (s : State) (p : Nat) (l : Link) : (setLink s p l).rcd = s.rcd := rfl
@[simp] theorem setLink_yld (s : State) (p : Nat) (l : Link) : (setLink s p l).yld = s.yld := rfl
@[simp] theorem setLink_boot (s : State) (p : Nat) (l : Link) : (setLink s p l).boot = s.boot := rfl
@[simp] theorem setLink_mg (s : State) (p : Nat) (l : Link) : (setLink s p l).mg = s.mg := rfl
@[simp] theorem setLink_el (s : State) (p : Nat) (l : Link) : (setLink s p l).el = s.el := rfl
@[simp] theorem setLink_flashA (s : State) (p : Nat) (l : Link) : (setLink s p l).flashA = s.flashA := rfl
@[simp] theorem setLink_flashB (s : State) (p : Nat) (l : Link) : (setLink s p l).flashB = s.flashB := rfl

@[simp] theorem setQueue_regs (s : State) (p f : Nat) (q : List Pkt) : (setQueue s p f q).regs = s.regs := rfl
@[simp] theorem setQueue_pending (s : State) (p f : Nat) (q : List Pkt) : (setQueue s p f q).pending = s.pending := rfl
@[simp] theorem setQueue_picks (s : State) (p f : Nat) (q : List Pkt) : (setQueue s p f q).picks = s.picks := rfl
@[simp] theorem setQueue_roWrites (s : State) (p f : Nat) (q : List Pkt) : (setQueue s p f q).roWrites = s.roWrites := rfl
@[simp] theorem setQueue_links (s : State) (p f : Nat) (q : List Pkt) : (setQueue s p f q).links = s.links := rfl
@[simp] theorem setQueue_grn (s : State) (p f : Nat) (q : List Pkt) : (setQueue s p f q).grn = s.grn := rfl
@[simp] theorem setQueue_bnd (s : State) (p f : Nat) (q : List Pkt) : (setQueue s p f q).bnd = s.bnd := rfl
@[simp] theorem setQueue_cores (s : State) (p f : Nat) (q : List Pkt) : (setQueue s p f q).cores = s.cores := rfl
@[simp] theorem setQueue_stk (s : State) (p f : Nat) (q : List Pkt) : (setQueue s p f q).stk = s.stk := rfl
@[simp] theorem setQueue_vrd (s : State) (p f : Nat) (q : List Pkt) : (setQueue s p f q).vrd = s.vrd := rfl
@[simp] theorem setQueue_adv (s : State) (p f : Nat) (q : List Pkt) : (setQueue s p f q).adv = s.adv := rfl
@[simp] theorem setQueue_rcd (s : State) (p f : Nat) (q : List Pkt) : (setQueue s p f q).rcd = s.rcd := rfl
@[simp] theorem setQueue_yld (s : State) (p f : Nat) (q : List Pkt) : (setQueue s p f q).yld = s.yld := rfl
@[simp] theorem setQueue_boot (s : State) (p f : Nat) (q : List Pkt) : (setQueue s p f q).boot = s.boot := rfl
@[simp] theorem setQueue_mg (s : State) (p f : Nat) (q : List Pkt) : (setQueue s p f q).mg = s.mg := rfl
@[simp] theorem setQueue_el (s : State) (p f : Nat) (q : List Pkt) : (setQueue s p f q).el = s.el := rfl
@[simp] theorem setQueue_flashA (s : State) (p f : Nat) (q : List Pkt) : (setQueue s p f q).flashA = s.flashA := rfl
@[simp] theorem setQueue_flashB (s : State) (p f : Nat) (q : List Pkt) : (setQueue s p f q).flashB = s.flashB := rfl

@[simp] theorem setSending_regs (s : State) (p : Nat) (q : List Pkt) : (setSending s p q).regs = s.regs := rfl
@[simp] theorem setSending_pending (s : State) (p : Nat) (q : List Pkt) : (setSending s p q).pending = s.pending := rfl
@[simp] theorem setSending_picks (s : State) (p : Nat) (q : List Pkt) : (setSending s p q).picks = s.picks := rfl
@[simp] theorem setSending_roWrites (s : State) (p : Nat) (q : List Pkt) : (setSending s p q).roWrites = s.roWrites := rfl
@[simp] theorem setSending_links (s : State) (p : Nat) (q : List Pkt) : (setSending s p q).links = s.links := rfl
@[simp] theorem setSending_grn (s : State) (p : Nat) (q : List Pkt) : (setSending s p q).grn = s.grn := rfl
@[simp] theorem setSending_bnd (s : State) (p : Nat) (q : List Pkt) : (setSending s p q).bnd = s.bnd := rfl
@[simp] theorem setSending_cores (s : State) (p : Nat) (q : List Pkt) : (setSending s p q).cores = s.cores := rfl
@[simp] theorem setSending_stk (s : State) (p : Nat) (q : List Pkt) : (setSending s p q).stk = s.stk := rfl
@[simp] theorem setSending_vrd (s : State) (p : Nat) (q : List Pkt) : (setSending s p q).vrd = s.vrd := rfl
@[simp] theorem setSending_adv (s : State) (p : Nat) (q : List Pkt) : (setSending s p q).adv = s.adv := rfl
@[simp] theorem setSending_rcd (s : State) (p : Nat) (q : List Pkt) : (setSending s p q).rcd = s.rcd := rfl
@[simp] theorem setSending_yld (s : State) (p : Nat) (q : List Pkt) : (setSending s p q).yld = s.yld := rfl
@[simp] theorem setSending_boot (s : State) (p : Nat) (q : List Pkt) : (setSending s p q).boot = s.boot := rfl
@[simp] theorem setSending_mg (s : State) (p : Nat) (q : List Pkt) : (setSending s p q).mg = s.mg := rfl
@[simp] theorem setSending_el (s : State) (p : Nat) (q : List Pkt) : (setSending s p q).el = s.el := rfl
@[simp] theorem setSending_flashA (s : State) (p : Nat) (q : List Pkt) : (setSending s p q).flashA = s.flashA := rfl
@[simp] theorem setSending_flashB (s : State) (p : Nat) (q : List Pkt) : (setSending s p q).flashB = s.flashB := rfl

@[simp] theorem setStat_regs (s : State) (p f : Nat) (x : QueueStat) : (setStat s p f x).regs = s.regs := rfl
@[simp] theorem setStat_pending (s : State) (p f : Nat) (x : QueueStat) : (setStat s p f x).pending = s.pending := rfl
@[simp] theorem setStat_picks (s : State) (p f : Nat) (x : QueueStat) : (setStat s p f x).picks = s.picks := rfl
@[simp] theorem setStat_roWrites (s : State) (p f : Nat) (x : QueueStat) : (setStat s p f x).roWrites = s.roWrites := rfl
@[simp] theorem setStat_fab (s : State) (p f : Nat) (x : QueueStat) : (setStat s p f x).fab = s.fab := rfl
@[simp] theorem setStat_links (s : State) (p f : Nat) (x : QueueStat) : (setStat s p f x).links = s.links := rfl
@[simp] theorem setStat_grn (s : State) (p f : Nat) (x : QueueStat) : (setStat s p f x).grn = s.grn := rfl
@[simp] theorem setStat_bnd (s : State) (p f : Nat) (x : QueueStat) : (setStat s p f x).bnd = s.bnd := rfl
@[simp] theorem setStat_cores (s : State) (p f : Nat) (x : QueueStat) : (setStat s p f x).cores = s.cores := rfl
@[simp] theorem setStat_stk (s : State) (p f : Nat) (x : QueueStat) : (setStat s p f x).stk = s.stk := rfl
@[simp] theorem setStat_vrd (s : State) (p f : Nat) (x : QueueStat) : (setStat s p f x).vrd = s.vrd := rfl
@[simp] theorem setStat_adv (s : State) (p f : Nat) (x : QueueStat) : (setStat s p f x).adv = s.adv := rfl
@[simp] theorem setStat_rcd (s : State) (p f : Nat) (x : QueueStat) : (setStat s p f x).rcd = s.rcd := rfl
@[simp] theorem setStat_boot (s : State) (p f : Nat) (x : QueueStat) : (setStat s p f x).boot = s.boot := rfl
@[simp] theorem setStat_mg (s : State) (p f : Nat) (x : QueueStat) : (setStat s p f x).mg = s.mg := rfl
@[simp] theorem setStat_el (s : State) (p f : Nat) (x : QueueStat) : (setStat s p f x).el = s.el := rfl
@[simp] theorem setStat_flashA (s : State) (p f : Nat) (x : QueueStat) : (setStat s p f x).flashA = s.flashA := rfl
@[simp] theorem setStat_flashB (s : State) (p f : Nat) (x : QueueStat) : (setStat s p f x).flashB = s.flashB := rfl

@[simp] theorem setStage_regs (s : State) (p : Nat) (x : Stage) : (setStage s p x).regs = s.regs := rfl
@[simp] theorem setStage_pending (s : State) (p : Nat) (x : Stage) : (setStage s p x).pending = s.pending := rfl
@[simp] theorem setStage_picks (s : State) (p : Nat) (x : Stage) : (setStage s p x).picks = s.picks := rfl
@[simp] theorem setStage_roWrites (s : State) (p : Nat) (x : Stage) : (setStage s p x).roWrites = s.roWrites := rfl
@[simp] theorem setStage_fab (s : State) (p : Nat) (x : Stage) : (setStage s p x).fab = s.fab := rfl
@[simp] theorem setStage_links (s : State) (p : Nat) (x : Stage) : (setStage s p x).links = s.links := rfl
@[simp] theorem setStage_grn (s : State) (p : Nat) (x : Stage) : (setStage s p x).grn = s.grn := rfl
@[simp] theorem setStage_bnd (s : State) (p : Nat) (x : Stage) : (setStage s p x).bnd = s.bnd := rfl
@[simp] theorem setStage_cores (s : State) (p : Nat) (x : Stage) : (setStage s p x).cores = s.cores := rfl
@[simp] theorem setStage_stk (s : State) (p : Nat) (x : Stage) : (setStage s p x).stk = s.stk := rfl
@[simp] theorem setStage_vrd (s : State) (p : Nat) (x : Stage) : (setStage s p x).vrd = s.vrd := rfl
@[simp] theorem setStage_adv (s : State) (p : Nat) (x : Stage) : (setStage s p x).adv = s.adv := rfl
@[simp] theorem setStage_rcd (s : State) (p : Nat) (x : Stage) : (setStage s p x).rcd = s.rcd := rfl
@[simp] theorem setStage_yld (s : State) (p : Nat) (x : Stage) : (setStage s p x).yld = s.yld := rfl
@[simp] theorem setStage_boot (s : State) (p : Nat) (x : Stage) : (setStage s p x).boot = s.boot := rfl
@[simp] theorem setStage_el (s : State) (p : Nat) (x : Stage) : (setStage s p x).el = s.el := rfl
@[simp] theorem setStage_flashA (s : State) (p : Nat) (x : Stage) : (setStage s p x).flashA = s.flashA := rfl
@[simp] theorem setStage_flashB (s : State) (p : Nat) (x : Stage) : (setStage s p x).flashB = s.flashB := rfl

@[simp] theorem rd_setLink (s : State) (p : Nat) (l : Link) (a : Nat) : rd (setLink s p l) a = rd s a := rfl
@[simp] theorem rd_setQueue (s : State) (p f : Nat) (q : List Pkt) (a : Nat) : rd (setQueue s p f q) a = rd s a := rfl
@[simp] theorem rd_setSending (s : State) (p : Nat) (q : List Pkt) (a : Nat) : rd (setSending s p q) a = rd s a := rfl
@[simp] theorem rd_setStat (s : State) (p f : Nat) (x : QueueStat) (a : Nat) : rd (setStat s p f x) a = rd s a := rfl
@[simp] theorem rd_setStage (s : State) (p : Nat) (x : Stage) (a : Nat) : rd (setStage s p x) a = rd s a := rfl

/-! ## What was changed -/

theorem link_setLink (s : State) (p q : Nat) (l : Link) :
    link (setLink s p l) q = if q = p then l else link s q := by
  unfold link setLink tone
  by_cases h : q = p
  · subst h
    simp only [tget_tset_same, if_true]
    split <;> simp_all
  · simp [tget_tset, h]

@[simp] theorem link_setLink_same (s : State) (p : Nat) (l : Link) : link (setLink s p l) p = l := by
  simp [link_setLink]

@[simp] theorem link_wr (s : State) (a : Nat) (w : Word) (p : Nat) : link (wr s a w) p = link s p := rfl

theorem queueOf_setQueue_same (s : State) (p f : Nat) (q : List Pkt) : queueOf (setQueue s p f q) p f = q := by
  simp [queueOf, setQueue]

@[simp] theorem stageOf_setStage_same (s : State) (path : Nat) (x : Stage) :
    stageOf (setStage s path x) path = x := by simp [stageOf, setStage]

end Sys2Proof.Machine
end

