-- ==== Sys2Proof/Laws/Keeps.lean ====
section
/-! SUPPORT. What an operation of the block leaves alone: the queue it found, canonical tables, the part's
identity, a legal start state, every slot fuse that was set, and the parts of the state and the register
blocks that its mask does not name. -/

namespace Sys2Proof.Machine

set_option Elab.async false

open Sys2Proof

/-! ## Masks

Bits 0 to 15 of a mask name parts of the state; bit 16 + k names the registers from `blockBase k` upward. -/

/-- Lowest register of a block: the global ones, fuses and commands of trust, ports, forwarding, Granary,
schedulers, clusters, groups, stacks, yield and recording, faults, events and counters, islands. -/
def blockBase : Nat → Nat
  | 0 => 0
  | 1 => 0x0110_0001
  | 2 => 0x1000_0000
  | 3 => 0x2000_0000
  | 4 => 0x3000_0000
  | 5 => 0x3800_0000
  | 6 => 0x4000_0000
  | 7 => 0x7000_0000
  | 8 => 0x8000_0000
  | 9 => 0xA000_0000
  | 10 => 0xA200_0000
  | 11 => 0xA300_0000
  | _ => 0x1_0000_0000_0000

theorem blockBase_mono {j k : Nat} (h : j ≤ k) : blockBase j ≤ blockBase k := by
  by_cases hk : k < 12
  · interval_cases k <;> interval_cases j <;> decide
  · obtain ⟨n, rfl⟩ := Nat.exists_eq_add_of_le' (Nat.le_of_not_lt hk)
    show blockBase j ≤ 0x1_0000_0000_0000
    unfold blockBase
    split <;> decide

/-- A mask within another. -/
def Fits (e m : Nat) : Prop := e ||| m = m

theorem Fits.refl (m : Nat) : Fits m m := Nat.or_self m

theorem Fits.sub {e e' m : Nat} (h : Fits e m) (h' : e' ||| e = e) : Fits e' m := by
  unfold Fits at *
  rw [← h, ← Nat.or_assoc, h']

theorem Fits.off {e m i : Nat} (h : Fits e m) (hi : m.testBit i = false) : e.testBit i = false := by
  have h2 := congrArg (Nat.testBit · i) h
  simp only [Nat.testBit_or, hi, Bool.or_false] at h2
  exact h2

/-- What lies between a state r and a later one s of the same command, whose operations touch what m names. -/
structure Keeps (m : Nat) (r s : State) : Prop where
  pending : s.pending = r.pending
  regs : regsWf r.regs = true → regsWf s.regs = true
  mem : memoriesWf r → memoriesWf s
  capId : rd r aCapId = resetWord aCapId → rd s aCapId = resetWord aCapId
  capSizes : rd r aCapSizes = resetWord aCapSizes → rd s aCapSizes = resetWord aCapSizes
  boot : rdf r aBoot 59 58 ≤ 2 → rdf s aBoot 59 58 ≤ 2
  fuses : ∀ k, 49 ≤ k → k ≤ 56 → rdb r aFuse k = true → rdb s aFuse k = true
  fab : m.testBit 0 = false → s.fab = r.fab
  links : m.testBit 1 = false → s.links = r.links
  grn : m.testBit 2 = false → s.grn = r.grn
  bnd : m.testBit 3 = false → s.bnd = r.bnd
  cores : m.testBit 4 = false → s.cores = r.cores
  stk : m.testBit 5 = false → stackState s.stk = stackState r.stk
  vrd : m.testBit 6 = false → s.vrd = r.vrd
  adv : m.testBit 7 = false → s.adv = r.adv
  rcd : m.testBit 8 = false → s.rcd = r.rcd
  yld : m.testBit 9 = false → s.yld = r.yld
  work : m.testBit 10 = false → workOf s.boot = workOf r.boot
  hbm : m.testBit 11 = false → s.stk.hbm = r.stk.hbm
  mg : m.testBit 12 = false → s.mg = r.mg
  el : m.testBit 13 = false → s.el = r.el
  flashA : m.testBit 14 = false → s.flashA = r.flashA
  flashB : m.testBit 14 = false → s.flashB = r.flashB
  trust : m.testBit 15 = false → trustOf s.boot = trustOf r.boot
  low : ∀ a, (∀ j, m.testBit (16 + j) = true → a < blockBase j) → rd s a = rd r a

/-- The first component, an optional state, an optional first component, a write's state, an answer. -/
def KeepsP {α : Type} (m : Nat) (r : State) (p : State × α) : Prop := Keeps m r p.1
def KeepsO (m : Nat) (r : State) (o : Option State) : Prop := ∀ t, o = some t → Keeps m r t
def KeepsOP {α : Type} (m : Nat) (r : State) (o : Option (State × α)) : Prop := ∀ t, o = some t → Keeps m r t.1
def KeepsW (m : Nat) (r : State) (w : WrRes) : Prop := Keeps m r w.st
def KeepsA (m : Nat) (r : State) (a : Answer) : Prop := ∀ t, a = .next t → Keeps m r t

theorem Keeps.refl (m : Nat) (s : State) : Keeps m s s := by
  constructor <;> intros <;> first | rfl | assumption

theorem Keeps.trans {m : Nat} {r s t : State} (h : Keeps m r s) (g : Keeps m s t) : Keeps m r t where
  pending := g.pending.trans h.pending
  regs := g.regs ∘ h.regs
  mem := g.mem ∘ h.mem
  capId := g.capId ∘ h.capId
  capSizes := g.capSizes ∘ h.capSizes
  boot := g.boot ∘ h.boot
  fuses := fun k h1 h2 h3 => g.fuses k h1 h2 (h.fuses k h1 h2 h3)
  fab := fun e => (g.fab e).trans (h.fab e)
  links := fun e => (g.links e).trans (h.links e)
  grn := fun e => (g.grn e).trans (h.grn e)
  bnd := fun e => (g.bnd e).trans (h.bnd e)
  cores := fun e => (g.cores e).trans (h.cores e)
  stk := fun e => (g.stk e).trans (h.stk e)
  vrd := fun e => (g.vrd e).trans (h.vrd e)
  adv := fun e => (g.adv e).trans (h.adv e)
  rcd := fun e => (g.rcd e).trans (h.rcd e)
  yld := fun e => (g.yld e).trans (h.yld e)
  work := fun e => (g.work e).trans (h.work e)
  hbm := fun e => (g.hbm e).trans (h.hbm e)
  mg := fun e => (g.mg e).trans (h.mg e)
  el := fun e => (g.el e).trans (h.el e)
  flashA := fun e => (g.flashA e).trans (h.flashA e)
  flashB := fun e => (g.flashB e).trans (h.flashB e)
  trust := fun e => (g.trust e).trans (h.trust e)
  low := fun a e => (g.low a e).trans (h.low a e)

theorem Keeps.sound {m : Nat} {s t : State} (h : Keeps m s t) (hs : sound s) : sound t :=
  ⟨h.regs hs.1, h.mem hs.2.1, h.capId hs.2.2.1, h.capSizes hs.2.2.2.1, h.boot hs.2.2.2.2⟩

/-- Registers below every block that the mask names. -/
theorem Keeps.below {m k a : Nat} {r s : State} (h : Keeps m r s) (hk : m >>> 16 % 2 ^ k = 0)
    (ha : a < blockBase k) : rd s a = rd r a := by
  refine h.low a fun j hj => ?_
  have h2 : (m >>> 16).testBit j = true := by rw [Nat.testBit_shiftRight]; exact hj
  by_cases hjk : j < k
  · have h3 : (m >>> 16 % 2 ^ k).testBit j = true := by
      rw [Nat.testBit_mod_two_pow]; simp [hjk, h2]
    rw [hk, Nat.zero_testBit] at h3
    cases h3
  · exact lt_of_lt_of_le ha (blockBase_mono (by omega))

/-- The boot state, the stacks' state and all registers, where the mask names no part of them. -/
theorem Keeps.bootState {m : Nat} {r s : State} (h : Keeps m r s) (h1 : m.testBit 10 = false)
    (h2 : m.testBit 15 = false) : s.boot = r.boot := by
  have w := h.work h1
  have t := h.trust h2
  unfold workOf at w
  unfold trustOf at t
  cases hs : s.boot; cases hr : r.boot
  simp_all

theorem Keeps.stacks {m : Nat} {r s : State} (h : Keeps m r s) (h1 : m.testBit 5 = false)
    (h2 : m.testBit 11 = false) : s.stk = r.stk := by
  have w := h.stk h1
  have t := h.hbm h2
  unfold stackState at w
  cases hs : s.stk; cases hr : r.stk
  simp_all

theorem Keeps.allRegs {m : Nat} {r s : State} (h : Keeps m r s) (hm : m < 65536) (a : Nat) :
    rd s a = rd r a := by
  refine h.low a fun j hj => ?_
  rw [Nat.testBit_lt_two_pow (lt_of_lt_of_le hm (Nat.pow_le_pow_right (n := 2) (by omega) (by omega : 16 ≤ 16 + j)))] at hj
  cases hj

/-! ## Updates of the parts -/

/-- t with s's value in every part that e names, memories apart. -/
def restored (e : Nat) (s t : State) : State :=
  { t with
    picks := s.picks
    roWrites := s.roWrites
    fab := bif e.testBit 0 then s.fab else t.fab
    links := bif e.testBit 1 then s.links else t.links
    grn := bif e.testBit 2 then s.grn else t.grn
    bnd := bif e.testBit 3 then s.bnd else t.bnd
    cores := bif e.testBit 4 then s.cores else t.cores
    stk := bif e.testBit 5 then { s.stk with hbm := t.stk.hbm } else t.stk
    vrd := bif e.testBit 6 then s.vrd else t.vrd
    adv := bif e.testBit 7 then s.adv else t.adv
    rcd := bif e.testBit 8 then s.rcd else t.rcd
    yld := bif e.testBit 9 then s.yld else t.yld
    boot := bif e.testBit 15 then
        (bif e.testBit 10 then { s.boot with grant := t.boot.grant } else
          { s.boot with grant := t.boot.grant, flashJobs := t.boot.flashJobs, ledger := t.boot.ledger,
                        ledgerBank := t.boot.ledgerBank, ledgerDue := t.boot.ledgerDue,
                        journal := t.boot.journal })
      else (bif e.testBit 10 then
          { t.boot with flashJobs := s.boot.flashJobs, ledger := s.boot.ledger,
                        ledgerBank := s.boot.ledgerBank, ledgerDue := s.boot.ledgerDue,
                        journal := s.boot.journal }
        else t.boot)
    mg := bif e.testBit 12 then s.mg else t.mg
    el := bif e.testBit 13 then s.el else t.el }

/-- An update of parts that a mask names, registers and memories as they were. -/
theorem Keeps.upd {m : Nat} (e : Nat) {r s t : State} (h : Keeps m r s) (he : Fits e m)
    (hu : restored e s t = s) : Keeps m r t := by
  have hr : t.regs = s.regs := by have h2 := congrArg State.regs hu; exact h2
  have hp : t.pending = s.pending := by have h2 := congrArg State.pending hu; exact h2
  have hfa : t.flashA = s.flashA := by have h2 := congrArg State.flashA hu; exact h2
  have hfb : t.flashB = s.flashB := by have h2 := congrArg State.flashB hu; exact h2
  have hh : t.stk.hbm = s.stk.hbm := by
    have h2 := congrArg (fun x => x.stk.hbm) hu
    cases h3 : e.testBit 5 <;> simp only [restored, h3] at h2 <;> exact h2
  have hg : t.boot.grant = s.boot.grant := by
    have h2 := congrArg (fun x => x.boot.grant) hu
    cases h3 : e.testBit 15 <;> cases h4 : e.testBit 10 <;> simp only [restored, h3, h4] at h2 <;> exact h2
  refine h.trans
    { pending := hp, regs := by rw [hr]; exact id
      mem := ?_, capId := by rw [rd_congr hr]; exact id, capSizes := by rw [rd_congr hr]; exact id
      boot := by unfold rdf; rw [rd_congr hr]; exact id
      fuses := fun k _ _ => by unfold rdb; rw [rd_congr hr]; exact id
      fab := ?_, links := ?_, grn := ?_, bnd := ?_, cores := ?_, stk := ?_, vrd := ?_, adv := ?_, rcd := ?_
      yld := ?_, work := ?_, hbm := fun _ => hh, mg := ?_, el := ?_
      flashA := fun _ => hfa, flashB := fun _ => hfb, trust := ?_
      low := fun a _ => rd_congr hr a }
  · unfold memoriesWf
    rw [hh, hg, hfa, hfb]
    exact id
  all_goals intro hb; have hb := he.off hb
  · have h2 := congrArg State.fab hu; simp only [restored, hb] at h2; exact h2
  · have h2 := congrArg State.links hu; simp only [restored, hb] at h2; exact h2
  · have h2 := congrArg State.grn hu; simp only [restored, hb] at h2; exact h2
  · have h2 := congrArg State.bnd hu; simp only [restored, hb] at h2; exact h2
  · have h2 := congrArg State.cores hu; simp only [restored, hb] at h2; exact h2
  · have h2 := congrArg (fun x => stackState x.stk) hu; simp only [restored, hb] at h2; exact h2
  · have h2 := congrArg State.vrd hu; simp only [restored, hb] at h2; exact h2
  · have h2 := congrArg State.adv hu; simp only [restored, hb] at h2; exact h2
  · have h2 := congrArg State.rcd hu; simp only [restored, hb] at h2; exact h2
  · have h2 := congrArg State.yld hu; simp only [restored, hb] at h2; exact h2
  · have h2 := congrArg (fun x => workOf x.boot) hu
    cases h3 : e.testBit 15 <;> simp only [restored, hb, h3] at h2 <;> exact h2
  · have h2 := congrArg State.mg hu; simp only [restored, hb] at h2; exact h2
  · have h2 := congrArg State.el hu; simp only [restored, hb] at h2; exact h2
  · have h2 := congrArg (fun x => trustOf x.boot) hu
    cases h3 : e.testBit 10 <;> simp only [restored, hb, h3] at h2 <;> exact h2

/-! ## Memories -/

theorem Keeps.setHbm {m : Nat} {r s : State} {x : Memory} (h : Keeps m r s) (he : Fits 2048 m)
    (hm : memoryWf 0x00 s.stk.hbm = true → memoryWf 0x00 x = true) :
    Keeps m r { s with stk := { s.stk with hbm := x } } := by
  refine h.trans { Keeps.refl m s with mem := fun g => ⟨hm g.1, g.2⟩, stk := fun _ => rfl, hbm := fun e => ?_ }
  exact absurd (he.off e) (by decide)

theorem Keeps.setFlashA {m : Nat} {r s : State} {x : Memory} (h : Keeps m r s) (he : Fits 16384 m)
    (hm : memoriesWf s → memoryWf 0xFF x = true) : Keeps m r { s with flashA := x } := by
  refine h.trans { Keeps.refl m s with mem := fun g => ⟨g.1, hm g, g.2.2⟩, flashA := fun e => ?_ }
  exact absurd (he.off e) (by decide)

theorem Keeps.setFlashB {m : Nat} {r s : State} {x : Memory} (h : Keeps m r s) (he : Fits 16384 m)
    (hm : memoriesWf s → memoryWf 0xFF x = true) : Keeps m r { s with flashB := x } := by
  refine h.trans { Keeps.refl m s with mem := fun g => ⟨g.1, g.2.1, hm g, g.2.2.2⟩, flashB := fun e => ?_ }
  exact absurd (he.off e) (by decide)

theorem Keeps.setGrant {m : Nat} {r s : State} {x : Memory} (h : Keeps m r s) (he : Fits 32768 m)
    (hm : memoryWf 0x00 s.boot.grant = true → memoryWf 0x00 x = true) :
    Keeps m r { s with boot := { s.boot with grant := x } } := by
  refine h.trans { Keeps.refl m s with mem := fun g => ⟨g.1, g.2.1, g.2.2.1, hm g.2.2.2⟩, work := fun _ => rfl, trust := fun e => ?_ }
  exact absurd (he.off e) (by decide)

/-! ## Registers -/

theorem regsWf_iff (t : Tbl Word) : regsWf t = true ↔ canon resetWord t := by
  induction t with
  | nil => simp [regsWf, canon]
  | cons kv t ih => simp [regsWf, canon, ih, and_assoc]

theorem regsWf_wr (s : State) (a : Nat) (w : Word) (h : regsWf s.regs = true) :
    regsWf (wr s a w).regs = true := by
  rw [regsWf_iff] at *
  exact canon_tset (d := resetWord) s.regs a w h

/-- A register of a block whose word the claims about every step do not name. -/
def okAt (k a : Nat) : Prop :=
  (a ≠ 0x1000 ∧ a ≠ 0x1008 ∧ a ≠ 0x0400 ∧ a ≠ 0x0110_0000) ∧ blockBase k ≤ a

theorem okAt_high {k a : Nat} (h : 0x0110_0001 ≤ blockBase k) (ha : blockBase k ≤ a) : okAt k a :=
  ⟨⟨by omega, by omega, by omega, by omega⟩, ha⟩

theorem okAt_add {k a n : Nat} (h : 0x0110_0001 ≤ blockBase k) (ha : blockBase k ≤ a) : okAt k (a + n) :=
  okAt_high h (by omega)

@[simp] theorem aIsland_from {b i : Nat} (hb : b ≤ 0x1000000000000) : b ≤ aIsland i := by
  simp only [aIsland]; omega
@[simp] theorem aSecCmd_from {b : Nat} (hb : b ≤ 0x1100001) : b ≤ aSecCmd := by
  simp only [aSecCmd]; omega
@[simp] theorem aSecStat_from {b : Nat} (hb : b ≤ 0x1100001) : b ≤ aSecStat := by
  simp only [aSecStat]; omega
@[simp] theorem aHtcStat_from {b : Nat} (hb : b ≤ 0x1100001) : b ≤ aHtcStat := by
  simp only [aHtcStat]; omega
@[simp] theorem aPrt_from {b p off : Nat} (hb : b ≤ 0x10000000) : b ≤ aPrt p off := by
  simp only [aPrt]; omega
@[simp] theorem aLinkCfg_from {b p : Nat} (hb : b ≤ 0x10000000) : b ≤ aLinkCfg p := by
  simp only [aLinkCfg, aPrt]; omega
@[simp] theorem aLinkStat_from {b p : Nat} (hb : b ≤ 0x10000000) : b ≤ aLinkStat p := by
  simp only [aLinkStat, aPrt]; omega
@[simp] theorem aLinkPeer_from {b p : Nat} (hb : b ≤ 0x10000000) : b ≤ aLinkPeer p := by
  simp only [aLinkPeer, aPrt]; omega
@[simp] theorem aLinkCmd_from {b p : Nat} (hb : b ≤ 0x10000000) : b ≤ aLinkCmd p := by
  simp only [aLinkCmd, aPrt]; omega
@[simp] theorem aRetryStat_from {b p : Nat} (hb : b ≤ 0x10000000) : b ≤ aRetryStat p := by
  simp only [aRetryStat, aPrt]; omega
@[simp] theorem aCable_from {b p : Nat} (hb : b ≤ 0x10000000) : b ≤ aCable p := by
  simp only [aCable, aPrt]; omega
@[simp] theorem aRetrySel_from {b p : Nat} (hb : b ≤ 0x10000000) : b ≤ aRetrySel p := by
  simp only [aRetrySel, aPrt]; omega
@[simp] theorem aCredit_from {b p f : Nat} (hb : b ≤ 0x10000000) : b ≤ aCredit p f := by
  simp only [aCredit, aPrt]; omega
@[simp] theorem aPool_from {b p : Nat} (hb : b ≤ 0x10000000) : b ≤ aPool p := by
  simp only [aPool, aPrt]; omega
@[simp] theorem aCmarkThr_from {b p f : Nat} (hb : b ≤ 0x10000000) : b ≤ aCmarkThr p f := by
  simp only [aCmarkThr, aPrt]; omega
@[simp] theorem aFence_from {b p j : Nat} (hb : b ≤ 0x10000000) : b ≤ aFence p j := by
  simp only [aFence, aPrt]; omega
@[simp] theorem aLane_from {b l off : Nat} (hb : b ≤ 0x10000000) : b ≤ aLane l off := by
  simp only [aLane, aPrt]; omega
@[simp] theorem aLaneStat_from {b l : Nat} (hb : b ≤ 0x10000000) : b ≤ aLaneStat l := by
  simp only [aLaneStat, aPrt]; omega
@[simp] theorem aLaneTest_from {b l : Nat} (hb : b ≤ 0x10000000) : b ≤ aLaneTest l := by
  simp only [aLaneTest, aPrt]; omega
@[simp] theorem aLaneCmd_from {b l : Nat} (hb : b ≤ 0x10000000) : b ≤ aLaneCmd l := by
  simp only [aLaneCmd, aPrt]; omega
@[simp] theorem aPrbsErr_from {b l : Nat} (hb : b ≤ 0x10000000) : b ≤ aPrbsErr l := by
  simp only [aPrbsErr, aPrt]; omega
@[simp] theorem aFwdCfg_from {b : Nat} (hb : b ≤ 0x20000000) : b ≤ aFwdCfg := by
  simp only [aFwdCfg]; omega
@[simp] theorem aFwdEpoch_from {b : Nat} (hb : b ≤ 0x20000000) : b ≤ aFwdEpoch := by
  simp only [aFwdEpoch]; omega
@[simp] theorem aFwdCmd_from {b : Nat} (hb : b ≤ 0x20000000) : b ≤ aFwdCmd := by
  simp only [aFwdCmd]; omega
@[simp] theorem aFwdStat_from {b : Nat} (hb : b ≤ 0x20000000) : b ≤ aFwdStat := by
  simp only [aFwdStat]; omega
@[simp] theorem aFwdEntry_from {b i : Nat} (hb : b ≤ 0x20000000) : b ≤ aFwdEntry i := by
  simp only [aFwdEntry]; omega
@[simp] theorem aEcmp_from {b s w : Nat} (hb : b ≤ 0x20000000) : b ≤ aEcmp s w := by
  simp only [aEcmp]; omega
@[simp] theorem aGrnShare_from {b : Nat} (hb : b ≤ 0x30000000) : b ≤ aGrnShare := by
  simp only [aGrnShare]; omega
@[simp] theorem aGleanCfg_from {b : Nat} (hb : b ≤ 0x30000000) : b ≤ aGleanCfg := by
  simp only [aGleanCfg]; omega
@[simp] theorem aGleanStat_from {b : Nat} (hb : b ≤ 0x30000000) : b ≤ aGleanStat := by
  simp only [aGleanStat]; omega
@[simp] theorem aPeekPtr_from {b : Nat} (hb : b ≤ 0x30000000) : b ≤ aPeekPtr := by
  simp only [aPeekPtr]; omega
@[simp] theorem aGrnErr_from {b w : Nat} (hb : b ≤ 0x30000000) : b ≤ aGrnErr w := by
  simp only [aGrnErr]; omega
@[simp] theorem aGrnClass_from {b k : Nat} (hb : b ≤ 0x30000000) : b ≤ aGrnClass k := by
  simp only [aGrnClass]; omega
@[simp] theorem aQuota_from {b plot f : Nat} (hb : b ≤ 0x30000000) : b ≤ aQuota plot f := by
  simp only [aQuota]; omega
@[simp] theorem aBufStatus_from {b row : Nat} (hb : b ≤ 0x30000000) : b ≤ aBufStatus row := by
  simp only [aBufStatus]; omega
@[simp] theorem aOwnerRec_from {b r w : Nat} (hb : b ≤ 0x30000000) : b ≤ aOwnerRec r w := by
  simp only [aOwnerRec]; omega
@[simp] theorem aSchPort_from {b p : Nat} (hb : b ≤ 0x38000000) : b ≤ aSchPort p := by
  simp only [aSchPort]; omega
@[simp] theorem aSch_from {b p f w : Nat} (hb : b ≤ 0x38000000) : b ≤ aSch p f w := by
  simp only [aSch]; omega
@[simp] theorem aPol_from {b p i w : Nat} (hb : b ≤ 0x38000000) : b ≤ aPol p i w := by
  simp only [aPol]; omega
@[simp] theorem aCluster_from {b n off : Nat} (hb : b ≤ 0x40000000) : b ≤ aCluster n off := by
  simp only [aCluster]; omega
@[simp] theorem aMember_from {b n i w : Nat} (hb : b ≤ 0x40000000) : b ≤ aMember n i w := by
  simp only [aMember, aCluster]; omega
@[simp] theorem aAdv_from {b n p : Nat} (hb : b ≤ 0x40000000) : b ≤ aAdv n p := by
  simp only [aAdv, aCluster]; omega
@[simp] theorem aCsStatus_from {b n c i : Nat} (hb : b ≤ 0x40000000) : b ≤ aCsStatus n c i := by
  simp only [aCsStatus, aCluster]; omega
@[simp] theorem aHubWatch_from {b n : Nat} (hb : b ≤ 0x40000000) : b ≤ aHubWatch n := by
  simp only [aHubWatch, aCluster]; omega
@[simp] theorem aHubTime_from {b n : Nat} (hb : b ≤ 0x40000000) : b ≤ aHubTime n := by
  simp only [aHubTime, aCluster]; omega
@[simp] theorem aDrl_from {b u off : Nat} (hb : b ≤ 0x40000000) : b ≤ aDrl u off := by
  simp only [aDrl, aCluster]; omega
@[simp] theorem aGroup_from {b g w : Nat} (hb : b ≤ 0x70000000) : b ≤ aGroup g w := by
  simp only [aGroup]; omega
@[simp] theorem aGroupDir_from {b g : Nat} (hb : b ≤ 0x70000000) : b ≤ aGroupDir g := by
  simp only [aGroupDir]; omega
@[simp] theorem aGroupCmd_from {b : Nat} (hb : b ≤ 0x70000000) : b ≤ aGroupCmd := by
  simp only [aGroupCmd]; omega
@[simp] theorem aGroupStat_from {b : Nat} (hb : b ≤ 0x70000000) : b ≤ aGroupStat := by
  simp only [aGroupStat]; omega
@[simp] theorem aOscale_from {b g w : Nat} (hb : b ≤ 0x70000000) : b ≤ aOscale g w := by
  simp only [aOscale]; omega
@[simp] theorem aPlot_from {b p w : Nat} (hb : b ≤ 0x70000000) : b ≤ aPlot p w := by
  simp only [aPlot]; omega
@[simp] theorem aPlotCmd_from {b : Nat} (hb : b ≤ 0x70000000) : b ≤ aPlotCmd := by
  simp only [aPlotCmd]; omega
@[simp] theorem aPlotStat_from {b : Nat} (hb : b ≤ 0x70000000) : b ≤ aPlotStat := by
  simp only [aPlotStat]; omega
@[simp] theorem aStack_from {b n off : Nat} (hb : b ≤ 0x80000000) : b ≤ aStack n off := by
  simp only [aStack]; omega
@[simp] theorem aTilCfg_from {b n : Nat} (hb : b ≤ 0x80000000) : b ≤ aTilCfg n := by
  simp only [aTilCfg, aStack]; omega
@[simp] theorem aTilCmd_from {b n : Nat} (hb : b ≤ 0x80000000) : b ≤ aTilCmd n := by
  simp only [aTilCmd, aStack]; omega
@[simp] theorem aTilArg_from {b n : Nat} (hb : b ≤ 0x80000000) : b ≤ aTilArg n := by
  simp only [aTilArg, aStack]; omega
@[simp] theorem aTilStat_from {b n : Nat} (hb : b ≤ 0x80000000) : b ≤ aTilStat n := by
  simp only [aTilStat, aStack]; omega
@[simp] theorem aTilRecipe_from {b n i : Nat} (hb : b ≤ 0x80000000) : b ≤ aTilRecipe n i := by
  simp only [aTilRecipe, aStack]; omega
@[simp] theorem aVrd_from {b n off : Nat} (hb : b ≤ 0x80000000) : b ≤ aVrd n off := by
  simp only [aVrd, aStack]; omega
@[simp] theorem aVrdCmd_from {b n : Nat} (hb : b ≤ 0x80000000) : b ≤ aVrdCmd n := by
  simp only [aVrdCmd, aStack, aVrd]; omega
@[simp] theorem aVrdArg0_from {b n : Nat} (hb : b ≤ 0x80000000) : b ≤ aVrdArg0 n := by
  simp only [aVrdArg0, aVrd, aStack]; omega
@[simp] theorem aVrdArg1_from {b n : Nat} (hb : b ≤ 0x80000000) : b ≤ aVrdArg1 n := by
  simp only [aVrdArg1, aStack, aVrd]; omega
@[simp] theorem aVrdStat_from {b n : Nat} (hb : b ≤ 0x80000000) : b ≤ aVrdStat n := by
  simp only [aVrdStat, aStack, aVrd]; omega
@[simp] theorem aVerdict_from {b p w : Nat} (hb : b ≤ 0x80000000) : b ≤ aVerdict p w := by
  simp only [aVerdict, aVrd, aStack]; omega
@[simp] theorem aFbk_from {b n off : Nat} (hb : b ≤ 0x80000000) : b ≤ aFbk n off := by
  simp only [aFbk, aStack]; omega
@[simp] theorem aTurnCfg_from {b n : Nat} (hb : b ≤ 0x80000000) : b ≤ aTurnCfg n := by
  simp only [aTurnCfg, aFbk, aStack]; omega
@[simp] theorem aTurnCmd_from {b n : Nat} (hb : b ≤ 0x80000000) : b ≤ aTurnCmd n := by
  simp only [aTurnCmd, aFbk, aStack]; omega
@[simp] theorem aTurnStat_from {b n : Nat} (hb : b ≤ 0x80000000) : b ≤ aTurnStat n := by
  simp only [aTurnStat, aStack, aFbk]; omega
@[simp] theorem aTurn_from {b n t w : Nat} (hb : b ≤ 0x80000000) : b ≤ aTurn n t w := by
  simp only [aTurn, aFbk, aStack]; omega
@[simp] theorem aEntry_from {b n e w : Nat} (hb : b ≤ 0x80000000) : b ≤ aEntry n e w := by
  simp only [aEntry, aFbk, aStack]; omega
@[simp] theorem aHyp_from {b n h w : Nat} (hb : b ≤ 0x80000000) : b ≤ aHyp n h w := by
  simp only [aHyp, aFbk, aStack]; omega
@[simp] theorem aLanding_from {b n r w : Nat} (hb : b ≤ 0x80000000) : b ≤ aLanding n r w := by
  simp only [aLanding, aFbk, aStack]; omega
@[simp] theorem aYld_from {b off : Nat} (hb : b ≤ 0xA0000000) : b ≤ aYld off := by
  simp only [aYld]; omega
@[simp] theorem aRec_from {b off : Nat} (hb : b ≤ 0xA0000000) : b ≤ aRec off := by
  simp only [aRec]; omega
@[simp] theorem aFltCfg_from {b : Nat} (hb : b ≤ 0xA2000000) : b ≤ aFltCfg := by
  simp only [aFltCfg]; omega
@[simp] theorem aFltCmd_from {b : Nat} (hb : b ≤ 0xA2000000) : b ≤ aFltCmd := by
  simp only [aFltCmd]; omega
@[simp] theorem aFltStat_from {b : Nat} (hb : b ≤ 0xA2000000) : b ≤ aFltStat := by
  simp only [aFltStat]; omega
@[simp] theorem aFltCore_from {b u : Nat} (hb : b ≤ 0xA2000000) : b ≤ aFltCore u := by
  simp only [aFltCore]; omega
@[simp] theorem aLedger_from {b r w : Nat} (hb : b ≤ 0xA2000000) : b ≤ aLedger r w := by
  simp only [aLedger]; omega
@[simp] theorem aEvt_from {b off : Nat} (hb : b ≤ 0xA3000000) : b ≤ aEvt off := by
  simp only [aEvt]; omega
@[simp] theorem aEvtEntry_from {b seq w : Nat} (hb : b ≤ 0xA3000000) : b ≤ aEvtEntry seq w := by
  simp only [aEvtEntry, aEvt]; omega
@[simp] theorem aCnt_from {b g i x : Nat} (hb : b ≤ 0xA3000000) : b ≤ aCnt g i x := by
  simp only [aCnt]; omega
@[simp] theorem aSnapCmd_from {b : Nat} (hb : b ≤ 0xA3000000) : b ≤ aSnapCmd := by
  simp only [aSnapCmd]; omega
@[simp] theorem aSnapStat_from {b : Nat} (hb : b ≤ 0xA3000000) : b ≤ aSnapStat := by
  simp only [aSnapStat]; omega
@[simp] theorem aSnapCfg_from {b : Nat} (hb : b ≤ 0xA3000000) : b ≤ aSnapCfg := by
  simp only [aSnapCfg]; omega
@[simp] theorem aSnapGroup_from {b g w : Nat} (hb : b ≤ 0xA3000000) : b ≤ aSnapGroup g w := by
  simp only [aSnapGroup]; omega
@[simp] theorem statusAddr_from {b : Nat} {st : Store} {p : Nat} (hb : b ≤ 0x30000000) : b ≤ statusAddr st p := by
  unfold statusAddr; split <;> simp only [aBufStatus, aCsStatus, aCluster] <;> omega

theorem Keeps.wr {m k : Nat} {r s : State} {a : Nat} {w : Word} (h : Keeps m r s) (he : Fits (65536 <<< k) m)
    (ha : okAt k a := by
      first
      | exact ⟨by decide, by decide⟩
      | (apply okAt_high (by decide); simp [blockBase]; done)
      | (apply okAt_high (by decide); simp +zetaDelta [blockBase]; done)
      | (apply okAt_add (by decide); simp [blockBase]; done)
      | (apply okAt_add (by decide); simp +zetaDelta [blockBase]; done)) :
    Keeps m r (Machine.wr s a w) := by
  obtain ⟨⟨h1, h2, h3, h4⟩, h5⟩ := ha
  refine h.trans { Keeps.refl m s with
    pending := rfl, regs := regsWf_wr s a w, mem := id, capId := ?_, capSizes := ?_, boot := ?_, fuses := ?_, low := ?_ }
  · rw [rd_wr_other (b := aCapId) (Ne.symm h1)]; exact id
  · rw [rd_wr_other (b := aCapSizes) (Ne.symm h2)]; exact id
  · unfold rdf; rw [rd_wr_other (b := aBoot) (Ne.symm h3)]; exact id
  · intro j _ _; unfold rdb; rw [rd_wr_other (b := aFuse) (Ne.symm h4)]; exact id
  · intro b hb
    refine rd_wr_other ?_
    have h6 : m.testBit (16 + k) = true := by
      cases h7 : m.testBit (16 + k) with
      | true => rfl
      | false =>
        have h8 := he.off h7
        have h9 : k ≤ 16 + k := by omega
        rw [Nat.testBit_shiftLeft, Nat.add_sub_cancel, decide_eq_true h9] at h8
        exact absurd h8 (by decide)
    have := hb k h6
    omega

theorem Keeps.wrf {m k : Nat} {r s : State} {a hi lo v : Nat} (h : Keeps m r s) (he : Fits (65536 <<< k) m)
    (ha : okAt k a := by
      first
      | exact ⟨by decide, by decide⟩
      | (apply okAt_high (by decide); simp [blockBase]; done)
      | (apply okAt_high (by decide); simp +zetaDelta [blockBase]; done)
      | (apply okAt_add (by decide); simp [blockBase]; done)
      | (apply okAt_add (by decide); simp +zetaDelta [blockBase]; done)) :
    Keeps m r (Machine.wrf s a hi lo v) := Keeps.wr h he ha

theorem Keeps.bump {m k : Nat} {r s : State} {a hi lo v : Nat} (h : Keeps m r s) (he : Fits (65536 <<< k) m)
    (ha : okAt k a := by
      first
      | exact ⟨by decide, by decide⟩
      | (apply okAt_high (by decide); simp [blockBase]; done)
      | (apply okAt_high (by decide); simp +zetaDelta [blockBase]; done)
      | (apply okAt_add (by decide); simp [blockBase]; done)
      | (apply okAt_add (by decide); simp +zetaDelta [blockBase]; done)) :
    Keeps m r (Machine.bump s a hi lo v) := Keeps.wr h he ha

theorem Keeps.bumpMod {m k : Nat} {r s : State} {a hi lo v : Nat} (h : Keeps m r s) (he : Fits (65536 <<< k) m)
    (ha : okAt k a := by
      first
      | exact ⟨by decide, by decide⟩
      | (apply okAt_high (by decide); simp [blockBase]; done)
      | (apply okAt_high (by decide); simp +zetaDelta [blockBase]; done)
      | (apply okAt_add (by decide); simp [blockBase]; done)
      | (apply okAt_add (by decide); simp +zetaDelta [blockBase]; done)) :
    Keeps m r (Machine.bumpMod s a hi lo v) := Keeps.wr h he ha

theorem Keeps.drain {m k : Nat} {r s : State} {a hi lo v : Nat} (h : Keeps m r s) (he : Fits (65536 <<< k) m)
    (ha : okAt k a := by
      first
      | exact ⟨by decide, by decide⟩
      | (apply okAt_high (by decide); simp [blockBase]; done)
      | (apply okAt_high (by decide); simp +zetaDelta [blockBase]; done)
      | (apply okAt_add (by decide); simp [blockBase]; done)
      | (apply okAt_add (by decide); simp +zetaDelta [blockBase]; done)) :
    Keeps m r (Machine.drain s a hi lo v) := Keeps.wr h he ha

theorem Keeps.lowBit {m a : Nat} (he : Fits 65536 m)
    (ha : ∀ j, m.testBit (16 + j) = true → a < blockBase j) : False := by
  have h : m.testBit 16 = true := by
    cases h7 : m.testBit 16 with
    | true => rfl
    | false => exact absurd (he.off h7) (by decide)
  exact absurd (ha 0 h) (Nat.not_lt_zero a)

/-- A field of GLB_BOOT other than STATE, or a legal STATE (R423). -/
theorem Keeps.bootField {m : Nat} {r s : State} {hi lo v : Nat} (h : Keeps m r s) (he : Fits 65536 m)
    (hf : hi < 58 ∨ 59 < lo ∨ (hi = 59 ∧ lo = 58 ∧ v ≤ 2) := by first | omega | decide) :
    Keeps m r (Machine.wrf s aBoot hi lo v) := by
  refine h.trans { Keeps.refl m s with
    pending := rfl, regs := regsWf_wr s aBoot _, mem := id, capId := ?_, capSizes := ?_, boot := ?_, fuses := ?_
    low := fun a ha => absurd (Keeps.lowBit he ha) id }
  · rw [rd_wrf_other (by decide)]; exact id
  · rw [rd_wrf_other (by decide)]; exact id
  · intro hb
    rcases hf with hf | hf | ⟨rfl, rfl, hv⟩
    · rwa [rdf_wrf_field _ _ _ (Or.inr hf)]
    · rwa [rdf_wrf_field _ _ _ (Or.inl hf)]
    · rw [rdf_wrf_same _ _ _ (by decide)]
      exact le_trans (Nat.mod_le _ _) hv
  · intro k _ _; unfold rdb; rw [rd_wrf_other (by decide)]; exact id

/-- A field of the fuse word apart from the slot fuses (R426). -/
theorem Keeps.fuseField {m : Nat} {r s : State} {hi lo v : Nat} (h : Keeps m r s) (he : Fits 65536 m)
    (hf : hi < 49 ∨ 56 < lo := by first | omega | decide) :
    Keeps m r (Machine.wrf s aFuse hi lo v) := by
  refine h.trans { Keeps.refl m s with
    pending := rfl, regs := regsWf_wr s aFuse _, mem := id, capId := ?_, capSizes := ?_, boot := ?_, fuses := ?_
    low := fun a ha => absurd (Keeps.lowBit he ha) id }
  · rw [rd_wrf_other (by decide)]; exact id
  · rw [rd_wrf_other (by decide)]; exact id
  · rw [rdf_wrf_other (by decide)]; exact id
  · intro k h1 h2; rw [rdb_wrf_field _ _ _ (by omega)]; exact id

/-- Setting a slot fuse (R414). -/
theorem Keeps.fuseSet {m : Nat} {r s : State} {k : Nat} (h : Keeps m r s) (he : Fits 65536 m) :
    Keeps m r (Machine.wrf s aFuse k k 1) := by
  refine h.trans { Keeps.refl m s with
    pending := rfl, regs := regsWf_wr s aFuse _, mem := id, capId := ?_, capSizes := ?_, boot := ?_, fuses := ?_
    low := fun a ha => absurd (Keeps.lowBit he ha) id }
  · rw [rd_wrf_other (by decide)]; exact id
  · rw [rd_wrf_other (by decide)]; exact id
  · rw [rdf_wrf_other (by decide)]; exact id
  · intro j h1 h2 hj
    by_cases hjk : j = k
    · subst hjk
      unfold rdb Machine.wrf
      rw [rd_wr_same, bitOf_putBits_same _ _ (le_refl _) (le_refl _) (by omega)]
      simp
    · rw [rdb_wrf_field _ _ _ (by omega)]; exact hj

/-! ## Combining -/

theorem keeps_ite {α : Type} {P : α → Prop} {a b : α} {c : Prop} [Decidable c] (h : c → P a)
    (g : ¬c → P b) : P (if c then a else b) := by split <;> simp_all

theorem KeepsP.of_eq {m : Nat} {α : Type} {r s : State} {x : α} {p : State × α} (h : KeepsP m r p) (e : p = (s, x)) :
    Keeps m r s := by subst e; exact h

theorem KeepsO.get {m : Nat} {r s : State} {o : Option State} (h : KeepsO m r o) (e : o = some s := by first | omega | decide) : Keeps m r s := h s e

theorem KeepsOP.get {m : Nat} {α : Type} {r s : State} {x : α} {o : Option (State × α)} (h : KeepsOP m r o)
    (e : o = some (s, x)) : Keeps m r s := h _ e

theorem KeepsO.getD {m : Nat} {r s : State} {o : Option State} (h : KeepsO m r o) (g : Keeps m r s) : Keeps m r (o.getD s) := by
  cases o with
  | none => exact g
  | some t => exact h t rfl

theorem foldl_keep {α β : Type} {P : α → Prop} {f : α → β → α} {xs : List β} {a : α}
    (hf : ∀ a x, P a → P (f a x)) (h : P a) : P (xs.foldl f a) := by
  induction xs generalizing a with
  | nil => exact h
  | cons x xs ih => exact ih (hf a x h)

theorem KeepsP.mk {m : Nat} {α : Type} {r s : State} {x : α} (h : Keeps m r s) : KeepsP m r (s, x) := h
theorem KeepsO.none {m : Nat} {r : State} : KeepsO m r none := fun _ h => nomatch h
theorem KeepsO.some {m : Nat} {r s : State} (h : Keeps m r s) : KeepsO m r (some s) := fun _ e => by cases e; exact h
theorem KeepsOP.none {m : Nat} {α : Type} {r : State} : KeepsOP (α := α) m r none := fun _ h => nomatch h
theorem KeepsOP.some {m : Nat} {α : Type} {r : State} {p : State × α} (h : KeepsP m r p) : KeepsOP m r (some p) :=
  fun _ e => by cases e; exact h
theorem KeepsW.mk {m : Nat} {r s : State} {o : WrOut} (h : Keeps m r s) : KeepsW m r ⟨s, o⟩ := h
theorem KeepsA.next {m : Nat} {r s : State} (h : Keeps m r s) : KeepsA m r (.next s) := fun _ e => by cases e; exact h

theorem forAll_keeps {m : Nat} {α : Type} {r s : State} {f : State → α → State} {xs : List α}
    (hf : ∀ s x, Keeps m r s → Keeps m r (f s x)) (h : Keeps m r s) : Keeps m r (forAll f s xs) := by
  induction xs generalizing s with
  | nil => exact h
  | cons x xs ih => exact ih (hf s x h)

theorem forAll_keeps_mem {m : Nat} {α : Type} {r s : State} {f : State → α → State} {xs : List α}
    (hf : ∀ s x, x ∈ xs → Keeps m r s → Keeps m r (f s x)) (h : Keeps m r s) : Keeps m r (forAll f s xs) := by
  induction xs generalizing s with
  | nil => exact h
  | cons x xs ih =>
    exact ih (fun s y hy => hf s y (List.mem_cons_of_mem _ hy)) (hf s x List.mem_cons_self h)

theorem wrEntry_keeps {m k : Nat} {r s : State} {a : Nat} {ws : Entry} (h : Keeps m r s) (he : Fits (65536 <<< k) m)
    (ha : blockBase k ≤ a := by first | (simp [blockBase]; done) | (simp +zetaDelta [blockBase]; done))
    (hk : 0x0110_0001 ≤ blockBase k := by decide) : Keeps m r (wrEntry s a ws) := by
  induction ws generalizing s a with
  | nil => exact h
  | cons w ws ih => exact ih (h.wr he (okAt_high hk ha)) (by omega)

end Sys2Proof.Machine
end

