-- ==== Sys2Proof/Laws/Frames.lean ====
section
/-! SUPPORT. How the frames of the statements follow from what an operation keeps. -/

namespace Sys2Proof.Machine

set_option Elab.async false

open Sys2Proof

/-- The bit of a part in a mask. -/
def Part.bit : Part → Nat
  | .fabric => 0
  | .links => 1
  | .granary => 2
  | .binding => 3
  | .cores => 4
  | .stack => 5
  | .verdicts => 6
  | .advance => 7
  | .recorder => 8
  | .yield => 9
  | .queuedWork => 10
  | .stackMemory => 11
  | .management => 12
  | .electrical => 13
  | .flashes => 14
  | .startState => 15

/-- The mask of a list of parts. -/
def partMask : List Part → Nat
  | [] => 0
  | p :: ps => 2 ^ p.bit ||| partMask ps

theorem Part.bit_inj {p q : Part} (h : p.bit = q.bit) : p = q := by
  cases p <;> cases q <;> first | rfl | cases h

theorem partMask_off {ps : List Part} {p : Part} (h : p ∉ ps) : (partMask ps).testBit p.bit = false := by
  induction ps with
  | nil => exact Nat.zero_testBit _
  | cons q ps ih =>
    simp only [List.mem_cons, not_or] at h
    rw [partMask, Nat.testBit_or, ih h.2, Bool.or_false, Nat.testBit_two_pow]
    exact decide_eq_false fun e => h.1 (Part.bit_inj e.symm)

theorem Keeps.part {m : Nat} {s t : State} (h : Keeps m s t) (p : Part) (hp : m.testBit p.bit = false) :
    p.same s t := by
  cases p with
  | fabric => exact h.fab hp
  | links => exact h.links hp
  | granary => exact h.grn hp
  | binding => exact h.bnd hp
  | cores => exact h.cores hp
  | stack => exact h.stk hp
  | stackMemory => exact h.hbm hp
  | verdicts => exact h.vrd hp
  | advance => exact h.adv hp
  | recorder => exact h.rcd hp
  | yield => exact h.yld hp
  | queuedWork => exact h.work hp
  | management => exact h.mg hp
  | electrical => exact h.el hp
  | flashes => exact ⟨h.flashA hp, h.flashB hp⟩
  | startState => exact h.trust hp

theorem Part.bit_lt (p : Part) : p.bit < 16 := by cases p <;> decide

/-- Parts that a list names are all that a mask touches. -/
theorem Keeps.parts {m : Nat} {ps : List Part} {s t : State} (h : Keeps m s t)
    (hm : m % 65536 ||| partMask ps = partMask ps) : ∀ p, p ∉ ps → p.same s t := by
  intro p hp
  refine h.part p ?_
  have h2 := (Fits.off (e := m % 65536) (m := partMask ps) hm (partMask_off hp))
  rw [show (65536 : Nat) = 2 ^ 16 from rfl, Nat.testBit_mod_two_pow] at h2
  simpa [p.bit_lt] using h2

/-- The frame of a row whose mask is known: parts and the block of the lowest register it may write. -/
theorem Keeps.touchesOnly {m : Nat} {ps : List Part} {s t : State} (h : Keeps m s t) (k : Nat)
    (hm : m % 65536 ||| partMask ps = partMask ps) (hk : m >>> 16 % 2 ^ k = 0) (as : List Nat) :
    touchesOnly ps (blockBase k) as s t :=
  ⟨h.pending, h.parts hm, fun _ ha _ => h.below hk ha⟩

theorem KeepsA.frame {m : Nat} {ps : List Part} {s t : State} {a : Answer} (h : KeepsA m s a) (k : Nat)
    (ha : a = .next t) (hm : m % 65536 ||| partMask ps = partMask ps) (hk : m >>> 16 % 2 ^ k = 0)
    (as : List Nat) : touchesOnly ps (blockBase k) as s t := (h t ha).touchesOnly k hm hk as

theorem sameParts_trans {ps : List Part} {r s t : State} (h : ∀ p, p ∉ ps → p.same r s)
    (g : ∀ p, p ∉ ps → p.same s t) : ∀ p, p ∉ ps → p.same r t := by
  intro p hp
  have h1 := h p hp
  have h2 := g p hp
  cases p <;> first | exact h2.trans h1 | exact ⟨h2.1.trans h1.1, h2.2.trans h1.2⟩

theorem touchesOnly.trans {ps : List Part} {b : Nat} {as : List Nat} {r s t : State}
    (h : touchesOnly ps b as r s) (g : touchesOnly ps b as s t) : touchesOnly ps b as r t :=
  ⟨g.1.trans h.1, sameParts_trans h.2.1 g.2.1, fun a ha hn => (g.2.2 a ha hn).trans (h.2.2 a ha hn)⟩

/-- A command row in a manageable state is its operation, captured where a recording runs. -/
theorem mgApply_ok {s : State} {a : Nat} {v : Word} {op : State → WrRes} (h : manageable s)
    (ho : (op s).out = .ok) : mgApply s a v op = captureWrite (op s).st a v := by
  unfold mgApply
  rw [if_neg (by simp [h.1, h.2])]
  simp only [ho]

theorem mgApply_not_ok {s : State} {a : Nat} {v : Word} {op : State → WrRes} (h : manageable s)
    (ho : (op s).out ≠ .ok) : mgApply s a v op = (op s).st := by
  unfold mgApply
  rw [if_neg (by simp [h.1, h.2])]
  cases hr : (op s).out <;> simp_all

theorem mgApply_unmanageable {s : State} {a : Nat} {v : Word} {op : State → WrRes} (h : ¬manageable s) :
    mgApply s a v op = s := by
  unfold mgApply
  rw [if_pos]
  unfold manageable at h
  simp only [Bool.or_eq_true, Bool.not_eq_true']
  by_contra hc
  simp_all

/-! ## Events and counters -/

theorem rd_wrEntry_other {a b : Nat} (ws : Entry) (s : State) (h : b < a ∨ a + 8 * ws.length ≤ b) :
    rd (wrEntry s a ws) b = rd s b := by
  induction ws generalizing s a with
  | nil => rfl
  | cons w ws ih =>
    rw [List.length_cons] at h
    rw [wrEntry, ih _ (by omega), rd_wr_other (by omega)]

/-- Logging an event writes the event log's registers alone. -/
theorem rd_event_other {s : State} {code kind source : Nat} {x : EvItem} {a : Nat}
    (h : a < 0xA300_0000 ∨ 0xA400_0000 ≤ a) : rd (event s code kind source x) a = rd s a := by
  unfold event
  split
  · rfl
  · split
    · exact rd_bump_other (by unfold aEvt; omega)
    · unfold logEntry
      extract_lets n old was s1
      have h1 : rd s1 a = rd s a := by
        unfold s1
        split
        · exact rd_bump_other (by unfold aEvt; omega)
        · rfl
      rw [rd_bumpMod_other (by unfold aEvt; omega), rd_wrEntry_other, h1]
      simp only [aEvtEntry, aEvt, List.length_cons, List.length_nil]
      omega

/-- Counting writes the counter and its overflow bit. -/
theorem rd_count_other {s : State} {g i x n a : Nat} (h : a ≠ aCnt g i x) (h2 : a ≠ aCnt g i x + 8) :
    rd (count s g i x n) a = rd s a := by
  unfold count
  extract_lets b v m t
  split
  · rw [rd_wrf_other h2]; exact rd_wr_other h
  · exact rd_wr_other h

/-! ## Fields -/

theorem onlyBits.refl (fs : List (Nat × Nat × Nat)) (s : State) : onlyBits fs s s := fun _ _ _ => rfl

theorem onlyBits.trans {fs : List (Nat × Nat × Nat)} {r s t : State} (h : onlyBits fs r s)
    (g : onlyBits fs s t) : onlyBits fs r t := fun a k hf => (g a k hf).trans (h a k hf)

theorem onlyBits.mono {fs gs : List (Nat × Nat × Nat)} {s t : State} (h : onlyBits fs s t)
    (hs : ∀ f ∈ fs, f ∈ gs) : onlyBits gs s t := fun a k hf => h a k fun f hm => hf f (hs f hm)

theorem onlyBits.wrf {fs : List (Nat × Nat × Nat)} {r s : State} {a hi lo v : Nat} (h : onlyBits fs r s)
    (hm : (a, hi, lo) ∈ fs := by simp) : onlyBits fs r (Machine.wrf s a hi lo v) := fun b k hf => by
  by_cases hb : b = a
  · subst hb
    rw [rdb_wrf_field _ _ _ (hf _ hm rfl)]
    exact h _ _ hf
  · rw [rdb_wrf_other hb]
    exact h b k hf

theorem onlyBits.bump {fs : List (Nat × Nat × Nat)} {r s : State} {a hi lo v : Nat} (h : onlyBits fs r s)
    (hm : (a, hi, lo) ∈ fs := by simp) : onlyBits fs r (Machine.bump s a hi lo v) := h.wrf hm

theorem onlyBits.bumpMod {fs : List (Nat × Nat × Nat)} {r s : State} {a hi lo v : Nat} (h : onlyBits fs r s)
    (hm : (a, hi, lo) ∈ fs := by simp) : onlyBits fs r (Machine.bumpMod s a hi lo v) := h.wrf hm

theorem onlyBits.drain {fs : List (Nat × Nat × Nat)} {r s : State} {a hi lo v : Nat} (h : onlyBits fs r s)
    (hm : (a, hi, lo) ∈ fs := by simp) : onlyBits fs r (Machine.drain s a hi lo v) := h.wrf hm

/-- A whole register is the field 63:0. -/
theorem onlyBits.wr {fs : List (Nat × Nat × Nat)} {r s : State} {a : Nat} {w : Word} (h : onlyBits fs r s)
    (hm : (a, 63, 0) ∈ fs := by simp) : onlyBits fs r (Machine.wr s a w) := fun b k hf => by
  by_cases hb : b = a
  · subst hb
    have hk : 64 ≤ k := by
      have h2 : k < 0 ∨ 63 < k := hf _ hm rfl
      omega
    have hz : ∀ x : Word, bitOf x k = false := fun x =>
      Nat.testBit_lt_two_pow (lt_of_lt_of_le x.isLt (Nat.pow_le_pow_right (by omega) hk))
    unfold rdb
    rw [hz, hz]
  · unfold rdb
    rw [rd_wr_other hb]
    exact h b k hf

theorem onlyBits.regs {fs : List (Nat × Nat × Nat)} {r s t : State} (h : onlyBits fs r s)
    (e : t.regs = s.regs) : onlyBits fs r t := fun a k hf => by
  unfold rdb
  rw [rd_congr e]
  exact h a k hf

end Sys2Proof.Machine
end

