-- ==== Sys2Proof/Laws/KeepsData.lean ====
section
/-! SUPPORT. Every operation of registers, the Granary, egress queues, recording, the field book, the tillers and the flashes keeps what `Keeps` names. -/

namespace Sys2Proof.Machine

set_option Elab.async false

open Sys2Proof

theorem claim_keeps {m r x1 x2 x3 x4 x5 x6} (hE : Fits 1048576 m) (h1 : Keeps m r x1) :
    Keeps m r (claim x1 x2 x3 x4 x5 x6) := by
  unfold claim
  extract_lets -underBinder -merge -useContext +onlyGivenNames vs1
  have hvs1 : Keeps m r vs1 := (Keeps.wr (k := 4) h1 (hE.sub rfl))
  clear_value vs1
  exact (Keeps.upd 0 hvs1 (hE.sub rfl) rfl)

theorem count_keeps {m r x1 x2 x3 x4 x5} (hE : Fits 134217728 m) (h1 : Keeps m r x1) :
    Keeps m r (count x1 x2 x3 x4 x5) := by
  unfold count
  extract_lets -underBinder -merge -useContext +onlyGivenNames va1 vv2 vm3 vs4
  have hvs4 : Keeps m r vs4 := (Keeps.wr (k := 11) h1 (hE.sub rfl))
  clear_value vs4
  refine keeps_ite (P := Keeps m r) (fun _ => ?_) (fun _ => ?_)
  · exact (Keeps.wrf (k := 11) hvs4 (hE.sub rfl))
  · exact hvs4

theorem allocOne_keeps {m r x1 x2 x3 x4 x5 x6} (hE : Fits 135266305 m) (h1 : Keeps m r x1) :
    KeepsOP m r (allocOne x1 x2 x3 x4 x5 x6) := by
  unfold allocOne
  extract_lets -underBinder -merge -useContext +onlyGivenNames vm1 vk2
  split
  · exact KeepsOP.none
  · extract_lets -underBinder -merge -useContext +onlyGivenNames vsrc3 vs4 vs5
    have hvs4 : Keeps m r vs4 := (Keeps.upd 1 h1 (hE.sub rfl) rfl)
    clear_value vs4
    have hvs5 : Keeps m r vs5 := by
      unfold vs5
      refine keeps_ite (P := Keeps m r) (fun _ => ?_) (fun _ => ?_)
      · exact (count_keeps (hE.sub rfl) hvs4)
      · exact hvs4
    clear_value vs5
    exact (KeepsOP.some (KeepsP.mk (claim_keeps (hE.sub rfl) hvs5)))

theorem allocChain_keeps {m r x1 x2 x3 x4 x5 x6 x7} (hE : Fits 135266305 m) (h1 : Keeps m r x1) :
    KeepsOP m r (allocChain x1 x2 x3 x4 x5 x6 x7) := by
  induction x6 generalizing x1 x7 with
  | zero => exact KeepsOP.some h1
  | succ n ih =>
    unfold allocChain
    refine keeps_ite (P := KeepsOP m r) (fun _ => KeepsOP.some h1) (fun _ => ?_)
    split
    · exact KeepsOP.none
    next he =>
      have h2 := KeepsOP.get (allocOne_keeps (hE.sub rfl) h1) he
      split
      · exact KeepsOP.none
      next hf => exact KeepsOP.some (KeepsP.mk (KeepsOP.get (ih h2) hf))

theorem fillBufs_keeps {m r x1 x2 x3 x4 x5} (hE : Fits 4 m) (h1 : Keeps m r x1) :
    Keeps m r (fillBufs x1 x2 x3 x4 x5) := by
  induction x4 generalizing x1 x5 with
  | nil => exact h1
  | cons p ps ih => exact ih (Keeps.upd 4 h1 (hE.sub rfl) rfl)

theorem setChain_keeps {m r x1 x2 x3} (hE : Fits 4 m) (h1 : Keeps m r x1) :
    Keeps m r (setChain x1 x2 x3) := by
  unfold setChain
  split
  · exact (Keeps.upd 4 h1 (hE.sub rfl) rfl)
  · exact h1

theorem allocPacket_keeps {m r x1 x2 x3 x4 x5 x6} (hE : Fits 135266309 m) (h1 : Keeps m r x1) :
    KeepsOP m r (allocPacket x1 x2 x3 x4 x5 x6) := by
  unfold allocPacket
  split
  · exact KeepsOP.none
  · exact (KeepsOP.some (KeepsP.mk (setChain_keeps (hE.sub rfl) (fillBufs_keeps (hE.sub rfl) (KeepsOP.get (allocChain_keeps (hE.sub rfl) h1) (by assumption))))))

theorem allocStore_keeps {m r x1 x2 x3 x4 x5 x6} (hE : Fits 135266304 m) (h1 : Keeps m r x1) :
    KeepsOP m r (allocStore x1 x2 x3 x4 x5 x6) := by
  induction x5 generalizing x1 x6 with
  | zero => exact KeepsOP.some h1
  | succ n ih =>
    unfold allocStore
    refine keeps_ite (P := KeepsOP m r) (fun _ => KeepsOP.some h1) (fun _ => ?_)
    extract_lets +onlyGivenNames c
    split
    · exact KeepsOP.none
    · extract_lets +onlyGivenNames s1
      have h2 : Keeps m r s1 := by
        unfold s1
        exact keeps_ite (P := Keeps m r) (fun _ => count_keeps (hE.sub rfl) h1) (fun _ => h1)
      clear_value s1
      split
      · exact KeepsOP.none
      next hf => exact KeepsOP.some (KeepsP.mk (KeepsOP.get (ih (claim_keeps (hE.sub rfl) h2)) hf))

theorem chargeQuota_keeps {m r x1 x2 x3 x4} (hE : Fits 1048576 m) (h1 : Keeps m r x1) :
    Keeps m r (chargeQuota x1 x2 x3 x4) := by
  unfold chargeQuota
  refine keeps_ite (P := Keeps m r) (fun _ => ?_) (fun _ => ?_)
  · exact (Keeps.wrf (k := 4) h1 (hE.sub rfl))
  · exact h1

theorem setRec_keeps {m r x1 x2 x3 x4 x5} (hE : Fits 1048580 m) (h1 : Keeps m r x1) :
    Keeps m r (setRec x1 x2 x3 x4 x5) := by
  unfold setRec
  split
  · extract_lets -underBinder -merge -useContext +onlyGivenNames vs1
    have hvs1 : Keeps m r vs1 := (wrEntry_keeps (k := 4) h1 (hE.sub rfl))
    clear_value vs1
    exact (Keeps.wr (k := 4) hvs1 (hE.sub rfl))
  · exact (Keeps.upd 4 h1 (hE.sub rfl) rfl)

theorem releaseQuota_keeps {m r x1 x2 x3 x4} (hE : Fits 1048576 m) (h1 : Keeps m r x1) :
    Keeps m r (releaseQuota x1 x2 x3 x4) := by
  unfold releaseQuota
  refine keeps_ite (P := Keeps m r) (fun _ => ?_) (fun _ => ?_)
  · exact (Keeps.drain (k := 4) h1 (hE.sub rfl))
  · exact h1

theorem freeOne_keeps {m r x1 x2 x3} (hE : Fits 1048580 m) (h1 : Keeps m r x1) :
    Keeps m r (freeOne x1 x2 x3) := by
  unfold freeOne
  extract_lets -underBinder -merge -useContext +onlyGivenNames va1 vs2 vs3 vsrc4 vs5
  have hvs2 : Keeps m r vs2 := by
    unfold vs2
    refine keeps_ite (P := Keeps m r) (fun _ => ?_) (fun _ => ?_)
    · exact (setRec_keeps (hE.sub rfl) h1)
    · exact h1
  clear_value vs2
  have hvs3 : Keeps m r vs3 := by
    unfold vs3
    split
    · exact (releaseQuota_keeps (hE.sub rfl) hvs2)
    · exact hvs2
  clear_value vs3
  have hvs5 : Keeps m r vs5 := (Keeps.upd 4 hvs3 (hE.sub rfl) rfl)
  clear_value vs5
  refine keeps_ite (P := Keeps m r) (fun _ => ?_) (fun _ => ?_)
  · exact (Keeps.wr (k := 4) hvs5 (hE.sub rfl))
  · exact (Keeps.wr (k := 4) hvs5 (hE.sub rfl))

theorem freeChain_keeps {m r x1 x2 x3} (hE : Fits 1048580 m) (h1 : Keeps m r x1) :
    Keeps m r (freeChain x1 x2 x3) := by
  unfold freeChain
  extract_lets -underBinder -merge -useContext +onlyGivenNames vrest1 vs2 vsrc3
  have hvs2 : Keeps m r vs2 := by
    unfold vs2
    refine forAll_keeps (fun _ _ q4 => ?_) h1
    exact (freeOne_keeps (hE.sub rfl) q4)
  clear_value vs2
  exact (Keeps.upd 4 hvs2 (hE.sub rfl) rfl)

theorem clearOwner_keeps {m r x1 x2 x3 x4} (hE : Fits 1048580 m) (h1 : Keeps m r x1) :
    Keeps m r (clearOwner x1 x2 x3 x4) := by
  unfold clearOwner
  extract_lets -underBinder -merge -useContext +onlyGivenNames va1
  split
  · refine keeps_ite (P := Keeps m r) (fun _ => ?_) (fun _ => ?_)
    · exact (freeChain_keeps (hE.sub rfl) h1)
    · exact h1
  · extract_lets -underBinder -merge -useContext +onlyGivenNames vr2
    split
    · exact h1
    · extract_lets -underBinder -merge -useContext +onlyGivenNames vm3 vm4
      refine keeps_ite (P := Keeps m r) (fun _ => ?_) (fun _ => ?_)
      · exact h1
      · refine keeps_ite (P := Keeps m r) (fun _ => ?_) (fun _ => ?_)
        · exact (freeChain_keeps (hE.sub rfl) h1)
        · exact (setRec_keeps (hE.sub rfl) h1)
  · exact h1

theorem setQueue_keeps {m r x1 x2 x3 x4} (hE : Fits 1 m) (h1 : Keeps m r x1) :
    Keeps m r (setQueue x1 x2 x3 x4) := by
  unfold setQueue
  exact (Keeps.upd 1 h1 (hE.sub rfl) rfl)

theorem tagHead_keeps {m r x1 x2 x3} (hE : Fits 1 m) (h1 : Keeps m r x1) :
    Keeps m r (tagHead x1 x2 x3) := by
  unfold tagHead
  split
  · exact h1
  · extract_lets -underBinder -merge -useContext +onlyGivenNames vt1 vs2 vsrc3
    have hvs2 : Keeps m r vs2 := (setQueue_keeps (hE.sub rfl) h1)
    clear_value vs2
    exact (Keeps.upd 1 hvs2 (hE.sub rfl) rfl)

theorem setStat_keeps {m r x1 x2 x3 x4} (hE : Fits 512 m) (h1 : Keeps m r x1) :
    Keeps m r (setStat x1 x2 x3 x4) := by
  unfold setStat
  exact (Keeps.upd 512 h1 (hE.sub rfl) rfl)

theorem markPkt_keeps {m r x1 x2 x3 x4} (hE : Fits 134218240 m) (h1 : Keeps m r x1) :
    KeepsP m r (markPkt x1 x2 x3 x4) := by
  unfold markPkt
  extract_lets -underBinder -merge -useContext +onlyGivenNames vlvl1 vcur2 vk3 vs4 vx5
  have hvs4 : Keeps m r vs4 := (count_keeps (hE.sub rfl) h1)
  clear_value vs4
  refine keeps_ite (P := KeepsP m r) (fun _ => ?_) (fun _ => ?_)
  · exact (KeepsP.mk h1)
  · refine keeps_ite (P := KeepsP m r) (fun _ => ?_) (fun _ => ?_)
    · exact (KeepsP.mk (setStat_keeps (hE.sub rfl) hvs4))
    · exact (KeepsP.mk h1)

theorem enqueue_keeps {m r x1 x2 x3} (hE : Fits 134218241 m) (h1 : Keeps m r x1) :
    Keeps m r (enqueue x1 x2 x3) := by
  unfold enqueue
  extract_lets -underBinder -merge -useContext +onlyGivenNames vf1 vm2 vq3 vs4
  have hvm2 : KeepsP m r vm2 := (markPkt_keeps (hE.sub rfl) h1)
  clear_value vm2
  have hvs4 : Keeps m r vs4 := (setQueue_keeps (hE.sub rfl) hvm2)
  clear_value vs4
  refine keeps_ite (P := Keeps m r) (fun _ => ?_) (fun _ => ?_)
  · exact (tagHead_keeps (hE.sub rfl) hvs4)
  · exact hvs4

theorem logEntry_keeps {m r x1 x2 x3 x4 x5} (hE : Fits 134217728 m) (h1 : Keeps m r x1) :
    Keeps m r (logEntry x1 x2 x3 x4 x5) := by
  unfold logEntry
  extract_lets -underBinder -merge -useContext +onlyGivenNames vn1 vold2 vwas3 vs4 vs5
  have hvs4 : Keeps m r vs4 := by
    unfold vs4
    refine keeps_ite (P := Keeps m r) (fun _ => ?_) (fun _ => ?_)
    · exact (Keeps.bump (k := 11) h1 (hE.sub rfl))
    · exact h1
  clear_value vs4
  have hvs5 : Keeps m r vs5 := (wrEntry_keeps (k := 11) hvs4 (hE.sub rfl))
  clear_value vs5
  exact (Keeps.bumpMod (k := 11) hvs5 (hE.sub rfl))

theorem event_keeps {m r x1 x2 x3 x4 x5} (hE : Fits 134217728 m) (h1 : Keeps m r x1) :
    Keeps m r (event x1 x2 x3 x4 x5) := by
  unfold event
  refine keeps_ite (P := Keeps m r) (fun _ => ?_) (fun _ => ?_)
  · exact h1
  · refine keeps_ite (P := Keeps m r) (fun _ => ?_) (fun _ => ?_)
    · exact (Keeps.bump (k := 11) h1 (hE.sub rfl))
    · exact (logEntry_keeps (hE.sub rfl) h1)

theorem freeBufs_keeps {m r x1 x2 x3} (hE : Fits 1048580 m) (h1 : Keeps m r x1) :
    Keeps m r (freeBufs x1 x2 x3) := by
  unfold freeBufs
  extract_lets -underBinder -merge -useContext +onlyGivenNames vsrc1
  refine forAll_keeps (fun _ _ q2 => ?_) (Keeps.upd 4 h1 (hE.sub rfl) rfl)
  exact (freeOne_keeps (hE.sub rfl) q2)

theorem freshUid_keeps {m r x1} (hE : Fits 1 m) (h1 : Keeps m r x1) :
    KeepsP m r (freshUid x1) := by
  unfold freshUid
  exact (KeepsP.mk (Keeps.upd 1 h1 (hE.sub rfl) rfl))

theorem setLink_keeps {m r x1 x2 x3} (hE : Fits 2 m) (h1 : Keeps m r x1) :
    Keeps m r (setLink x1 x2 x3) := by
  unfold setLink
  exact (Keeps.upd 2 h1 (hE.sub rfl) rfl)

theorem returnCredits_keeps {m r x1 x2 x3 x4} (hE : Fits 262146 m) (h1 : Keeps m r x1) :
    Keeps m r (returnCredits x1 x2 x3 x4) := by
  unfold returnCredits
  extract_lets -underBinder -merge -useContext +onlyGivenNames vs1 vl2
  have hvs1 : Keeps m r vs1 := (Keeps.drain (k := 2) h1 (hE.sub rfl))
  clear_value vs1
  refine keeps_ite (P := Keeps m r) (fun _ => ?_) (fun _ => ?_)
  · exact (setLink_keeps (hE.sub rfl) hvs1)
  · exact h1

theorem giveBack_keeps {m r x1 x2} (hE : Fits 262146 m) (h1 : Keeps m r x1) :
    Keeps m r (giveBack x1 x2) := by
  unfold giveBack
  split
  · exact (returnCredits_keeps (hE.sub rfl) h1)
  · exact h1

theorem grnReport_keeps {m r x1 x2 x3 x4 x5 x6 x7 x8 x9} (hE : Fits 135266304 m) (h1 : Keeps m r x1) :
    Keeps m r (grnReport x1 x2 x3 x4 x5 x6 x7 x8 x9) := by
  unfold grnReport
  extract_lets -underBinder -merge -useContext +onlyGivenNames vs1 vs2 vs3
  have hvs1 : Keeps m r vs1 := (count_keeps (hE.sub rfl) h1)
  clear_value vs1
  have hvs2 : Keeps m r vs2 := (event_keeps (hE.sub rfl) hvs1)
  clear_value vs2
  have hvs3 : Keeps m r vs3 := (Keeps.wr (k := 4) hvs2 (hE.sub rfl))
  clear_value vs3
  refine keeps_ite (P := Keeps m r) (fun _ => ?_) (fun _ => ?_)
  · exact (Keeps.wrf (k := 4) hvs2 (hE.sub rfl))
  · exact (Keeps.wr (k := 4) hvs3 (hE.sub rfl))

theorem releasePkt_keeps {m r x1 x2 x3} (hE : Fits 1310726 m) (h1 : Keeps m r x1) :
    Keeps m r (releasePkt x1 x2 x3) := by
  unfold releasePkt
  extract_lets -underBinder -merge -useContext +onlyGivenNames vs1
  have hvs1 : Keeps m r vs1 := (giveBack_keeps (hE.sub rfl) h1)
  clear_value vs1
  split
  · exact hvs1
  · exact hvs1
  · refine forAll_keeps (fun _ _ q2 => ?_) hvs1
    exact (clearOwner_keeps (hE.sub rfl) (clearOwner_keeps (hE.sub rfl) q2))

theorem remask_keeps {m r x1 x2 x3 x4} (hE : Fits 1048580 m) (h1 : Keeps m r x1) :
    KeepsO m r (remask x1 x2 x3 x4) := by
  unfold remask
  extract_lets -underBinder -merge -useContext +onlyGivenNames va1 vold2
  split
  · exact (KeepsO.some h1)
  · extract_lets -underBinder -merge -useContext +onlyGivenNames vs3
    have hvs3 : Keeps m r vs3 := by
      unfold vs3
      clear_value vold2
      split
      · exact (setRec_keeps (hE.sub rfl) h1)
      · exact h1
    clear_value vs3
    exact (KeepsO.some (Keeps.wrf (k := 4) (Keeps.wrf (k := 4) hvs3 (hE.sub rfl)) (hE.sub rfl)))
  · extract_lets -underBinder -merge -useContext +onlyGivenNames vmask4 vrec5
    clear_value vrec5
    split
    · exact KeepsO.none
    · extract_lets -underBinder -merge -useContext +onlyGivenNames vs6 vs7
      have hvs6 : Keeps m r vs6 := (setRec_keeps (hE.sub rfl) h1)
      clear_value vs6
      have hvs7 : Keeps m r vs7 := (Keeps.upd 0 hvs6 (hE.sub rfl) rfl)
      clear_value vs7
      exact (KeepsO.some (Keeps.wrf (k := 4) (Keeps.wrf (k := 4) hvs7 (hE.sub rfl)) (hE.sub rfl)))

theorem setIsland_keeps {m r x1 x2 x3} (hE : Fits 268435456 m) (h1 : Keeps m r x1) :
    Keeps m r (setIsland x1 x2 x3) := by
  unfold setIsland
  exact (Keeps.wrf (k := 12) h1 (hE.sub rfl))

theorem setSending_keeps {m r x1 x2 x3} (hE : Fits 1 m) (h1 : Keeps m r x1) :
    Keeps m r (setSending x1 x2 x3) := by
  unfold setSending
  exact (Keeps.upd 1 h1 (hE.sub rfl) rfl)

theorem takeCredits_keeps {m r x1 x2 x3 x4} (hE : Fits 262144 m) (h1 : Keeps m r x1) :
    Keeps m r (takeCredits x1 x2 x3 x4) := by
  unfold takeCredits
  refine keeps_ite (P := Keeps m r) (fun _ => ?_) (fun _ => ?_)
  · exact (Keeps.wrf (k := 2) h1 (hE.sub rfl))
  · exact h1

theorem countFlags_keeps {m r x1 x2 x3} (hE : Fits 134217728 m) (h1 : Keeps m r x1) :
    Keeps m r (countFlags x1 x2 x3) := by
  unfold countFlags
  refine forAll_keeps (fun _ _ q1 => ?_) h1
  extract_lets -underBinder -merge -useContext +onlyGivenNames vn2
  refine keeps_ite (P := Keeps m r) (fun _ => ?_) (fun _ => ?_)
  · exact q1
  · exact (count_keeps (hE.sub rfl) q1)

theorem WrRes_st_keeps {m r x1} (hE : Fits 0 m) (h1 : KeepsW m r x1) :
    Keeps m r (WrRes.st x1) := by
  unfold WrRes.st
  exact h1

theorem setStage_keeps {m r x1 x2 x3} (hE : Fits 4096 m) (h1 : Keeps m r x1) :
    Keeps m r (setStage x1 x2 x3) := by
  unfold setStage
  exact (Keeps.upd 4096 h1 (hE.sub rfl) rfl)

theorem dropStage_keeps {m r x1 x2} (hE : Fits 4096 m) (h1 : Keeps m r x1) :
    Keeps m r (dropStage x1 x2) := by
  unfold dropStage
  exact (setStage_keeps (hE.sub rfl) h1)

theorem regEvent_keeps {m r x1 x2 x3 x4} (hE : Fits 134217728 m) (h1 : Keeps m r x1) :
    Keeps m r (regEvent x1 x2 x3 x4) := by
  unfold regEvent
  exact (event_keeps (hE.sub rfl) h1)

theorem logWrite_keeps {m r x1 x2 x3 x4 x5 x6} (hE : Fits 134217728 m) (h1 : Keeps m r x1) :
    Keeps m r (logWrite x1 x2 x3 x4 x5 x6) := by
  unfold logWrite
  extract_lets -underBinder -merge -useContext +onlyGivenNames vs1 vs2 vs3
  have hvs1 : Keeps m r vs1 := by
    unfold vs1
    refine keeps_ite (P := Keeps m r) (fun _ => ?_) (fun _ => ?_)
    · exact (regEvent_keeps (hE.sub rfl) (Keeps.upd 0 h1 (hE.sub rfl) rfl))
    · exact h1
  clear_value vs1
  have hvs2 : Keeps m r vs2 := by
    unfold vs2
    refine keeps_ite (P := Keeps m r) (fun _ => ?_) (fun _ => ?_)
    · exact (regEvent_keeps (hE.sub rfl) hvs1)
    · exact hvs1
  clear_value vs2
  have hvs3 : Keeps m r vs3 := by
    unfold vs3
    refine keeps_ite (P := Keeps m r) (fun _ => ?_) (fun _ => ?_)
    · exact (regEvent_keeps (hE.sub rfl) hvs2)
    · exact hvs2
  clear_value vs3
  refine keeps_ite (P := Keeps m r) (fun _ => ?_) (fun _ => ?_)
  · exact (regEvent_keeps (hE.sub rfl) hvs3)
  · exact hvs3

theorem refuseR12_keeps {m r x1 x2 x3} (hE : Fits 134217728 m) (h1 : Keeps m r x1) :
    Keeps m r (refuseR12 x1 x2 x3) := by
  unfold refuseR12
  exact (regEvent_keeps (hE.sub rfl) h1)

theorem regWrite_keeps {m k r x1 x2 x3 x4 x5} (hE : Fits 134221824 m) (hk : Fits (65536 <<< k) m) (h1 : Keeps m r x1) (ha : okAt k x3 := by
      first
      | exact ⟨by decide, by decide⟩
      | (apply okAt_high (by decide); simp [blockBase]; done)
      | (apply okAt_high (by decide); simp +zetaDelta [blockBase]; done)
      | (apply okAt_add (by decide); simp [blockBase]; done)) :
    Keeps m r (regWrite x1 x2 x3 x4 x5) := by
  unfold regWrite
  extract_lets -underBinder -merge -useContext +onlyGivenNames old1 first2 s3 src4
  have hs3 : Keeps m r s3 := (Keeps.wr (logWrite_keeps (hE.sub rfl) h1) hk ha)
  clear_value s3
  refine keeps_ite (P := Keeps m r) (fun _ => ?_) (fun _ => ?_)
  · exact (Keeps.upd 4096 hs3 (hE.sub rfl) rfl)
  · exact hs3

theorem stageWord_keeps {m r x1 x2 x3 x4 x5} (hE : Fits 4096 m) (h1 : Keeps m r x1) :
    Keeps m r (stageWord x1 x2 x3 x4 x5) := by
  unfold stageWord
  extract_lets -underBinder -merge -useContext +onlyGivenNames vx1 vx2
  exact (setStage_keeps (hE.sub rfl) h1)

theorem loseEntry_keeps {m r x1 x2} (hE : Fits 167772416 m) (h1 : Keeps m r x1) :
    Keeps m r (loseEntry x1 x2) := by
  unfold loseEntry
  extract_lets -underBinder -merge -useContext +onlyGivenNames vs1 vs2 vs3 vsrc4
  have hvs1 : Keeps m r vs1 := (Keeps.bump (k := 9) h1 (hE.sub rfl))
  clear_value vs1
  have hvs2 : Keeps m r vs2 := (Keeps.wrf (k := 9) hvs1 (hE.sub rfl))
  clear_value vs2
  have hvs3 : Keeps m r vs3 := by
    unfold vs3
    refine keeps_ite (P := Keeps m r) (fun _ => ?_) (fun _ => ?_)
    · exact hvs2
    · exact (event_keeps (hE.sub rfl) hvs2)
  clear_value vs3
  exact (Keeps.upd 256 hvs3 (hE.sub rfl) rfl)

theorem capture_keeps {m r x1 x2} (hE : Fits 167772416 m) (h1 : Keeps m r x1) :
    Keeps m r (capture x1 x2) := by
  unfold capture
  extract_lets -underBinder -merge -useContext +onlyGivenNames vgap1 vsrc2 vsrc3
  refine keeps_ite (P := Keeps m r) (fun _ => ?_) (fun _ => ?_)
  · exact h1
  · refine keeps_ite (P := Keeps m r) (fun _ => ?_) (fun _ => ?_)
    · refine keeps_ite (P := Keeps m r) (fun _ => ?_) (fun _ => ?_)
      · exact (Keeps.upd 256 h1 (hE.sub rfl) rfl)
      · exact (loseEntry_keeps (hE.sub rfl) h1)
    · refine keeps_ite (P := Keeps m r) (fun _ => ?_) (fun _ => ?_)
      · exact (Keeps.upd 256 h1 (hE.sub rfl) rfl)
      · exact (loseEntry_keeps (hE.sub rfl) h1)

theorem captureDigest_keeps {m r x1 x2 x3 x4 x5 x6 x7} (hE : Fits 167772416 m) (h1 : Keeps m r x1) :
    Keeps m r (captureDigest x1 x2 x3 x4 x5 x6 x7) := by
  unfold captureDigest
  refine keeps_ite (P := Keeps m r) (fun _ => ?_) (fun _ => ?_)
  · exact (capture_keeps (hE.sub rfl) h1)
  · exact h1

theorem captureGroupStates_keeps {m r x1} (hE : Fits 167772416 m) (h1 : Keeps m r x1) :
    Keeps m r (captureGroupStates x1) := by
  unfold captureGroupStates
  refine forAll_keeps (fun _ _ q1 => ?_) h1
  extract_lets -underBinder -merge -useContext +onlyGivenNames vx2
  exact (capture_keeps (hE.sub rfl) q1)

theorem captureInstance_keeps {m r x1 x2 x3 x4 x5 x6 x7} (hE : Fits 167772416 m) (h1 : Keeps m r x1) :
    Keeps m r (captureInstance x1 x2 x3 x4 x5 x6 x7) := by
  unfold captureInstance
  refine keeps_ite (P := Keeps m r) (fun _ => ?_) (fun _ => ?_)
  · exact (capture_keeps (hE.sub rfl) h1)
  · exact h1

theorem captureOrder_keeps {m r x1 x2 x3 x4 x5 x6} (hE : Fits 167772416 m) (h1 : Keeps m r x1) :
    Keeps m r (captureOrder x1 x2 x3 x4 x5 x6) := by
  unfold captureOrder
  extract_lets -underBinder -merge -useContext +onlyGivenNames vbytes1
  refine keeps_ite (P := Keeps m r) (fun _ => ?_) (fun _ => ?_)
  · exact (capture_keeps (hE.sub rfl) h1)
  · exact h1

theorem capturePacket_keeps {m r x1 x2 x3 x4 x5} (hE : Fits 167772416 m) (h1 : Keeps m r x1) :
    Keeps m r (capturePacket x1 x2 x3 x4 x5) := by
  unfold capturePacket
  extract_lets -underBinder -merge -useContext +onlyGivenNames vbytes1 ve2
  refine keeps_ite (P := Keeps m r) (fun _ => ?_) (fun _ => ?_)
  · exact (capture_keeps (hE.sub rfl) h1)
  · exact h1

theorem captureWrite_keeps {m r x1 x2 x3} (hE : Fits 167772416 m) (h1 : Keeps m r x1) :
    Keeps m r (captureWrite x1 x2 x3) := by
  unfold captureWrite
  refine keeps_ite (P := Keeps m r) (fun _ => ?_) (fun _ => ?_)
  · exact (capture_keeps (hE.sub rfl) h1)
  · exact h1

theorem cmdWrite_keeps {m k r x1 x2 x3 x4 x5 x6} (hE : Fits 134221824 m) (hk : Fits (65536 <<< k) m) (h1 : Keeps m r x1) (h6 : ∀ y1, Keeps m r y1 → KeepsP m r (x6 y1))
    (ha : okAt k x3 := by
      first
      | exact ⟨by decide, by decide⟩
      | (apply okAt_high (by decide); simp [blockBase]; done)
      | (apply okAt_high (by decide); simp +zetaDelta [blockBase]; done)
      | (apply okAt_add (by decide); simp [blockBase]; done)) :
    KeepsW m r (cmdWrite x1 x2 x3 x4 x5 x6) := by
  unfold cmdWrite
  extract_lets -underBinder -merge -useContext +onlyGivenNames s1 r2
  have hs1 : Keeps m r s1 := regWrite_keeps (hE.sub rfl) hk h1 ha
  clear_value s1
  have hr2 : KeepsP m r r2 := h6 _ hs1
  clear_value r2
  exact keeps_ite (P := KeepsW m r) (fun _ => hs1) (fun _ => hr2)

theorem mgApply_keeps {m r x1 x2 x3 x4} (hE : Fits 167772416 m) (h1 : Keeps m r x1) (h4 : ∀ y1, Keeps m r y1 → KeepsW m r (x4 y1)) :
    Keeps m r (mgApply x1 x2 x3 x4) := by
  unfold mgApply
  extract_lets -underBinder -merge -useContext +onlyGivenNames vr1
  have hvr1 : KeepsW m r vr1 := (h4 _ h1)
  clear_value vr1
  refine keeps_ite (P := Keeps m r) (fun _ => ?_) (fun _ => ?_)
  · exact h1
  · split
    · exact (captureWrite_keeps (hE.sub rfl) hvr1)
    · exact hvr1

theorem plainWrite_keeps {m k r x1 x2 x3 x4 x5} (hE : Fits 134221824 m) (hk : Fits (65536 <<< k) m) (h1 : Keeps m r x1) (ha : okAt k x3 := by
      first
      | exact ⟨by decide, by decide⟩
      | (apply okAt_high (by decide); simp [blockBase]; done)
      | (apply okAt_high (by decide); simp +zetaDelta [blockBase]; done)
      | (apply okAt_add (by decide); simp [blockBase]; done)) :
    KeepsW m r (plainWrite x1 x2 x3 x4 x5) := regWrite_keeps (hE.sub rfl) hk h1 ha

/-- The state of a reservation. -/
def KeepsRes (m : Nat) (r : State) (x : Reserve) : Prop :=
  match x with
  | .reserved s _ | .fallow s | .overlap s => Keeps m r s
  | .waits | .skipped => True

theorem Reserve.reserved_keeps {m r s l} (h : Keeps m r s) : KeepsRes m r (.reserved s l) := h
theorem Reserve.fallow_keeps {m r s} (h : Keeps m r s) : KeepsRes m r (.fallow s) := h
theorem Reserve.overlap_keeps {m r s} (h : Keeps m r s) : KeepsRes m r (.overlap s) := h
theorem Reserve.waits_keeps {m r} : KeepsRes m r .waits := trivial
theorem Reserve.skipped_keeps {m r} : KeepsRes m r .skipped := trivial
theorem KeepsRes.reserved {m r s l x} (h : KeepsRes m r x) (e : x = .reserved s l) : Keeps m r s := by subst e; exact h
theorem KeepsRes.fallow {m r s x} (h : KeepsRes m r x) (e : x = .fallow s) : Keeps m r s := by subst e; exact h
theorem KeepsRes.overlap {m r s x} (h : KeepsRes m r x) (e : x = .overlap s) : Keeps m r s := by subst e; exact h

theorem clearStats_keeps {m r x1 x2 x3} (hE : Fits 16777216 m) (h1 : Keeps m r x1) :
    Keeps m r (clearStats x1 x2 x3) := by
  unfold clearStats
  extract_lets -underBinder -merge -useContext +onlyGivenNames vs1 vs2
  have hvs1 : Keeps m r vs1 := (Keeps.wr (k := 8) h1 (hE.sub rfl))
  clear_value vs1
  have hvs2 : Keeps m r vs2 := (Keeps.wr (k := 8) hvs1 (hE.sub rfl))
  clear_value vs2
  exact (Keeps.wrf (k := 8) hvs2 (hE.sub rfl))

theorem countRecord_keeps {m r x1 x2 x3 x4} (hE : Fits 16777216 m) (h3 : Keeps m r x3) :
    Keeps m r (countRecord x1 x2 x3 x4) := by
  unfold countRecord
  extract_lets -underBinder -merge -useContext +onlyGivenNames ve1 vx2 vcap3 vfl4 vs5 vs6 vs7 vs8 vs9 vs10
  have hvs5 : Keeps m r vs5 := (Keeps.wrf (k := 8) h3 (hE.sub rfl))
  clear_value vs5
  have hvs6 : Keeps m r vs6 := (Keeps.wrf (k := 8) hvs5 (hE.sub rfl))
  clear_value vs6
  have hvs7 : Keeps m r vs7 := (Keeps.wrf (k := 8) hvs6 (hE.sub rfl))
  clear_value vs7
  have hvs8 : Keeps m r vs8 := (Keeps.wrf (k := 8) hvs7 (hE.sub rfl))
  clear_value vs8
  have hvs9 : Keeps m r vs9 := (Keeps.wrf (k := 8) hvs8 (hE.sub rfl))
  clear_value vs9
  have hvs10 : Keeps m r vs10 := (Keeps.wrf (k := 8) hvs9 (hE.sub rfl))
  clear_value vs10
  exact (Keeps.wrf (k := 8) hvs10 (hE.sub rfl))

theorem setBinStep_keeps {m r x1 x2 x3 x4} (hE : Fits 16777248 m) (h1 : Keeps m r x1) :
    Keeps m r (setBinStep x1 x2 x3 x4) := by
  unfold setBinStep
  extract_lets -underBinder -merge -useContext +onlyGivenNames vsrc1 vs2
  have hvs2 : Keeps m r vs2 := (Keeps.upd 32 h1 (hE.sub rfl) rfl)
  clear_value vs2
  exact (Keeps.wrf (k := 8) hvs2 (hE.sub rfl))

theorem setRecStat_keeps {m r x1 x2 x3 x4} (hE : Fits 32 m) (h1 : Keeps m r x1) :
    Keeps m r (setRecStat x1 x2 x3 x4) := by
  unfold setRecStat
  exact (Keeps.upd 32 h1 (hE.sub rfl) rfl)

theorem freeRecord_keeps {m r x1 x2 x3} (hE : Fits 16777248 m) (h1 : Keeps m r x1) :
    Keeps m r (freeRecord x1 x2 x3) := by
  unfold freeRecord
  exact (setRecStat_keeps (hE.sub rfl) (Keeps.wr (k := 8) (Keeps.wr (k := 8) h1 (hE.sub rfl)) (hE.sub rfl)))

theorem freeStepRecords_keeps {m r x1 x2 x3 x4} (hE : Fits 16777248 m) (h1 : Keeps m r x1) :
    Keeps m r (freeStepRecords x1 x2 x3 x4) := by
  unfold freeStepRecords
  refine forAll_keeps (fun _ _ q1 => ?_) h1
  exact (freeRecord_keeps (hE.sub rfl) q1)

theorem discardStep_keeps {m r x1 x2 x3} (hE : Fits 16777248 m) (h1 : Keeps m r x1) :
    Keeps m r (discardStep x1 x2 x3) := by
  unfold discardStep
  refine forAll_keeps (fun _ _ q1 => ?_) h1
  extract_lets -underBinder -merge -useContext +onlyGivenNames vs2
  have hvs2 : Keeps m r vs2 := (freeStepRecords_keeps (hE.sub rfl) q1)
  clear_value vs2
  exact (setBinStep_keeps (hE.sub rfl) (clearStats_keeps (hE.sub rfl) hvs2))

theorem hbmWrite_keeps {m r x1 x2 x3 x4} (hE : Fits 2080 m) (h1 : Keeps m r x1) :
    Keeps m r (hbmWrite x1 x2 x3 x4) :=
  Keeps.upd 32 (Keeps.setHbm h1 (hE.sub rfl) fun h => memoryWf_writeBytes _ _ h) (hE.sub rfl) rfl

theorem setElemCode_keeps {m r x1 x2 x3 x4 x5 x6} (hE : Fits 2080 m) (h1 : Keeps m r x1) :
    Keeps m r (setElemCode x1 x2 x3 x4 x5 x6) := by
  unfold setElemCode
  exact (hbmWrite_keeps (hE.sub rfl) h1)

theorem landElem_keeps {m r x1 x2 x3 x4 x5 x6 x7 x8} (hE : Fits 2080 m) (h1 : Keeps m r x1) :
    KeepsP m r (landElem x1 x2 x3 x4 x5 x6 x7 x8) := by
  unfold landElem
  extract_lets -underBinder -merge -useContext +onlyGivenNames vfb1 vkey2 vr3 vv4
  exact (KeepsP.mk (setElemCode_keeps (hE.sub rfl) h1))

theorem landUnder_keeps {m r x1 x2 x3 x4 x5 x6 x7} (hE : Fits 2080 m) (h6 : Keeps m r x6) :
    KeepsP m r (landUnder x1 x2 x3 x4 x5 x6 x7) := by
  induction x7 generalizing x6 with
  | nil => exact h6
  | cons y ys ih =>
    obtain ⟨i, v, fl⟩ := y
    unfold landUnder
    refine keeps_ite (P := KeepsP m r) (fun _ => ?_) (fun _ => ih h6)
    exact ih (setRecStat_keeps (hE.sub rfl) (landElem_keeps (hE.sub rfl) h6))

theorem landChunk_keeps {m r x1 x2 x3 x4 x5 x6 x7 x8} (hE : Fits 134219808 m) (h1 : Keeps m r x1) :
    KeepsP m r (landChunk x1 x2 x3 x4 x5 x6 x7 x8) := by
  unfold landChunk
  extract_lets -underBinder -merge -useContext +onlyGivenNames vitems1 vfirst2 vr3
  have hvr3 : KeepsP m r vr3 := by
    unfold vr3
    refine foldl_keep (P := KeepsP m r) (fun _ _ q4 => ?_) (KeepsP.mk h1)
    extract_lets -underBinder -merge -useContext +onlyGivenNames vt5
    have hvt5 : KeepsP m r vt5 := (landUnder_keeps (hE.sub rfl) q4)
    clear_value vt5
    exact (KeepsP.mk hvt5)
  clear_value vr3
  exact (KeepsP.mk (countFlags_keeps (hE.sub rfl) hvr3))

theorem loseWord_keeps {m r x1 x2 x3} (hE : Fits 32 m) (h1 : Keeps m r x1) :
    Keeps m r (loseWord x1 x2 x3) := by
  unfold loseWord
  extract_lets -underBinder -merge -useContext +onlyGivenNames vw1 vsrc2
  exact (Keeps.upd 32 h1 (hE.sub rfl) rfl)

theorem makeRecord_keeps {m r x1 x2 x3 x4 x5 x6 x7} (hE : Fits 16777248 m) (h1 : Keeps m r x1) :
    Keeps m r (makeRecord x1 x2 x3 x4 x5 x6 x7) := by
  unfold makeRecord
  extract_lets -underBinder -merge -useContext +onlyGivenNames vx1 vpart2 vs3 vs4 vsrc5
  have hvs3 : Keeps m r vs3 := (Keeps.wr (k := 8) h1 (hE.sub rfl))
  clear_value vs3
  have hvs4 : Keeps m r vs4 := (Keeps.wr (k := 8) hvs3 (hE.sub rfl))
  clear_value vs4
  have hvsrc5 : Keeps m r vsrc5 := (setRecStat_keeps (hE.sub rfl) hvs4)
  clear_value vsrc5
  exact (Keeps.upd 0 hvsrc5 (hE.sub rfl) rfl)

theorem makeRecords_keeps {m r x1 x2 x3 x4 x5} (hE : Fits 16777248 m) (h4 : Keeps m r x4) :
    KeepsOP m r (makeRecords x1 x2 x3 x4 x5) := by
  induction x5 generalizing x4 with
  | nil => exact KeepsOP.some h4
  | cons e es ih =>
    unfold makeRecords
    split
    · exact KeepsOP.none
    · split
      · exact KeepsOP.none
      next hf => exact KeepsOP.some (KeepsP.mk (KeepsOP.get (ih (makeRecord_keeps (hE.sub rfl) h4)) hf))

theorem reserveLanding_keeps {m r x1 x2 x3 x4 x5} (hE : Fits 150994976 m) (h1 : Keeps m r x1) :
    KeepsRes m r (reserveLanding x1 x2 x3 x4 x5) := by
  unfold reserveLanding
  extract_lets -underBinder -merge -useContext +onlyGivenNames ves1 vsaid2 vhit3 vs4 vs5
  have hvs4 : Keeps m r vs4 := by
    unfold vs4
    refine forAll_keeps (fun _ _ q6 => ?_) h1
    exact (Keeps.wrf (k := 8) q6 (hE.sub rfl))
  clear_value vs4
  have hvs5 : Keeps m r vs5 := (count_keeps (hE.sub rfl) hvs4)
  clear_value vs5
  refine keeps_ite (P := KeepsRes m r) (fun _ => ?_) (fun _ => ?_)
  · exact (Reserve.fallow_keeps (event_keeps (hE.sub rfl) h1))
  · refine keeps_ite (P := KeepsRes m r) (fun _ => ?_) (fun _ => ?_)
    · exact Reserve.skipped_keeps
    · refine keeps_ite (P := KeepsRes m r) (fun _ => ?_) (fun _ => ?_)
      · exact Reserve.waits_keeps
      · refine keeps_ite (P := KeepsRes m r) (fun _ => ?_) (fun _ => ?_)
        · exact (Reserve.overlap_keeps (event_keeps (hE.sub rfl) hvs5))
        · split
          · exact (Reserve.reserved_keeps (KeepsOP.get (makeRecords_keeps (hE.sub rfl) h1) (by assumption)))
          · exact Reserve.waits_keeps

theorem setFbState_keeps {m r x1 x2 x3 x4} (hE : Fits 16777216 m) (h1 : Keeps m r x1) :
    Keeps m r (setFbState x1 x2 x3 x4) := by
  unfold setFbState
  exact (Keeps.wrf (k := 8) h1 (hE.sub rfl))

theorem spoilRecord_keeps {m r x1 x2 x3} (hE : Fits 16779296 m) (h2 : Keeps m r x2) :
    Keeps m r (spoilRecord x1 x2 x3) := by
  unfold spoilRecord
  extract_lets -underBinder -merge -useContext +onlyGivenNames vx1 vst2 vk3 vs4
  have hvs4 : Keeps m r vs4 := (hbmWrite_keeps (hE.sub rfl) h2)
  clear_value vs4
  exact (freeRecord_keeps (hE.sub rfl) (Keeps.upd 0 hvs4 (hE.sub rfl) rfl))

/-- The state of a group in progress. -/
def KeepsG (m : Nat) (r : State) (x : GroupAcc) : Prop := Keeps m r x.st

theorem GroupAcc_st_keeps {m r x1} (hE : Fits 0 m) (h1 : KeepsG m r x1) :
    Keeps m r (GroupAcc.st x1) := by
  unfold GroupAcc.st
  exact h1

theorem writeSlotGroup_keeps {m r x1 x2 x3 x4 x5 x6 x7} (hE : Fits 2080 m) (h1 : Keeps m r x1) :
    KeepsP m r (writeSlotGroup x1 x2 x3 x4 x5 x6 x7) := by
  unfold writeSlotGroup
  extract_lets -underBinder -merge -useContext +onlyGivenNames vpol1
  split
  · exact (KeepsP.mk h1)
  · extract_lets -underBinder -merge -useContext +onlyGivenNames vfull2 venc3 vbase4 vhalf5 vs6 vs7 vtail8 vs9 ve10
    have hvs6 : Keeps m r vs6 := (hbmWrite_keeps (hE.sub rfl) h1)
    clear_value vs6
    have hvs7 : Keeps m r vs7 := (hbmWrite_keeps (hE.sub rfl) hvs6)
    clear_value vs7
    have hvs9 : Keeps m r vs9 := by
      unfold vs9
      refine keeps_ite (P := Keeps m r) (fun _ => ?_) (fun _ => ?_)
      · exact (hbmWrite_keeps (hE.sub rfl) (hbmWrite_keeps (hE.sub rfl) hvs7))
      · exact hvs7
    clear_value vs9
    refine keeps_ite (P := KeepsP m r) (fun _ => ?_) (fun _ => ?_)
    · exact (KeepsP.mk hvs9)
    · exact (KeepsP.mk (hbmWrite_keeps (hE.sub rfl) h1))

theorem encodeGroup_keeps {m r x1 x2 x3 x4 x5 x6} (hE : Fits 2080 m) (h1 : Keeps m r x1) :
    KeepsP m r (encodeGroup x1 x2 x3 x4 x5 x6) := by
  unfold encodeGroup
  extract_lets -underBinder -merge -useContext +onlyGivenNames vsp1
  exact (writeSlotGroup_keeps (hE.sub rfl) h1)

theorem encodeSlot_keeps {m r x1 x2 x3 x4 x5} (hE : Fits 2080 m) (h1 : Keeps m r x1) :
    KeepsP m r (encodeSlot x1 x2 x3 x4 x5) := by
  unfold encodeSlot
  refine foldl_keep (P := KeepsP m r) (fun _ _ q1 => ?_) (KeepsP.mk h1)
  extract_lets -underBinder -merge -useContext +onlyGivenNames vr2
  have hvr2 : KeepsP m r vr2 := (encodeGroup_keeps (hE.sub rfl) q1)
  clear_value vr2
  exact (KeepsP.mk hvr2)

theorem storeElem_keeps {m r x1 x2 x3 x4 x5 x6} (hE : Fits 2080 m) (h1 : Keeps m r x1) :
    KeepsP m r (storeElem x1 x2 x3 x4 x5 x6) := by
  unfold storeElem
  extract_lets -underBinder -merge -useContext +onlyGivenNames vc1
  exact (KeepsP.mk (setElemCode_keeps (hE.sub rfl) h1))

theorem storeMoment_keeps {m r x1 x2 x3 x4 x5 x6} (hE : Fits 2080 m) (h1 : Keeps m r x1) :
    KeepsP m r (storeMoment x1 x2 x3 x4 x5 x6) := by
  unfold storeMoment
  split
  · exact (storeElem_keeps (hE.sub rfl) h1)
  · exact (KeepsP.mk h1)

theorem storeMaster_keeps {m r x1 x2 x3 x4 x5} (hE : Fits 2080 m) (h1 : Keeps m r x1) :
    KeepsP m r (storeMaster x1 x2 x3 x4 x5) := by
  unfold storeMaster
  extract_lets -underBinder -merge -useContext +onlyGivenNames vh1 vhi2 vr3
  have hvh1 : KeepsP m r vh1 := (storeElem_keeps (hE.sub rfl) h1)
  clear_value vh1
  have hvr3 : KeepsP m r vr3 := (storeElem_keeps (hE.sub rfl) hvh1)
  clear_value vr3
  refine keeps_ite (P := KeepsP m r) (fun _ => ?_) (fun _ => ?_)
  · exact (KeepsP.mk hvr3)
  · exact hvh1

theorem passElem_keeps {m r x1 x2 x3 x4 x5 x6} (hE : Fits 2080 m) (h5 : KeepsG m r x5) :
    KeepsG m r (passElem x1 x2 x3 x4 x5 x6) := by
  unfold passElem
  extract_lets -underBinder -merge -useContext +onlyGivenNames vs1 vg2 vp3 vm14 vm25 vo6 vd7 vu8 va9 vw10 vw111 vw212
  have hvs1 : Keeps m r vs1 := h5
  clear_value vs1
  have hvw10 : KeepsP m r vw10 := (storeMaster_keeps (hE.sub rfl) hvs1)
  clear_value vw10
  have hvw111 : KeepsP m r vw111 := (storeMoment_keeps (hE.sub rfl) hvw10)
  clear_value vw111
  have hvw212 : KeepsP m r vw212 := (storeMoment_keeps (hE.sub rfl) hvw111)
  clear_value vw212
  refine keeps_ite (P := KeepsG m r) (fun _ => ?_) (fun _ => ?_)
  · exact h5
  · exact hvw212

theorem passGroup_keeps {m r x1 x2 x3 x4 x5 x6 x7 x8} (hE : Fits 2080 m) (h1 : Keeps m r x1) :
    KeepsG m r (passGroup x1 x2 x3 x4 x5 x6 x7 x8) := by
  unfold passGroup
  extract_lets -underBinder -merge -useContext +onlyGivenNames vsp1
  refine foldl_keep (P := KeepsG m r) (fun _ _ q2 => ?_) h1
  exact (passElem_keeps (hE.sub rfl) q2)

theorem flashOf_wf {s : State} {f : Nat} (h : memoriesWf s) : memoryWf 0xFF (flashOf s f) = true := by
  unfold flashOf
  split
  · exact h.2.1
  · exact h.2.2.1

theorem setJobs_keeps {m r x1 x2} (hE : Fits 1024 m) (h1 : Keeps m r x1) :
    Keeps m r (setJobs x1 x2) := by
  unfold setJobs
  exact (Keeps.upd 1024 h1 (hE.sub rfl) rfl)

theorem pushFlash_keeps {m r x1 x2} (hE : Fits 1024 m) (h1 : Keeps m r x1) :
    Keeps m r (pushFlash x1 x2) := by
  unfold pushFlash
  exact (setJobs_keeps (hE.sub rfl) h1)

theorem ledgerFailed_keeps {m r x1 x2 x3} (hE : Fits 134218752 m) (h1 : Keeps m r x1) :
    Keeps m r (ledgerFailed x1 x2 x3) := by
  unfold ledgerFailed
  exact (event_keeps (hE.sub rfl) (Keeps.upd 1024 h1 (hE.sub rfl) rfl))

theorem setFlash_keeps {m r x1 x2 x3} (hE : Fits 16384 m) (h1 : Keeps m r x1)
    (hm : memoriesWf x1 → memoryWf 0xFF x3 = true) :
    Keeps m r (setFlash x1 x2 x3) := by
  unfold setFlash
  refine keeps_ite (P := Keeps m r) (fun _ => ?_) (fun _ => ?_)
  · exact Keeps.setFlashA h1 (hE.sub rfl) hm
  · exact Keeps.setFlashB h1 (hE.sub rfl) hm

theorem runJob_keeps {m r x1 x2} (hE : Fits 16384 m) (h1 : Keeps m r x1) :
    Keeps m r (runJob x1 x2) := by
  unfold runJob
  refine setFlash_keeps (hE.sub rfl) h1 fun h => memoryWf_writeBytes _ _ ?_
  have hf : memoryWf 0xFF (flashOf x1 x2.flash) = true := flashOf_wf h
  split
  · exact memoryWf_filter _ hf
  · exact hf

theorem endJob_keeps {m r x1 x2 x3} (hE : Fits 134235136 m) (h1 : Keeps m r x1) :
    Keeps m r (endJob x1 x2 x3) := by
  unfold endJob
  extract_lets -underBinder -merge -useContext +onlyGivenNames vs1 vs2 vs3
  have hvs1 : Keeps m r vs1 := (setJobs_keeps (hE.sub rfl) h1)
  clear_value vs1
  have hvs2 : Keeps m r vs2 := by
    unfold vs2
    refine keeps_ite (P := Keeps m r) (fun _ => ?_) (fun _ => ?_)
    · exact (runJob_keeps (hE.sub rfl) hvs1)
    · exact hvs1
  clear_value vs2
  have hvs3 : Keeps m r vs3 := by
    unfold vs3
    split
    · exact (ledgerFailed_keeps (hE.sub rfl) hvs2)
    · exact hvs2
  clear_value vs3
  split
  · exact hvs3
  · refine keeps_ite (P := Keeps m r) (fun _ => ?_) (fun _ => ?_)
    · exact (pushFlash_keeps (hE.sub rfl) hvs3)
    · exact hvs3

theorem logEntryWords_keeps {m r x1 x2 x3 x4 x5 x6} (hE : Fits 134217728 m) (h1 : Keeps m r x1) :
    Keeps m r (logEntryWords x1 x2 x3 x4 x5 x6) := by
  unfold logEntryWords
  refine forAll_keeps (fun _ _ q1 => ?_) h1
  refine keeps_ite (P := Keeps m r) (fun _ => ?_) (fun _ => ?_)
  · exact q1
  · exact (logWrite_keeps (hE.sub rfl) q1)

theorem commitEntry_keeps {m r x1 x2 x3 x4 x5 x6 x7 x8} (hE : Fits 134221824 m) (h1 : Keeps m r x1) (h7 : ∀ y1 y2, Keeps m r y1 → Keeps m r (x7 y1 y2)) (h8 : ∀ y1 y2, Keeps m r y1 → Keeps m r (x8 y1 y2)) :
    KeepsW m r (commitEntry x1 x2 x3 x4 x5 x6 x7 x8) := by
  unfold commitEntry
  extract_lets -underBinder -merge -useContext +onlyGivenNames vold1 vstaged2 vs3 ve4 vcode5
  have hvs3 : Keeps m r vs3 := (dropStage_keeps (hE.sub rfl) (logEntryWords_keeps (hE.sub rfl) h1))
  clear_value vs3
  refine keeps_ite (P := KeepsW m r) (fun _ => ?_) (fun _ => ?_)
  · exact (h8 _ _ hvs3)
  · exact (h8 _ _ (h7 _ _ hvs3))

end Sys2Proof.Machine
end

