-- ==== Sys2Proof/Laws/KeepsNet.lean ====
section
/-! SUPPORT. Every operation of forwarding, collective runs, turnovers, verdicts and the cores keeps what `Keeps` names. -/

namespace Sys2Proof.Machine

set_option Elab.async false

open Sys2Proof

/-- The state of a packet's advance. -/
def KeepsAdv (m : Nat) (r : State) (x : Adv) : Prop :=
  match x with
  | .done s | .gone s | .stay s _ | .store s _ | .whole s => Keeps m r s

theorem Adv.done_keeps {m r s} (h : Keeps m r s) : KeepsAdv m r (.done s) := h
theorem Adv.gone_keeps {m r s} (h : Keeps m r s) : KeepsAdv m r (.gone s) := h
theorem Adv.stay_keeps {m r s w} (h : Keeps m r s) : KeepsAdv m r (.stay s w) := h
theorem Adv.store_keeps {m r s n} (h : Keeps m r s) : KeepsAdv m r (.store s n) := h
theorem Adv.whole_keeps {m r s} (h : Keeps m r s) : KeepsAdv m r (.whole s) := h
theorem KeepsAdv.done {m r s x} (h : KeepsAdv m r x) (e : x = .done s) : Keeps m r s := by subst e; exact h
theorem KeepsAdv.gone {m r s x} (h : KeepsAdv m r x) (e : x = .gone s) : Keeps m r s := by subst e; exact h
theorem KeepsAdv.stay {m r s w x} (h : KeepsAdv m r x) (e : x = .stay s w) : Keeps m r s := by subst e; exact h
theorem KeepsAdv.store {m r s n x} (h : KeepsAdv m r x) (e : x = .store s n) : Keeps m r s := by subst e; exact h
theorem KeepsAdv.whole {m r s x} (h : KeepsAdv m r x) (e : x = .whole s) : Keeps m r s := by subst e; exact h

theorem ownEgress_keeps {m r x1 x2 x3} (hE : Fits 1048576 m) (h1 : Keeps m r x1) :
    Keeps m r (ownEgress x1 x2 x3) := by
  unfold ownEgress
  refine forAll_keeps (fun _ _ q1 => ?_) h1
  exact (Keeps.wrf (k := 4) q1 (hE.sub rfl))

theorem admitPkt_keeps {m r x1 x2 x3} (hE : Fits 135266817 m) (h1 : Keeps m r x1) :
    Keeps m r (admitPkt x1 x2 x3) := by
  unfold admitPkt
  extract_lets -underBinder -merge -useContext +onlyGivenNames vs1 vs2
  have hvs1 : Keeps m r vs1 := (chargeQuota_keeps (hE.sub rfl) h1)
  clear_value vs1
  have hvs2 : Keeps m r vs2 := by
    unfold vs2
    refine keeps_ite (P := Keeps m r) (fun _ => ?_) (fun _ => ?_)
    · exact (ownEgress_keeps (hE.sub rfl) hvs1)
    · exact hvs1
  clear_value vs2
  exact (enqueue_keeps (hE.sub rfl) hvs2)

theorem bufferPkt_keeps {m r x1 x2 x3} (hE : Fits 135266309 m) (h1 : Keeps m r x1) :
    KeepsOP m r (bufferPkt x1 x2 x3) := by
  unfold bufferPkt
  refine keeps_ite (P := KeepsOP m r) (fun _ => ?_) (fun _ => ?_)
  · exact (KeepsOP.some (KeepsP.mk h1))
  · split
    · exact KeepsOP.none
    · extract_lets -underBinder -merge -useContext +onlyGivenNames vs1
      have hvs1 : Keeps m r vs1 := by
        unfold vs1
        refine keeps_ite (P := Keeps m r) (fun _ => ?_) (fun _ => ?_)
        · exact (fillBufs_keeps (hE.sub rfl) (KeepsOP.get (allocChain_keeps (hE.sub rfl) h1) (by assumption)))
        · exact (KeepsOP.get (allocChain_keeps (hE.sub rfl) h1) (by assumption))
      clear_value vs1
      exact (KeepsOP.some (KeepsP.mk hvs1))

theorem admitLossy_keeps {m r x1 x2 x3 x4} (hE : Fits 135266821 m) (h1 : Keeps m r x1) :
    KeepsAdv m r (admitLossy x1 x2 x3 x4) := by
  unfold admitLossy
  extract_lets -underBinder -merge -useContext +onlyGivenNames vf1 vdepth2 vleast3
  refine keeps_ite (P := KeepsAdv m r) (fun _ => ?_) (fun _ => ?_)
  · exact (Adv.gone_keeps (count_keeps (hE.sub rfl) h1))
  · refine keeps_ite (P := KeepsAdv m r) (fun _ => ?_) (fun _ => ?_)
    · exact (Adv.gone_keeps (count_keeps (hE.sub rfl) h1))
    · refine keeps_ite (P := KeepsAdv m r) (fun _ => ?_) (fun _ => ?_)
      · exact (Adv.gone_keeps (count_keeps (hE.sub rfl) h1))
      · split
        · exact (Adv.gone_keeps (count_keeps (hE.sub rfl) h1))
        · refine keeps_ite (P := KeepsAdv m r) (fun _ => ?_) (fun _ => ?_)
          · exact (Adv.done_keeps (admitPkt_keeps (hE.sub rfl) (KeepsOP.get (bufferPkt_keeps (hE.sub rfl) h1) (by assumption))))
          · exact (Adv.gone_keeps (freeBufs_keeps (hE.sub rfl) (chargeQuota_keeps (hE.sub rfl) (count_keeps (hE.sub rfl) (KeepsOP.get (bufferPkt_keeps (hE.sub rfl) h1) (by assumption))))))

theorem admitLossless_keeps {m r x1 x2 x3 x4} (hE : Fits 135266821 m) (h1 : Keeps m r x1) :
    KeepsAdv m r (admitLossless x1 x2 x3 x4) := by
  unfold admitLossless
  split
  · extract_lets -underBinder -merge -useContext +onlyGivenNames vs1
    have hvs1 : Keeps m r vs1 := by
      unfold vs1
      refine keeps_ite (P := Keeps m r) (fun _ => ?_) (fun _ => ?_)
      · exact h1
      · exact (count_keeps (hE.sub rfl) h1)
    clear_value vs1
    exact (Adv.stay_keeps hvs1)
  · extract_lets -underBinder -merge -useContext +onlyGivenNames vs2
    have hvs2 : Keeps m r vs2 := by
      unfold vs2
      refine keeps_ite (P := Keeps m r) (fun _ => ?_) (fun _ => ?_)
      · exact (KeepsOP.get (bufferPkt_keeps (hE.sub rfl) h1) (by assumption))
      · exact (count_keeps (hE.sub rfl) (KeepsOP.get (bufferPkt_keeps (hE.sub rfl) h1) (by assumption)))
    clear_value vs2
    refine keeps_ite (P := KeepsAdv m r) (fun _ => ?_) (fun _ => ?_)
    · exact (Adv.done_keeps (admitPkt_keeps (hE.sub rfl) (KeepsOP.get (bufferPkt_keeps (hE.sub rfl) h1) (by assumption))))
    · exact (Adv.stay_keeps hvs2)

theorem admitAt_keeps {m r x1 x2 x3 x4} (hE : Fits 135266821 m) (h1 : Keeps m r x1) :
    KeepsAdv m r (admitAt x1 x2 x3 x4) := by
  unfold admitAt
  refine keeps_ite (P := KeepsAdv m r) (fun _ => ?_) (fun _ => ?_)
  · exact (admitLossless_keeps (hE.sub rfl) h1)
  · exact (admitLossy_keeps (hE.sub rfl) h1)

theorem countPort_keeps {m r x1 x2 x3} (hE : Fits 134217728 m) (h1 : Keeps m r x1) :
    Keeps m r (countPort x1 x2 x3) := by
  unfold countPort
  exact (count_keeps (hE.sub rfl) h1)

theorem police_keeps {m r x1 x2 x3} (hE : Fits 136314880 m) (h1 : Keeps m r x1) :
    KeepsP m r (police x1 x2 x3) := by
  unfold police
  split
  · exact (KeepsP.mk (countPort_keeps (hE.sub rfl) h1))
  · extract_lets -underBinder -merge -useContext +onlyGivenNames vb1 va2 vpeak3 vcom4
    refine keeps_ite (P := KeepsP m r) (fun _ => ?_) (fun _ => ?_)
    · exact (KeepsP.mk (count_keeps (hE.sub rfl) (count_keeps (hE.sub rfl) h1)))
    · refine keeps_ite (P := KeepsP m r) (fun _ => ?_) (fun _ => ?_)
      · exact (KeepsP.mk (count_keeps (hE.sub rfl) (Keeps.wrf (k := 5) h1 (hE.sub rfl))))
      · exact (KeepsP.mk (count_keeps (hE.sub rfl) (Keeps.wrf (k := 5) (Keeps.wrf (k := 5) h1 (hE.sub rfl)) (hE.sub rfl))))

theorem forwardAt_keeps {m r x1 x2 x3 x4} (hE : Fits 135266821 m) (h1 : Keeps m r x1) :
    KeepsAdv m r (forwardAt x1 x2 x3 x4) := by
  unfold forwardAt
  refine keeps_ite (P := KeepsAdv m r) (fun _ => ?_) (fun _ => ?_)
  · exact (admitAt_keeps (hE.sub rfl) h1)
  · exact (Adv.store_keeps h1)

theorem dropIngress_keeps {m r x1 x2 x3 x4} (hE : Fits 135528454 m) (h1 : Keeps m r x1) :
    Keeps m r (dropIngress x1 x2 x3 x4) := by
  unfold dropIngress
  extract_lets -underBinder -merge -useContext +onlyGivenNames vs1 vs2
  have hvs1 : Keeps m r vs1 := (countPort_keeps (hE.sub rfl) h1)
  clear_value vs1
  have hvs2 : Keeps m r vs2 := (chargeQuota_keeps (hE.sub rfl) hvs1)
  clear_value vs2
  exact (giveBack_keeps (hE.sub rfl) (freeBufs_keeps (hE.sub rfl) hvs2))

theorem advancePkt_keeps {m r x1 x2 x3} (hE : Fits 137626119 m) (h1 : Keeps m r x1) :
    KeepsAdv m r (advancePkt x1 x2 x3) := by
  unfold advancePkt
  split
  · exact (admitAt_keeps (hE.sub rfl) h1)
  · refine keeps_ite (P := KeepsAdv m r) (fun _ => ?_) (fun _ => ?_)
    · exact (Adv.stay_keeps h1)
    · split
      · exact (Adv.gone_keeps (dropIngress_keeps (hE.sub rfl) h1))
      · exact (Adv.whole_keeps h1)
      · refine keeps_ite (P := KeepsAdv m r) (fun _ => ?_) (fun _ => ?_)
        · exact (Adv.gone_keeps (dropIngress_keeps (hE.sub rfl) h1))
        · refine keeps_ite (P := KeepsAdv m r) (fun _ => ?_) (fun _ => ?_)
          · exact (forwardAt_keeps (hE.sub rfl) h1)
          · split
            · exact (Adv.gone_keeps (KeepsP.of_eq (police_keeps (hE.sub rfl) h1) (by assumption)))
            · exact (forwardAt_keeps (hE.sub rfl) (KeepsP.of_eq (police_keeps (hE.sub rfl) h1) (by assumption)))

theorem setRx_keeps {m r x1 x2 x3} (hE : Fits 1 m) (h1 : Keeps m r x1) :
    Keeps m r (setRx x1 x2 x3) := by
  unfold setRx
  exact (Keeps.upd 1 h1 (hE.sub rfl) rfl)

theorem placeRx_keeps {m r x1 x2 x3 x4} (hE : Fits 1 m) (h1 : Keeps m r x1) :
    Keeps m r (placeRx x1 x2 x3 x4) := by
  unfold placeRx
  exact (setRx_keeps (hE.sub rfl) h1)

theorem setWaits_keeps {m r x1 x2 x3 x4} (hE : Fits 1 m) (h1 : Keeps m r x1) :
    Keeps m r (setWaits x1 x2 x3 x4) := by
  unfold setWaits
  exact (Keeps.upd 1 h1 (hE.sub rfl) rfl)

theorem drainWaits_keeps {m r x1 x2 x3 x4} (hE : Fits 137626119 m) (h4 : Keeps m r x4) :
    Keeps m r (drainWaits x1 x2 x3 x4) := by
  induction x3 generalizing x4 with
  | zero => exact h4
  | succ n ih =>
    unfold drainWaits
    split
    · exact h4
    · refine keeps_ite (P := Keeps m r) (fun _ => h4) (fun _ => ?_)
      have hm := fun w => advancePkt_keeps (hE.sub rfl) (x2 := x1) (x3 := w) h4
      split
      next e => exact ih (setWaits_keeps (hE.sub rfl) (KeepsAdv.done (hm _) e))
      next e => exact ih (placeRx_keeps (hE.sub rfl) (setWaits_keeps (hE.sub rfl) (KeepsAdv.gone (hm _) e)))
      next e => exact ih (placeRx_keeps (hE.sub rfl) (setWaits_keeps (hE.sub rfl) (KeepsAdv.whole (hm _) e)))
      next e => exact ih (setRx_keeps (hE.sub rfl) (setWaits_keeps (hE.sub rfl) (KeepsAdv.store (hm _) e)))
      next e => exact setWaits_keeps (hE.sub rfl) (KeepsAdv.stay (hm _) e)

theorem drainPort_keeps {m r x1 x2 x3} (hE : Fits 137626119 m) (h1 : Keeps m r x1) :
    Keeps m r (drainPort x1 x2 x3) := by
  unfold drainPort
  exact (drainWaits_keeps (hE.sub rfl) h1)

theorem unqueue_keeps {m r x1 x2 x3} (hE : Fits 1 m) (h1 : Keeps m r x1) :
    Keeps m r (unqueue x1 x2 x3) := by
  unfold unqueue
  extract_lets -underBinder -merge -useContext +onlyGivenNames vq1 vwasHead2 vs3
  have hvs3 : Keeps m r vs3 := (setQueue_keeps (hE.sub rfl) h1)
  clear_value vs3
  refine keeps_ite (P := Keeps m r) (fun _ => ?_) (fun _ => ?_)
  · exact (tagHead_keeps (hE.sub rfl) hvs3)
  · exact hvs3

theorem badPlaced_keeps {m r x1 x2 x3 x4 x5 x6 x7} (hE : Fits 137626119 m) (h1 : Keeps m r x1) :
    Keeps m r (badPlaced x1 x2 x3 x4 x5 x6 x7) := by
  unfold badPlaced
  extract_lets -underBinder -merge -useContext +onlyGivenNames vf1
  split
  · extract_lets -underBinder -merge -useContext +onlyGivenNames vs2 vs3
    have hvs2 : Keeps m r vs2 := (countPort_keeps (hE.sub rfl) h1)
    clear_value vs2
    have hvs3 : Keeps m r vs3 := by
      unfold vs3
      refine keeps_ite (P := Keeps m r) (fun _ => ?_) (fun _ => ?_)
      · exact hvs2
      · exact (countPort_keeps (hE.sub rfl) hvs2)
    clear_value vs3
    split
    · exact (setSending_keeps (hE.sub rfl) hvs3)
    · exact hvs3
  · split
    · extract_lets -underBinder -merge -useContext +onlyGivenNames vq4 vs5 vs6 vs7
      have hvs5 : Keeps m r vs5 := (unqueue_keeps (hE.sub rfl) h1)
      clear_value vs5
      have hvs6 : Keeps m r vs6 := (countPort_keeps (hE.sub rfl) hvs5)
      clear_value vs6
      have hvs7 : Keeps m r vs7 := by
        unfold vs7
        refine forAll_keeps (fun _ _ q8 => ?_) hvs6
        exact (freeBufs_keeps (hE.sub rfl) q8)
      clear_value vs7
      exact (returnCredits_keeps (hE.sub rfl) hvs7)
    · split
      · extract_lets -underBinder -merge -useContext +onlyGivenNames vs9
        have hvs9 : Keeps m r vs9 := (setWaits_keeps (hE.sub rfl) h1)
        clear_value vs9
        exact (drainPort_keeps (hE.sub rfl) (dropIngress_keeps (hE.sub rfl) hvs9))
      · exact h1

theorem setHold_keeps {m r x1 x2 x3} (hE : Fits 1 m) (h1 : Keeps m r x1) :
    Keeps m r (setHold x1 x2 x3) := by
  unfold setHold
  exact (Keeps.upd 1 h1 (hE.sub rfl) rfl)

theorem countArrival_keeps {m r x1 x2} (hE : Fits 1 m) (h1 : Keeps m r x1) :
    Keeps m r (countArrival x1 x2) := by
  unfold countArrival
  split
  · exact h1
  · exact (setHold_keeps (hE.sub rfl) h1)

theorem drainHolds_keeps {m r x1} (hE : Fits 137626119 m) (h1 : Keeps m r x1) :
    Keeps m r (drainHolds x1) := by
  unfold drainHolds
  refine forAll_keeps (fun _ _ q1 => ?_) h1
  exact (drainPort_keeps (hE.sub rfl) q1)

theorem fwdResult_keeps {m r x1 x2} (hE : Fits 524288 m) (h1 : Keeps m r x1) :
    Keeps m r (fwdResult x1 x2) := by
  unfold fwdResult
  exact (Keeps.wrf (k := 3) h1 (hE.sub rfl))

theorem ecmpSetWrite_keeps {m r x1 x2 x3 x4 x5} (hE : Fits 134746112 m) (h1 : Keeps m r x1) :
    KeepsW m r (ecmpSetWrite x1 x2 x3 x4 x5) := by
  unfold ecmpSetWrite
  refine keeps_ite (P := KeepsW m r) (fun _ => ?_) (fun _ => ?_)
  · exact (fwdResult_keeps (hE.sub rfl) h1)
  · exact (regWrite_keeps (k := 3) (hE.sub rfl) (hE.sub rfl) (fwdResult_keeps (hE.sub rfl) h1))

theorem execEcmpSetWrite_keeps {m r x1 x2 x3 x4 x5} (hE : Fits 168300800 m) (h5 : Keeps m r x5) :
    KeepsA m r (execEcmpSetWrite x1 x2 x3 x4 x5) := by
  unfold execEcmpSetWrite
  exact (KeepsA.next (mgApply_keeps (hE.sub rfl) h5 (fun _ g1 => (ecmpSetWrite_keeps (hE.sub rfl) g1))))

theorem fwdCommand_keeps {m r x1 x2 x3} (hE : Fits 138150407 m) (h1 : Keeps m r x1) :
    KeepsP m r (fwdCommand x1 x2 x3) := by
  unfold fwdCommand
  extract_lets -underBinder -merge -useContext +onlyGivenNames vr1
  have hvr1 : KeepsP m r vr1 := by
    unfold vr1
    split
    · split
      · exact (KeepsP.mk h1)
      · refine keeps_ite (P := KeepsP m r) (fun _ => ?_) (fun _ => ?_)
        · exact (KeepsP.mk h1)
        · exact (KeepsP.mk (setHold_keeps (hE.sub rfl) (Keeps.wrf (k := 3) h1 (hE.sub rfl))))
      · exact (KeepsP.mk h1)
    · refine keeps_ite (P := KeepsP m r) (fun _ => ?_) (fun _ => ?_)
      · exact (KeepsP.mk h1)
      · exact (KeepsP.mk (drainHolds_keeps (hE.sub rfl) (setHold_keeps (hE.sub rfl) (Keeps.wrf (k := 3) h1 (hE.sub rfl)))))
    · refine keeps_ite (P := KeepsP m r) (fun _ => ?_) (fun _ => ?_)
      · exact (KeepsP.mk h1)
      · refine keeps_ite (P := KeepsP m r) (fun _ => ?_) (fun _ => ?_)
        · exact (KeepsP.mk h1)
        · refine keeps_ite (P := KeepsP m r) (fun _ => ?_) (fun _ => ?_)
          · exact (KeepsP.mk h1)
          · exact (KeepsP.mk (setHold_keeps (hE.sub rfl) (Keeps.wrf (k := 3) h1 (hE.sub rfl))))
    · exact (KeepsP.mk h1)
  clear_value vr1
  exact (KeepsP.mk (fwdResult_keeps (hE.sub rfl) hvr1))

theorem fwdCmdWrite_keeps {m r x1 x2 x3} (hE : Fits 138154503 m) (h1 : Keeps m r x1) :
    KeepsW m r (fwdCmdWrite x1 x2 x3) := by
  unfold fwdCmdWrite
  exact (cmdWrite_keeps (k := 3) (hE.sub rfl) (hE.sub rfl) h1 (fun _ g1 => (fwdCommand_keeps (hE.sub rfl) g1)))

theorem execFwdHold_keeps {m r x1 x2 x3} (hE : Fits 171709191 m) (h3 : Keeps m r x3) :
    KeepsA m r (execFwdHold x1 x2 x3) := by
  unfold execFwdHold
  exact (KeepsA.next (mgApply_keeps (hE.sub rfl) h3 (fun _ g1 => (fwdCmdWrite_keeps (hE.sub rfl) g1))))

theorem execFwdInvalidate_keeps {m r x1 x2 x3} (hE : Fits 171709191 m) (h3 : Keeps m r x3) :
    KeepsA m r (execFwdInvalidate x1 x2 x3) := by
  unfold execFwdInvalidate
  exact (KeepsA.next (mgApply_keeps (hE.sub rfl) h3 (fun _ g1 => (fwdCmdWrite_keeps (hE.sub rfl) g1))))

theorem execFwdQuery_keeps {m r x1 x2 x3} (hE : Fits 171709191 m) (h3 : Keeps m r x3) :
    KeepsA m r (execFwdQuery x1 x2 x3) := by
  unfold execFwdQuery
  exact (KeepsA.next (mgApply_keeps (hE.sub rfl) h3 (fun _ g1 => (fwdCmdWrite_keeps (hE.sub rfl) g1))))

theorem execFwdRelease_keeps {m r x1 x2 x3} (hE : Fits 171709191 m) (h3 : Keeps m r x3) :
    KeepsA m r (execFwdRelease x1 x2 x3) := by
  unfold execFwdRelease
  exact (KeepsA.next (mgApply_keeps (hE.sub rfl) h3 (fun _ g1 => (fwdCmdWrite_keeps (hE.sub rfl) g1))))

theorem fwdTableWrite_keeps {m r x1 x2 x3 x4} (hE : Fits 134746112 m) (h1 : Keeps m r x1) :
    KeepsW m r (fwdTableWrite x1 x2 x3 x4) := by
  unfold fwdTableWrite
  extract_lets -underBinder -merge -useContext +onlyGivenNames vcode1 vwas2 vs3 vs4
  have hvs3 : Keeps m r vs3 := (regWrite_keeps (k := 3) (hE.sub rfl) (hE.sub rfl) (fwdResult_keeps (hE.sub rfl) h1))
  clear_value vs3
  have hvs4 : Keeps m r vs4 := by
    unfold vs4
    refine keeps_ite (P := Keeps m r) (fun _ => ?_) (fun _ => ?_)
    · exact (Keeps.wrf (k := 3) hvs3 (hE.sub rfl))
    · exact hvs3
  clear_value vs4
  refine keeps_ite (P := KeepsW m r) (fun _ => ?_) (fun _ => ?_)
  · exact (fwdResult_keeps (hE.sub rfl) h1)
  · exact hvs4

theorem execFwdTableWrite_keeps {m r x1 x2 x3 x4} (hE : Fits 168300800 m) (h4 : Keeps m r x4) :
    KeepsA m r (execFwdTableWrite x1 x2 x3 x4) := by
  unfold execFwdTableWrite
  exact (KeepsA.next (mgApply_keeps (hE.sub rfl) h4 (fun _ g1 => (fwdTableWrite_keeps (hE.sub rfl) g1))))

theorem execHoldTimeout_keeps {m r x1 x2 x3} (hE : Fits 137626119 m) (h3 : Keeps m r x3) :
    KeepsA m r (execHoldTimeout x1 x2 x3) := by
  unfold execHoldTimeout
  split
  · extract_lets -underBinder -merge -useContext +onlyGivenNames vs1 vs2
    have hvs1 : Keeps m r vs1 := (placeRx_keeps (hE.sub rfl) (setWaits_keeps (hE.sub rfl) h3))
    clear_value vs1
    have hvs2 : Keeps m r vs2 := (event_keeps (hE.sub rfl) (dropIngress_keeps (hE.sub rfl) hvs1))
    clear_value vs2
    refine keeps_ite (P := KeepsA m r) (fun _ => ?_) (fun _ => ?_)
    · exact (KeepsA.next (drainPort_keeps (hE.sub rfl) hvs2))
    · exact (KeepsA.next h3)
  · exact (KeepsA.next h3)

theorem execOccScanEnd_keeps {m r x1 x2} (hE : Fits 1 m) (h2 : Keeps m r x2) :
    KeepsA m r (execOccScanEnd x1 x2) := by
  unfold execOccScanEnd
  split
  · exact (KeepsA.next (setHold_keeps (hE.sub rfl) h2))
  · exact (KeepsA.next h2)

theorem pushRx_keeps {m r x1 x2 x3 x4} (hE : Fits 1 m) (h1 : Keeps m r x1) :
    Keeps m r (pushRx x1 x2 x3 x4) := by
  unfold pushRx
  exact (setRx_keeps (hE.sub rfl) h1)

theorem headerPlaced_keeps {m r x1 x2 x3} (hE : Fits 137626119 m) (h1 : Keeps m r x1) :
    Keeps m r (headerPlaced x1 x2 x3) := by
  unfold headerPlaced
  extract_lets -underBinder -merge -useContext +onlyGivenNames vf1 vs2 vw3
  have hvs2 : Keeps m r vs2 := (countArrival_keeps (hE.sub rfl) h1)
  clear_value vs2
  refine keeps_ite (P := Keeps m r) (fun _ => ?_) (fun _ => ?_)
  · exact (pushRx_keeps (hE.sub rfl) h1)
  · refine keeps_ite (P := Keeps m r) (fun _ => ?_) (fun _ => ?_)
    · exact (setWaits_keeps (hE.sub rfl) (pushRx_keeps (hE.sub rfl) hvs2))
    · split
      · exact (pushRx_keeps (hE.sub rfl) (KeepsAdv.done (advancePkt_keeps (hE.sub rfl) hvs2) (by assumption)))
      · exact (pushRx_keeps (hE.sub rfl) (KeepsAdv.gone (advancePkt_keeps (hE.sub rfl) hvs2) (by assumption)))
      · exact (pushRx_keeps (hE.sub rfl) (KeepsAdv.whole (advancePkt_keeps (hE.sub rfl) hvs2) (by assumption)))
      · exact (pushRx_keeps (hE.sub rfl) (KeepsAdv.store (advancePkt_keeps (hE.sub rfl) hvs2) (by assumption)))
      · exact (setWaits_keeps (hE.sub rfl) (pushRx_keeps (hE.sub rfl) (KeepsAdv.stay (advancePkt_keeps (hE.sub rfl) hvs2) (by assumption))))

theorem execPacketHeader_keeps {m r x1 x2 x3} (hE : Fits 137626119 m) (h3 : Keeps m r x3) :
    KeepsA m r (execPacketHeader x1 x2 x3) := by
  unfold execPacketHeader
  extract_lets -underBinder -merge -useContext +onlyGivenNames vfallow1 vc2 vf3 vs4 vu5 vs6 vk7 vexcess8
  have hvs4 : Keeps m r vs4 := (count_keeps (hE.sub rfl) (count_keeps (hE.sub rfl) h3))
  clear_value vs4
  have hvu5 : KeepsP m r vu5 := (freshUid_keeps (hE.sub rfl) hvs4)
  clear_value vu5
  have hvs6 : Keeps m r vs6 := hvu5
  clear_value vs6
  refine keeps_ite (P := KeepsA m r) (fun _ => ?_) (fun _ => ?_)
  · exact (KeepsA.next h3)
  · refine keeps_ite (P := KeepsA m r) (fun _ => ?_) (fun _ => ?_)
    · exact (KeepsA.next (pushRx_keeps (hE.sub rfl) (returnCredits_keeps (hE.sub rfl) (takeCredits_keeps (hE.sub rfl) (countPort_keeps (hE.sub rfl) hvs6)))))
    · split
      · exact (KeepsA.next (pushRx_keeps (hE.sub rfl) (returnCredits_keeps (hE.sub rfl) (takeCredits_keeps (hE.sub rfl) (countPort_keeps (hE.sub rfl) hvs6)))))
      · refine keeps_ite (P := KeepsA m r) (fun _ => ?_) (fun _ => ?_)
        · exact (KeepsA.next (pushRx_keeps (hE.sub rfl) (event_keeps (hE.sub rfl) (countPort_keeps (hE.sub rfl) hvs6))))
        · exact (KeepsA.next (headerPlaced_keeps (hE.sub rfl) (takeCredits_keeps (hE.sub rfl) hvs6)))

theorem goodPlaced_keeps {m r x1 x2 x3 x4} (hE : Fits 1048581 m) (h1 : Keeps m r x1) :
    Keeps m r (goodPlaced x1 x2 x3 x4) := by
  unfold goodPlaced
  extract_lets -underBinder -merge -useContext +onlyGivenNames vdone1 vbufs2
  have hvbufs2 : ∀ y3 y5, Keeps m r y3 → Keeps m r (vbufs2 y3 y5) := by
    intro y3 y5 g4
    unfold vbufs2
    exact (fillBufs_keeps (hE.sub rfl) g4)
  clear_value vbufs2
  split
  · split
    · exact (ownEgress_keeps (hE.sub rfl) (hvbufs2 _ _ (setSending_keeps (hE.sub rfl) h1)))
    · exact h1
  · split
    · extract_lets -underBinder -merge -useContext +onlyGivenNames vq6 vs7
      have hvs7 : Keeps m r vs7 := (setQueue_keeps (hE.sub rfl) h1)
      clear_value vs7
      refine forAll_keeps (fun _ _ q8 => ?_) hvs7
      exact (ownEgress_keeps (hE.sub rfl) (hvbufs2 _ _ q8))
    · extract_lets -underBinder -merge -useContext +onlyGivenNames vf9 vws10 vs11
      have hvs11 : Keeps m r vs11 := by
        unfold vs11
        refine forAll_keeps (fun _ _ q12 => ?_) h1
        refine keeps_ite (P := Keeps m r) (fun _ => ?_) (fun _ => ?_)
        · exact (hvbufs2 _ _ q12)
        · exact q12
      clear_value vs11
      exact (setWaits_keeps (hE.sub rfl) hvs11)

theorem tailAt_keeps {m r x1 x2 x3 x4 x5 x6 x7} (hE : Fits 171180807 m) (h1 : Keeps m r x1) :
    Keeps m r (tailAt x1 x2 x3 x4 x5 x6 x7) := by
  unfold tailAt
  extract_lets -underBinder -merge -useContext +onlyGivenNames vk1 vf2
  split
  · exact h1
  · split
    · split
      · exact (badPlaced_keeps (hE.sub rfl) h1)
      · exact (returnCredits_keeps (hE.sub rfl) (countPort_keeps (hE.sub rfl) h1))
    · extract_lets -underBinder -merge -useContext +onlyGivenNames vs3
      have hvs3 : Keeps m r vs3 := (capturePacket_keeps (hE.sub rfl) h1)
      clear_value vs3
      split
      · exact (goodPlaced_keeps (hE.sub rfl) hvs3)
      · extract_lets -underBinder -merge -useContext +onlyGivenNames vgoesTo4 vw5
        refine keeps_ite (P := Keeps m r) (fun _ => ?_) (fun _ => ?_)
        · exact (setWaits_keeps (hE.sub rfl) hvs3)
        · split
          · exact (setWaits_keeps (hE.sub rfl) (KeepsAdv.stay (advancePkt_keeps (hE.sub rfl) hvs3) (by assumption)))
          · exact (KeepsAdv.done (advancePkt_keeps (hE.sub rfl) hvs3) (by assumption))
          · exact (KeepsAdv.gone (advancePkt_keeps (hE.sub rfl) hvs3) (by assumption))
          · exact (KeepsAdv.whole (advancePkt_keeps (hE.sub rfl) hvs3) (by assumption))
          · exact (KeepsAdv.store (advancePkt_keeps (hE.sub rfl) hvs3) (by assumption))
      · exact hvs3

theorem execPacketTail_keeps {m r x1 x2 x3 x4 x5 x6} (hE : Fits 171180807 m) (h6 : Keeps m r x6) :
    KeepsA m r (execPacketTail x1 x2 x3 x4 x5 x6) := by
  unfold execPacketTail
  split
  · exact (KeepsA.next h6)
  · exact (KeepsA.next (tailAt_keeps (hE.sub rfl) (setRx_keeps (hE.sub rfl) h6)))

theorem quotaAdmitIngress_keeps {m r x1 x2 x3} (hE : Fits 137626119 m) (h1 : Keeps m r x1) :
    Keeps m r (quotaAdmitIngress x1 x2 x3) := by
  unfold quotaAdmitIngress
  split
  · refine keeps_ite (P := Keeps m r) (fun _ => ?_) (fun _ => ?_)
    · exact (drainPort_keeps (hE.sub rfl) h1)
    · exact h1
  · exact h1

theorem clearHist_keeps {m r x1 x2} (hE : Fits 8388608 m) (h1 : Keeps m r x1) :
    Keeps m r (clearHist x1 x2) := by
  unfold clearHist
  extract_lets -underBinder -merge -useContext +onlyGivenNames vs1
  have hvs1 : Keeps m r vs1 := (wrEntry_keeps (k := 7) h1 (hE.sub rfl))
  clear_value vs1
  exact (Keeps.wrf (k := 7) hvs1 (hE.sub rfl))

theorem setRuns_keeps {m r x1 x2 x3} (hE : Fits 8 m) (h1 : Keeps m r x1) :
    Keeps m r (setRuns x1 x2 x3) := by
  unfold setRuns
  exact (Keeps.upd 8 h1 (hE.sub rfl) rfl)

theorem releaseRun_keeps {m r x1 x2} (hE : Fits 8388616 m) (h1 : Keeps m r x1) :
    Keeps m r (releaseRun x1 x2) := by
  unfold releaseRun
  split
  · exact h1
  · extract_lets -underBinder -merge -useContext +onlyGivenNames vs1
    have hvs1 : Keeps m r vs1 := by
      unfold vs1
      refine keeps_ite (P := Keeps m r) (fun _ => ?_) (fun _ => ?_)
      · exact h1
      · exact (Keeps.drain (k := 7) h1 (hE.sub rfl))
    clear_value vs1
    refine keeps_ite (P := Keeps m r) (fun _ => ?_) (fun _ => ?_)
    · exact (setRuns_keeps (hE.sub rfl) hvs1)
    · exact (setRuns_keeps (hE.sub rfl) hvs1)

theorem placeFrame_keeps {m r x1 x2 x3 x4} (hE : Fits 135266821 m) (h1 : Keeps m r x1) :
    KeepsO m r (placeFrame x1 x2 x3 x4) := by
  unfold placeFrame
  split
  · exact KeepsO.none
  · refine keeps_ite (P := KeepsO m r) (fun _ => ?_) (fun _ => ?_)
    · exact (KeepsO.some (enqueue_keeps (hE.sub rfl) (chargeQuota_keeps (hE.sub rfl) (KeepsOP.get (allocPacket_keeps (hE.sub rfl) h1) (by assumption)))))
    · exact KeepsO.none

theorem sendFrame_keeps {m r x1 x2 x3 x4} (hE : Fits 135266821 m) (h1 : Keeps m r x1) :
    Keeps m r (sendFrame x1 x2 x3 x4) := by
  unfold sendFrame
  extract_lets -underBinder -merge -useContext +onlyGivenNames vsrc1 vwait2
  have hvwait2 : Keeps m r vwait2 := (Keeps.upd 1 h1 (hE.sub rfl) rfl)
  clear_value vwait2
  refine keeps_ite (P := Keeps m r) (fun _ => ?_) (fun _ => ?_)
  · exact hvwait2
  · split
    · exact hvwait2
    · exact (KeepsO.get (placeFrame_keeps (hE.sub rfl) h1) (by assumption))

theorem modRun_keeps {m r x1 x2 x3} (hE : Fits 8 m) (h1 : Keeps m r x1) :
    Keeps m r (modRun x1 x2 x3) := by
  unfold modRun
  split
  · exact h1
  · exact (setRuns_keeps (hE.sub rfl) h1)

theorem newFrame_keeps {m r x1 x2 x3 x4} (hE : Fits 1 m) (h1 : Keeps m r x1) :
    KeepsP m r (newFrame x1 x2 x3 x4) := by
  unfold newFrame
  extract_lets -underBinder -merge -useContext +onlyGivenNames vu1
  have hvu1 : KeepsP m r vu1 := (freshUid_keeps (hE.sub rfl) h1)
  clear_value vu1
  exact (KeepsP.mk hvu1)

theorem sendFinal_keeps {m r x1 x2 x3 x4} (hE : Fits 135266829 m) (h3 : Keeps m r x3) :
    Keeps m r (sendFinal x1 x2 x3 x4) := by
  unfold sendFinal
  split
  · exact h3
  · extract_lets -underBinder -merge -useContext +onlyGivenNames vm1 vh2 vf3 vs4 vs5
    have hvf3 : KeepsP m r vf3 := (newFrame_keeps (hE.sub rfl) h3)
    clear_value vf3
    have hvs4 : Keeps m r vs4 := (count_keeps (hE.sub rfl) hvf3)
    clear_value vs4
    have hvs5 : Keeps m r vs5 := (modRun_keeps (hE.sub rfl) hvs4)
    clear_value vs5
    refine keeps_ite (P := Keeps m r) (fun _ => ?_) (fun _ => ?_)
    · exact h3
    · exact (sendFrame_keeps (hE.sub rfl) hvs5)

theorem tryFinish_keeps {m r x1 x2} (hE : Fits 143655437 m) (h1 : Keeps m r x1) :
    Keeps m r (tryFinish x1 x2) := by
  unfold tryFinish
  split
  · exact h1
  · extract_lets -underBinder -merge -useContext +onlyGivenNames vg1 vs2 vs3
    have hvs2 : Keeps m r vs2 := (modRun_keeps (hE.sub rfl) h1)
    clear_value vs2
    have hvs3 : Keeps m r vs3 := by
      unfold vs3
      refine forAll_keeps (fun _ _ q4 => ?_) hvs2
      exact (sendFinal_keeps (hE.sub rfl) q4)
    clear_value vs3
    refine keeps_ite (P := Keeps m r) (fun _ => ?_) (fun _ => ?_)
    · exact h1
    · refine keeps_ite (P := Keeps m r) (fun _ => ?_) (fun _ => ?_)
      · exact h1
      · refine keeps_ite (P := Keeps m r) (fun _ => ?_) (fun _ => ?_)
        · exact h1
        · split
          · refine keeps_ite (P := Keeps m r) (fun _ => ?_) (fun _ => ?_)
            · exact (releaseRun_keeps (hE.sub rfl) hvs3)
            · exact hvs3
          · exact hvs3

theorem setVrdWork_keeps {m r x1 x2 x3} (hE : Fits 64 m) (h1 : Keeps m r x1) :
    Keeps m r (setVrdWork x1 x2 x3) := by
  unfold setVrdWork
  exact (Keeps.upd 64 h1 (hE.sub rfl) rfl)

theorem vrdEnter_keeps {m r x1 x2 x3} (hE : Fits 16777280 m) (h1 : Keeps m r x1) :
    Keeps m r (vrdEnter x1 x2 x3) := by
  unfold vrdEnter
  extract_lets -underBinder -merge -useContext +onlyGivenNames vw1
  refine keeps_ite (P := Keeps m r) (fun _ => ?_) (fun _ => ?_)
  · exact (Keeps.wrf (k := 8) (setVrdWork_keeps (hE.sub rfl) h1) (hE.sub rfl))
  · exact (Keeps.wrf (k := 8) h1 (hE.sub rfl))

theorem verdictFailed_keeps {m r x1 x2 x3 x4} (hE : Fits 150995008 m) (h1 : Keeps m r x1) :
    Keeps m r (verdictFailed x1 x2 x3 x4) := by
  unfold verdictFailed
  refine keeps_ite (P := Keeps m r) (fun _ => ?_) (fun _ => ?_)
  · exact (event_keeps (hE.sub rfl) h1)
  · refine keeps_ite (P := Keeps m r) (fun _ => ?_) (fun _ => ?_)
    · exact (event_keeps (hE.sub rfl) (vrdEnter_keeps (hE.sub rfl) h1))
    · exact h1

theorem closeScale_keeps {m r x1 x2 x3 x4} (hE : Fits 8388608 m) (h1 : Keeps m r x1) :
    Keeps m r (closeScale x1 x2 x3 x4) := by
  unfold closeScale
  extract_lets -underBinder -merge -useContext +onlyGivenNames va1 vs2 vk3 vs4 vj5 vs6 vs7 vs8
  have hvs2 : Keeps m r vs2 := by
    unfold vs2
    refine keeps_ite (P := Keeps m r) (fun _ => ?_) (fun _ => ?_)
    · exact (Keeps.bumpMod (k := 7) h1 (hE.sub rfl))
    · exact h1
  clear_value vs2
  have hvs4 : Keeps m r vs4 := (Keeps.bumpMod (k := 7) (clearHist_keeps (hE.sub rfl) hvs2) (hE.sub rfl))
  clear_value vs4
  have hvs6 : Keeps m r vs6 := (Keeps.wrf (k := 7) hvs2 (hE.sub rfl))
  clear_value vs6
  have hvs7 : Keeps m r vs7 := (Keeps.wrf (k := 7) (Keeps.wrf (k := 7) hvs6 (hE.sub rfl)) (hE.sub rfl))
  clear_value vs7
  have hvs8 : Keeps m r vs8 := (Keeps.wrf (k := 7) (Keeps.wrf (k := 7) hvs7 (hE.sub rfl)) (hE.sub rfl))
  clear_value vs8
  refine keeps_ite (P := Keeps m r) (fun _ => ?_) (fun _ => ?_)
  · exact h1
  · refine keeps_ite (P := Keeps m r) (fun _ => ?_) (fun _ => ?_)
    · exact (Keeps.wrf (k := 7) (Keeps.wrf (k := 7) hvs4 (hE.sub rfl)) (hE.sub rfl))
    · refine keeps_ite (P := Keeps m r) (fun _ => ?_) (fun _ => ?_)
      · exact (Keeps.wrf (k := 7) hvs8 (hE.sub rfl))
      · exact hvs2

theorem freeLanding_keeps {m r x1 x2 x3} (hE : Fits 16779296 m) (h1 : Keeps m r x1) :
    Keeps m r (freeLanding x1 x2 x3) := by
  unfold freeLanding
  split
  · refine forAll_keeps (fun _ _ q1 => ?_) h1
    exact (spoilRecord_keeps (hE.sub rfl) q1)
  · exact h1

theorem logFailed_keeps {m r x1 x2 x3 x4 x5} (hE : Fits 134217728 m) (h1 : Keeps m r x1) :
    Keeps m r (logFailed x1 x2 x3 x4 x5) := by
  unfold logFailed
  exact (event_keeps (hE.sub rfl) h1)

theorem dropSow_keeps {m r x1 x2 x3} (hE : Fits 8 m) (h1 : Keeps m r x1) :
    Keeps m r (dropSow x1 x2 x3) := by
  unfold dropSow
  exact (modRun_keeps (hE.sub rfl) h1)

theorem setChunk_keeps {m r x1 x2 x3 x4} (hE : Fits 8 m) (h1 : Keeps m r x1) :
    Keeps m r (setChunk x1 x2 x3 x4) := by
  unfold setChunk
  exact (modRun_keeps (hE.sub rfl) h1)

theorem copyOver_keeps {m r x1 x2 x3 x4} (hE : Fits 1048588 m) (h1 : Keeps m r x1) :
    Keeps m r (copyOver x1 x2 x3 x4) := by
  unfold copyOver
  split
  · exact h1
  · extract_lets -underBinder -merge -useContext +onlyGivenNames vg1 vport2 vc3 vrest4 vs5 vs6
    have hvs5 : Keeps m r vs5 := (setChunk_keeps (hE.sub rfl) h1)
    clear_value vs5
    have hvs6 : Keeps m r vs6 := by
      unfold vs6
      refine keeps_ite (P := Keeps m r) (fun _ => ?_) (fun _ => ?_)
      · exact hvs5
      · refine forAll_keeps (fun _ _ q7 => ?_) hvs5
        exact (clearOwner_keeps (hE.sub rfl) q7)
    clear_value vs6
    refine keeps_ite (P := Keeps m r) (fun _ => ?_) (fun _ => ?_)
    · exact (dropSow_keeps (hE.sub rfl) hvs6)
    · exact hvs6

theorem dropCopies_keeps {m r x1 x2} (hE : Fits 1048589 m) (h1 : Keeps m r x1) :
    Keeps m r (dropCopies x1 x2) := by
  unfold dropCopies
  split
  · exact h1
  · extract_lets -underBinder -merge -useContext +onlyGivenNames vg1 vf2 vall3 vs4
    have hvs4 : Keeps m r vs4 := by
      unfold vs4
      refine forAll_keeps (fun _ _ q5 => ?_) h1
      extract_lets -underBinder -merge -useContext +onlyGivenNames vk6 vi7 vport8 vmine9 vs10 vs11
      have hvs10 : Keeps m r vs10 := by
        unfold vs10
        refine forAll_keeps (fun _ _ q12 => ?_) q5
        exact (unqueue_keeps (hE.sub rfl) q12)
      clear_value vs10
      have hvs11 : Keeps m r vs11 := (modRun_keeps (hE.sub rfl) hvs10)
      clear_value vs11
      refine keeps_ite (P := Keeps m r) (fun _ => ?_) (fun _ => ?_)
      · exact (copyOver_keeps (hE.sub rfl) q5)
      · refine keeps_ite (P := Keeps m r) (fun _ => ?_) (fun _ => ?_)
        · exact (copyOver_keeps (hE.sub rfl) hvs11)
        · exact q5
    clear_value vs4
    exact (modRun_keeps (hE.sub rfl) hvs4)

theorem freeHeld_keeps {m r x1 x2 x3 x4} (hE : Fits 1048588 m) (h1 : Keeps m r x1) :
    Keeps m r (freeHeld x1 x2 x3 x4) := by
  unfold freeHeld
  split
  · exact h1
  · extract_lets -underBinder -merge -useContext +onlyGivenNames vc1 vs2
    have hvs2 : Keeps m r vs2 := (freeBufs_keeps (hE.sub rfl) h1)
    clear_value vs2
    exact (setChunk_keeps (hE.sub rfl) hvs2)

theorem freeInputs_keeps {m r x1 x2} (hE : Fits 1048588 m) (h1 : Keeps m r x1) :
    Keeps m r (freeInputs x1 x2) := by
  unfold freeInputs
  split
  · exact h1
  · extract_lets -underBinder -merge -useContext +onlyGivenNames vg1 vroot2 vbusy3 vs4
    have hvs4 : Keeps m r vs4 := by
      unfold vs4
      refine forAll_keeps (fun _ _ q5 => ?_) h1
      extract_lets -underBinder -merge -useContext +onlyGivenNames vs6
      have hvs6 : Keeps m r vs6 := (freeHeld_keeps (hE.sub rfl) q5)
      clear_value vs6
      refine keeps_ite (P := Keeps m r) (fun _ => ?_) (fun _ => ?_)
      · exact q5
      · refine keeps_ite (P := Keeps m r) (fun _ => ?_) (fun _ => ?_)
        · exact (freeBufs_keeps (hE.sub rfl) hvs6)
        · exact hvs6
    clear_value vs4
    exact (modRun_keeps (hE.sub rfl) hvs4)

theorem closeRun_keeps {m r x1 x2 x3 x4} (hE : Fits 193989485 m) (h1 : Keeps m r x1) :
    Keeps m r (closeRun x1 x2 x3 x4) := by
  unfold closeRun
  split
  · exact h1
  · extract_lets -underBinder -merge -useContext +onlyGivenNames vg1 vs2 vs3 vs4 vs5 vs6 vs7 vsrc8 vs9 vs10
    have hvs2 : Keeps m r vs2 := (modRun_keeps (hE.sub rfl) h1)
    clear_value vs2
    have hvs3 : Keeps m r vs3 := by
      unfold vs3
      refine keeps_ite (P := Keeps m r) (fun _ => ?_) (fun _ => ?_)
      · exact hvs2
      · exact (freeInputs_keeps (hE.sub rfl) (dropCopies_keeps (hE.sub rfl) hvs2))
    clear_value vs3
    have hvs4 : Keeps m r vs4 := by
      unfold vs4
      refine keeps_ite (P := Keeps m r) (fun _ => ?_) (fun _ => ?_)
      · exact hvs3
      · exact (logFailed_keeps (hE.sub rfl) hvs3)
    clear_value vs4
    have hvs5 : Keeps m r vs5 := (captureInstance_keeps (hE.sub rfl) hvs4)
    clear_value vs5
    have hvs6 : Keeps m r vs6 := by
      unfold vs6
      split
      · refine keeps_ite (P := Keeps m r) (fun _ => ?_) (fun _ => ?_)
        · refine forAll_keeps (fun _ _ q11 => ?_) hvs5
          exact (countRecord_keeps (hE.sub rfl) q11)
        · exact (freeLanding_keeps (hE.sub rfl) hvs5)
      · exact hvs5
    clear_value vs6
    have hvs7 : Keeps m r vs7 := (closeScale_keeps (hE.sub rfl) hvs6)
    clear_value vs7
    have hvs9 : Keeps m r vs9 := (Keeps.upd 32 hvs7 (hE.sub rfl) rfl)
    clear_value vs9
    have hvs10 : Keeps m r vs10 := by
      unfold vs10
      refine keeps_ite (P := Keeps m r) (fun _ => ?_) (fun _ => ?_)
      · exact (verdictFailed_keeps (hE.sub rfl) hvs9)
      · exact hvs9
    clear_value vs10
    refine keeps_ite (P := Keeps m r) (fun _ => ?_) (fun _ => ?_)
    · exact h1
    · exact (tryFinish_keeps (hE.sub rfl) hvs10)

theorem drainSource_keeps {m r x1 x2} (hE : Fits 135266821 m) (h2 : Keeps m r x2) :
    Keeps m r (drainSource x1 x2) := by
  induction x1 generalizing x2 with
  | zero => exact h2
  | succ n ih =>
    unfold drainSource
    split
    · exact h2
    · split
      · exact h2
      next e =>
        refine ih (KeepsO.get (placeFrame_keeps (hE.sub rfl) ?_) e)
        exact Keeps.upd 1 h2 (hE.sub rfl) rfl

theorem sendUpNotice_keeps {m r x1 x2 x3 x4 x5} (hE : Fits 135266821 m) (h1 : Keeps m r x1) :
    Keeps m r (sendUpNotice x1 x2 x3 x4 x5) := by
  unfold sendUpNotice
  extract_lets -underBinder -merge -useContext +onlyGivenNames vh1 vf2
  have hvf2 : KeepsP m r vf2 := (newFrame_keeps (hE.sub rfl) h1)
  clear_value vf2
  refine keeps_ite (P := Keeps m r) (fun _ => ?_) (fun _ => ?_)
  · exact h1
  · exact (sendFrame_keeps (hE.sub rfl) hvf2)

theorem failRun_keeps {m r x1 x2 x3 x4} (hE : Fits 193989485 m) (h1 : Keeps m r x1) :
    Keeps m r (failRun x1 x2 x3 x4) := by
  unfold failRun
  split
  · exact h1
  · extract_lets -underBinder -merge -useContext +onlyGivenNames vg1 vs2 vs3
    have hvs2 : Keeps m r vs2 := (modRun_keeps (hE.sub rfl) h1)
    clear_value vs2
    have hvs3 : Keeps m r vs3 := (freeInputs_keeps (hE.sub rfl) (dropCopies_keeps (hE.sub rfl) hvs2))
    clear_value vs3
    refine keeps_ite (P := Keeps m r) (fun _ => ?_) (fun _ => ?_)
    · exact h1
    · refine keeps_ite (P := Keeps m r) (fun _ => ?_) (fun _ => ?_)
      · exact (closeRun_keeps (hE.sub rfl) hvs3)
      · exact (sendUpNotice_keeps (hE.sub rfl) hvs3)

theorem failHere_keeps {m r x1 x2 x3 x4 x5} (hE : Fits 193989485 m) (h1 : Keeps m r x1) :
    Keeps m r (failHere x1 x2 x3 x4 x5) := by
  unfold failHere
  exact (failRun_keeps (hE.sub rfl) h1)

theorem failGroups_keeps {m r x1 x2 x3} (hE : Fits 193989485 m) (h1 : Keeps m r x1) :
    Keeps m r (failGroups x1 x2 x3) := by
  unfold failGroups
  refine forAll_keeps (fun _ _ q1 => ?_) h1
  exact (failHere_keeps (hE.sub rfl) q1)

theorem finalGone_keeps {m r x1 x2} (hE : Fits 8388616 m) (h1 : Keeps m r x1) :
    Keeps m r (finalGone x1 x2) := by
  unfold finalGone
  extract_lets -underBinder -merge -useContext +onlyGivenNames vs1
  have hvs1 : Keeps m r vs1 := (modRun_keeps (hE.sub rfl) h1)
  clear_value vs1
  split
  · refine keeps_ite (P := Keeps m r) (fun _ => ?_) (fun _ => ?_)
    · exact (releaseRun_keeps (hE.sub rfl) hvs1)
    · exact hvs1
  · exact hvs1

theorem loseMember_keeps {m r x1 x2 x3} (hE : Fits 193989485 m) (h2 : Keeps m r x2) :
    Keeps m r (loseMember x1 x2 x3) := by
  unfold loseMember
  extract_lets -underBinder -merge -useContext +onlyGivenNames vkey1 vg2 vparent3 vmem4 vrank5
  clear_value vrank5
  split
  · exact h2
  · split
    · exact (failHere_keeps (hE.sub rfl) h2)
    · exact (failHere_keeps (hE.sub rfl) h2)
    · refine keeps_ite (P := Keeps m r) (fun _ => ?_) (fun _ => ?_)
      · exact (closeRun_keeps (hE.sub rfl) h2)
      · exact h2
    · extract_lets -underBinder -merge -useContext +onlyGivenNames vs6 vs7 vs8 vs9
      have hvs6 : Keeps m r vs6 := (modRun_keeps (hE.sub rfl) h2)
      clear_value vs6
      have hvs7 : Keeps m r vs7 := (dropCopies_keeps (hE.sub rfl) hvs6)
      clear_value vs7
      have hvs8 : Keeps m r vs8 := by
        unfold vs8
        refine keeps_ite (P := Keeps m r) (fun _ => ?_) (fun _ => ?_)
        · exact (logFailed_keeps (hE.sub rfl) hvs7)
        · exact hvs7
      clear_value vs8
      have hvs9 : Keeps m r vs9 := by
        unfold vs9
        refine keeps_ite (P := Keeps m r) (fun _ => ?_) (fun _ => ?_)
        · exact (verdictFailed_keeps (hE.sub rfl) hvs8)
        · exact hvs8
      clear_value vs9
      refine keeps_ite (P := Keeps m r) (fun _ => ?_) (fun _ => ?_)
      · exact (tryFinish_keeps (hE.sub rfl) hvs9)
      · exact (tryFinish_keeps (hE.sub rfl) h2)

theorem losePort_keeps {m r x1 x2} (hE : Fits 193989485 m) (h1 : Keeps m r x1) :
    Keeps m r (losePort x1 x2) := by
  unfold losePort
  refine forAll_keeps (fun _ _ q1 => ?_) h1
  exact (loseMember_keeps (hE.sub rfl) q1)

theorem modChunk_keeps {m r x1 x2 x3 x4} (hE : Fits 8 m) (h1 : Keeps m r x1) :
    Keeps m r (modChunk x1 x2 x3 x4) := by
  unfold modChunk
  exact (modRun_keeps (hE.sub rfl) h1)

theorem queueCopy_keeps {m r x1 x2 x3 x4} (hE : Fits 134218249 m) (h1 : Keeps m r x1) :
    Keeps m r (queueCopy x1 x2 x3 x4) := by
  unfold queueCopy
  split
  · exact h1
  · extract_lets -underBinder -merge -useContext +onlyGivenNames vg1 vm2 vc3 vbs4 vcp5 vparts6 vn7 vtype8 vfurrow9 vone10 vs11
    have hvone10 : ∀ y12 y14, Keeps m r y12 → Keeps m r (vone10 y12 y14) := by
      intro y12 y14 g13
      unfold vone10
      extract_lets -underBinder -merge -useContext +onlyGivenNames vflags15 vh16 vf17 vsrc18
      have hvf17 : KeepsP m r vf17 := (newFrame_keeps (hE.sub rfl) g13)
      clear_value vf17
      exact (enqueue_keeps (hE.sub rfl) hvf17)
    clear_value vone10
    have hvs11 : Keeps m r vs11 := (modRun_keeps (hE.sub rfl) h1)
    clear_value vs11
    refine forAll_keeps (fun _ _ q19 => ?_) hvs11
    exact (hvone10 _ _ q19)

theorem releaseHeld_keeps {m r x1 x2} (hE : Fits 134218249 m) (h1 : Keeps m r x1) :
    Keeps m r (releaseHeld x1 x2) := by
  unfold releaseHeld
  split
  · exact h1
  · extract_lets -underBinder -merge -useContext +onlyGivenNames vheld1
    refine forAll_keeps (fun _ _ q2 => ?_) h1
    split
    · exact q2
    · refine keeps_ite (P := Keeps m r) (fun _ => ?_) (fun _ => ?_)
      · exact q2
      · exact (queueCopy_keeps (hE.sub rfl) q2)

theorem placeSow_keeps {m r x1 x2 x3} (hE : Fits 193989485 m) (h1 : Keeps m r x1) :
    Keeps m r (placeSow x1 x2 x3) := by
  unfold placeSow
  split
  · exact h1
  · extract_lets -underBinder -merge -useContext +onlyGivenNames vg1 vc2
    split
    · exact h1
    · split
      · exact (failHere_keeps (hE.sub rfl) h1)
      · extract_lets -underBinder -merge -useContext +onlyGivenNames vdown3 vdests4 vfurrow5 vown6 vplace7
        have hvplace7 : ∀ y8 y10, Keeps m r y8 → Keeps m r (vplace7 y8 y10) := by
          intro y8 y10 g9
          unfold vplace7
          extract_lets -underBinder -merge -useContext +onlyGivenNames vs11 vs12 vs13
          have hvs11 : Keeps m r vs11 := by
            unfold vs11
            refine forAll_keeps (fun _ _ q14 => ?_) g9
            exact (countPort_keeps (hE.sub rfl) q14)
          clear_value vs11
          have hvs12 : Keeps m r vs12 := (modChunk_keeps (hE.sub rfl) hvs11)
          clear_value vs12
          have hvs13 : Keeps m r vs13 := (setChunk_keeps (hE.sub rfl) hvs12)
          clear_value vs13
          refine keeps_ite (P := Keeps m r) (fun _ => ?_) (fun _ => ?_)
          · exact (dropSow_keeps (hE.sub rfl) (freeBufs_keeps (hE.sub rfl) hvs12))
          · refine keeps_ite (P := Keeps m r) (fun _ => ?_) (fun _ => ?_)
            · exact (releaseHeld_keeps (hE.sub rfl) hvs13)
            · refine forAll_keeps (fun _ _ q15 => ?_) hvs13
              exact (queueCopy_keeps (hE.sub rfl) q15)
        clear_value vplace7
        refine keeps_ite (P := Keeps m r) (fun _ => ?_) (fun _ => ?_)
        · exact (hvplace7 _ _ h1)
        · split
          · exact h1
          · extract_lets -underBinder -merge -useContext +onlyGivenNames vs16 vs117 vports18
            have hvs16 : Keeps m r vs16 := by
              unfold vs16
              refine keeps_ite (P := Keeps m r) (fun _ => ?_) (fun _ => ?_)
              · exact (count_keeps (hE.sub rfl) h1)
              · exact h1
            clear_value vs16
            have hvs117 : Keeps m r vs117 := (chargeQuota_keeps (hE.sub rfl) (KeepsOP.get (allocPacket_keeps (hE.sub rfl) h1) (by assumption)))
            clear_value vs117
            refine keeps_ite (P := Keeps m r) (fun _ => ?_) (fun _ => ?_)
            · exact (setChunk_keeps (hE.sub rfl) hvs16)
            · split
              · exact (count_keeps (hE.sub rfl) h1)
              · exact (hvplace7 _ _ (KeepsO.get (remask_keeps (hE.sub rfl) hvs117) (by assumption)))

theorem sendRouted_keeps {m r x1 x2 x3 x4 x5} (hE : Fits 135266821 m) (h1 : Keeps m r x1) :
    Keeps m r (sendRouted x1 x2 x3 x4 x5) := by
  unfold sendRouted
  split
  · exact h1
  · exact (Keeps.upd 1 h1 (hE.sub rfl) rfl)
  · extract_lets -underBinder -merge -useContext +onlyGivenNames vf1
    have hvf1 : KeepsP m r vf1 := (newFrame_keeps (hE.sub rfl) h1)
    clear_value vf1
    exact (sendFrame_keeps (hE.sub rfl) hvf1)

theorem startSow_keeps {m r x1 x2 x3 x4} (hE : Fits 193989485 m) (h1 : Keeps m r x1) :
    Keeps m r (startSow x1 x2 x3 x4) := by
  unfold startSow
  exact (placeSow_keeps (hE.sub rfl) (setChunk_keeps (hE.sub rfl) h1))

theorem showHeld_keeps {m r x1 x2 x3} (hE : Fits 4194304 m) (h1 : Keeps m r x1) :
    Keeps m r (showHeld x1 x2 x3) := by
  unfold showHeld
  exact (Keeps.wrf (k := 6) h1 (hE.sub rfl))

theorem advDiscard_keeps {m r x1 x2} (hE : Fits 139460740 m) (h1 : Keeps m r x1) :
    Keeps m r (advDiscard x1 x2) := by
  unfold advDiscard
  extract_lets -underBinder -merge -useContext +onlyGivenNames vgone1 vs2
  have hvs2 : Keeps m r vs2 := (Keeps.upd 128 h1 (hE.sub rfl) rfl)
  clear_value vs2
  refine forAll_keeps (fun _ _ q3 => ?_) hvs2
  extract_lets -underBinder -merge -useContext +onlyGivenNames vx4 vbytes5 vs6
  have hvs6 : Keeps m r vs6 := (freeBufs_keeps (hE.sub rfl) q3)
  clear_value vs6
  exact (showHeld_keeps (hE.sub rfl) (count_keeps (hE.sub rfl) hvs6))

theorem advEntryGone_keeps {m r x1 x2 x3} (hE : Fits 139460740 m) (h1 : Keeps m r x1) :
    Keeps m r (advEntryGone x1 x2 x3) := by
  unfold advEntryGone
  exact (advDiscard_keeps (hE.sub rfl) h1)

theorem advMove_keeps {m r x1 x2 x3 x4} (hE : Fits 139460740 m) (h1 : Keeps m r x1) :
    Keeps m r (advMove x1 x2 x3 x4) := by
  unfold advMove
  extract_lets -underBinder -merge -useContext +onlyGivenNames vold1 vs2
  have hvs2 : Keeps m r vs2 := (Keeps.wrf (k := 6) h1 (hE.sub rfl))
  clear_value vs2
  exact (advDiscard_keeps (hE.sub rfl) hvs2)

theorem advRetire_keeps {m r x1 x2 x3 x4} (hE : Fits 139460740 m) (h1 : Keeps m r x1) :
    Keeps m r (advRetire x1 x2 x3 x4) := by
  unfold advRetire
  exact (advDiscard_keeps (hE.sub rfl) h1)

theorem advServe_keeps {m r x1 x2 x3 x4 x5 x6} (hE : Fits 139460740 m) (h1 : Keeps m r x1) :
    Keeps m r (advServe x1 x2 x3 x4 x5 x6) := by
  unfold advServe
  split
  · exact h1
  · extract_lets -underBinder -merge -useContext +onlyGivenNames vx1 vhit2 vbytes3 vrest4 vs5 vs6
    have hvs5 : Keeps m r vs5 := (Keeps.upd 128 h1 (hE.sub rfl) rfl)
    clear_value vs5
    have hvs6 : Keeps m r vs6 := (freeBufs_keeps (hE.sub rfl) hvs5)
    clear_value vs6
    exact (showHeld_keeps (hE.sub rfl) (count_keeps (hE.sub rfl) hvs6))

theorem setPhase_keeps {m r x1 x2 x3 x4} (hE : Fits 16777216 m) (h1 : Keeps m r x1) :
    Keeps m r (setPhase x1 x2 x3 x4) := by
  unfold setPhase
  exact (Keeps.wrf (k := 8) h1 (hE.sub rfl))

theorem setReason_keeps {m r x1 x2 x3 x4} (hE : Fits 16777216 m) (h1 : Keeps m r x1) :
    Keeps m r (setReason x1 x2 x3 x4) := by
  unfold setReason
  exact (Keeps.wrf (k := 8) h1 (hE.sub rfl))

theorem failTurn_keeps {m r x1 x2 x3 x4} (hE : Fits 16777216 m) (h1 : Keeps m r x1) :
    Keeps m r (failTurn x1 x2 x3 x4) := by
  unfold failTurn
  exact (setReason_keeps (hE.sub rfl) (setPhase_keeps (hE.sub rfl) h1))

theorem freeEntry_keeps {m r x1 x2 x3} (hE : Fits 16777248 m) (h1 : Keeps m r x1) :
    Keeps m r (freeEntry x1 x2 x3) := by
  unfold freeEntry
  extract_lets -underBinder -merge -useContext +onlyGivenNames vs1 vsrc2 vs3
  have hvs1 : Keeps m r vs1 := (wrEntry_keeps (k := 8) h1 (hE.sub rfl))
  clear_value vs1
  have hvs3 : Keeps m r vs3 := (Keeps.upd 32 hvs1 (hE.sub rfl) rfl)
  clear_value vs3
  refine forAll_keeps (fun _ _ q4 => ?_) hvs3
  exact (freeRecord_keeps (hE.sub rfl) q4)

theorem setTurnWork_keeps {m r x1 x2 x3 x4} (hE : Fits 32 m) (h1 : Keeps m r x1) :
    Keeps m r (setTurnWork x1 x2 x3 x4) := by
  unfold setTurnWork
  exact (Keeps.upd 32 h1 (hE.sub rfl) rfl)

theorem freeTurn_keeps {m r x1 x2 x3} (hE : Fits 16777248 m) (h1 : Keeps m r x1) :
    Keeps m r (freeTurn x1 x2 x3) := by
  unfold freeTurn
  exact (setTurnWork_keeps (hE.sub rfl) (wrEntry_keeps (k := 8) h1 (hE.sub rfl)))

theorem sendTurn_keeps {m r x1 x2 x3 x4 x5 x6 x7 x8} (hE : Fits 135266821 m) (h1 : Keeps m r x1) :
    Keeps m r (sendTurn x1 x2 x3 x4 x5 x6 x7 x8) := by
  unfold sendTurn
  extract_lets -underBinder -merge -useContext +onlyGivenNames vd1 vp2 vh3
  exact (sendRouted_keeps (hE.sub rfl) h1)

theorem sendDone_keeps {m r x1 x2 x3} (hE : Fits 135266821 m) (h1 : Keeps m r x1) :
    Keeps m r (sendDone x1 x2 x3) := by
  unfold sendDone
  exact (sendTurn_keeps (hE.sub rfl) h1)

theorem sendPage_keeps {m r x1 x2 x3 x4 x5} (hE : Fits 135266821 m) (h4 : Keeps m r x4) :
    Keeps m r (sendPage x1 x2 x3 x4 x5) := by
  unfold sendPage
  extract_lets -underBinder -merge -useContext +onlyGivenNames vbs1
  exact (sendTurn_keeps (hE.sub rfl) h4)

theorem sendPages_keeps {m r x1 x2 x3 x4} (hE : Fits 152044069 m) (h1 : Keeps m r x1) :
    Keeps m r (sendPages x1 x2 x3 x4) := by
  unfold sendPages
  extract_lets -underBinder -merge -useContext +onlyGivenNames vx1 vtotal2 vchecks3 vs4 vsrc5 vs6 vs7
  have hvs4 : Keeps m r vs4 := (Keeps.wrf (k := 8) (Keeps.wrf (k := 8) h1 (hE.sub rfl)) (hE.sub rfl))
  clear_value vs4
  have hvs6 : Keeps m r vs6 := (setTurnWork_keeps (hE.sub rfl) hvs4)
  clear_value vs6
  have hvs7 : Keeps m r vs7 := by
    unfold vs7
    refine forAll_keeps (fun _ _ q8 => ?_) hvs6
    exact (sendPage_keeps (hE.sub rfl) q8)
  clear_value vs7
  exact (setPhase_keeps (hE.sub rfl) (sendDone_keeps (hE.sub rfl) (Keeps.wrf (k := 8) hvs7 (hE.sub rfl))))

theorem turnAttempt_keeps {m r x1 x2 x3 x4} (hE : Fits 150994944 m) (h1 : Keeps m r x1) :
    Keeps m r (turnAttempt x1 x2 x3 x4) := by
  unfold turnAttempt
  extract_lets -underBinder -merge -useContext +onlyGivenNames va1 vs2
  have hvs2 : Keeps m r vs2 := (setReason_keeps (hE.sub rfl) (Keeps.wrf (k := 8) h1 (hE.sub rfl)))
  clear_value vs2
  refine keeps_ite (P := Keeps m r) (fun _ => ?_) (fun _ => ?_)
  · exact (event_keeps (hE.sub rfl) (setPhase_keeps (hE.sub rfl) hvs2))
  · exact hvs2

theorem turnReject_keeps {m r x1 x2 x3 x4 x5} (hE : Fits 152044037 m) (h1 : Keeps m r x1) :
    Keeps m r (turnReject x1 x2 x3 x4 x5) := by
  unfold turnReject
  exact (sendTurn_keeps (hE.sub rfl) (setReason_keeps (hE.sub rfl) h1))

theorem turnRelease_keeps {m r x1 x2 x3} (hE : Fits 150994976 m) (h1 : Keeps m r x1) :
    Keeps m r (turnRelease x1 x2 x3) := by
  unfold turnRelease
  refine forAll_keeps (fun _ _ q1 => ?_) h1
  extract_lets -underBinder -merge -useContext +onlyGivenNames vn2 ve3 vs4 vsrc5 vs6
  have hvs4 : Keeps m r vs4 := (event_keeps (hE.sub rfl) q1)
  clear_value vs4
  have hvs6 : Keeps m r vs6 := (freeTurn_keeps (hE.sub rfl) hvs4)
  clear_value vs6
  refine keeps_ite (P := Keeps m r) (fun _ => ?_) (fun _ => ?_)
  · exact (freeEntry_keeps (hE.sub rfl) hvs6)
  · exact hvs6

theorem turnStart_keeps {m r x1 x2 x3} (hE : Fits 156238501 m) (h1 : Keeps m r x1) :
    Keeps m r (turnStart x1 x2 x3) := by
  unfold turnStart
  extract_lets -underBinder -merge -useContext +onlyGivenNames ve1 vs2
  have hvs2 : Keeps m r vs2 := (advEntryGone_keeps (hE.sub rfl) (setFbState_keeps (hE.sub rfl) h1))
  clear_value vs2
  exact (sendPages_keeps (hE.sub rfl) (setPhase_keeps (hE.sub rfl) hvs2))

theorem turnSourcesAt_keeps {m r x1 x2 x3 x4} (hE : Fits 156238501 m) (h1 : Keeps m r x1) :
    Keeps m r (turnSourcesAt x1 x2 x3 x4) := by
  unfold turnSourcesAt
  refine forAll_keeps (fun _ _ q1 => ?_) h1
  refine keeps_ite (P := Keeps m r) (fun _ => ?_) (fun _ => ?_)
  · exact (turnStart_keeps (hE.sub rfl) q1)
  · exact q1

theorem skipRuns_keeps {m r x1 x2 x3} (hE : Fits 193989485 m) (h1 : Keeps m r x1) :
    Keeps m r (skipRuns x1 x2 x3) := by
  unfold skipRuns
  refine forAll_keeps (fun _ _ q1 => ?_) h1
  exact (failHere_keeps (hE.sub rfl) q1)

theorem oweCommit_keeps {m r x1 x2 x3} (hE : Fits 64 m) (h1 : Keeps m r x1) :
    Keeps m r (oweCommit x1 x2 x3) := by
  unfold oweCommit
  extract_lets -underBinder -merge -useContext +onlyGivenNames vw1
  exact (setVrdWork_keeps (hE.sub rfl) h1)

theorem setPasses_keeps {m r x1 x2 x3} (hE : Fits 32 m) (h1 : Keeps m r x1) :
    Keeps m r (setPasses x1 x2 x3) := by
  unfold setPasses
  exact (Keeps.upd 32 h1 (hE.sub rfl) rfl)

theorem queuePasses_keeps {m r x1 x2 x3} (hE : Fits 32 m) (h1 : Keeps m r x1) :
    Keeps m r (queuePasses x1 x2 x3) := by
  unfold queuePasses
  refine forAll_keeps (fun _ _ q1 => ?_) h1
  exact (setPasses_keeps (hE.sub rfl) q1)

theorem applyOutcome_keeps {m r x1 x2 x3} (hE : Fits 198183917 m) (h1 : Keeps m r x1) :
    Keeps m r (applyOutcome x1 x2 x3) := by
  unfold applyOutcome
  extract_lets -underBinder -merge -useContext +onlyGivenNames vst1 vs2 vs3 vs4 vsrc5 vs6 vs7 vleft8 vs9 vsrc10 vs11 vs12 vs13 vs14
  have hvs2 : Keeps m r vs2 := (Keeps.wrf (k := 8) (Keeps.wrf (k := 8) h1 (hE.sub rfl)) (hE.sub rfl))
  clear_value vs2
  have hvs3 : Keeps m r vs3 := (Keeps.wrf (k := 8) (Keeps.wrf (k := 8) hvs2 (hE.sub rfl)) (hE.sub rfl))
  clear_value vs3
  have hvs4 : Keeps m r vs4 := (Keeps.wrf (k := 8) (Keeps.wrf (k := 8) hvs3 (hE.sub rfl)) (hE.sub rfl))
  clear_value vs4
  have hvs6 : Keeps m r vs6 := (setVrdWork_keeps (hE.sub rfl) hvs4)
  clear_value vs6
  have hvs7 : Keeps m r vs7 := (Keeps.bumpMod (k := 8) hvs6 (hE.sub rfl))
  clear_value vs7
  have hvs9 : Keeps m r vs9 := (queuePasses_keeps (hE.sub rfl) hvs7)
  clear_value vs9
  have hvs11 : Keeps m r vs11 := (setVrdWork_keeps (hE.sub rfl) hvs9)
  clear_value vs11
  have hvs12 : Keeps m r vs12 := (turnSourcesAt_keeps (hE.sub rfl) (vrdEnter_keeps (hE.sub rfl) hvs11))
  clear_value vs12
  have hvs13 : Keeps m r vs13 := (Keeps.bumpMod (k := 8) hvs6 (hE.sub rfl))
  clear_value vs13
  have hvs14 : Keeps m r vs14 := (skipRuns_keeps (hE.sub rfl) (discardStep_keeps (hE.sub rfl) hvs13))
  clear_value vs14
  refine keeps_ite (P := Keeps m r) (fun _ => ?_) (fun _ => ?_)
  · refine keeps_ite (P := Keeps m r) (fun _ => ?_) (fun _ => ?_)
    · exact (oweCommit_keeps (hE.sub rfl) hvs12)
    · exact hvs12
  · exact (oweCommit_keeps (hE.sub rfl) (turnSourcesAt_keeps (hE.sub rfl) hvs14))

theorem noteGlobal_keeps {m r x1 x2 x3} (hE : Fits 16777216 m) (h1 : Keeps m r x1) :
    Keeps m r (noteGlobal x1 x2 x3) := by
  unfold noteGlobal
  exact (Keeps.wr (k := 8) h1 (hE.sub rfl))

theorem rootDecide_keeps {m r x1 x2 x3} (hE : Fits 134217728 m) (h1 : Keeps m r x1) :
    KeepsP m r (rootDecide x1 x2 x3) := by
  unfold rootDecide
  extract_lets -underBinder -merge -useContext +onlyGivenNames ve1 voc2 vx3 vep4 vs5
  have hvs5 : Keeps m r vs5 := by
    unfold vs5
    split
    · exact (event_keeps (hE.sub rfl) h1)
    · exact h1
  clear_value vs5
  exact (KeepsP.mk hvs5)

/-- The state of a collective packet's answer. -/
def KeepsC (m : Nat) (r : State) (x : CollRes) : Prop :=
  match x with
  | .done s | .wait s _ => Keeps m r s

theorem CollRes.done_keeps {m r s} (h : Keeps m r s) : KeepsC m r (.done s) := h
theorem CollRes.wait_keeps {m r s w} (h : Keeps m r s) : KeepsC m r (.wait s w) := h
theorem KeepsC.done {m r s x} (h : KeepsC m r x) (e : x = .done s) : Keeps m r s := by subst e; exact h
theorem KeepsC.wait {m r s w x} (h : KeepsC m r x) (e : x = .wait s w) : Keeps m r s := by subst e; exact h

theorem chunkPlaced_keeps {m r x1 x2 x3} (hE : Fits 1048588 m) (h1 : Keeps m r x1) :
    Keeps m r (chunkPlaced x1 x2 x3) := by
  unfold chunkPlaced
  split
  · exact h1
  · extract_lets -underBinder -merge -useContext +onlyGivenNames vn1 vc2 vs3
    have hvs3 : Keeps m r vs3 := (freeBufs_keeps (hE.sub rfl) h1)
    clear_value vs3
    exact (setChunk_keeps (hE.sub rfl) hvs3)

theorem noteOrder_keeps {m r x1 x2 x3 x4} (hE : Fits 167772416 m) (h1 : Keeps m r x1) :
    Keeps m r (noteOrder x1 x2 x3 x4) := by
  unfold noteOrder
  split
  · refine keeps_ite (P := Keeps m r) (fun _ => ?_) (fun _ => ?_)
    · exact (captureOrder_keeps (hE.sub rfl) h1)
    · exact h1
  · exact h1

theorem landResult_keeps {m r x1 x2 x3 x4 x5 x6} (hE : Fits 135268396 m) (h1 : Keeps m r x1) :
    Keeps m r (landResult x1 x2 x3 x4 x5 x6) := by
  unfold landResult
  split
  · exact h1
  · extract_lets -underBinder -merge -useContext +onlyGivenNames vt1 vf2 vs3
    have hvt1 : KeepsP m r vt1 := (landChunk_keeps (hE.sub rfl) h1)
    clear_value vt1
    have hvs3 : Keeps m r vs3 := (modRun_keeps (hE.sub rfl) hvt1)
    clear_value vs3
    exact (chunkPlaced_keeps (hE.sub rfl) hvs3)
  · exact (chunkPlaced_keeps (hE.sub rfl) h1)

theorem sendResultUp_keeps {m r x1 x2 x3 x4 x5 x6} (hE : Fits 134218241 m) (h1 : Keeps m r x1) :
    Keeps m r (sendResultUp x1 x2 x3 x4 x5 x6) := by
  unfold sendResultUp
  extract_lets -underBinder -merge -useContext +onlyGivenNames vt1 vparts2 vn3 vbufs4
  refine forAll_keeps (fun _ _ q5 => ?_) h1
  extract_lets -underBinder -merge -useContext +onlyGivenNames vflags6 vh7 vf8 vsrc9
  have hvf8 : KeepsP m r vf8 := (newFrame_keeps (hE.sub rfl) q5)
  clear_value vf8
  exact (enqueue_keeps (hE.sub rfl) hvf8)

theorem placeResult_keeps {m r x1 x2 x3} (hE : Fits 193989485 m) (h1 : Keeps m r x1) :
    Keeps m r (placeResult x1 x2 x3) := by
  unfold placeResult
  split
  · exact h1
  · extract_lets -underBinder -merge -useContext +onlyGivenNames vg1
    split
    · exact h1
    · extract_lets -underBinder -merge -useContext +onlyGivenNames vs2
      have hvs2 : Keeps m r vs2 := (startSow_keeps (hE.sub rfl) h1)
      clear_value vs2
      refine keeps_ite (P := Keeps m r) (fun _ => ?_) (fun _ => ?_)
      · exact h1
      · refine keeps_ite (P := Keeps m r) (fun _ => ?_) (fun _ => ?_)
        · exact (sendResultUp_keeps (hE.sub rfl) h1)
        · refine keeps_ite (P := Keeps m r) (fun _ => ?_) (fun _ => ?_)
          · exact (landResult_keeps (hE.sub rfl) h1)
          · split
            · refine keeps_ite (P := Keeps m r) (fun _ => ?_) (fun _ => ?_)
              · exact (chunkPlaced_keeps (hE.sub rfl) hvs2)
              · exact hvs2
            · exact hvs2

theorem sendVerdicts_keeps {m r x1 x2 x3} (hE : Fits 135266821 m) (h1 : Keeps m r x1) :
    Keeps m r (sendVerdicts x1 x2 x3) := by
  unfold sendVerdicts
  split
  · exact h1
  · extract_lets -underBinder -merge -useContext +onlyGivenNames vg1
    refine forAll_keeps (fun _ _ q2 => ?_) h1
    extract_lets -underBinder -merge -useContext +onlyGivenNames vm3 vh4 vf5
    have hvf5 : KeepsP m r vf5 := (newFrame_keeps (hE.sub rfl) q2)
    clear_value vf5
    refine keeps_ite (P := Keeps m r) (fun _ => ?_) (fun _ => ?_)
    · exact q2
    · exact (sendFrame_keeps (hE.sub rfl) hvf5)

theorem fixVerdict_keeps {m r x1 x2 x3 x4} (hE : Fits 198183917 m) (h1 : Keeps m r x1) :
    Keeps m r (fixVerdict x1 x2 x3 x4) := by
  unfold fixVerdict
  extract_lets -underBinder -merge -useContext +onlyGivenNames vrec1 vd2 vfull3 vs4 vfull5 vs6
  have hvd2 : KeepsP m r vd2 := (rootDecide_keeps (hE.sub rfl) h1)
  clear_value vd2
  have hvs4 : Keeps m r vs4 := (applyOutcome_keeps (hE.sub rfl) (noteGlobal_keeps (hE.sub rfl) hvd2))
  clear_value vs4
  have hvs6 : Keeps m r vs6 := (closeRun_keeps (hE.sub rfl) (sendVerdicts_keeps (hE.sub rfl) h1))
  clear_value vs6
  refine keeps_ite (P := Keeps m r) (fun _ => ?_) (fun _ => ?_)
  · refine keeps_ite (P := Keeps m r) (fun _ => ?_) (fun _ => ?_)
    · exact (failHere_keeps (hE.sub rfl) h1)
    · exact (closeRun_keeps (hE.sub rfl) (sendVerdicts_keeps (hE.sub rfl) hvs4))
  · refine keeps_ite (P := Keeps m r) (fun _ => ?_) (fun _ => ?_)
    · exact (turnRelease_keeps (hE.sub rfl) hvs6)
    · exact hvs6

theorem progress_keeps {m r x1 x2} (hE : Fits 198183917 m) (h1 : Keeps m r x1) :
    Keeps m r (progress x1 x2) := by
  unfold progress
  split
  · exact h1
  · extract_lets -underBinder -merge -useContext +onlyGivenNames vg1
    refine keeps_ite (P := Keeps m r) (fun _ => ?_) (fun _ => ?_)
    · exact h1
    · refine keeps_ite (P := Keeps m r) (fun _ => ?_) (fun _ => ?_)
      · refine keeps_ite (P := Keeps m r) (fun _ => ?_) (fun _ => ?_)
        · exact (fixVerdict_keeps (hE.sub rfl) h1)
        · exact (closeRun_keeps (hE.sub rfl) h1)
      · exact (sendUpNotice_keeps (hE.sub rfl) (modRun_keeps (hE.sub rfl) h1))

theorem hubTime_keeps {m r x1 x2 x3 x4 x5} (hE : Fits 4194304 m) (h1 : Keeps m r x1) :
    Keeps m r (hubTime x1 x2 x3 x4 x5) := by
  unfold hubTime
  extract_lets -underBinder -merge -useContext +onlyGivenNames vn1 vbin2 vruns3 vlocal4
  refine keeps_ite (P := Keeps m r) (fun _ => ?_) (fun _ => ?_)
  · exact h1
  · exact (Keeps.wr (k := 6) h1 (hE.sub rfl))

theorem resultChecked_keeps {m r x1 x2 x3 x4} (hE : Fits 198183917 m) (h1 : Keeps m r x1) :
    Keeps m r (resultChecked x1 x2 x3 x4) := by
  unfold resultChecked
  split
  · exact h1
  · extract_lets -underBinder -merge -useContext +onlyGivenNames vg1 vc2 vf3 vplan4 vtop5 vs6 vs7 vs8 vs9 vsize10 vst11 vsb12 vs13 vs14 vs15
    have hvs6 : Keeps m r vs6 := (countFlags_keeps (hE.sub rfl) h1)
    clear_value vs6
    have hvs7 : Keeps m r vs7 := by
      unfold vs7
      split
      · exact (captureDigest_keeps (hE.sub rfl) hvs6)
      · exact hvs6
    clear_value vs7
    have hvs8 : Keeps m r vs8 := by
      unfold vs8
      refine keeps_ite (P := Keeps m r) (fun _ => ?_) (fun _ => ?_)
      · exact (event_keeps (hE.sub rfl) hvs7)
      · exact hvs7
    clear_value vs8
    have hvs9 : Keeps m r vs9 := (freeHeld_keeps (hE.sub rfl) hvs8)
    clear_value vs9
    have hvst11 : KeepsOP m r vst11 := by
      unfold vst11
      refine keeps_ite (P := KeepsOP m r) (fun _ => ?_) (fun _ => ?_)
      · exact KeepsOP.none
      · exact (allocStore_keeps (hE.sub rfl) hvs9)
    clear_value vst11
    have hvsb12 : KeepsP m r vsb12 := by
      unfold vsb12
      split
      · exact (hvst11 _ rfl)
      · exact (KeepsP.mk hvs9)
    clear_value vsb12
    have hvs13 : Keeps m r vs13 := (fillBufs_keeps (hE.sub rfl) hvsb12)
    clear_value vs13
    have hvs14 : Keeps m r vs14 := (modRun_keeps (hE.sub rfl) hvs13)
    clear_value vs14
    have hvs15 : Keeps m r vs15 := (hubTime_keeps (hE.sub rfl) hvs14)
    clear_value vs15
    exact (progress_keeps (hE.sub rfl) (placeResult_keeps (hE.sub rfl) hvs15))

theorem chunkReady_keeps {m r x1 x2 x3} (hE : Fits 198183933 m) (h1 : Keeps m r x1) :
    Keeps m r (chunkReady x1 x2 x3) := by
  unfold chunkReady
  split
  · exact h1
  · extract_lets -underBinder -merge -useContext +onlyGivenNames vg1 vc2 vall3 vbs4 vs5 vwatched6 vsrc7 vs8 vsrc9 vs10
    have hvs5 : Keeps m r vs5 := (noteOrder_keeps (hE.sub rfl) h1)
    clear_value vs5
    have hvs8 : Keeps m r vs8 := by
      unfold vs8
      refine keeps_ite (P := Keeps m r) (fun _ => ?_) (fun _ => ?_)
      · exact (Keeps.upd 16 hvs5 (hE.sub rfl) rfl)
      · exact hvs5
    clear_value vs8
    have hvs10 : Keeps m r vs10 := (Keeps.upd 8 hvs8 (hE.sub rfl) rfl)
    clear_value vs10
    refine keeps_ite (P := Keeps m r) (fun _ => ?_) (fun _ => ?_)
    · exact h1
    · refine keeps_ite (P := Keeps m r) (fun _ => ?_) (fun _ => ?_)
      · exact (resultChecked_keeps (hE.sub rfl) h1)
      · exact (setChunk_keeps (hE.sub rfl) hvs10)

theorem reserveRun_keeps {m r x1 x2} (hE : Fits 193989485 m) (h1 : Keeps m r x1) :
    Keeps m r (reserveRun x1 x2) := by
  unfold reserveRun
  split
  · exact h1
  · extract_lets -underBinder -merge -useContext +onlyGivenNames vg1
    split
    · exact (modRun_keeps (hE.sub rfl) (KeepsRes.reserved (reserveLanding_keeps (hE.sub rfl) h1) (by assumption)))
    · exact (modRun_keeps (hE.sub rfl) h1)
    · exact (failHere_keeps (hE.sub rfl) h1)
    · exact (failHere_keeps (hE.sub rfl) (KeepsRes.fallow (reserveLanding_keeps (hE.sub rfl) h1) (by assumption)))
    · exact (modRun_keeps (hE.sub rfl) (KeepsRes.overlap (reserveLanding_keeps (hE.sub rfl) h1) (by assumption)))

theorem showOpen_keeps {m r x1 x2} (hE : Fits 8388608 m) (h1 : Keeps m r x1) :
    Keeps m r (showOpen x1 x2) := by
  unfold showOpen
  exact (Keeps.wrf (k := 7) h1 (hE.sub rfl))

theorem openRun_keeps {m r x1 x2 x3 x4 x5} (hE : Fits 193989485 m) (h1 : Keeps m r x1) :
    KeepsO m r (openRun x1 x2 x3 x4 x5) := by
  unfold openRun
  extract_lets -underBinder -merge -useContext +onlyGivenNames vg1 vfull2 vw3 vcommit4 vstep5 vs6 vkey7 vs8 vs9
  have hvs6 : Keeps m r vs6 := by
    unfold vs6
    refine keeps_ite (P := Keeps m r) (fun _ => ?_) (fun _ => ?_)
    · exact (setVrdWork_keeps (hE.sub rfl) h1)
    · exact h1
  clear_value vs6
  have hvs8 : Keeps m r vs8 := (Keeps.wrf (k := 7) hvs6 (hE.sub rfl))
  clear_value vs8
  have hvs9 : Keeps m r vs9 := (showOpen_keeps (hE.sub rfl) (setRuns_keeps (hE.sub rfl) hvs8))
  clear_value vs9
  refine keeps_ite (P := KeepsO m r) (fun _ => ?_) (fun _ => ?_)
  · exact KeepsO.none
  · refine keeps_ite (P := KeepsO m r) (fun _ => ?_) (fun _ => ?_)
    · exact (KeepsO.some (failHere_keeps (hE.sub rfl) hvs9))
    · refine keeps_ite (P := KeepsO m r) (fun _ => ?_) (fun _ => ?_)
      · exact (KeepsO.some (failHere_keeps (hE.sub rfl) hvs9))
      · refine keeps_ite (P := KeepsO m r) (fun _ => ?_) (fun _ => ?_)
        · exact (KeepsO.some (reserveRun_keeps (hE.sub rfl) hvs9))
        · exact (KeepsO.some hvs9)

theorem staleDrop_keeps {m r x1 x2} (hE : Fits 134217728 m) (h1 : Keeps m r x1) :
    Keeps m r (staleDrop x1 x2) := by
  unfold staleDrop
  exact (count_keeps (hE.sub rfl) h1)

theorem storePart_keeps {m r x1 x2 x3 x4 x5 x6 x7} (hE : Fits 198183933 m) (h1 : Keeps m r x1) :
    Keeps m r (storePart x1 x2 x3 x4 x5 x6 x7) := by
  unfold storePart
  split
  · exact h1
  · extract_lets -underBinder -merge -useContext +onlyGivenNames vg1 vc2 vx3 vx4 vs5 vc6 vs7
    have hvs5 : Keeps m r vs5 := (fillBufs_keeps (hE.sub rfl) h1)
    clear_value vs5
    have hvs7 : Keeps m r vs7 := (setChunk_keeps (hE.sub rfl) hvs5)
    clear_value vs7
    refine keeps_ite (P := Keeps m r) (fun _ => ?_) (fun _ => ?_)
    · exact (chunkReady_keeps (hE.sub rfl) hvs7)
    · exact hvs7

theorem discord_keeps {m r x1 x2 x3 x4} (hE : Fits 193989485 m) (h1 : Keeps m r x1) :
    Keeps m r (discord x1 x2 x3 x4) := by
  unfold discord
  exact (failHere_keeps (hE.sub rfl) h1)

theorem reapPart_keeps {m r x1 x2 x3 x4 x5 x6 x7 x8} (hE : Fits 198183933 m) (h1 : Keeps m r x1) :
    KeepsC m r (reapPart x1 x2 x3 x4 x5 x6 x7 x8) := by
  unfold reapPart
  extract_lets -underBinder -merge -useContext +onlyGivenNames vk1 vm2 vbad3 vs4 vsize5
  have hvs4 : Keeps m r vs4 := (event_keeps (hE.sub rfl) h1)
  clear_value vs4
  refine keeps_ite (P := KeepsC m r) (fun _ => ?_) (fun _ => ?_)
  · exact (CollRes.done_keeps (discord_keeps (hE.sub rfl) h1))
  · refine keeps_ite (P := KeepsC m r) (fun _ => ?_) (fun _ => ?_)
    · exact (CollRes.done_keeps (discord_keeps (hE.sub rfl) hvs4))
    · refine keeps_ite (P := KeepsC m r) (fun _ => ?_) (fun _ => ?_)
      · refine keeps_ite (P := KeepsC m r) (fun _ => ?_) (fun _ => ?_)
        · exact (CollRes.wait_keeps h1)
        · split
          · exact (CollRes.wait_keeps (count_keeps (hE.sub rfl) h1))
          · exact (CollRes.done_keeps (storePart_keeps (hE.sub rfl) (KeepsOP.get (allocStore_keeps (hE.sub rfl) h1) (by assumption))))
      · exact (CollRes.done_keeps (storePart_keeps (hE.sub rfl) h1))

theorem verdictReady_keeps {m r x1 x2} (hE : Fits 198183917 m) (h1 : Keeps m r x1) :
    Keeps m r (verdictReady x1 x2) := by
  unfold verdictReady
  split
  · exact h1
  · extract_lets -underBinder -merge -useContext +onlyGivenNames vg1 vkids2 vrec3 vs4 vsrc5 vh6 vf7
    have hvs4 : Keeps m r vs4 := (modRun_keeps (hE.sub rfl) h1)
    clear_value vs4
    have hvf7 : KeepsP m r vf7 := (newFrame_keeps (hE.sub rfl) hvs4)
    clear_value vf7
    refine keeps_ite (P := Keeps m r) (fun _ => ?_) (fun _ => ?_)
    · exact h1
    · refine keeps_ite (P := Keeps m r) (fun _ => ?_) (fun _ => ?_)
      · refine keeps_ite (P := Keeps m r) (fun _ => ?_) (fun _ => ?_)
        · exact (failHere_keeps (hE.sub rfl) hvs4)
        · exact (progress_keeps (hE.sub rfl) (setChunk_keeps (hE.sub rfl) hvs4))
      · exact (sendFrame_keeps (hE.sub rfl) hvf7)

theorem verdictUp_keeps {m r x1 x2 x3 x4 x5 x6 x7} (hE : Fits 198183917 m) (h1 : Keeps m r x1) :
    Keeps m r (verdictUp x1 x2 x3 x4 x5 x6 x7) := by
  unfold verdictUp
  refine keeps_ite (P := Keeps m r) (fun _ => ?_) (fun _ => ?_)
  · exact (discord_keeps (hE.sub rfl) h1)
  · exact (verdictReady_keeps (hE.sub rfl) (modRun_keeps (hE.sub rfl) h1))

theorem serveRun_keeps {m r x1 x2 x3 x4} (hE : Fits 198183917 m) (h1 : Keeps m r x1) :
    Keeps m r (serveRun x1 x2 x3 x4) := by
  unfold serveRun
  extract_lets -underBinder -merge -useContext +onlyGivenNames vn1 ves2 vvs3 vfirst4 vscale5 vreads6 vf7 vs8 vs9 vheld10 vsrc11 vs12 vs13 vs14 vpos15
  have hvs8 : Keeps m r vs8 := (modRun_keeps (hE.sub rfl) h1)
  clear_value vs8
  have hvs9 : Keeps m r vs9 := (countFlags_keeps (hE.sub rfl) hvs8)
  clear_value vs9
  have hvs12 : Keeps m r vs12 := (Keeps.upd 32 hvs9 (hE.sub rfl) rfl)
  clear_value vs12
  have hvs13 : Keeps m r vs13 := by
    unfold vs13
    refine forAll_keeps (fun _ _ q16 => ?_) hvs12
    extract_lets -underBinder -merge -useContext +onlyGivenNames vx17 vpart18 vsp19
    exact (advServe_keeps (hE.sub rfl) q16)
  clear_value vs13
  have hvs14 : Keeps m r vs14 := by
    unfold vs14
    refine forAll_keeps (fun _ _ q20 => ?_) hvs13
    exact (startSow_keeps (hE.sub rfl) q20)
  clear_value vs14
  exact (advMove_keeps (hE.sub rfl) hvs14)

theorem judgeRun_keeps {m r x1 x2} (hE : Fits 198183917 m) (h1 : Keeps m r x1) :
    Keeps m r (judgeRun x1 x2) := by
  unfold judgeRun
  split
  · exact h1
  · extract_lets -underBinder -merge -useContext +onlyGivenNames vg1 ves2 vcovered3 vjs4 vlow5
    refine keeps_ite (P := Keeps m r) (fun _ => ?_) (fun _ => ?_)
    · exact h1
    · refine keeps_ite (P := Keeps m r) (fun _ => ?_) (fun _ => ?_)
      · exact (failHere_keeps (hE.sub rfl) h1)
      · refine keeps_ite (P := Keeps m r) (fun _ => ?_) (fun _ => ?_)
        · exact (failHere_keeps (hE.sub rfl) h1)
        · refine keeps_ite (P := Keeps m r) (fun _ => ?_) (fun _ => ?_)
          · exact (modRun_keeps (hE.sub rfl) h1)
          · exact (progress_keeps (hE.sub rfl) (serveRun_keeps (hE.sub rfl) h1))

theorem requestPart_keeps {m r x1 x2 x3 x4 x5 x6 x7} (hE : Fits 198183917 m) (h1 : Keeps m r x1) :
    Keeps m r (requestPart x1 x2 x3 x4 x5 x6 x7) := by
  unfold requestPart
  extract_lets -underBinder -merge -useContext +onlyGivenNames vrs1 vs2 vh3 vf4 vs5
  have hvs2 : Keeps m r vs2 := (modRun_keeps (hE.sub rfl) h1)
  clear_value vs2
  have hvf4 : KeepsP m r vf4 := (newFrame_keeps (hE.sub rfl) hvs2)
  clear_value vf4
  have hvs5 : Keeps m r vs5 := (sendFrame_keeps (hE.sub rfl) hvf4)
  clear_value vs5
  refine keeps_ite (P := Keeps m r) (fun _ => ?_) (fun _ => ?_)
  · exact (discord_keeps (hE.sub rfl) h1)
  · refine keeps_ite (P := Keeps m r) (fun _ => ?_) (fun _ => ?_)
    · exact hvs2
    · refine keeps_ite (P := Keeps m r) (fun _ => ?_) (fun _ => ?_)
      · exact (judgeRun_keeps (hE.sub rfl) hvs2)
      · exact (progress_keeps (hE.sub rfl) (modRun_keeps (hE.sub rfl) hvs5))

theorem verdictDown_keeps {m r x1 x2 x3 x4} (hE : Fits 198183917 m) (h1 : Keeps m r x1) :
    Keeps m r (verdictDown x1 x2 x3 x4) := by
  unfold verdictDown
  extract_lets -underBinder -merge -useContext +onlyGivenNames vrec1 vs2
  have hvs2 : Keeps m r vs2 := (applyOutcome_keeps (hE.sub rfl) (noteGlobal_keeps (hE.sub rfl) h1))
  clear_value vs2
  refine keeps_ite (P := Keeps m r) (fun _ => ?_) (fun _ => ?_)
  · refine keeps_ite (P := Keeps m r) (fun _ => ?_) (fun _ => ?_)
    · exact (failHere_keeps (hE.sub rfl) h1)
    · exact (sendVerdicts_keeps (hE.sub rfl) hvs2)
  · exact (sendVerdicts_keeps (hE.sub rfl) h1)

theorem sowPart_keeps {m r x1 x2 x3 x4 x5 x6 x7} (hE : Fits 193989485 m) (h1 : Keeps m r x1) :
    Keeps m r (sowPart x1 x2 x3 x4 x5 x6 x7) := by
  unfold sowPart
  extract_lets -underBinder -merge -useContext +onlyGivenNames vk1 vs2 vnext3 vbs4 vs5
  have hvs2 : Keeps m r vs2 := (modRun_keeps (hE.sub rfl) h1)
  clear_value vs2
  have hvs5 : Keeps m r vs5 := (modRun_keeps (hE.sub rfl) hvs2)
  clear_value vs5
  refine keeps_ite (P := Keeps m r) (fun _ => ?_) (fun _ => ?_)
  · exact (tryFinish_keeps (hE.sub rfl) hvs2)
  · refine keeps_ite (P := Keeps m r) (fun _ => ?_) (fun _ => ?_)
    · exact (tryFinish_keeps (hE.sub rfl) (discord_keeps (hE.sub rfl) hvs2))
    · refine keeps_ite (P := Keeps m r) (fun _ => ?_) (fun _ => ?_)
      · exact (tryFinish_keeps (hE.sub rfl) (startSow_keeps (hE.sub rfl) hvs5))
      · exact (tryFinish_keeps (hE.sub rfl) (modRun_keeps (hE.sub rfl) hvs2))

theorem finalDown_keeps {m r x1 x2 x3 x4} (hE : Fits 193989485 m) (h1 : Keeps m r x1) :
    Keeps m r (finalDown x1 x2 x3 x4) := by
  unfold finalDown
  extract_lets -underBinder -merge -useContext +onlyGivenNames vcode1 vg2 vs3 vs4
  have hvs3 : Keeps m r vs3 := (modRun_keeps (hE.sub rfl) h1)
  clear_value vs3
  have hvs4 : Keeps m r vs4 := (closeRun_keeps (hE.sub rfl) hvs3)
  clear_value vs4
  refine keeps_ite (P := Keeps m r) (fun _ => ?_) (fun _ => ?_)
  · exact h1
  · refine keeps_ite (P := Keeps m r) (fun _ => ?_) (fun _ => ?_)
    · exact (closeRun_keeps (hE.sub rfl) h1)
    · refine keeps_ite (P := Keeps m r) (fun _ => ?_) (fun _ => ?_)
      · exact (turnRelease_keeps (hE.sub rfl) hvs4)
      · exact hvs4

theorem noticeUp_keeps {m r x1 x2 x3 x4 x5} (hE : Fits 198183917 m) (h1 : Keeps m r x1) :
    Keeps m r (noticeUp x1 x2 x3 x4 x5) := by
  unfold noticeUp
  extract_lets -underBinder -merge -useContext +onlyGivenNames vcode1 vs2
  have hvs2 : Keeps m r vs2 := (modRun_keeps (hE.sub rfl) h1)
  clear_value vs2
  refine keeps_ite (P := Keeps m r) (fun _ => ?_) (fun _ => ?_)
  · exact (progress_keeps (hE.sub rfl) hvs2)
  · refine keeps_ite (P := Keeps m r) (fun _ => ?_) (fun _ => ?_)
    · exact (failRun_keeps (hE.sub rfl) hvs2)
    · exact hvs2

theorem packetOfRun_keeps {m r x1 x2 x3 x4 x5 x6} (hE : Fits 198183933 m) (h1 : Keeps m r x1) :
    KeepsC m r (packetOfRun x1 x2 x3 x4 x5 x6) := by
  unfold packetOfRun
  extract_lets -underBinder -merge -useContext +onlyGivenNames vkey1 vg2 vsow3 vlive4 vrankBad5 vbad6
  refine keeps_ite (P := KeepsC m r) (fun _ => ?_) (fun _ => ?_)
  · refine CollRes.done_keeps ?_
    refine keeps_ite (P := Keeps m r) (fun _ => ?_) (fun _ => ?_)
    · exact (discord_keeps (hE.sub rfl) h1)
    · exact (staleDrop_keeps (hE.sub rfl) h1)
  · refine keeps_ite (P := KeepsC m r) (fun _ => ?_) (fun _ => ?_)
    · split
      · refine keeps_ite (P := KeepsC m r) (fun _ => ?_) (fun _ => ?_)
        · exact (CollRes.done_keeps (noticeUp_keeps (hE.sub rfl) h1))
        · exact (CollRes.done_keeps (staleDrop_keeps (hE.sub rfl) h1))
      · exact (CollRes.done_keeps (finalDown_keeps (hE.sub rfl) h1))
    · refine keeps_ite (P := KeepsC m r) (fun _ => ?_) (fun _ => ?_)
      · exact (CollRes.done_keeps (sowPart_keeps (hE.sub rfl) h1))
      · refine keeps_ite (P := KeepsC m r) (fun _ => ?_) (fun _ => ?_)
        · exact (CollRes.done_keeps (staleDrop_keeps (hE.sub rfl) h1))
        · split
          · exact (CollRes.done_keeps (verdictDown_keeps (hE.sub rfl) h1))
          · refine keeps_ite (P := KeepsC m r) (fun _ => ?_) (fun _ => ?_)
            · exact (CollRes.done_keeps (requestPart_keeps (hE.sub rfl) h1))
            · refine keeps_ite (P := KeepsC m r) (fun _ => ?_) (fun _ => ?_)
              · exact (CollRes.done_keeps (verdictUp_keeps (hE.sub rfl) h1))
              · exact (reapPart_keeps (hE.sub rfl) h1)

theorem notMember_keeps {m r x1 x2 x3 x4} (hE : Fits 134217728 m) (h1 : Keeps m r x1) :
    Keeps m r (notMember x1 x2 x3 x4) := by
  unfold notMember
  exact (event_keeps (hE.sub rfl) (count_keeps (hE.sub rfl) h1))

theorem collPacket_keeps {m r x1 x2 x3} (hE : Fits 198183933 m) (h1 : Keeps m r x1) :
    KeepsC m r (collPacket x1 x2 x3) := by
  unfold collPacket
  extract_lets -underBinder -merge -useContext +onlyGivenNames vh1 vg2 vmem3 vparent4
  refine keeps_ite (P := KeepsC m r) (fun _ => ?_) (fun _ => ?_)
  · exact (CollRes.done_keeps (notMember_keeps (hE.sub rfl) h1))
  · split
    · exact (packetOfRun_keeps (hE.sub rfl) h1)
    · refine keeps_ite (P := KeepsC m r) (fun _ => ?_) (fun _ => ?_)
      · exact (CollRes.done_keeps (staleDrop_keeps (hE.sub rfl) h1))
      · split
        · exact (CollRes.wait_keeps h1)
        · split
          · exact (CollRes.done_keeps (staleDrop_keeps (hE.sub rfl) (KeepsO.get (openRun_keeps (hE.sub rfl) h1) (by assumption))))
          · refine keeps_ite (P := KeepsC m r) (fun _ => ?_) (fun _ => ?_)
            · exact (packetOfRun_keeps (hE.sub rfl) (KeepsO.get (openRun_keeps (hE.sub rfl) h1) (by assumption)))
            · exact (CollRes.done_keeps (KeepsO.get (openRun_keeps (hE.sub rfl) h1) (by assumption)))

theorem contributeOwn_keeps {m r x1 x2 x3} (hE : Fits 198183917 m) (h1 : Keeps m r x1) :
    KeepsO m r (contributeOwn x1 x2 x3) := by
  unfold contributeOwn
  extract_lets -underBinder -merge -useContext +onlyGivenNames vgno1 vg2 vcommit3 vmine4 vput5
  have hvput5 : ∀ y6 y8, Keeps m r y6 → Keeps m r (vput5 y6 y8) := by
    intro y6 y8 g7
    unfold vput5
    refine keeps_ite (P := Keeps m r) (fun _ => ?_) (fun _ => ?_)
    · exact g7
    · refine keeps_ite (P := Keeps m r) (fun _ => ?_) (fun _ => ?_)
      · exact (discord_keeps (hE.sub rfl) g7)
      · exact (verdictReady_keeps (hE.sub rfl) (modRun_keeps (hE.sub rfl) g7))
  clear_value vput5
  refine keeps_ite (P := KeepsO m r) (fun _ => ?_) (fun _ => ?_)
  · exact (KeepsO.some h1)
  · clear_value vmine4
    split
    · exact (KeepsO.some (hvput5 _ _ h1))
    · extract_lets -underBinder -merge -useContext +onlyGivenNames vkey9
      split
      · exact KeepsO.none
      · split
        · exact (KeepsO.some (hvput5 _ _ (KeepsO.get (openRun_keeps (hE.sub rfl) h1) (by assumption))))
        · exact (KeepsO.some (KeepsO.get (openRun_keeps (hE.sub rfl) h1) (by assumption)))

theorem drainColl_keeps {m r x1 x2 x3 x4} (hE : Fits 198446079 m) (h4 : Keeps m r x4) :
    Keeps m r (drainColl x1 x2 x3 x4) := by
  induction x3 generalizing x4 with
  | zero => exact h4
  | succ n ih =>
    unfold drainColl
    split
    · exact h4
    · split
      next e => exact ih (giveBack_keeps (hE.sub rfl) (setWaits_keeps (hE.sub rfl) (KeepsC.done (collPacket_keeps (hE.sub rfl) h4) e)))
      next e => exact setWaits_keeps (hE.sub rfl) (KeepsC.wait (collPacket_keeps (hE.sub rfl) h4) e)

theorem retryJudgements_keeps {m r x1 x2} (hE : Fits 198183917 m) (h1 : Keeps m r x1) :
    Keeps m r (retryJudgements x1 x2) := by
  unfold retryJudgements
  refine forAll_keeps (fun _ _ q1 => ?_) h1
  exact (judgeRun_keeps (hE.sub rfl) q1)

theorem serveCommits_keeps {m r x1} (hE : Fits 198183917 m) (h1 : Keeps m r x1) :
    Keeps m r (serveCommits x1) := by
  unfold serveCommits
  refine forAll_keeps (fun _ _ q1 => ?_) h1
  split
  · exact q1
  · refine keeps_ite (P := Keeps m r) (fun _ => ?_) (fun _ => ?_)
    · exact q1
    · split
      · exact q1
      · extract_lets -underBinder -merge -useContext +onlyGivenNames vsrc2 vs3
        have hvs3 : Keeps m r vs3 := (setVrdWork_keeps (hE.sub rfl) (KeepsO.get (contributeOwn_keeps (hE.sub rfl) q1) (by assumption)))
        clear_value vs3
        exact (vrdEnter_keeps (hE.sub rfl) hvs3)

theorem takeColl_keeps {m r x1 x2 x3} (hE : Fits 198446079 m) (h1 : Keeps m r x1) :
    Keeps m r (takeColl x1 x2 x3) := by
  unfold takeColl
  extract_lets -underBinder -merge -useContext +onlyGivenNames vf1 vk2 vw3
  refine keeps_ite (P := Keeps m r) (fun _ => ?_) (fun _ => ?_)
  · exact (setWaits_keeps (hE.sub rfl) h1)
  · exact (drainColl_keeps (hE.sub rfl) (setWaits_keeps (hE.sub rfl) h1))

theorem appendLedger_keeps {m r x1 x2 x3 x4 x5 x6} (hE : Fits 134218752 m) (h1 : Keeps m r x1) :
    KeepsP m r (appendLedger x1 x2 x3 x4 x5 x6) := by
  unfold appendLedger
  extract_lets -underBinder -merge -useContext +onlyGivenNames vn1 vseq2 vw03 vrec4 vsrc5 vs6
  have hvs6 : Keeps m r vs6 := (Keeps.upd 1024 h1 (hE.sub rfl) rfl)
  clear_value vs6
  refine keeps_ite (P := KeepsP m r) (fun _ => ?_) (fun _ => ?_)
  · exact (KeepsP.mk (event_keeps (hE.sub rfl) h1))
  · exact (KeepsP.mk (pushFlash_keeps (hE.sub rfl) hvs6))

theorem setCoreState_keeps {m r x1 x2 x3} (hE : Fits 67108864 m) (h1 : Keeps m r x1) :
    Keeps m r (setCoreState x1 x2 x3) := by
  unfold setCoreState
  exact (Keeps.wrf (k := 10) h1 (hE.sub rfl))

theorem setJob_keeps {m r x1 x2 x3} (hE : Fits 16 m) (h1 : Keeps m r x1) :
    Keeps m r (setJob x1 x2 x3) := by
  unfold setJob
  exact (Keeps.upd 16 h1 (hE.sub rfl) rfl)

theorem moveCore_keeps {m r x1 x2 x3 x4 x5} (hE : Fits 8 m) (h1 : Keeps m r x1) :
    Keeps m r (moveCore x1 x2 x3 x4 x5) := by
  unfold moveCore
  exact (modChunk_keeps (hE.sub rfl) h1)

theorem assignOne_keeps {m r x1 x2} (hE : Fits 201326616 m) (h1 : Keeps m r x1) :
    KeepsO m r (assignOne x1 x2) := by
  unfold assignOne
  extract_lets -underBinder -merge -useContext +onlyGivenNames vidle1 vmoving2
  clear_value vmoving2
  clear_value vidle1
  split
  · split
    · refine keeps_ite (P := KeepsO m r) (fun _ => ?_) (fun _ => ?_)
      · exact (KeepsO.some (moveCore_keeps (hE.sub rfl) (setJob_keeps (hE.sub rfl) (setJob_keeps (hE.sub rfl) h1))))
      · exact (KeepsO.some (setCoreState_keeps (hE.sub rfl) (setJob_keeps (hE.sub rfl) h1)))
    · exact KeepsO.none
  · extract_lets -underBinder -merge -useContext +onlyGivenNames vjudge3
    clear_value vjudge3
    split
    · extract_lets -underBinder -merge -useContext +onlyGivenNames vs4 vs5
      have hvs4 : Keeps m r vs4 := (count_keeps (hE.sub rfl) (setJob_keeps (hE.sub rfl) h1))
      clear_value vs4
      have hvs5 : Keeps m r vs5 := (modRun_keeps (hE.sub rfl) hvs4)
      clear_value vs5
      exact (KeepsO.some (modChunk_keeps (hE.sub rfl) hvs5))
    · split
      · exact KeepsO.none
      · extract_lets -underBinder -merge -useContext +onlyGivenNames vfree6 vcs7 vs8
        have hvs8 : Keeps m r vs8 := by
          unfold vs8
          refine forAll_keeps (fun _ _ q9 => ?_) h1
          exact (setJob_keeps (hE.sub rfl) q9)
        clear_value vs8
        refine keeps_ite (P := KeepsO m r) (fun _ => ?_) (fun _ => ?_)
        · exact KeepsO.none
        · exact (KeepsO.some (modChunk_keeps (hE.sub rfl) hvs8))

theorem assignCluster_keeps {m r x1 x2 x3} (hE : Fits 201326616 m) (h3 : Keeps m r x3) :
    Keeps m r (assignCluster x1 x2 x3) := by
  induction x2 generalizing x3 with
  | zero => exact h3
  | succ n ih =>
    unfold assignCluster
    split
    · exact h3
    next e => exact ih (KeepsO.get (assignOne_keeps (hE.sub rfl) h3) e)

theorem assignAll_keeps {m r x1} (hE : Fits 201326616 m) (h1 : Keeps m r x1) :
    Keeps m r (assignAll x1) := by
  unfold assignAll
  refine forAll_keeps (fun _ _ q1 => ?_) h1
  exact (assignCluster_keeps (hE.sub rfl) q1)

theorem dropIfDone_keeps {m r x1 x2} (hE : Fits 8 m) (h1 : Keeps m r x1) :
    Keeps m r (dropIfDone x1 x2) := by
  unfold dropIfDone
  split
  · exact h1
  · refine keeps_ite (P := Keeps m r) (fun _ => ?_) (fun _ => ?_)
    · exact (setRuns_keeps (hE.sub rfl) h1)
    · exact h1

theorem discardChunk_keeps {m r x1 x2 x3} (hE : Fits 1048588 m) (h1 : Keeps m r x1) :
    Keeps m r (discardChunk x1 x2 x3) := by
  unfold discardChunk
  split
  · exact h1
  · extract_lets -underBinder -merge -useContext +onlyGivenNames vs1
    have hvs1 : Keeps m r vs1 := (freeHeld_keeps (hE.sub rfl) h1)
    clear_value vs1
    exact (dropIfDone_keeps (hE.sub rfl) (setChunk_keeps (hE.sub rfl) hvs1))

theorem chunkFailed_keeps {m r x1 x2 x3 x4} (hE : Fits 193989485 m) (h1 : Keeps m r x1) :
    Keeps m r (chunkFailed x1 x2 x3 x4) := by
  unfold chunkFailed
  split
  · exact h1
  · extract_lets -underBinder -merge -useContext +onlyGivenNames vg1 vc2 vrank3 vs4
    have hvs4 : Keeps m r vs4 := (failHere_keeps (hE.sub rfl) (discardChunk_keeps (hE.sub rfl) h1))
    clear_value vs4
    exact (event_keeps (hE.sub rfl) hvs4)

theorem cutPasses_keeps {m r x1 x2} (hE : Fits 96 m) (h1 : Keeps m r x1) :
    Keeps m r (cutPasses x1 x2) := by
  unfold cutPasses
  extract_lets -underBinder -merge -useContext +onlyGivenNames vps1
  refine forAll_keeps (fun _ _ q2 => ?_) (setPasses_keeps (hE.sub rfl) h1)
  extract_lets -underBinder -merge -useContext +onlyGivenNames vw3 vleft4 vs5
  have hvs5 : Keeps m r vs5 := (setVrdWork_keeps (hE.sub rfl) q2)
  clear_value vs5
  refine keeps_ite (P := Keeps m r) (fun _ => ?_) (fun _ => ?_)
  · exact (oweCommit_keeps (hE.sub rfl) hvs5)
  · exact hvs5

theorem recountCores_keeps {m r x1} (hE : Fits 65536 m) (h1 : Keeps m r x1) :
    Keeps m r (recountCores x1) := by
  unfold recountCores
  exact (Keeps.wrf (k := 0) h1 (hE.sub rfl))

theorem clusterFallow_keeps {m r x1 x2 x3} (hE : Fits 198249453 m) (h1 : Keeps m r x1) :
    Keeps m r (clusterFallow x1 x2 x3) := by
  unfold clusterFallow
  extract_lets -underBinder -merge -useContext +onlyGivenNames vplots1 vs2 vs3 vs4 vs5 vs6
  have hvs2 : Keeps m r vs2 := (recountCores_keeps (hE.sub rfl) (Keeps.wrf (k := 0) h1 (hE.sub rfl)))
  clear_value vs2
  have hvs3 : Keeps m r vs3 := (failGroups_keeps (hE.sub rfl) hvs2)
  clear_value vs3
  have hvs4 : Keeps m r vs4 := by
    unfold vs4
    refine forAll_keeps (fun _ _ q7 => ?_) hvs3
    exact (freeRecord_keeps (hE.sub rfl) q7)
  clear_value vs4
  have hvs5 : Keeps m r vs5 := (advDiscard_keeps (hE.sub rfl) hvs4)
  clear_value vs5
  have hvs6 : Keeps m r vs6 := by
    unfold vs6
    refine keeps_ite (P := Keeps m r) (fun _ => ?_) (fun _ => ?_)
    · exact (cutPasses_keeps (hE.sub rfl) hvs5)
    · exact hvs5
  clear_value vs6
  refine keeps_ite (P := Keeps m r) (fun _ => ?_) (fun _ => ?_)
  · exact h1
  · refine keeps_ite (P := Keeps m r) (fun _ => ?_) (fun _ => ?_)
    · exact (event_keeps (hE.sub rfl) hvs6)
    · refine forAll_keeps (fun _ _ q8 => ?_) hvs6
      exact (event_keeps (hE.sub rfl) q8)

theorem outputBad_keeps {m r x1 x2 x3 x4 x5} (hE : Fits 198183917 m) (h1 : Keeps m r x1) :
    Keeps m r (outputBad x1 x2 x3 x4 x5) := by
  unfold outputBad
  extract_lets -underBinder -merge -useContext +onlyGivenNames vs1 vmark2 vf3 vs4
  have hvs1 : Keeps m r vs1 := (resultChecked_keeps (hE.sub rfl) h1)
  clear_value vs1
  have hvs4 : Keeps m r vs4 := (setQueue_keeps (hE.sub rfl) hvs1)
  clear_value vs4
  refine keeps_ite (P := Keeps m r) (fun _ => ?_) (fun _ => ?_)
  · exact (failHere_keeps (hE.sub rfl) (discardChunk_keeps (hE.sub rfl) h1))
  · exact (failHere_keeps (hE.sub rfl) hvs4)

theorem placeRun_keeps {m r x1 x2 x3 x4} (hE : Fits 198183917 m) (h1 : Keeps m r x1) :
    Keeps m r (placeRun x1 x2 x3 x4) := by
  unfold placeRun
  split
  · exact h1
  · extract_lets -underBinder -merge -useContext +onlyGivenNames vg1
    refine keeps_ite (P := Keeps m r) (fun _ => ?_) (fun _ => ?_)
    · exact (discardChunk_keeps (hE.sub rfl) h1)
    · refine keeps_ite (P := Keeps m r) (fun _ => ?_) (fun _ => ?_)
      · exact (outputBad_keeps (hE.sub rfl) h1)
      · exact (resultChecked_keeps (hE.sub rfl) h1)

theorem compareChunk_keeps {m r x1 x2 x3} (hE : Fits 198183917 m) (h1 : Keeps m r x1) :
    Keeps m r (compareChunk x1 x2 x3) := by
  unfold compareChunk
  split
  · exact h1
  · extract_lets -underBinder -merge -useContext +onlyGivenNames vg1 vc2 vbyCore3 vjudge4
    have hvjudge4 : Keeps m r vjudge4 := by
      unfold vjudge4
      refine keeps_ite (P := Keeps m r) (fun _ => ?_) (fun _ => ?_)
      · exact (setChunk_keeps (hE.sub rfl) h1)
      · exact (chunkFailed_keeps (hE.sub rfl) h1)
    clear_value vjudge4
    refine keeps_ite (P := Keeps m r) (fun _ => ?_) (fun _ => ?_)
    · exact (discardChunk_keeps (hE.sub rfl) h1)
    · split
      · refine keeps_ite (P := Keeps m r) (fun _ => ?_) (fun _ => ?_)
        · exact (placeRun_keeps (hE.sub rfl) h1)
        · exact hvjudge4
      · refine keeps_ite (P := Keeps m r) (fun _ => ?_) (fun _ => ?_)
        · exact (placeRun_keeps (hE.sub rfl) h1)
        · exact hvjudge4
      · exact h1

theorem setRetireMark_keeps {m r x1 x2 x3} (hE : Fits 16 m) (h1 : Keeps m r x1) :
    Keeps m r (setRetireMark x1 x2 x3) := by
  unfold setRetireMark
  exact (Keeps.upd 16 h1 (hE.sub rfl) rfl)

theorem finishRetire_keeps {m r x1 x2} (hE : Fits 265359357 m) (h1 : Keeps m r x1) :
    Keeps m r (finishRetire x1 x2) := by
  unfold finishRetire
  extract_lets -underBinder -merge -useContext +onlyGivenNames vn1 vreason2 vlast3 vs4 vs5 vs6 vactive7 vs8 vs9
  have hvs4 : Keeps m r vs4 := (setCoreState_keeps (hE.sub rfl) (setJob_keeps (hE.sub rfl) (setRetireMark_keeps (hE.sub rfl) h1)))
  clear_value vs4
  have hvs5 : Keeps m r vs5 := (appendLedger_keeps (hE.sub rfl) hvs4)
  clear_value vs5
  have hvs6 : Keeps m r vs6 := (event_keeps (hE.sub rfl) hvs5)
  clear_value vs6
  have hvs8 : Keeps m r vs8 := by
    unfold vs8
    refine keeps_ite (P := Keeps m r) (fun _ => ?_) (fun _ => ?_)
    · exact hvs6
    · split
      · exact (setCoreState_keeps (hE.sub rfl) hvs6)
      · exact (event_keeps (hE.sub rfl) hvs6)
  clear_value vs8
  have hvs9 : Keeps m r vs9 := (recountCores_keeps (hE.sub rfl) hvs8)
  clear_value vs9
  refine keeps_ite (P := Keeps m r) (fun _ => ?_) (fun _ => ?_)
  · exact (clusterFallow_keeps (hE.sub rfl) (appendLedger_keeps (hE.sub rfl) hvs9))
  · exact hvs9

theorem retireCore_keeps {m r x1 x2 x3} (hE : Fits 265359357 m) (h1 : Keeps m r x1) :
    Keeps m r (retireCore x1 x2 x3) := by
  unfold retireCore
  extract_lets -underBinder -merge -useContext +onlyGivenNames vs1
  have hvs1 : Keeps m r vs1 := (setRetireMark_keeps (hE.sub rfl) h1)
  clear_value vs1
  refine keeps_ite (P := Keeps m r) (fun _ => ?_) (fun _ => ?_)
  · exact h1
  · split
    · split
      · exact (setJob_keeps (hE.sub rfl) hvs1)
      · exact (setCoreState_keeps (hE.sub rfl) hvs1)
    · extract_lets -underBinder -merge -useContext +onlyGivenNames vs2
      have hvs2 : Keeps m r vs2 := (setCoreState_keeps (hE.sub rfl) (setJob_keeps (hE.sub rfl) hvs1))
      clear_value vs2
      exact (finishRetire_keeps (hE.sub rfl) hvs2)
    · exact (finishRetire_keeps (hE.sub rfl) hvs1)

theorem strikeCore_keeps {m r x1 x2 x3 x4} (hE : Fits 265359357 m) (h1 : Keeps m r x1) :
    Keeps m r (strikeCore x1 x2 x3 x4) := by
  unfold strikeCore
  extract_lets -underBinder -merge -useContext +onlyGivenNames vs1 vs2 vlist3 vsrc4 vs5 vs6
  have hvs1 : Keeps m r vs1 := (event_keeps (hE.sub rfl) h1)
  clear_value vs1
  have hvs2 : Keeps m r vs2 := (count_keeps (hE.sub rfl) hvs1)
  clear_value vs2
  have hvs5 : Keeps m r vs5 := (Keeps.upd 16 hvs2 (hE.sub rfl) rfl)
  clear_value vs5
  have hvs6 : Keeps m r vs6 := (Keeps.wrf (k := 10) (Keeps.wrf (k := 10) hvs5 (hE.sub rfl)) (hE.sub rfl))
  clear_value vs6
  refine keeps_ite (P := Keeps m r) (fun _ => ?_) (fun _ => ?_)
  · exact h1
  · refine keeps_ite (P := Keeps m r) (fun _ => ?_) (fun _ => ?_)
    · exact (retireCore_keeps (hE.sub rfl) hvs6)
    · exact (Keeps.wrf (k := 10) hvs6 (hE.sub rfl))

theorem timingStrike_keeps {m r x1 x2 x3 x4 x5} (hE : Fits 265359357 m) (h1 : Keeps m r x1) :
    Keeps m r (timingStrike x1 x2 x3 x4 x5) := by
  unfold timingStrike
  refine keeps_ite (P := Keeps m r) (fun _ => ?_) (fun _ => ?_)
  · exact h1
  · refine keeps_ite (P := Keeps m r) (fun _ => ?_) (fun _ => ?_)
    · exact (strikeCore_keeps (hE.sub rfl) h1)
    · refine keeps_ite (P := Keeps m r) (fun _ => ?_) (fun _ => ?_)
      · exact (strikeCore_keeps (hE.sub rfl) h1)
      · exact (event_keeps (hE.sub rfl) h1)

theorem judgeChunk_keeps {m r x1 x2 x3 x4} (hE : Fits 265359357 m) (h1 : Keeps m r x1) :
    Keeps m r (judgeChunk x1 x2 x3 x4) := by
  unfold judgeChunk
  split
  · exact h1
  · extract_lets -underBinder -merge -useContext +onlyGivenNames vc1 vbyCore2
    split
    · extract_lets -underBinder -merge -useContext +onlyGivenNames vs3
      have hvs3 : Keeps m r vs3 := (strikeCore_keeps (hE.sub rfl) h1)
      clear_value vs3
      refine keeps_ite (P := Keeps m r) (fun _ => ?_) (fun _ => ?_)
      · exact (chunkFailed_keeps (hE.sub rfl) h1)
      · exact (placeRun_keeps (hE.sub rfl) hvs3)
    · extract_lets -underBinder -merge -useContext +onlyGivenNames vplace4 vs5 vs6
      have hvs5 : Keeps m r vs5 := by
        unfold vs5
        refine keeps_ite (P := Keeps m r) (fun _ => ?_) (fun _ => ?_)
        · exact h1
        · refine keeps_ite (P := Keeps m r) (fun _ => ?_) (fun _ => ?_)
          · exact (strikeCore_keeps (hE.sub rfl) h1)
          · refine keeps_ite (P := Keeps m r) (fun _ => ?_) (fun _ => ?_)
            · exact (strikeCore_keeps (hE.sub rfl) h1)
            · exact h1
      clear_value vs5
      have hvs6 : Keeps m r vs6 := (timingStrike_keeps (hE.sub rfl) hvs5)
      clear_value vs6
      clear_value vplace4
      split
      · exact (placeRun_keeps (hE.sub rfl) hvs6)
      · exact (chunkFailed_keeps (hE.sub rfl) hvs6)
    · exact h1

theorem noteCycles_keeps {m r x1 x2 x3 x4 x5 x6} (hE : Fits 4194304 m) (h1 : Keeps m r x1) :
    Keeps m r (noteCycles x1 x2 x3 x4 x5 x6) := by
  unfold noteCycles
  exact (Keeps.wr (k := 6) h1 (hE.sub rfl))

theorem settle_keeps {m r x1} (hE : Fits 265292797 m) (h1 : Keeps m r x1) :
    Keeps m r (settle x1) := by
  unfold settle
  exact (serveCommits_keeps (hE.sub rfl) (assignAll_keeps (hE.sub rfl) h1))

theorem watchRun_keeps {m r x1 x2 x3 x4 x5 x6 x7} (hE : Fits 265359357 m) (h1 : Keeps m r x1) :
    Keeps m r (watchRun x1 x2 x3 x4 x5 x6 x7) := by
  unfold watchRun
  extract_lets -underBinder -merge -useContext +onlyGivenNames vc1 vruns2 vlo3 vhi4 vfresh5 vlo6 vhi7 vs8 vs9
  have hvs8 : Keeps m r vs8 := (Keeps.wr (k := 6) h1 (hE.sub rfl))
  clear_value vs8
  have hvs9 : Keeps m r vs9 := (Keeps.wr (k := 6) hvs8 (hE.sub rfl))
  clear_value vs9
  refine keeps_ite (P := Keeps m r) (fun _ => ?_) (fun _ => ?_)
  · exact h1
  · refine keeps_ite (P := Keeps m r) (fun _ => ?_) (fun _ => ?_)
    · exact (strikeCore_keeps (hE.sub rfl) (event_keeps (hE.sub rfl) hvs9))
    · exact hvs9

end Sys2Proof.Machine
end

