-- ==== Sys2Proof/Laws/KeepsStacks.lean ====
section
/-! SUPPORT. Every operation of group tables, passes, stacks, drills and the journal keeps what `Keeps` names. -/

namespace Sys2Proof.Machine

set_option Elab.async false

open Sys2Proof

theorem endGroup_keeps {m r x1 x2 x3} (hE : Fits 193989485 m) (h1 : Keeps m r x1) :
    Keeps m r (endGroup x1 x2 x3) := by
  unfold endGroup
  exact (failGroups_keeps (hE.sub rfl) h1)

theorem groupReport_keeps {m r x1 x2 x3} (hE : Fits 8388608 m) (h1 : Keeps m r x1) :
    Keeps m r (groupReport x1 x2 x3) := by
  unfold groupReport
  exact (Keeps.wr (k := 7) h1 (hE.sub rfl))

theorem freeStaging_keeps {m r x1 x2 x3} (hE : Fits 1048588 m) (h1 : Keeps m r x1) :
    Keeps m r (freeStaging x1 x2 x3) := by
  unfold freeStaging
  extract_lets -underBinder -merge -useContext +onlyGivenNames vs1 vsrc2
  have hvs1 : Keeps m r vs1 := (freeBufs_keeps (hE.sub rfl) h1)
  clear_value vs1
  exact (Keeps.upd 8 hvs1 (hE.sub rfl) rfl)

theorem freeGroup_keeps {m r x1 x2} (hE : Fits 9437196 m) (h1 : Keeps m r x1) :
    Keeps m r (freeGroup x1 x2) := by
  unfold freeGroup
  extract_lets -underBinder -merge -useContext +onlyGivenNames vs1 vs2
  have hvs1 : Keeps m r vs1 := (freeStaging_keeps (hE.sub rfl) h1)
  clear_value vs1
  have hvs2 : Keeps m r vs2 := (wrEntry_keeps (k := 7) hvs1 (hE.sub rfl))
  clear_value vs2
  exact (wrEntry_keeps (k := 7) hvs2 (hE.sub rfl))

theorem groupCommand_keeps {m r x1 x2 x3 x4} (hE : Fits 265292797 m) (h1 : Keeps m r x1) :
    KeepsP m r (groupCommand x1 x2 x3 x4) := by
  unfold groupCommand
  extract_lets -underBinder -merge -useContext +onlyGivenNames vg1 vidle2 vr3
  have hvr3 : KeepsP m r vr3 := by
    unfold vr3
    split
    · exact (KeepsP.mk (settle_keeps (hE.sub rfl) (endGroup_keeps (hE.sub rfl) h1)))
    · refine keeps_ite (P := KeepsP m r) (fun _ => ?_) (fun _ => ?_)
      · exact (KeepsP.mk h1)
      · exact (KeepsP.mk (settle_keeps (hE.sub rfl) (endGroup_keeps (hE.sub rfl) (Keeps.wrf (k := 7) h1 (hE.sub rfl)))))
    · refine keeps_ite (P := KeepsP m r) (fun _ => ?_) (fun _ => ?_)
      · exact (KeepsP.mk (Keeps.wrf (k := 7) h1 (hE.sub rfl)))
      · exact (KeepsP.mk h1)
    · refine keeps_ite (P := KeepsP m r) (fun _ => ?_) (fun _ => ?_)
      · exact (KeepsP.mk (freeGroup_keeps (hE.sub rfl) h1))
      · exact (KeepsP.mk h1)
    · refine keeps_ite (P := KeepsP m r) (fun _ => ?_) (fun _ => ?_)
      · exact (KeepsP.mk (Keeps.wrf (k := 7) h1 (hE.sub rfl)))
      · exact (KeepsP.mk h1)
    · exact (KeepsP.mk h1)
  clear_value vr3
  exact (KeepsP.mk (groupReport_keeps (hE.sub rfl) hvr3))

theorem groupCmdWrite_keeps {m r x1 x2 x3} (hE : Fits 265296893 m) (h1 : Keeps m r x1) :
    KeepsW m r (groupCmdWrite x1 x2 x3) := by
  unfold groupCmdWrite
  exact (cmdWrite_keeps (k := 7) (hE.sub rfl) (hE.sub rfl) h1 (fun _ g1 => (groupCommand_keeps (hE.sub rfl) g1)))

theorem groupRow_keeps {m r x1 x2 x3 x4 x5} (hE : Fits 265296893 m) (h1 : Keeps m r x1) :
    Keeps m r (groupRow x1 x2 x3 x4 x5) := by
  unfold groupRow
  exact (mgApply_keeps (hE.sub rfl) h1 (fun _ g1 => (groupCmdWrite_keeps (hE.sub rfl) g1)))

theorem execGroupAbort_keeps {m r x1 x2 x3} (hE : Fits 265296893 m) (h3 : Keeps m r x3) :
    KeepsA m r (execGroupAbort x1 x2 x3) := by
  unfold execGroupAbort
  exact (KeepsA.next (groupRow_keeps (hE.sub rfl) h3))

theorem freshHist_keeps {m r x1 x2} (hE : Fits 8388608 m) (h1 : Keeps m r x1) :
    Keeps m r (freshHist x1 x2) := by
  unfold freshHist
  exact (Keeps.wrf (k := 7) (Keeps.wrf (k := 7) (clearHist_keeps (hE.sub rfl) h1) (hE.sub rfl)) (hE.sub rfl))

theorem takeStaging_keeps {m r x1 x2 x3 x4} (hE : Fits 135266304 m) (h3 : Keeps m r x3) :
    KeepsOP m r (takeStaging x1 x2 x3 x4) := by
  induction x4 generalizing x3 with
  | nil => exact KeepsOP.some h3
  | cons z zs ih =>
    unfold takeStaging
    split
    · exact KeepsOP.none
    next e =>
      have h4 := KeepsOP.get (allocStore_keeps (hE.sub rfl) h3) e
      split
      · exact KeepsOP.none
      next f => exact KeepsOP.some (KeepsP.mk (KeepsOP.get (ih h4) f))

theorem reserveStaging_keeps {m r x1 x2 x3} (hE : Fits 135266316 m) (h1 : Keeps m r x1) :
    KeepsO m r (reserveStaging x1 x2 x3) := by
  unfold reserveStaging
  refine keeps_ite (P := KeepsO m r) (fun _ => KeepsO.some (freeStaging_keeps (hE.sub rfl) h1)) (fun _ => ?_)
  intro t ht
  rw [Option.map_eq_some_iff] at ht
  obtain ⟨p, hp, rfl⟩ := ht
  have h2 : Keeps m r p.1 := takeStaging_keeps (hE.sub rfl) (freeStaging_keeps (hE.sub rfl) h1) p hp
  exact Keeps.upd 8 h2 (hE.sub rfl) rfl

theorem groupAccept_keeps {m r x1 x2 x3} (hE : Fits 143654924 m) (h1 : Keeps m r x1) :
    Keeps m r (groupAccept x1 x2 x3) := by
  unfold groupAccept
  extract_lets -underBinder -merge -useContext +onlyGivenNames vg1 vs2 vfree3 vs4 vs5
  have hvs2 : Keeps m r vs2 := (KeepsO.getD (reserveStaging_keeps (hE.sub rfl) h1) h1)
  clear_value vs2
  have hvs4 : Keeps m r vs4 := (wrEntry_keeps (k := 7) hvs2 (hE.sub rfl))
  clear_value vs4
  have hvs5 : Keeps m r vs5 := by
    unfold vs5
    refine keeps_ite (P := Keeps m r) (fun _ => ?_) (fun _ => ?_)
    · exact (Keeps.wrf (k := 7) (Keeps.wrf (k := 7) hvs4 (hE.sub rfl)) (hE.sub rfl))
    · exact hvs4
  clear_value vs5
  refine keeps_ite (P := Keeps m r) (fun _ => ?_) (fun _ => ?_)
  · exact (freshHist_keeps (hE.sub rfl) hvs5)
  · exact hvs5

theorem groupCommit_keeps {m r x1 x2 x3 x4} (hE : Fits 143659020 m) (h1 : Keeps m r x1) :
    KeepsW m r (groupCommit x1 x2 x3 x4) := by
  unfold groupCommit
  exact (commitEntry_keeps (hE.sub rfl) h1 (fun _ _ g1 => (groupAccept_keeps (hE.sub rfl) g1)) (fun _ _ g2 => (groupReport_keeps (hE.sub rfl) g2)))

theorem execGroupCommit_keeps {m r x1 x2 x3 x4} (hE : Fits 177213708 m) (h4 : Keeps m r x4) :
    KeepsA m r (execGroupCommit x1 x2 x3 x4) := by
  unfold execGroupCommit
  exact (KeepsA.next (mgApply_keeps (hE.sub rfl) h4 (fun _ g1 => (groupCommit_keeps (hE.sub rfl) g1))))

theorem execGroupFallow_keeps {m r x1 x2 x3} (hE : Fits 265296893 m) (h3 : Keeps m r x3) :
    KeepsA m r (execGroupFallow x1 x2 x3) := by
  unfold execGroupFallow
  exact (KeepsA.next (groupRow_keeps (hE.sub rfl) h3))

theorem execGroupFree_keeps {m r x1 x2 x3} (hE : Fits 265296893 m) (h3 : Keeps m r x3) :
    KeepsA m r (execGroupFree x1 x2 x3) := by
  unfold execGroupFree
  exact (KeepsA.next (groupRow_keeps (hE.sub rfl) h3))

theorem execGroupQuery_keeps {m r x1 x2 x3} (hE : Fits 265296893 m) (h3 : Keeps m r x3) :
    KeepsA m r (execGroupQuery x1 x2 x3) := by
  unfold execGroupQuery
  exact (KeepsA.next (groupRow_keeps (hE.sub rfl) h3))

theorem execGroupRestore_keeps {m r x1 x2 x3} (hE : Fits 265296893 m) (h3 : Keeps m r x3) :
    KeepsA m r (execGroupRestore x1 x2 x3) := by
  unfold execGroupRestore
  exact (KeepsA.next (groupRow_keeps (hE.sub rfl) h3))

theorem memberWrite_keeps {m r x1 x2 x3 x4 x5 x6} (hE : Fits 138416128 m) (h1 : Keeps m r x1) :
    KeepsW m r (memberWrite x1 x2 x3 x4 x5 x6) := by
  unfold memberWrite
  refine keeps_ite (P := KeepsW m r) (fun _ => ?_) (fun _ => ?_)
  · exact h1
  · refine keeps_ite (P := KeepsW m r) (fun _ => ?_) (fun _ => ?_)
    · exact h1
    · exact (regWrite_keeps (k := 6) (hE.sub rfl) (hE.sub rfl) h1)

theorem execMemberEntryWrite_keeps {m r x1 x2 x3 x4 x5 x6} (hE : Fits 171970816 m) (h6 : Keeps m r x6) :
    KeepsA m r (execMemberEntryWrite x1 x2 x3 x4 x5 x6) := by
  unfold execMemberEntryWrite
  exact (KeepsA.next (mgApply_keeps (hE.sub rfl) h6 (fun _ g1 => (memberWrite_keeps (hE.sub rfl) g1))))

theorem oscaleWrite_keeps {m r x1 x2 x3 x4 x5} (hE : Fits 142610432 m) (h1 : Keeps m r x1) :
    KeepsW m r (oscaleWrite x1 x2 x3 x4 x5) := by
  unfold oscaleWrite
  refine keeps_ite (P := KeepsW m r) (fun _ => ?_) (fun _ => ?_)
  · exact h1
  · exact (regWrite_keeps (k := 7) (hE.sub rfl) (hE.sub rfl) h1)

theorem execOscaleWrite_keeps {m r x1 x2 x3 x4 x5} (hE : Fits 176165120 m) (h5 : Keeps m r x5) :
    KeepsA m r (execOscaleWrite x1 x2 x3 x4 x5) := by
  unfold execOscaleWrite
  exact (KeepsA.next (mgApply_keeps (hE.sub rfl) h5 (fun _ g1 => (oscaleWrite_keeps (hE.sub rfl) g1))))

theorem execSetSeq_keeps {m r x1 x2 x3 x4} (hE : Fits 265296893 m) (h4 : Keeps m r x4) :
    KeepsA m r (execSetSeq x1 x2 x3 x4) := by
  unfold execSetSeq
  exact (KeepsA.next (groupRow_keeps (hE.sub rfl) h4))

theorem fallowEntry_keeps {m r x1 x2 x3} (hE : Fits 198183917 m) (h1 : Keeps m r x1) :
    Keeps m r (fallowEntry x1 x2 x3) := by
  unfold fallowEntry
  extract_lets -underBinder -merge -useContext +onlyGivenNames vx1 vs2
  have hvs2 : Keeps m r vs2 := (advEntryGone_keeps (hE.sub rfl) (setFbState_keeps (hE.sub rfl) h1))
  clear_value vs2
  refine forAll_keeps (fun _ _ q3 => ?_) hvs2
  exact (endGroup_keeps (hE.sub rfl) (Keeps.wrf (k := 7) q3 (hE.sub rfl)))

theorem rebuildSown_keeps {m r x1 x2 x3} (hE : Fits 134219808 m) (h1 : Keeps m r x1) :
    Keeps m r (rebuildSown x1 x2 x3) := by
  unfold rebuildSown
  extract_lets -underBinder -merge -useContext +onlyGivenNames vx1 vr2
  have hvr2 : KeepsP m r vr2 := (encodeSlot_keeps (hE.sub rfl) h1)
  clear_value vr2
  exact (countFlags_keeps (hE.sub rfl) hvr2)

theorem serveDues_keeps {m r x1 x2 x3} (hE : Fits 198183917 m) (h1 : Keeps m r x1) :
    Keeps m r (serveDues x1 x2 x3) := by
  unfold serveDues
  extract_lets -underBinder -merge -useContext +onlyGivenNames vk1 vsrc2 vs3 vsrc4 vs5
  have hvs3 : Keeps m r vs3 := by
    unfold vs3
    refine keeps_ite (P := Keeps m r) (fun _ => ?_) (fun _ => ?_)
    · exact (rebuildSown_keeps (hE.sub rfl) (Keeps.upd 32 h1 (hE.sub rfl) rfl))
    · exact h1
  clear_value vs3
  have hvs5 : Keeps m r vs5 := (Keeps.upd 32 hvs3 (hE.sub rfl) rfl)
  clear_value vs5
  refine keeps_ite (P := Keeps m r) (fun _ => ?_) (fun _ => ?_)
  · exact h1
  · refine keeps_ite (P := Keeps m r) (fun _ => ?_) (fun _ => ?_)
    · refine keeps_ite (P := Keeps m r) (fun _ => ?_) (fun _ => ?_)
      · exact (fallowEntry_keeps (hE.sub rfl) hvs5)
      · exact hvs5
    · exact hvs3

theorem capturePass_keeps {m r x1 x2 x3} (hE : Fits 167772416 m) (h1 : Keeps m r x1) :
    Keeps m r (capturePass x1 x2 x3) := by
  unfold capturePass
  extract_lets -underBinder -merge -useContext +onlyGivenNames vx1 varr2
  refine keeps_ite (P := Keeps m r) (fun _ => ?_) (fun _ => ?_)
  · exact (capture_keeps (hE.sub rfl) h1)
  · exact h1

theorem advanceVersion_keeps {m r x1 x2 x3 x4 x5 x6} (hE : Fits 198183917 m) (h1 : Keeps m r x1) :
    Keeps m r (advanceVersion x1 x2 x3 x4 x5 x6) := by
  unfold advanceVersion
  extract_lets -underBinder -merge -useContext +onlyGivenNames vx1 vv2 vlost3 vsrc4 vs5 vs6 vs7 vs8 vs9 vs10 vs11
  have hvs5 : Keeps m r vs5 := (Keeps.upd 32 h1 (hE.sub rfl) rfl)
  clear_value vs5
  have hvs6 : Keeps m r vs6 := (Keeps.wrf (k := 8) (Keeps.wrf (k := 8) hvs5 (hE.sub rfl)) (hE.sub rfl))
  clear_value vs6
  have hvs7 : Keeps m r vs7 := (Keeps.wrf (k := 8) hvs6 (hE.sub rfl))
  clear_value vs7
  have hvs8 : Keeps m r vs8 := by
    unfold vs8
    refine keeps_ite (P := Keeps m r) (fun _ => ?_) (fun _ => ?_)
    · exact (Keeps.wrf (k := 8) hvs7 (hE.sub rfl))
    · exact (Keeps.wrf (k := 8) hvs7 (hE.sub rfl))
  clear_value vs8
  have hvs9 : Keeps m r vs9 := (capturePass_keeps (hE.sub rfl) (Keeps.wrf (k := 8) hvs8 (hE.sub rfl)))
  clear_value vs9
  have hvs10 : Keeps m r vs10 := (serveDues_keeps (hE.sub rfl) hvs9)
  clear_value vs10
  have hvs11 : Keeps m r vs11 := by
    unfold vs11
    refine forAll_keeps (fun _ _ q12 => ?_) hvs10
    refine keeps_ite (P := Keeps m r) (fun _ => ?_) (fun _ => ?_)
    · exact (turnStart_keeps (hE.sub rfl) q12)
    · exact q12
  clear_value vs11
  exact (retryJudgements_keeps (hE.sub rfl) hvs11)

theorem askFallow_keeps {m r x1 x2 x3} (hE : Fits 198183917 m) (h1 : Keeps m r x1) :
    Keeps m r (askFallow x1 x2 x3) := by
  unfold askFallow
  extract_lets -underBinder -merge -useContext +onlyGivenNames vsrc1
  refine keeps_ite (P := Keeps m r) (fun _ => ?_) (fun _ => ?_)
  · exact (Keeps.upd 32 h1 (hE.sub rfl) rfl)
  · exact (fallowEntry_keeps (hE.sub rfl) h1)

theorem modPass_keeps {m r x1 x2 x3} (hE : Fits 32 m) (h1 : Keeps m r x1) :
    Keeps m r (modPass x1 x2 x3) := by
  unfold modPass
  exact (setPasses_keeps (hE.sub rfl) h1)

theorem beginEntry_keeps {m r x1 x2} (hE : Fits 16777248 m) (h1 : Keeps m r x1) :
    Keeps m r (beginEntry x1 x2) := by
  unfold beginEntry
  split
  · exact h1
  · split
    · exact h1
    · extract_lets -underBinder -merge -useContext +onlyGivenNames vx1 vfl2 vs3 vfresh4 vc5
      have hvs3 : Keeps m r vs3 := (Keeps.wrf (k := 8) h1 (hE.sub rfl))
      clear_value vs3
      refine keeps_ite (P := Keeps m r) (fun _ => ?_) (fun _ => ?_)
      · exact h1
      · exact (modPass_keeps (hE.sub rfl) hvs3)

theorem copyHyper_keeps {m r x1 x2 x3 x4} (hE : Fits 16777216 m) (h1 : Keeps m r x1) :
    Keeps m r (copyHyper x1 x2 x3 x4) := by
  unfold copyHyper
  extract_lets -underBinder -merge -useContext +onlyGivenNames vw1
  refine keeps_ite (P := Keeps m r) (fun _ => ?_) (fun _ => ?_)
  · exact (Keeps.wrf (k := 8) (Keeps.wrf (k := 8) (wrEntry_keeps (k := 8) h1 (hE.sub rfl)) (hE.sub rfl)) (hE.sub rfl))
  · exact h1

theorem endPass_keeps {m r x1 x2} (hE : Fits 96 m) (h1 : Keeps m r x1) :
    Keeps m r (endPass x1 x2) := by
  unfold endPass
  split
  · exact h1
  · extract_lets -underBinder -merge -useContext +onlyGivenNames vs1 vw2 vleft3 vs4
    have hvs1 : Keeps m r vs1 := (setPasses_keeps (hE.sub rfl) h1)
    clear_value vs1
    have hvs4 : Keeps m r vs4 := (setVrdWork_keeps (hE.sub rfl) hvs1)
    clear_value vs4
    refine keeps_ite (P := Keeps m r) (fun _ => ?_) (fun _ => ?_)
    · exact h1
    · refine keeps_ite (P := Keeps m r) (fun _ => ?_) (fun _ => ?_)
      · exact (oweCommit_keeps (hE.sub rfl) hvs4)
      · exact hvs4

theorem entryLost_keeps {m r x1 x2 x3} (hE : Fits 198183917 m) (h1 : Keeps m r x1) :
    Keeps m r (entryLost x1 x2 x3) := by
  unfold entryLost
  extract_lets -underBinder -merge -useContext +onlyGivenNames vs1
  have hvs1 : Keeps m r vs1 := (event_keeps (hE.sub rfl) (Keeps.wrf (k := 8) h1 (hE.sub rfl)))
  clear_value vs1
  refine keeps_ite (P := Keeps m r) (fun _ => ?_) (fun _ => ?_)
  · exact (askFallow_keeps (hE.sub rfl) hvs1)
  · exact hvs1

theorem finishTensor_keeps {m r x1 x2 x3} (hE : Fits 198183917 m) (h1 : Keeps m r x1) :
    Keeps m r (finishTensor x1 x2 x3) := by
  unfold finishTensor
  split
  · exact h1
  · extract_lets -underBinder -merge -useContext +onlyGivenNames ves1 vs2
    have hvs2 : Keeps m r vs2 := (modPass_keeps (hE.sub rfl) h1)
    clear_value vs2
    refine forAll_keeps (fun _ _ q3 => ?_) hvs2
    refine keeps_ite (P := Keeps m r) (fun _ => ?_) (fun _ => ?_)
    · exact q3
    · exact (advanceVersion_keeps (hE.sub rfl) q3)

theorem judgeDormant_keeps {m r x1 x2 x3} (hE : Fits 150994944 m) (h1 : Keeps m r x1) :
    Keeps m r (judgeDormant x1 x2 x3) := by
  unfold judgeDormant
  extract_lets -underBinder -merge -useContext +onlyGivenNames vx1 vd2 vs3 vthr4
  have hvs3 : Keeps m r vs3 := (Keeps.wrf (k := 8) h1 (hE.sub rfl))
  clear_value vs3
  refine keeps_ite (P := Keeps m r) (fun _ => ?_) (fun _ => ?_)
  · exact (event_keeps (hE.sub rfl) hvs3)
  · exact hvs3

theorem nextEntry_keeps {m r x1 x2} (hE : Fits 16777312 m) (h1 : Keeps m r x1) :
    Keeps m r (nextEntry x1 x2) := by
  unfold nextEntry
  exact (endPass_keeps (hE.sub rfl) (beginEntry_keeps (hE.sub rfl) h1))

theorem noTillers_keeps {m r x1 x2} (hE : Fits 198183917 m) (h1 : Keeps m r x1) :
    Keeps m r (noTillers x1 x2) := by
  unfold noTillers
  extract_lets -underBinder -merge -useContext +onlyGivenNames vs1
  have hvs1 : Keeps m r vs1 := (cutPasses_keeps (hE.sub rfl) h1)
  clear_value vs1
  refine forAll_keeps (fun _ _ q2 => ?_) hvs1
  refine keeps_ite (P := Keeps m r) (fun _ => ?_) (fun _ => ?_)
  · exact (fallowEntry_keeps (hE.sub rfl) q2)
  · exact q2

theorem noteCommit_keeps {m r x1 x2 x3} (hE : Fits 64 m) (h1 : Keeps m r x1) :
    Keeps m r (noteCommit x1 x2 x3) := by
  unfold noteCommit
  extract_lets -underBinder -merge -useContext +onlyGivenNames vw1
  exact (setVrdWork_keeps (hE.sub rfl) h1)

theorem retireOlder_keeps {m r x1 x2 x3} (hE : Fits 156237956 m) (h1 : Keeps m r x1) :
    Keeps m r (retireOlder x1 x2 x3) := by
  unfold retireOlder
  extract_lets -underBinder -merge -useContext +onlyGivenNames vx1
  refine keeps_ite (P := Keeps m r) (fun _ => ?_) (fun _ => ?_)
  · exact (advRetire_keeps (hE.sub rfl) (Keeps.wrf (k := 8) h1 (hE.sub rfl)))
  · exact h1

theorem retireTiller_keeps {m r x1 x2 x3} (hE : Fits 198184957 m) (h1 : Keeps m r x1) :
    Keeps m r (retireTiller x1 x2 x3) := by
  unfold retireTiller
  extract_lets -underBinder -merge -useContext +onlyGivenNames vsrc1 vs2 vs3
  have hvs2 : Keeps m r vs2 := (Keeps.upd 16 h1 (hE.sub rfl) rfl)
  clear_value vs2
  have hvs3 : Keeps m r vs3 := (appendLedger_keeps (hE.sub rfl) hvs2)
  clear_value vs3
  refine keeps_ite (P := Keeps m r) (fun _ => ?_) (fun _ => ?_)
  · exact h1
  · refine keeps_ite (P := Keeps m r) (fun _ => ?_) (fun _ => ?_)
    · exact (noTillers_keeps (hE.sub rfl) hvs3)
    · exact hvs3

theorem strikeTiller_keeps {m r x1 x2} (hE : Fits 198184957 m) (h1 : Keeps m r x1) :
    Keeps m r (strikeTiller x1 x2) := by
  unfold strikeTiller
  extract_lets -underBinder -merge -useContext +onlyGivenNames vs1 vlist2 vsrc3 vs4
  have hvs1 : Keeps m r vs1 := (event_keeps (hE.sub rfl) h1)
  have hvs4 : Keeps m r vs4 := (Keeps.upd 16 hvs1 (hE.sub rfl) rfl)
  clear_value vs4
  refine keeps_ite (P := Keeps m r) (fun _ => ?_) (fun _ => ?_)
  · exact (retireTiller_keeps (hE.sub rfl) hvs4)
  · exact hvs4

theorem activateEntry_keeps {m r x1 x2 x3} (hE : Fits 198183917 m) (h1 : Keeps m r x1) :
    Keeps m r (activateEntry x1 x2 x3) := by
  unfold activateEntry
  extract_lets -underBinder -merge -useContext +onlyGivenNames vs1 vs2 vs3
  have hvs1 : Keeps m r vs1 := (setFbState_keeps (hE.sub rfl) h1)
  clear_value vs1
  have hvs2 : Keeps m r vs2 := (setBinStep_keeps (hE.sub rfl) hvs1)
  clear_value vs2
  have hvs3 : Keeps m r vs3 := (Keeps.wrf (k := 8) (Keeps.wrf (k := 8) (clearStats_keeps (hE.sub rfl) hvs2) (hE.sub rfl)) (hE.sub rfl))
  clear_value vs3
  refine keeps_ite (P := Keeps m r) (fun _ => ?_) (fun _ => ?_)
  · exact (fallowEntry_keeps (hE.sub rfl) hvs3)
  · exact hvs3

theorem entryAccept_keeps {m r x1 x2 x3 x4} (hE : Fits 16777216 m) (h1 : Keeps m r x1) :
    Keeps m r (entryAccept x1 x2 x3 x4) := by
  unfold entryAccept
  extract_lets -underBinder -merge -useContext +onlyGivenNames vs1
  have hvs1 : Keeps m r vs1 := (wrEntry_keeps (k := 8) h1 (hE.sub rfl))
  clear_value vs1
  refine keeps_ite (P := Keeps m r) (fun _ => ?_) (fun _ => ?_)
  · exact (setFbState_keeps (hE.sub rfl) hvs1)
  · exact (wrEntry_keeps (k := 8) h1 (hE.sub rfl))

theorem tilReport_keeps {m r x1 x2 x3 x4} (hE : Fits 16777216 m) (h1 : Keeps m r x1) :
    Keeps m r (tilReport x1 x2 x3 x4) := by
  unfold tilReport
  exact (Keeps.wr (k := 8) h1 (hE.sub rfl))

theorem entryCommit_keeps {m r x1 x2 x3 x4 x5} (hE : Fits 150999040 m) (h1 : Keeps m r x1) :
    KeepsW m r (entryCommit x1 x2 x3 x4 x5) := by
  unfold entryCommit
  refine keeps_ite (P := KeepsW m r) (fun _ => ?_) (fun _ => ?_)
  · exact h1
  · exact (commitEntry_keeps (hE.sub rfl) h1 (fun _ _ g1 => (entryAccept_keeps (hE.sub rfl) g1)) (fun _ _ g2 => (tilReport_keeps (hE.sub rfl) g2)))

theorem releaseCommand_keeps {m r x1 x2 x3} (hE : Fits 156237956 m) (h1 : Keeps m r x1) :
    KeepsP m r (releaseCommand x1 x2 x3) := by
  unfold releaseCommand
  extract_lets -underBinder -merge -useContext +onlyGivenNames vtensor1 vv2 ves3
  refine keeps_ite (P := KeepsP m r) (fun _ => ?_) (fun _ => ?_)
  · exact (KeepsP.mk h1)
  · refine keeps_ite (P := KeepsP m r) (fun _ => ?_) (fun _ => ?_)
    · exact (KeepsP.mk h1)
    · refine keeps_ite (P := KeepsP m r) (fun _ => ?_) (fun _ => ?_)
      · exact (KeepsP.mk h1)
      · show Keeps m r _
        refine forAll_keeps (fun _ _ q4 => ?_) h1
        exact (retireOlder_keeps (hE.sub rfl) q4)

theorem tilCommand_keeps {m r x1 x2 x3 x4 x5} (hE : Fits 265292797 m) (h1 : Keeps m r x1) :
    KeepsP m r (tilCommand x1 x2 x3 x4 x5) := by
  unfold tilCommand
  extract_lets -underBinder -merge -useContext +onlyGivenNames vst1 vk2 vr3 vnamed4
  have hvr3 : KeepsP m r vr3 := by
    unfold vr3
    split
    · refine keeps_ite (P := KeepsP m r) (fun _ => ?_) (fun _ => ?_)
      · exact (KeepsP.mk (settle_keeps (hE.sub rfl) (activateEntry_keeps (hE.sub rfl) h1)))
      · exact (KeepsP.mk h1)
    · refine keeps_ite (P := KeepsP m r) (fun _ => ?_) (fun _ => ?_)
      · exact (KeepsP.mk (settle_keeps (hE.sub rfl) (askFallow_keeps (hE.sub rfl) h1)))
      · exact (KeepsP.mk h1)
    · refine keeps_ite (P := KeepsP m r) (fun _ => ?_) (fun _ => ?_)
      · exact (KeepsP.mk (freeEntry_keeps (hE.sub rfl) h1))
      · exact (KeepsP.mk h1)
    · exact (releaseCommand_keeps (hE.sub rfl) h1)
    · exact (KeepsP.mk (Keeps.upd 32 h1 (hE.sub rfl) rfl))
    · exact (KeepsP.mk (Keeps.upd 32 h1 (hE.sub rfl) rfl))
    · extract_lets -underBinder -merge -useContext +onlyGivenNames vsrc5
      refine keeps_ite (P := KeepsP m r) (fun _ => ?_) (fun _ => ?_)
      · exact (KeepsP.mk h1)
      · refine keeps_ite (P := KeepsP m r) (fun _ => ?_) (fun _ => ?_)
        · exact (KeepsP.mk (Keeps.upd 32 h1 (hE.sub rfl) rfl))
        · exact (KeepsP.mk (rebuildSown_keeps (hE.sub rfl) h1))
    · exact (KeepsP.mk h1)
  clear_value vr3
  exact (KeepsP.mk (tilReport_keeps (hE.sub rfl) hvr3))

theorem tilCmdWrite_keeps {m r x1 x2 x3 x4} (hE : Fits 265296893 m) (h1 : Keeps m r x1) :
    KeepsW m r (tilCmdWrite x1 x2 x3 x4) := by
  unfold tilCmdWrite
  refine keeps_ite (P := KeepsW m r) (fun _ => ?_) (fun _ => ?_)
  · exact h1
  · exact (cmdWrite_keeps (k := 8) (hE.sub rfl) (hE.sub rfl) h1 (fun _ g1 => (tilCommand_keeps (hE.sub rfl) g1)))

theorem tilRow_keeps {m r x1 x2 x3 x4 x5 x6} (hE : Fits 265296893 m) (h1 : Keeps m r x1) :
    Keeps m r (tilRow x1 x2 x3 x4 x5 x6) := by
  unfold tilRow
  exact (mgApply_keeps (hE.sub rfl) h1 (fun _ g1 => (tilCmdWrite_keeps (hE.sub rfl) g1)))

theorem execEntryActivate_keeps {m r x1 x2 x3 x4} (hE : Fits 265296893 m) (h4 : Keeps m r x4) :
    KeepsA m r (execEntryActivate x1 x2 x3 x4) := by
  unfold execEntryActivate
  exact (KeepsA.next (tilRow_keeps (hE.sub rfl) h4))

theorem execEntryFallow_keeps {m r x1 x2 x3 x4} (hE : Fits 265296893 m) (h4 : Keeps m r x4) :
    KeepsA m r (execEntryFallow x1 x2 x3 x4) := by
  unfold execEntryFallow
  exact (KeepsA.next (tilRow_keeps (hE.sub rfl) h4))

theorem execEntryFree_keeps {m r x1 x2 x3 x4} (hE : Fits 265296893 m) (h4 : Keeps m r x4) :
    KeepsA m r (execEntryFree x1 x2 x3 x4) := by
  unfold execEntryFree
  exact (KeepsA.next (tilRow_keeps (hE.sub rfl) h4))

theorem execEntryPassDone_keeps {m r x1 x2} (hE : Fits 265292797 m) (h2 : Keeps m r x2) :
    KeepsA m r (execEntryPassDone x1 x2) := by
  unfold execEntryPassDone
  extract_lets -underBinder -merge -useContext +onlyGivenNames vn1
  split
  · exact (KeepsA.next h2)
  · split
    · exact (KeepsA.next h2)
    · extract_lets -underBinder -merge -useContext +onlyGivenNames vx2 vs3 vs4 vw5 vs6 vs7 vfp88 vs9 vs10
      have hvs3 : Keeps m r vs3 := (judgeDormant_keeps (hE.sub rfl) h2)
      clear_value vs3
      have hvs4 : Keeps m r vs4 := (setBinStep_keeps (hE.sub rfl) (clearStats_keeps (hE.sub rfl) (freeStepRecords_keeps (hE.sub rfl) hvs3)))
      clear_value vs4
      have hvs6 : Keeps m r vs6 := (setVrdWork_keeps (hE.sub rfl) hvs4)
      clear_value vs6
      have hvs7 : Keeps m r vs7 := by
        unfold vs7
        refine keeps_ite (P := Keeps m r) (fun _ => ?_) (fun _ => ?_)
        · exact (entryLost_keeps (hE.sub rfl) (noteCommit_keeps (hE.sub rfl) hvs6))
        · exact hvs6
      clear_value vs7
      have hvs9 : Keeps m r vs9 := (modPass_keeps (hE.sub rfl) hvs7)
      clear_value vs9
      have hvs10 : Keeps m r vs10 := by
        unfold vs10
        refine keeps_ite (P := Keeps m r) (fun _ => ?_) (fun _ => ?_)
        · exact (advanceVersion_keeps (hE.sub rfl) hvs9)
        · refine keeps_ite (P := Keeps m r) (fun _ => ?_) (fun _ => ?_)
          · exact hvs9
          · refine keeps_ite (P := Keeps m r) (fun _ => ?_) (fun _ => ?_)
            · exact (modPass_keeps (hE.sub rfl) hvs9)
            · exact (finishTensor_keeps (hE.sub rfl) hvs9)
      clear_value vs10
      refine keeps_ite (P := KeepsA m r) (fun _ => ?_) (fun _ => ?_)
      · exact (KeepsA.next h2)
      · exact (KeepsA.next (settle_keeps (hE.sub rfl) (nextEntry_keeps (hE.sub rfl) hvs10)))

theorem execEntryQuery_keeps {m r x1 x2 x3 x4} (hE : Fits 265296893 m) (h4 : Keeps m r x4) :
    KeepsA m r (execEntryQuery x1 x2 x3 x4) := by
  unfold execEntryQuery
  exact (KeepsA.next (tilRow_keeps (hE.sub rfl) h4))

theorem execFbkEntryCommit_keeps {m r x1 x2 x3 x4 x5} (hE : Fits 184553728 m) (h5 : Keeps m r x5) :
    KeepsA m r (execFbkEntryCommit x1 x2 x3 x4 x5) := by
  unfold execFbkEntryCommit
  exact (KeepsA.next (mgApply_keeps (hE.sub rfl) h5 (fun _ g1 => (entryCommit_keeps (hE.sub rfl) g1))))

theorem hbmWindowWrite_keeps {m r x1 x2 x3 x4} (hE : Fits 2080 m) (h1 : Keeps m r x1) :
    KeepsW m r (hbmWindowWrite x1 x2 x3 x4) := by
  unfold hbmWindowWrite
  extract_lets -underBinder -merge -useContext +onlyGivenNames vbase1
  refine keeps_ite (P := KeepsW m r) (fun _ => ?_) (fun _ => ?_)
  · exact h1
  · exact (hbmWrite_keeps (hE.sub rfl) h1)

theorem execHbmWindowWrite_keeps {m r x1 x2 x3 x4 x5} (hE : Fits 167774496 m) (h5 : Keeps m r x5) :
    KeepsA m r (execHbmWindowWrite x1 x2 x3 x4 x5) := by
  unfold execHbmWindowWrite
  exact (KeepsA.next (mgApply_keeps (hE.sub rfl) h5 (fun _ g1 => (hbmWindowWrite_keeps (hE.sub rfl) g1))))

theorem hypWrite_keeps {m r x1 x2 x3 x4 x5 x6} (hE : Fits 150999040 m) (h1 : Keeps m r x1) :
    KeepsW m r (hypWrite x1 x2 x3 x4 x5 x6) := by
  unfold hypWrite
  extract_lets -underBinder -merge -useContext +onlyGivenNames vs1
  have hvs1 : Keeps m r vs1 := (regWrite_keeps (k := 8) (hE.sub rfl) (hE.sub rfl) h1)
  clear_value vs1
  refine keeps_ite (P := KeepsW m r) (fun _ => ?_) (fun _ => ?_)
  · exact h1
  · refine keeps_ite (P := KeepsW m r) (fun _ => ?_) (fun _ => ?_)
    · refine keeps_ite (P := KeepsW m r) (fun _ => ?_) (fun _ => ?_)
      · exact (Keeps.wrf (k := 8) hvs1 (hE.sub rfl))
      · exact (Keeps.wrf (k := 8) (Keeps.wrf (k := 8) hvs1 (hE.sub rfl)) (hE.sub rfl))
    · exact hvs1

theorem execHypArm_keeps {m r x1 x2 x3 x4 x5} (hE : Fits 184553728 m) (h5 : Keeps m r x5) :
    KeepsA m r (execHypArm x1 x2 x3 x4 x5) := by
  unfold execHypArm
  exact (KeepsA.next (mgApply_keeps (hE.sub rfl) h5 (fun _ g1 => (hypWrite_keeps (hE.sub rfl) g1))))

theorem execPassHold_keeps {m r x1 x2 x3 x4} (hE : Fits 265296893 m) (h4 : Keeps m r x4) :
    KeepsA m r (execPassHold x1 x2 x3 x4) := by
  unfold execPassHold
  exact (KeepsA.next (tilRow_keeps (hE.sub rfl) h4))

theorem execPassRelease_keeps {m r x1 x2 x3 x4} (hE : Fits 265296893 m) (h4 : Keeps m r x4) :
    KeepsA m r (execPassRelease x1 x2 x3 x4) := by
  unfold execPassRelease
  exact (KeepsA.next (tilRow_keeps (hE.sub rfl) h4))

theorem execPassStart_keeps {m r x1 x2} (hE : Fits 265292797 m) (h2 : Keeps m r x2) :
    KeepsA m r (execPassStart x1 x2) := by
  unfold execPassStart
  refine keeps_ite (P := KeepsA m r) (fun _ => ?_) (fun _ => ?_)
  · exact (KeepsA.next h2)
  · split
    · exact (KeepsA.next h2)
    · extract_lets -underBinder -merge -useContext +onlyGivenNames ves1 vs12 vs23 vs34
      have hvs12 : Keeps m r vs12 := by
        unfold vs12
        refine forAll_keeps (fun _ _ q5 => ?_) h2
        exact (copyHyper_keeps (hE.sub rfl) q5)
      clear_value vs12
      have hvs23 : Keeps m r vs23 := by
        unfold vs23
        refine forAll_keeps (fun _ _ q6 => ?_) hvs12
        exact (retireOlder_keeps (hE.sub rfl) q6)
      clear_value vs23
      have hvs34 : Keeps m r vs34 := (setPasses_keeps (hE.sub rfl) hvs23)
      clear_value vs34
      exact (KeepsA.next (settle_keeps (hE.sub rfl) (nextEntry_keeps (hE.sub rfl) hvs34)))

theorem loseOlder_keeps {m r x1 x2 x3} (hE : Fits 156237956 m) (h1 : Keeps m r x1) :
    Keeps m r (loseOlder x1 x2 x3) := by
  unfold loseOlder
  exact (event_keeps (hE.sub rfl) (retireOlder_keeps (hE.sub rfl) h1))

theorem rebuildWord_keeps {m r x1 x2 x3 x4} (hE : Fits 134219808 m) (h1 : Keeps m r x1) :
    Keeps m r (rebuildWord x1 x2 x3 x4) := by
  unfold rebuildWord
  extract_lets -underBinder -merge -useContext +onlyGivenNames vx1 vt2
  have hvt2 : Keeps m r vt2 := (encodeSlot_keeps (hE.sub rfl) h1)
  clear_value vt2
  exact (event_keeps (hE.sub rfl) (hbmWrite_keeps (hE.sub rfl) h1))

theorem loseCurrent_keeps {m r x1 x2 x3} (hE : Fits 139460772 m) (h1 : Keeps m r x1) :
    Keeps m r (loseCurrent x1 x2 x3) := by
  unfold loseCurrent
  extract_lets -underBinder -merge -useContext +onlyGivenNames vk1 vsrc2 vs3
  have hvs3 : Keeps m r vs3 := (Keeps.upd 32 h1 (hE.sub rfl) rfl)
  clear_value vs3
  exact (event_keeps (hE.sub rfl) (advRetire_keeps (hE.sub rfl) hvs3))

theorem slotWordLost_keeps {m r x1 x2 x3 x4 x5} (hE : Fits 156240036 m) (h1 : Keeps m r x1) :
    Keeps m r (slotWordLost x1 x2 x3 x4 x5) := by
  unfold slotWordLost
  extract_lets -underBinder -merge -useContext +onlyGivenNames vx1
  refine keeps_ite (P := Keeps m r) (fun _ => ?_) (fun _ => ?_)
  · refine keeps_ite (P := Keeps m r) (fun _ => ?_) (fun _ => ?_)
    · exact (loseCurrent_keeps (hE.sub rfl) h1)
    · exact (rebuildWord_keeps (hE.sub rfl) h1)
  · refine keeps_ite (P := Keeps m r) (fun _ => ?_) (fun _ => ?_)
    · exact (loseOlder_keeps (hE.sub rfl) h1)
    · exact h1

theorem scrubLost_keeps {m r x1 x2 x3} (hE : Fits 198183917 m) (h1 : Keeps m r x1) :
    Keeps m r (scrubLost x1 x2 x3) := by
  unfold scrubLost
  split
  · exact h1
  · extract_lets -underBinder -merge -useContext +onlyGivenNames vx1
    split
    · exact (slotWordLost_keeps (hE.sub rfl) h1)
    · exact (slotWordLost_keeps (hE.sub rfl) h1)
    · exact h1
    · exact h1
    · exact (entryLost_keeps (hE.sub rfl) (loseWord_keeps (hE.sub rfl) h1))

theorem execPatrolScrub_keeps {m r x1 x2 x3} (hE : Fits 265292797 m) (h3 : Keeps m r x3) :
    KeepsA m r (execPatrolScrub x1 x2 x3) := by
  unfold execPatrolScrub
  extract_lets -underBinder -merge -useContext +onlyGivenNames vaddr1 vsrc2 vs3
  have hvs3 : Keeps m r vs3 := (Keeps.upd 32 h3 (hE.sub rfl) rfl)
  clear_value vs3
  split
  · exact (KeepsA.next hvs3)
  · exact (KeepsA.next (count_keeps (hE.sub rfl) hvs3))
  · exact (KeepsA.next (settle_keeps (hE.sub rfl) (scrubLost_keeps (hE.sub rfl) (count_keeps (hE.sub rfl) hvs3))))

theorem execRebuildSown_keeps {m r x1 x2 x3 x4} (hE : Fits 265296893 m) (h4 : Keeps m r x4) :
    KeepsA m r (execRebuildSown x1 x2 x3 x4) := by
  unfold execRebuildSown
  exact (KeepsA.next (tilRow_keeps (hE.sub rfl) h4))

theorem execReleaseVersion_keeps {m r x1 x2 x3 x4} (hE : Fits 265296893 m) (h4 : Keeps m r x4) :
    KeepsA m r (execReleaseVersion x1 x2 x3 x4) := by
  unfold execReleaseVersion
  exact (KeepsA.next (tilRow_keeps (hE.sub rfl) h4))

theorem reencodeEntry_keeps {m r x1 x2 x3 x4 x5} (hE : Fits 150997024 m) (h4 : Keeps m r x4) :
    Keeps m r (reencodeEntry x1 x2 x3 x4 x5) := by
  unfold reencodeEntry
  extract_lets -underBinder -merge -useContext +onlyGivenNames vx1 vr2 vold3 vkept4 vs5
  have hvr2 : KeepsP m r vr2 := (encodeSlot_keeps (hE.sub rfl) h4)
  clear_value vr2
  have hvs5 : Keeps m r vs5 := (Keeps.wrf (k := 8) hvr2 (hE.sub rfl))
  clear_value vs5
  refine keeps_ite (P := Keeps m r) (fun _ => ?_) (fun _ => ?_)
  · exact h4
  · exact (countFlags_keeps (hE.sub rfl) hvs5)

theorem execSecondEncodingEnd_keeps {m r x1 x2} (hE : Fits 265292797 m) (h2 : Keeps m r x2) :
    KeepsA m r (execSecondEncodingEnd x1 x2) := by
  unfold execSecondEncodingEnd
  extract_lets -underBinder -merge -useContext +onlyGivenNames vn1
  split
  · exact (KeepsA.next h2)
  · split
    · exact (KeepsA.next h2)
    · extract_lets -underBinder -merge -useContext +onlyGivenNames vmine2 va3 vfmt4 vcode5 vs6 vs7 vs8
      have hvs6 : Keeps m r vs6 := by
        unfold vs6
        refine forAll_keeps (fun _ _ q9 => ?_) h2
        exact (reencodeEntry_keeps (hE.sub rfl) q9)
      clear_value vs6
      have hvs7 : Keeps m r vs7 := (noteCommit_keeps (hE.sub rfl) (count_keeps (hE.sub rfl) hvs6))
      clear_value vs7
      have hvs8 : Keeps m r vs8 := (modPass_keeps (hE.sub rfl) hvs7)
      clear_value vs8
      exact (KeepsA.next (settle_keeps (hE.sub rfl) (nextEntry_keeps (hE.sub rfl) (finishTensor_keeps (hE.sub rfl) hvs8))))

theorem execSowVersionReadDone_keeps {m r x1 x2 x3} (hE : Fits 16777248 m) (h3 : Keeps m r x3) :
    KeepsA m r (execSowVersionReadDone x1 x2 x3) := by
  unfold execSowVersionReadDone
  extract_lets -underBinder -merge -useContext +onlyGivenNames vkey1 vsrc2 vs13
  have hvs13 : Keeps m r vs13 := (Keeps.upd 32 h3 (hE.sub rfl) rfl)
  clear_value vs13
  refine KeepsA.next ?_
  refine forAll_keeps (fun _ _ q4 => ?_) hvs13
  exact (beginEntry_keeps (hE.sub rfl) q4)

theorem storeGroup_keeps {m r x1 x2 x3 x4 x5 x6} (hE : Fits 150997024 m) (h1 : Keeps m r x1) :
    Keeps m r (storeGroup x1 x2 x3 x4 x5 x6) := by
  unfold storeGroup
  extract_lets -underBinder -merge -useContext +onlyGivenNames vk1 vacc2 venc3 vsat4 vs5 vfp86 veach7 vs8
  have hvacc2 : KeepsG m r vacc2 := (passGroup_keeps (hE.sub rfl) h1)
  clear_value vacc2
  have hvenc3 : KeepsP m r venc3 := (encodeGroup_keeps (hE.sub rfl) hvacc2)
  clear_value venc3
  have hvs5 : Keeps m r vs5 := (Keeps.wrf (k := 8) hvenc3 (hE.sub rfl))
  clear_value vs5
  have hvs8 : Keeps m r vs8 := (countFlags_keeps (hE.sub rfl) hvs5)
  clear_value vs8
  exact (modPass_keeps (hE.sub rfl) hvs8)

theorem noteReads_keeps {m r x1 x2 x3 x4 x5} (hE : Fits 134217824 m) (h1 : Keeps m r x1) :
    Keeps m r (noteReads x1 x2 x3 x4 x5) := by
  unfold noteReads
  extract_lets -underBinder -merge -useContext +onlyGivenNames vce1 vue2 vs3 vs4 vs5 vs6 vx7 vs8
  have hvs3 : Keeps m r vs3 := by
    unfold vs3
    refine keeps_ite (P := Keeps m r) (fun _ => ?_) (fun _ => ?_)
    · exact h1
    · exact (count_keeps (hE.sub rfl) h1)
  clear_value vs3
  have hvs4 : Keeps m r vs4 := by
    unfold vs4
    refine keeps_ite (P := Keeps m r) (fun _ => ?_) (fun _ => ?_)
    · exact hvs3
    · exact (count_keeps (hE.sub rfl) hvs3)
  clear_value vs4
  have hvs5 : Keeps m r vs5 := by
    unfold vs5
    refine forAll_keeps (fun _ _ q9 => ?_) hvs4
    exact (event_keeps (hE.sub rfl) q9)
  clear_value vs5
  have hvs6 : Keeps m r vs6 := by
    unfold vs6
    refine keeps_ite (P := Keeps m r) (fun _ => ?_) (fun _ => ?_)
    · exact (noteCommit_keeps (hE.sub rfl) hvs5)
    · exact hvs5
  clear_value vs6
  have hvs8 : Keeps m r vs8 := by
    unfold vs8
    refine forAll_keeps (fun _ _ q10 => ?_) hvs6
    exact (loseWord_keeps (hE.sub rfl) q10)
  clear_value vs8
  refine keeps_ite (P := Keeps m r) (fun _ => ?_) (fun _ => ?_)
  · exact (modPass_keeps (hE.sub rfl) hvs8)
  · exact hvs8

theorem execTillerGroupComplete_keeps {m r x1 x2 x3 x4 x5} (hE : Fits 265293821 m) (h5 : Keeps m r x5) :
    KeepsA m r (execTillerGroupComplete x1 x2 x3 x4 x5) := by
  unfold execTillerGroupComplete
  extract_lets -underBinder -merge -useContext +onlyGivenNames vs11
  have hvs11 : Keeps m r vs11 := (beginEntry_keeps (hE.sub rfl) h5)
  clear_value vs11
  split
  · exact (KeepsA.next h5)
  · split
    · exact (KeepsA.next h5)
    · extract_lets -underBinder -merge -useContext +onlyGivenNames vx2 vreads3 vue4 vfaults5 vs26 vsplit7 vs38 vs49 vs510
      have hvs26 : Keeps m r vs26 := (noteReads_keeps (hE.sub rfl) hvs11)
      clear_value vs26
      have hvs38 : Keeps m r vs38 := by
        unfold vs38
        refine keeps_ite (P := Keeps m r) (fun _ => ?_) (fun _ => ?_)
        · exact (modPass_keeps (hE.sub rfl) (event_keeps (hE.sub rfl) hvs26))
        · exact (storeGroup_keeps (hE.sub rfl) hvs26)
      clear_value vs38
      have hvs49 : Keeps m r vs49 := (modPass_keeps (hE.sub rfl) hvs38)
      clear_value vs49
      have hvs510 : Keeps m r vs510 := by
        unfold vs510
        refine keeps_ite (P := Keeps m r) (fun _ => ?_) (fun _ => ?_)
        · exact hvs49
        · exact (strikeTiller_keeps (hE.sub rfl) hvs49)
      clear_value vs510
      refine keeps_ite (P := KeepsA m r) (fun _ => ?_) (fun _ => ?_)
      · exact (KeepsA.next h5)
      · exact (KeepsA.next (settle_keeps (hE.sub rfl) hvs510))

theorem addPiece_keeps {m r x1 x2 x3 x4 x5 x6 x7 x8} (hE : Fits 128 m) (h1 : Keeps m r x1) :
    Keeps m r (addPiece x1 x2 x3 x4 x5 x6 x7 x8) := by
  unfold addPiece
  extract_lets -underBinder -merge -useContext +onlyGivenNames vold1 vc2 vc3
  exact (Keeps.upd 128 h1 (hE.sub rfl) rfl)

theorem trimCopies_keeps {m r x1 x2 x3} (hE : Fits 139460740 m) (h1 : Keeps m r x1) :
    Keeps m r (trimCopies x1 x2 x3) := by
  unfold trimCopies
  refine forAll_keeps (fun _ _ q1 => ?_) h1
  refine keeps_ite (P := Keeps m r) (fun _ => ?_) (fun _ => ?_)
  · exact (advDiscard_keeps (hE.sub rfl) q1)
  · exact q1

theorem advPlotWrite_keeps {m r x1 x2 x3 x4 x5} (hE : Fits 139464836 m) (h1 : Keeps m r x1) :
    KeepsW m r (advPlotWrite x1 x2 x3 x4 x5) := by
  unfold advPlotWrite
  extract_lets -underBinder -merge -useContext +onlyGivenNames vs1
  have hvs1 : Keeps m r vs1 := (regWrite_keeps (k := 6) (hE.sub rfl) (hE.sub rfl) h1)
  clear_value vs1
  refine keeps_ite (P := KeepsW m r) (fun _ => ?_) (fun _ => ?_)
  · exact h1
  · refine keeps_ite (P := KeepsW m r) (fun _ => ?_) (fun _ => ?_)
    · exact (advDiscard_keeps (hE.sub rfl) hvs1)
    · exact (trimCopies_keeps (hE.sub rfl) hvs1)

theorem execAdvPlotWrite_keeps {m r x1 x2 x3 x4 x5} (hE : Fits 173019524 m) (h5 : Keeps m r x5) :
    KeepsA m r (execAdvPlotWrite x1 x2 x3 x4 x5) := by
  unfold execAdvPlotWrite
  exact (KeepsA.next (mgApply_keeps (hE.sub rfl) h5 (fun _ g1 => (advPlotWrite_keeps (hE.sub rfl) g1))))

theorem execAdvanceFetch_keeps {m r x1 x2 x3 x4} (hE : Fits 139462820 m) (h4 : Keeps m r x4) :
    KeepsA m r (execAdvanceFetch x1 x2 x3 x4) := by
  unfold execAdvanceFetch
  extract_lets -underBinder -merge -useContext +onlyGivenNames vn1
  refine keeps_ite (P := KeepsA m r) (fun _ => ?_) (fun _ => ?_)
  · exact (KeepsA.next h4)
  · split
    · exact (KeepsA.next h4)
    · extract_lets -underBinder -merge -useContext +onlyGivenNames vx2 vi3 vat4 vs5
      have hvs5 : Keeps m r vs5 := by
        unfold vs5
        refine keeps_ite (P := Keeps m r) (fun _ => ?_) (fun _ => ?_)
        · exact (count_keeps (hE.sub rfl) h4)
        · exact h4
      clear_value vs5
      refine keeps_ite (P := KeepsA m r) (fun _ => ?_) (fun _ => ?_)
      · exact (KeepsA.next (addPiece_keeps (hE.sub rfl) (rebuildWord_keeps (hE.sub rfl) (count_keeps (hE.sub rfl) h4))))
      · split
        · exact (KeepsA.next (count_keeps (hE.sub rfl) hvs5))
        · extract_lets -underBinder -merge -useContext +onlyGivenNames vm6 vs7 vs8
          have hvs7 : Keeps m r vs7 := by
            unfold vs7
            refine keeps_ite (P := Keeps m r) (fun _ => ?_) (fun _ => ?_)
            · exact (count_keeps (hE.sub rfl) hvs5)
            · exact hvs5
          clear_value vs7
          have hvs8 : Keeps m r vs8 := (fillBufs_keeps (hE.sub rfl) (claim_keeps (hE.sub rfl) hvs7))
          clear_value vs8
          exact (KeepsA.next (showHeld_keeps (hE.sub rfl) (count_keeps (hE.sub rfl) (addPiece_keeps (hE.sub rfl) hvs8))))

theorem drillWatchSet_keeps {m r x1 x2 x3 x4} (hE : Fits 138416128 m) (h1 : Keeps m r x1) :
    KeepsW m r (drillWatchSet x1 x2 x3 x4) := by
  unfold drillWatchSet
  extract_lets -underBinder -merge -useContext +onlyGivenNames vs1
  have hvs1 : Keeps m r vs1 := (regWrite_keeps (k := 6) (hE.sub rfl) (hE.sub rfl) h1)
  clear_value vs1
  refine keeps_ite (P := KeepsW m r) (fun _ => ?_) (fun _ => ?_)
  · exact h1
  · exact (Keeps.wr (k := 6) (Keeps.wr (k := 6) hvs1 (hE.sub rfl)) (hE.sub rfl))

theorem endRun_keeps {m r x1 x2 x3 x4 x5 x6 x7} (hE : Fits 265359357 m) (h1 : Keeps m r x1) :
    Keeps m r (endRun x1 x2 x3 x4 x5 x6 x7) := by
  unfold endRun
  split
  · exact h1
  · extract_lets -underBinder -merge -useContext +onlyGivenNames vg1 vc2 vmine3 vprog4 velems5 vinputs6 vbefore7 vsrc8 vs9 vs10 vs11 vx12 vc13 vs14
    have hvs9 : Keeps m r vs9 := (Keeps.upd 16 h1 (hE.sub rfl) rfl)
    clear_value vs9
    have hvs10 : Keeps m r vs10 := (noteCycles_keeps (hE.sub rfl) hvs9)
    clear_value vs10
    have hvs11 : Keeps m r vs11 := by
      unfold vs11
      refine keeps_ite (P := Keeps m r) (fun _ => ?_) (fun _ => ?_)
      · exact (watchRun_keeps (hE.sub rfl) hvs10)
      · exact hvs10
    clear_value vs11
    have hvs14 : Keeps m r vs14 := (setChunk_keeps (hE.sub rfl) hvs11)
    clear_value vs14
    refine keeps_ite (P := Keeps m r) (fun _ => ?_) (fun _ => ?_)
    · exact h1
    · refine keeps_ite (P := Keeps m r) (fun _ => ?_) (fun _ => ?_)
      · exact (chunkFailed_keeps (hE.sub rfl) hvs11)
      · refine keeps_ite (P := Keeps m r) (fun _ => ?_) (fun _ => ?_)
        · exact (judgeChunk_keeps (hE.sub rfl) hvs11)
        · refine keeps_ite (P := Keeps m r) (fun _ => ?_) (fun _ => ?_)
          · exact hvs14
          · exact (compareChunk_keeps (hE.sub rfl) hvs14)

theorem execD2dRetry_keeps {m r x1 x2} (hE : Fits 16 m) (h2 : Keeps m r x2) :
    KeepsA m r (execD2dRetry x1 x2) := by
  unfold execD2dRetry
  extract_lets -underBinder -merge -useContext +onlyGivenNames vsrc1
  refine KeepsA.next ?_
  refine keeps_ite (P := Keeps m r) (fun _ => ?_) (fun _ => ?_)
  · exact (Keeps.upd 16 h2 (hE.sub rfl) rfl)
  · exact h2

theorem retireIfDone_keeps {m r x1 x2} (hE : Fits 265359357 m) (h1 : Keeps m r x1) :
    Keeps m r (retireIfDone x1 x2) := by
  unfold retireIfDone
  refine keeps_ite (P := Keeps m r) (fun _ => ?_) (fun _ => ?_)
  · exact (finishRetire_keeps (hE.sub rfl) h1)
  · exact h1

theorem execDrillRunEnd_keeps {m r x1 x2 x3 x4 x5} (hE : Fits 265359357 m) (h5 : Keeps m r x5) :
    KeepsA m r (execDrillRunEnd x1 x2 x3 x4 x5) := by
  unfold execDrillRunEnd
  extract_lets -underBinder -merge -useContext +onlyGivenNames vu1
  split
  · exact (KeepsA.next (settle_keeps (hE.sub rfl) (retireIfDone_keeps (hE.sub rfl) (endRun_keeps (hE.sub rfl) (setJob_keeps (hE.sub rfl) h5)))))
  · exact (KeepsA.next h5)

theorem execDrillWatchWrite_keeps {m r x1 x2 x3 x4 x5} (hE : Fits 171970816 m) (h5 : Keeps m r x5) :
    KeepsA m r (execDrillWatchWrite x1 x2 x3 x4 x5) := by
  unfold execDrillWatchWrite
  exact (KeepsA.next (mgApply_keeps (hE.sub rfl) h5 (fun _ g1 => (drillWatchSet_keeps (hE.sub rfl) g1))))

theorem execHbmRefresh_keeps {m r x1 x2} (hE : Fits 16 m) (h2 : Keeps m r x2) :
    KeepsA m r (execHbmRefresh x1 x2) := by
  unfold execHbmRefresh
  extract_lets -underBinder -merge -useContext +onlyGivenNames vsrc1
  refine KeepsA.next ?_
  refine keeps_ite (P := Keeps m r) (fun _ => ?_) (fun _ => ?_)
  · exact (Keeps.upd 16 h2 (hE.sub rfl) rfl)
  · exact h2

theorem hubWatchSet_keeps {m r x1 x2 x3 x4} (hE : Fits 138416128 m) (h1 : Keeps m r x1) :
    KeepsW m r (hubWatchSet x1 x2 x3 x4) := by
  unfold hubWatchSet
  extract_lets -underBinder -merge -useContext +onlyGivenNames vs1
  have hvs1 : Keeps m r vs1 := (regWrite_keeps (k := 6) (hE.sub rfl) (hE.sub rfl) h1)
  clear_value vs1
  refine keeps_ite (P := KeepsW m r) (fun _ => ?_) (fun _ => ?_)
  · exact h1
  · exact (Keeps.wrf (k := 6) hvs1 (hE.sub rfl))

theorem execHubWatchWrite_keeps {m r x1 x2 x3 x4} (hE : Fits 171970816 m) (h4 : Keeps m r x4) :
    KeepsA m r (execHubWatchWrite x1 x2 x3 x4) := by
  unfold execHubWatchWrite
  exact (KeepsA.next (mgApply_keeps (hE.sub rfl) h4 (fun _ g1 => (hubWatchSet_keeps (hE.sub rfl) g1))))

theorem execNoJudgeTimeout_keeps {m r x1 x2 x3 x4} (hE : Fits 265292797 m) (h4 : Keeps m r x4) :
    KeepsA m r (execNoJudgeTimeout x1 x2 x3 x4) := by
  unfold execNoJudgeTimeout
  extract_lets -underBinder -merge -useContext +onlyGivenNames vkey1
  split
  · exact (KeepsA.next h4)
  · extract_lets -underBinder -merge -useContext +onlyGivenNames vc2
    refine keeps_ite (P := KeepsA m r) (fun _ => ?_) (fun _ => ?_)
    · exact (KeepsA.next (settle_keeps (hE.sub rfl) (chunkFailed_keeps (hE.sub rfl) h4)))
    · exact (KeepsA.next h4)

theorem journal_keeps {m r x1 x2 x3 x4 x5 x6} (hE : Fits 1024 m) (h1 : Keeps m r x1) :
    Keeps m r (journal x1 x2 x3 x4 x5 x6) := by
  unfold journal
  extract_lets -underBinder -merge -useContext +onlyGivenNames vseq1 vw02 vr3 vi4 vsrc5 vs6
  have hvs6 : Keeps m r vs6 := (Keeps.upd 1024 h1 (hE.sub rfl) rfl)
  clear_value vs6
  exact (pushFlash_keeps (hE.sub rfl) hvs6)

theorem rewriteFlash_keeps {m r x1 x2 x3 x4} (hE : Fits 16384 m) (h1 : Keeps m r x1) :
    Keeps m r (rewriteFlash x1 x2 x3 x4) :=
  setFlash_keeps (hE.sub rfl) h1 fun h => memoryWf_writeBytes _ _ (memoryWf_filter _ (flashOf_wf h))

theorem takeLedger_keeps {m r x1} (hE : Fits 17408 m) (h1 : Keeps m r x1) :
    Keeps m r (takeLedger x1) := by
  unfold takeLedger
  extract_lets -underBinder -merge -useContext +onlyGivenNames vrs1 vbank2 vsrc3 vkept4 vs5 vsrc6
  have hvs5 : Keeps m r vs5 := (rewriteFlash_keeps (hE.sub rfl) (rewriteFlash_keeps (hE.sub rfl) h1))
  clear_value vs5
  refine keeps_ite (P := Keeps m r) (fun _ => ?_) (fun _ => ?_)
  · exact (Keeps.upd 1024 h1 (hE.sub rfl) rfl)
  · exact (Keeps.upd 1024 hvs5 (hE.sub rfl) rfl)

end Sys2Proof.Machine
end

