-- ==== Sys2Proof/Laws/KeepsLinks.lean ====
section
/-! SUPPORT. Every operation of the Gleaner, schedulers, links, resets, the electrical side and faults keeps what `Keeps` names. -/

namespace Sys2Proof.Machine

set_option Elab.async false

open Sys2Proof

@[simp] theorem keyStatus_from {b k : Nat} (hb : b ≤ 0x30000000) : b ≤ keyStatus k := by
  unfold keyStatus; split <;> exact statusAddr_from hb

theorem allocFor_keeps {m r x1 x2 x3 x4 x5 x6} (hE : Fits 135266309 m) (h1 : Keeps m r x1) :
    Keeps m r (allocFor x1 x2 x3 x4 x5 x6) := by
  unfold allocFor
  split
  · split
    · exact (KeepsOP.get (allocStore_keeps (hE.sub rfl) h1) (by assumption))
    · exact h1
  · split
    · exact h1
    · refine keeps_ite (P := Keeps m r) (fun _ => ?_) (fun _ => ?_)
      · exact (setChain_keeps (hE.sub rfl) (chargeQuota_keeps (hE.sub rfl) (KeepsOP.get (allocChain_keeps (hE.sub rfl) h1) (by assumption))))
      · exact (count_keeps (hE.sub rfl) h1)

theorem gleanCfgWrite_keeps {m r x1 x2 x3} (hE : Fits 135270404 m) (h1 : Keeps m r x1) :
    KeepsW m r (gleanCfgWrite x1 x2 x3) := by
  unfold gleanCfgWrite
  extract_lets -underBinder -merge -useContext +onlyGivenNames vs1 vsrc2
  have hvs1 : Keeps m r vs1 := (regWrite_keeps (k := 4) (hE.sub rfl) (hE.sub rfl) h1)
  clear_value vs1
  exact (Keeps.upd 4 hvs1 (hE.sub rfl) rfl)

theorem execGleanCfgWrite_keeps {m r x1 x2 x3} (hE : Fits 168825092 m) (h3 : Keeps m r x3) :
    KeepsA m r (execGleanCfgWrite x1 x2 x3) := by
  unfold execGleanCfgWrite
  exact (KeepsA.next (mgApply_keeps (hE.sub rfl) h3 (fun _ g1 => (gleanCfgWrite_keeps (hE.sub rfl) g1))))

theorem setGleanFlag_keeps {m r x1 x2 x3} (hE : Fits 4 m) (h1 : Keeps m r x1) :
    Keeps m r (setGleanFlag x1 x2 x3) := by
  unfold setGleanFlag
  extract_lets -underBinder -merge -useContext +onlyGivenNames vt1 vsrc2
  exact (Keeps.upd 4 h1 (hE.sub rfl) rfl)

theorem reclaim_keeps {m r x1 x2 x3} (hE : Fits 135266308 m) (h1 : Keeps m r x1) :
    Keeps m r (reclaim x1 x2 x3) := by
  unfold reclaim
  extract_lets -underBinder -merge -useContext +onlyGivenNames vc1 vs2 vs3 vsrc4 vs5
  have hvs2 : Keeps m r vs2 := (grnReport_keeps (hE.sub rfl) h1)
  clear_value vs2
  have hvs3 : Keeps m r vs3 := (freeOne_keeps (hE.sub rfl) hvs2)
  clear_value vs3
  have hvs5 : Keeps m r vs5 := (Keeps.upd 4 hvs3 (hE.sub rfl) rfl)
  clear_value vs5
  refine keeps_ite (P := Keeps m r) (fun _ => ?_) (fun _ => ?_)
  · exact hvs5
  · exact (setGleanFlag_keeps (hE.sub rfl) (Keeps.wr (k := 4) hvs5 (hE.sub rfl)))

theorem gleanBuf_keeps {m r x1 x2 x3} (hE : Fits 135266308 m) (h2 : Keeps m r x2) :
    Keeps m r (gleanBuf x1 x2 x3) := by
  unfold gleanBuf
  extract_lets -underBinder -merge -useContext +onlyGivenNames vst1 vp2 vk3 vage4 vsrc5 vs6 vc7 vsrc8
  have hvs6 : Keeps m r vs6 := by
    unfold vs6
    refine keeps_ite (P := Keeps m r) (fun _ => ?_) (fun _ => ?_)
    · exact (setGleanFlag_keeps (hE.sub rfl) h2)
    · exact h2
  clear_value vs6
  refine keeps_ite (P := Keeps m r) (fun _ => ?_) (fun _ => ?_)
  · exact hvs6
  · refine keeps_ite (P := Keeps m r) (fun _ => ?_) (fun _ => ?_)
    · refine keeps_ite (P := Keeps m r) (fun _ => ?_) (fun _ => ?_)
      · exact hvs6
      · exact (setGleanFlag_keeps (hE.sub rfl) (grnReport_keeps (hE.sub rfl) hvs6))
    · refine keeps_ite (P := Keeps m r) (fun _ => ?_) (fun _ => ?_)
      · exact hvs6
      · exact (reclaim_keeps (hE.sub rfl) hvs6)

theorem returnReclaimed_keeps {m r x1 x2} (hE : Fits 1048580 m) (h1 : Keeps m r x1) :
    Keeps m r (returnReclaimed x1 x2) := by
  unfold returnReclaimed
  refine forAll_keeps (fun _ _ q1 => ?_) h1
  exact (setGleanFlag_keeps (hE.sub rfl) (Keeps.wr (k := 4) q1 (hE.sub rfl)))

theorem gleanList_keeps {m r x1 x2} (hE : Fits 135266308 m) (h1 : Keeps m r x1) :
    Keeps m r (gleanList x1 x2) := by
  unfold gleanList
  extract_lets -underBinder -merge -useContext +onlyGivenNames vk1 vs2 vsrc3
  have hvs2 : Keeps m r vs2 := (grnReport_keeps (hE.sub rfl) h1)
  clear_value vs2
  exact (Keeps.upd 4 hvs2 (hE.sub rfl) rfl)

theorem execGleanerPass_keeps {m r x1 x2 x3} (hE : Fits 135266821 m) (h3 : Keeps m r x3) :
    KeepsA m r (execGleanerPass x1 x2 x3) := by
  unfold execGleanerPass
  extract_lets -underBinder -merge -useContext +onlyGivenNames vbaseline1 vold2 vsrc3 vs4 vs5 vs6 vs7
  have hvs4 : Keeps m r vs4 := (Keeps.upd 4 h3 (hE.sub rfl) rfl)
  clear_value vs4
  have hvs5 : Keeps m r vs5 := by
    unfold vs5
    refine forAll_keeps (fun _ _ q8 => ?_) (Keeps.wrf (k := 4) hvs4 (hE.sub rfl))
    exact (gleanList_keeps (hE.sub rfl) q8)
  clear_value vs5
  have hvs6 : Keeps m r vs6 := by
    unfold vs6
    refine returnReclaimed_keeps (hE.sub rfl) ?_
    refine forAll_keeps (fun _ _ q9 => ?_) hvs5
    exact (gleanBuf_keeps (hE.sub rfl) q9)
  clear_value vs6
  have hvs7 : Keeps m r vs7 := (Keeps.wrf (k := 4) (Keeps.bump (k := 4) hvs6 (hE.sub rfl)) (hE.sub rfl))
  clear_value vs7
  refine keeps_ite (P := KeepsA m r) (fun _ => ?_) (fun _ => ?_)
  · exact (KeepsA.next h3)
  · exact (KeepsA.next (drainSource_keeps (hE.sub rfl) hvs7))

theorem execGranaryAlloc_keeps {m r x1 x2 x3 x4 x5 x6} (hE : Fits 137626119 m) (h6 : Keeps m r x6) :
    KeepsA m r (execGranaryAlloc x1 x2 x3 x4 x5 x6) := by
  unfold execGranaryAlloc
  refine keeps_ite (P := KeepsA m r) (fun _ => ?_) (fun _ => ?_)
  · exact (KeepsA.next (drainPort_keeps (hE.sub rfl) h6))
  · refine keeps_ite (P := KeepsA m r) (fun _ => ?_) (fun _ => ?_)
    · exact (KeepsA.next (drainSource_keeps (hE.sub rfl) h6))
    · exact (KeepsA.next (allocFor_keeps (hE.sub rfl) h6))

theorem rearmGrnErr_keeps {m r x1} (hE : Fits 1048576 m) (h1 : Keeps m r x1) :
    Keeps m r (rearmGrnErr x1) := by
  unfold rearmGrnErr
  exact (Keeps.wrf (k := 4) h1 (hE.sub rfl))

theorem execGrnErrRead_keeps {m r x1 x2} (hE : Fits 1048576 m) (h2 : Keeps m r x2) :
    KeepsA m r (execGrnErrRead x1 x2) := by
  unfold execGrnErrRead
  refine KeepsA.next ?_
  refine keeps_ite (P := Keeps m r) (fun _ => ?_) (fun _ => ?_)
  · exact h2
  · exact (rearmGrnErr_keeps (hE.sub rfl) h2)

theorem execListRebuildEnd_keeps {m r x1 x2 x3} (hE : Fits 135266821 m) (h3 : Keeps m r x3) :
    KeepsA m r (execListRebuildEnd x1 x2 x3) := by
  unfold execListRebuildEnd
  extract_lets -underBinder -merge -useContext +onlyGivenNames vsrc1 vs2
  have hvs2 : Keeps m r vs2 := (Keeps.upd 4 h3 (hE.sub rfl) rfl)
  clear_value vs2
  exact (KeepsA.next (drainSource_keeps (hE.sub rfl) hvs2))

theorem noteUnit_keeps {m r x1 x2 x3 x4} (hE : Fits 135266308 m) (h1 : Keeps m r x1) :
    Keeps m r (noteUnit x1 x2 x3 x4) := by
  unfold noteUnit
  extract_lets -underBinder -merge -useContext +onlyGivenNames vm1 vc2
  split
  · exact h1
  · exact (count_keeps (hE.sub rfl) h1)
  · extract_lets -underBinder -merge -useContext +onlyGivenNames vs3 vk4 vsrc5
    have hvs3 : Keeps m r vs3 := (grnReport_keeps (hE.sub rfl) h1)
    clear_value vs3
    exact (Keeps.upd 4 hvs3 (hE.sub rfl) rfl)

theorem presentClear_keeps {m r x1 x2 x3 x4 x5} (hE : Fits 135266308 m) (h1 : Keeps m r x1) :
    Keeps m r (presentClear x1 x2 x3 x4 x5) := by
  unfold presentClear
  extract_lets -underBinder -merge -useContext +onlyGivenNames vm1
  split
  · exact (grnReport_keeps (hE.sub rfl) h1)
  · extract_lets -underBinder -merge -useContext +onlyGivenNames vc2
    split
    · exact (grnReport_keeps (hE.sub rfl) h1)
    · exact (grnReport_keeps (hE.sub rfl) h1)
    · refine keeps_ite (P := Keeps m r) (fun _ => ?_) (fun _ => ?_)
      · exact (clearOwner_keeps (hE.sub rfl) (noteUnit_keeps (hE.sub rfl) h1))
      · exact (grnReport_keeps (hE.sub rfl) h1)

theorem execOwnerClear_keeps {m r x1 x2 x3 x4 x5} (hE : Fits 135266821 m) (h5 : Keeps m r x5) :
    KeepsA m r (execOwnerClear x1 x2 x3 x4 x5) := by
  unfold execOwnerClear
  extract_lets -underBinder -merge -useContext +onlyGivenNames vs1
  have hvs1 : Keeps m r vs1 := (presentClear_keeps (hE.sub rfl) h5)
  clear_value vs1
  exact (KeepsA.next (drainSource_keeps (hE.sub rfl) hvs1))

@[simp] theorem creditAddr_from {b p : Nat} {c : CreditReg} (hb : b ≤ 0x10000000) : b ≤ creditAddr p c := by
  cases c
  · exact aCredit_from hb
  · exact aPool_from hb

theorem fillSlot_keeps {m r x1 x2 x3} (hE : Fits 2097152 m) (h1 : Keeps m r x1) :
    Keeps m r (fillSlot x1 x2 x3) := by
  unfold fillSlot
  exact (Keeps.wrf (k := 5) (Keeps.wrf (k := 5) h1 (hE.sub rfl)) (hE.sub rfl))

theorem applyStaged_keeps {m r x1} (hE : Fits 2097153 m) (h1 : Keeps m r x1) :
    Keeps m r (applyStaged x1) := by
  unfold applyStaged
  refine forAll_keeps (fun _ _ q => fillSlot_keeps (hE.sub rfl) q) (forAll_keeps_mem (fun _ x hx q => Keeps.wr (k := 5) q (hE.sub rfl) ?_) ?_)
  · have h2 : aSchPort 0 ≤ _ := of_decide_eq_true (List.mem_filter.mp hx).2
    exact okAt_high (by decide) (le_trans (by decide) h2)
  · exact Keeps.upd 1 h1 (hE.sub rfl) rfl

theorem readPayload_keeps {m r x1 x2 x3 x4} (hE : Fits 135266308 m) (h1 : Keeps m r x1) :
    KeepsP m r (readPayload x1 x2 x3 x4) := by
  unfold readPayload
  split
  · exact (KeepsP.mk (count_keeps (hE.sub rfl) h1))
  · extract_lets -underBinder -merge -useContext +onlyGivenNames vst1 vkey2 vs3 vbad4 vsrc5 vs6
    have hvs3 : Keeps m r vs3 := (grnReport_keeps (hE.sub rfl) h1)
    clear_value vs3
    have hvs6 : Keeps m r vs6 := (Keeps.upd 4 hvs3 (hE.sub rfl) rfl)
    clear_value vs6
    exact (KeepsP.mk (countPort_keeps (hE.sub rfl) hvs6))
  · exact (KeepsP.mk h1)

theorem setPeakTok_keeps {m r x1 x2 x3 x4} (hE : Fits 2097152 m) (h1 : Keeps m r x1) :
    Keeps m r (setPeakTok x1 x2 x3 x4) := by
  unfold setPeakTok
  exact (Keeps.wrf (k := 5) h1 (hE.sub rfl))

theorem setCommitTok_keeps {m r x1 x2 x3 x4} (hE : Fits 2097152 m) (h1 : Keeps m r x1) :
    Keeps m r (setCommitTok x1 x2 x3 x4) := by
  unfold setCommitTok
  exact (Keeps.wrf (k := 5) h1 (hE.sub rfl))

theorem beginSend_keeps {m r x1 x2 x3 x4 x5 x6 x7} (hE : Fits 137363975 m) (h1 : Keeps m r x1) :
    Keeps m r (beginSend x1 x2 x3 x4 x5 x6 x7) := by
  unfold beginSend
  extract_lets -underBinder -merge -useContext +onlyGivenNames vb1 vs2 vs3 vs4 vs5 vl6 vs7 vs8 vs9 vs10 vs11 vx12 vs13 vr14
  have hvs2 : Keeps m r vs2 := by
    unfold vs2
    refine keeps_ite (P := Keeps m r) (fun _ => ?_) (fun _ => ?_)
    · exact h1
    · exact (Keeps.wrf (k := 5) h1 (hE.sub rfl))
  clear_value vs2
  have hvs3 : Keeps m r vs3 := (tagHead_keeps (hE.sub rfl) (setQueue_keeps (hE.sub rfl) hvs2))
  clear_value vs3
  have hvs4 : Keeps m r vs4 := by
    unfold vs4
    refine keeps_ite (P := Keeps m r) (fun _ => ?_) (fun _ => ?_)
    · exact hvs3
    · exact (setCommitTok_keeps (hE.sub rfl) hvs3)
  clear_value vs4
  have hvs5 : Keeps m r vs5 := (setPeakTok_keeps (hE.sub rfl) hvs4)
  clear_value vs5
  have hvs7 : Keeps m r vs7 := by
    unfold vs7
    refine keeps_ite (P := Keeps m r) (fun _ => ?_) (fun _ => ?_)
    · exact (setLink_keeps (hE.sub rfl) hvs5)
    · exact hvs5
  clear_value vs7
  have hvs8 : Keeps m r vs8 := (count_keeps (hE.sub rfl) (count_keeps (hE.sub rfl) hvs7))
  clear_value vs8
  have hvs9 : Keeps m r vs9 := by
    unfold vs9
    refine keeps_ite (P := Keeps m r) (fun _ => ?_) (fun _ => ?_)
    · exact (count_keeps (hE.sub rfl) hvs8)
    · exact hvs8
  clear_value vs9
  have hvs10 : Keeps m r vs10 := by
    unfold vs10
    refine keeps_ite (P := Keeps m r) (fun _ => ?_) (fun _ => ?_)
    · exact (count_keeps (hE.sub rfl) hvs9)
    · exact hvs9
  clear_value vs10
  have hvs11 : Keeps m r vs11 := (count_keeps (hE.sub rfl) (count_keeps (hE.sub rfl) hvs10))
  clear_value vs11
  have hvs13 : Keeps m r vs13 := (setStat_keeps (hE.sub rfl) hvs11)
  clear_value vs13
  have hvr14 : KeepsP m r vr14 := (readPayload_keeps (hE.sub rfl) hvs13)
  clear_value vr14
  exact (setSending_keeps (hE.sub rfl) hvr14)

theorem countStall_keeps {m r x1 x2 x3} (hE : Fits 134218240 m) (h1 : Keeps m r x1) :
    Keeps m r (countStall x1 x2 x3) := by
  unfold countStall
  exact (setStat_keeps (hE.sub rfl) (count_keeps (hE.sub rfl) h1))

theorem countPassed_keeps {m r x1 x2} (hE : Fits 134218240 m) (h1 : Keeps m r x1) :
    Keeps m r (countPassed x1 x2) := by
  unfold countPassed
  refine forAll_keeps (fun _ _ q1 => ?_) h1
  extract_lets -underBinder -merge -useContext +onlyGivenNames vs2
  have hvs2 : Keeps m r vs2 := by
    unfold vs2
    refine keeps_ite (P := Keeps m r) (fun _ => ?_) (fun _ => ?_)
    · exact (countStall_keeps (hE.sub rfl) q1)
    · exact q1
  clear_value vs2
  refine keeps_ite (P := Keeps m r) (fun _ => ?_) (fun _ => ?_)
  · exact (count_keeps (hE.sub rfl) hvs2)
  · exact hvs2

theorem creditWrite_keeps {m r x1 x2 x3 x4 x5} (hE : Fits 134483968 m) (h1 : Keeps m r x1) :
    KeepsW m r (creditWrite x1 x2 x3 x4 x5) := by
  unfold creditWrite
  extract_lets -underBinder -merge -useContext +onlyGivenNames va1 vs2
  have hvs2 : Keeps m r vs2 := (regWrite_keeps (k := 2) (hE.sub rfl) (hE.sub rfl) h1)
  clear_value vs2
  refine keeps_ite (P := KeepsW m r) (fun _ => ?_) (fun _ => ?_)
  · exact (refuseR12_keeps (hE.sub rfl) h1)
  · exact hvs2

theorem execCreditConfigWrite_keeps {m r x1 x2 x3 x4 x5} (hE : Fits 168038656 m) (h5 : Keeps m r x5) :
    KeepsA m r (execCreditConfigWrite x1 x2 x3 x4 x5) := by
  unfold execCreditConfigWrite
  refine keeps_ite (P := KeepsA m r) (fun _ => ?_) (fun _ => ?_)
  · exact (KeepsA.next h5)
  · exact (KeepsA.next (mgApply_keeps (hE.sub rfl) h5 (fun _ g1 => (creditWrite_keeps (hE.sub rfl) g1))))

theorem pktGone_keeps {m r x1 x2 x3 x4} (hE : Fits 198446063 m) (h1 : Keeps m r x1) :
    Keeps m r (pktGone x1 x2 x3 x4) := by
  unfold pktGone
  split
  · extract_lets -underBinder -merge -useContext +onlyGivenNames vs1 vsrc2 vs3
    have hvs1 : Keeps m r vs1 := by
      unfold vs1
      refine forAll_keeps (fun _ _ q4 => ?_) h1
      exact (clearOwner_keeps (hE.sub rfl) q4)
    clear_value vs1
    have hvs3 : Keeps m r vs3 := (setChunk_keeps (hE.sub rfl) hvs1)
    clear_value vs3
    refine keeps_ite (P := Keeps m r) (fun _ => ?_) (fun _ => ?_)
    · refine keeps_ite (P := Keeps m r) (fun _ => ?_) (fun _ => ?_)
      · exact (progress_keeps (hE.sub rfl) hvs3)
      · exact hvs3
    · refine keeps_ite (P := Keeps m r) (fun _ => ?_) (fun _ => ?_)
      · exact h1
      · split
        · exact (freeBufs_keeps (hE.sub rfl) h1)
        · refine keeps_ite (P := Keeps m r) (fun _ => ?_) (fun _ => ?_)
          · exact (progress_keeps (hE.sub rfl) (chunkPlaced_keeps (hE.sub rfl) h1))
          · exact (chunkPlaced_keeps (hE.sub rfl) h1)
  · exact (finalGone_keeps (hE.sub rfl) (releasePkt_keeps (hE.sub rfl) h1))
  · extract_lets -underBinder -merge -useContext +onlyGivenNames vs5 vsrc6
    have hvs5 : Keeps m r vs5 := (releasePkt_keeps (hE.sub rfl) h1)
    clear_value vs5
    exact (Keeps.upd 512 hvs5 (hE.sub rfl) rfl)
  · extract_lets -underBinder -merge -useContext +onlyGivenNames vold7 vt8 vsrc9
    refine keeps_ite (P := Keeps m r) (fun _ => ?_) (fun _ => ?_)
    · exact h1
    · refine keeps_ite (P := Keeps m r) (fun _ => ?_) (fun _ => ?_)
      · exact (Keeps.upd 1 h1 (hE.sub rfl) rfl)
      · exact (tryFinish_keeps (hE.sub rfl) (releaseHeld_keeps (hE.sub rfl) (copyOver_keeps (hE.sub rfl) h1)))
  · refine keeps_ite (P := Keeps m r) (fun _ => ?_) (fun _ => ?_)
    · exact (releasePkt_keeps (hE.sub rfl) h1)
    · exact (giveBack_keeps (hE.sub rfl) (freeBufs_keeps (hE.sub rfl) h1))

theorem noteUnacked_keeps {m r x1 x2 x3 x4} (hE : Fits 1 m) (h1 : Keeps m r x1) :
    Keeps m r (noteUnacked x1 x2 x3 x4) := by
  unfold noteUnacked
  extract_lets -underBinder -merge -useContext +onlyGivenNames vt1 vsrc2
  exact (Keeps.upd 1 h1 (hE.sub rfl) rfl)

theorem execPacketSent_keeps {m r x1 x2} (hE : Fits 265554943 m) (h2 : Keeps m r x2) :
    KeepsA m r (execPacketSent x1 x2) := by
  unfold execPacketSent
  split
  · exact (KeepsA.next h2)
  · extract_lets -underBinder -merge -useContext +onlyGivenNames vbs1 vl2 vunit3 vs4 vs5 vs6
    have hvs4 : Keeps m r vs4 := (setSending_keeps (hE.sub rfl) (setLink_keeps (hE.sub rfl) h2))
    clear_value vs4
    have hvs5 : Keeps m r vs5 := by
      unfold vs5
      refine keeps_ite (P := Keeps m r) (fun _ => ?_) (fun _ => ?_)
      · exact hvs4
      · exact (noteUnacked_keeps (hE.sub rfl) hvs4)
    clear_value vs5
    have hvs6 : Keeps m r vs6 := (pktGone_keeps (hE.sub rfl) hvs5)
    clear_value vs6
    refine keeps_ite (P := KeepsA m r) (fun _ => ?_) (fun _ => ?_)
    · exact (KeepsA.next h2)
    · exact (KeepsA.next (settle_keeps (hE.sub rfl) (drainSource_keeps (hE.sub rfl) hvs6)))

theorem stageShaper_keeps {m r x1 x2 x3 x4 x5} (hE : Fits 134217729 m) (h1 : Keeps m r x1) :
    Keeps m r (stageShaper x1 x2 x3 x4 x5) := by
  unfold stageShaper
  extract_lets -underBinder -merge -useContext +onlyGivenNames vbase1 vs2 vt3 vsrc4
  have hvs2 : Keeps m r vs2 := (logWrite_keeps (hE.sub rfl) h1)
  clear_value vs2
  exact (Keeps.upd 1 hvs2 (hE.sub rfl) rfl)

theorem policerWrite_keeps {m r x1 x2 x3 x4 x5 x6} (hE : Fits 136318977 m) (h1 : Keeps m r x1) :
    KeepsW m r (policerWrite x1 x2 x3 x4 x5 x6) := by
  unfold policerWrite
  extract_lets -underBinder -merge -useContext +onlyGivenNames va1
  refine keeps_ite (P := KeepsW m r) (fun _ => ?_) (fun _ => ?_)
  · exact (stageShaper_keeps (hE.sub rfl) h1)
  · exact (regWrite_keeps (k := 5) (hE.sub rfl) (hE.sub rfl) h1)

theorem execPolicerSlotWrite_keeps {m r x1 x2 x3 x4 x5 x6} (hE : Fits 169873665 m) (h6 : Keeps m r x6) :
    KeepsA m r (execPolicerSlotWrite x1 x2 x3 x4 x5 x6) := by
  unfold execPolicerSlotWrite
  exact (KeepsA.next (mgApply_keeps (hE.sub rfl) h6 (fun _ g1 => (policerWrite_keeps (hE.sub rfl) g1))))

theorem refillSlot_keeps {m r x1 x2 x3} (hE : Fits 2097152 m) (h2 : Keeps m r x2) :
    Keeps m r (refillSlot x1 x2 x3) := by
  unfold refillSlot
  extract_lets -underBinder -merge -useContext +onlyGivenNames va1 vk2 vc3
  exact (Keeps.wrf (k := 5) (Keeps.wrf (k := 5) h2 (hE.sub rfl)) (hE.sub rfl))

theorem sampleQueue_keeps {m r x1 x2 x3} (hE : Fits 512 m) (h2 : Keeps m r x2) :
    Keeps m r (sampleQueue x1 x2 x3) := by
  unfold sampleQueue
  extract_lets -underBinder -merge -useContext +onlyGivenNames vd1 vx2
  refine keeps_ite (P := Keeps m r) (fun _ => ?_) (fun _ => ?_)
  · exact h2
  · exact (setStat_keeps (hE.sub rfl) h2)

theorem sampleMap_keeps {m r x1} (hE : Fits 512 m) (h1 : Keeps m r x1) :
    Keeps m r (sampleMap x1) := by
  unfold sampleMap
  extract_lets -underBinder -merge -useContext +onlyGivenNames vsrc1 vs2
  have hvs2 : Keeps m r vs2 := (Keeps.upd 512 h1 (hE.sub rfl) rfl)
  clear_value vs2
  refine keeps_ite (P := Keeps m r) (fun _ => ?_) (fun _ => ?_)
  · exact h1
  · refine forAll_keeps (fun _ _ q3 => ?_) hvs2
    refine forAll_keeps (fun _ _ q4 => ?_) q3
    exact (sampleQueue_keeps (hE.sub rfl) q4)

theorem refillFurrow_keeps {m r x1 x2 x3} (hE : Fits 2097152 m) (h2 : Keeps m r x2) :
    Keeps m r (refillFurrow x1 x2 x3) := by
  unfold refillFurrow
  extract_lets -underBinder -merge -useContext +onlyGivenNames vc1 vk2
  exact (setPeakTok_keeps (hE.sub rfl) (setCommitTok_keeps (hE.sub rfl) h2))

theorem execRefill_keeps {m r x1} (hE : Fits 2097665 m) (h1 : Keeps m r x1) :
    KeepsA m r (execRefill x1) := by
  unfold execRefill
  extract_lets -underBinder -merge -useContext +onlyGivenNames vs1 vs2
  have hvs1 : Keeps m r vs1 := (applyStaged_keeps (hE.sub rfl) h1)
  clear_value vs1
  have hvs2 : Keeps m r vs2 := by
    unfold vs2
    refine forAll_keeps (fun _ _ q3 => ?_) hvs1
    refine forAll_keeps (fun _ _ q4 => ?_) q3
    exact (refillFurrow_keeps (hE.sub rfl) q4)
  clear_value vs2
  refine keeps_ite (P := KeepsA m r) (fun _ => ?_) (fun _ => ?_)
  · exact (KeepsA.next h1)
  · refine KeepsA.next ?_
    refine sampleMap_keeps (hE.sub rfl) ?_
    refine forAll_keeps (fun _ _ q5 => ?_) hvs2
    refine forAll_keeps (fun _ _ q6 => ?_) q5
    exact (refillSlot_keeps (hE.sub rfl) q6)

theorem execSchedulerDecision_keeps {m r x1 x2 x3} (hE : Fits 137363975 m) (h3 : Keeps m r x3) :
    KeepsA m r (execSchedulerDecision x1 x2 x3) := by
  unfold execSchedulerDecision
  extract_lets -underBinder -merge -useContext +onlyGivenNames vchoice1 vs2
  have hvs2 : Keeps m r vs2 := (countPassed_keeps (hE.sub rfl) h3)
  clear_value vs2
  refine keeps_ite (P := KeepsA m r) (fun _ => ?_) (fun _ => ?_)
  · exact (KeepsA.next h3)
  · clear_value vchoice1
    split
    · exact (KeepsA.next (setLink_keeps (hE.sub rfl) hvs2))
    · split
      · exact (KeepsA.next hvs2)
      · exact (KeepsA.next (beginSend_keeps (hE.sub rfl) hvs2))

theorem shaperWrite_keeps {m r x1 x2 x3 x4 x5 x6} (hE : Fits 136318977 m) (h1 : Keeps m r x1) :
    KeepsW m r (shaperWrite x1 x2 x3 x4 x5 x6) := by
  unfold shaperWrite
  extract_lets -underBinder -merge -useContext +onlyGivenNames va1 vs2
  have hvs2 : Keeps m r vs2 := (stageShaper_keeps (hE.sub rfl) h1)
  clear_value vs2
  refine keeps_ite (P := KeepsW m r) (fun _ => ?_) (fun _ => ?_)
  · show Keeps m r _
    refine keeps_ite (P := Keeps m r) (fun _ => ?_) (fun _ => ?_)
    · exact (Keeps.wrf (k := 5) hvs2 (hE.sub rfl))
    · exact hvs2
  · exact (regWrite_keeps (k := 5) (hE.sub rfl) (hE.sub rfl) h1)

theorem execShaperWrite_keeps {m r x1 x2 x3 x4 x5 x6} (hE : Fits 169873665 m) (h6 : Keeps m r x6) :
    KeepsA m r (execShaperWrite x1 x2 x3 x4 x5 x6) := by
  unfold execShaperWrite
  exact (KeepsA.next (mgApply_keeps (hE.sub rfl) h6 (fun _ g1 => (shaperWrite_keeps (hE.sub rfl) g1))))

theorem fillFurrow_keeps {m r x1 x2 x3} (hE : Fits 2097152 m) (h2 : Keeps m r x2) :
    Keeps m r (fillFurrow x1 x2 x3) := by
  unfold fillFurrow
  exact (setPeakTok_keeps (hE.sub rfl) (setCommitTok_keeps (hE.sub rfl) h2))

theorem setFab_keeps {m : Nat} {r s : State} {f : Fabric} (hE : Fits 1 m) (h : Keeps m r s) :
    Keeps m r { s with fab := f } := Keeps.upd 1 h hE rfl

theorem setLaneState_keeps {m r x1 x2 x3} (hE : Fits 262144 m) (h1 : Keeps m r x1) :
    Keeps m r (setLaneState x1 x2 x3) := by
  unfold setLaneState
  exact (Keeps.wrf (k := 2) h1 (hE.sub rfl))

theorem startAttempt_keeps {m r x1 x2 x3} (hE : Fits 262144 m) (h1 : Keeps m r x1) :
    Keeps m r (startAttempt x1 x2 x3) := by
  unfold startAttempt
  refine keeps_ite (P := Keeps m r) (fun _ => ?_) (fun _ => ?_)
  · exact (setLaneState_keeps (hE.sub rfl) h1)
  · exact (Keeps.wrf (k := 2) (Keeps.wrf (k := 2) (setLaneState_keeps (hE.sub rfl) h1) (hE.sub rfl)) (hE.sub rfl))

theorem trainLanes_keeps {m r x1 x2} (hE : Fits 262144 m) (h1 : Keeps m r x1) :
    Keeps m r (trainLanes x1 x2) := by
  unfold trainLanes
  refine forAll_keeps (fun _ _ q1 => ?_) h1
  exact (startAttempt_keeps (hE.sub rfl) q1)

theorem takeSettings_keeps {m r x1 x2 x3} (hE : Fits 262146 m) (h1 : Keeps m r x1) :
    Keeps m r (takeSettings x1 x2 x3) := by
  unfold takeSettings
  extract_lets -underBinder -merge -useContext +onlyGivenNames vl1 vc2 vinUse3 vrate4 vs5 vs6
  have hvs5 : Keeps m r vs5 := (setLink_keeps (hE.sub rfl) h1)
  clear_value vs5
  have hvs6 : Keeps m r vs6 := (Keeps.wrf (k := 2) hvs5 (hE.sub rfl))
  clear_value vs6
  refine keeps_ite (P := Keeps m r) (fun _ => ?_) (fun _ => ?_)
  · exact (trainLanes_keeps (hE.sub rfl) hvs6)
  · exact hvs6

theorem modLink_keeps {m r x1 x2 x3} (hE : Fits 2 m) (h1 : Keeps m r x1) :
    Keeps m r (modLink x1 x2 x3) := by
  unfold modLink
  exact (setLink_keeps (hE.sub rfl) h1)

theorem setPortState_keeps {m r x1 x2 x3} (hE : Fits 262144 m) (h1 : Keeps m r x1) :
    Keeps m r (setPortState x1 x2 x3) := by
  unfold setPortState
  exact (Keeps.wrf (k := 2) h1 (hE.sub rfl))

theorem setLinkPhase_keeps {m r x1 x2 x3} (hE : Fits 262146 m) (h1 : Keeps m r x1) :
    Keeps m r (setLinkPhase x1 x2 x3) := by
  unfold setLinkPhase
  extract_lets -underBinder -merge -useContext +onlyGivenNames vs1
  have hvs1 : Keeps m r vs1 := (modLink_keeps (hE.sub rfl) h1)
  clear_value vs1
  refine keeps_ite (P := Keeps m r) (fun _ => ?_) (fun _ => ?_)
  · exact hvs1
  · exact (setPortState_keeps (hE.sub rfl) hvs1)

theorem showRx_keeps {m r x1 x2} (hE : Fits 262144 m) (h1 : Keeps m r x1) :
    Keeps m r (showRx x1 x2) := by
  unfold showRx
  extract_lets -underBinder -merge -useContext +onlyGivenNames vup1 vmask2
  exact (Keeps.wrf (k := 2) (Keeps.wrf (k := 2) h1 (hE.sub rfl)) (hE.sub rfl))

theorem nextAttempt_keeps {m r x1 x2} (hE : Fits 134479872 m) (h1 : Keeps m r x1) :
    Keeps m r (nextAttempt x1 x2) := by
  unfold nextAttempt
  refine keeps_ite (P := Keeps m r) (fun _ => ?_) (fun _ => ?_)
  · exact (event_keeps (hE.sub rfl) (setLaneState_keeps (hE.sub rfl) h1))
  · exact (startAttempt_keeps (hE.sub rfl) h1)

theorem leaveLanes_keeps {m r x1 x2} (hE : Fits 134479874 m) (h1 : Keeps m r x1) :
    Keeps m r (leaveLanes x1 x2) := by
  unfold leaveLanes
  extract_lets -underBinder -merge -useContext +onlyGivenNames vlate1 vup2 vfirst3 vskewed4 vs5 vs6
  have hvs5 : Keeps m r vs5 := by
    unfold vs5
    refine forAll_keeps (fun _ _ q7 => ?_) h1
    exact (nextAttempt_keeps (hE.sub rfl) (event_keeps (hE.sub rfl) q7))
  clear_value vs5
  have hvs6 : Keeps m r vs6 := (showRx_keeps (hE.sub rfl) hvs5)
  clear_value vs6
  refine keeps_ite (P := Keeps m r) (fun _ => ?_) (fun _ => ?_)
  · exact (takeSettings_keeps (hE.sub rfl) hvs6)
  · exact (setLinkPhase_keeps (hE.sub rfl) (modLink_keeps (hE.sub rfl) hvs6))

theorem checkLanes_keeps {m r x1 x2} (hE : Fits 134479874 m) (h1 : Keeps m r x1) :
    Keeps m r (checkLanes x1 x2) := by
  unfold checkLanes
  extract_lets -underBinder -merge -useContext +onlyGivenNames vph1 vdone2 vsome3
  refine keeps_ite (P := Keeps m r) (fun _ => ?_) (fun _ => ?_)
  · exact (leaveLanes_keeps (hE.sub rfl) h1)
  · exact h1

theorem freshCounters_keeps {m r x1 x2} (hE : Fits 262146 m) (h1 : Keeps m r x1) :
    Keeps m r (freshCounters x1 x2) := by
  unfold freshCounters
  extract_lets -underBinder -merge -useContext +onlyGivenNames vs1
  have hvs1 : Keeps m r vs1 := (modLink_keeps (hE.sub rfl) h1)
  clear_value vs1
  refine forAll_keeps (fun _ _ q2 => ?_) hvs1
  exact (Keeps.wrf (k := 2) q2 (hE.sub rfl))

theorem bringUp_keeps {m r x1 x2 x3} (hE : Fits 134479874 m) (h1 : Keeps m r x1) :
    Keeps m r (bringUp x1 x2 x3) := by
  unfold bringUp
  extract_lets -underBinder -merge -useContext +onlyGivenNames vs1 vs2
  have hvs1 : Keeps m r vs1 := (modLink_keeps (hE.sub rfl) (freshCounters_keeps (hE.sub rfl) h1))
  clear_value vs1
  have hvs2 : Keeps m r vs2 := (Keeps.wrf (k := 2) (setLinkPhase_keeps (hE.sub rfl) hvs1) (hE.sub rfl))
  clear_value vs2
  exact (checkLanes_keeps (hE.sub rfl) (takeSettings_keeps (hE.sub rfl) hvs2))

theorem clearPort_keeps {m r x1 x2} (hE : Fits 1048580 m) (h1 : Keeps m r x1) :
    Keeps m r (clearPort x1 x2) := by
  unfold clearPort
  refine forAll_keeps (fun _ _ q1 => ?_) h1
  exact (clearOwner_keeps (hE.sub rfl) q1)

theorem cutOff_keeps {m r x1 x2} (hE : Fits 135266309 m) (h1 : Keeps m r x1) :
    Keeps m r (cutOff x1 x2) := by
  unfold cutOff
  split
  · split
    · exact (setSending_keeps (hE.sub rfl) (countPort_keeps (hE.sub rfl) h1))
    · exact h1
  · split
    · extract_lets -underBinder -merge -useContext +onlyGivenNames vq1
      refine forAll_keeps (fun _ _ q2 => ?_) (unqueue_keeps (hE.sub rfl) h1)
      exact (freeBufs_keeps (hE.sub rfl) q2)
    · extract_lets -underBinder -merge -useContext +onlyGivenNames vkey3
      clear_value vkey3
      split
      · extract_lets -underBinder -merge -useContext +onlyGivenNames vws4 vs5
        have hvs5 : Keeps m r vs5 := by
          unfold vs5
          refine forAll_keeps (fun _ _ q6 => ?_) h1
          refine keeps_ite (P := Keeps m r) (fun _ => ?_) (fun _ => ?_)
          · exact (freeBufs_keeps (hE.sub rfl) q6)
          · exact q6
        clear_value vs5
        exact (setWaits_keeps (hE.sub rfl) hvs5)
      · exact h1

theorem discardQueues_keeps {m r x1 x2} (hE : Fits 198446063 m) (h1 : Keeps m r x1) :
    Keeps m r (discardQueues x1 x2) := by
  unfold discardQueues
  extract_lets -underBinder -merge -useContext +onlyGivenNames vdrop1 vsending2 vs3 vs4 vmine5 vsrc6 vs7
  have hvdrop1 : ∀ y8 y10, Keeps m r y8 → Keeps m r (vdrop1 y8 y10) := by
    intro y8 y10 g9
    unfold vdrop1
    exact (pktGone_keeps (hE.sub rfl) (countPort_keeps (hE.sub rfl) g9))
  clear_value vdrop1
  have hvs3 : Keeps m r vs3 := by
    unfold vs3
    refine forAll_keeps (fun _ _ q11 => ?_) (setSending_keeps (hE.sub rfl) h1)
    exact (hvdrop1 _ _ q11)
  clear_value vs3
  have hvs4 : Keeps m r vs4 := by
    unfold vs4
    refine forAll_keeps (fun _ _ q12 => ?_) hvs3
    extract_lets -underBinder -merge -useContext +onlyGivenNames vq13
    refine forAll_keeps (fun _ _ q14 => ?_) (setQueue_keeps (hE.sub rfl) q12)
    exact (hvdrop1 _ _ q14)
  clear_value vs4
  have hvs7 : Keeps m r vs7 := (Keeps.upd 1 hvs4 (hE.sub rfl) rfl)
  clear_value vs7
  refine forAll_keeps (fun _ _ q15 => ?_) hvs7
  exact (hvdrop1 _ _ q15)

theorem dropPortCopies_keeps {m r x1 x2} (hE : Fits 135266317 m) (h1 : Keeps m r x1) :
    Keeps m r (dropPortCopies x1 x2) := by
  unfold dropPortCopies
  extract_lets -underBinder -merge -useContext +onlyGivenNames vleft1 vsrc2 vs3 vs4
  have hvs3 : Keeps m r vs3 := (Keeps.upd 1 h1 (hE.sub rfl) rfl)
  clear_value vs3
  have hvs4 : Keeps m r vs4 := by
    unfold vs4
    refine forAll_keeps (fun _ _ q5 => ?_) hvs3
    exact (copyOver_keeps (hE.sub rfl) q5)
  clear_value vs4
  refine forAll_keeps (fun _ _ q6 => ?_) hvs4
  extract_lets -underBinder -merge -useContext +onlyGivenNames vg7 vheld8
  refine forAll_keeps (fun _ _ q9 => ?_) q6
  exact (copyOver_keeps (hE.sub rfl) (countPort_keeps (hE.sub rfl) q9))

theorem forgetCredits_keeps {m r x1 x2} (hE : Fits 1 m) (h1 : Keeps m r x1) :
    Keeps m r (forgetCredits x1 x2) := by
  unfold forgetCredits
  extract_lets -underBinder -merge -useContext +onlyGivenNames vf1 vt2 vw3 vsrc4 vfab5
  exact (Keeps.upd 1 h1 (hE.sub rfl) rfl)

theorem endArrivals_keeps {m r x1 x2} (hE : Fits 135266309 m) (h1 : Keeps m r x1) :
    Keeps m r (endArrivals x1 x2) := by
  unfold endArrivals
  extract_lets -underBinder -merge -useContext +onlyGivenNames vrs1 vs2 vs3 vs4 vsrc5 vfab6
  have hvs2 : Keeps m r vs2 := (setRx_keeps (hE.sub rfl) h1)
  clear_value vs2
  have hvs3 : Keeps m r vs3 := by
    unfold vs3
    refine forAll_keeps (fun _ _ q7 => ?_) hvs2
    split
    · exact (cutOff_keeps (hE.sub rfl) q7)
    · exact q7
  clear_value vs3
  have hvs4 : Keeps m r vs4 := (forgetCredits_keeps (hE.sub rfl) hvs3)
  clear_value vs4
  exact (Keeps.upd 1 hvs4 (hE.sub rfl) rfl)

theorem setActive_keeps {m r x1 x2 x3} (hE : Fits 262146 m) (h1 : Keeps m r x1) :
    Keeps m r (setActive x1 x2 x3) := by
  unfold setActive
  exact (Keeps.wrf (k := 2) (modLink_keeps (hE.sub rfl) h1) (hE.sub rfl))

theorem startLink_keeps {m r x1 x2} (hE : Fits 262146 m) (h1 : Keeps m r x1) :
    Keeps m r (startLink x1 x2) := by
  unfold startLink
  extract_lets -underBinder -merge -useContext +onlyGivenNames vs1 vmask2 vs3
  have hvs1 : Keeps m r vs1 := (modLink_keeps (hE.sub rfl) (freshCounters_keeps (hE.sub rfl) h1))
  clear_value vs1
  have hvs3 : Keeps m r vs3 := (setActive_keeps (hE.sub rfl) (modLink_keeps (hE.sub rfl) hvs1))
  clear_value vs3
  exact (Keeps.wrf (k := 2) hvs3 (hE.sub rfl))

theorem enterForwarding_keeps {m r x1 x2} (hE : Fits 2359299 m) (h1 : Keeps m r x1) :
    Keeps m r (enterForwarding x1 x2) := by
  unfold enterForwarding
  extract_lets -underBinder -merge -useContext +onlyGivenNames vs1 vs2 vsrc3 vfab4
  have hvs1 : Keeps m r vs1 := (setLinkPhase_keeps (hE.sub rfl) (startLink_keeps (hE.sub rfl) h1))
  clear_value vs1
  have hvs2 : Keeps m r vs2 := by
    unfold vs2
    refine forAll_keeps (fun _ _ q5 => ?_) (Keeps.wrf (k := 5) hvs1 (hE.sub rfl))
    exact (fillFurrow_keeps (hE.sub rfl) q5)
  exact setFab_keeps (hE.sub rfl) hvs2

theorem unselect_keeps {m r x1 x2} (hE : Fits 1 m) (h1 : Keeps m r x1) :
    Keeps m r (unselect x1 x2) := by
  unfold unselect
  extract_lets -underBinder -merge -useContext +onlyGivenNames vf1 vsrc2
  exact (Keeps.upd 1 h1 (hE.sub rfl) rfl)

theorem endTraffic_keeps {m r x1 x2} (hE : Fits 198446063 m) (h1 : Keeps m r x1) :
    Keeps m r (endTraffic x1 x2) := by
  unfold endTraffic
  extract_lets -underBinder -merge -useContext +onlyGivenNames vs1 vs2
  have hvs1 : Keeps m r vs1 := (discardQueues_keeps (hE.sub rfl) h1)
  clear_value vs1
  have hvs2 : Keeps m r vs2 := (dropPortCopies_keeps (hE.sub rfl) hvs1)
  clear_value vs2
  exact (losePort_keeps (hE.sub rfl) (unselect_keeps (hE.sub rfl) (clearPort_keeps (hE.sub rfl) hvs2)))

theorem setPortReason_keeps {m r x1 x2 x3 x4} (hE : Fits 134479872 m) (h1 : Keeps m r x1) :
    Keeps m r (setPortReason x1 x2 x3 x4) := by
  unfold setPortReason
  exact (event_keeps (hE.sub rfl) (Keeps.wrf (k := 2) h1 (hE.sub rfl)))

theorem portFallow_keeps {m r x1 x2 x3 x4} (hE : Fits 198446063 m) (h1 : Keeps m r x1) :
    Keeps m r (portFallow x1 x2 x3 x4) := by
  unfold portFallow
  extract_lets -underBinder -merge -useContext +onlyGivenNames vfwd1 vs2 vs3
  have hvs2 : Keeps m r vs2 := (setPortState_keeps (hE.sub rfl) h1)
  clear_value vs2
  have hvs3 : Keeps m r vs3 := by
    unfold vs3
    refine keeps_ite (P := Keeps m r) (fun _ => ?_) (fun _ => ?_)
    · exact hvs2
    · exact (setPortReason_keeps (hE.sub rfl) hvs2)
  clear_value vs3
  refine keeps_ite (P := Keeps m r) (fun _ => ?_) (fun _ => ?_)
  · exact (endTraffic_keeps (hE.sub rfl) hvs3)
  · exact hvs3

theorem refuseLink_keeps {m r x1 x2 x3 x4} (hE : Fits 198446063 m) (h1 : Keeps m r x1) :
    Keeps m r (refuseLink x1 x2 x3 x4) := by
  unfold refuseLink
  exact (portFallow_keeps (hE.sub rfl) (modLink_keeps (hE.sub rfl) (startLink_keeps (hE.sub rfl) h1)))

theorem endCaps_keeps {m r x1 x2 x3} (hE : Fits 200543215 m) (h1 : Keeps m r x1) :
    Keeps m r (endCaps x1 x2 x3) := by
  unfold endCaps
  split
  · exact (refuseLink_keeps (hE.sub rfl) h1)
  · extract_lets -underBinder -merge -useContext +onlyGivenNames vs1 vs2 vs3
    have hvs1 : Keeps m r vs1 := (Keeps.wrf (k := 2) (Keeps.wrf (k := 2) (Keeps.wrf (k := 2) h1 (hE.sub rfl)) (hE.sub rfl)) (hE.sub rfl))
    clear_value vs1
    have hvs2 : Keeps m r vs2 := (modLink_keeps (hE.sub rfl) hvs1)
    clear_value vs2
    have hvs3 : Keeps m r vs3 := (Keeps.wrf (k := 2) (setLinkPhase_keeps (hE.sub rfl) hvs2) (hE.sub rfl))
    clear_value vs3
    refine keeps_ite (P := Keeps m r) (fun _ => ?_) (fun _ => ?_)
    · exact (refuseLink_keeps (hE.sub rfl) hvs1)
    · refine keeps_ite (P := Keeps m r) (fun _ => ?_) (fun _ => ?_)
      · exact (trainLanes_keeps (hE.sub rfl) hvs3)
      · exact (enterForwarding_keeps (hE.sub rfl) hvs1)

theorem portLost_keeps {m r x1 x2 x3} (hE : Fits 198446063 m) (h1 : Keeps m r x1) :
    Keeps m r (portLost x1 x2 x3) := by
  unfold portLost
  extract_lets -underBinder -merge -useContext +onlyGivenNames vfwd1 vs2 vs3
  have hvs2 : Keeps m r vs2 := (countPort_keeps (hE.sub rfl) h1)
  clear_value vs2
  have hvs3 : Keeps m r vs3 := by
    unfold vs3
    refine keeps_ite (P := Keeps m r) (fun _ => ?_) (fun _ => ?_)
    · exact (setPortReason_keeps (hE.sub rfl) (setPortState_keeps (hE.sub rfl) hvs2))
    · exact hvs2
  clear_value vs3
  refine keeps_ite (P := Keeps m r) (fun _ => ?_) (fun _ => ?_)
  · exact h1
  · exact (bringUp_keeps (hE.sub rfl) (endTraffic_keeps (hE.sub rfl) (endArrivals_keeps (hE.sub rfl) hvs3)))

theorem sendNak_keeps {m r x1 x2 x3} (hE : Fits 2 m) (h1 : Keeps m r x1) :
    Keeps m r (sendNak x1 x2 x3) := by
  unfold sendNak
  exact (modLink_keeps (hE.sub rfl) h1)

theorem badUnit_keeps {m r x1 x2 x3} (hE : Fits 2 m) (h1 : Keeps m r x1) :
    Keeps m r (badUnit x1 x2 x3) := by
  unfold badUnit
  refine keeps_ite (P := Keeps m r) (fun _ => ?_) (fun _ => ?_)
  · exact h1
  · exact (sendNak_keeps (hE.sub rfl) (modLink_keeps (hE.sub rfl) h1))

theorem cutLink_keeps {m r x1 x2} (hE : Fits 198446063 m) (h1 : Keeps m r x1) :
    Keeps m r (cutLink x1 x2) := by
  unfold cutLink
  refine keeps_ite (P := Keeps m r) (fun _ => ?_) (fun _ => ?_)
  · exact (endTraffic_keeps (hE.sub rfl) (endArrivals_keeps (hE.sub rfl) h1))
  · exact h1

theorem laneEvent_keeps {m r x1 x2 x3 x4} (hE : Fits 134479874 m) (h1 : Keeps m r x1) (h4 : ∀ y1 y2, Keeps m r y1 → Keeps m r (x4 y1 y2)) :
    KeepsA m r (laneEvent x1 x2 x3 x4) := by
  unfold laneEvent
  split
  · exact (KeepsA.next h1)
  · refine keeps_ite (P := KeepsA m r) (fun _ => ?_) (fun _ => ?_)
    · exact (KeepsA.next (checkLanes_keeps (hE.sub rfl) (showRx_keeps (hE.sub rfl) (h4 _ _ h1))))
    · exact (KeepsA.next h1)

theorem execAdaptationConverged_keeps {m r x1 x2} (hE : Fits 134479874 m) (h2 : Keeps m r x2) :
    KeepsA m r (execAdaptationConverged x1 x2) := by
  unfold execAdaptationConverged
  exact (laneEvent_keeps (hE.sub rfl) h2 (fun _ _ g1 => (setLaneState_keeps (hE.sub rfl) g1)))

theorem execAttemptTimeout_keeps {m r x1 x2} (hE : Fits 134479874 m) (h2 : Keeps m r x2) :
    KeepsA m r (execAttemptTimeout x1 x2) := by
  unfold execAttemptTimeout
  exact (laneEvent_keeps (hE.sub rfl) h2 (fun _ _ g1 => (nextAttempt_keeps (hE.sub rfl) g1)))

theorem execCapTimeout_keeps {m r x1 x2} (hE : Fits 198446063 m) (h2 : Keeps m r x2) :
    KeepsA m r (execCapTimeout x1 x2) := by
  unfold execCapTimeout
  extract_lets -underBinder -merge -useContext +onlyGivenNames vs1 vs2
  have hvs1 : Keeps m r vs1 := (Keeps.bump (k := 2) h2 (hE.sub rfl))
  clear_value vs1
  have hvs2 : Keeps m r vs2 := by
    unfold vs2
    refine keeps_ite (P := Keeps m r) (fun _ => ?_) (fun _ => ?_)
    · exact (portFallow_keeps (hE.sub rfl) hvs1)
    · exact hvs1
  clear_value vs2
  refine keeps_ite (P := KeepsA m r) (fun _ => ?_) (fun _ => ?_)
  · exact (KeepsA.next h2)
  · exact (KeepsA.next (bringUp_keeps (hE.sub rfl) hvs2))

theorem showPeer_keeps {m r x1 x2 x3} (hE : Fits 262144 m) (h1 : Keeps m r x1) :
    Keeps m r (showPeer x1 x2 x3) := by
  unfold showPeer
  extract_lets -underBinder -merge -useContext +onlyGivenNames va1 vs2
  have hvs2 : Keeps m r vs2 := (Keeps.wrf (k := 2) (Keeps.wrf (k := 2) (Keeps.wrf (k := 2) (Keeps.wrf (k := 2) h1 (hE.sub rfl)) (hE.sub rfl)) (hE.sub rfl)) (hE.sub rfl))
  clear_value vs2
  exact (Keeps.wrf (k := 2) hvs2 (hE.sub rfl))

theorem execCapabilityReceived_keeps {m r x1 x2 x3 x4} (hE : Fits 200543215 m) (h4 : Keeps m r x4) :
    KeepsA m r (execCapabilityReceived x1 x2 x3 x4) := by
  unfold execCapabilityReceived
  refine keeps_ite (P := KeepsA m r) (fun _ => ?_) (fun _ => ?_)
  · exact (KeepsA.next h4)
  · split
    · exact (KeepsA.next h4)
    · extract_lets -underBinder -merge -useContext +onlyGivenNames vs1 vs2
      have hvs1 : Keeps m r vs1 := (showPeer_keeps (hE.sub rfl) h4)
      clear_value vs1
      have hvs2 : Keeps m r vs2 := (modLink_keeps (hE.sub rfl) hvs1)
      clear_value vs2
      refine KeepsA.next ?_
      refine keeps_ite (P := Keeps m r) (fun _ => ?_) (fun _ => ?_)
      · exact (endCaps_keeps (hE.sub rfl) hvs2)
      · exact hvs2

theorem execCapabilitySend_keeps {m r x1 x2} (hE : Fits 2 m) (h2 : Keeps m r x2) :
    KeepsA m r (execCapabilitySend x1 x2) := by
  unfold execCapabilitySend
  extract_lets -underBinder -merge -useContext +onlyGivenNames vblocks1
  refine keeps_ite (P := KeepsA m r) (fun _ => ?_) (fun _ => ?_)
  · exact (KeepsA.next (modLink_keeps (hE.sub rfl) h2))
  · exact (KeepsA.next h2)

theorem laneCommand_keeps {m r x1 x2 x3} (hE : Fits 134479874 m) (h1 : Keeps m r x1) :
    Keeps m r (laneCommand x1 x2 x3) := by
  unfold laneCommand
  extract_lets -underBinder -merge -useContext +onlyGivenNames vretrain1
  have hvretrain1 : ∀ y2, Keeps m r y2 → Keeps m r (vretrain1 y2) := by
    intro y2 g3
    unfold vretrain1
    split
    · exact (startAttempt_keeps (hE.sub rfl) g3)
    · exact (checkLanes_keeps (hE.sub rfl) (showRx_keeps (hE.sub rfl) (startAttempt_keeps (hE.sub rfl) g3)))
  clear_value vretrain1
  split
  · refine keeps_ite (P := Keeps m r) (fun _ => ?_) (fun _ => ?_)
    · exact h1
    · exact (hvretrain1 _ h1)
  · refine keeps_ite (P := Keeps m r) (fun _ => ?_) (fun _ => ?_)
    · exact (hvretrain1 _ h1)
    · exact h1
  · exact (Keeps.wrf (k := 2) h1 (hE.sub rfl))

theorem laneCmdWrite_keeps {m r x1 x2 x3 x4} (hE : Fits 134483970 m) (h1 : Keeps m r x1) :
    KeepsW m r (laneCmdWrite x1 x2 x3 x4) := by
  unfold laneCmdWrite
  exact (cmdWrite_keeps (k := 2) (hE.sub rfl) (hE.sub rfl) h1 (fun _ g1 => (KeepsP.mk (laneCommand_keeps (hE.sub rfl) g1))))

theorem laneRow_keeps {m r x1 x2 x3 x4} (hE : Fits 168038658 m) (h1 : Keeps m r x1) :
    Keeps m r (laneRow x1 x2 x3 x4) := by
  unfold laneRow
  exact (mgApply_keeps (hE.sub rfl) h1 (fun _ g1 => (laneCmdWrite_keeps (hE.sub rfl) g1)))

theorem execClearFailed_keeps {m r x1 x2 x3} (hE : Fits 168038658 m) (h3 : Keeps m r x3) :
    KeepsA m r (execClearFailed x1 x2 x3) := by
  unfold execClearFailed
  exact (KeepsA.next (laneRow_keeps (hE.sub rfl) h3))

theorem execClearPrbs_keeps {m r x1 x2 x3} (hE : Fits 168038658 m) (h3 : Keeps m r x3) :
    KeepsA m r (execClearPrbs x1 x2 x3) := by
  unfold execClearPrbs
  exact (KeepsA.next (laneRow_keeps (hE.sub rfl) h3))

theorem execControlSilent_keeps {m r x1 x2} (hE : Fits 265554943 m) (h2 : Keeps m r x2) :
    KeepsA m r (execControlSilent x1 x2) := by
  unfold execControlSilent
  exact (KeepsA.next (settle_keeps (hE.sub rfl) (portLost_keeps (hE.sub rfl) h2)))

theorem execCountdownEnd_keeps {m r x1 x2} (hE : Fits 134479874 m) (h2 : Keeps m r x2) :
    KeepsA m r (execCountdownEnd x1 x2) := by
  unfold execCountdownEnd
  exact (laneEvent_keeps (hE.sub rfl) h2 (fun _ _ g1 => (setLaneState_keeps (hE.sub rfl) g1)))

theorem execCountdownStart_keeps {m r x1 x2} (hE : Fits 134479874 m) (h2 : Keeps m r x2) :
    KeepsA m r (execCountdownStart x1 x2) := by
  unfold execCountdownStart
  exact (laneEvent_keeps (hE.sub rfl) h2 (fun _ _ g1 => (setLaneState_keeps (hE.sub rfl) g1)))

theorem takeAck_keeps {m r x1 x2 x3} (hE : Fits 3 m) (h1 : Keeps m r x1) :
    Keeps m r (takeAck x1 x2 x3) := by
  unfold takeAck
  extract_lets -underBinder -merge -useContext +onlyGivenNames vl1 vold2 vgone3 vs4 vleft5 vsrc6
  have hvs4 : Keeps m r vs4 := (setLink_keeps (hE.sub rfl) h1)
  clear_value vs4
  refine keeps_ite (P := Keeps m r) (fun _ => ?_) (fun _ => ?_)
  · exact (Keeps.upd 1 hvs4 (hE.sub rfl) rfl)
  · exact h1

theorem takeCredit_keeps {m r x1 x2 x3 x4 x5 x6} (hE : Fits 262147 m) (h1 : Keeps m r x1) :
    Keeps m r (takeCredit x1 x2 x3 x4 x5 x6) := by
  unfold takeCredit
  extract_lets -underBinder -merge -useContext +onlyGivenNames vs1 vpr2 vs3
  have hvs1 : Keeps m r vs1 := (takeAck_keeps (hE.sub rfl) h1)
  clear_value vs1
  have hvs3 : Keeps m r vs3 := (modLink_keeps (hE.sub rfl) hvs1)
  clear_value vs3
  exact (Keeps.wrf (k := 2) hvs3 (hE.sub rfl))

theorem execCreditA_keeps {m r x1 x2 x3 x4 x5} (hE : Fits 265554943 m) (h5 : Keeps m r x5) :
    KeepsA m r (execCreditA x1 x2 x3 x4 x5) := by
  unfold execCreditA
  extract_lets -underBinder -merge -useContext +onlyGivenNames vs1
  have hvs1 : Keeps m r vs1 := (takeCredit_keeps (hE.sub rfl) h5)
  clear_value vs1
  refine keeps_ite (P := KeepsA m r) (fun _ => ?_) (fun _ => ?_)
  · exact (KeepsA.next h5)
  · refine KeepsA.next ?_
    refine keeps_ite (P := Keeps m r) (fun _ => ?_) (fun _ => ?_)
    · exact (settle_keeps (hE.sub rfl) (portLost_keeps (hE.sub rfl) hvs1))
    · exact hvs1

theorem takeHints_keeps {m r x1 x2 x3} (hE : Fits 1 m) (h1 : Keeps m r x1) :
    Keeps m r (takeHints x1 x2 x3) := by
  unfold takeHints
  extract_lets -underBinder -merge -useContext +onlyGivenNames vt1 vh2 vsrc3
  exact (Keeps.upd 1 h1 (hE.sub rfl) rfl)

theorem execCreditB_keeps {m r x1 x2 x3 x4 x5 x6} (hE : Fits 265554943 m) (h6 : Keeps m r x6) :
    KeepsA m r (execCreditB x1 x2 x3 x4 x5 x6) := by
  unfold execCreditB
  extract_lets -underBinder -merge -useContext +onlyGivenNames vs1
  have hvs1 : Keeps m r vs1 := (takeHints_keeps (hE.sub rfl) (takeCredit_keeps (hE.sub rfl) h6))
  clear_value vs1
  refine keeps_ite (P := KeepsA m r) (fun _ => ?_) (fun _ => ?_)
  · exact (KeepsA.next h6)
  · refine KeepsA.next ?_
    refine keeps_ite (P := Keeps m r) (fun _ => ?_) (fun _ => ?_)
    · exact (settle_keeps (hE.sub rfl) (portLost_keeps (hE.sub rfl) hvs1))
    · exact hvs1

theorem portEndTest_keeps {m r x1 x2} (hE : Fits 134479874 m) (h1 : Keeps m r x1) :
    Keeps m r (portEndTest x1 x2) := by
  unfold portEndTest
  exact (bringUp_keeps (hE.sub rfl) (trainLanes_keeps (hE.sub rfl) (setPortState_keeps (hE.sub rfl) h1)))

theorem portTest_keeps {m r x1 x2} (hE : Fits 198446063 m) (h1 : Keeps m r x1) :
    Keeps m r (portTest x1 x2) := by
  unfold portTest
  extract_lets -underBinder -merge -useContext +onlyGivenNames vs1 vs2 vlanes3 vs4
  have hvs1 : Keeps m r vs1 := (setPortState_keeps (hE.sub rfl) (cutLink_keeps (hE.sub rfl) h1))
  clear_value vs1
  have hvs2 : Keeps m r vs2 := (modLink_keeps (hE.sub rfl) (freshCounters_keeps (hE.sub rfl) hvs1))
  clear_value vs2
  have hvs4 : Keeps m r vs4 := by
    unfold vs4
    refine forAll_keeps (fun _ _ q5 => ?_) (Keeps.wrf (k := 2) hvs2 (hE.sub rfl))
    exact (setLaneState_keeps (hE.sub rfl) q5)
  clear_value vs4
  exact (showRx_keeps (hE.sub rfl) hvs4)

theorem portRestore_keeps {m r x1 x2} (hE : Fits 198446063 m) (h1 : Keeps m r x1) :
    Keeps m r (portRestore x1 x2) := by
  unfold portRestore
  exact (bringUp_keeps (hE.sub rfl) (cutLink_keeps (hE.sub rfl) (setPortState_keeps (hE.sub rfl) h1)))

theorem portIgnored_keeps {m r x1 x2} (hE : Fits 134217728 m) (h1 : Keeps m r x1) :
    Keeps m r (portIgnored x1 x2) := by
  unfold portIgnored
  exact (event_keeps (hE.sub rfl) h1)

theorem portRestart_keeps {m r x1 x2} (hE : Fits 198446063 m) (h1 : Keeps m r x1) :
    Keeps m r (portRestart x1 x2) := by
  unfold portRestart
  extract_lets -underBinder -merge -useContext +onlyGivenNames vfwd1 vtest2 vs3 vs4 vs5 vs6
  have hvs3 : Keeps m r vs3 := by
    unfold vs3
    refine keeps_ite (P := Keeps m r) (fun _ => ?_) (fun _ => ?_)
    · exact (countPort_keeps (hE.sub rfl) h1)
    · exact h1
  clear_value vs3
  have hvs4 : Keeps m r vs4 := (cutLink_keeps (hE.sub rfl) (setPortReason_keeps (hE.sub rfl) (setPortState_keeps (hE.sub rfl) hvs3)))
  clear_value vs4
  have hvs5 : Keeps m r vs5 := (modLink_keeps (hE.sub rfl) (Keeps.wrf (k := 2) hvs4 (hE.sub rfl)))
  clear_value vs5
  have hvs6 : Keeps m r vs6 := by
    unfold vs6
    refine forAll_keeps (fun _ _ q7 => ?_) hvs5
    refine keeps_ite (P := Keeps m r) (fun _ => ?_) (fun _ => ?_)
    · exact (startAttempt_keeps (hE.sub rfl) q7)
    · exact (Keeps.wrf (k := 2) q7 (hE.sub rfl))
  clear_value vs6
  exact (bringUp_keeps (hE.sub rfl) (showRx_keeps (hE.sub rfl) hvs6))

theorem linkCommand_keeps {m r x1 x2 x3} (hE : Fits 198446063 m) (h1 : Keeps m r x1) :
    Keeps m r (linkCommand x1 x2 x3) := by
  unfold linkCommand
  split
  · exact (portRestart_keeps (hE.sub rfl) h1)
  · refine keeps_ite (P := Keeps m r) (fun _ => ?_) (fun _ => ?_)
    · exact (portIgnored_keeps (hE.sub rfl) h1)
    · exact (portFallow_keeps (hE.sub rfl) h1)
  · refine keeps_ite (P := Keeps m r) (fun _ => ?_) (fun _ => ?_)
    · exact (portRestore_keeps (hE.sub rfl) h1)
    · exact (portIgnored_keeps (hE.sub rfl) h1)
  · refine keeps_ite (P := Keeps m r) (fun _ => ?_) (fun _ => ?_)
    · exact (portTest_keeps (hE.sub rfl) h1)
    · exact (portIgnored_keeps (hE.sub rfl) h1)
  · refine keeps_ite (P := Keeps m r) (fun _ => ?_) (fun _ => ?_)
    · exact (portEndTest_keeps (hE.sub rfl) h1)
    · exact (portIgnored_keeps (hE.sub rfl) h1)

theorem linkCmdWrite_keeps {m r x1 x2 x3 x4} (hE : Fits 265559039 m) (h1 : Keeps m r x1) :
    KeepsW m r (linkCmdWrite x1 x2 x3 x4) := by
  unfold linkCmdWrite
  refine keeps_ite (P := KeepsW m r) (fun _ => ?_) (fun _ => ?_)
  · exact h1
  · exact (cmdWrite_keeps (k := 2) (hE.sub rfl) (hE.sub rfl) h1 (fun _ g1 => (KeepsP.mk (settle_keeps (hE.sub rfl) (linkCommand_keeps (hE.sub rfl) g1)))))

theorem linkRow_keeps {m r x1 x2 x3 x4} (hE : Fits 265559039 m) (h1 : Keeps m r x1) :
    Keeps m r (linkRow x1 x2 x3 x4) := by
  unfold linkRow
  exact (mgApply_keeps (hE.sub rfl) h1 (fun _ g1 => (linkCmdWrite_keeps (hE.sub rfl) g1)))

theorem execEndTest_keeps {m r x1 x2 x3} (hE : Fits 265559039 m) (h3 : Keeps m r x3) :
    KeepsA m r (execEndTest x1 x2 x3) := by
  unfold execEndTest
  exact (KeepsA.next (linkRow_keeps (hE.sub rfl) h3))

theorem execHeaderLock_keeps {m r x1 x2 x3 x4} (hE : Fits 134479874 m) (h4 : Keeps m r x4) :
    KeepsA m r (execHeaderLock x1 x2 x3 x4) := by
  unfold execHeaderLock
  exact (laneEvent_keeps (hE.sub rfl) h4 (fun _ _ g1 => (Keeps.wrf (k := 2) (Keeps.wrf (k := 2) (setLaneState_keeps (hE.sub rfl) g1) (hE.sub rfl)) (hE.sub rfl))))

theorem execHeaderLoss_keeps {m r x1 x2} (hE : Fits 134479874 m) (h2 : Keeps m r x2) :
    KeepsA m r (execHeaderLoss x1 x2) := by
  unfold execHeaderLoss
  exact (laneEvent_keeps (hE.sub rfl) h2 (fun _ _ g1 => (setLaneState_keeps (hE.sub rfl) g1)))

theorem laneTestWrite_keeps {m r x1 x2 x3 x4} (hE : Fits 134483968 m) (h1 : Keeps m r x1) :
    KeepsW m r (laneTestWrite x1 x2 x3 x4) := by
  unfold laneTestWrite
  extract_lets -underBinder -merge -useContext +onlyGivenNames vold1 vs2
  have hvs2 : Keeps m r vs2 := (regWrite_keeps (k := 2) (hE.sub rfl) (hE.sub rfl) h1)
  clear_value vs2
  refine keeps_ite (P := KeepsW m r) (fun _ => ?_) (fun _ => ?_)
  · exact (refuseR12_keeps (hE.sub rfl) h1)
  · show Keeps m r _
    refine keeps_ite (P := Keeps m r) (fun _ => ?_) (fun _ => ?_)
    · exact hvs2
    · exact (Keeps.wrf (k := 2) hvs2 (hE.sub rfl))

theorem execLaneTestWrite_keeps {m r x1 x2 x3 x4} (hE : Fits 168038656 m) (h4 : Keeps m r x4) :
    KeepsA m r (execLaneTestWrite x1 x2 x3 x4) := by
  unfold execLaneTestWrite
  exact (KeepsA.next (mgApply_keeps (hE.sub rfl) h4 (fun _ g1 => (laneTestWrite_keeps (hE.sub rfl) g1))))

theorem execLockLoss_keeps {m r x1 x2} (hE : Fits 134479874 m) (h2 : Keeps m r x2) :
    KeepsA m r (execLockLoss x1 x2) := by
  unfold execLockLoss
  exact (laneEvent_keeps (hE.sub rfl) h2 (fun _ _ g1 => (count_keeps (hE.sub rfl) (setLaneState_keeps (hE.sub rfl) g1))))

theorem execMarkerCheck_keeps {m r x1 x2 x3 x4} (hE : Fits 134479874 m) (h4 : Keeps m r x4) :
    KeepsA m r (execMarkerCheck x1 x2 x3 x4) := by
  unfold execMarkerCheck
  refine laneEvent_keeps (hE.sub rfl) h4 (fun _ _ g4 => ?_)
  refine keeps_ite (P := Keeps m r) (fun _ => ?_) (fun _ => ?_)
  · exact (modLink_keeps (hE.sub rfl) (setLaneState_keeps (hE.sub rfl) g4))
  · refine keeps_ite (P := Keeps m r) (fun _ => ?_) (fun _ => ?_)
    · exact g4
    · exact (setLaneState_keeps (hE.sub rfl) g4)

theorem execNakRepeat_keeps {m r x1 x2} (hE : Fits 2 m) (h2 : Keeps m r x2) :
    KeepsA m r (execNakRepeat x1 x2) := by
  unfold execNakRepeat
  refine keeps_ite (P := KeepsA m r) (fun _ => ?_) (fun _ => ?_)
  · exact (KeepsA.next (sendNak_keeps (hE.sub rfl) h2))
  · exact (KeepsA.next h2)

theorem execPortDown_keeps {m r x1 x2} (hE : Fits 265554943 m) (h2 : Keeps m r x2) :
    KeepsA m r (execPortDown x1 x2) := by
  unfold execPortDown
  exact (KeepsA.next (settle_keeps (hE.sub rfl) (portLost_keeps (hE.sub rfl) h2)))

theorem execPortFallow_keeps {m r x1 x2 x3} (hE : Fits 265559039 m) (h3 : Keeps m r x3) :
    KeepsA m r (execPortFallow x1 x2 x3) := by
  unfold execPortFallow
  exact (KeepsA.next (linkRow_keeps (hE.sub rfl) h3))

theorem execPortRestart_keeps {m r x1 x2 x3} (hE : Fits 265559039 m) (h3 : Keeps m r x3) :
    KeepsA m r (execPortRestart x1 x2 x3) := by
  unfold execPortRestart
  exact (KeepsA.next (linkRow_keeps (hE.sub rfl) h3))

theorem execPortRestore_keeps {m r x1 x2 x3} (hE : Fits 265559039 m) (h3 : Keeps m r x3) :
    KeepsA m r (execPortRestore x1 x2 x3) := by
  unfold execPortRestore
  exact (KeepsA.next (linkRow_keeps (hE.sub rfl) h3))

theorem execPortTest_keeps {m r x1 x2 x3} (hE : Fits 265559039 m) (h3 : Keeps m r x3) :
    KeepsA m r (execPortTest x1 x2 x3) := by
  unfold execPortTest
  exact (KeepsA.next (linkRow_keeps (hE.sub rfl) h3))

theorem execPortWaitExpiry_keeps {m r x1 x2} (hE : Fits 134479874 m) (h2 : Keeps m r x2) :
    KeepsA m r (execPortWaitExpiry x1 x2) := by
  unfold execPortWaitExpiry
  extract_lets -underBinder -merge -useContext +onlyGivenNames vph1
  refine keeps_ite (P := KeepsA m r) (fun _ => ?_) (fun _ => ?_)
  · exact (KeepsA.next (leaveLanes_keeps (hE.sub rfl) h2))
  · exact (KeepsA.next h2)

theorem execPrbsLock_keeps {m r x1 x2} (hE : Fits 262144 m) (h2 : Keeps m r x2) :
    KeepsA m r (execPrbsLock x1 x2) := by
  unfold execPrbsLock
  refine keeps_ite (P := KeepsA m r) (fun _ => ?_) (fun _ => ?_)
  · exact (KeepsA.next (Keeps.wrf (k := 2) h2 (hE.sub rfl)))
  · exact (KeepsA.next h2)

theorem execPrbsLockLoss_keeps {m r x1 x2 x3} (hE : Fits 262144 m) (h3 : Keeps m r x3) :
    KeepsA m r (execPrbsLockLoss x1 x2 x3) := by
  unfold execPrbsLockLoss
  refine keeps_ite (P := KeepsA m r) (fun _ => ?_) (fun _ => ?_)
  · exact (KeepsA.next (Keeps.wrf (k := 2) (Keeps.bump (k := 2) h3 (hE.sub rfl)) (hE.sub rfl)))
  · exact (KeepsA.next h3)

theorem execRateStepFailed_keeps {m r x1 x2} (hE : Fits 134479874 m) (h2 : Keeps m r x2) :
    KeepsA m r (execRateStepFailed x1 x2) := by
  unfold execRateStepFailed
  extract_lets -underBinder -merge -useContext +onlyGivenNames vs1 vs2
  have hvs1 : Keeps m r vs1 := (setPortReason_keeps (hE.sub rfl) (modLink_keeps (hE.sub rfl) h2))
  clear_value vs1
  have hvs2 : Keeps m r vs2 := (Keeps.wrf (k := 2) (setLinkPhase_keeps (hE.sub rfl) hvs1) (hE.sub rfl))
  clear_value vs2
  refine keeps_ite (P := KeepsA m r) (fun _ => ?_) (fun _ => ?_)
  · exact (KeepsA.next (showRx_keeps (hE.sub rfl) (trainLanes_keeps (hE.sub rfl) hvs2)))
  · exact (KeepsA.next h2)

theorem execRelockTimeout_keeps {m r x1 x2} (hE : Fits 134479874 m) (h2 : Keeps m r x2) :
    KeepsA m r (execRelockTimeout x1 x2) := by
  unfold execRelockTimeout
  exact (laneEvent_keeps (hE.sub rfl) h2 (fun _ _ g1 => (startAttempt_keeps (hE.sub rfl) g1)))

theorem execReplay_keeps {m r x1 x2 x3} (hE : Fits 2 m) (h3 : Keeps m r x3) :
    KeepsA m r (execReplay x1 x2 x3) := by
  unfold execReplay
  extract_lets -underBinder -merge -useContext +onlyGivenNames vl1
  refine keeps_ite (P := KeepsA m r) (fun _ => ?_) (fun _ => ?_)
  · exact (KeepsA.next (setLink_keeps (hE.sub rfl) h3))
  · exact (KeepsA.next h3)

theorem execRetrain_keeps {m r x1 x2 x3} (hE : Fits 168038658 m) (h3 : Keeps m r x3) :
    KeepsA m r (execRetrain x1 x2 x3) := by
  unfold execRetrain
  exact (KeepsA.next (laneRow_keeps (hE.sub rfl) h3))

theorem replayFrom_keeps {m r x1 x2 x3} (hE : Fits 134217730 m) (h1 : Keeps m r x1) :
    Keeps m r (replayFrom x1 x2 x3) := by
  unfold replayFrom
  extract_lets -underBinder -merge -useContext +onlyGivenNames vus1 vs2
  have hvs2 : Keeps m r vs2 := (count_keeps (hE.sub rfl) h1)
  clear_value vs2
  exact (modLink_keeps (hE.sub rfl) hvs2)

theorem execRetryNak_keeps {m r x1 x2 x3} (hE : Fits 265554943 m) (h3 : Keeps m r x3) :
    KeepsA m r (execRetryNak x1 x2 x3) := by
  unfold execRetryNak
  refine keeps_ite (P := KeepsA m r) (fun _ => ?_) (fun _ => ?_)
  · exact (KeepsA.next h3)
  · refine keeps_ite (P := KeepsA m r) (fun _ => ?_) (fun _ => ?_)
    · exact (KeepsA.next (replayFrom_keeps (hE.sub rfl) h3))
    · exact (KeepsA.next (settle_keeps (hE.sub rfl) (portLost_keeps (hE.sub rfl) h3)))

theorem execRetryTimeout_keeps {m r x1 x2} (hE : Fits 134217730 m) (h2 : Keeps m r x2) :
    KeepsA m r (execRetryTimeout x1 x2) := by
  unfold execRetryTimeout
  split
  · exact (KeepsA.next h2)
  · refine keeps_ite (P := KeepsA m r) (fun _ => ?_) (fun _ => ?_)
    · exact (KeepsA.next (replayFrom_keeps (hE.sub rfl) h2))
    · exact (KeepsA.next h2)

theorem goodUnit_keeps {m r x1 x2 x3} (hE : Fits 2 m) (h1 : Keeps m r x1) : Keeps m r (goodUnit x1 x2 x3) := by
  unfold goodUnit
  extract_lets -underBinder -merge -useContext +onlyGivenNames vl1
  refine keeps_ite (P := Keeps m r) (fun _ => ?_) (fun _ => ?_)
  · exact h1
  · exact modLink_keeps (hE.sub rfl) h1

theorem execRetryUnit_keeps {m r x1 x2 x3 x4} (hE : Fits 134217730 m) (h4 : Keeps m r x4) :
    KeepsA m r (execRetryUnit x1 x2 x3 x4) := by
  unfold execRetryUnit
  refine keeps_ite (P := KeepsA m r) (fun _ => ?_) (fun _ => ?_)
  · exact (KeepsA.next h4)
  · split
    · exact (KeepsA.next (goodUnit_keeps (hE.sub rfl) h4))
    · exact (KeepsA.next (goodUnit_keeps (hE.sub rfl) (count_keeps (hE.sub rfl) h4)))
    · exact (KeepsA.next (badUnit_keeps (hE.sub rfl) (count_keeps (hE.sub rfl) h4)))
    · exact (KeepsA.next (badUnit_keeps (hE.sub rfl) h4))
    · exact (KeepsA.next (badUnit_keeps (hE.sub rfl) (count_keeps (hE.sub rfl) h4)))

theorem execWidthChange_keeps {m r x1 x2} (hE : Fits 134479874 m) (h2 : Keeps m r x2) :
    KeepsA m r (execWidthChange x1 x2) := by
  unfold execWidthChange
  extract_lets -underBinder -merge -useContext +onlyGivenNames vset1
  refine keeps_ite (P := KeepsA m r) (fun _ => ?_) (fun _ => ?_)
  · exact (KeepsA.next (event_keeps (hE.sub rfl) (setActive_keeps (hE.sub rfl) h2)))
  · exact (KeepsA.next h2)

theorem resetFuses_slot (s : State) {k : Nat} (h1 : 49 ≤ k) (h2 : k ≤ 56) (h : rdb s aFuse k = true) :
    bitOf (resetFuses s).1 k = true := by
  have hm : (maskOf 63 49).getLsbD k = true := by
    unfold maskOf
    rw [getLsbD_bitsAt, testBit_ones]
    simp only [Bool.and_eq_true, decide_eq_true_eq]
    omega
  have h3 : bitOf (rd s aFuse &&& maskOf 63 49) k = true := by
    show (rd s aFuse &&& maskOf 63 49).getLsbD k = true
    rw [BitVec.getLsbD_and, hm, Bool.and_true]
    exact h
  have h4 : ∀ v, bitOf (putBits (rd s aFuse &&& maskOf 63 49) 63 57 v) k = true := fun v => by
    rw [bitOf_putBits_other _ _ (by omega)]; exact h3
  have h5 : ∀ (w : Word) (j : Nat), bitOf w k = true → bitOf (putBits w j j 1) k = true := fun w j hw => by
    by_cases hj : k = j
    · subst hj
      rw [bitOf_putBits_same _ _ (le_refl _) (le_refl _) (by omega)]
      simp
    · rw [bitOf_putBits_other _ _ (by omega)]; exact hw
  unfold resetFuses
  split <;> split <;> simp only [h3, h4] <;> split <;> simp_all

theorem stopTransmitters_keeps {m r x1} (hE : Fits 262146 m) (h1 : Keeps m r x1) :
    Keeps m r (stopTransmitters x1) := by
  unfold stopTransmitters
  refine forAll_keeps (fun _ _ q1 => ?_) h1
  extract_lets -underBinder -merge -useContext +onlyGivenNames vs2 vs3
  have hvs2 : Keeps m r vs2 := (setLink_keeps (hE.sub rfl) q1)
  clear_value vs2
  have hvs3 : Keeps m r vs3 := by
    unfold vs3
    refine forAll_keeps (fun _ _ q4 => ?_) hvs2
    exact (setLaneState_keeps (hE.sub rfl) q4)
  clear_value vs3
  exact (Keeps.wrf (k := 2) (Keeps.wrf (k := 2) (setPortState_keeps (hE.sub rfl) hvs3) (hE.sub rfl)) (hE.sub rfl))

theorem halt_keeps {m r x1 x2 x3} (hE : Fits 328706 m) (h1 : Keeps m r x1) :
    Keeps m r (halt x1 x2 x3) := by
  unfold halt
  extract_lets -underBinder -merge -useContext +onlyGivenNames vk1 vs2 vs3
  have hvs2 : Keeps m r vs2 := by
    unfold vs2
    refine keeps_ite (P := Keeps m r) (fun _ => ?_) (fun _ => ?_)
    · exact h1
    · exact (journal_keeps (hE.sub rfl) h1)
  clear_value vs2
  have hvs3 : Keeps m r vs3 := (Keeps.bootField (Keeps.bootField hvs2 (hE.sub rfl)) (hE.sub rfl))
  clear_value vs3
  exact (stopTransmitters_keeps (hE.sub rfl) (Keeps.wrf (k := 0) hvs3 (hE.sub rfl)))

theorem haltFree_keeps {m r x1 x2} (hE : Fits 328706 m) (h1 : Keeps m r x1) :
    Keeps m r (haltFree x1 x2) := by
  unfold haltFree
  exact (halt_keeps (hE.sub rfl) (Keeps.upd 0 h1 (hE.sub rfl) rfl))

theorem setBootStep_keeps {m r x1 x2} (hE : Fits 65536 m) (h1 : Keeps m r x1) :
    Keeps m r (setBootStep x1 x2) := by
  unfold setBootStep
  exact (Keeps.bootField h1 (hE.sub rfl))

theorem beginStep_keeps {m r x1 x2} (hE : Fits 328706 m) (h1 : Keeps m r x1) :
    Keeps m r (beginStep x1 x2) := by
  unfold beginStep
  extract_lets -underBinder -merge -useContext +onlyGivenNames vs1
  have hvs1 : Keeps m r vs1 := (journal_keeps (hE.sub rfl) (setBootStep_keeps (hE.sub rfl) h1))
  clear_value vs1
  refine keeps_ite (P := Keeps m r) (fun _ => ?_) (fun _ => ?_)
  · exact (haltFree_keeps (hE.sub rfl) hvs1)
  · exact hvs1

theorem openStart_keeps {m r x1} (hE : Fits 361474 m) (h1 : Keeps m r x1) :
    Keeps m r (openStart x1) := by
  unfold openStart
  extract_lets -underBinder -merge -useContext +onlyGivenNames vrs1 vcold2 vstarts3 vseq4 vons5 vfailed6 vsrc7 vboot8 vs9 vs10 vs11
  have hvs9 : Keeps m r vs9 := (Keeps.upd 33792 h1 (hE.sub rfl) rfl)
  clear_value vs9
  have hvs10 : Keeps m r vs10 := (Keeps.bootField (Keeps.bootField hvs9 (hE.sub rfl)) (hE.sub rfl))
  clear_value vs10
  have hvs11 : Keeps m r vs11 := (journal_keeps (hE.sub rfl) hvs10)
  clear_value vs11
  exact (beginStep_keeps (hE.sub rfl) hvs11)

theorem beginStart_keeps {m r x1} (hE : Fits 361474 m) (h1 : Keeps m r x1) :
    Keeps m r (beginStart x1) := by
  unfold beginStart
  refine keeps_ite (P := Keeps m r) (fun _ => ?_) (fun _ => ?_)
  · exact h1
  · refine keeps_ite (P := Keeps m r) (fun _ => ?_) (fun _ => ?_)
    · exact (setBootStep_keeps (hE.sub rfl) h1)
    · exact (openStart_keeps (hE.sub rfl) h1)

theorem cutJob_keeps {m r x1 x2} (hE : Fits 16384 m) (h1 : Keeps m r x1) :
    Keeps m r (cutJob x1 x2) := by
  unfold cutJob
  split
  · exact h1
  · refine keeps_ite (P := Keeps m r) (fun _ => runJob_keeps (hE.sub rfl) h1) (fun _ => ?_)
    refine keeps_ite (P := Keeps m r) (fun _ => ?_) (fun _ => h1)
    exact setFlash_keeps (hE.sub rfl) h1 fun h => memoryWf_filter _ (flashOf_wf h)

theorem resetState_keeps {m r x1} (hE : Fits 131071 m) (h1 : Keeps m r x1) :
    Keeps m r (resetState x1) := by
  unfold resetState
  extract_lets -underBinder -merge -useContext +onlyGivenNames s2
  have h2 : Keeps m r s2 := cutJob_keeps (hE.sub rfl) (cutJob_keeps (hE.sub rfl) h1)
  clear_value s2
  refine h2.trans
    { pending := rfl, regs := fun _ => regsWf_wr _ _ _ rfl, mem := fun h => ⟨rfl, h.2.1, h.2.2.1, rfl⟩
      capId := fun _ => by rw [rd_wr_other (by decide)]; rfl
      capSizes := fun _ => by rw [rd_wr_other (by decide)]; rfl
      boot := fun _ => by
        unfold rdf
        rw [rd_wr_other (by decide)]
        exact (by decide : bitsOf (resetWord aBoot) 59 58 ≤ 2)
      fuses := fun k h3 h4 h5 => by
        unfold rdb
        rw [rd_wr_same]
        exact resetFuses_slot s2 h3 h4 h5
      low := fun a ha => absurd (Keeps.lowBit (hE.sub rfl) ha) id
      flashA := fun _ => rfl, flashB := fun _ => rfl
      fab := fun e => absurd (hE.off e) (by decide), links := fun e => absurd (hE.off e) (by decide), grn := fun e => absurd (hE.off e) (by decide)
      bnd := fun e => absurd (hE.off e) (by decide), cores := fun e => absurd (hE.off e) (by decide), stk := fun e => absurd (hE.off e) (by decide)
      vrd := fun e => absurd (hE.off e) (by decide), adv := fun e => absurd (hE.off e) (by decide), rcd := fun e => absurd (hE.off e) (by decide)
      yld := fun e => absurd (hE.off e) (by decide), work := fun e => absurd (hE.off e) (by decide), hbm := fun e => absurd (hE.off e) (by decide)
      mg := fun e => absurd (hE.off e) (by decide), el := fun e => absurd (hE.off e) (by decide), trust := fun e => absurd (hE.off e) (by decide) }

theorem execPorAssert_keeps {m r x1} (hE : Fits 131071 m) (h1 : Keeps m r x1) :
    KeepsA m r (execPorAssert x1) := by
  unfold execPorAssert
  extract_lets -underBinder -merge -useContext +onlyGivenNames vsrc1 vsrc2 vs3
  have hvs3 : Keeps m r vs3 := (Keeps.upd 40960 h1 (hE.sub rfl) rfl)
  clear_value vs3
  exact (KeepsA.next (resetState_keeps (hE.sub rfl) hvs3))

theorem execPorRelease_keeps {m r x1} (hE : Fits 369666 m) (h1 : Keeps m r x1) :
    KeepsA m r (execPorRelease x1) := by
  unfold execPorRelease
  extract_lets -underBinder -merge -useContext +onlyGivenNames vsrc1 vsrc2 vs3
  have hvs3 : Keeps m r vs3 := (Keeps.upd 40960 h1 (hE.sub rfl) rfl)
  clear_value vs3
  refine keeps_ite (P := KeepsA m r) (fun _ => ?_) (fun _ => ?_)
  · exact (KeepsA.next h1)
  · exact (KeepsA.next (beginStart_keeps (hE.sub rfl) hvs3))

theorem execWarmResetAssert_keeps {m r x1} (hE : Fits 131071 m) (h1 : Keeps m r x1) :
    KeepsA m r (execWarmResetAssert x1) := by
  unfold execWarmResetAssert
  extract_lets -underBinder -merge -useContext +onlyGivenNames vcold1 vsrc2 vs3
  have hvs3 : Keeps m r vs3 := (Keeps.upd 32768 h1 (hE.sub rfl) rfl)
  clear_value vs3
  refine KeepsA.next ?_
  refine keeps_ite (P := Keeps m r) (fun _ => ?_) (fun _ => ?_)
  · exact hvs3
  · exact (resetState_keeps (hE.sub rfl) hvs3)

theorem execWarmResetRelease_keeps {m r x1} (hE : Fits 369666 m) (h1 : Keeps m r x1) :
    KeepsA m r (execWarmResetRelease x1) := by
  unfold execWarmResetRelease
  extract_lets -underBinder -merge -useContext +onlyGivenNames vsrc1 vs2 vsrc3 vsrc4 vs5
  have hvs2 : Keeps m r vs2 := (Keeps.upd 32768 h1 (hE.sub rfl) rfl)
  clear_value vs2
  have hvs5 : Keeps m r vs5 := (Keeps.upd 40960 hvs2 (hE.sub rfl) rfl)
  clear_value vs5
  refine keeps_ite (P := KeepsA m r) (fun _ => ?_) (fun _ => ?_)
  · exact (KeepsA.next h1)
  · refine keeps_ite (P := KeepsA m r) (fun _ => ?_) (fun _ => ?_)
    · exact (KeepsA.next hvs2)
    · exact (KeepsA.next (beginStart_keeps (hE.sub rfl) hvs5))

theorem selfReset_keeps {m r x1} (hE : Fits 393215 m) (h1 : Keeps m r x1) :
    Keeps m r (selfReset x1) := by
  unfold selfReset
  extract_lets -underBinder -merge -useContext +onlyGivenNames vjs1 vs2 vs3 vsrc4
  have hvs2 : Keeps m r vs2 := (setJobs_keeps (hE.sub rfl) h1)
  clear_value vs2
  have hvs3 : Keeps m r vs3 := by
    unfold vs3
    refine forAll_keeps (fun _ _ q5 => ?_) hvs2
    extract_lets -underBinder -merge -useContext +onlyGivenNames vs6
    have hvs6 : Keeps m r vs6 := (runJob_keeps (hE.sub rfl) q5)
    clear_value vs6
    refine keeps_ite (P := Keeps m r) (fun _ => ?_) (fun _ => ?_)
    · exact (runJob_keeps (hE.sub rfl) hvs6)
    · exact hvs6
  clear_value vs3
  exact (beginStart_keeps (hE.sub rfl) (resetState_keeps (hE.sub rfl) (Keeps.upd 32768 hvs3 (hE.sub rfl) rfl)))

theorem skip_keeps {m r x1 x2} (hE : Fits 65536 m) (h1 : Keeps m r x1) (hn : x2 < 30 := by omega) :
    Keeps m r (skip x1 x2) := Keeps.bootField h1 (hE.sub rfl) (by omega)

theorem okAt_aSensor {n : Nat} (h : n < 64) : okAt 0 (aSensor n) :=
  ⟨by unfold aSensor; omega, Nat.zero_le _⟩

theorem alertWrite_keeps {m r x1 x2 x3} (hE : Fits 134283264 m) (h1 : Keeps m r x1) :
    KeepsW m r (alertWrite x1 x2 x3) := by
  unfold alertWrite
  extract_lets -underBinder -merge -useContext +onlyGivenNames vs1
  have hvs1 : Keeps m r vs1 := (logWrite_keeps (hE.sub rfl) h1)
  clear_value vs1
  exact (Keeps.wr (k := 0) hvs1 (hE.sub rfl))

theorem coreIslandDown_keeps {m r x1 x2} (hE : Fits 265358333 m) (h1 : Keeps m r x1) :
    Keeps m r (coreIslandDown x1 x2) := by
  unfold coreIslandDown
  extract_lets -underBinder -merge -useContext +onlyGivenNames vs1 vs2 vn3
  have hvs1 : Keeps m r vs1 := by
    unfold vs1
    split
    · exact (setCoreState_keeps (hE.sub rfl) (setJob_keeps (hE.sub rfl) h1))
    · exact (setJob_keeps (hE.sub rfl) h1)
    · exact h1
  clear_value vs1
  have hvs2 : Keeps m r vs2 := (recountCores_keeps (hE.sub rfl) (setRetireMark_keeps (hE.sub rfl) (setCoreState_keeps (hE.sub rfl) hvs1)))
  clear_value vs2
  refine keeps_ite (P := Keeps m r) (fun _ => ?_) (fun _ => ?_)
  · exact h1
  · refine keeps_ite (P := Keeps m r) (fun _ => ?_) (fun _ => ?_)
    · exact (clusterFallow_keeps (hE.sub rfl) hvs2)
    · exact hvs2

theorem dropLanes_keeps {m r x1 x2} (hE : Fits 134479872 m) (h1 : Keeps m r x1) :
    Keeps m r (dropLanes x1 x2) := by
  unfold dropLanes
  refine forAll_keeps (fun _ _ q1 => ?_) h1
  extract_lets -underBinder -merge -useContext +onlyGivenNames vs2
  have hvs2 : Keeps m r vs2 := by
    unfold vs2
    refine keeps_ite (P := Keeps m r) (fun _ => ?_) (fun _ => ?_)
    · exact (count_keeps (hE.sub rfl) q1)
    · exact q1
  clear_value vs2
  refine keeps_ite (P := Keeps m r) (fun _ => ?_) (fun _ => ?_)
  · exact hvs2
  · exact (startAttempt_keeps (hE.sub rfl) hvs2)

theorem execAlertClear_keeps {m r x1 x2 x3} (hE : Fits 167837952 m) (h3 : Keeps m r x3) :
    KeepsA m r (execAlertClear x1 x2 x3) := by
  unfold execAlertClear
  exact (KeepsA.next (mgApply_keeps (hE.sub rfl) h3 (fun _ g1 => (alertWrite_keeps (hE.sub rfl) g1))))

theorem execAvsUpdate_keeps {m r x1 x2 x3} (hE : Fits 73728 m) (h3 : Keeps m r x3) :
    KeepsA m r (execAvsUpdate x1 x2 x3) := by
  unfold execAvsUpdate
  extract_lets -underBinder -merge -useContext +onlyGivenNames vsrc1 vsrc2 vs3
  have hvs3 : Keeps m r vs3 := (Keeps.upd 8192 h3 (hE.sub rfl) rfl)
  refine keeps_ite (P := KeepsA m r) (fun _ => KeepsA.next h3) (fun _ => ?_)
  refine keeps_ite (P := KeepsA m r) (fun _ => KeepsA.next (Keeps.upd 8192 h3 (hE.sub rfl) rfl)) (fun _ => ?_)
  exact KeepsA.next (keeps_ite (P := Keeps m r) (fun _ => Keeps.wrf (k := 0) hvs3 (hE.sub rfl)) (fun _ => hvs3))

theorem execDroopStretch_keeps {m r x1 x2} (hE : Fits 8192 m) (h2 : Keeps m r x2) :
    KeepsA m r (execDroopStretch x1 x2) := by
  unfold execDroopStretch
  extract_lets -underBinder -merge -useContext +onlyGivenNames vsrc1
  refine keeps_ite (P := KeepsA m r) (fun _ => ?_) (fun _ => ?_)
  · exact (KeepsA.next h2)
  · exact (KeepsA.next (Keeps.upd 8192 h2 (hE.sub rfl) rfl))

theorem octetDown_keeps {m r x1 x2} (hE : Fits 198446063 m) (h1 : Keeps m r x1) :
    Keeps m r (octetDown x1 x2) := by
  unfold octetDown
  refine forAll_keeps (fun _ _ q1 => ?_) h1
  exact (portLost_keeps (hE.sub rfl) (showRx_keeps (hE.sub rfl) (dropLanes_keeps (hE.sub rfl) q1)))

theorem execPllLockLoss_keeps {m r x1 x2} (hE : Fits 533990399 m) (h2 : Keeps m r x2) :
    KeepsA m r (execPllLockLoss x1 x2) := by
  unfold execPllLockLoss
  extract_lets -underBinder -merge -useContext +onlyGivenNames vs1
  have hvs1 : Keeps m r vs1 := (setIsland_keeps (hE.sub rfl) h2)
  clear_value vs1
  refine keeps_ite (P := KeepsA m r) (fun _ => ?_) (fun _ => ?_)
  · exact (KeepsA.next h2)
  · refine keeps_ite (P := KeepsA m r) (fun _ => ?_) (fun _ => ?_)
    · exact (KeepsA.next (settle_keeps (hE.sub rfl) (octetDown_keeps (hE.sub rfl) hvs1)))
    · exact (KeepsA.next hvs1)

theorem octetUp_keeps {m r x1 x2} (hE : Fits 134479874 m) (h1 : Keeps m r x1) :
    Keeps m r (octetUp x1 x2) := by
  unfold octetUp
  refine forAll_keeps (fun _ _ q1 => ?_) h1
  refine keeps_ite (P := Keeps m r) (fun _ => ?_) (fun _ => ?_)
  · exact q1
  · exact (bringUp_keeps (hE.sub rfl) (trainLanes_keeps (hE.sub rfl) q1))

theorem relock_keeps {m r x1 x2} (hE : Fits 268435456 m) (h1 : Keeps m r x1) :
    Keeps m r (relock x1 x2) := by
  unfold relock
  exact (setIsland_keeps (hE.sub rfl) (Keeps.bump (k := 12) h1 (hE.sub rfl)))

theorem execPllRelock_keeps {m r x1 x2} (hE : Fits 402915330 m) (h2 : Keeps m r x2) :
    KeepsA m r (execPllRelock x1 x2) := by
  unfold execPllRelock
  extract_lets -underBinder -merge -useContext +onlyGivenNames vs1
  have hvs1 : Keeps m r vs1 := (relock_keeps (hE.sub rfl) h2)
  clear_value vs1
  refine keeps_ite (P := KeepsA m r) (fun _ => ?_) (fun _ => ?_)
  · exact (KeepsA.next h2)
  · refine keeps_ite (P := KeepsA m r) (fun _ => ?_) (fun _ => ?_)
    · exact (KeepsA.next (octetUp_keeps (hE.sub rfl) hvs1))
    · exact (KeepsA.next hvs1)

theorem execRailFault_keeps {m r x1 x2} (hE : Fits 73728 m) (h2 : Keeps m r x2) :
    KeepsA m r (execRailFault x1 x2) := by
  unfold execRailFault
  extract_lets -underBinder -merge -useContext +onlyGivenNames vsrc1 vs2
  have hvs2 : Keeps m r vs2 := (Keeps.upd 8192 h2 (hE.sub rfl) rfl)
  clear_value vs2
  refine keeps_ite (P := KeepsA m r) (fun _ => ?_) (fun _ => ?_)
  · exact (KeepsA.next h2)
  · refine KeepsA.next ?_
    refine keeps_ite (P := Keeps m r) (fun _ => ?_) (fun _ => ?_)
    · exact hvs2
    · exact (Keeps.wrf (k := 0) hvs2 (hE.sub rfl))

theorem execRailReturn_keeps {m r x1 x2} (hE : Fits 8192 m) (h2 : Keeps m r x2) :
    KeepsA m r (execRailReturn x1 x2) := by
  unfold execRailReturn
  extract_lets -underBinder -merge -useContext +onlyGivenNames vsrc1
  refine keeps_ite (P := KeepsA m r) (fun _ => ?_) (fun _ => ?_)
  · exact (KeepsA.next (Keeps.upd 8192 h2 (hE.sub rfl) rfl))
  · exact (KeepsA.next h2)

theorem execSdrefLoss_keeps {m r x1 x2} (hE : Fits 534064127 m) (h2 : Keeps m r x2) :
    KeepsA m r (execSdrefLoss x1 x2) := by
  unfold execSdrefLoss
  extract_lets -underBinder -merge -useContext +onlyGivenNames vsrc1 vs2 vs3 vos4
  have hvs2 : Keeps m r vs2 := (Keeps.upd 8192 h2 (hE.sub rfl) rfl)
  clear_value vs2
  have hvs3 : Keeps m r vs3 := (Keeps.wrf (k := 0) hvs2 (hE.sub rfl))
  clear_value vs3
  refine keeps_ite (P := KeepsA m r) (fun _ => ?_) (fun _ => ?_)
  · exact (KeepsA.next h2)
  · refine keeps_ite (P := KeepsA m r) (fun _ => ?_) (fun _ => ?_)
    · exact (KeepsA.next hvs2)
    · refine KeepsA.next ?_
      refine settle_keeps (hE.sub rfl) ?_
      refine forAll_keeps (fun _ _ q5 => ?_) hvs3
      exact (octetDown_keeps (hE.sub rfl) (setIsland_keeps (hE.sub rfl) q5))

theorem execSdrefReturn_keeps {m r x1 x2} (hE : Fits 402923522 m) (h2 : Keeps m r x2) :
    KeepsA m r (execSdrefReturn x1 x2) := by
  unfold execSdrefReturn
  extract_lets -underBinder -merge -useContext +onlyGivenNames vsrc1 vs2 vos3
  have hvs2 : Keeps m r vs2 := (Keeps.upd 8192 h2 (hE.sub rfl) rfl)
  clear_value vs2
  refine keeps_ite (P := KeepsA m r) (fun _ => ?_) (fun _ => ?_)
  · exact (KeepsA.next h2)
  · refine KeepsA.next ?_
    refine forAll_keeps (fun _ _ q4 => ?_) hvs2
    exact (octetUp_keeps (hE.sub rfl) (relock_keeps (hE.sub rfl) q4))

theorem substitute_keeps {m r x1 x2 x3} (hE : Fits 65536 m) (h3 : Keeps m r x3) (hn : ∀ n ∈ x2, n < 64) :
    Keeps m r (substitute x1 x2 x3) := by
  unfold substitute
  refine forAll_keeps_mem (fun _ n hm q => Keeps.wrf (k := 0) q (hE.sub rfl) (okAt_aSensor ?_)) h3
  exact hn n (List.mem_of_mem_filter hm)

theorem sampleSensor_keeps {m r x1 x2 x3} (hE : Fits 73728 m) (h1 : Keeps m r x1) (hn : x2 < 64) :
    Keeps m r (sampleSensor x1 x2 x3) := by
  unfold sampleSensor
  have ha := okAt_aSensor hn
  extract_lets -underBinder -merge -useContext +onlyGivenNames vlast1 vfar2 vk3 vsrc4 vs5 vs6 vseen7 vsrc8 vs9
  have hvs5 : Keeps m r vs5 := (Keeps.upd 8192 h1 (hE.sub rfl) rfl)
  clear_value vs5
  have hvs6 : Keeps m r vs6 := (Keeps.wrf (k := 0) (Keeps.bump (k := 0) hvs5 (hE.sub rfl) ha) (hE.sub rfl) ha)
  clear_value vs6
  have hvs9 : Keeps m r vs9 := (Keeps.upd 8192 h1 (hE.sub rfl) rfl)
  clear_value vs9
  refine keeps_ite (P := Keeps m r) (fun _ => ?_) (fun _ => ?_)
  · exact h1
  · refine keeps_ite (P := Keeps m r) (fun _ => ?_) (fun _ => ?_)
    · refine keeps_ite (P := Keeps m r) (fun _ => ?_) (fun _ => ?_)
      · exact hvs6
      · exact (Keeps.wrf (k := 0) (Keeps.bump (k := 0) (Keeps.wrf (k := 0) hvs6 (hE.sub rfl) ha) (hE.sub rfl)) (hE.sub rfl))
    · exact (Keeps.wrf (k := 0) (Keeps.wrf (k := 0) hvs9 (hE.sub rfl) ha) (hE.sub rfl) ha)

theorem execSensorSample_keeps {m r x1 x2} (hE : Fits 73728 m) (h2 : Keeps m r x2) :
    KeepsA m r (execSensorSample x1 x2) := by
  unfold execSensorSample
  extract_lets -underBinder -merge -useContext +onlyGivenNames vs1 vs2 vs3
  have hvs1 : Keeps m r vs1 := by
    unfold vs1
    refine forAll_keeps_mem (fun _ x hx q4 => sampleSensor_keeps (hE.sub rfl) q4 ?_) h2
    have h5 := List.snd_lt_of_mem_zipIdx hx
    simp only [List.length_take] at h5
    omega
  clear_value vs1
  have hvs2 : Keeps m r vs2 := (substitute_keeps (hE.sub rfl) (substitute_keeps (hE.sub rfl) hvs1 (by decide)) (by decide))
  clear_value vs2
  have hvs3 : Keeps m r vs3 := (Keeps.wrf (k := 0) (Keeps.wrf (k := 0) hvs2 (hE.sub rfl)) (hE.sub rfl))
  clear_value vs3
  refine keeps_ite (P := KeepsA m r) (fun _ => ?_) (fun _ => ?_)
  · exact (KeepsA.next h2)
  · exact (KeepsA.next (Keeps.wr (k := 0) hvs3 (hE.sub rfl)))

theorem execSysclkLoss_keeps {m r x1} (hE : Fits 131071 m) (h1 : Keeps m r x1) :
    KeepsA m r (execSysclkLoss x1) := by
  unfold execSysclkLoss
  extract_lets -underBinder -merge -useContext +onlyGivenNames vcold1 vsrc2 vsrc3 vs4
  have hvs4 : Keeps m r vs4 := (Keeps.upd 40960 h1 (hE.sub rfl) rfl)
  clear_value vs4
  exact (KeepsA.next (resetState_keeps (hE.sub rfl) hvs4))

theorem setTap_keeps {m r x1 x2} (hE : Fits 8192 m) (h1 : Keeps m r x1) :
    Keeps m r (setTap x1 x2) := by
  unfold setTap
  extract_lets -underBinder -merge -useContext +onlyGivenNames vsrc1
  refine keeps_ite (P := Keeps m r) (fun _ => ?_) (fun _ => ?_)
  · exact (Keeps.upd 8192 h1 (hE.sub rfl) rfl)
  · exact h1

theorem tapBypass_keeps {m r x1} (hE : Fits 8192 m) (h1 : Keeps m r x1) :
    Keeps m r (tapBypass x1) := by
  unfold tapBypass
  exact (setTap_keeps (hE.sub rfl) h1)

theorem execTapBypass_keeps {m r x1} (hE : Fits 8192 m) (h1 : Keeps m r x1) :
    KeepsA m r (execTapBypass x1) := by
  unfold execTapBypass
  exact (KeepsA.next (tapBypass_keeps (hE.sub rfl) h1))

theorem execTapExtest_keeps {m r x1 x2} (hE : Fits 8192 m) (h2 : Keeps m r x2) :
    KeepsA m r (execTapExtest x1 x2) := by
  unfold execTapExtest
  extract_lets -underBinder -merge -useContext +onlyGivenNames vsrc1
  refine KeepsA.next ?_
  refine keeps_ite (P := Keeps m r) (fun _ => ?_) (fun _ => ?_)
  · exact (setTap_keeps (hE.sub rfl) h2)
  · exact (tapBypass_keeps (hE.sub rfl) h2)

theorem execTapIdcode_keeps {m r x1} (hE : Fits 8192 m) (h1 : Keeps m r x1) :
    KeepsA m r (execTapIdcode x1) := by
  unfold execTapIdcode
  exact (KeepsA.next (setTap_keeps (hE.sub rfl) h1))

theorem execTapPacketAccess_keeps {m r x1 x2} (hE : Fits 8192 m) (h2 : Keeps m r x2) :
    KeepsA m r (execTapPacketAccess x1 x2) := by
  unfold execTapPacketAccess
  extract_lets -underBinder -merge -useContext +onlyGivenNames vsrc1
  refine KeepsA.next ?_
  refine keeps_ite (P := Keeps m r) (fun _ => ?_) (fun _ => ?_)
  · exact (setTap_keeps (hE.sub rfl) h2)
  · exact (tapBypass_keeps (hE.sub rfl) h2)

theorem execTapSamplePreload_keeps {m r x1 x2} (hE : Fits 8192 m) (h2 : Keeps m r x2) :
    KeepsA m r (execTapSamplePreload x1 x2) := by
  unfold execTapSamplePreload
  extract_lets -underBinder -merge -useContext +onlyGivenNames vsrc1
  refine KeepsA.next ?_
  refine keeps_ite (P := Keeps m r) (fun _ => ?_) (fun _ => ?_)
  · exact (setTap_keeps (hE.sub rfl) h2)
  · exact (tapBypass_keeps (hE.sub rfl) h2)

theorem execThermTrip_keeps {m r x1} (hE : Fits 268705794 m) (h1 : Keeps m r x1) :
    KeepsA m r (execThermTrip x1) := by
  unfold execThermTrip
  extract_lets -underBinder -merge -useContext +onlyGivenNames vsrc1 vs2
  have hvs2 : Keeps m r vs2 := (Keeps.upd 8192 h1 (hE.sub rfl) rfl)
  clear_value vs2
  refine KeepsA.next ?_
  refine stopTransmitters_keeps (hE.sub rfl) ?_
  refine forAll_keeps (fun _ _ q3 => ?_) hvs2
  exact (setIsland_keeps (hE.sub rfl) q3)

theorem execThermalThrottle_keeps {m r x1} (hE : Fits 73728 m) (h1 : Keeps m r x1) :
    KeepsA m r (execThermalThrottle x1) := by
  unfold execThermalThrottle
  extract_lets -underBinder -merge -useContext +onlyGivenNames vslow1 vs2 vs3 vsteps4 vsrc5 vs6
  have hvs2 : Keeps m r vs2 := by
    unfold vs2
    refine keeps_ite (P := Keeps m r) (fun _ => ?_) (fun _ => ?_)
    · exact (Keeps.bump (k := 0) h1 (hE.sub rfl))
    · exact h1
  clear_value vs2
  have hvs3 : Keeps m r vs3 := (Keeps.wrf (k := 0) hvs2 (hE.sub rfl))
  clear_value vs3
  have hvs6 : Keeps m r vs6 := (Keeps.upd 8192 hvs3 (hE.sub rfl) rfl)
  clear_value vs6
  refine keeps_ite (P := KeepsA m r) (fun _ => ?_) (fun _ => ?_)
  · exact (KeepsA.next h1)
  · exact (KeepsA.next (Keeps.wrf (k := 0) hvs6 (hE.sub rfl)))

theorem octetPortDown_keeps {m r x1 x2} (hE : Fits 198446063 m) (h1 : Keeps m r x1) :
    Keeps m r (octetPortDown x1 x2) := by
  unfold octetPortDown
  exact (portFallow_keeps (hE.sub rfl) (Keeps.wrf (k := 2) h1 (hE.sub rfl)))

theorem islandDown_keeps {m r x1 x2} (hE : Fits 265682943 m) (h1 : Keeps m r x1) :
    Keeps m r (islandDown x1 x2) := by
  unfold islandDown
  refine keeps_ite (P := Keeps m r) (fun _ => ?_) (fun _ => ?_)
  · exact (settle_keeps (hE.sub rfl) (coreIslandDown_keeps (hE.sub rfl) h1))
  · refine keeps_ite (P := Keeps m r) (fun _ => ?_) (fun _ => ?_)
    · refine settle_keeps (hE.sub rfl) ?_
      refine forAll_keeps (fun _ _ q1 => ?_) h1
      exact (octetPortDown_keeps (hE.sub rfl) q1)
    · refine keeps_ite (P := Keeps m r) (fun _ => ?_) (fun _ => ?_)
      · exact (selfReset_keeps (hE.sub rfl) (journal_keeps (hE.sub rfl) h1))
      · refine keeps_ite (P := Keeps m r) (fun _ => ?_) (fun _ => ?_)
        · exact (settle_keeps (hE.sub rfl) (clusterFallow_keeps (hE.sub rfl) h1))
        · refine keeps_ite (P := Keeps m r) (fun _ => ?_) (fun _ => ?_)
          · exact (settle_keeps (hE.sub rfl) (clusterFallow_keeps (hE.sub rfl) h1))
          · exact (Keeps.wrf (k := 0) h1 (hE.sub rfl))

theorem execXingTimeout_keeps {m r x1 x2 x3} (hE : Fits 534118399 m) (h3 : Keeps m r x3) :
    KeepsA m r (execXingTimeout x1 x2 x3) := by
  unfold execXingTimeout
  extract_lets -underBinder -merge -useContext +onlyGivenNames vst1 vs2 vs3
  have hvs2 : Keeps m r vs2 := (Keeps.bump (k := 12) (Keeps.bump (k := 12) h3 (hE.sub rfl)) (hE.sub rfl))
  clear_value vs2
  have hvs3 : Keeps m r vs3 := (event_keeps (hE.sub rfl) hvs2)
  clear_value vs3
  refine keeps_ite (P := KeepsA m r) (fun _ => ?_) (fun _ => ?_)
  · exact (KeepsA.next h3)
  · exact (KeepsA.next (islandDown_keeps (hE.sub rfl) (setIsland_keeps (hE.sub rfl) hvs3)))

theorem beginMove_keeps {m r x1 x2 x3 x4} (hE : Fits 67108880 m) (h1 : Keeps m r x1) :
    Keeps m r (beginMove x1 x2 x3 x4) := by
  unfold beginMove
  extract_lets -underBinder -merge -useContext +onlyGivenNames vsrc1 vs2
  have hvs2 : Keeps m r vs2 := (Keeps.upd 16 h1 (hE.sub rfl) rfl)
  clear_value vs2
  exact (setCoreState_keeps (hE.sub rfl) (setJob_keeps (hE.sub rfl) hvs2))

theorem beginTest_keeps {m r x1 x2 x3} (hE : Fits 67174416 m) (h1 : Keeps m r x1) :
    Keeps m r (beginTest x1 x2 x3) := by
  unfold beginTest
  extract_lets -underBinder -merge -useContext +onlyGivenNames vsrc1 vs2
  have hvs2 : Keeps m r vs2 := (Keeps.upd 16 h1 (hE.sub rfl) rfl)
  clear_value vs2
  exact (recountCores_keeps (hE.sub rfl) (setCoreState_keeps (hE.sub rfl) (setJob_keeps (hE.sub rfl) hvs2)))

theorem drainCore_keeps {m r x1 x2} (hE : Fits 265359357 m) (h1 : Keeps m r x1) :
    Keeps m r (drainCore x1 x2) := by
  unfold drainCore
  split
  · extract_lets -underBinder -merge -useContext +onlyGivenNames vs1 vs2 vs3 vs4
    have hvs1 : Keeps m r vs1 := (event_keeps (hE.sub rfl) h1)
    clear_value vs1
    have hvs2 : Keeps m r vs2 := by
      unfold vs2
      split
      · exact (setJob_keeps (hE.sub rfl) hvs1)
      · exact hvs1
    clear_value vs2
    have hvs3 : Keeps m r vs3 := (setJob_keeps (hE.sub rfl) hvs2)
    clear_value vs3
    have hvs4 : Keeps m r vs4 := (failHere_keeps (hE.sub rfl) (discardChunk_keeps (hE.sub rfl) hvs3))
    clear_value vs4
    exact (finishRetire_keeps (hE.sub rfl) (setRetireMark_keeps (hE.sub rfl) hvs4))
  · exact h1

theorem execDrainTimeout_keeps {m r x1 x2 x3} (hE : Fits 265359357 m) (h3 : Keeps m r x3) :
    KeepsA m r (execDrainTimeout x1 x2 x3) := by
  unfold execDrainTimeout
  extract_lets -underBinder -merge -useContext +onlyGivenNames vleaving1
  split
  · refine KeepsA.next ?_
    refine keeps_ite (P := Keeps m r) (fun _ => ?_) (fun _ => ?_)
    · exact (settle_keeps (hE.sub rfl) (drainCore_keeps (hE.sub rfl) h3))
    · exact h3
  · refine KeepsA.next ?_
    refine keeps_ite (P := Keeps m r) (fun _ => ?_) (fun _ => ?_)
    · exact h3
    · refine settle_keeps (hE.sub rfl) ?_
      refine forAll_keeps (fun _ _ q2 => ?_) h3
      exact (drainCore_keeps (hE.sub rfl) q2)
  · exact (KeepsA.next h3)

theorem passTest_keeps {m r x1 x2 x3} (hE : Fits 67174416 m) (h1 : Keeps m r x1) :
    Keeps m r (passTest x1 x2 x3) := by
  unfold passTest
  extract_lets -underBinder -merge -useContext +onlyGivenNames vs1 vspare2
  have hvs1 : Keeps m r vs1 := (Keeps.wrf (k := 10) (setJob_keeps (hE.sub rfl) h1) (hE.sub rfl))
  clear_value vs1
  refine keeps_ite (P := Keeps m r) (fun _ => ?_) (fun _ => ?_)
  · exact (setCoreState_keeps (hE.sub rfl) hvs1)
  · exact (recountCores_keeps (hE.sub rfl) (setCoreState_keeps (hE.sub rfl) hvs1))

theorem execFieldTestEnd_keeps {m r x1 x2 x3} (hE : Fits 265359357 m) (h3 : Keeps m r x3) :
    KeepsA m r (execFieldTestEnd x1 x2 x3) := by
  unfold execFieldTestEnd
  split
  · exact (KeepsA.next h3)
  · refine KeepsA.next ?_
    refine settle_keeps (hE.sub rfl) ?_
    refine keeps_ite (P := Keeps m r) (fun _ => ?_) (fun _ => ?_)
    · exact (passTest_keeps (hE.sub rfl) h3)
    · exact (retireCore_keeps (hE.sub rfl) (setJob_keeps (hE.sub rfl) h3))

theorem tryTest_keeps {m r x1 x2 x3} (hE : Fits 67174416 m) (h1 : Keeps m r x1) :
    Keeps m r (tryTest x1 x2 x3) := by
  unfold tryTest
  split
  · refine keeps_ite (P := Keeps m r) (fun _ => ?_) (fun _ => ?_)
    · exact h1
    · refine keeps_ite (P := Keeps m r) (fun _ => ?_) (fun _ => ?_)
      · exact (beginTest_keeps (hE.sub rfl) h1)
      · split
        · exact (recountCores_keeps (hE.sub rfl) (setCoreState_keeps (hE.sub rfl) (beginTest_keeps (hE.sub rfl) h1)))
        · exact (beginMove_keeps (hE.sub rfl) h1)
        · exact h1
  · extract_lets -underBinder -merge -useContext +onlyGivenNames vothers1
    refine keeps_ite (P := Keeps m r) (fun _ => ?_) (fun _ => ?_)
    · exact h1
    · split
      · exact (beginTest_keeps (hE.sub rfl) h1)
      · split
        · exact (beginMove_keeps (hE.sub rfl) h1)
        · exact h1
      · exact h1

theorem execFieldTestStart_keeps {m r x1 x2} (hE : Fits 265358333 m) (h2 : Keeps m r x2) :
    KeepsA m r (execFieldTestStart x1 x2) := by
  unfold execFieldTestStart
  refine keeps_ite (P := KeepsA m r) (fun _ => ?_) (fun _ => ?_)
  · exact (KeepsA.next h2)
  · split
    · exact (KeepsA.next h2)
    · exact (KeepsA.next (settle_keeps (hE.sub rfl) (tryTest_keeps (hE.sub rfl) h2)))

theorem retireUnit_keeps {m r x1 x2 x3} (hE : Fits 265621503 m) (h1 : Keeps m r x1) :
    Keeps m r (retireUnit x1 x2 x3) := by
  unfold retireUnit
  refine keeps_ite (P := Keeps m r) (fun _ => ?_) (fun _ => ?_)
  · exact (appendLedger_keeps (hE.sub rfl) h1)
  · split
    · exact (retireCore_keeps (hE.sub rfl) h1)
    · exact (retireTiller_keeps (hE.sub rfl) h1)
    · extract_lets -underBinder -merge -useContext +onlyGivenNames vs1 vsrc2 vs3 vs4
      have hvs1 : Keeps m r vs1 := (appendLedger_keeps (hE.sub rfl) h1)
      clear_value vs1
      have hvs3 : Keeps m r vs3 := (Keeps.upd 16 hvs1 (hE.sub rfl) rfl)
      clear_value vs3
      have hvs4 : Keeps m r vs4 := (setLaneState_keeps (hE.sub rfl) hvs3)
      clear_value vs4
      refine keeps_ite (P := Keeps m r) (fun _ => ?_) (fun _ => ?_)
      · exact (clusterFallow_keeps (hE.sub rfl) hvs3)
      · split
        · exact hvs4
        · exact (checkLanes_keeps (hE.sub rfl) (showRx_keeps (hE.sub rfl) hvs4))

theorem fltCommand_keeps {m r x1 x2 x3 x4} (hE : Fits 265621503 m) (h1 : Keeps m r x1) :
    KeepsP m r (fltCommand x1 x2 x3 x4) := by
  unfold fltCommand
  extract_lets -underBinder -merge -useContext +onlyGivenNames vfull1 vr2
  have hvr2 : KeepsP m r vr2 := by
    unfold vr2
    refine keeps_ite (P := KeepsP m r) (fun _ => ?_) (fun _ => ?_)
    · exact (KeepsP.mk h1)
    · split
      · refine keeps_ite (P := KeepsP m r) (fun _ => ?_) (fun _ => ?_)
        · exact (KeepsP.mk h1)
        · exact (KeepsP.mk (settle_keeps (hE.sub rfl) (retireUnit_keeps (hE.sub rfl) h1)))
      · refine keeps_ite (P := KeepsP m r) (fun _ => ?_) (fun _ => ?_)
        · exact (KeepsP.mk (appendLedger_keeps (hE.sub rfl) h1))
        · exact (KeepsP.mk h1)
      · exact (KeepsP.mk (Keeps.upd 16 h1 (hE.sub rfl) rfl))
      · exact (KeepsP.mk h1)
  clear_value vr2
  exact (KeepsP.mk (Keeps.wr (k := 10) hvr2 (hE.sub rfl)))

theorem fltCmdWrite_keeps {m r x1 x2 x3} (hE : Fits 265625599 m) (h1 : Keeps m r x1) :
    KeepsW m r (fltCmdWrite x1 x2 x3) := by
  unfold fltCmdWrite
  refine cmdWrite_keeps (k := 10) (hE.sub rfl) (hE.sub rfl) h1 (fun _ g4 => ?_)
  extract_lets -underBinder -merge -useContext +onlyGivenNames vr5
  have hvr5 : KeepsP m r vr5 := (fltCommand_keeps (hE.sub rfl) g4)
  clear_value vr5
  exact (KeepsP.mk hvr5)

theorem fltRow_keeps {m r x1 x2 x3 x4 x5} (hE : Fits 265625599 m) (h1 : Keeps m r x1) :
    Keeps m r (fltRow x1 x2 x3 x4 x5) := by
  unfold fltRow
  exact (mgApply_keeps (hE.sub rfl) h1 (fun _ g1 => (fltCmdWrite_keeps (hE.sub rfl) g1)))

theorem execFltQuery_keeps {m r x1 x2 x3 x4} (hE : Fits 265625599 m) (h4 : Keeps m r x4) :
    KeepsA m r (execFltQuery x1 x2 x3 x4) := by
  unfold execFltQuery
  exact (KeepsA.next (fltRow_keeps (hE.sub rfl) h4))

theorem execLedgerWriteRetry_keeps {m r x1 x2} (hE : Fits 134235136 m) (h2 : Keeps m r x2) :
    KeepsA m r (execLedgerWriteRetry x1 x2) := by
  unfold execLedgerWriteRetry
  split
  · exact (KeepsA.next h2)
  · extract_lets -underBinder -merge -useContext +onlyGivenNames vsrc1 vs2
    have hvs2 : Keeps m r vs2 := (Keeps.upd 1024 h2 (hE.sub rfl) rfl)
    clear_value vs2
    refine KeepsA.next ?_
    refine keeps_ite (P := Keeps m r) (fun _ => ?_) (fun _ => ?_)
    · exact (runJob_keeps (hE.sub rfl) hvs2)
    · exact (ledgerFailed_keeps (hE.sub rfl) hvs2)

theorem moveRun_keeps {m r x1 x2 x3 x4 x5 x6} (hE : Fits 4194328 m) (h1 : Keeps m r x1) :
    Keeps m r (moveRun x1 x2 x3 x4 x5 x6) := by
  unfold moveRun
  split
  · exact h1
  · extract_lets -underBinder -merge -useContext +onlyGivenNames vg1 vprior2 vs3 vm4 vsrc5
    have hvs3 : Keeps m r vs3 := (noteCycles_keeps (hE.sub rfl) h1)
    clear_value vs3
    exact (moveCore_keeps (hE.sub rfl) (Keeps.upd 16 hvs3 (hE.sub rfl) rfl))

theorem takeOver_keeps {m r x1 x2 x3 x4 x5} (hE : Fits 265359357 m) (h1 : Keeps m r x1) :
    Keeps m r (takeOver x1 x2 x3 x4 x5) := by
  unfold takeOver
  extract_lets -underBinder -merge -useContext +onlyGivenNames vs1 vs2 vs3
  have hvs1 : Keeps m r vs1 := by
    unfold vs1
    split
    · exact (setJob_keeps (hE.sub rfl) (moveRun_keeps (hE.sub rfl) h1))
    · exact (setJob_keeps (hE.sub rfl) h1)
  clear_value vs1
  have hvs2 : Keeps m r vs2 := (setJob_keeps (hE.sub rfl) hvs1)
  clear_value vs2
  have hvs3 : Keeps m r vs3 := (setCoreState_keeps (hE.sub rfl) (setJob_keeps (hE.sub rfl) hvs2))
  clear_value vs3
  refine keeps_ite (P := Keeps m r) (fun _ => ?_) (fun _ => ?_)
  · exact (finishRetire_keeps (hE.sub rfl) hvs2)
  · refine recountCores_keeps (hE.sub rfl) ?_
    refine keeps_ite (P := Keeps m r) (fun _ => ?_) (fun _ => ?_)
    · exact (setCoreState_keeps (hE.sub rfl) hvs3)
    · exact hvs3

theorem execMigrationDone_keeps {m r x1 x2 x3} (hE : Fits 265359357 m) (h3 : Keeps m r x3) :
    KeepsA m r (execMigrationDone x1 x2 x3) := by
  unfold execMigrationDone
  split
  · exact (KeepsA.next h3)
  · split
    · exact (KeepsA.next (settle_keeps (hE.sub rfl) (takeOver_keeps (hE.sub rfl) h3)))
    · exact (KeepsA.next h3)

theorem execReinstate_keeps {m r x1 x2 x3 x4} (hE : Fits 265625599 m) (h4 : Keeps m r x4) :
    KeepsA m r (execReinstate x1 x2 x3 x4) := by
  unfold execReinstate
  exact (KeepsA.next (fltRow_keeps (hE.sub rfl) h4))

theorem execRetire_keeps {m r x1 x2 x3 x4} (hE : Fits 265625599 m) (h4 : Keeps m r x4) :
    KeepsA m r (execRetire x1 x2 x3 x4) := by
  unfold execRetire
  exact (KeepsA.next (fltRow_keeps (hE.sub rfl) h4))

theorem execStrikeExpiry_keeps {m r x1 x2 x3} (hE : Fits 67108880 m) (h3 : Keeps m r x3) :
    KeepsA m r (execStrikeExpiry x1 x2 x3) := by
  unfold execStrikeExpiry
  split
  · extract_lets -underBinder -merge -useContext +onlyGivenNames vlist1 vsrc2 vs3
    have hvs3 : Keeps m r vs3 := (Keeps.upd 16 h3 (hE.sub rfl) rfl)
    clear_value vs3
    refine keeps_ite (P := KeepsA m r) (fun _ => ?_) (fun _ => ?_)
    · exact (KeepsA.next h3)
    · exact (KeepsA.next (Keeps.wrf (k := 10) hvs3 (hE.sub rfl)))
  · extract_lets -underBinder -merge -useContext +onlyGivenNames vlist4 vsrc5
    exact (KeepsA.next (Keeps.upd 16 h3 (hE.sub rfl) rfl))
  · exact (KeepsA.next h3)

theorem execTestNow_keeps {m r x1 x2 x3 x4} (hE : Fits 265625599 m) (h4 : Keeps m r x4) :
    KeepsA m r (execTestNow x1 x2 x3 x4) := by
  unfold execTestNow
  exact (KeepsA.next (fltRow_keeps (hE.sub rfl) h4))

end Sys2Proof.Machine
end

