-- ==== Sys2Proof/Laws/KeepsMgmt.lean ====
section
/-! SUPPORT. Every operation of start-up, management writes, the Hitch link and field orders keeps what `Keeps` names. -/

namespace Sys2Proof.Machine

set_option Elab.async false

open Sys2Proof

theorem failStep_keeps {m r x1 x2} (hE : Fits 328706 m) (h1 : Keeps m r x1) :
    Keeps m r (failStep x1 x2) := by
  unfold failStep
  exact (haltFree_keeps (hE.sub rfl) (journal_keeps (hE.sub rfl) h1))

theorem badLater_keeps {m r x1} (hE : Fits 393215 m) (h1 : Keeps m r x1) :
    Keeps m r (badLater x1) := by
  unfold badLater
  refine keeps_ite (P := Keeps m r) (fun _ => ?_) (fun _ => ?_)
  · exact (failStep_keeps (hE.sub rfl) h1)
  · exact (selfReset_keeps (hE.sub rfl) (journal_keeps (hE.sub rfl) h1))

theorem bistFail_keeps {m r x1 x2} (hE : Fits 201327616 m) (h1 : Keeps m r x1) :
    Keeps m r (bistFail x1 x2) := by
  unfold bistFail
  extract_lets -underBinder -merge -useContext +onlyGivenNames vspare1 vs2 vs3
  have hvs2 : Keeps m r vs2 := (appendLedger_keeps (hE.sub rfl) (setCoreState_keeps (hE.sub rfl) h1))
  clear_value vs2
  have hvs3 : Keeps m r vs3 := (event_keeps (hE.sub rfl) hvs2)
  clear_value vs3
  refine keeps_ite (P := Keeps m r) (fun _ => ?_) (fun _ => ?_)
  · exact h1
  · refine keeps_ite (P := Keeps m r) (fun _ => ?_) (fun _ => ?_)
    · exact hvs3
    · exact (event_keeps (hE.sub rfl) hvs3)

theorem blindBringUp_keeps {m r x1} (hE : Fits 198446063 m) (h1 : Keeps m r x1) :
    Keeps m r (blindBringUp x1) := by
  unfold blindBringUp
  refine forAll_keeps (fun _ _ q1 => ?_) h1
  exact (bringUp_keeps (hE.sub rfl) (trainLanes_keeps (hE.sub rfl) (portFallow_keeps (hE.sub rfl) q1)))

theorem chooseReserve_keeps {m r x1 x2} (hE : Fits 67108864 m) (h1 : Keeps m r x1) :
    Keeps m r (chooseReserve x1 x2) := by
  unfold chooseReserve
  extract_lets -underBinder -merge -useContext +onlyGivenNames vus1
  refine keeps_ite (P := Keeps m r) (fun _ => ?_) (fun _ => ?_)
  · exact (setCoreState_keeps (hE.sub rfl) h1)
  · exact h1

theorem endStep_keeps {m r x1 x2} (hE : Fits 328706 m) (h1 : Keeps m r x1) :
    Keeps m r (endStep x1 x2) := by
  unfold endStep
  extract_lets -underBinder -merge -useContext +onlyGivenNames vk1
  exact (beginStep_keeps (hE.sub rfl) (journal_keeps (hE.sub rfl) h1))

theorem startAdvance_keeps {m r x1} (hE : Fits 32768 m) (h1 : Keeps m r x1) :
    Keeps m r (startAdvance x1) := by
  unfold startAdvance
  split
  · extract_lets -underBinder -merge -useContext +onlyGivenNames vsrc1
    refine keeps_ite (P := Keeps m r) (fun _ => ?_) (fun _ => ?_)
    · exact (Keeps.upd 32768 h1 (hE.sub rfl) rfl)
    · exact h1
  · exact h1

theorem stepReady_keeps {m r x1} (hE : Fits 2196480 m) (h1 : Keeps m r x1) :
    Keeps m r (stepReady x1) := by
  unfold stepReady
  extract_lets -underBinder -merge -useContext +onlyGivenNames vs1 vs2 vs3 vs4 vs5
  have hvs1 : Keeps m r vs1 := by
    unfold vs1
    refine forAll_keeps (fun _ _ q6 => ?_) h1
    exact (Keeps.wrf (k := 0) q6 (hE.sub rfl))
  clear_value vs1
  have hvs2 : Keeps m r vs2 := (recountCores_keeps (hE.sub rfl) hvs1)
  clear_value vs2
  have hvs3 : Keeps m r vs3 := by
    unfold vs3
    refine forAll_keeps (fun _ _ q7 => ?_) hvs2
    refine forAll_keeps (fun _ _ q8 => ?_) q7
    exact (fillSlot_keeps (hE.sub rfl) q8)
  clear_value vs3
  have hvs4 : Keeps m r vs4 := by
    unfold vs4
    refine keeps_ite (P := Keeps m r) (fun _ => ?_) (fun _ => ?_)
    · exact (Keeps.wrf (k := 0) (Keeps.wrf (k := 0) hvs3 (hE.sub rfl)) (hE.sub rfl))
    · exact hvs3
  clear_value vs4
  have hvs5 : Keeps m r vs5 := (journal_keeps (hE.sub rfl) (journal_keeps (hE.sub rfl) hvs4))
  clear_value vs5
  exact (startAdvance_keeps (hE.sub rfl) (Keeps.bootField hvs5 (hE.sub rfl)))

theorem loadTables_keeps {m r x1 x2 x3} (hE : Fits 1933316 m) (h1 : Keeps m r x1) :
    Keeps m r (loadTables x1 x2 x3) := by
  unfold loadTables
  extract_lets -underBinder -merge -useContext +onlyGivenNames vs1 vs2 vs3 vs4 vs5 vs6 vsrc7 vsrc8
  have hvs1 : Keeps m r vs1 := by
    unfold vs1
    refine forAll_keeps (fun _ _ q9 => ?_) h1
    refine keeps_ite (P := Keeps m r) (fun hx => ?_) (fun _ => ?_)
    · exact (Keeps.wr (k := 2) q9 (hE.sub rfl) (okAt_high (by decide) (le_trans (by decide) hx)))
    · exact q9
  clear_value vs1
  have hvs2 : Keeps m r vs2 := by
    unfold vs2
    refine forAll_keeps (fun _ _ q10 => ?_) hvs1
    extract_lets -underBinder -merge -useContext +onlyGivenNames vcable11
    exact (Keeps.wr (k := 2) (Keeps.wrf (k := 2) q10 (hE.sub rfl)) (hE.sub rfl))
  clear_value vs2
  have hvs3 : Keeps m r vs3 := by
    unfold vs3
    refine forAll_keeps (fun _ _ q12 => ?_) hvs2
    exact (Keeps.wr (k := 4) q12 (hE.sub rfl))
  clear_value vs3
  have hvs4 : Keeps m r vs4 := (Keeps.wrf (k := 4) hvs3 (hE.sub rfl))
  clear_value vs4
  have hvs5 : Keeps m r vs5 := (Keeps.wrf (k := 0) hvs4 (hE.sub rfl))
  clear_value vs5
  have hvs6 : Keeps m r vs6 := (Keeps.wr (k := 3) hvs5 (hE.sub rfl))
  clear_value vs6
  exact (Keeps.upd 32772 hvs6 (hE.sub rfl) rfl)

theorem setChainBytes_keeps {m r x1 x2 x3} (hE : Fits 32768 m) (h1 : Keeps m r x1) :
    Keeps m r (setChainBytes x1 x2 x3) := by
  unfold setChainBytes
  exact (Keeps.upd 32768 h1 (hE.sub rfl) rfl)

theorem extend_keeps {m r x1 x2 x3 x4} (hE : Fits 32768 m) (h1 : Keeps m r x1) :
    Keeps m r (extend x1 x2 x3 x4) := by
  unfold extend
  exact (setChainBytes_keeps (hE.sub rfl) h1)

theorem measureTables_keeps {m r x1} (hE : Fits 32768 m) (h1 : Keeps m r x1) :
    Keeps m r (measureTables x1) := by
  unfold measureTables
  extract_lets -underBinder -merge -useContext +onlyGivenNames vs1
  have hvs1 : Keeps m r vs1 := (extend_keeps (hE.sub rfl) h1)
  clear_value vs1
  refine forAll_keeps (fun _ _ q2 => ?_) hvs1
  exact (extend_keeps (hE.sub rfl) q2)

theorem stepTables_keeps {m r x1 x2} (hE : Fits 199069679 m) (h1 : Keeps m r x1) :
    Keeps m r (stepTables x1 x2) := by
  unfold stepTables
  extract_lets -underBinder -merge -useContext +onlyGivenNames vbad1
  have hvbad1 : ∀ y2 y3, Keeps m r (vbad1 y2 y3) := by
    intro y2 y3
    unfold vbad1
    exact (halt_keeps (hE.sub rfl) (journal_keeps (hE.sub rfl) h1))
  clear_value vbad1
  split
  · exact (hvbad1 _ _)
  · split
    · exact (hvbad1 _ _)
    · extract_lets -underBinder -merge -useContext +onlyGivenNames vs4
      have hvs4 : Keeps m r vs4 := (endStep_keeps (hE.sub rfl) (measureTables_keeps (hE.sub rfl) (loadTables_keeps (hE.sub rfl) h1)))
      clear_value vs4
      refine keeps_ite (P := Keeps m r) (fun _ => ?_) (fun _ => ?_)
      · exact hvs4
      · exact (blindBringUp_keeps (hE.sub rfl) hvs4)

theorem failLanes_keeps {m r x1 x2} (hE : Fits 16 m) (h1 : Keeps m r x1) :
    Keeps m r (failLanes x1 x2) := by
  unfold failLanes
  exact (Keeps.upd 16 h1 (hE.sub rfl) rfl)

theorem stepLanes_keeps {m r x1 x2 x3} (hE : Fits 328722 m) (h1 : Keeps m r x1) :
    Keeps m r (stepLanes x1 x2 x3) := by
  unfold stepLanes
  extract_lets -underBinder -merge -useContext +onlyGivenNames vls1
  refine endStep_keeps (hE.sub rfl) ?_
  refine forAll_keeps (fun _ _ q2 => ?_) (failLanes_keeps (hE.sub rfl) h1)
  exact (journal_keeps (hE.sub rfl) q2)

theorem skipSmall_keeps {m r x1} (hE : Fits 65536 m) (h1 : Keeps m r x1) :
    Keeps m r (skipSmall x1) := by
  unfold skipSmall
  refine forAll_keeps_mem (fun _ n hn q1 => ?_) h1
  have := List.mem_range.mp (List.mem_of_mem_filter hn)
  exact keeps_ite (P := Keeps m r) (fun _ => skip_keeps (hE.sub rfl) q1) (fun _ => q1)

theorem stepBist_keeps {m r x1 x2 x3 x4} (hE : Fits 201688066 m) (h1 : Keeps m r x1) :
    Keeps m r (stepBist x1 x2 x3 x4) := by
  unfold stepBist
  extract_lets -underBinder -merge -useContext +onlyGivenNames vs1 vs2 vs3 vsrc4 vs5 vs6 vslots7 vs8
  have hvs1 : Keeps m r vs1 := by
    unfold vs1
    refine forAll_keeps (fun _ _ q9 => ?_) h1
    exact (journal_keeps (hE.sub rfl) (bistFail_keeps (hE.sub rfl) q9))
  clear_value vs1
  have hvs2 : Keeps m r vs2 := (skipSmall_keeps (hE.sub rfl) hvs1)
  clear_value vs2
  have hvs3 : Keeps m r vs3 := by
    unfold vs3
    refine forAll_keeps (fun _ _ q10 => ?_) hvs2
    exact (chooseReserve_keeps (hE.sub rfl) q10)
  clear_value vs3
  have hvs5 : Keeps m r vs5 := (Keeps.upd 32768 hvs3 (hE.sub rfl) rfl)
  clear_value vs5
  have hvs6 : Keeps m r vs6 := (extend_keeps (hE.sub rfl) hvs5)
  clear_value vs6
  have hvs8 : Keeps m r vs8 := by
    unfold vs8
    refine forAll_keeps (fun _ _ q11 => ?_) hvs6
    exact (extend_keeps (hE.sub rfl) q11)
  clear_value vs8
  exact (endStep_keeps (hE.sub rfl) hvs8)

theorem loadRecipe_keeps {m r x1 x2 x3} (hE : Fits 150994976 m) (h2 : Keeps m r x2) :
    Keeps m r (loadRecipe x1 x2 x3) := by
  unfold loadRecipe
  extract_lets -underBinder -merge -useContext +onlyGivenNames vsrc1 vs2
  have hvs2 : Keeps m r vs2 := (Keeps.upd 32 h2 (hE.sub rfl) rfl)
  clear_value vs2
  refine keeps_ite (P := Keeps m r) (fun _ => ?_) (fun _ => ?_)
  · exact h2
  · refine keeps_ite (P := Keeps m r) (fun _ => ?_) (fun _ => ?_)
    · exact (Keeps.wr (k := 8) hvs2 (hE.sub rfl))
    · exact (event_keeps (hE.sub rfl) h2)

theorem stepTillers_keeps {m r x1 x2} (hE : Fits 151356450 m) (h1 : Keeps m r x1) :
    Keeps m r (stepTillers x1 x2) := by
  unfold stepTillers
  extract_lets -underBinder -merge -useContext +onlyGivenNames vs1
  have hvs1 : Keeps m r vs1 := by
    unfold vs1
    refine forAll_keeps (fun _ _ q2 => ?_) h1
    refine forAll_keeps (fun _ _ q3 => ?_) q2
    exact (loadRecipe_keeps (hE.sub rfl) q3)
  clear_value vs1
  exact (endStep_keeps (hE.sub rfl) (extend_keeps (hE.sub rfl) hvs1))

theorem stepTrain_keeps {m r x1 x2 x3 x4} (hE : Fits 393215 m) (h1 : Keeps m r x1) :
    Keeps m r (stepTrain x1 x2 x3 x4) := by
  unfold stepTrain
  extract_lets -underBinder -merge -useContext +onlyGivenNames vbad1 vdetail2 vs3
  have hvs3 : Keeps m r vs3 := by
    unfold vs3
    refine forAll_keeps (fun _ _ q4 => ?_) h1
    exact (journal_keeps (hE.sub rfl) q4)
  clear_value vs3
  refine keeps_ite (P := Keeps m r) (fun _ => ?_) (fun _ => ?_)
  · exact (endStep_keeps (hE.sub rfl) h1)
  · exact (selfReset_keeps (hE.sub rfl) (journal_keeps (hE.sub rfl) hvs3))

theorem keepCoreOut_keeps {m r x1 x2} (hE : Fits 67108880 m) (h1 : Keeps m r x1) :
    Keeps m r (keepCoreOut x1 x2) := by
  unfold keepCoreOut
  exact (setRetireMark_keeps (hE.sub rfl) (setCoreState_keeps (hE.sub rfl) h1))

theorem islandOut_keeps {m r x1 x2} (hE : Fits 335609872 m) (h1 : Keeps m r x1) :
    Keeps m r (islandOut x1 x2) := by
  unfold islandOut
  extract_lets -underBinder -merge -useContext +onlyGivenNames vs1
  have hvs1 : Keeps m r vs1 := (setIsland_keeps (hE.sub rfl) h1)
  clear_value vs1
  refine keeps_ite (P := Keeps m r) (fun _ => ?_) (fun _ => ?_)
  · exact (keepCoreOut_keeps (hE.sub rfl) hvs1)
  · refine keeps_ite (P := Keeps m r) (fun _ => ?_) (fun _ => ?_)
    · exact (failLanes_keeps (hE.sub rfl) hvs1)
    · refine keeps_ite (P := Keeps m r) (fun _ => ?_) (fun _ => ?_)
      · exact (skip_keeps (hE.sub rfl) hvs1)
      · refine keeps_ite (P := Keeps m r) (fun _ => ?_) (fun _ => ?_)
        · exact (skip_keeps (hE.sub rfl) hvs1)
        · exact hvs1

theorem stepIslands_keeps {m r x1 x2 x3 x4} (hE : Fits 335881234 m) (h1 : Keeps m r x1) :
    Keeps m r (stepIslands x1 x2 x3 x4) := by
  unfold stepIslands
  extract_lets -underBinder -merge -useContext +onlyGivenNames vsrc1 vs2 vs3
  have hvs2 : Keeps m r vs2 := (Keeps.upd 8192 h1 (hE.sub rfl) rfl)
  clear_value vs2
  have hvs3 : Keeps m r vs3 := by
    unfold vs3
    refine forAll_keeps (fun _ _ q4 => ?_) hvs2
    refine keeps_ite (P := Keeps m r) (fun _ => ?_) (fun _ => ?_)
    · exact (journal_keeps (hE.sub rfl) (islandOut_keeps (hE.sub rfl) q4))
    · exact (setIsland_keeps (hE.sub rfl) q4)
  clear_value vs3
  refine keeps_ite (P := Keeps m r) (fun _ => ?_) (fun _ => ?_)
  · exact (failStep_keeps (hE.sub rfl) hvs3)
  · exact (endStep_keeps (hE.sub rfl) (skipSmall_keeps (hE.sub rfl) hvs3))

theorem retrySettings_keeps {m r x1} (hE : Fits 65536 m) (h1 : Keeps m r x1) :
    Keeps m r (retrySettings x1) := by
  unfold retrySettings
  refine forAll_keeps_mem (fun _ n hn q1 => ?_) h1
  have h5 := List.mem_range.mp hn
  extract_lets -underBinder -merge -useContext +onlyGivenNames vstack2 vs3
  have hvs3 : Keeps m r vs3 := keeps_ite (P := Keeps m r) (fun _ => Keeps.bootField q1 (hE.sub rfl) (by omega)) (fun _ => q1)
  clear_value vs3
  exact keeps_ite (P := Keeps m r) (fun _ => skip_keeps (hE.sub rfl) hvs3) (fun _ => hvs3)

theorem stepFirmware_keeps {m r x1} (hE : Fits 335926290 m) (h1 : Keeps m r x1) :
    Keeps m r (stepFirmware x1) := by
  unfold stepFirmware
  extract_lets -underBinder -merge -useContext +onlyGivenNames vsrc1 vs2 vs3 vcores4 vlanes5 vclusters6 vtillers7 vout8 vsrc9 vs10 vs11 vs12 vs13 vs14 vs15 vs16
  have hvs2 : Keeps m r vs2 := (Keeps.upd 4096 h1 (hE.sub rfl) rfl)
  clear_value vs2
  have hvs3 : Keeps m r vs3 := (takeLedger_keeps (hE.sub rfl) hvs2)
  clear_value vs3
  have hvs10 : Keeps m r vs10 := (Keeps.upd 16 hvs3 (hE.sub rfl) rfl)
  clear_value vs10
  have hvs11 : Keeps m r vs11 := by
    unfold vs11
    refine forAll_keeps (fun _ _ q17 => ?_) hvs10
    exact (setCoreState_keeps (hE.sub rfl) q17)
  clear_value vs11
  have hvs12 : Keeps m r vs12 := by
    unfold vs12
    refine forAll_keeps_mem (fun _ n hn q18 => ?_) hvs11
    have := List.mem_range.mp (List.mem_of_mem_filter hn)
    exact (skip_keeps (hE.sub rfl) q18)
  clear_value vs12
  have hvs13 : Keeps m r vs13 := (retrySettings_keeps (hE.sub rfl) (skipSmall_keeps (hE.sub rfl) hvs12))
  clear_value vs13
  have hvs14 : Keeps m r vs14 := (extend_keeps (hE.sub rfl) hvs13)
  clear_value vs14
  have hvs15 : Keeps m r vs15 := (extend_keeps (hE.sub rfl) hvs14)
  clear_value vs15
  have hvs16 : Keeps m r vs16 := by
    unfold vs16
    refine forAll_keeps (fun _ _ q19 => ?_) hvs15
    exact (setIsland_keeps (hE.sub rfl) q19)
  clear_value vs16
  exact (endStep_keeps (hE.sub rfl) hvs16)

theorem useCopy_keeps {m r x1 x2} (hE : Fits 98304 m) (h1 : Keeps m r x1) :
    Keeps m r (useCopy x1 x2) := by
  unfold useCopy
  split
  · exact h1
  · extract_lets -underBinder -merge -useContext +onlyGivenNames vs1 vs2
    have hvs1 : Keeps m r vs1 := (Keeps.fuseField (Keeps.bootField h1 (hE.sub rfl)) (hE.sub rfl))
    clear_value vs1
    have hvs2 : Keeps m r vs2 := (setChainBytes_keeps (hE.sub rfl) hvs1)
    clear_value vs2
    exact (extend_keeps (hE.sub rfl) (extend_keeps (hE.sub rfl) hvs2))

theorem otherCopy_keeps {m r x1} (hE : Fits 361474 m) (h1 : Keeps m r x1) :
    Keeps m r (otherCopy x1) := by
  unfold otherCopy
  extract_lets -underBinder -merge -useContext +onlyGivenNames vi1 vok2 vsrc3
  refine keeps_ite (P := Keeps m r) (fun _ => ?_) (fun _ => ?_)
  · exact (failStep_keeps (hE.sub rfl) h1)
  · exact (useCopy_keeps (hE.sub rfl) (Keeps.upd 32768 h1 (hE.sub rfl) rfl))

theorem stepImage_keeps {m r x1 x2 x3} (hE : Fits 361474 m) (h1 : Keeps m r x1) :
    Keeps m r (stepImage x1 x2 x3) := by
  unfold stepImage
  extract_lets -underBinder -merge -useContext +onlyGivenNames vsrc1 vs2 vforced3
  have hvs2 : Keeps m r vs2 := (Keeps.upd 32768 h1 (hE.sub rfl) rfl)
  clear_value vs2
  split
  · exact (failStep_keeps (hE.sub rfl) hvs2)
  · extract_lets -underBinder -merge -useContext +onlyGivenNames vc4 vsrc5 vs6
    have hvs6 : Keeps m r vs6 := (Keeps.upd 32768 hvs2 (hE.sub rfl) rfl)
    clear_value vs6
    exact (endStep_keeps (hE.sub rfl) (useCopy_keeps (hE.sub rfl) hvs6))

theorem stepRom_keeps {m r x1 x2} (hE : Fits 268796930 m) (h1 : Keeps m r x1) :
    Keeps m r (stepRom x1 x2) := by
  unfold stepRom
  extract_lets -underBinder -merge -useContext +onlyGivenNames vs1 vsrc2 vs3 vs4 vs5 vfuses6
  have hvs1 : Keeps m r vs1 := (Keeps.wr (k := 0) h1 (hE.sub rfl))
  clear_value vs1
  have hvs3 : Keeps m r vs3 := (Keeps.upd 32768 hvs1 (hE.sub rfl) rfl)
  clear_value vs3
  have hvs4 : Keeps m r vs4 := (Keeps.fuseField (Keeps.fuseField hvs3 (hE.sub rfl)) (hE.sub rfl))
  clear_value vs4
  have hvs5 : Keeps m r vs5 := (setIsland_keeps (hE.sub rfl) hvs4)
  clear_value vs5
  exact (endStep_keeps (hE.sub rfl) (extend_keeps (hE.sub rfl) (extend_keeps (hE.sub rfl) hvs5)))

theorem stepPower_keeps {m r x1 x2} (hE : Fits 361474 m) (h1 : Keeps m r x1) :
    Keeps m r (stepPower x1 x2) := by
  unfold stepPower
  refine keeps_ite (P := Keeps m r) (fun _ => ?_) (fun _ => ?_)
  · exact (openStart_keeps (hE.sub rfl) h1)
  · exact (halt_keeps (hE.sub rfl) h1)

theorem execStartupStepComplete_keeps {m r x1 x2} (hE : Fits 536739839 m) (h2 : Keeps m r x2) :
    KeepsA m r (execStartupStepComplete x1 x2) := by
  unfold execStartupStepComplete
  refine keeps_ite (P := KeepsA m r) (fun _ => ?_) (fun _ => ?_)
  · exact (KeepsA.next h2)
  · refine KeepsA.next ?_
    split
    · exact (stepPower_keeps (hE.sub rfl) h2)
    · refine keeps_ite (P := Keeps m r) (fun _ => ?_) (fun _ => ?_)
      · exact (endStep_keeps (hE.sub rfl) h2)
      · exact h2
    · refine keeps_ite (P := Keeps m r) (fun _ => ?_) (fun _ => ?_)
      · exact (stepRom_keeps (hE.sub rfl) h2)
      · exact (failStep_keeps (hE.sub rfl) h2)
    · exact (stepImage_keeps (hE.sub rfl) h2)
    · refine keeps_ite (P := Keeps m r) (fun _ => ?_) (fun _ => ?_)
      · exact (otherCopy_keeps (hE.sub rfl) h2)
      · exact (stepFirmware_keeps (hE.sub rfl) h2)
    · exact (stepIslands_keeps (hE.sub rfl) h2)
    · refine keeps_ite (P := Keeps m r) (fun _ => ?_) (fun _ => ?_)
      · exact (badLater_keeps (hE.sub rfl) h2)
      · exact (stepTrain_keeps (hE.sub rfl) h2)
    · exact (stepTrain_keeps (hE.sub rfl) h2)
    · refine keeps_ite (P := Keeps m r) (fun _ => ?_) (fun _ => ?_)
      · exact (badLater_keeps (hE.sub rfl) h2)
      · refine keeps_ite (P := Keeps m r) (fun _ => ?_) (fun _ => ?_)
        · exact (stepTillers_keeps (hE.sub rfl) h2)
        · exact (failStep_keeps (hE.sub rfl) h2)
    · refine keeps_ite (P := Keeps m r) (fun _ => ?_) (fun _ => ?_)
      · exact (badLater_keeps (hE.sub rfl) h2)
      · exact (stepBist_keeps (hE.sub rfl) h2)
    · refine keeps_ite (P := Keeps m r) (fun _ => ?_) (fun _ => ?_)
      · exact (badLater_keeps (hE.sub rfl) h2)
      · exact (stepLanes_keeps (hE.sub rfl) h2)
    · refine keeps_ite (P := Keeps m r) (fun _ => ?_) (fun _ => ?_)
      · exact (badLater_keeps (hE.sub rfl) h2)
      · exact (stepTables_keeps (hE.sub rfl) h2)
    · exact (endStep_keeps (hE.sub rfl) h2)
    · refine keeps_ite (P := Keeps m r) (fun _ => ?_) (fun _ => ?_)
      · exact (stepReady_keeps (hE.sub rfl) h2)
      · exact (failStep_keeps (hE.sub rfl) h2)
    · exact h2

theorem execStartupStepTimeout_keeps {m r x1 x2} (hE : Fits 470155263 m) (h2 : Keeps m r x2) :
    KeepsA m r (execStartupStepTimeout x1 x2) := by
  unfold execStartupStepTimeout
  refine keeps_ite (P := KeepsA m r) (fun _ => ?_) (fun _ => ?_)
  · exact (KeepsA.next h2)
  · refine KeepsA.next ?_
    split
    · exact (halt_keeps (hE.sub rfl) h2)
    · exact (stepIslands_keeps (hE.sub rfl) h2)
    · exact (stepTrain_keeps (hE.sub rfl) h2)
    · exact (stepTrain_keeps (hE.sub rfl) h2)
    · exact (stepBist_keeps (hE.sub rfl) h2)
    · exact (stepLanes_keeps (hE.sub rfl) h2)
    · exact (endStep_keeps (hE.sub rfl) h2)
    · exact (failStep_keeps (hE.sub rfl) h2)

theorem execStrapAccept_keeps {m r x1 x2} (hE : Fits 336898 m) (h2 : Keeps m r x2) :
    KeepsA m r (execStrapAccept x1 x2) := by
  unfold execStrapAccept
  extract_lets -underBinder -merge -useContext +onlyGivenNames vsrc1 vs2
  have hvs2 : Keeps m r vs2 := (Keeps.upd 8192 h2 (hE.sub rfl) rfl)
  clear_value vs2
  refine keeps_ite (P := KeepsA m r) (fun _ => ?_) (fun _ => ?_)
  · exact (KeepsA.next h2)
  · refine keeps_ite (P := KeepsA m r) (fun _ => ?_) (fun _ => ?_)
    · exact (KeepsA.next (haltFree_keeps (hE.sub rfl) (Keeps.wr (k := 0) hvs2 (hE.sub rfl))))
    · refine keeps_ite (P := KeepsA m r) (fun _ => ?_) (fun _ => ?_)
      · exact (KeepsA.next (haltFree_keeps (hE.sub rfl) (Keeps.wr (k := 0) hvs2 (hE.sub rfl))))
      · exact (KeepsA.next (Keeps.wr (k := 0) hvs2 (hE.sub rfl)))

theorem execStrapChanged_keeps {m r x1 x2} (hE : Fits 134291456 m) (h2 : Keeps m r x2) :
    KeepsA m r (execStrapChanged x1 x2) := by
  unfold execStrapChanged
  extract_lets -underBinder -merge -useContext +onlyGivenNames vsrc1 vs2
  have hvs2 : Keeps m r vs2 := (Keeps.upd 8192 h2 (hE.sub rfl) rfl)
  clear_value vs2
  refine keeps_ite (P := KeepsA m r) (fun _ => ?_) (fun _ => ?_)
  · exact (KeepsA.next h2)
  · exact (KeepsA.next (event_keeps (hE.sub rfl) (Keeps.wrf (k := 0) hvs2 (hE.sub rfl))))

theorem execSvnAdvanceDone_keeps {m r x1} (hE : Fits 99328 m) (h1 : Keeps m r x1) :
    KeepsA m r (execSvnAdvanceDone x1) := by
  unfold execSvnAdvanceDone
  extract_lets -underBinder -merge -useContext +onlyGivenNames vt1 vold2 vsrc3 vsrc4 vs5
  have hvsrc3 : Keeps m r vsrc3 := (Keeps.fuseField h1 (hE.sub rfl))
  have hvs5 : Keeps m r vs5 := (Keeps.upd 32768 hvsrc3 (hE.sub rfl) rfl)
  clear_value vs5
  refine keeps_ite (P := KeepsA m r) (fun _ => ?_) (fun _ => ?_)
  · exact (KeepsA.next h1)
  · exact (KeepsA.next (journal_keeps (hE.sub rfl) hvs5))

theorem setSecBusy_keeps {m r x1 x2} (hE : Fits 131072 m) (h1 : Keeps m r x1) :
    Keeps m r (setSecBusy x1 x2) := by
  unfold setSecBusy
  exact (Keeps.wrf (k := 1) h1 (hE.sub rfl))

theorem setSecResult_keeps {m r x1 x2} (hE : Fits 131072 m) (h1 : Keeps m r x1) :
    Keeps m r (setSecResult x1 x2) := by
  unfold setSecResult
  exact (Keeps.wrf (k := 1) h1 (hE.sub rfl))

theorem beginSlot_keeps {m r x1 x2 x3} (hE : Fits 164864 m) (h1 : Keeps m r x1) :
    KeepsP m r (beginSlot x1 x2 x3) := by
  unfold beginSlot
  extract_lets -underBinder -merge -useContext +onlyGivenNames vcode1 vsrc2 vboot3
  refine keeps_ite (P := KeepsP m r) (fun _ => ?_) (fun _ => ?_)
  · exact (KeepsP.mk (setSecResult_keeps (hE.sub rfl) h1))
  · exact (KeepsP.mk (setSecBusy_keeps (hE.sub rfl) (setSecResult_keeps (hE.sub rfl) (Keeps.upd 33792 h1 (hE.sub rfl) rfl))))

theorem secDone_keeps {m r x1 x2} (hE : Fits 131072 m) (h1 : Keeps m r x1) :
    Keeps m r (secDone x1 x2) := by
  unfold secDone
  exact (setSecBusy_keeps (hE.sub rfl) (setSecResult_keeps (hE.sub rfl) h1))

theorem flashWindowWrite_keeps {m r x1 x2 x3 x4 x5} (hE : Fits 136192 m) (h1 : Keeps m r x1) :
    KeepsW m r (flashWindowWrite x1 x2 x3 x4 x5) := by
  unfold flashWindowWrite
  extract_lets -underBinder -merge -useContext +onlyGivenNames vtop1 vfirst2 vsrc3 vs4 vs5 vimage6
  have hvs4 : Keeps m r vs4 := (Keeps.upd 4096 h1 (hE.sub rfl) rfl)
  clear_value vs4
  have hvs5 : Keeps m r vs5 := (pushFlash_keeps (hE.sub rfl) hvs4)
  clear_value vs5
  refine keeps_ite (P := KeepsW m r) (fun _ => ?_) (fun _ => ?_)
  · exact h1
  · show Keeps m r _
    refine keeps_ite (P := Keeps m r) (fun _ => ?_) (fun _ => ?_)
    · exact (secDone_keeps (hE.sub rfl) hvs5)
    · exact hvs5

theorem execFlashWrite_keeps {m r x1 x2 x3 x4 x5} (hE : Fits 167908608 m) (h5 : Keeps m r x5) :
    KeepsA m r (execFlashWrite x1 x2 x3 x4 x5) := by
  unfold execFlashWrite
  exact (KeepsA.next (mgApply_keeps (hE.sub rfl) h5 (fun _ g1 => (flashWindowWrite_keeps (hE.sub rfl) g1))))

theorem secCommand_keeps {m r x1 x2 x3 x4} (hE : Fits 164864 m) (h1 : Keeps m r x1) :
    KeepsP m r (secCommand x1 x2 x3 x4) := by
  unfold secCommand
  extract_lets -underBinder -merge -useContext +onlyGivenNames vrefuse1
  have hvrefuse1 : ∀ y2, KeepsP m r (vrefuse1 y2) := by
    intro y2
    unfold vrefuse1
    exact (KeepsP.mk (setSecResult_keeps (hE.sub rfl) h1))
  clear_value vrefuse1
  refine keeps_ite (P := KeepsP m r) (fun _ => ?_) (fun _ => ?_)
  · exact (hvrefuse1 _)
  · refine keeps_ite (P := KeepsP m r) (fun _ => ?_) (fun _ => ?_)
    · exact (hvrefuse1 _)
    · refine keeps_ite (P := KeepsP m r) (fun _ => ?_) (fun _ => ?_)
      · exact (hvrefuse1 _)
      · split
        · extract_lets -underBinder -merge -useContext +onlyGivenNames vsrc3 vs4
          have hvs4 : Keeps m r vs4 := (Keeps.upd 32768 h1 (hE.sub rfl) rfl)
          clear_value vs4
          exact (KeepsP.mk (setSecBusy_keeps (hE.sub rfl) (setSecResult_keeps (hE.sub rfl) hvs4)))
        · exact (KeepsP.mk (setSecBusy_keeps (hE.sub rfl) (setSecResult_keeps (hE.sub rfl) h1)))
        · exact (beginSlot_keeps (hE.sub rfl) h1)

theorem secCmdWrite_keeps {m r x1 x2 x3} (hE : Fits 134386688 m) (h1 : Keeps m r x1) :
    KeepsW m r (secCmdWrite x1 x2 x3) := by
  unfold secCmdWrite
  exact (cmdWrite_keeps (k := 1) (hE.sub rfl) (hE.sub rfl) h1 (fun _ g1 => (secCommand_keeps (hE.sub rfl) g1)))

theorem secRow_keeps {m r x1 x2 x3 x4} (hE : Fits 167941376 m) (h1 : Keeps m r x1) :
    Keeps m r (secRow x1 x2 x3 x4) := by
  unfold secRow
  exact (mgApply_keeps (hE.sub rfl) h1 (fun _ g1 => (secCmdWrite_keeps (hE.sub rfl) g1)))

theorem execProgramSlot_keeps {m r x1 x2 x3} (hE : Fits 167941376 m) (h3 : Keeps m r x3) :
    KeepsA m r (execProgramSlot x1 x2 x3) := by
  unfold execProgramSlot
  exact (KeepsA.next (secRow_keeps (hE.sub rfl) h3))

theorem execQuote_keeps {m r x1 x2} (hE : Fits 167941376 m) (h2 : Keeps m r x2) :
    KeepsA m r (execQuote x1 x2) := by
  unfold execQuote
  exact (KeepsA.next (secRow_keeps (hE.sub rfl) h2))

theorem execQuoteDone_keeps {m r x1 x2} (hE : Fits 163840 m) (h2 : Keeps m r x2) :
    KeepsA m r (execQuoteDone x1 x2) := by
  unfold execQuoteDone
  extract_lets -underBinder -merge -useContext +onlyGivenNames vq1 vsrc2 vs3
  have hvs3 : Keeps m r vs3 := (Keeps.upd 32768 h2 (hE.sub rfl) rfl)
  clear_value vs3
  refine keeps_ite (P := KeepsA m r) (fun _ => ?_) (fun _ => ?_)
  · exact (KeepsA.next h2)
  · exact (KeepsA.next (Keeps.bumpMod (k := 1) (secDone_keeps (hE.sub rfl) hvs3) (hE.sub rfl)))

theorem execRevokeSlot_keeps {m r x1 x2 x3} (hE : Fits 167941376 m) (h3 : Keeps m r x3) :
    KeepsA m r (execRevokeSlot x1 x2 x3) := by
  unfold execRevokeSlot
  exact (KeepsA.next (secRow_keeps (hE.sub rfl) h3))

theorem execSlotFusesDone_keeps {m r x1} (hE : Fits 229376 m) (h1 : Keeps m r x1) :
    KeepsA m r (execSlotFusesDone x1) := by
  unfold execSlotFusesDone
  split
  · exact (KeepsA.next h1)
  · extract_lets -underBinder -merge -useContext +onlyGivenNames vt1 vsrc2 vs3 vbit4
    have hvs3 : Keeps m r vs3 := (Keeps.upd 32768 h1 (hE.sub rfl) rfl)
    clear_value vs3
    exact (KeepsA.next (secDone_keeps (hE.sub rfl) (Keeps.fuseSet hvs3 (hE.sub rfl))))

theorem execVerifyCopy_keeps {m r x1 x2} (hE : Fits 167941376 m) (h2 : Keeps m r x2) :
    KeepsA m r (execVerifyCopy x1 x2) := by
  unfold execVerifyCopy
  exact (KeepsA.next (secRow_keeps (hE.sub rfl) h2))

theorem execVerifyCopyDone_keeps {m r x1 x2 x3} (hE : Fits 131072 m) (h3 : Keeps m r x3) :
    KeepsA m r (execVerifyCopyDone x1 x2 x3) := by
  unfold execVerifyCopyDone
  extract_lets -underBinder -merge -useContext +onlyGivenNames vcode1
  refine keeps_ite (P := KeepsA m r) (fun _ => ?_) (fun _ => ?_)
  · exact (KeepsA.next h3)
  · exact (KeepsA.next (secDone_keeps (hE.sub rfl) h3))

theorem adopt_keeps {m r x1} (hE : Fits 198511599 m) (h1 : Keeps m r x1) :
    Keeps m r (adopt x1) := by
  unfold adopt
  extract_lets -underBinder -merge -useContext +onlyGivenNames vs1 vs2
  have hvs1 : Keeps m r vs1 := (Keeps.bumpMod (k := 0) (Keeps.wrf (k := 0) h1 (hE.sub rfl)) (hE.sub rfl))
  clear_value vs1
  have hvs2 : Keeps m r vs2 := (event_keeps (hE.sub rfl) hvs1)
  clear_value vs2
  refine forAll_keeps (fun _ _ q3 => ?_) hvs2
  refine keeps_ite (P := Keeps m r) (fun _ => ?_) (fun _ => ?_)
  · exact (portRestore_keeps (hE.sub rfl) q3)
  · exact q3

theorem beginMap_keeps {m r x1} (hE : Fits 512 m) (h1 : Keeps m r x1) :
    Keeps m r (beginMap x1) := by
  unfold beginMap
  extract_lets -underBinder -merge -useContext +onlyGivenNames vsrc1 vy2
  exact (Keeps.upd 512 h1 (hE.sub rfl) rfl)

theorem sendMap_keeps {m r x1 x2 x3} (hE : Fits 168821253 m) (h1 : Keeps m r x1) :
    Keeps m r (sendMap x1 x2 x3) := by
  unfold sendMap
  refine keeps_ite (P := Keeps m r) (fun _ => ?_) (fun _ => ?_)
  · exact h1
  · refine keeps_ite (P := Keeps m r) (fun _ => ?_) (fun _ => ?_)
    · exact (Keeps.bump (k := 9) h1 (hE.sub rfl))
    · refine forAll_keeps (fun _ _ q1 => ?_) h1
      extract_lets -underBinder -merge -useContext +onlyGivenNames vh2
      split
      · extract_lets -underBinder -merge -useContext +onlyGivenNames vsrc3 vs4
        have hvs4 : Keeps m r vs4 := (Keeps.upd 512 q1 (hE.sub rfl) rfl)
        clear_value vs4
        exact (sendRouted_keeps (hE.sub rfl) hvs4)
      · exact q1

theorem closeMap_keeps {m r x1} (hE : Fits 168821253 m) (h1 : Keeps m r x1) :
    Keeps m r (closeMap x1) := by
  unfold closeMap
  extract_lets -underBinder -merge -useContext +onlyGivenNames vseq1 vparts2 vs3 vkept4 vsrc5
  have hvs3 : Keeps m r vs3 := (Keeps.wrf (k := 9) h1 (hE.sub rfl))
  clear_value vs3
  exact (sendMap_keeps (hE.sub rfl) (Keeps.upd 512 hvs3 (hE.sub rfl) rfl))

theorem endHints_keeps {m r x1} (hE : Fits 1 m) (h1 : Keeps m r x1) :
    Keeps m r (endHints x1) := by
  unfold endHints
  extract_lets -underBinder -merge -useContext +onlyGivenNames vfull1 vt2 vsrc3 vfab4
  exact (Keeps.upd 1 h1 (hE.sub rfl) rfl)

theorem endStalls_keeps {m r x1} (hE : Fits 512 m) (h1 : Keeps m r x1) :
    Keeps m r (endStalls x1) := by
  unfold endStalls
  extract_lets -underBinder -merge -useContext +onlyGivenNames vf1
  refine forAll_keeps (fun _ _ q2 => ?_) h1
  exact (setStat_keeps (hE.sub rfl) q2)

theorem orderFallow_keeps {m r x1 x2} (hE : Fits 198446063 m) (h1 : Keeps m r x1) :
    Keeps m r (orderFallow x1 x2) := by
  unfold orderFallow
  refine keeps_ite (P := Keeps m r) (fun _ => ?_) (fun _ => ?_)
  · exact h1
  · refine keeps_ite (P := Keeps m r) (fun _ => ?_) (fun _ => ?_)
    · exact (setPortReason_keeps (hE.sub rfl) (portEndTest_keeps (hE.sub rfl) h1))
    · exact (portFallow_keeps (hE.sub rfl) h1)

theorem standDown_keeps {m r x1} (hE : Fits 265620479 m) (h1 : Keeps m r x1) :
    Keeps m r (standDown x1) := by
  unfold standDown
  extract_lets -underBinder -merge -useContext +onlyGivenNames vs1
  have hvs1 : Keeps m r vs1 := (Keeps.wrf (k := 0) (Keeps.wrf (k := 0) h1 (hE.sub rfl)) (hE.sub rfl))
  clear_value vs1
  refine settle_keeps (hE.sub rfl) ?_
  refine forAll_keeps (fun _ _ q2 => ?_) hvs1
  exact (orderFallow_keeps (hE.sub rfl) q2)

theorem roleCommand_keeps {m r x1 x2} (hE : Fits 265620479 m) (h1 : Keeps m r x1) :
    KeepsP m r (roleCommand x1 x2) := by
  unfold roleCommand
  extract_lets -underBinder -merge -useContext +onlyGivenNames vcode1 vs2
  have hvs2 : Keeps m r vs2 := (Keeps.wrf (k := 0) h1 (hE.sub rfl))
  clear_value vs2
  refine keeps_ite (P := KeepsP m r) (fun _ => ?_) (fun _ => ?_)
  · exact (KeepsP.mk hvs2)
  · refine keeps_ite (P := KeepsP m r) (fun _ => ?_) (fun _ => ?_)
    · exact (KeepsP.mk (adopt_keeps (hE.sub rfl) hvs2))
    · exact (KeepsP.mk (standDown_keeps (hE.sub rfl) hvs2))

theorem roleCmdWrite_keeps {m r x1 x2 x3} (hE : Fits 265624575 m) (h1 : Keeps m r x1) :
    KeepsW m r (roleCmdWrite x1 x2 x3) := by
  unfold roleCmdWrite
  exact (cmdWrite_keeps (k := 0) (hE.sub rfl) (hE.sub rfl) h1 (fun _ g1 => (roleCommand_keeps (hE.sub rfl) g1)))

theorem execAdopt_keeps {m r x1 x2} (hE : Fits 265624575 m) (h2 : Keeps m r x2) :
    KeepsA m r (execAdopt x1 x2) := by
  unfold execAdopt
  exact (KeepsA.next (mgApply_keeps (hE.sub rfl) h2 (fun _ g1 => (roleCmdWrite_keeps (hE.sub rfl) g1))))

theorem plotReport_keeps {m r x1 x2 x3} (hE : Fits 8388608 m) (h1 : Keeps m r x1) :
    Keeps m r (plotReport x1 x2 x3) := by
  unfold plotReport
  exact (Keeps.wr (k := 7) h1 (hE.sub rfl))

theorem fallowPlot_keeps {m r x1 x2} (hE : Fits 265292797 m) (h1 : Keeps m r x1) :
    Keeps m r (fallowPlot x1 x2) := by
  unfold fallowPlot
  extract_lets -underBinder -merge -useContext +onlyGivenNames vs1
  have hvs1 : Keeps m r vs1 := (Keeps.wrf (k := 7) h1 (hE.sub rfl))
  clear_value vs1
  exact (settle_keeps (hE.sub rfl) (failGroups_keeps (hE.sub rfl) hvs1))

theorem plotCommand_keeps {m r x1 x2 x3} (hE : Fits 265292797 m) (h1 : Keeps m r x1) :
    KeepsP m r (plotCommand x1 x2 x3) := by
  unfold plotCommand
  extract_lets -underBinder -merge -useContext +onlyGivenNames vst1 vr2
  have hvr2 : KeepsP m r vr2 := by
    unfold vr2
    refine keeps_ite (P := KeepsP m r) (fun _ => ?_) (fun _ => ?_)
    · exact (KeepsP.mk h1)
    · refine keeps_ite (P := KeepsP m r) (fun _ => ?_) (fun _ => ?_)
      · exact (KeepsP.mk h1)
      · split
        · refine keeps_ite (P := KeepsP m r) (fun _ => ?_) (fun _ => ?_)
          · exact (KeepsP.mk (Keeps.wrf (k := 7) h1 (hE.sub rfl)))
          · exact (KeepsP.mk h1)
        · refine keeps_ite (P := KeepsP m r) (fun _ => ?_) (fun _ => ?_)
          · exact (KeepsP.mk (fallowPlot_keeps (hE.sub rfl) h1))
          · exact (KeepsP.mk h1)
        · refine keeps_ite (P := KeepsP m r) (fun _ => ?_) (fun _ => ?_)
          · exact (KeepsP.mk (wrEntry_keeps (k := 7) h1 (hE.sub rfl)))
          · exact (KeepsP.mk h1)
  clear_value vr2
  exact (KeepsP.mk (plotReport_keeps (hE.sub rfl) hvr2))

theorem plotCmdWrite_keeps {m r x1 x2 x3} (hE : Fits 265296893 m) (h1 : Keeps m r x1) :
    KeepsW m r (plotCmdWrite x1 x2 x3) := by
  unfold plotCmdWrite
  exact (cmdWrite_keeps (k := 7) (hE.sub rfl) (hE.sub rfl) h1 (fun _ g1 => (plotCommand_keeps (hE.sub rfl) g1)))

theorem plotRow_keeps {m r x1 x2 x3 x4} (hE : Fits 265296893 m) (h1 : Keeps m r x1) :
    Keeps m r (plotRow x1 x2 x3 x4) := by
  unfold plotRow
  extract_lets -underBinder -merge -useContext +onlyGivenNames vv1
  exact (mgApply_keeps (hE.sub rfl) h1 (fun _ g2 => (plotCmdWrite_keeps (hE.sub rfl) g2)))

theorem execPlotActivate_keeps {m r x1 x2 x3} (hE : Fits 265296893 m) (h3 : Keeps m r x3) :
    KeepsA m r (execPlotActivate x1 x2 x3) := by
  unfold execPlotActivate
  exact (KeepsA.next (plotRow_keeps (hE.sub rfl) h3))

theorem plotAccept_keeps {m r x1 x2 x3} (hE : Fits 8388608 m) (h1 : Keeps m r x1) :
    Keeps m r (plotAccept x1 x2 x3) := by
  unfold plotAccept
  extract_lets -underBinder -merge -useContext +onlyGivenNames vfree1 vs2
  have hvs2 : Keeps m r vs2 := (wrEntry_keeps (k := 7) h1 (hE.sub rfl))
  clear_value vs2
  refine keeps_ite (P := Keeps m r) (fun _ => ?_) (fun _ => ?_)
  · exact (Keeps.wrf (k := 7) hvs2 (hE.sub rfl))
  · exact hvs2

theorem plotCommit_keeps {m r x1 x2 x3 x4} (hE : Fits 142610432 m) (h1 : Keeps m r x1) :
    KeepsW m r (plotCommit x1 x2 x3 x4) := by
  unfold plotCommit
  exact (commitEntry_keeps (hE.sub rfl) h1 (fun _ _ g1 => (plotAccept_keeps (hE.sub rfl) g1)) (fun _ _ g2 => (plotReport_keeps (hE.sub rfl) g2)))

theorem execPlotCommit_keeps {m r x1 x2 x3 x4} (hE : Fits 176165120 m) (h4 : Keeps m r x4) :
    KeepsA m r (execPlotCommit x1 x2 x3 x4) := by
  unfold execPlotCommit
  exact (KeepsA.next (mgApply_keeps (hE.sub rfl) h4 (fun _ g1 => (plotCommit_keeps (hE.sub rfl) g1))))

theorem execPlotFallow_keeps {m r x1 x2 x3} (hE : Fits 265296893 m) (h3 : Keeps m r x3) :
    KeepsA m r (execPlotFallow x1 x2 x3) := by
  unfold execPlotFallow
  exact (KeepsA.next (plotRow_keeps (hE.sub rfl) h3))

theorem fenceWrite_keeps {m r x1 x2 x3 x4 x5} (hE : Fits 134483968 m) (h1 : Keeps m r x1) :
    KeepsW m r (fenceWrite x1 x2 x3 x4 x5) := by
  unfold fenceWrite
  refine keeps_ite (P := KeepsW m r) (fun _ => ?_) (fun _ => ?_)
  · exact h1
  · exact (plainWrite_keeps (k := 2) (hE.sub rfl) (hE.sub rfl) h1)

theorem execPlotFenceWrite_keeps {m r x1 x2 x3 x4 x5} (hE : Fits 168038656 m) (h5 : Keeps m r x5) :
    KeepsA m r (execPlotFenceWrite x1 x2 x3 x4 x5) := by
  unfold execPlotFenceWrite
  exact (KeepsA.next (mgApply_keeps (hE.sub rfl) h5 (fun _ g1 => (fenceWrite_keeps (hE.sub rfl) g1))))

theorem execPlotFree_keeps {m r x1 x2 x3} (hE : Fits 265296893 m) (h3 : Keeps m r x3) :
    KeepsA m r (execPlotFree x1 x2 x3) := by
  unfold execPlotFree
  exact (KeepsA.next (plotRow_keeps (hE.sub rfl) h3))

theorem execPlotQuery_keeps {m r x1 x2 x3} (hE : Fits 265296893 m) (h3 : Keeps m r x3) :
    KeepsA m r (execPlotQuery x1 x2 x3) := by
  unfold execPlotQuery
  exact (KeepsA.next (plotRow_keeps (hE.sub rfl) h3))

theorem roleWrite_keeps {m r x1 x2 x3} (hE : Fits 134287360 m) (h1 : Keeps m r x1) :
    KeepsW m r (roleWrite x1 x2 x3) := by
  unfold roleWrite
  exact (plainWrite_keeps (k := 0) (hE.sub rfl) (hE.sub rfl) h1)

theorem execRoleOfWrite_keeps {m r x1 x2 x3} (hE : Fits 167842048 m) (h3 : Keeps m r x3) :
    KeepsA m r (execRoleOfWrite x1 x2 x3) := by
  unfold execRoleOfWrite
  exact (KeepsA.next (mgApply_keeps (hE.sub rfl) h3 (fun _ g1 => (roleWrite_keeps (hE.sub rfl) g1))))

theorem execStandDown_keeps {m r x1 x2} (hE : Fits 265624575 m) (h2 : Keeps m r x2) :
    KeepsA m r (execStandDown x1 x2) := by
  unfold execStandDown
  exact (KeepsA.next (mgApply_keeps (hE.sub rfl) h2 (fun _ g1 => (roleCmdWrite_keeps (hE.sub rfl) g1))))

theorem yieldWrite_keeps {m r x1 x2 x3 x4} (hE : Fits 167776256 m) (h1 : Keeps m r x1) :
    KeepsW m r (yieldWrite x1 x2 x3 x4) := by
  unfold yieldWrite
  exact (plainWrite_keeps (k := 9) (hE.sub rfl) (hE.sub rfl) h1)

theorem execYieldConfigWrite_keeps {m r x1 x2 x3 x4} (hE : Fits 167776512 m) (h4 : Keeps m r x4) :
    KeepsA m r (execYieldConfigWrite x1 x2 x3 x4) := by
  unfold execYieldConfigWrite
  exact (KeepsA.next (mgApply_keeps (hE.sub rfl) h4 (fun _ g1 => (yieldWrite_keeps (hE.sub rfl) g1))))

theorem execYieldEpoch_keeps {m r x1} (hE : Fits 168821253 m) (h1 : Keeps m r x1) :
    KeepsA m r (execYieldEpoch x1) := by
  unfold execYieldEpoch
  extract_lets -underBinder -merge -useContext +onlyGivenNames vs1 vs2 vsrc3 vs4
  have hvs1 : Keeps m r vs1 := (endHints_keeps (hE.sub rfl) h1)
  clear_value vs1
  have hvs2 : Keeps m r vs2 := (endStalls_keeps (hE.sub rfl) hvs1)
  clear_value vs2
  have hvs4 : Keeps m r vs4 := (Keeps.upd 512 hvs2 (hE.sub rfl) rfl)
  clear_value vs4
  refine keeps_ite (P := KeepsA m r) (fun _ => ?_) (fun _ => ?_)
  · exact (KeepsA.next h1)
  · refine keeps_ite (P := KeepsA m r) (fun _ => ?_) (fun _ => ?_)
    · exact (KeepsA.next (beginMap_keeps (hE.sub rfl) hvs1))
    · refine keeps_ite (P := KeepsA m r) (fun _ => ?_) (fun _ => ?_)
      · exact (KeepsA.next hvs4)
      · exact (KeepsA.next (beginMap_keeps (hE.sub rfl) (closeMap_keeps (hE.sub rfl) hvs4)))

theorem doneAt_keeps {m r x1 x2 x3 x4} (hE : Fits 152044069 m) (h1 : Keeps m r x1) :
    Keeps m r (doneAt x1 x2 x3 x4) := by
  unfold doneAt
  extract_lets -underBinder -merge -useContext +onlyGivenNames vw1 vws2 vtotal3 vs4
  have hvs4 : Keeps m r vs4 := (Keeps.wrf (k := 8) h1 (hE.sub rfl))
  clear_value vs4
  refine keeps_ite (P := Keeps m r) (fun _ => ?_) (fun _ => ?_)
  · exact (sendTurn_keeps (hE.sub rfl) h1)
  · refine keeps_ite (P := Keeps m r) (fun _ => ?_) (fun _ => ?_)
    · exact (turnReject_keeps (hE.sub rfl) h1)
    · refine keeps_ite (P := Keeps m r) (fun _ => ?_) (fun _ => ?_)
      · exact (setPhase_keeps (hE.sub rfl) (turnReject_keeps (hE.sub rfl) h1))
      · exact (setPhase_keeps (hE.sub rfl) (setTurnWork_keeps (hE.sub rfl) hvs4))

theorem takeTurn_keeps {m r x1 x2 x3 x4} (hE : Fits 262147 m) (h1 : Keeps m r x1) :
    KeepsOP m r (takeTurn x1 x2 x3 x4) := by
  unfold takeTurn
  extract_lets -underBinder -merge -useContext +onlyGivenNames vk1 vsrc2
  refine keeps_ite (P := KeepsOP m r) (fun _ => ?_) (fun _ => ?_)
  · exact KeepsOP.none
  · refine keeps_ite (P := KeepsOP m r) (fun _ => ?_) (fun _ => ?_)
    · refine keeps_ite (P := KeepsOP m r) (fun _ => ?_) (fun _ => ?_)
      · exact (KeepsOP.some (KeepsP.mk (Keeps.upd 1 h1 (hE.sub rfl) rfl)))
      · exact KeepsOP.none
    · exact (KeepsOP.some (KeepsP.mk (returnCredits_keeps (hE.sub rfl) h1)))

theorem turnPacket_keeps {m r x1 x2 x3 x4 x5} (hE : Fits 265554943 m) (h1 : Keeps m r x1) (h5 : ∀ y1 y2, Keeps m r y1 → Keeps m r (x5 y1 y2)) :
    Keeps m r (turnPacket x1 x2 x3 x4 x5) := by
  unfold turnPacket
  split
  · exact h1
  · refine keeps_ite (P := Keeps m r) (fun _ => ?_) (fun _ => ?_)
    · exact (settle_keeps (hE.sub rfl) (h5 _ _ (KeepsOP.get (takeTurn_keeps (hE.sub rfl) h1) (by assumption))))
    · refine keeps_ite (P := Keeps m r) (fun _ => ?_) (fun _ => ?_)
      · exact (count_keeps (hE.sub rfl) (KeepsOP.get (takeTurn_keeps (hE.sub rfl) h1) (by assumption)))
      · exact (KeepsOP.get (takeTurn_keeps (hE.sub rfl) h1) (by assumption))

theorem execConfirm_keeps {m r x1 x2 x3} (hE : Fits 265554943 m) (h3 : Keeps m r x3) :
    KeepsA m r (execConfirm x1 x2 x3) := by
  unfold execConfirm
  refine KeepsA.next ?_
  refine turnPacket_keeps (hE.sub rfl) h3 (fun _ _ g6 => ?_)
  split
  · exact g6
  · refine keeps_ite (P := Keeps m r) (fun _ => ?_) (fun _ => ?_)
    · exact (setPhase_keeps (hE.sub rfl) g6)
    · exact g6

theorem rejectNotArmed_keeps {m r x1 x2} (hE : Fits 135266821 m) (h1 : Keeps m r x1) :
    Keeps m r (rejectNotArmed x1 x2) := by
  unfold rejectNotArmed
  exact (sendTurn_keeps (hE.sub rfl) h1)

theorem execDone_keeps {m r x1 x2 x3} (hE : Fits 265554943 m) (h3 : Keeps m r x3) :
    KeepsA m r (execDone x1 x2 x3) := by
  unfold execDone
  refine KeepsA.next ?_
  refine turnPacket_keeps (hE.sub rfl) h3 (fun _ _ g6 => ?_)
  split
  · exact (rejectNotArmed_keeps (hE.sub rfl) g6)
  · refine keeps_ite (P := Keeps m r) (fun _ => ?_) (fun _ => ?_)
    · exact (rejectNotArmed_keeps (hE.sub rfl) g6)
    · exact (doneAt_keeps (hE.sub rfl) g6)

theorem execDoneTimeout_keeps {m r x1 x2 x3} (hE : Fits 152044037 m) (h3 : Keeps m r x3) :
    KeepsA m r (execDoneTimeout x1 x2 x3) := by
  unfold execDoneTimeout
  extract_lets -underBinder -merge -useContext +onlyGivenNames vs1
  have hvs1 : Keeps m r vs1 := (turnAttempt_keeps (hE.sub rfl) h3)
  clear_value vs1
  refine keeps_ite (P := KeepsA m r) (fun _ => ?_) (fun _ => ?_)
  · exact (KeepsA.next h3)
  · refine KeepsA.next ?_
    refine keeps_ite (P := Keeps m r) (fun _ => ?_) (fun _ => ?_)
    · exact hvs1
    · exact (sendDone_keeps (hE.sub rfl) hvs1)

theorem execNotArmedResend_keeps {m r x1 x2 x3} (hE : Fits 152044069 m) (h3 : Keeps m r x3) :
    KeepsA m r (execNotArmedResend x1 x2 x3) := by
  unfold execNotArmedResend
  refine keeps_ite (P := KeepsA m r) (fun _ => ?_) (fun _ => ?_)
  · exact (KeepsA.next h3)
  · exact (KeepsA.next (sendPages_keeps (hE.sub rfl) h3))

theorem pageAt_keeps {m r x1 x2 x3 x4} (hE : Fits 152046117 m) (h1 : Keeps m r x1) :
    Keeps m r (pageAt x1 x2 x3 x4) := by
  unfold pageAt
  extract_lets -underBinder -merge -useContext +onlyGivenNames vw1 vx2 vs3 vs4 vs5
  have hvs3 : Keeps m r vs3 := by
    unfold vs3
    refine keeps_ite (P := Keeps m r) (fun _ => ?_) (fun _ => ?_)
    · exact (hbmWrite_keeps (hE.sub rfl) h1)
    · exact h1
  clear_value vs3
  have hvs4 : Keeps m r vs4 := (setTurnWork_keeps (hE.sub rfl) hvs3)
  clear_value vs4
  have hvs5 : Keeps m r vs5 := (Keeps.wrf (k := 8) (Keeps.wrf (k := 8) hvs4 (hE.sub rfl)) (hE.sub rfl))
  clear_value vs5
  refine keeps_ite (P := Keeps m r) (fun _ => ?_) (fun _ => ?_)
  · exact h1
  · refine keeps_ite (P := Keeps m r) (fun _ => ?_) (fun _ => ?_)
    · exact h1
    · refine keeps_ite (P := Keeps m r) (fun _ => ?_) (fun _ => ?_)
      · refine keeps_ite (P := Keeps m r) (fun _ => ?_) (fun _ => ?_)
        · exact h1
        · exact (turnReject_keeps (hE.sub rfl) (setTurnWork_keeps (hE.sub rfl) h1))
      · refine keeps_ite (P := Keeps m r) (fun _ => ?_) (fun _ => ?_)
        · exact (turnReject_keeps (hE.sub rfl) h1)
        · refine keeps_ite (P := Keeps m r) (fun _ => ?_) (fun _ => ?_)
          · exact (setPhase_keeps (hE.sub rfl) hvs5)
          · exact hvs5

theorem execPage_keeps {m r x1 x2 x3} (hE : Fits 265554943 m) (h3 : Keeps m r x3) :
    KeepsA m r (execPage x1 x2 x3) := by
  unfold execPage
  refine KeepsA.next ?_
  refine turnPacket_keeps (hE.sub rfl) h3 (fun _ _ g6 => ?_)
  split
  · exact (rejectNotArmed_keeps (hE.sub rfl) g6)
  · refine keeps_ite (P := Keeps m r) (fun _ => ?_) (fun _ => ?_)
    · exact (rejectNotArmed_keeps (hE.sub rfl) g6)
    · exact (pageAt_keeps (hE.sub rfl) g6)

theorem execPeerAbort_keeps {m r x1 x2 x3} (hE : Fits 265554943 m) (h3 : Keeps m r x3) :
    KeepsA m r (execPeerAbort x1 x2 x3) := by
  unfold execPeerAbort
  refine KeepsA.next ?_
  refine turnPacket_keeps (hE.sub rfl) h3 (fun _ _ g6 => ?_)
  extract_lets -underBinder -merge -useContext +onlyGivenNames vfail7
  have hvfail7 : ∀ y8, Keeps m r (vfail7 y8) := by
    intro y8
    unfold vfail7
    exact (failTurn_keeps (hE.sub rfl) g6)
  clear_value vfail7
  split
  · exact (hvfail7 _)
  · split
    · exact (hvfail7 _)
    · exact g6

theorem sendAbort_keeps {m r x1 x2 x3 x4} (hE : Fits 135266821 m) (h1 : Keeps m r x1) :
    Keeps m r (sendAbort x1 x2 x3 x4) := by
  unfold sendAbort
  exact (sendTurn_keeps (hE.sub rfl) h1)

theorem turnResume_keeps {m r x1 x2 x3 x4 x5 x6} (hE : Fits 198183917 m) (h1 : Keeps m r x1) :
    Keeps m r (turnResume x1 x2 x3 x4 x5 x6) := by
  unfold turnResume
  extract_lets -underBinder -merge -useContext +onlyGivenNames vs1
  have hvs1 : Keeps m r vs1 := (turnAttempt_keeps (hE.sub rfl) h1)
  clear_value vs1
  refine keeps_ite (P := Keeps m r) (fun _ => ?_) (fun _ => ?_)
  · exact hvs1
  · split
    · extract_lets -underBinder -merge -useContext +onlyGivenNames vs2
      have hvs2 : Keeps m r vs2 := (entryLost_keeps (hE.sub rfl) (count_keeps (hE.sub rfl) hvs1))
      clear_value vs2
      exact (sendAbort_keeps (hE.sub rfl) (failTurn_keeps (hE.sub rfl) hvs2))
    · exact (sendPages_keeps (hE.sub rfl) (setPhase_keeps (hE.sub rfl) (count_keeps (hE.sub rfl) hvs1)))
    · exact (sendPages_keeps (hE.sub rfl) (setPhase_keeps (hE.sub rfl) hvs1))

theorem rejectAt_keeps {m r x1 x2 x3 x4 x5} (hE : Fits 198183917 m) (h1 : Keeps m r x1) :
    Keeps m r (rejectAt x1 x2 x3 x4 x5) := by
  unfold rejectAt
  extract_lets -underBinder -merge -useContext +onlyGivenNames vs1
  have hvs1 : Keeps m r vs1 := (turnAttempt_keeps (hE.sub rfl) h1)
  clear_value vs1
  refine keeps_ite (P := Keeps m r) (fun _ => ?_) (fun _ => ?_)
  · exact h1
  · refine keeps_ite (P := Keeps m r) (fun _ => ?_) (fun _ => ?_)
    · exact (failTurn_keeps (hE.sub rfl) h1)
    · refine keeps_ite (P := Keeps m r) (fun _ => ?_) (fun _ => ?_)
      · refine keeps_ite (P := Keeps m r) (fun _ => ?_) (fun _ => ?_)
        · exact hvs1
        · exact (setPhase_keeps (hE.sub rfl) hvs1)
      · refine keeps_ite (P := Keeps m r) (fun _ => ?_) (fun _ => ?_)
        · exact (turnResume_keeps (hE.sub rfl) h1)
        · exact h1

theorem execReject_keeps {m r x1 x2 x3 x4} (hE : Fits 265554943 m) (h4 : Keeps m r x4) :
    KeepsA m r (execReject x1 x2 x3 x4) := by
  unfold execReject
  refine KeepsA.next ?_
  refine turnPacket_keeps (hE.sub rfl) h4 (fun _ _ g6 => ?_)
  split
  · exact g6
  · exact (rejectAt_keeps (hE.sub rfl) g6)

theorem turnReport_keeps {m r x1 x2 x3 x4} (hE : Fits 16777216 m) (h1 : Keeps m r x1) :
    Keeps m r (turnReport x1 x2 x3 x4) := by
  unfold turnReport
  exact (Keeps.wr (k := 8) h1 (hE.sub rfl))

theorem turnFinish_keeps {m r x1 x2 x3} (hE : Fits 16777248 m) (h1 : Keeps m r x1) :
    Keeps m r (turnFinish x1 x2 x3) := by
  unfold turnFinish
  extract_lets -underBinder -merge -useContext +onlyGivenNames ve1 vsrc2 vs3
  have hvs3 : Keeps m r vs3 := (freeTurn_keeps (hE.sub rfl) h1)
  clear_value vs3
  refine keeps_ite (P := Keeps m r) (fun _ => ?_) (fun _ => ?_)
  · exact (freeEntry_keeps (hE.sub rfl) hvs3)
  · exact hvs3

theorem turnRestart_keeps {m r x1 x2 x3} (hE : Fits 152044069 m) (h1 : Keeps m r x1) :
    Keeps m r (turnRestart x1 x2 x3) := by
  unfold turnRestart
  extract_lets -underBinder -merge -useContext +onlyGivenNames vs1 vsrc2
  have hvs1 : Keeps m r vs1 := (setPhase_keeps (hE.sub rfl) (Keeps.wrf (k := 8) h1 (hE.sub rfl)))
  clear_value vs1
  refine keeps_ite (P := Keeps m r) (fun _ => ?_) (fun _ => ?_)
  · exact (Keeps.wrf (k := 8) (setTurnWork_keeps (hE.sub rfl) hvs1) (hE.sub rfl))
  · exact (sendPages_keeps (hE.sub rfl) hvs1)

theorem spoilRegion_keeps {m r x1 x2 x3} (hE : Fits 2080 m) (h1 : Keeps m r x1) :
    Keeps m r (spoilRegion x1 x2 x3) := by
  unfold spoilRegion
  extract_lets -underBinder -merge -useContext +onlyGivenNames vk1 vs2
  have hvs2 : Keeps m r vs2 := (hbmWrite_keeps (hE.sub rfl) h1)
  clear_value vs2
  exact (Keeps.upd 0 hvs2 (hE.sub rfl) rfl)

theorem failWaiting_keeps {m r x1 x2 x3} (hE : Fits 193989485 m) (h1 : Keeps m r x1) :
    Keeps m r (failWaiting x1 x2 x3) := by
  unfold failWaiting
  exact (failGroups_keeps (hE.sub rfl) h1)

theorem turnAbort_keeps {m r x1 x2 x3} (hE : Fits 198183917 m) (h1 : Keeps m r x1) :
    Keeps m r (turnAbort x1 x2 x3) := by
  unfold turnAbort
  extract_lets -underBinder -merge -useContext +onlyGivenNames ve1 vx2 vs3 vs4
  have hvs3 : Keeps m r vs3 := by
    unfold vs3
    refine keeps_ite (P := Keeps m r) (fun _ => ?_) (fun _ => ?_)
    · exact h1
    · exact (sendAbort_keeps (hE.sub rfl) h1)
  clear_value vs3
  have hvs4 : Keeps m r vs4 := by
    unfold vs4
    refine keeps_ite (P := Keeps m r) (fun _ => ?_) (fun _ => ?_)
    · refine keeps_ite (P := Keeps m r) (fun _ => ?_) (fun _ => ?_)
      · exact (failWaiting_keeps (hE.sub rfl) (spoilRegion_keeps (hE.sub rfl) (setFbState_keeps (hE.sub rfl) hvs3)))
      · exact hvs3
    · refine keeps_ite (P := Keeps m r) (fun _ => ?_) (fun _ => ?_)
      · exact hvs3
      · refine keeps_ite (P := Keeps m r) (fun _ => ?_) (fun _ => ?_)
        · exact (fallowEntry_keeps (hE.sub rfl) hvs3)
        · exact (setBinStep_keeps (hE.sub rfl) (setFbState_keeps (hE.sub rfl) hvs3))
  clear_value vs4
  exact (freeTurn_keeps (hE.sub rfl) hvs4)

theorem turnArm_keeps {m r x1 x2 x3} (hE : Fits 16777248 m) (h1 : Keeps m r x1) :
    Keeps m r (turnArm x1 x2 x3) := by
  unfold turnArm
  extract_lets -underBinder -merge -useContext +onlyGivenNames vs1 vs2
  have hvs1 : Keeps m r vs1 := (Keeps.wr (k := 8) (Keeps.wr (k := 8) (setPhase_keeps (hE.sub rfl) (Keeps.wrf (k := 8) h1 (hE.sub rfl))) (hE.sub rfl)) (hE.sub rfl))
  clear_value vs1
  have hvs2 : Keeps m r vs2 := (setTurnWork_keeps (hE.sub rfl) hvs1)
  clear_value vs2
  refine keeps_ite (P := Keeps m r) (fun _ => ?_) (fun _ => ?_)
  · exact (setFbState_keeps (hE.sub rfl) hvs2)
  · exact hvs2

theorem turnCommand_keeps {m r x1 x2 x3 x4} (hE : Fits 265292797 m) (h1 : Keeps m r x1) :
    KeepsP m r (turnCommand x1 x2 x3 x4) := by
  unfold turnCommand
  extract_lets -underBinder -merge -useContext +onlyGivenNames vph1 vr2
  have hvr2 : KeepsP m r vr2 := by
    unfold vr2
    split
    · extract_lets -underBinder -merge -useContext +onlyGivenNames vc3
      refine keeps_ite (P := KeepsP m r) (fun _ => ?_) (fun _ => ?_)
      · exact (KeepsP.mk h1)
      · exact (KeepsP.mk (turnArm_keeps (hE.sub rfl) h1))
    · refine keeps_ite (P := KeepsP m r) (fun _ => ?_) (fun _ => ?_)
      · exact (KeepsP.mk h1)
      · exact (KeepsP.mk (settle_keeps (hE.sub rfl) (turnAbort_keeps (hE.sub rfl) h1)))
    · refine keeps_ite (P := KeepsP m r) (fun _ => ?_) (fun _ => ?_)
      · exact (KeepsP.mk h1)
      · exact (KeepsP.mk (turnRestart_keeps (hE.sub rfl) h1))
    · refine keeps_ite (P := KeepsP m r) (fun _ => ?_) (fun _ => ?_)
      · exact (KeepsP.mk h1)
      · exact (KeepsP.mk (turnFinish_keeps (hE.sub rfl) h1))
    · exact (KeepsP.mk h1)
  clear_value vr2
  exact (KeepsP.mk (turnReport_keeps (hE.sub rfl) hvr2))

theorem turnCmdWrite_keeps {m r x1 x2 x3 x4} (hE : Fits 265296893 m) (h1 : Keeps m r x1) :
    KeepsW m r (turnCmdWrite x1 x2 x3 x4) := by
  unfold turnCmdWrite
  refine keeps_ite (P := KeepsW m r) (fun _ => ?_) (fun _ => ?_)
  · exact h1
  · exact (cmdWrite_keeps (k := 8) (hE.sub rfl) (hE.sub rfl) h1 (fun _ g1 => (turnCommand_keeps (hE.sub rfl) g1)))

theorem turnRow_keeps {m r x1 x2 x3 x4 x5} (hE : Fits 265296893 m) (h1 : Keeps m r x1) :
    Keeps m r (turnRow x1 x2 x3 x4 x5) := by
  unfold turnRow
  exact (mgApply_keeps (hE.sub rfl) h1 (fun _ g1 => (turnCmdWrite_keeps (hE.sub rfl) g1)))

theorem execTurnAbort_keeps {m r x1 x2 x3 x4} (hE : Fits 265296893 m) (h4 : Keeps m r x4) :
    KeepsA m r (execTurnAbort x1 x2 x3 x4) := by
  unfold execTurnAbort
  exact (KeepsA.next (turnRow_keeps (hE.sub rfl) h4))

theorem execTurnArm_keeps {m r x1 x2 x3 x4} (hE : Fits 265296893 m) (h4 : Keeps m r x4) :
    KeepsA m r (execTurnArm x1 x2 x3 x4) := by
  unfold execTurnArm
  exact (KeepsA.next (turnRow_keeps (hE.sub rfl) h4))

theorem execTurnFinish_keeps {m r x1 x2 x3 x4} (hE : Fits 265296893 m) (h4 : Keeps m r x4) :
    KeepsA m r (execTurnFinish x1 x2 x3 x4) := by
  unfold execTurnFinish
  exact (KeepsA.next (turnRow_keeps (hE.sub rfl) h4))

theorem execTurnQuery_keeps {m r x1 x2 x3 x4} (hE : Fits 265296893 m) (h4 : Keeps m r x4) :
    KeepsA m r (execTurnQuery x1 x2 x3 x4) := by
  unfold execTurnQuery
  exact (KeepsA.next (turnRow_keeps (hE.sub rfl) h4))

theorem execTurnRestart_keeps {m r x1 x2 x3 x4} (hE : Fits 265296893 m) (h4 : Keeps m r x4) :
    KeepsA m r (execTurnRestart x1 x2 x3 x4) := by
  unfold execTurnRestart
  exact (KeepsA.next (turnRow_keeps (hE.sub rfl) h4))

theorem turnSlotWrite_keeps {m r x1 x2 x3 x4 x5 x6} (hE : Fits 150999040 m) (h1 : Keeps m r x1) :
    KeepsW m r (turnSlotWrite x1 x2 x3 x4 x5 x6) := by
  unfold turnSlotWrite
  refine keeps_ite (P := KeepsW m r) (fun _ => ?_) (fun _ => ?_)
  · exact h1
  · refine keeps_ite (P := KeepsW m r) (fun _ => ?_) (fun _ => ?_)
    · exact (turnReport_keeps (hE.sub rfl) h1)
    · exact (turnReport_keeps (hE.sub rfl) (regWrite_keeps (k := 8) (hE.sub rfl) (hE.sub rfl) h1))

theorem execTurnSlotWrite_keeps {m r x1 x2 x3 x4 x5 x6} (hE : Fits 184553728 m) (h6 : Keeps m r x6) :
    KeepsA m r (execTurnSlotWrite x1 x2 x3 x4 x5 x6) := by
  unfold execTurnSlotWrite
  exact (KeepsA.next (mgApply_keeps (hE.sub rfl) h6 (fun _ g1 => (turnSlotWrite_keeps (hE.sub rfl) g1))))

theorem execTurnoverTimeout_keeps {m r x1 x2 x3} (hE : Fits 152044069 m) (h3 : Keeps m r x3) :
    KeepsA m r (execTurnoverTimeout x1 x2 x3) := by
  unfold execTurnoverTimeout
  extract_lets -underBinder -merge -useContext +onlyGivenNames vw1 vs2
  have hvs2 : Keeps m r vs2 := (setTurnWork_keeps (hE.sub rfl) h3)
  clear_value vs2
  refine keeps_ite (P := KeepsA m r) (fun _ => ?_) (fun _ => ?_)
  · exact (KeepsA.next h3)
  · exact (KeepsA.next (turnAttempt_keeps (hE.sub rfl) (turnReject_keeps (hE.sub rfl) hvs2)))

theorem turnTake_keeps {m r x1 x2 x3} (hE : Fits 198183917 m) (h1 : Keeps m r x1) :
    Keeps m r (turnTake x1 x2 x3) := by
  unfold turnTake
  extract_lets -underBinder -merge -useContext +onlyGivenNames ve1 vws2 vb3 vs4 vs5 vs6 vs7 vs8 vs9 vs10
  have hvs4 : Keeps m r vs4 := (Keeps.wr (k := 8) h1 (hE.sub rfl))
  clear_value vs4
  have hvs5 : Keeps m r vs5 := (Keeps.wrf (k := 8) (Keeps.wrf (k := 8) hvs4 (hE.sub rfl)) (hE.sub rfl))
  clear_value vs5
  have hvs6 : Keeps m r vs6 := (setBinStep_keeps (hE.sub rfl) (clearStats_keeps (hE.sub rfl) hvs5))
  clear_value vs6
  have hvs7 : Keeps m r vs7 := (Keeps.wrf (k := 8) (Keeps.wrf (k := 8) hvs6 (hE.sub rfl)) (hE.sub rfl))
  clear_value vs7
  have hvs8 : Keeps m r vs8 := (Keeps.wrf (k := 8) hvs7 (hE.sub rfl))
  clear_value vs8
  have hvs9 : Keeps m r vs9 := (setFbState_keeps (hE.sub rfl) hvs8)
  clear_value vs9
  have hvs10 : Keeps m r vs10 := (sendTurn_keeps (hE.sub rfl) hvs9)
  clear_value vs10
  exact (retryJudgements_keeps (hE.sub rfl) (setPhase_keeps (hE.sub rfl) hvs10))

theorem turnBack_keeps {m r x1 x2 x3 x4} (hE : Fits 152044069 m) (h1 : Keeps m r x1) :
    Keeps m r (turnBack x1 x2 x3 x4) := by
  unfold turnBack
  extract_lets -underBinder -merge -useContext +onlyGivenNames vw1 vs2
  have hvs2 : Keeps m r vs2 := (setTurnWork_keeps (hE.sub rfl) h1)
  clear_value vs2
  exact (turnReject_keeps (hE.sub rfl) (Keeps.wrf (k := 8) (setPhase_keeps (hE.sub rfl) hvs2) (hE.sub rfl)))

theorem execVerifyingEnd_keeps {m r x1 x2 x3} (hE : Fits 265292797 m) (h3 : Keeps m r x3) :
    KeepsA m r (execVerifyingEnd x1 x2 x3) := by
  unfold execVerifyingEnd
  extract_lets -underBinder -merge -useContext +onlyGivenNames vn1 vt2 vw3 vx4 vbad5
  refine keeps_ite (P := KeepsA m r) (fun _ => ?_) (fun _ => ?_)
  · exact (KeepsA.next h3)
  · clear_value vbad5
    split
    · exact (KeepsA.next (turnBack_keeps (hE.sub rfl) h3))
    · refine keeps_ite (P := KeepsA m r) (fun _ => ?_) (fun _ => ?_)
      · exact (KeepsA.next (turnBack_keeps (hE.sub rfl) h3))
      · exact (KeepsA.next (settle_keeps (hE.sub rfl) (turnTake_keeps (hE.sub rfl) h3)))

theorem execLocalVerdictSend_keeps {m r x1 x2} (hE : Fits 265292797 m) (h2 : Keeps m r x2) :
    KeepsA m r (execLocalVerdictSend x1 x2) := by
  unfold execLocalVerdictSend
  extract_lets -underBinder -merge -useContext +onlyGivenNames vrec1 vs12 vs13
  have hvs12 : Keeps m r vs12 := (Keeps.wrf (k := 8) (Keeps.wrf (k := 8) h2 (hE.sub rfl)) (hE.sub rfl))
  clear_value vs12
  have hvs13 : Keeps m r vs13 := (Keeps.wr (k := 8) hvs12 (hE.sub rfl))
  clear_value vs13
  refine keeps_ite (P := KeepsA m r) (fun _ => ?_) (fun _ => ?_)
  · exact (KeepsA.next h2)
  · split
    · exact (KeepsA.next h2)
    · exact (KeepsA.next (settle_keeps (hE.sub rfl) (KeepsO.get (contributeOwn_keeps (hE.sub rfl) hvs13) (by assumption))))

theorem verdictCommand_keeps {m r x1 x2 x3 x4} (hE : Fits 265292797 m) (h1 : Keeps m r x1) :
    KeepsP m r (verdictCommand x1 x2 x3 x4) := by
  unfold verdictCommand
  extract_lets -underBinder -merge -useContext +onlyGivenNames vst1 vd2 vr3
  have hvr3 : KeepsP m r vr3 := by
    unfold vr3
    split
    · refine keeps_ite (P := KeepsP m r) (fun _ => ?_) (fun _ => ?_)
      · exact (KeepsP.mk h1)
      · refine keeps_ite (P := KeepsP m r) (fun _ => ?_) (fun _ => ?_)
        · exact (KeepsP.mk h1)
        · exact (KeepsP.mk (settle_keeps (hE.sub rfl) (Keeps.wr (k := 8) (Keeps.wrf (k := 8) h1 (hE.sub rfl)) (hE.sub rfl))))
    · extract_lets -underBinder -merge -useContext +onlyGivenNames vsrc4
      refine keeps_ite (P := KeepsP m r) (fun _ => ?_) (fun _ => ?_)
      · exact (KeepsP.mk h1)
      · refine keeps_ite (P := KeepsP m r) (fun _ => ?_) (fun _ => ?_)
        · exact (KeepsP.mk (Keeps.wrf (k := 8) h1 (hE.sub rfl)))
        · refine keeps_ite (P := KeepsP m r) (fun _ => ?_) (fun _ => ?_)
          · exact (KeepsP.mk h1)
          · exact (KeepsP.mk (setVrdWork_keeps (hE.sub rfl) h1))
    · refine keeps_ite (P := KeepsP m r) (fun _ => ?_) (fun _ => ?_)
      · exact (KeepsP.mk h1)
      · exact (KeepsP.mk (setVrdWork_keeps (hE.sub rfl) (Keeps.wrf (k := 8) h1 (hE.sub rfl))))
    · refine keeps_ite (P := KeepsP m r) (fun _ => ?_) (fun _ => ?_)
      · exact (KeepsP.mk h1)
      · refine keeps_ite (P := KeepsP m r) (fun _ => ?_) (fun _ => ?_)
        · exact (KeepsP.mk h1)
        · refine keeps_ite (P := KeepsP m r) (fun _ => ?_) (fun _ => ?_)
          · exact (KeepsP.mk h1)
          · exact (KeepsP.mk (settle_keeps (hE.sub rfl) (applyOutcome_keeps (hE.sub rfl) h1)))
    · refine keeps_ite (P := KeepsP m r) (fun _ => ?_) (fun _ => ?_)
      · exact (KeepsP.mk h1)
      · exact (KeepsP.mk (Keeps.wrf (k := 8) h1 (hE.sub rfl)))
    · exact (KeepsP.mk h1)
  clear_value vr3
  exact (KeepsP.mk (Keeps.wr (k := 8) hvr3 (hE.sub rfl)))

theorem verdictCmdWrite_keeps {m r x1 x2 x3 x4} (hE : Fits 265296893 m) (h1 : Keeps m r x1) :
    KeepsW m r (verdictCmdWrite x1 x2 x3 x4) := by
  unfold verdictCmdWrite
  refine keeps_ite (P := KeepsW m r) (fun _ => ?_) (fun _ => ?_)
  · exact h1
  · exact (cmdWrite_keeps (k := 8) (hE.sub rfl) (hE.sub rfl) h1 (fun _ g1 => (verdictCommand_keeps (hE.sub rfl) g1)))

theorem verdictRow_keeps {m r x1 x2 x3 x4 x5} (hE : Fits 265296893 m) (h1 : Keeps m r x1) :
    Keeps m r (verdictRow x1 x2 x3 x4 x5) := by
  unfold verdictRow
  exact (mgApply_keeps (hE.sub rfl) h1 (fun _ g1 => (verdictCmdWrite_keeps (hE.sub rfl) g1)))

theorem execResolve_keeps {m r x1 x2 x3 x4} (hE : Fits 265296893 m) (h4 : Keeps m r x4) :
    KeepsA m r (execResolve x1 x2 x3 x4) := by
  unfold execResolve
  exact (KeepsA.next (verdictRow_keeps (hE.sub rfl) h4))

theorem execSkipNext_keeps {m r x1 x2 x3 x4} (hE : Fits 265296893 m) (h4 : Keeps m r x4) :
    KeepsA m r (execSkipNext x1 x2 x3 x4) := by
  unfold execSkipNext
  exact (KeepsA.next (verdictRow_keeps (hE.sub rfl) h4))

theorem execVerdict_keeps {m r x1 x2 x3} (hE : Fits 265554943 m) (h3 : Keeps m r x3) :
    KeepsA m r (execVerdict x1 x2 x3) := by
  unfold execVerdict
  refine keeps_ite (P := KeepsA m r) (fun _ => ?_) (fun _ => ?_)
  · exact (KeepsA.next (settle_keeps (hE.sub rfl) (takeColl_keeps (hE.sub rfl) h3)))
  · exact (KeepsA.next h3)

theorem verdictStore_keeps {m r x1 x2 x3 x4 x5 x6} (hE : Fits 150994944 m) (h1 : Keeps m r x1) :
    Keeps m r (verdictStore x1 x2 x3 x4 x5 x6) := by
  unfold verdictStore
  extract_lets -underBinder -merge -useContext +onlyGivenNames vold1
  exact (Keeps.wr (k := 8) (logWrite_keeps (hE.sub rfl) h1) (hE.sub rfl))

theorem verdictWrite_keeps {m r x1 x2 x3 x4 x5 x6} (hE : Fits 150994944 m) (h1 : Keeps m r x1) :
    KeepsW m r (verdictWrite x1 x2 x3 x4 x5 x6) := by
  unfold verdictWrite
  extract_lets -underBinder -merge -useContext +onlyGivenNames vst1 vold2 vopen3 vchanges4 vv5
  refine keeps_ite (P := KeepsW m r) (fun _ => ?_) (fun _ => ?_)
  · exact h1
  · refine keeps_ite (P := KeepsW m r) (fun _ => ?_) (fun _ => ?_)
    · exact (verdictStore_keeps (hE.sub rfl) h1)
    · exact (verdictStore_keeps (hE.sub rfl) h1)

theorem execVerdictEntryWrite_keeps {m r x1 x2 x3 x4 x5 x6} (hE : Fits 184549632 m) (h6 : Keeps m r x6) :
    KeepsA m r (execVerdictEntryWrite x1 x2 x3 x4 x5 x6) := by
  unfold execVerdictEntryWrite
  exact (KeepsA.next (mgApply_keeps (hE.sub rfl) h6 (fun _ g1 => (verdictWrite_keeps (hE.sub rfl) g1))))

theorem execVerdictFallow_keeps {m r x1 x2 x3 x4} (hE : Fits 265296893 m) (h4 : Keeps m r x4) :
    KeepsA m r (execVerdictFallow x1 x2 x3 x4) := by
  unfold execVerdictFallow
  exact (KeepsA.next (verdictRow_keeps (hE.sub rfl) h4))

theorem execVerdictFree_keeps {m r x1 x2 x3 x4} (hE : Fits 265296893 m) (h4 : Keeps m r x4) :
    KeepsA m r (execVerdictFree x1 x2 x3 x4) := by
  unfold execVerdictFree
  exact (KeepsA.next (verdictRow_keeps (hE.sub rfl) h4))

theorem execVerdictQuery_keeps {m r x1 x2 x3 x4} (hE : Fits 265296893 m) (h4 : Keeps m r x4) :
    KeepsA m r (execVerdictQuery x1 x2 x3 x4) := by
  unfold execVerdictQuery
  exact (KeepsA.next (verdictRow_keeps (hE.sub rfl) h4))

theorem execVerdictStart_keeps {m r x1 x2 x3 x4} (hE : Fits 265296893 m) (h4 : Keeps m r x4) :
    KeepsA m r (execVerdictStart x1 x2 x3 x4) := by
  unfold execVerdictStart
  exact (KeepsA.next (verdictRow_keeps (hE.sub rfl) h4))

theorem afterRead_keeps {m r x1 x2} (hE : Fits 1048576 m) (h1 : Keeps m r x1) :
    Keeps m r (afterRead x1 x2) := by
  unfold afterRead
  refine keeps_ite (P := Keeps m r) (fun _ => ?_) (fun _ => ?_)
  · exact (rearmGrnErr_keeps (hE.sub rfl) h1)
  · exact h1

theorem dropShadow_keeps {m r x1 x2} (hE : Fits 4096 m) (h1 : Keeps m r x1) :
    Keeps m r (dropShadow x1 x2) := by
  unfold dropShadow
  extract_lets -underBinder -merge -useContext +onlyGivenNames vsrc1 vmg2
  exact (Keeps.upd 4096 h1 (hE.sub rfl) rfl)

theorem thawGroup_keeps {m r x1 x2} (hE : Fits 134221824 m) (h1 : Keeps m r x1) :
    Keeps m r (thawGroup x1 x2) := by
  unfold thawGroup
  exact (Keeps.wr (k := 11) (dropShadow_keeps (hE.sub rfl) h1) (hE.sub rfl))

theorem freezeGroup_keeps {m r x1 x2 x3} (hE : Fits 134221824 m) (h2 : Keeps m r x2) :
    Keeps m r (freezeGroup x1 x2 x3) := by
  unfold freezeGroup
  extract_lets -underBinder -merge -useContext +onlyGivenNames vs1
  have hvs1 : Keeps m r vs1 := (Keeps.wr (k := 11) (dropShadow_keeps (hE.sub rfl) h2) (hE.sub rfl))
  clear_value vs1
  exact (Keeps.wr (k := 11) hvs1 (hE.sub rfl))

theorem snapCommand_keeps {m r x1 x2 x3 x4} (hE : Fits 134221824 m) (h1 : Keeps m r x1) :
    KeepsP m r (snapCommand x1 x2 x3 x4) := by
  unfold snapCommand
  extract_lets -underBinder -merge -useContext +onlyGivenNames vr1
  have hvr1 : KeepsP m r vr1 := by
    unfold vr1
    refine keeps_ite (P := KeepsP m r) (fun _ => ?_) (fun _ => ?_)
    · refine keeps_ite (P := KeepsP m r) (fun _ => ?_) (fun _ => ?_)
      · exact (KeepsP.mk h1)
      · show Keeps m r _
        refine forAll_keeps (fun _ _ q2 => ?_) h1
        exact (freezeGroup_keeps (hE.sub rfl) q2)
    · refine keeps_ite (P := KeepsP m r) (fun _ => ?_) (fun _ => ?_)
      · exact (KeepsP.mk h1)
      · refine keeps_ite (P := KeepsP m r) (fun _ => ?_) (fun _ => ?_)
        · refine keeps_ite (P := KeepsP m r) (fun _ => ?_) (fun _ => ?_)
          · exact (KeepsP.mk h1)
          · exact (KeepsP.mk (freezeGroup_keeps (hE.sub rfl) h1))
        · refine keeps_ite (P := KeepsP m r) (fun _ => ?_) (fun _ => ?_)
          · exact (KeepsP.mk h1)
          · show Keeps m r _
            refine keeps_ite (P := Keeps m r) (fun _ => ?_) (fun _ => ?_)
            · exact (thawGroup_keeps (hE.sub rfl) h1)
            · exact h1
  clear_value vr1
  exact (KeepsP.mk (Keeps.wr (k := 11) hvr1 (hE.sub rfl)))

theorem snapCmdWrite_keeps {m r x1 x2 x3} (hE : Fits 134221824 m) (h1 : Keeps m r x1) :
    KeepsW m r (snapCmdWrite x1 x2 x3) := by
  unfold snapCmdWrite
  exact (cmdWrite_keeps (k := 11) (hE.sub rfl) (hE.sub rfl) h1 (fun _ g1 => (snapCommand_keeps (hE.sub rfl) g1)))

theorem snapRow_keeps {m r x1 x2 x3 x4} (hE : Fits 167776512 m) (h1 : Keeps m r x1) :
    Keeps m r (snapRow x1 x2 x3 x4) := by
  unfold snapRow
  exact (mgApply_keeps (hE.sub rfl) h1 (fun _ g1 => (snapCmdWrite_keeps (hE.sub rfl) g1)))

theorem execFreeze_keeps {m r x1 x2 x3} (hE : Fits 167776512 m) (h3 : Keeps m r x3) :
    KeepsA m r (execFreeze x1 x2 x3) := by
  unfold execFreeze
  exact (KeepsA.next (snapRow_keeps (hE.sub rfl) h3))

theorem execFreezeAll_keeps {m r x1 x2} (hE : Fits 167776512 m) (h2 : Keeps m r x2) :
    KeepsA m r (execFreezeAll x1 x2) := by
  unfold execFreezeAll
  exact (KeepsA.next (snapRow_keeps (hE.sub rfl) h2))

theorem execSelfThaw_keeps {m r x1 x2} (hE : Fits 134221824 m) (h2 : Keeps m r x2) :
    KeepsA m r (execSelfThaw x1 x2) := by
  unfold execSelfThaw
  refine KeepsA.next ?_
  refine keeps_ite (P := Keeps m r) (fun _ => ?_) (fun _ => ?_)
  · exact (thawGroup_keeps (hE.sub rfl) h2)
  · exact h2

theorem execSnapshotTaken_keeps {m r x1 x2} (hE : Fits 4096 m) (h2 : Keeps m r x2) :
    KeepsA m r (execSnapshotTaken x1 x2) := by
  unfold execSnapshotTaken
  extract_lets -underBinder -merge -useContext +onlyGivenNames vlive1 vshadow2 vsrc3
  refine keeps_ite (P := KeepsA m r) (fun _ => ?_) (fun _ => ?_)
  · exact (KeepsA.next h2)
  · exact (KeepsA.next (Keeps.upd 4096 h2 (hE.sub rfl) rfl))

theorem execThaw_keeps {m r x1 x2 x3} (hE : Fits 167776512 m) (h3 : Keeps m r x3) :
    KeepsA m r (execThaw x1 x2 x3) := by
  unfold execThaw
  exact (KeepsA.next (snapRow_keeps (hE.sub rfl) h3))

theorem setRcd_keeps {m r x1 x2} (hE : Fits 256 m) (h1 : Keeps m r x1) :
    Keeps m r (setRcd x1 x2) := by
  unfold setRcd
  exact (Keeps.upd 256 h1 (hE.sub rfl) rfl)

theorem mismatch_keeps {m r x1 x2 x3 x4 x5} (hE : Fits 167772416 m) (h1 : Keeps m r x1) :
    Keeps m r (mismatch x1 x2 x3 x4 x5) := by
  unfold mismatch
  extract_lets -underBinder -merge -useContext +onlyGivenNames vs1 vs2
  have hvs1 : Keeps m r vs1 := (Keeps.wr (k := 9) h1 (hE.sub rfl))
  clear_value vs1
  have hvs2 : Keeps m r vs2 := by
    unfold vs2
    refine keeps_ite (P := Keeps m r) (fun _ => ?_) (fun _ => ?_)
    · exact (event_keeps (hE.sub rfl) (Keeps.wr (k := 9) hvs1 (hE.sub rfl)))
    · exact h1
  clear_value vs2
  exact (setRcd_keeps (hE.sub rfl) (Keeps.bump (k := 9) hvs2 (hE.sub rfl)))

theorem compareCode_keeps {m r x1 x2 x3 x4 x5} (hE : Fits 167772416 m) (h1 : Keeps m r x1) :
    Keeps m r (compareCode x1 x2 x3 x4 x5) := by
  unfold compareCode
  split
  · exact h1
  · extract_lets -underBinder -merge -useContext +onlyGivenNames vsrc1
    have hvsrc1 : Keeps m r vsrc1 := (mismatch_keeps (hE.sub rfl) h1)
    clear_value vsrc1
    refine keeps_ite (P := Keeps m r) (fun _ => ?_) (fun _ => ?_)
    · exact h1
    · exact (Keeps.upd 0 hvsrc1 (hE.sub rfl) rfl)

theorem compareDigest_keeps {m r x1 x2 x3 x4 x5} (hE : Fits 167772416 m) (h4 : Keeps m r x4) :
    Keeps m r (compareDigest x1 x2 x3 x4 x5) := by
  unfold compareDigest
  split
  · exact h4
  · extract_lets -underBinder -merge -useContext +onlyGivenNames vdest1 ve2
    clear_value ve2
    split
    · exact h4
    · refine keeps_ite (P := Keeps m r) (fun _ => ?_) (fun _ => ?_)
      · exact h4
      · exact (mismatch_keeps (hE.sub rfl) h4)

theorem endReplay_keeps {m r x1} (hE : Fits 33554688 m) (h1 : Keeps m r x1) :
    Keeps m r (endReplay x1) := by
  unfold endReplay
  exact (Keeps.wrf (k := 9) (setRcd_keeps (hE.sub rfl) h1) (hE.sub rfl))

theorem takeEntry_keeps {m r x1} (hE : Fits 256 m) (h1 : Keeps m r x1) :
    Keeps m r (takeEntry x1) := by
  unfold takeEntry
  split
  · exact h1
  · exact (setRcd_keeps (hE.sub rfl) h1)

theorem journalEnd_keeps {m r x1 x2} (hE : Fits 167772416 m) (h1 : Keeps m r x1) :
    Keeps m r (journalEnd x1 x2) := by
  unfold journalEnd
  extract_lets -underBinder -merge -useContext +onlyGivenNames vs1 vm2 vsrc3 vs4
  have hvs1 : Keeps m r vs1 := by
    unfold vs1
    refine keeps_ite (P := Keeps m r) (fun _ => ?_) (fun _ => ?_)
    · exact h1
    · exact (event_keeps (hE.sub rfl) h1)
  clear_value vs1
  have hvsrc3 : Keeps m r vsrc3 := (setRcd_keeps (hE.sub rfl) hvs1)
  clear_value vsrc3
  have hvs4 : Keeps m r vs4 := (setRcd_keeps (hE.sub rfl) h1)
  clear_value vs4
  refine keeps_ite (P := Keeps m r) (fun _ => ?_) (fun _ => ?_)
  · exact (Keeps.wrf (k := 9) (Keeps.upd 0 hvsrc3 (hE.sub rfl) rfl) (hE.sub rfl))
  · exact (event_keeps (hE.sub rfl) (Keeps.wrf (k := 9) (Keeps.wrf (k := 9) hvs4 (hE.sub rfl)) (hE.sub rfl)))

theorem putBlock_keeps {m r x1} (hE : Fits 167774496 m) (h1 : Keeps m r x1) :
    Keeps m r (putBlock x1) := by
  unfold putBlock
  extract_lets -underBinder -merge -useContext +onlyGivenNames vn1 vb2 vbody3 vplace4 vnone5 vtime6 vs7 vs8 vs9 vs10 vhead11 vs12 vs13
  have hvs7 : Keeps m r vs7 := (hbmWrite_keeps (hE.sub rfl) h1)
  clear_value vs7
  have hvs8 : Keeps m r vs8 := (setRcd_keeps (hE.sub rfl) hvs7)
  clear_value vs8
  have hvs9 : Keeps m r vs9 := (Keeps.upd 0 hvs8 (hE.sub rfl) rfl)
  clear_value vs9
  have hvs10 : Keeps m r vs10 := by
    unfold vs10
    refine keeps_ite (P := Keeps m r) (fun _ => ?_) (fun _ => ?_)
    · exact (journalEnd_keeps (hE.sub rfl) hvs9)
    · exact hvs9
  clear_value vs10
  have hvs12 : Keeps m r vs12 := (Keeps.wrf (k := 9) hvs10 (hE.sub rfl))
  clear_value vs12
  have hvs13 : Keeps m r vs13 := by
    unfold vs13
    refine keeps_ite (P := Keeps m r) (fun _ => ?_) (fun _ => ?_)
    · exact (Keeps.wrf (k := 9) hvs12 (hE.sub rfl))
    · exact hvs12
  clear_value vs13
  refine keeps_ite (P := Keeps m r) (fun _ => ?_) (fun _ => ?_)
  · exact hvs10
  · refine keeps_ite (P := Keeps m r) (fun _ => ?_) (fun _ => ?_)
    · exact (captureGroupStates_keeps (hE.sub rfl) hvs13)
    · exact hvs13

theorem fillBlock'_keeps {m r x1 x2} (hE : Fits 167774496 m) (h2 : Keeps m r x2) :
    Keeps m r (fillBlock' x1 x2) := by
  induction x1 generalizing x2 with
  | zero => exact keeps_ite (P := Keeps m r) (fun _ => putBlock_keeps (hE.sub rfl) h2) (fun _ => h2)
  | succ n ih => exact keeps_ite (P := Keeps m r) (fun _ => putBlock_keeps (hE.sub rfl) h2) (fun _ => ih (takeEntry_keeps (hE.sub rfl) h2))

theorem execJournalWrite_keeps {m r x1} (hE : Fits 167774496 m) (h1 : Keeps m r x1) :
    KeepsA m r (execJournalWrite x1) := by
  unfold execJournalWrite
  refine keeps_ite (P := KeepsA m r) (fun _ => ?_) (fun _ => ?_)
  · exact (KeepsA.next (fillBlock'_keeps (hE.sub rfl) h1))
  · exact (KeepsA.next h1)

theorem recResult_keeps {m r x1 x2} (hE : Fits 33554432 m) (h1 : Keeps m r x1) :
    Keeps m r (recResult x1 x2) := by
  unfold recResult
  exact (Keeps.wrf (k := 9) h1 (hE.sub rfl))

theorem recCfgWrite_keeps {m r x1 x2 x3 x4} (hE : Fits 167776256 m) (h1 : Keeps m r x1) :
    KeepsW m r (recCfgWrite x1 x2 x3 x4) := by
  unfold recCfgWrite
  extract_lets -underBinder -merge -useContext +onlyGivenNames va1
  have ha : okAt 9 va1 := by
    unfold va1
    split
    · exact ⟨by decide, by decide⟩
    · exact okAt_high (by decide) (aRec_from (by decide))
  refine keeps_ite (P := KeepsW m r) (fun _ => ?_) (fun _ => ?_)
  · exact (refuseR12_keeps (hE.sub rfl) (recResult_keeps (hE.sub rfl) h1))
  · exact (plainWrite_keeps (k := 9) (hE.sub rfl) (hE.sub rfl) h1 ha)

theorem execRecCfgWrite_keeps {m r x1 x2 x3 x4} (hE : Fits 167776512 m) (h4 : Keeps m r x4) :
    KeepsA m r (execRecCfgWrite x1 x2 x3 x4) := by
  unfold execRecCfgWrite
  extract_lets -underBinder -merge -useContext +onlyGivenNames va1
  exact (KeepsA.next (mgApply_keeps (hE.sub rfl) h4 (fun _ g2 => (recCfgWrite_keeps (hE.sub rfl) g2))))

theorem startReplay_keeps {m r x1 x2} (hE : Fits 33554688 m) (h1 : Keeps m r x1) :
    Keeps m r (startReplay x1 x2) := by
  unfold startReplay
  extract_lets -underBinder -merge -useContext +onlyGivenNames vseqs1 vs2 vs3
  have hvs2 : Keeps m r vs2 := (setRcd_keeps (hE.sub rfl) h1)
  clear_value vs2
  have hvs3 : Keeps m r vs3 := (Keeps.wr (k := 9) (Keeps.wr (k := 9) hvs2 (hE.sub rfl)) (hE.sub rfl))
  clear_value vs3
  exact (Keeps.wrf (k := 9) hvs3 (hE.sub rfl))

theorem flushJournal_keeps {m r x1 x2} (hE : Fits 167774496 m) (h2 : Keeps m r x2) :
    Keeps m r (flushJournal x1 x2) := by
  induction x1 generalizing x2 with
  | zero => exact h2
  | succ n ih =>
    refine keeps_ite (P := Keeps m r) (fun _ => h2) (fun _ => ?_)
    refine keeps_ite (P := Keeps m r) (fun _ => ?_) (fun _ => ih (fillBlock'_keeps (hE.sub rfl) h2))
    exact keeps_ite (P := Keeps m r) (fun _ => h2) (fun _ => putBlock_keeps (hE.sub rfl) h2)

theorem recStop_keeps {m r x1} (hE : Fits 167774496 m) (h1 : Keeps m r x1) :
    Keeps m r (recStop x1) := by
  unfold recStop
  extract_lets -underBinder -merge -useContext +onlyGivenNames vm1 vsrc2 vs3 vs4 vn5 vlast6 vs7
  have hvsrc2 : Keeps m r vsrc2 := (setRcd_keeps (hE.sub rfl) h1)
  clear_value vsrc2
  have hvs3 : Keeps m r vs3 := (Keeps.upd 0 hvsrc2 (hE.sub rfl) rfl)
  clear_value vs3
  have hvs4 : Keeps m r vs4 := (flushJournal_keeps (hE.sub rfl) hvs3)
  clear_value vs4
  have hvs7 : Keeps m r vs7 := (Keeps.wrf (k := 9) (Keeps.wrf (k := 9) hvs4 (hE.sub rfl)) (hE.sub rfl))
  clear_value vs7
  refine keeps_ite (P := Keeps m r) (fun _ => ?_) (fun _ => ?_)
  · exact hvs4
  · refine keeps_ite (P := Keeps m r) (fun _ => ?_) (fun _ => ?_)
    · exact (Keeps.wrf (k := 9) hvs7 (hE.sub rfl))
    · exact hvs7

theorem recStart_keeps {m r x1} (hE : Fits 167772416 m) (h1 : Keeps m r x1) :
    Keeps m r (recStart x1) := by
  unfold recStart
  extract_lets -underBinder -merge -useContext +onlyGivenNames vmask1 vs2 vs3 vm4 vsrc5
  have hvs2 : Keeps m r vs2 := (setRcd_keeps (hE.sub rfl) h1)
  clear_value vs2
  have hvs3 : Keeps m r vs3 := (Keeps.wrf (k := 9) (Keeps.wrf (k := 9) (Keeps.wrf (k := 9) hvs2 (hE.sub rfl)) (hE.sub rfl)) (hE.sub rfl))
  clear_value vs3
  have hvsrc5 : Keeps m r vsrc5 := (setRcd_keeps (hE.sub rfl) hvs3)
  clear_value vsrc5
  exact (captureGroupStates_keeps (hE.sub rfl) (Keeps.upd 0 hvsrc5 (hE.sub rfl) rfl))

theorem recCommand_keeps {m r x1 x2} (hE : Fits 167774496 m) (h1 : Keeps m r x1) :
    KeepsP m r (recCommand x1 x2) := by
  unfold recCommand
  extract_lets -underBinder -merge -useContext +onlyGivenNames vst1 vidle2 vr3
  have hvr3 : KeepsP m r vr3 := by
    unfold vr3
    split
    · refine keeps_ite (P := KeepsP m r) (fun _ => ?_) (fun _ => ?_)
      · exact (KeepsP.mk h1)
      · refine keeps_ite (P := KeepsP m r) (fun _ => ?_) (fun _ => ?_)
        · exact (KeepsP.mk h1)
        · exact (KeepsP.mk (recStart_keeps (hE.sub rfl) h1))
    · refine keeps_ite (P := KeepsP m r) (fun _ => ?_) (fun _ => ?_)
      · exact (KeepsP.mk (recStop_keeps (hE.sub rfl) h1))
      · exact (KeepsP.mk h1)
    · extract_lets -underBinder -merge -useContext +onlyGivenNames ves4 vcode5
      refine keeps_ite (P := KeepsP m r) (fun _ => ?_) (fun _ => ?_)
      · exact (KeepsP.mk (startReplay_keeps (hE.sub rfl) h1))
      · exact (KeepsP.mk h1)
    · refine keeps_ite (P := KeepsP m r) (fun _ => ?_) (fun _ => ?_)
      · exact (KeepsP.mk (endReplay_keeps (hE.sub rfl) h1))
      · exact (KeepsP.mk h1)
    · refine keeps_ite (P := KeepsP m r) (fun _ => ?_) (fun _ => ?_)
      · exact (KeepsP.mk (Keeps.wrf (k := 9) h1 (hE.sub rfl)))
      · exact (KeepsP.mk h1)
  clear_value vr3
  exact (KeepsP.mk (recResult_keeps (hE.sub rfl) hvr3))

theorem recCmdWrite_keeps {m r x1 x2 x3} (hE : Fits 167778592 m) (h1 : Keeps m r x1) :
    KeepsW m r (recCmdWrite x1 x2 x3) := by
  unfold recCmdWrite
  exact (cmdWrite_keeps (k := 9) (hE.sub rfl) (hE.sub rfl) h1 (fun _ g1 => (recCommand_keeps (hE.sub rfl) g1)))

theorem recRow_keeps {m r x1 x2 x3} (hE : Fits 167778592 m) (h1 : Keeps m r x1) :
    Keeps m r (recRow x1 x2 x3) := by
  unfold recRow
  exact (mgApply_keeps (hE.sub rfl) h1 (fun _ g1 => (recCmdWrite_keeps (hE.sub rfl) g1)))

theorem execRecClear_keeps {m r x1 x2} (hE : Fits 167778592 m) (h2 : Keeps m r x2) :
    KeepsA m r (execRecClear x1 x2) := by
  unfold execRecClear
  exact (KeepsA.next (recRow_keeps (hE.sub rfl) h2))

theorem execRecReplay_keeps {m r x1 x2} (hE : Fits 167778592 m) (h2 : Keeps m r x2) :
    KeepsA m r (execRecReplay x1 x2) := by
  unfold execRecReplay
  exact (KeepsA.next (recRow_keeps (hE.sub rfl) h2))

theorem execRecStart_keeps {m r x1 x2} (hE : Fits 167778592 m) (h2 : Keeps m r x2) :
    KeepsA m r (execRecStart x1 x2) := by
  unfold execRecStart
  exact (KeepsA.next (recRow_keeps (hE.sub rfl) h2))

theorem execRecStop_keeps {m r x1 x2} (hE : Fits 167778592 m) (h2 : Keeps m r x2) :
    KeepsA m r (execRecStop x1 x2) := by
  unfold execRecStop
  exact (KeepsA.next (recRow_keeps (hE.sub rfl) h2))

theorem execReplayAbort_keeps {m r x1 x2} (hE : Fits 167778592 m) (h2 : Keeps m r x2) :
    KeepsA m r (execReplayAbort x1 x2) := by
  unfold execReplayAbort
  exact (KeepsA.next (recRow_keeps (hE.sub rfl) h2))

theorem execReplayDone_keeps {m r x1} (hE : Fits 167772416 m) (h1 : Keeps m r x1) :
    KeepsA m r (execReplayDone x1) := by
  unfold execReplayDone
  refine keeps_ite (P := KeepsA m r) (fun _ => ?_) (fun _ => ?_)
  · exact (KeepsA.next (event_keeps (hE.sub rfl) (endReplay_keeps (hE.sub rfl) h1)))
  · exact (KeepsA.next h1)

theorem replayIn_keeps {m r x1 x2 x3 x4} (hE : Fits 167772416 m) (h1 : Keeps m r x1) :
    KeepsO m r (replayIn x1 x2 x3 x4) := by
  unfold replayIn
  extract_lets -underBinder -merge -useContext +onlyGivenNames vg1 vnear2 vsrc3 vstart4 vr5
  refine keeps_ite (P := KeepsO m r) (fun _ => ?_) (fun _ => ?_)
  · exact (KeepsO.some (compareCode_keeps (hE.sub rfl) h1))
  · refine keeps_ite (P := KeepsO m r) (fun _ => ?_) (fun _ => ?_)
    · exact KeepsO.none
    · refine KeepsO.some ?_
      refine compareCode_keeps (hE.sub rfl) ?_
      refine forAll_keeps (fun _ _ q6 => ?_) h1
      exact (compareDigest_keeps (hE.sub rfl) q6)

theorem execReplayInstance_keeps {m r x1 x2 x3} (hE : Fits 167772416 m) (h3 : Keeps m r x3) :
    KeepsA m r (execReplayInstance x1 x2 x3) := by
  unfold execReplayInstance
  split
  · exact (KeepsA.next h3)
  · extract_lets -underBinder -merge -useContext +onlyGivenNames vs1
    have hvs1 : Keeps m r vs1 := (setRcd_keeps (hE.sub rfl) h3)
    clear_value vs1
    refine keeps_ite (P := KeepsA m r) (fun _ => ?_) (fun _ => ?_)
    · exact (KeepsA.next h3)
    · refine KeepsA.next ?_
      refine KeepsO.getD (fun t ht => ?_) hvs1
      obtain ⟨es, _, he⟩ := List.exists_of_findSome?_eq_some ht
      exact replayIn_keeps (hE.sub rfl) hvs1 t he

theorem placeOf_okAt {a : Nat} {pl : Place} (h : placeOf a = some pl) (hs : pl ≠ .stored a) : okAt 0 a := by
  refine ⟨⟨?_, ?_, ?_, ?_⟩, Nat.zero_le _⟩ <;> rintro rfl <;> apply hs
  · exact Option.some.inj (h.symm.trans (by decide : placeOf 0x1000 = some (.stored 0x1000)))
  · exact Option.some.inj (h.symm.trans (by decide : placeOf 0x1008 = some (.stored 0x1008)))
  · exact Option.some.inj (h.symm.trans (by decide : placeOf 0x0400 = some (.stored 0x0400)))
  · exact Option.some.inj (h.symm.trans (by decide : placeOf 0x0110_0000 = some (.stored 0x0110_0000)))

theorem readOnly_keeps {m r x1 x2 x3 x4 x5} (hE : Fits 134217728 m) (h1 : Keeps m r x1) :
    KeepsW m r (readOnly x1 x2 x3 x4 x5) := by
  unfold readOnly
  split
  · exact h1
  · exact (logWrite_keeps (hE.sub rfl) h1)

theorem ifUnit_keeps {m r x1 x2 x3} (hE : Fits 0 m) (h1 : Keeps m r x1) (h3 : KeepsW m r x3) :
    KeepsW m r (ifUnit x1 x2 x3) := by
  unfold ifUnit
  refine keeps_ite (P := KeepsW m r) (fun _ => ?_) (fun _ => ?_)
  · exact h3
  · exact h1

theorem stagedWrite_keeps {m r x1 x2 x3 x4 x5 x6} (hE : Fits 4096 m) (h1 : Keeps m r x1) (h6 : KeepsW m r x6) :
    KeepsW m r (stagedWrite x1 x2 x3 x4 x5 x6) := by
  unfold stagedWrite
  refine keeps_ite (P := KeepsW m r) (fun _ => ?_) (fun _ => ?_)
  · exact h6
  · exact (stageWord_keeps (hE.sub rfl) h1)

theorem derivedWrite_keeps {m k r x1 x2 x3 x4 x5 x6} (hE : Fits 134217728 m) (hk : Fits (65536 <<< k) m) (h1 : Keeps m r x1) (ha : okAt k x3) :
    KeepsW m r (derivedWrite x1 x2 x3 x4 x5 x6) := Keeps.wr (logWrite_keeps (hE.sub rfl) h1) hk ha

theorem ifPort_keeps {m r x1 x2 x3} (hE : Fits 0 m) (h1 : Keeps m r x1) (h3 : KeepsW m r x3) :
    KeepsW m r (ifPort x1 x2 x3) := by
  unfold ifPort
  refine keeps_ite (P := KeepsW m r) (fun _ => ?_) (fun _ => ?_)
  · exact h1
  · exact h3

theorem grantWrite_keeps {m r x1 x2 x3 x4} (hE : Fits 32768 m) (h1 : Keeps m r x1) :
    KeepsW m r (grantWrite x1 x2 x3 x4) := by
  unfold grantWrite
  refine keeps_ite (P := KeepsW m r) (fun _ => h1) (fun _ => ?_)
  exact Keeps.setGrant h1 (hE.sub rfl) fun h => memoryWf_writeBytes _ _ h

theorem writePlace_keeps {m r x1 x2 x3 x4 x5} (hE : Fits 268410879 m) (h1 : Keeps m r x1)
    (ha : x4 ≠ .stored x3 → okAt 0 x3) :
    KeepsW m r (writePlace x1 x2 x3 x4 x5) := by
  unfold writePlace
  split
  · exact (plainWrite_keeps (hE.sub rfl) (hE.sub rfl) h1 (ha (by simp)))
  · exact (plainWrite_keeps (hE.sub rfl) (hE.sub rfl) h1 (ha (by simp)))
  · exact (roleWrite_keeps (hE.sub rfl) h1)
  · exact (roleCmdWrite_keeps (hE.sub rfl) h1)
  · exact (alertWrite_keeps (hE.sub rfl) h1)
  · exact (plainWrite_keeps (hE.sub rfl) (hE.sub rfl) h1 (ha (by simp)))
  · exact (secCmdWrite_keeps (hE.sub rfl) h1)
  · exact (grantWrite_keeps (hE.sub rfl) h1)
  · exact (flashWindowWrite_keeps (hE.sub rfl) h1)
  · exact (ifPort_keeps (hE.sub rfl) h1 (plainWrite_keeps (hE.sub rfl) (hE.sub rfl) h1 (ha (by simp))))
  · exact (ifPort_keeps (hE.sub rfl) h1 (linkCmdWrite_keeps (hE.sub rfl) h1))
  · exact (ifPort_keeps (hE.sub rfl) h1 (derivedWrite_keeps (hE.sub rfl) (hE.sub rfl) h1 (ha (by simp))))
  · exact (ifPort_keeps (hE.sub rfl) h1 (creditWrite_keeps (hE.sub rfl) h1))
  · exact (ifPort_keeps (hE.sub rfl) h1 (creditWrite_keeps (hE.sub rfl) h1))
  · exact (ifPort_keeps (hE.sub rfl) h1 (plainWrite_keeps (hE.sub rfl) (hE.sub rfl) h1 (ha (by simp))))
  · exact (fenceWrite_keeps (hE.sub rfl) h1)
  · exact (laneTestWrite_keeps (hE.sub rfl) h1)
  · exact (laneCmdWrite_keeps (hE.sub rfl) h1)
  · exact (plainWrite_keeps (hE.sub rfl) (hE.sub rfl) h1 (ha (by simp)))
  · exact (plainWrite_keeps (hE.sub rfl) (hE.sub rfl) h1 (ha (by simp)))
  · exact (fwdCmdWrite_keeps (hE.sub rfl) h1)
  · exact (fwdTableWrite_keeps (hE.sub rfl) h1)
  · exact (ecmpSetWrite_keeps (hE.sub rfl) h1)
  · exact (gleanCfgWrite_keeps (hE.sub rfl) h1)
  · exact (plainWrite_keeps (hE.sub rfl) (hE.sub rfl) h1 (ha (by simp)))
  · exact (plainWrite_keeps (hE.sub rfl) (hE.sub rfl) h1 (ha (by simp)))
  · exact (shaperWrite_keeps (hE.sub rfl) h1)
  · exact (policerWrite_keeps (hE.sub rfl) h1)
  · exact (memberWrite_keeps (hE.sub rfl) h1)
  · exact (advPlotWrite_keeps (hE.sub rfl) h1)
  · exact (hubWatchSet_keeps (hE.sub rfl) h1)
  · exact (drillWatchSet_keeps (hE.sub rfl) h1)
  · exact (stagedWrite_keeps (hE.sub rfl) h1 (groupCommit_keeps (hE.sub rfl) h1))
  · exact (groupCmdWrite_keeps (hE.sub rfl) h1)
  · exact (oscaleWrite_keeps (hE.sub rfl) h1)
  · exact (stagedWrite_keeps (hE.sub rfl) h1 (plotCommit_keeps (hE.sub rfl) h1))
  · exact (plotCmdWrite_keeps (hE.sub rfl) h1)
  · exact (ifUnit_keeps (hE.sub rfl) h1 (plainWrite_keeps (hE.sub rfl) (hE.sub rfl) h1 (ha (by simp))))
  · exact (tilCmdWrite_keeps (hE.sub rfl) h1)
  · exact (ifUnit_keeps (hE.sub rfl) h1 (plainWrite_keeps (hE.sub rfl) (hE.sub rfl) h1 (ha (by simp))))
  · exact (verdictCmdWrite_keeps (hE.sub rfl) h1)
  · exact (ifUnit_keeps (hE.sub rfl) h1 (plainWrite_keeps (hE.sub rfl) (hE.sub rfl) h1 (ha (by simp))))
  · exact (verdictWrite_keeps (hE.sub rfl) h1)
  · exact (ifUnit_keeps (hE.sub rfl) h1 (plainWrite_keeps (hE.sub rfl) (hE.sub rfl) h1 (ha (by simp))))
  · exact (turnCmdWrite_keeps (hE.sub rfl) h1)
  · exact (turnSlotWrite_keeps (hE.sub rfl) h1)
  · exact (ifUnit_keeps (hE.sub rfl) h1 (stagedWrite_keeps (hE.sub rfl) h1 (entryCommit_keeps (hE.sub rfl) h1)))
  · exact (hypWrite_keeps (hE.sub rfl) h1)
  · exact (yieldWrite_keeps (hE.sub rfl) h1)
  · exact (recCfgWrite_keeps (hE.sub rfl) h1)
  · exact (recCmdWrite_keeps (hE.sub rfl) h1)
  · exact (recCfgWrite_keeps (hE.sub rfl) h1)
  · exact (plainWrite_keeps (hE.sub rfl) (hE.sub rfl) h1 (ha (by simp)))
  · exact (fltCmdWrite_keeps (hE.sub rfl) h1)
  · exact (plainWrite_keeps (hE.sub rfl) (hE.sub rfl) h1 (ha (by simp)))
  · exact (plainWrite_keeps (hE.sub rfl) (hE.sub rfl) h1 (ha (by simp)))
  · exact (plainWrite_keeps (hE.sub rfl) (hE.sub rfl) h1 (ha (by simp)))
  · exact (snapCmdWrite_keeps (hE.sub rfl) h1)
  · exact (plainWrite_keeps (hE.sub rfl) (hE.sub rfl) h1 (ha (by simp)))
  · exact (hbmWindowWrite_keeps (hE.sub rfl) h1)
  · exact h1
  · exact h1
  · exact h1
  · exact h1
  · exact h1
  · exact h1
  · exact (readOnly_keeps (hE.sub rfl) h1)
  · exact (readOnly_keeps (hE.sub rfl) h1)
  · exact (readOnly_keeps (hE.sub rfl) h1)
  · exact (readOnly_keeps (hE.sub rfl) h1)
  · exact (readOnly_keeps (hE.sub rfl) h1)
  · exact (readOnly_keeps (hE.sub rfl) h1)
  · exact (readOnly_keeps (hE.sub rfl) h1)
  · exact (readOnly_keeps (hE.sub rfl) h1)
  · exact (readOnly_keeps (hE.sub rfl) h1)
  · exact (readOnly_keeps (hE.sub rfl) h1)
  · exact (readOnly_keeps (hE.sub rfl) h1)
  · exact (readOnly_keeps (hE.sub rfl) h1)
  · exact (readOnly_keeps (hE.sub rfl) h1)
  · exact (readOnly_keeps (hE.sub rfl) h1)
  · exact (readOnly_keeps (hE.sub rfl) h1)
  · exact (readOnly_keeps (hE.sub rfl) h1)
  · exact (readOnly_keeps (hE.sub rfl) h1)
  · exact (readOnly_keeps (hE.sub rfl) h1)
  · exact (readOnly_keeps (hE.sub rfl) h1)
  · exact (readOnly_keeps (hE.sub rfl) h1)
  · exact (readOnly_keeps (hE.sub rfl) h1)
  · exact (readOnly_keeps (hE.sub rfl) h1)
  · exact (readOnly_keeps (hE.sub rfl) h1)
  · exact (readOnly_keeps (hE.sub rfl) h1)
  · exact (readOnly_keeps (hE.sub rfl) h1)

theorem mgmtWrite_keeps {m r x1 x2 x3 x4} (hE : Fits 268410879 m) (h1 : Keeps m r x1) :
    KeepsW m r (mgmtWrite x1 x2 x3 x4) := by
  unfold mgmtWrite
  split
  · exact h1
  next hp => exact writePlace_keeps (hE.sub rfl) h1 (placeOf_okAt hp)

theorem applyWrite_keeps {m r x1 x2 x3 x4} (hE : Fits 268410879 m) (h1 : Keeps m r x1) :
    KeepsW m r (applyWrite x1 x2 x3 x4) := by
  unfold applyWrite
  extract_lets -underBinder -merge -useContext +onlyGivenNames vr1
  have hvr1 : KeepsW m r vr1 := (mgmtWrite_keeps (hE.sub rfl) h1)
  clear_value vr1
  split
  · exact (captureWrite_keeps (hE.sub rfl) hvr1)
  · exact hvr1

theorem execRegisterWrite_keeps {m r x1 x2 x3 x4} (hE : Fits 268410879 m) (h4 : Keeps m r x4) :
    KeepsA m r (execRegisterWrite x1 x2 x3 x4) := by
  unfold execRegisterWrite
  exact (KeepsA.next (mgApply_keeps (hE.sub rfl) h4 (fun _ g1 => (mgmtWrite_keeps (hE.sub rfl) g1))))

theorem execStageWrite_keeps {m r x1 x2 x3 x4} (hE : Fits 268410879 m) (h4 : Keeps m r x4) :
    KeepsA m r (execStageWrite x1 x2 x3 x4) := by
  unfold execStageWrite
  refine keeps_ite (P := KeepsA m r) (fun _ => ?_) (fun _ => ?_)
  · exact (KeepsA.next (mgApply_keeps (hE.sub rfl) h4 (fun _ g1 => (mgmtWrite_keeps (hE.sub rfl) g1))))
  · exact (KeepsA.next h4)

/-- The state of a write order's end. -/
def KeepsE (m : Nat) (r : State) (x : WriteEnd) : Prop := Keeps m r x.st

theorem WriteEnd_st_keeps {m r x1} (hE : Fits 0 m) (h1 : KeepsE m r x1) :
    Keeps m r (WriteEnd.st x1) := by
  unfold WriteEnd.st
  exact h1

theorem sendHost_keeps {m r x1 x2} (hE : Fits 4096 m) (h1 : Keeps m r x1) :
    Keeps m r (sendHost x1 x2) := by
  unfold sendHost
  exact (Keeps.upd 4096 h1 (hE.sub rfl) rfl)

theorem doHello_keeps {m r x1 x2} (hE : Fits 135168 m) (h1 : Keeps m r x1) :
    Keeps m r (doHello x1 x2) := by
  unfold doHello
  extract_lets -underBinder -merge -useContext +onlyGivenNames vv1 vsrc2 vs3 vs4
  have hvs3 : Keeps m r vs3 := (Keeps.upd 4096 h1 (hE.sub rfl) rfl)
  clear_value vs3
  have hvs4 : Keeps m r vs4 := (Keeps.wrf (k := 1) hvs3 (hE.sub rfl))
  clear_value vs4
  exact (sendHost_keeps (hE.sub rfl) hvs4)

theorem storeResponse_keeps {m r x1 x2 x3 x4} (hE : Fits 4096 m) (h1 : Keeps m r x1) :
    Keeps m r (storeResponse x1 x2 x3 x4) := by
  unfold storeResponse
  exact (Keeps.upd 4096 h1 (hE.sub rfl) rfl)

theorem finishRequest_keeps {m r x1 x2 x3} (hE : Fits 4096 m) (h1 : Keeps m r x1) :
    Keeps m r (finishRequest x1 x2 x3) := by
  unfold finishRequest
  exact (sendHost_keeps (hE.sub rfl) (storeResponse_keeps (hE.sub rfl) h1))

theorem readRun_keeps {m r x1 x2 x3} (hE : Fits 1048576 m) (h2 : Keeps m r x2) :
    KeepsP m r (readRun x1 x2 x3) := by
  induction x1 generalizing x2 x3 with
  | zero => exact h2
  | succ n ih =>
    unfold readRun
    split
    · exact h2
    · exact ih (afterRead_keeps (hE.sub rfl) h2)

theorem doRead_keeps {m r x1 x2} (hE : Fits 1052672 m) (h1 : Keeps m r x1) :
    Keeps m r (doRead x1 x2) := by
  unfold doRead
  extract_lets -underBinder -merge -useContext +onlyGivenNames vr1 vn2
  have hvr1 : KeepsP m r vr1 := (readRun_keeps (hE.sub rfl) h1)
  clear_value vr1
  exact (finishRequest_keeps (hE.sub rfl) hvr1)

theorem writeRun_keeps {m r x1 x2 x3 x4} (hE : Fits 268410879 m) (h2 : Keeps m r x2) :
    KeepsE m r (writeRun x1 x2 x3 x4) := by
  induction x4 generalizing x2 x3 with
  | nil => exact h2
  | cons v vs ih =>
    unfold writeRun
    extract_lets -underBinder -merge -useContext +onlyGivenNames vr1
    have hvr1 : KeepsW m r vr1 := keeps_ite (P := KeepsW m r) (fun _ => h2) (fun _ => applyWrite_keeps (hE.sub rfl) h2)
    clear_value vr1
    split
    · exact ih hvr1
    · exact hvr1

theorem doWrite_keeps {m r x1 x2} (hE : Fits 268410879 m) (h1 : Keeps m r x1) :
    Keeps m r (doWrite x1 x2) := by
  unfold doWrite
  extract_lets -underBinder -merge -useContext +onlyGivenNames vr1 vx2 vws3 vsrc4 vsrc5
  have hvr1 : KeepsE m r vr1 := (writeRun_keeps (hE.sub rfl) h1)
  clear_value vr1
  have hvsrc4 : Keeps m r vsrc4 := hvr1
  clear_value vsrc4
  refine keeps_ite (P := Keeps m r) (fun _ => ?_) (fun _ => ?_)
  · exact (Keeps.upd 4096 hvsrc4 (hE.sub rfl) rfl)
  · exact (finishRequest_keeps (hE.sub rfl) hvr1)

theorem streamJump_keeps {m r x1} (hE : Fits 134221824 m) (h1 : Keeps m r x1) :
    Keeps m r (streamJump x1) := by
  unfold streamJump
  extract_lets -underBinder -merge -useContext +onlyGivenNames vn1 vs2 vsrc3
  have hvs2 : Keeps m r vs2 := (Keeps.bump (k := 11) h1 (hE.sub rfl))
  clear_value vs2
  refine keeps_ite (P := Keeps m r) (fun _ => ?_) (fun _ => ?_)
  · exact h1
  · exact (Keeps.upd 4096 hvs2 (hE.sub rfl) rfl)

theorem sendEvents_keeps {m r x1} (hE : Fits 4096 m) (h1 : Keeps m r x1) :
    Keeps m r (sendEvents x1) := by
  unfold sendEvents
  refine sendHost_keeps (hE.sub rfl) ?_
  exact Keeps.upd 4096 h1 (hE.sub rfl) rfl

theorem execEventFrame_keeps {m r x1} (hE : Fits 134221824 m) (h1 : Keeps m r x1) :
    KeepsA m r (execEventFrame x1) := by
  unfold execEventFrame
  refine KeepsA.next ?_
  refine keeps_ite (P := Keeps m r) (fun _ => ?_) (fun _ => ?_)
  · exact h1
  · exact (sendEvents_keeps (hE.sub rfl) (streamJump_keeps (hE.sub rfl) h1))

theorem serveRequest_keeps {m r x1 x2} (hE : Fits 268410879 m) (h1 : Keeps m r x1) :
    KeepsO m r (serveRequest x1 x2) := by
  unfold serveRequest
  refine keeps_ite (P := KeepsO m r) (fun _ => ?_) (fun _ => ?_)
  · refine KeepsO.some ?_
    refine keeps_ite (P := Keeps m r) (fun _ => ?_) (fun _ => ?_)
    · exact (sendHost_keeps (hE.sub rfl) h1)
    · exact (doHello_keeps (hE.sub rfl) h1)
  · split
    · exact (KeepsO.some (sendHost_keeps (hE.sub rfl) h1))
    · split
      · refine keeps_ite (P := KeepsO m r) (fun _ => ?_) (fun _ => ?_)
        · exact (KeepsO.some (sendHost_keeps (hE.sub rfl) h1))
        · refine keeps_ite (P := KeepsO m r) (fun _ => ?_) (fun _ => ?_)
          · refine keeps_ite (P := KeepsO m r) (fun _ => ?_) (fun _ => ?_)
            · exact KeepsO.none
            · exact (KeepsO.some (doRead_keeps (hE.sub rfl) h1))
          · exact (KeepsO.some (doWrite_keeps (hE.sub rfl) h1))
      · refine keeps_ite (P := KeepsO m r) (fun _ => ?_) (fun _ => ?_)
        · refine keeps_ite (P := KeepsO m r) (fun _ => ?_) (fun _ => ?_)
          · exact KeepsO.none
          · exact (KeepsO.some (doRead_keeps (hE.sub rfl) h1))
        · exact (KeepsO.some (doWrite_keeps (hE.sub rfl) h1))

theorem serveQueue_keeps {m r x1 x2} (hE : Fits 268410879 m) (h2 : Keeps m r x2) :
    Keeps m r (serveQueue x1 x2) := by
  induction x1 generalizing x2 with
  | zero => exact h2
  | succ n ih =>
    unfold serveQueue
    split
    · split
      · exact h2
      next e =>
        refine ih (KeepsO.get (serveRequest_keeps (hE.sub rfl) ?_) e)
        exact Keeps.upd 4096 h2 (hE.sub rfl) rfl
    · exact h2

theorem receiveFrame_keeps {m r x1 x2} (hE : Fits 268410879 m) (h1 : Keeps m r x1) :
    Keeps m r (receiveFrame x1 x2) := by
  unfold receiveFrame
  extract_lets -underBinder -merge -useContext +onlyGivenNames vq1 vsrc2
  refine keeps_ite (P := Keeps m r) (fun _ => ?_) (fun _ => ?_)
  · exact h1
  · refine keeps_ite (P := Keeps m r) (fun _ => ?_) (fun _ => ?_)
    · exact (Keeps.bump (k := 1) h1 (hE.sub rfl))
    · refine keeps_ite (P := Keeps m r) (fun _ => ?_) (fun _ => ?_)
      · exact (sendHost_keeps (hE.sub rfl) (Keeps.bump (k := 1) h1 (hE.sub rfl)))
      · exact (serveQueue_keeps (hE.sub rfl) (Keeps.upd 4096 h1 (hE.sub rfl) rfl))

theorem execHello_keeps {m r x1 x2} (hE : Fits 268410879 m) (h2 : Keeps m r x2) :
    KeepsA m r (execHello x1 x2) := by
  unfold execHello
  exact (KeepsA.next (receiveFrame_keeps (hE.sub rfl) h2))

theorem setHitchLane_keeps {m r x1 x2 x3} (hE : Fits 131072 m) (h1 : Keeps m r x1) :
    Keeps m r (setHitchLane x1 x2 x3) := by
  unfold setHitchLane
  refine keeps_ite (P := Keeps m r) (fun _ => ?_) (fun _ => ?_)
  · exact h1
  · exact (Keeps.wrf (k := 1) h1 (hE.sub rfl))

theorem execHitchLaneLock_keeps {m r x1 x2} (hE : Fits 131072 m) (h2 : Keeps m r x2) :
    KeepsA m r (execHitchLaneLock x1 x2) := by
  unfold execHitchLaneLock
  exact (KeepsA.next (setHitchLane_keeps (hE.sub rfl) h2))

theorem execHitchLaneLockLoss_keeps {m r x1 x2} (hE : Fits 131072 m) (h2 : Keeps m r x2) :
    KeepsA m r (execHitchLaneLockLoss x1 x2) := by
  unfold execHitchLaneLockLoss
  exact (KeepsA.next (setHitchLane_keeps (hE.sub rfl) h2))

theorem execHitchRead_keeps {m r x1 x2} (hE : Fits 268410879 m) (h2 : Keeps m r x2) :
    KeepsA m r (execHitchRead x1 x2) := by
  unfold execHitchRead
  exact (KeepsA.next (receiveFrame_keeps (hE.sub rfl) h2))

theorem execHitchWrite_keeps {m r x1 x2} (hE : Fits 268410879 m) (h2 : Keeps m r x2) :
    KeepsA m r (execHitchWrite x1 x2) := by
  unfold execHitchWrite
  exact (KeepsA.next (receiveFrame_keeps (hE.sub rfl) h2))

theorem setOrder_keeps {m r x1 x2 x3 x4} (hE : Fits 32768 m) (h1 : Keeps m r x1) :
    Keeps m r (setOrder x1 x2 x3 x4) := by
  unfold setOrder
  exact (Keeps.upd 32768 h1 (hE.sub rfl) rfl)

theorem sendReply_keeps {m r x1 x2 x3 x4} (hE : Fits 135266821 m) (h1 : Keeps m r x1) :
    Keeps m r (sendReply x1 x2 x3 x4) := by
  unfold sendReply
  extract_lets -underBinder -merge -useContext +onlyGivenNames vh1 vout2
  clear_value vout2
  split
  · exact h1
  · extract_lets -underBinder -merge -useContext +onlyGivenNames vf3
    have hvf3 : KeepsP m r vf3 := (newFrame_keeps (hE.sub rfl) h1)
    clear_value vf3
    exact (sendFrame_keeps (hE.sub rfl) hvf3)

theorem endOrder_keeps {m r x1 x2 x3 x4 x5} (hE : Fits 135299589 m) (h1 : Keeps m r x1) :
    Keeps m r (endOrder x1 x2 x3 x4 x5) := by
  unfold endOrder
  exact (sendReply_keeps (hE.sub rfl) (setOrder_keeps (hE.sub rfl) h1))

theorem runOrder_keeps {m r x1 x2 x3 x4} (hE : Fits 268410879 m) (h1 : Keeps m r x1) :
    KeepsO m r (runOrder x1 x2 x3 x4) := by
  unfold runOrder
  extract_lets -underBinder -merge -useContext +onlyGivenNames vn1 vr2 vk3 vr4 vx5 vreply6 vw7 vsrc8 vsrc9
  have hvr2 : KeepsP m r vr2 := (readRun_keeps (hE.sub rfl) h1)
  clear_value vr2
  have hvr4 : KeepsE m r vr4 := (writeRun_keeps (hE.sub rfl) h1)
  clear_value vr4
  have hvsrc8 : Keeps m r vsrc8 := hvr4
  clear_value vsrc8
  refine keeps_ite (P := KeepsO m r) (fun _ => ?_) (fun _ => ?_)
  · refine keeps_ite (P := KeepsO m r) (fun _ => ?_) (fun _ => ?_)
    · exact KeepsO.none
    · exact (KeepsO.some (endOrder_keeps (hE.sub rfl) hvr2))
  · refine keeps_ite (P := KeepsO m r) (fun _ => ?_) (fun _ => ?_)
    · exact (KeepsO.some (Keeps.upd 4096 hvsrc8 (hE.sub rfl) rfl))
    · exact (KeepsO.some (endOrder_keeps (hE.sub rfl) hvr4))

theorem startOrder_keeps {m r x1 x2 x3 x4} (hE : Fits 268410879 m) (h1 : Keeps m r x1) :
    Keeps m r (startOrder x1 x2 x3 x4) := by
  unfold startOrder
  extract_lets -underBinder -merge -useContext +onlyGivenNames vsrc1 vwait2
  have hvwait2 : Keeps m r vwait2 := (Keeps.upd 4096 h1 (hE.sub rfl) rfl)
  clear_value vwait2
  refine keeps_ite (P := Keeps m r) (fun _ => ?_) (fun _ => ?_)
  · exact hvwait2
  · exact (KeepsO.getD (runOrder_keeps (hE.sub rfl) h1) hvwait2)

theorem takeOrder_keeps {m r x1 x2 x3} (hE : Fits 268410879 m) (h1 : Keeps m r x1) :
    Keeps m r (takeOrder x1 x2 x3) := by
  unfold takeOrder
  extract_lets -underBinder -merge -useContext +onlyGivenNames vanswer1
  have hvanswer1 : ∀ y2 y4, Keeps m r y2 → Keeps m r (vanswer1 y2 y4) := by
    intro y2 y4 g3
    unfold vanswer1
    exact (sendReply_keeps (hE.sub rfl) g3)
  clear_value vanswer1
  refine keeps_ite (P := Keeps m r) (fun _ => ?_) (fun _ => ?_)
  · exact (count_keeps (hE.sub rfl) h1)
  · refine keeps_ite (P := Keeps m r) (fun _ => ?_) (fun _ => ?_)
    · exact (hvanswer1 _ _ h1)
    · split
      · exact (hvanswer1 _ _ h1)
      · extract_lets -underBinder -merge -useContext +onlyGivenNames vseq5 vlast6 vs7
        have hvs7 : Keeps m r vs7 := (setOrder_keeps (hE.sub rfl) h1)
        clear_value vs7
        refine keeps_ite (P := Keeps m r) (fun _ => ?_) (fun _ => ?_)
        · exact (hvanswer1 _ _ h1)
        · refine keeps_ite (P := Keeps m r) (fun _ => ?_) (fun _ => ?_)
          · refine keeps_ite (P := Keeps m r) (fun _ => ?_) (fun _ => ?_)
            · exact h1
            · exact (sendReply_keeps (hE.sub rfl) h1)
          · refine keeps_ite (P := Keeps m r) (fun _ => ?_) (fun _ => ?_)
            · exact (hvanswer1 _ _ h1)
            · refine keeps_ite (P := Keeps m r) (fun _ => ?_) (fun _ => ?_)
              · exact (startOrder_keeps (hE.sub rfl) hvs7)
              · exact (endOrder_keeps (hE.sub rfl) hvs7)

theorem execFieldOrder_keeps {m r x1 x2 x3} (hE : Fits 268410879 m) (h3 : Keeps m r x3) :
    KeepsA m r (execFieldOrder x1 x2 x3) := by
  unfold execFieldOrder
  refine KeepsA.next ?_
  refine keeps_ite (P := Keeps m r) (fun _ => ?_) (fun _ => ?_)
  · exact h3
  · exact (settle_keeps (hE.sub rfl) (takeOrder_keeps (hE.sub rfl) h3))

theorem resumeOrders_keeps {m r x1} (hE : Fits 268410879 m) (h1 : Keeps m r x1) :
    Keeps m r (resumeOrders x1) := by
  unfold resumeOrders
  extract_lets -underBinder -merge -useContext +onlyGivenNames vq1 vsrc2
  refine forAll_keeps (fun _ _ q3 => ?_) (Keeps.upd 4096 h1 (hE.sub rfl) rfl)
  split
  · exact q3
  · exact (startOrder_keeps (hE.sub rfl) q3)

theorem releaseHeldFrame_keeps {m r x1} (hE : Fits 4096 m) (h1 : Keeps m r x1) :
    Keeps m r (releaseHeldFrame x1) := by
  unfold releaseHeldFrame
  split
  · exact h1
  · extract_lets -underBinder -merge -useContext +onlyGivenNames vsrc1
    refine keeps_ite (P := Keeps m r) (fun _ => ?_) (fun _ => ?_)
    · exact h1
    · exact (sendHost_keeps (hE.sub rfl) (storeResponse_keeps (hE.sub rfl) (Keeps.upd 4096 h1 (hE.sub rfl) rfl)))

theorem releaseHeldOrders_keeps {m r x1} (hE : Fits 135303685 m) (h1 : Keeps m r x1) :
    Keeps m r (releaseHeldOrders x1) := by
  unfold releaseHeldOrders
  extract_lets -underBinder -merge -useContext +onlyGivenNames vdue1 vsrc2 vs3
  have hvs3 : Keeps m r vs3 := (Keeps.upd 4096 h1 (hE.sub rfl) rfl)
  clear_value vs3
  refine forAll_keeps (fun _ _ q4 => ?_) hvs3
  exact (endOrder_keeps (hE.sub rfl) q4)

theorem failHeld_keeps {m r x1 x2} (hE : Fits 4096 m) (h1 : Keeps m r x1) :
    Keeps m r (failHeld x1 x2) := by
  unfold failHeld
  extract_lets -underBinder -merge -useContext +onlyGivenNames vheld1 vfail2 vsrc3
  exact (Keeps.upd 4096 h1 (hE.sub rfl) rfl)

theorem execFlashProgramDone_keeps {m r x1 x2 x3} (hE : Fits 268427263 m) (h3 : Keeps m r x3) :
    KeepsA m r (execFlashProgramDone x1 x2 x3) := by
  unfold execFlashProgramDone
  split
  · exact (KeepsA.next h3)
  · extract_lets -underBinder -merge -useContext +onlyGivenNames vs1 vs2 vs3 vs4
    have hvs1 : Keeps m r vs1 := (endJob_keeps (hE.sub rfl) h3)
    clear_value vs1
    have hvs2 : Keeps m r vs2 := by
      unfold vs2
      split
      · exact (failHeld_keeps (hE.sub rfl) hvs1)
      · exact hvs1
    clear_value vs2
    have hvs3 : Keeps m r vs3 := (releaseHeldOrders_keeps (hE.sub rfl) (releaseHeldFrame_keeps (hE.sub rfl) hvs2))
    clear_value vs3
    have hvs4 : Keeps m r vs4 := (serveQueue_keeps (hE.sub rfl) hvs3)
    clear_value vs4
    exact (KeepsA.next (resumeOrders_keeps (hE.sub rfl) hvs4))

theorem admitSow_keeps {m r x1 x2 x3} (hE : Fits 198183917 m) (h1 : Keeps m r x1) :
    Keeps m r (admitSow x1 x2 x3) := by
  unfold admitSow
  split
  · exact h1
  · extract_lets -underBinder -merge -useContext +onlyGivenNames vs1
    have hvs1 : Keeps m r vs1 := (placeSow_keeps (hE.sub rfl) h1)
    clear_value vs1
    refine keeps_ite (P := Keeps m r) (fun _ => ?_) (fun _ => ?_)
    · exact h1
    · split
      · exact hvs1
      · refine keeps_ite (P := Keeps m r) (fun _ => ?_) (fun _ => ?_)
        · exact (tryFinish_keeps (hE.sub rfl) (progress_keeps (hE.sub rfl) (chunkPlaced_keeps (hE.sub rfl) hvs1)))
        · exact hvs1

theorem collRow_keeps {m r x1 x2 x3 x4} (hE : Fits 265554943 m) (h1 : Keeps m r x1) :
    Keeps m r (collRow x1 x2 x3 x4) := by
  unfold collRow
  refine keeps_ite (P := Keeps m r) (fun _ => ?_) (fun _ => ?_)
  · exact (settle_keeps (hE.sub rfl) (takeColl_keeps (hE.sub rfl) h1))
  · exact h1

theorem execCompletion_keeps {m r x1 x2 x3} (hE : Fits 265554943 m) (h3 : Keeps m r x3) :
    KeepsA m r (execCompletion x1 x2 x3) := by
  unfold execCompletion
  exact (KeepsA.next (collRow_keeps (hE.sub rfl) h3))

theorem execContributionAdmit_keeps {m r x1 x2 x3} (hE : Fits 265554943 m) (h3 : Keeps m r x3) :
    KeepsA m r (execContributionAdmit x1 x2 x3) := by
  unfold execContributionAdmit
  refine KeepsA.next ?_
  refine keeps_ite (P := Keeps m r) (fun _ => ?_) (fun _ => ?_)
  · exact (settle_keeps (hE.sub rfl) (drainColl_keeps (hE.sub rfl) h3))
  · exact h3

theorem execLandingReservationResume_keeps {m r x1 x2 x3} (hE : Fits 265292797 m) (h3 : Keeps m r x3) :
    KeepsA m r (execLandingReservationResume x1 x2 x3) := by
  unfold execLandingReservationResume
  extract_lets -underBinder -merge -useContext +onlyGivenNames vkey1
  split
  · exact (KeepsA.next h3)
  · extract_lets -underBinder -merge -useContext +onlyGivenNames vs2
    have hvs2 : Keeps m r vs2 := (reserveRun_keeps (hE.sub rfl) h3)
    clear_value vs2
    refine keeps_ite (P := KeepsA m r) (fun _ => ?_) (fun _ => ?_)
    · exact (KeepsA.next h3)
    · split
      · exact (KeepsA.next (settle_keeps (hE.sub rfl) hvs2))
      · extract_lets -underBinder -merge -useContext +onlyGivenNames vwaiting3 vs4
        have hvs4 : Keeps m r vs4 := by
          unfold vs4
          refine keeps_ite (P := Keeps m r) (fun _ => ?_) (fun _ => ?_)
          · exact hvs2
          · refine forAll_keeps (fun _ _ q5 => ?_) hvs2
            exact (placeResult_keeps (hE.sub rfl) q5)
        clear_value vs4
        exact (KeepsA.next (settle_keeps (hE.sub rfl) (progress_keeps (hE.sub rfl) hvs4)))

theorem execOpeningPacketAdmit_keeps {m r x1 x2 x3} (hE : Fits 265554943 m) (h3 : Keeps m r x3) :
    KeepsA m r (execOpeningPacketAdmit x1 x2 x3) := by
  unfold execOpeningPacketAdmit
  refine KeepsA.next ?_
  refine keeps_ite (P := Keeps m r) (fun _ => ?_) (fun _ => ?_)
  · exact (settle_keeps (hE.sub rfl) (drainColl_keeps (hE.sub rfl) h3))
  · exact h3

theorem execQuotaAdmit_keeps {m r x1 x2} (hE : Fits 267652095 m) (h2 : Keeps m r x2) :
    KeepsA m r (execQuotaAdmit x1 x2) := by
  unfold execQuotaAdmit
  split
  · exact (KeepsA.next (quotaAdmitIngress_keeps (hE.sub rfl) h2))
  · exact (KeepsA.next (settle_keeps (hE.sub rfl) (admitSow_keeps (hE.sub rfl) h2)))

theorem execReap_keeps {m r x1 x2 x3} (hE : Fits 265554943 m) (h3 : Keeps m r x3) :
    KeepsA m r (execReap x1 x2 x3) := by
  unfold execReap
  exact (KeepsA.next (collRow_keeps (hE.sub rfl) h3))

theorem execReapDeferred_keeps {m r x1 x2 x3} (hE : Fits 265554943 m) (h3 : Keeps m r x3) :
    KeepsA m r (execReapDeferred x1 x2 x3) := by
  unfold execReapDeferred
  exact (KeepsA.next (collRow_keeps (hE.sub rfl) h3))

theorem execReapExpress_keeps {m r x1 x2 x3} (hE : Fits 265554943 m) (h3 : Keeps m r x3) :
    KeepsA m r (execReapExpress x1 x2 x3) := by
  unfold execReapExpress
  exact (KeepsA.next (collRow_keeps (hE.sub rfl) h3))

theorem execSettleTimeout_keeps {m r x1 x2 x3} (hE : Fits 265292797 m) (h3 : Keeps m r x3) :
    KeepsA m r (execSettleTimeout x1 x2 x3) := by
  unfold execSettleTimeout
  split
  · exact (KeepsA.next h3)
  · refine keeps_ite (P := KeepsA m r) (fun _ => ?_) (fun _ => ?_)
    · exact (KeepsA.next h3)
    · exact (KeepsA.next (settle_keeps (hE.sub rfl) (closeRun_keeps (hE.sub rfl) h3)))

theorem execSow_keeps {m r x1 x2 x3} (hE : Fits 265554943 m) (h3 : Keeps m r x3) :
    KeepsA m r (execSow x1 x2 x3) := by
  unfold execSow
  exact (KeepsA.next (collRow_keeps (hE.sub rfl) h3))

theorem execSowCopySent_keeps {m r x1 x2} (hE : Fits 265292797 m) (h2 : Keeps m r x2) :
    KeepsA m r (execSowCopySent x1 x2) := by
  unfold execSowCopySent
  split
  · exact (KeepsA.next h2)
  · extract_lets -underBinder -merge -useContext +onlyGivenNames vsrc1 vs2 vs3
    have hvs2 : Keeps m r vs2 := (Keeps.upd 1 h2 (hE.sub rfl) rfl)
    clear_value vs2
    have hvs3 : Keeps m r vs3 := (tryFinish_keeps (hE.sub rfl) (releaseHeld_keeps (hE.sub rfl) (copyOver_keeps (hE.sub rfl) hvs2)))
    clear_value vs3
    exact (KeepsA.next (settle_keeps (hE.sub rfl) (drainSource_keeps (hE.sub rfl) hvs3)))

theorem execSowExpress_keeps {m r x1 x2 x3} (hE : Fits 265554943 m) (h3 : Keeps m r x3) :
    KeepsA m r (execSowExpress x1 x2 x3) := by
  unfold execSowExpress
  exact (KeepsA.next (collRow_keeps (hE.sub rfl) h3))

theorem execSowRequest_keeps {m r x1 x2 x3} (hE : Fits 265554943 m) (h3 : Keeps m r x3) :
    KeepsA m r (execSowRequest x1 x2 x3) := by
  unfold execSowRequest
  exact (KeepsA.next (collRow_keeps (hE.sub rfl) h3))

theorem execStragglerTimeout_keeps {m r x1 x2 x3} (hE : Fits 265292797 m) (h3 : Keeps m r x3) :
    KeepsA m r (execStragglerTimeout x1 x2 x3) := by
  unfold execStragglerTimeout
  split
  · exact (KeepsA.next h3)
  · extract_lets -underBinder -merge -useContext +onlyGivenNames vc1
    refine keeps_ite (P := KeepsA m r) (fun _ => ?_) (fun _ => ?_)
    · exact (KeepsA.next h3)
    · exact (KeepsA.next (settle_keeps (hE.sub rfl) (failHere_keeps (hE.sub rfl) h3)))

theorem idleTick_keeps {m r x1} (hE : Fits 65536 m) (h1 : Keeps m r x1) :
    Keeps m r (idleTick x1) := by
  unfold idleTick
  refine keeps_ite (P := Keeps m r) (fun _ => ?_) (fun _ => ?_)
  · exact (Keeps.wr (k := 0) h1 (hE.sub rfl))
  · exact h1

end Sys2Proof.Machine
end

