-- ==== Sys2Proof/Laws/Commands.lean ====
section
/-! SUPPORT. What a register write and a command row of a managed device come to. -/

namespace Sys2Proof.Machine

set_option Elab.async false

open Sys2Proof

theorem rd_regEvent {s : State} {code path addr a : Nat} (h : a < 0xA300_0000 ∨ 0xA400_0000 ≤ a) :
    rd (regEvent s code path addr) a = rd s a := rd_event_other h

/-- What a write logs leaves every register but the event log's. -/
theorem rd_logWrite {s : State} {path addr : Nat} {fs : List RField} {old v : Word} {a : Nat}
    (h : a < 0xA300_0000 ∨ 0xA400_0000 ≤ a) : rd (logWrite s path addr fs old v) a = rd s a := by
  unfold logWrite
  extract_lets s1 s2 s3
  have e1 : rd s1 a = rd s a := by unfold s1; split <;> first | exact rd_event_other h | rfl
  have e2 : rd s2 a = rd s1 a := by unfold s2; split <;> first | exact rd_event_other h | rfl
  have e3 : rd s3 a = rd s2 a := by unfold s3; split <;> first | exact rd_event_other h | rfl
  have e4 : ∀ x : State, (if hasRw1 fs && s3.mg.rw1.contains addr then regEvent s3 evRw1Repeat path addr else s3) = x →
      rd x a = rd s3 a := by
    rintro _ rfl
    split <;> first | exact rd_event_other h | rfl
  exact (e4 _ rfl).trans (e3.trans (e2.trans e1))

/-- A written register holds the merged word. -/
theorem rd_regWrite_same (s : State) (path a : Nat) (fs : List RField) (v : Word) :
    rd (regWrite s path a fs v) a = mergedWord (!s.mg.rw1.contains a) fs (rd s a) v := by
  unfold regWrite
  extract_lets old first t
  have : rd t a = mergedWord first fs old v := rd_wr_same _ _ _
  split
  · exact this
  · exact this

theorem rd_regWrite_other {s : State} {path a b : Nat} {fs : List RField} {v : Word} (hb : b ≠ a)
    (h : b < 0xA300_0000 ∨ 0xA400_0000 ≤ b) : rd (regWrite s path a fs v) b = rd s b := by
  unfold regWrite
  extract_lets old first t
  have : rd t b = rd s b := by
    unfold t
    rw [rd_wr_other hb]
    exact rd_logWrite h
  split
  · exact this
  · exact this

/-- A write that logs nothing and meets no RW1 field is a store of one word. -/
theorem regWrite_clean {s : State} {path a : Nat} {fs : List RField} {v : Word}
    (h1 : touchesRo fs (rd s a) v = false) (h2 : touchesReserved fs v = false)
    (h3 : outOfRange fs v = false) (h4 : hasRw1 fs = false) :
    regWrite s path a fs v = wr s a (mergedWord (!s.mg.rw1.contains a) fs (rd s a) v) := by
  unfold regWrite logWrite
  simp only [h1, h2, h3, h4, Bool.false_and, Bool.false_eq_true, if_false]

/-- A command of a managed device: the command word is stored, the command runs, and an accepted one is
captured where a recording runs. -/
theorem cmdRow {s : State} {path a : Nat} {fs : List RField} {v : Word} {op : State → State × Nat}
    (h : manageable s) (h1 : touchesRo fs (rd s a) v = false) (h2 : touchesReserved fs v = false)
    (h3 : outOfRange fs v = false) (h4 : hasRw1 fs = false) :
    ∃ w, mgApply s a v (fun s => cmdWrite s path a fs v op)
      = if (op (wr s a w)).2 = 0 then captureWrite (op (wr s a w)).1 a v else (op (wr s a w)).1 := by
  refine ⟨mergedWord (!s.mg.rw1.contains a) fs (rd s a) v, ?_⟩
  have e : cmdWrite s path a fs v op = ⟨(op (wr s a (mergedWord (!s.mg.rw1.contains a) fs (rd s a) v))).1,
      if (op (wr s a (mergedWord (!s.mg.rw1.contains a) fs (rd s a) v))).2 = 0 then .ok
      else .refused (op (wr s a (mergedWord (!s.mg.rw1.contains a) fs (rd s a) v))).2⟩ := by
    unfold cmdWrite
    rw [regWrite_clean h1 h2 h3 h4]
    simp only [h3, Bool.false_eq_true, if_false]
  split
  · next h0 =>
    rw [mgApply_ok h (by rw [e]; exact if_pos h0), e]
  · next h0 =>
    rw [mgApply_not_ok h (by rw [e]; simp only [if_neg h0]; exact fun x => nomatch x), e]

/-- Capturing a write touches the recorder and the registers from its block upward. -/
theorem captureWrite_frame (s : State) (a : Nat) (v : Word) :
    touchesOnly [.recorder] 0xA000_0000 [] s (captureWrite s a v) :=
  (captureWrite_keeps (m := 167772416) rfl (Keeps.refl _ _)).touchesOnly 9 (by decide) (by decide) []

theorem rd_captureWrite {s : State} {a b : Nat} {v : Word} (h : b < 0xA000_0000) :
    rd (captureWrite s a v) b = rd s b := (captureWrite_frame s a v).2.2 b h (by simp)

theorem touchesOnly.refl (ps : List Part) (b : Nat) (as : List Nat) (s : State) : touchesOnly ps b as s s :=
  ⟨rfl, fun p _ => by cases p <;> first | rfl | exact ⟨rfl, rfl⟩, fun _ _ _ => rfl⟩

/-- A frame with fewer parts, a higher base and fewer registers is a frame. -/
theorem touchesOnly.mono {ps qs : List Part} {b c : Nat} {as bs : List Nat} {s t : State}
    (h : touchesOnly ps b as s t) (hp : ∀ p ∈ ps, p ∈ qs) (hb : c ≤ b) (ha : ∀ a ∈ as, a ∈ bs) :
    touchesOnly qs c bs s t :=
  ⟨h.1, fun p hn => h.2.1 p fun hm => hn (hp p hm), fun a hl hn => h.2.2 a (Nat.lt_of_lt_of_le hl hb) fun hm => hn (ha a hm)⟩

theorem touchesOnly.wr {ps : List Part} {b : Nat} {as : List Nat} {r s : State} {a : Nat} {w : Word}
    (h : touchesOnly ps b as r s) (hm : a ∈ as ∨ b ≤ a) : touchesOnly ps b as r (Machine.wr s a w) :=
  h.trans ⟨rfl, fun p _ => by cases p <;> first | rfl | exact ⟨rfl, rfl⟩, fun c hc hn => rd_wr_other (by
    rintro rfl
    rcases hm with hm | hm
    · exact hn hm
    · exact absurd hc (Nat.not_lt.mpr hm))⟩

theorem touchesOnly.wrf {ps : List Part} {b : Nat} {as : List Nat} {r s : State} {a hi lo v : Nat}
    (h : touchesOnly ps b as r s) (hm : a ∈ as ∨ b ≤ a) : touchesOnly ps b as r (Machine.wrf s a hi lo v) :=
  h.wr hm

theorem captureWrite_touches {ps : List Part} {b : Nat} {as : List Nat} {r s : State} {a : Nat} {v : Word}
    (h : touchesOnly ps b as r s) (hp : Part.recorder ∈ ps) (hb : b ≤ 0xA000_0000) :
    touchesOnly ps b as r (captureWrite s a v) :=
  h.trans ((captureWrite_frame s a v).mono (by simpa using hp) hb (by simp))

end Sys2Proof.Machine
end

