-- ==== Sys2Proof/Laws/Exec.lean ====
section
/-! SUPPORT. The meaning that each row dispatches to, and one step of the queue. -/

namespace Sys2Proof.Machine

set_option Elab.async false

open Sys2Proof

@[simp] theorem exec_registerWrite (path addr : Nat) (value : Word) (s : State) :
    exec (.registerWrite path addr value) s = execRegisterWrite path addr value s := rfl
@[simp] theorem exec_xingTimeout (sender receiver : Nat) (s : State) :
    exec (.xingTimeout sender receiver) s = execXingTimeout sender receiver s := rfl
@[simp] theorem exec_hbmRefresh (stack : Nat) (s : State) :
    exec (.hbmRefresh stack) s = execHbmRefresh stack s := rfl
@[simp] theorem exec_d2dRetry (stack : Nat) (s : State) :
    exec (.d2dRetry stack) s = execD2dRetry stack s := rfl
@[simp] theorem exec_packetHeader (port : Nat) (hdr : Header) (s : State) :
    exec (.packetHeader port hdr) s = execPacketHeader port hdr s := rfl
@[simp] theorem exec_quotaAdmit (waiter : QuotaWaiter) (s : State) :
    exec (.quotaAdmit waiter) s = execQuotaAdmit waiter s := rfl
@[simp] theorem exec_packetTail (port : Nat) (payload : List Byte) (crc tail : BitVec 32) (clean : Bool) (s : State) :
    exec (.packetTail port payload crc tail clean) s = execPacketTail port payload crc tail clean s := rfl
@[simp] theorem exec_packetSent (port : Nat) (s : State) :
    exec (.packetSent port) s = execPacketSent port s := rfl
@[simp] theorem exec_fwdTableWrite (path index : Nat) (value : Word) (s : State) :
    exec (.fwdTableWrite path index value) s = execFwdTableWrite path index value s := rfl
@[simp] theorem exec_ecmpSetWrite (path set word : Nat) (value : Word) (s : State) :
    exec (.ecmpSetWrite path set word value) s = execEcmpSetWrite path set word value s := rfl
@[simp] theorem exec_fwdHold (path index : Nat) (s : State) :
    exec (.fwdHold path index) s = execFwdHold path index s := rfl
@[simp] theorem exec_fwdRelease (path index : Nat) (s : State) :
    exec (.fwdRelease path index) s = execFwdRelease path index s := rfl
@[simp] theorem exec_fwdInvalidate (path index : Nat) (s : State) :
    exec (.fwdInvalidate path index) s = execFwdInvalidate path index s := rfl
@[simp] theorem exec_fwdQuery (path index : Nat) (s : State) :
    exec (.fwdQuery path index) s = execFwdQuery path index s := rfl
@[simp] theorem exec_holdTimeout (port furrow : Nat) (s : State) :
    exec (.holdTimeout port furrow) s = execHoldTimeout port furrow s := rfl
@[simp] theorem exec_occScanEnd (index : Nat) (s : State) :
    exec (.occScanEnd index) s = execOccScanEnd index s := rfl
@[simp] theorem exec_sowCopySent (port : Nat) (s : State) :
    exec (.sowCopySent port) s = execSowCopySent port s := rfl
@[simp] theorem exec_stageWrite (path addr : Nat) (value : Word) (s : State) :
    exec (.stageWrite path addr value) s = execStageWrite path addr value s := rfl
@[simp] theorem exec_groupCommit (path group : Nat) (value : Word) (s : State) :
    exec (.groupCommit path group value) s = execGroupCommit path group value s := rfl
@[simp] theorem exec_memberEntryWrite (path cluster index word : Nat) (value : Word) (s : State) :
    exec (.memberEntryWrite path cluster index word value) s = execMemberEntryWrite path cluster index word value s := rfl
@[simp] theorem exec_groupAbort (path group : Nat) (s : State) :
    exec (.groupAbort path group) s = execGroupAbort path group s := rfl
@[simp] theorem exec_groupFallow (path group : Nat) (s : State) :
    exec (.groupFallow path group) s = execGroupFallow path group s := rfl
@[simp] theorem exec_groupRestore (path group : Nat) (s : State) :
    exec (.groupRestore path group) s = execGroupRestore path group s := rfl
@[simp] theorem exec_groupFree (path group : Nat) (s : State) :
    exec (.groupFree path group) s = execGroupFree path group s := rfl
@[simp] theorem exec_setSeq (path group seq : Nat) (s : State) :
    exec (.setSeq path group seq) s = execSetSeq path group seq s := rfl
@[simp] theorem exec_groupQuery (path group : Nat) (s : State) :
    exec (.groupQuery path group) s = execGroupQuery path group s := rfl
@[simp] theorem exec_reap (port : Nat) (frame : Frame) (s : State) :
    exec (.reap port frame) s = execReap port frame s := rfl
@[simp] theorem exec_reapDeferred (port : Nat) (frame : Frame) (s : State) :
    exec (.reapDeferred port frame) s = execReapDeferred port frame s := rfl
@[simp] theorem exec_reapExpress (port : Nat) (frame : Frame) (s : State) :
    exec (.reapExpress port frame) s = execReapExpress port frame s := rfl
@[simp] theorem exec_sow (port : Nat) (frame : Frame) (s : State) :
    exec (.sow port frame) s = execSow port frame s := rfl
@[simp] theorem exec_sowExpress (port : Nat) (frame : Frame) (s : State) :
    exec (.sowExpress port frame) s = execSowExpress port frame s := rfl
@[simp] theorem exec_sowRequest (port : Nat) (frame : Frame) (s : State) :
    exec (.sowRequest port frame) s = execSowRequest port frame s := rfl
@[simp] theorem exec_completion (port : Nat) (frame : Frame) (s : State) :
    exec (.completion port frame) s = execCompletion port frame s := rfl
@[simp] theorem exec_contributionAdmit (port furrow : Nat) (s : State) :
    exec (.contributionAdmit port furrow) s = execContributionAdmit port furrow s := rfl
@[simp] theorem exec_openingPacketAdmit (port furrow : Nat) (s : State) :
    exec (.openingPacketAdmit port furrow) s = execOpeningPacketAdmit port furrow s := rfl
@[simp] theorem exec_stragglerTimeout (group seq : Nat) (s : State) :
    exec (.stragglerTimeout group seq) s = execStragglerTimeout group seq s := rfl
@[simp] theorem exec_settleTimeout (group seq : Nat) (s : State) :
    exec (.settleTimeout group seq) s = execSettleTimeout group seq s := rfl
@[simp] theorem exec_drillRunEnd (cluster core cycles : Nat) (fault : RunFault) (s : State) :
    exec (.drillRunEnd cluster core cycles fault) s = execDrillRunEnd cluster core cycles fault s := rfl
@[simp] theorem exec_noJudgeTimeout (group seq chunk : Nat) (s : State) :
    exec (.noJudgeTimeout group seq chunk) s = execNoJudgeTimeout group seq chunk s := rfl
@[simp] theorem exec_fbkEntryCommit (path stack entry : Nat) (value : Word) (s : State) :
    exec (.fbkEntryCommit path stack entry value) s = execFbkEntryCommit path stack entry value s := rfl
@[simp] theorem exec_hbmWindowWrite (path stack offset : Nat) (value : Word) (s : State) :
    exec (.hbmWindowWrite path stack offset value) s = execHbmWindowWrite path stack offset value s := rfl
@[simp] theorem exec_hypArm (path stack block : Nat) (value : Word) (s : State) :
    exec (.hypArm path stack block value) s = execHypArm path stack block value s := rfl
@[simp] theorem exec_passStart (stack : Nat) (s : State) :
    exec (.passStart stack) s = execPassStart stack s := rfl
@[simp] theorem exec_entryPassDone (stack : Nat) (s : State) :
    exec (.entryPassDone stack) s = execEntryPassDone stack s := rfl
@[simp] theorem exec_secondEncodingEnd (stack : Nat) (s : State) :
    exec (.secondEncodingEnd stack) s = execSecondEncodingEnd stack s := rfl
@[simp] theorem exec_tillerGroupComplete (stack tiller : Nat) (check : PairCheck) (bad : List BadRead) (s : State) :
    exec (.tillerGroupComplete stack tiller check bad) s = execTillerGroupComplete stack tiller check bad s := rfl
@[simp] theorem exec_patrolScrub (stack : Nat) (ecc : Ecc) (s : State) :
    exec (.patrolScrub stack ecc) s = execPatrolScrub stack ecc s := rfl
@[simp] theorem exec_landingReservationResume (group seq : Nat) (s : State) :
    exec (.landingReservationResume group seq) s = execLandingReservationResume group seq s := rfl
@[simp] theorem exec_localVerdictSend (plot : Nat) (s : State) :
    exec (.localVerdictSend plot) s = execLocalVerdictSend plot s := rfl
@[simp] theorem exec_entryActivate (path stack entry : Nat) (s : State) :
    exec (.entryActivate path stack entry) s = execEntryActivate path stack entry s := rfl
@[simp] theorem exec_entryFallow (path stack entry : Nat) (s : State) :
    exec (.entryFallow path stack entry) s = execEntryFallow path stack entry s := rfl
@[simp] theorem exec_entryFree (path stack entry : Nat) (s : State) :
    exec (.entryFree path stack entry) s = execEntryFree path stack entry s := rfl
@[simp] theorem exec_releaseVersion (path stack plot : Nat) (s : State) :
    exec (.releaseVersion path stack plot) s = execReleaseVersion path stack plot s := rfl
@[simp] theorem exec_passHold (path stack plot : Nat) (s : State) :
    exec (.passHold path stack plot) s = execPassHold path stack plot s := rfl
@[simp] theorem exec_passRelease (path stack plot : Nat) (s : State) :
    exec (.passRelease path stack plot) s = execPassRelease path stack plot s := rfl
@[simp] theorem exec_rebuildSown (path stack entry : Nat) (s : State) :
    exec (.rebuildSown path stack entry) s = execRebuildSown path stack entry s := rfl
@[simp] theorem exec_entryQuery (path stack entry : Nat) (s : State) :
    exec (.entryQuery path stack entry) s = execEntryQuery path stack entry s := rfl
@[simp] theorem exec_verdict (port : Nat) (frame : Frame) (s : State) :
    exec (.verdict port frame) s = execVerdict port frame s := rfl
@[simp] theorem exec_verdictEntryWrite (path stack plot word : Nat) (value : Word) (s : State) :
    exec (.verdictEntryWrite path stack plot word value) s = execVerdictEntryWrite path stack plot word value s := rfl
@[simp] theorem exec_verdictStart (path stack plot : Nat) (s : State) :
    exec (.verdictStart path stack plot) s = execVerdictStart path stack plot s := rfl
@[simp] theorem exec_verdictFallow (path stack plot : Nat) (s : State) :
    exec (.verdictFallow path stack plot) s = execVerdictFallow path stack plot s := rfl
@[simp] theorem exec_verdictFree (path stack plot : Nat) (s : State) :
    exec (.verdictFree path stack plot) s = execVerdictFree path stack plot s := rfl
@[simp] theorem exec_resolve (path stack plot : Nat) (s : State) :
    exec (.resolve path stack plot) s = execResolve path stack plot s := rfl
@[simp] theorem exec_skipNext (path stack plot : Nat) (s : State) :
    exec (.skipNext path stack plot) s = execSkipNext path stack plot s := rfl
@[simp] theorem exec_verdictQuery (path stack plot : Nat) (s : State) :
    exec (.verdictQuery path stack plot) s = execVerdictQuery path stack plot s := rfl
@[simp] theorem exec_oscaleWrite (path group word : Nat) (value : Word) (s : State) :
    exec (.oscaleWrite path group word value) s = execOscaleWrite path group word value s := rfl
@[simp] theorem exec_advanceFetch (cluster : Nat) (plot : Nat) (ecc : Ecc) (s : State) :
    exec (.advanceFetch cluster plot ecc) s = execAdvanceFetch cluster plot ecc s := rfl
@[simp] theorem exec_advPlotWrite (path cluster plot : Nat) (value : Word) (s : State) :
    exec (.advPlotWrite path cluster plot value) s = execAdvPlotWrite path cluster plot value s := rfl
@[simp] theorem exec_turnSlotWrite (path stack slot word : Nat) (value : Word) (s : State) :
    exec (.turnSlotWrite path stack slot word value) s = execTurnSlotWrite path stack slot word value s := rfl
@[simp] theorem exec_turnArm (path stack slot : Nat) (s : State) :
    exec (.turnArm path stack slot) s = execTurnArm path stack slot s := rfl
@[simp] theorem exec_turnAbort (path stack slot : Nat) (s : State) :
    exec (.turnAbort path stack slot) s = execTurnAbort path stack slot s := rfl
@[simp] theorem exec_turnRestart (path stack slot : Nat) (s : State) :
    exec (.turnRestart path stack slot) s = execTurnRestart path stack slot s := rfl
@[simp] theorem exec_turnFinish (path stack slot : Nat) (s : State) :
    exec (.turnFinish path stack slot) s = execTurnFinish path stack slot s := rfl
@[simp] theorem exec_turnQuery (path stack slot : Nat) (s : State) :
    exec (.turnQuery path stack slot) s = execTurnQuery path stack slot s := rfl
@[simp] theorem exec_page (port : Nat) (frame : Frame) (s : State) :
    exec (.page port frame) s = execPage port frame s := rfl
@[simp] theorem exec_done (port : Nat) (frame : Frame) (s : State) :
    exec (.done port frame) s = execDone port frame s := rfl
@[simp] theorem exec_verifyingEnd (stack slot : Nat) (s : State) :
    exec (.verifyingEnd stack slot) s = execVerifyingEnd stack slot s := rfl
@[simp] theorem exec_confirm (port : Nat) (frame : Frame) (s : State) :
    exec (.confirm port frame) s = execConfirm port frame s := rfl
@[simp] theorem exec_reject (port : Nat) (frame : Frame) (ecc : Ecc) (s : State) :
    exec (.reject port frame ecc) s = execReject port frame ecc s := rfl
@[simp] theorem exec_peerAbort (port : Nat) (frame : Frame) (s : State) :
    exec (.peerAbort port frame) s = execPeerAbort port frame s := rfl
@[simp] theorem exec_turnoverTimeout (stack slot : Nat) (s : State) :
    exec (.turnoverTimeout stack slot) s = execTurnoverTimeout stack slot s := rfl
@[simp] theorem exec_doneTimeout (stack slot : Nat) (s : State) :
    exec (.doneTimeout stack slot) s = execDoneTimeout stack slot s := rfl
@[simp] theorem exec_notArmedResend (stack slot : Nat) (s : State) :
    exec (.notArmedResend stack slot) s = execNotArmedResend stack slot s := rfl
@[simp] theorem exec_granaryAlloc (store : Option Nat) (owner plot furrow bytes : Nat) (s : State) :
    exec (.granaryAlloc store owner plot furrow bytes) s = execGranaryAlloc store owner plot furrow bytes s := rfl
@[simp] theorem exec_ownerClear (store : Option Nat) (owner pointer : Nat) (ecc : Ecc) (s : State) :
    exec (.ownerClear store owner pointer ecc) s = execOwnerClear store owner pointer ecc s := rfl
@[simp] theorem exec_gleanerPass (badLists : List (Nat × Nat)) (micros : Nat) (s : State) :
    exec (.gleanerPass badLists micros) s = execGleanerPass badLists micros s := rfl
@[simp] theorem exec_listRebuildEnd (manager cls : Nat) (s : State) :
    exec (.listRebuildEnd manager cls) s = execListRebuildEnd manager cls s := rfl
@[simp] theorem exec_gleanCfgWrite (path : Nat) (value : Word) (s : State) :
    exec (.gleanCfgWrite path value) s = execGleanCfgWrite path value s := rfl
@[simp] theorem exec_grnErrRead (path : Nat) (s : State) :
    exec (.grnErrRead path) s = execGrnErrRead path s := rfl
@[simp] theorem exec_creditConfigWrite (path port : Nat) (reg : CreditReg) (value : Word) (s : State) :
    exec (.creditConfigWrite path port reg value) s = execCreditConfigWrite path port reg value s := rfl
@[simp] theorem exec_schedulerDecision (port : Nat) (ecc : Ecc) (s : State) :
    exec (.schedulerDecision port ecc) s = execSchedulerDecision port ecc s := rfl
@[simp] theorem exec_refill (s : State) : exec .refill s = execRefill s := rfl
@[simp] theorem exec_shaperWrite (path port furrow word : Nat) (value : Word) (s : State) :
    exec (.shaperWrite path port furrow word value) s = execShaperWrite path port furrow word value s := rfl
@[simp] theorem exec_policerSlotWrite (path port slot word : Nat) (value : Word) (s : State) :
    exec (.policerSlotWrite path port slot word value) s = execPolicerSlotWrite path port slot word value s := rfl
@[simp] theorem exec_adaptationConverged (lane : Nat) (s : State) :
    exec (.adaptationConverged lane) s = execAdaptationConverged lane s := rfl
@[simp] theorem exec_headerLock (lane : Nat) (inverted : Bool) (peerLane : Nat) (s : State) :
    exec (.headerLock lane inverted peerLane) s = execHeaderLock lane inverted peerLane s := rfl
@[simp] theorem exec_headerLoss (lane : Nat) (s : State) :
    exec (.headerLoss lane) s = execHeaderLoss lane s := rfl
@[simp] theorem exec_countdownStart (lane : Nat) (s : State) :
    exec (.countdownStart lane) s = execCountdownStart lane s := rfl
@[simp] theorem exec_countdownEnd (lane : Nat) (s : State) :
    exec (.countdownEnd lane) s = execCountdownEnd lane s := rfl
@[simp] theorem exec_markerCheck (lane : Nat) (valid : Bool) (lateNs : Nat) (s : State) :
    exec (.markerCheck lane valid lateNs) s = execMarkerCheck lane valid lateNs s := rfl
@[simp] theorem exec_attemptTimeout (lane : Nat) (s : State) :
    exec (.attemptTimeout lane) s = execAttemptTimeout lane s := rfl
@[simp] theorem exec_lockLoss (lane : Nat) (s : State) :
    exec (.lockLoss lane) s = execLockLoss lane s := rfl
@[simp] theorem exec_relockTimeout (lane : Nat) (s : State) :
    exec (.relockTimeout lane) s = execRelockTimeout lane s := rfl
@[simp] theorem exec_portWaitExpiry (port : Nat) (s : State) :
    exec (.portWaitExpiry port) s = execPortWaitExpiry port s := rfl
@[simp] theorem exec_capabilitySend (port : Nat) (s : State) :
    exec (.capabilitySend port) s = execCapabilitySend port s := rfl
@[simp] theorem exec_capabilityReceived (port : Nat) (record : List Byte) (peerSeen : Bool) (s : State) :
    exec (.capabilityReceived port record peerSeen) s = execCapabilityReceived port record peerSeen s := rfl
@[simp] theorem exec_capTimeout (port : Nat) (s : State) :
    exec (.capTimeout port) s = execCapTimeout port s := rfl
@[simp] theorem exec_rateStepFailed (port : Nat) (s : State) :
    exec (.rateStepFailed port) s = execRateStepFailed port s := rfl
@[simp] theorem exec_widthChange (port : Nat) (s : State) :
    exec (.widthChange port) s = execWidthChange port s := rfl
@[simp] theorem exec_portDown (port : Nat) (s : State) :
    exec (.portDown port) s = execPortDown port s := rfl
@[simp] theorem exec_controlSilent (port : Nat) (s : State) :
    exec (.controlSilent port) s = execControlSilent port s := rfl
@[simp] theorem exec_retryUnit (port seq : Nat) (judge : UnitJudge) (s : State) :
    exec (.retryUnit port seq judge) s = execRetryUnit port seq judge s := rfl
@[simp] theorem exec_retryNak (port expect : Nat) (s : State) :
    exec (.retryNak port expect) s = execRetryNak port expect s := rfl
@[simp] theorem exec_replay (port first : Nat) (s : State) :
    exec (.replay port first) s = execReplay port first s := rfl
@[simp] theorem exec_nakRepeat (port : Nat) (s : State) :
    exec (.nakRepeat port) s = execNakRepeat port s := rfl
@[simp] theorem exec_retryTimeout (port : Nat) (s : State) :
    exec (.retryTimeout port) s = execRetryTimeout port s := rfl
@[simp] theorem exec_creditA (port ack rxMask : Nat) (ret : List Nat) (s : State) :
    exec (.creditA port ack rxMask ret) s = execCreditA port ack rxMask ret s := rfl
@[simp] theorem exec_creditB (port ack rxMask : Nat) (ret hints : List Nat) (s : State) :
    exec (.creditB port ack rxMask ret hints) s = execCreditB port ack rxMask ret hints s := rfl
@[simp] theorem exec_portRestart (path port : Nat) (s : State) :
    exec (.portRestart path port) s = execPortRestart path port s := rfl
@[simp] theorem exec_portFallow (path port : Nat) (s : State) :
    exec (.portFallow path port) s = execPortFallow path port s := rfl
@[simp] theorem exec_portRestore (path port : Nat) (s : State) :
    exec (.portRestore path port) s = execPortRestore path port s := rfl
@[simp] theorem exec_portTest (path port : Nat) (s : State) :
    exec (.portTest path port) s = execPortTest path port s := rfl
@[simp] theorem exec_endTest (path port : Nat) (s : State) :
    exec (.endTest path port) s = execEndTest path port s := rfl
@[simp] theorem exec_retrain (path lane : Nat) (s : State) :
    exec (.retrain path lane) s = execRetrain path lane s := rfl
@[simp] theorem exec_clearFailed (path lane : Nat) (s : State) :
    exec (.clearFailed path lane) s = execClearFailed path lane s := rfl
@[simp] theorem exec_clearPrbs (path lane : Nat) (s : State) :
    exec (.clearPrbs path lane) s = execClearPrbs path lane s := rfl
@[simp] theorem exec_laneTestWrite (path lane : Nat) (value : Word) (s : State) :
    exec (.laneTestWrite path lane value) s = execLaneTestWrite path lane value s := rfl
@[simp] theorem exec_prbsLock (lane : Nat) (s : State) :
    exec (.prbsLock lane) s = execPrbsLock lane s := rfl
@[simp] theorem exec_prbsLockLoss (lane bitErrors : Nat) (s : State) :
    exec (.prbsLockLoss lane bitErrors) s = execPrbsLockLoss lane bitErrors s := rfl
@[simp] theorem exec_strapAccept (pins : BitVec 22) (s : State) :
    exec (.strapAccept pins) s = execStrapAccept pins s := rfl
@[simp] theorem exec_strapChanged (pins : BitVec 22) (s : State) :
    exec (.strapChanged pins) s = execStrapChanged pins s := rfl
@[simp] theorem exec_plotCommit (path plot : Nat) (value : Word) (s : State) :
    exec (.plotCommit path plot value) s = execPlotCommit path plot value s := rfl
@[simp] theorem exec_plotActivate (path plot : Nat) (s : State) :
    exec (.plotActivate path plot) s = execPlotActivate path plot s := rfl
@[simp] theorem exec_plotFallow (path plot : Nat) (s : State) :
    exec (.plotFallow path plot) s = execPlotFallow path plot s := rfl
@[simp] theorem exec_plotFree (path plot : Nat) (s : State) :
    exec (.plotFree path plot) s = execPlotFree path plot s := rfl
@[simp] theorem exec_plotQuery (path plot : Nat) (s : State) :
    exec (.plotQuery path plot) s = execPlotQuery path plot s := rfl
@[simp] theorem exec_plotFenceWrite (path port index : Nat) (value : Word) (s : State) :
    exec (.plotFenceWrite path port index value) s = execPlotFenceWrite path port index value s := rfl
@[simp] theorem exec_roleOfWrite (path : Nat) (value : Word) (s : State) :
    exec (.roleOfWrite path value) s = execRoleOfWrite path value s := rfl
@[simp] theorem exec_adopt (path : Nat) (s : State) :
    exec (.adopt path) s = execAdopt path s := rfl
@[simp] theorem exec_standDown (path : Nat) (s : State) :
    exec (.standDown path) s = execStandDown path s := rfl
@[simp] theorem exec_yieldEpoch (s : State) : exec .yieldEpoch s = execYieldEpoch s := rfl
@[simp] theorem exec_yieldConfigWrite (path index : Nat) (value : Word) (s : State) :
    exec (.yieldConfigWrite path index value) s = execYieldConfigWrite path index value s := rfl
@[simp] theorem exec_drillWatchWrite (path cluster core : Nat) (value : Word) (s : State) :
    exec (.drillWatchWrite path cluster core value) s = execDrillWatchWrite path cluster core value s := rfl
@[simp] theorem exec_hubWatchWrite (path cluster : Nat) (value : Word) (s : State) :
    exec (.hubWatchWrite path cluster value) s = execHubWatchWrite path cluster value s := rfl
@[simp] theorem exec_journalWrite (s : State) : exec .journalWrite s = execJournalWrite s := rfl
@[simp] theorem exec_recCfgWrite (path : Nat) (maskIndex : Option Nat) (value : Word) (s : State) :
    exec (.recCfgWrite path maskIndex value) s = execRecCfgWrite path maskIndex value s := rfl
@[simp] theorem exec_recStart (path : Nat) (s : State) :
    exec (.recStart path) s = execRecStart path s := rfl
@[simp] theorem exec_recStop (path : Nat) (s : State) :
    exec (.recStop path) s = execRecStop path s := rfl
@[simp] theorem exec_recReplay (path : Nat) (s : State) :
    exec (.recReplay path) s = execRecReplay path s := rfl
@[simp] theorem exec_replayAbort (path : Nat) (s : State) :
    exec (.replayAbort path) s = execReplayAbort path s := rfl
@[simp] theorem exec_recClear (path : Nat) (s : State) :
    exec (.recClear path) s = execRecClear path s := rfl
@[simp] theorem exec_replayInstance (group seq : Nat) (s : State) :
    exec (.replayInstance group seq) s = execReplayInstance group seq s := rfl
@[simp] theorem exec_replayDone (s : State) : exec .replayDone s = execReplayDone s := rfl
@[simp] theorem exec_strikeExpiry (kind : UnitKind) (index : Nat) (s : State) :
    exec (.strikeExpiry kind index) s = execStrikeExpiry kind index s := rfl
@[simp] theorem exec_migrationDone (core cycles : Nat) (s : State) :
    exec (.migrationDone core cycles) s = execMigrationDone core cycles s := rfl
@[simp] theorem exec_ledgerWriteRetry (written : Bool) (s : State) :
    exec (.ledgerWriteRetry written) s = execLedgerWriteRetry written s := rfl
@[simp] theorem exec_fieldTestStart (cluster : Nat) (s : State) :
    exec (.fieldTestStart cluster) s = execFieldTestStart cluster s := rfl
@[simp] theorem exec_fieldTestEnd (cluster : Nat) (passed : Bool) (s : State) :
    exec (.fieldTestEnd cluster passed) s = execFieldTestEnd cluster passed s := rfl
@[simp] theorem exec_drainTimeout (kind : UnitKind) (index : Nat) (s : State) :
    exec (.drainTimeout kind index) s = execDrainTimeout kind index s := rfl
@[simp] theorem exec_retire (path : Nat) (kind unit : Nat) (s : State) :
    exec (.retire path kind unit) s = execRetire path kind unit s := rfl
@[simp] theorem exec_reinstate (path : Nat) (kind unit : Nat) (s : State) :
    exec (.reinstate path kind unit) s = execReinstate path kind unit s := rfl
@[simp] theorem exec_testNow (path : Nat) (kind unit : Nat) (s : State) :
    exec (.testNow path kind unit) s = execTestNow path kind unit s := rfl
@[simp] theorem exec_fltQuery (path : Nat) (kind unit : Nat) (s : State) :
    exec (.fltQuery path kind unit) s = execFltQuery path kind unit s := rfl
@[simp] theorem exec_porAssert (s : State) : exec .porAssert s = execPorAssert s := rfl
@[simp] theorem exec_porRelease (s : State) : exec .porRelease s = execPorRelease s := rfl
@[simp] theorem exec_warmResetAssert (s : State) : exec .warmResetAssert s = execWarmResetAssert s := rfl
@[simp] theorem exec_warmResetRelease (s : State) : exec .warmResetRelease s = execWarmResetRelease s := rfl
@[simp] theorem exec_startupStepComplete (report : StepReport) (s : State) :
    exec (.startupStepComplete report) s = execStartupStepComplete report s := rfl
@[simp] theorem exec_startupStepTimeout (unfinished : List Nat) (s : State) :
    exec (.startupStepTimeout unfinished) s = execStartupStepTimeout unfinished s := rfl
@[simp] theorem exec_flashWrite (path flash offset : Nat) (value : Word) (s : State) :
    exec (.flashWrite path flash offset value) s = execFlashWrite path flash offset value s := rfl
@[simp] theorem exec_quote (path : Nat) (s : State) :
    exec (.quote path) s = execQuote path s := rfl
@[simp] theorem exec_quoteDone (signature : List Byte) (s : State) :
    exec (.quoteDone signature) s = execQuoteDone signature s := rfl
@[simp] theorem exec_verifyCopy (path : Nat) (s : State) :
    exec (.verifyCopy path) s = execVerifyCopy path s := rfl
@[simp] theorem exec_verifyCopyDone (copy : SeedCopy) (badSection : Option Nat) (s : State) :
    exec (.verifyCopyDone copy badSection) s = execVerifyCopyDone copy badSection s := rfl
@[simp] theorem exec_programSlot (path slot : Nat) (s : State) :
    exec (.programSlot path slot) s = execProgramSlot path slot s := rfl
@[simp] theorem exec_revokeSlot (path slot : Nat) (s : State) :
    exec (.revokeSlot path slot) s = execRevokeSlot path slot s := rfl
@[simp] theorem exec_slotFusesDone (s : State) : exec .slotFusesDone s = execSlotFusesDone s := rfl
@[simp] theorem exec_fieldOrder (port : Nat) (frame : Frame) (s : State) :
    exec (.fieldOrder port frame) s = execFieldOrder port frame s := rfl
@[simp] theorem exec_hitchLaneLock (lane : Nat) (s : State) :
    exec (.hitchLaneLock lane) s = execHitchLaneLock lane s := rfl
@[simp] theorem exec_hitchLaneLockLoss (lane : Nat) (s : State) :
    exec (.hitchLaneLockLoss lane) s = execHitchLaneLockLoss lane s := rfl
@[simp] theorem exec_hello (frame : HitchFrame) (s : State) :
    exec (.hello frame) s = execHello frame s := rfl
@[simp] theorem exec_hitchRead (frame : HitchFrame) (s : State) :
    exec (.hitchRead frame) s = execHitchRead frame s := rfl
@[simp] theorem exec_hitchWrite (frame : HitchFrame) (s : State) :
    exec (.hitchWrite frame) s = execHitchWrite frame s := rfl
@[simp] theorem exec_eventFrame (s : State) : exec .eventFrame s = execEventFrame s := rfl
@[simp] theorem exec_freeze (path group : Nat) (s : State) :
    exec (.freeze path group) s = execFreeze path group s := rfl
@[simp] theorem exec_thaw (path group : Nat) (s : State) :
    exec (.thaw path group) s = execThaw path group s := rfl
@[simp] theorem exec_freezeAll (path : Nat) (s : State) :
    exec (.freezeAll path) s = execFreezeAll path s := rfl
@[simp] theorem exec_snapshotTaken (group : Nat) (s : State) :
    exec (.snapshotTaken group) s = execSnapshotTaken group s := rfl
@[simp] theorem exec_selfThaw (group : Nat) (s : State) :
    exec (.selfThaw group) s = execSelfThaw group s := rfl
@[simp] theorem exec_railFault (rail : Nat) (s : State) :
    exec (.railFault rail) s = execRailFault rail s := rfl
@[simp] theorem exec_avsUpdate (millivolts : Nat) (acknowledged : Bool) (s : State) :
    exec (.avsUpdate millivolts acknowledged) s = execAvsUpdate millivolts acknowledged s := rfl
@[simp] theorem exec_sdrefLoss (quadrant : Nat) (s : State) :
    exec (.sdrefLoss quadrant) s = execSdrefLoss quadrant s := rfl
@[simp] theorem exec_sdrefReturn (quadrant : Nat) (s : State) :
    exec (.sdrefReturn quadrant) s = execSdrefReturn quadrant s := rfl
@[simp] theorem exec_sysclkLoss (s : State) : exec .sysclkLoss s = execSysclkLoss s := rfl
@[simp] theorem exec_sensorSample (readings : List Int) (s : State) :
    exec (.sensorSample readings) s = execSensorSample readings s := rfl
@[simp] theorem exec_thermalThrottle (s : State) : exec .thermalThrottle s = execThermalThrottle s := rfl
@[simp] theorem exec_droopStretch (core : Nat) (s : State) :
    exec (.droopStretch core) s = execDroopStretch core s := rfl
@[simp] theorem exec_thermTrip (s : State) : exec .thermTrip s = execThermTrip s := rfl
@[simp] theorem exec_alertClear (path : Nat) (value : Word) (s : State) :
    exec (.alertClear path value) s = execAlertClear path value s := rfl
@[simp] theorem exec_tapExtest (cells : List Bool) (s : State) :
    exec (.tapExtest cells) s = execTapExtest cells s := rfl
@[simp] theorem exec_tapSamplePreload (cells : List Bool) (s : State) :
    exec (.tapSamplePreload cells) s = execTapSamplePreload cells s := rfl
@[simp] theorem exec_tapBypass (s : State) : exec .tapBypass s = execTapBypass s := rfl
@[simp] theorem exec_tapIdcode (s : State) : exec .tapIdcode s = execTapIdcode s := rfl
@[simp] theorem exec_tapPacketAccess (data : List Byte) (s : State) :
    exec (.tapPacketAccess data) s = execTapPacketAccess data s := rfl
@[simp] theorem exec_railReturn (rail : Nat) (s : State) :
    exec (.railReturn rail) s = execRailReturn rail s := rfl
@[simp] theorem exec_pllLockLoss (island : Nat) (s : State) :
    exec (.pllLockLoss island) s = execPllLockLoss island s := rfl
@[simp] theorem exec_pllRelock (island : Nat) (s : State) :
    exec (.pllRelock island) s = execPllRelock island s := rfl
@[simp] theorem exec_flashProgramDone (flash : Nat) (written : Bool) (s : State) :
    exec (.flashProgramDone flash written) s = execFlashProgramDone flash written s := rfl
@[simp] theorem exec_sowVersionReadDone (group seq : Nat) (s : State) :
    exec (.sowVersionReadDone group seq) s = execSowVersionReadDone group seq s := rfl
@[simp] theorem exec_svnAdvanceDone (s : State) : exec .svnAdvanceDone s = execSvnAdvanceDone s := rfl

end Sys2Proof.Machine
end

