-- ==== Sys2Proof/WellFormed.lean ====
section
/-! DEFINITION. Which commands are well formed: every unit, index and field an operand names is one
the spec's block has (R3, R6, R109, R378, R437, R441). The meanings are total and need none of this; it says
which terms stand for a row of the table. -/

namespace Sys2Proof

open Machine

/-- A Granary store: the packet buffers or one of twelve cluster stores (R254). -/
def storeOk : Option Nat → Bool
  | none => true
  | some n => decide (n < 12)

/-- A frame's payload has the length its header names, at most 8 KiB (R95). -/
def frameOk (f : Frame) : Bool :=
  decide (f.payload.length = bitsOf f.hdr.w0 29 16) && decide (f.payload.length ≤ 8192)

/-- A credit register of R108. -/
def regOk : CreditReg → Bool
  | .furrow f => decide (f < 16)
  | .pool => true

/-- A waiter of R270. -/
def waiterOk : QuotaWaiter → Bool
  | .ingress port furrow => decide (port < 512) && decide (furrow < 16)
  | .sow group seq chunk =>
    decide (group < 65536) && decide (seq < 4294967296) && decide (chunk < 16777216)

/-- A port mask register of R362, or REC_CFG. -/
def maskOk : Option Nat → Bool
  | none => true
  | some i => decide (i < 8)

/-- Whether a command is well formed. -/
def wellFormed : Instr → Bool
  | .registerWrite path addr _ =>
    decide (path ≤ 8) && decide (addr < 281474976710656) && decide (addr % 8 = 0)
  | .xingTimeout sender receiver => decide (sender < 205) && decide (receiver < 205)
  | .hbmRefresh stack => decide (stack < 12)
  | .d2dRetry stack => decide (stack < 12)
  | .packetHeader port _ => decide (port < 512)
  | .quotaAdmit waiter => waiterOk waiter
  | .packetTail port payload _ _ _ => decide (port < 512) && decide (payload.length ≤ 8192)
  | .packetSent port => decide (port < 512)
  | .fwdTableWrite path index _ => decide (path ≤ 8) && decide (index < 262144)
  | .ecmpSetWrite path set word _ => decide (path ≤ 8) && decide (set < 4096) && decide (word < 16)
  | .fwdHold path index => decide (path ≤ 8) && decide (index < 262144)
  | .fwdRelease path index => decide (path ≤ 8) && decide (index < 262144)
  | .fwdInvalidate path index => decide (path ≤ 8) && decide (index < 262144)
  | .fwdQuery path index => decide (path ≤ 8) && decide (index < 262144)
  | .holdTimeout port furrow => decide (port < 512) && decide (furrow < 16)
  | .occScanEnd index => decide (index < 262144)
  | .sowCopySent port => decide (port < 512)
  | .stageWrite path addr _ =>
    decide (path ≤ 8) && decide (addr < 281474976710656) && decide (addr % 8 = 0)
  | .groupCommit path group _ => decide (path ≤ 8) && decide (group < 65536)
  | .memberEntryWrite path cluster index word _ =>
    decide (path ≤ 8) && decide (cluster < 12) && decide (index < 16384) && decide (word < 4)
  | .groupAbort path group => decide (path ≤ 8) && decide (group < 65536)
  | .groupFallow path group => decide (path ≤ 8) && decide (group < 65536)
  | .groupRestore path group => decide (path ≤ 8) && decide (group < 65536)
  | .groupFree path group => decide (path ≤ 8) && decide (group < 65536)
  | .setSeq path group seq =>
    decide (path ≤ 8) && decide (group < 65536) && decide (seq < 4294967296)
  | .groupQuery path group => decide (path ≤ 8) && decide (group < 65536)
  | .reap port frame => decide (port < 512) && frameOk frame
  | .reapDeferred port frame => decide (port < 512) && frameOk frame
  | .reapExpress port frame => decide (port < 512) && frameOk frame
  | .sow port frame => decide (port < 512) && frameOk frame
  | .sowExpress port frame => decide (port < 512) && frameOk frame
  | .sowRequest port frame => decide (port < 512) && frameOk frame
  | .completion port frame => decide (port < 512) && frameOk frame
  | .contributionAdmit port furrow => decide (port < 512) && decide (furrow < 16)
  | .openingPacketAdmit port furrow => decide (port < 512) && decide (furrow < 16)
  | .stragglerTimeout group seq => decide (group < 65536) && decide (seq < 4294967296)
  | .settleTimeout group seq => decide (group < 65536) && decide (seq < 4294967296)
  | .drillRunEnd cluster core _ _ => decide (cluster < 12) && decide (core < 9)
  | .noJudgeTimeout group seq chunk =>
    decide (group < 65536) && decide (seq < 4294967296) && decide (chunk < 16777216)
  | .fbkEntryCommit path stack entry _ =>
    decide (path ≤ 8) && decide (stack < 12) && decide (entry < 32768)
  | .hbmWindowWrite path stack offset _ =>
    decide (path ≤ 8) && decide (stack < 12)
      && decide (offset < 68719476736) && decide (offset % 8 = 0)
  | .hypArm path stack block _ => decide (path ≤ 8) && decide (stack < 12) && decide (block < 1024)
  | .passStart stack => decide (stack < 12)
  | .entryPassDone stack => decide (stack < 12)
  | .secondEncodingEnd stack => decide (stack < 12)
  | .tillerGroupComplete stack tiller _ _ => decide (stack < 12) && decide (tiller < 16)
  | .patrolScrub stack _ => decide (stack < 12)
  | .landingReservationResume group seq => decide (group < 65536) && decide (seq < 4294967296)
  | .localVerdictSend plot => decide (plot < 4096)
  | .entryActivate path stack entry =>
    decide (path ≤ 8) && decide (stack < 12) && decide (entry < 32768)
  | .entryFallow path stack entry =>
    decide (path ≤ 8) && decide (stack < 12) && decide (entry < 32768)
  | .entryFree path stack entry =>
    decide (path ≤ 8) && decide (stack < 12) && decide (entry < 32768)
  | .releaseVersion path stack plot =>
    decide (path ≤ 8) && decide (stack < 12) && decide (plot < 4096)
  | .passHold path stack plot => decide (path ≤ 8) && decide (stack < 12) && decide (plot < 4096)
  | .passRelease path stack plot => decide (path ≤ 8) && decide (stack < 12) && decide (plot < 4096)
  | .rebuildSown path stack entry =>
    decide (path ≤ 8) && decide (stack < 12) && decide (entry < 32768)
  | .entryQuery path stack entry =>
    decide (path ≤ 8) && decide (stack < 12) && decide (entry < 32768)
  | .verdict port frame => decide (port < 512) && frameOk frame
  | .verdictEntryWrite path stack plot word _ =>
    decide (path ≤ 8) && decide (stack < 12) && decide (plot < 4096) && decide (word < 8)
  | .verdictStart path stack plot =>
    decide (path ≤ 8) && decide (stack < 12) && decide (plot < 4096)
  | .verdictFallow path stack plot =>
    decide (path ≤ 8) && decide (stack < 12) && decide (plot < 4096)
  | .verdictFree path stack plot => decide (path ≤ 8) && decide (stack < 12) && decide (plot < 4096)
  | .resolve path stack plot => decide (path ≤ 8) && decide (stack < 12) && decide (plot < 4096)
  | .skipNext path stack plot => decide (path ≤ 8) && decide (stack < 12) && decide (plot < 4096)
  | .verdictQuery path stack plot =>
    decide (path ≤ 8) && decide (stack < 12) && decide (plot < 4096)
  | .oscaleWrite path group word _ =>
    decide (path ≤ 8) && decide (group < 65536) && decide (word < 16)
  | .advanceFetch cluster plot _ => decide (cluster < 12) && decide (plot < 4096)
  | .advPlotWrite path cluster plot _ =>
    decide (path ≤ 8) && decide (cluster < 12) && decide (plot < 4096)
  | .turnSlotWrite path stack slot word _ =>
    decide (path ≤ 8) && decide (stack < 12) && decide (slot < 64) && decide (word < 4)
  | .turnArm path stack slot => decide (path ≤ 8) && decide (stack < 12) && decide (slot < 64)
  | .turnAbort path stack slot => decide (path ≤ 8) && decide (stack < 12) && decide (slot < 64)
  | .turnRestart path stack slot => decide (path ≤ 8) && decide (stack < 12) && decide (slot < 64)
  | .turnFinish path stack slot => decide (path ≤ 8) && decide (stack < 12) && decide (slot < 64)
  | .turnQuery path stack slot => decide (path ≤ 8) && decide (stack < 12) && decide (slot < 64)
  | .page port frame => decide (port < 512) && frameOk frame
  | .done port frame => decide (port < 512) && frameOk frame
  | .verifyingEnd stack slot => decide (stack < 12) && decide (slot < 64)
  | .confirm port frame => decide (port < 512) && frameOk frame
  | .reject port frame _ => decide (port < 512) && frameOk frame
  | .peerAbort port frame => decide (port < 512) && frameOk frame
  | .turnoverTimeout stack slot => decide (stack < 12) && decide (slot < 64)
  | .doneTimeout stack slot => decide (stack < 12) && decide (slot < 64)
  | .notArmedResend stack slot => decide (stack < 12) && decide (slot < 64)
  | .granaryAlloc store owner plot furrow _ =>
    storeOk store && decide (owner < 16384) && decide (plot < 4096) && decide (furrow < 16)
  | .ownerClear store owner pointer _ =>
    storeOk store && decide (owner < 16384) && decide (pointer < 4294967296)
  | .gleanerPass _ _ => true
  | .listRebuildEnd manager cls => decide (manager < 20) && decide (cls < 8)
  | .gleanCfgWrite path _ => decide (path ≤ 8)
  | .grnErrRead path => decide (path ≤ 8)
  | .creditConfigWrite path port reg _ => decide (path ≤ 8) && decide (port < 512) && regOk reg
  | .schedulerDecision port _ => decide (port < 512)
  | .refill => true
  | .shaperWrite path port furrow word _ =>
    decide (path ≤ 8) && decide (port < 512) && decide (furrow < 16) && decide (word < 4)
  | .policerSlotWrite path port slot word _ =>
    decide (path ≤ 8) && decide (port < 512) && decide (slot < 16) && decide (word < 4)
  | .adaptationConverged lane => decide (lane < 512)
  | .headerLock lane _ peerLane => decide (lane < 512) && decide (peerLane < 32)
  | .headerLoss lane => decide (lane < 512)
  | .countdownStart lane => decide (lane < 512)
  | .countdownEnd lane => decide (lane < 512)
  | .markerCheck lane _ _ => decide (lane < 512)
  | .attemptTimeout lane => decide (lane < 512)
  | .lockLoss lane => decide (lane < 512)
  | .relockTimeout lane => decide (lane < 512)
  | .portWaitExpiry port => decide (port < 512)
  | .capabilitySend port => decide (port < 512)
  | .capabilityReceived port record _ => decide (port < 512) && decide (record.length ≤ 4096)
  | .capTimeout port => decide (port < 512)
  | .rateStepFailed port => decide (port < 512)
  | .widthChange port => decide (port < 512)
  | .portDown port => decide (port < 512)
  | .controlSilent port => decide (port < 512)
  | .retryUnit port seq _ => decide (port < 512) && decide (seq < 4096)
  | .retryNak port expect => decide (port < 512) && decide (expect < 4096)
  | .replay port first => decide (port < 512) && decide (first < 4096)
  | .nakRepeat port => decide (port < 512)
  | .retryTimeout port => decide (port < 512)
  | .creditA port ack rxMask ret =>
    decide (port < 512) && decide (ack < 4096)
      && decide (rxMask < 65536) && decide (ret.length = 7)
  | .creditB port ack rxMask ret hints =>
    decide (port < 512) && decide (ack < 4096) && decide (rxMask < 65536)
      && decide (ret.length = 6) && decide (hints.length = 8)
  | .portRestart path port => decide (path ≤ 8) && decide (port < 512)
  | .portFallow path port => decide (path ≤ 8) && decide (port < 512)
  | .portRestore path port => decide (path ≤ 8) && decide (port < 512)
  | .portTest path port => decide (path ≤ 8) && decide (port < 512)
  | .endTest path port => decide (path ≤ 8) && decide (port < 512)
  | .retrain path lane => decide (path ≤ 8) && decide (lane < 512)
  | .clearFailed path lane => decide (path ≤ 8) && decide (lane < 512)
  | .clearPrbs path lane => decide (path ≤ 8) && decide (lane < 512)
  | .laneTestWrite path lane _ => decide (path ≤ 8) && decide (lane < 512)
  | .prbsLock lane => decide (lane < 512)
  | .prbsLockLoss lane _ => decide (lane < 512)
  | .strapAccept _ => true
  | .strapChanged _ => true
  | .plotCommit path plot _ => decide (path ≤ 8) && decide (plot < 4096)
  | .plotActivate path plot => decide (path ≤ 8) && decide (plot < 4096)
  | .plotFallow path plot => decide (path ≤ 8) && decide (plot < 4096)
  | .plotFree path plot => decide (path ≤ 8) && decide (plot < 4096)
  | .plotQuery path plot => decide (path ≤ 8) && decide (plot < 4096)
  | .plotFenceWrite path port index _ =>
    decide (path ≤ 8) && decide (port < 512) && decide (index < 64)
  | .roleOfWrite path _ => decide (path ≤ 8)
  | .adopt path => decide (path ≤ 8)
  | .standDown path => decide (path ≤ 8)
  | .yieldEpoch => true
  | .yieldConfigWrite path index _ => decide (path ≤ 8) && decide (index < 3)
  | .drillWatchWrite path cluster core _ =>
    decide (path ≤ 8) && decide (cluster < 12) && decide (core < 9)
  | .hubWatchWrite path cluster _ => decide (path ≤ 8) && decide (cluster < 12)
  | .journalWrite => true
  | .recCfgWrite path maskIndex _ => decide (path ≤ 8) && maskOk maskIndex
  | .recStart path => decide (path ≤ 8)
  | .recStop path => decide (path ≤ 8)
  | .recReplay path => decide (path ≤ 8)
  | .replayAbort path => decide (path ≤ 8)
  | .recClear path => decide (path ≤ 8)
  | .replayInstance group seq => decide (group < 65536) && decide (seq < 4294967296)
  | .replayDone => true
  | .strikeExpiry _ index => decide (index < 512)
  | .migrationDone core cycles => decide (core < 108) && decide (cycles < 4294967296)
  | .ledgerWriteRetry _ => true
  | .fieldTestStart cluster => decide (cluster < 12)
  | .fieldTestEnd cluster _ => decide (cluster < 12)
  | .drainTimeout _ index => decide (index < 512)
  | .retire path kind unit => decide (path ≤ 8) && decide (kind < 16) && decide (unit < 4096)
  | .reinstate path kind unit => decide (path ≤ 8) && decide (kind < 16) && decide (unit < 4096)
  | .testNow path kind unit => decide (path ≤ 8) && decide (kind < 16) && decide (unit < 4096)
  | .fltQuery path kind unit => decide (path ≤ 8) && decide (kind < 16) && decide (unit < 4096)
  | .porAssert => true
  | .porRelease => true
  | .warmResetAssert => true
  | .warmResetRelease => true
  | .startupStepComplete _ => true
  | .startupStepTimeout _ => true
  | .flashWrite path flash offset _ =>
    decide (path ≤ 8) && decide (flash < 2)
      && decide (offset < 67108864) && decide (offset % 8 = 0)
  | .quote path => decide (path ≤ 8)
  | .quoteDone _ => true
  | .verifyCopy path => decide (path ≤ 8)
  | .verifyCopyDone _ _ => true
  | .programSlot path slot => decide (path ≤ 8) && decide (slot < 4)
  | .revokeSlot path slot => decide (path ≤ 8) && decide (slot < 4)
  | .slotFusesDone => true
  | .fieldOrder port frame => decide (port < 512) && frameOk frame
  | .hitchLaneLock lane => decide (lane < 2)
  | .hitchLaneLockLoss lane => decide (lane < 2)
  | .hello _ => true
  | .hitchRead _ => true
  | .hitchWrite _ => true
  | .eventFrame => true
  | .freeze path group => decide (path ≤ 8) && decide (group < 16)
  | .thaw path group => decide (path ≤ 8) && decide (group < 16)
  | .freezeAll path => decide (path ≤ 8)
  | .snapshotTaken group => decide (group < 9)
  | .selfThaw group => decide (group < 9)
  | .railFault rail => decide (rail < 16)
  | .avsUpdate millivolts _ => decide (millivolts < 4096)
  | .sdrefLoss quadrant => decide (quadrant < 4)
  | .sdrefReturn quadrant => decide (quadrant < 4)
  | .sysclkLoss => true
  | .sensorSample _ => true
  | .thermalThrottle => true
  | .droopStretch core => decide (core < 108)
  | .thermTrip => true
  | .alertClear path _ => decide (path ≤ 8)
  | .tapExtest _ => true
  | .tapSamplePreload _ => true
  | .tapBypass => true
  | .tapIdcode => true
  | .tapPacketAccess _ => true
  | .railReturn rail => decide (rail < 16)
  | .pllLockLoss island => decide (island < 205)
  | .pllRelock island => decide (island < 205)
  | .flashProgramDone flash _ => decide (flash < 2)
  | .sowVersionReadDone group seq => decide (group < 65536) && decide (seq < 4294967296)
  | .svnAdvanceDone => true

end Sys2Proof
end

