-- ==== Sys2Proof/Tests/Slice0.lean ====
section
/-! SUPPORT. The package's own tests: the ill-formed terms that wellFormed refuses, states that meet the
hypotheses of each statement, and the manual's worked examples. -/

set_option Elab.async false
set_option maxRecDepth 20000

namespace Sys2Proof.Tests

open Sys2Proof Sys2Proof.Machine

def hdr0 : Header := ⟨0, 0, 0, 0⟩
def frame0 : Frame := ⟨hdr0, []⟩
/-- A header that names one payload byte, without it. -/
def shortFrame : Frame := ⟨⟨0x10000, 0, 0, 0⟩, []⟩
def zeros (n : Nat) : List Byte := List.replicate n 0

/-- A state with register fields set: address, highest bit, lowest bit, value. -/
def setF (s : State) (fs : List (Nat × Nat × Nat × Nat)) : State :=
  fs.foldl (fun s f => wrf s f.1 f.2.1 f.2.2.1 f.2.2.2) s

/-- A device that is Ready with its twelve clusters in service and takes commands from its managers. -/
def ready : State := setF State.reset [(aFuse, 46, 46, 1), (aBoot, 59, 58, 1), (aCapAvail, 63, 52, 0xFFF)]

theorem ready_manageable : manageable ready := ⟨by decide, by decide⟩

/-- A device at start-up step n, its cold start begun. -/
def atStep (n : Nat) : State := setF State.reset [(aBoot, 63, 60, n)]

/-- The ready device with ports 0 and 511, one lane wide; port 511 is the other end of everything. -/
def ports : State := setF ready [(aLinkCfg 0, 63, 59, 1), (aLinkCfg 511, 63, 59, 1)]

/-- Its port 511 with a link in a phase. -/
def phaseOf (l : Link) : State := setLink ports 511 l

/-- Its port 511 with a link that forwards. -/
def linked : State := setF (phaseOf { Link.empty with phase := lsForwarding, txMask := 1, txSet := 1 })
  [(aLinkStat 511, 63, 60, lsForwarding)]

/-- Lane 511 of that device in a state. -/
def lane511 (st : Nat) : State := setF ports [(aLaneStat 511, 63, 60, st)]

/-- A header of version 1: type, furrow, length, flags and destination (R96). -/
def hdr (type furrow length flags dst : Nat) : Header :=
  ⟨bitsAt 63 60 1 ||| bitsAt 59 54 type ||| bitsAt 53 50 furrow ||| bitsAt 29 16 length ||| bitsAt 15 0 flags,
    bitsAt 63 46 dst, 0, 0⟩

/-- A packet in the device. -/
def pkt (uid : Nat) (h : Header) : Pkt := ⟨uid, h, [], 0x0F000000, true, [], .plain, 0⟩

/-- The forwarding port 511 with header version 1, the hop limit and fence of a running device, and credits for
furrows 2 and 8. -/
def carrier : State := setF linked [(aLinkStat 511, 39, 36, 1), (aLinkStat 511, 59, 55, 1), (aFence 511 0, 0, 0, 1),
  (aCredit 511 2, 47, 32, 64), (aCredit 511 2, 31, 16, 64), (aCredit 511 8, 47, 32, 64), (aCredit 511 8, 31, 16, 64)]

/-- That port with a packet whose header has come and whose place is as given. -/
def arriving (place : RxPlace) (h : Header) : State :=
  { carrier with fab := { carrier.fab with rx := [(511, [⟨pkt 0 h, place, 0⟩])] } }

/-- A VERDICT group of a leaf in cluster 11 with no children, as words 0 to 4 of its entry (R134, R135). -/
def leafWords (sig : Nat) : List Word :=
  [bitsAt 61 60 2 ||| bitsAt 59 57 5 ||| bitsAt 51 40 4095 ||| bitsAt 3 0 11, bitsAt 63 24 8 ||| bitsAt 23 16 1,
    bitsAt 63 47 2 ||| bitsAt 46 30 1 ||| bitsAt 29 14 1 ||| bitsAt 8 0 511,
    bitsAt 63 40 1000000 ||| bitsAt 27 24 2, bitsAt 31 0 sig]

/-- Words 0 to 4 of a table entry written. -/
def withEntry (s : State) (a : Nat) (ws : List Word) : State :=
  (ws.zip (List.range ws.length)).foldl (fun s x => wr s (a + 8 * x.2) x.1) s

/-- Word 0 of a plot that has group 65,535 and 512 units of each cluster store (R337), and the ready device in
which plot 4,095 is FALLOW with it and half the user area of each stack. -/
def plotWord : Word := bitsAt 56 45 512 ||| bitsAt 32 16 1 ||| bitsAt 15 0 65535
def plotted : State :=
  withEntry ready (aPlot 4095 0) [bitsAt 63 62 2 ||| plotWord, 0, 0, bitsAt 39 16 0x78_0000]

/-- Group 5 of cluster 11: SUM of 512 FP32 elements, in two chunks, from two members of the kind given, ranks 0 and 1 at ports 0 and
511; its parent's port and the run that it has open. -/
def coll (gkind role express deferred kind parent : Nat) (r : Run) : State :=
  let s := withEntry ready (aGroup 5 0)
    [bitsAt 63 62 1 ||| bitsAt 61 60 role ||| bitsAt 59 57 gkind ||| bitsAt 53 53 express ||| bitsAt 52 52 deferred
      ||| bitsAt 51 40 4095 ||| bitsAt 39 32 1 ||| bitsAt 31 26 2 ||| bitsAt 25 20 2 ||| bitsAt 19 14 2 ||| bitsAt 3 0 11,
    bitsAt 63 24 512 ||| bitsAt 23 16 1, bitsAt 63 47 2 ||| bitsAt 46 30 2 ||| bitsAt 8 0 parent,
    bitsAt 63 40 1000 ||| bitsAt 27 24 2 ||| bitsAt 9 0 2, bitsAt 63 50 16382, bitsAt 63 32 1 ||| bitsAt 31 28 1]
  let s := wr s (aMember 11 16382 0) (bitsAt 63 62 kind ||| bitsAt 51 35 1)
  let s := wr s (aMember 11 16383 0) (bitsAt 63 62 kind ||| bitsAt 60 52 511 ||| bitsAt 51 35 1 ||| bitsAt 34 19 1)
  { s with bnd := { s.bnd with runs := [(runKey 5 0, [r])] } }

/-- A packet of that run: type, furrow, flags, part and payload, from rank 1. -/
def collFrame (type furrow flags part : Nat) (s : State) (payload : List Byte) : Frame :=
  ⟨⟨(hdr type furrow payload.length flags 0).w0, 0, bitsAt 63 48 5 ||| bitsAt 31 16 1,
    bitsAt 63 32 (sigOf (groupAt s 5) 0) ||| bitsAt 15 8 part⟩, payload⟩

theorem test_ill_formed_1 : ([
  .registerWrite 9 0 0, .registerWrite 0 281474976710656 0, .registerWrite 0 4 0, .xingTimeout 205 0,
  .xingTimeout 0 205, .hbmRefresh 12, .d2dRetry 12, .packetHeader 512 hdr0, .quotaAdmit (.ingress 512 0),
  .quotaAdmit (.ingress 0 16), .quotaAdmit (.sow 65536 0 0), .quotaAdmit (.sow 0 4294967296 0),
  .quotaAdmit (.sow 0 0 16777216), .packetTail 512 [] 0 0 false, .packetSent 512, .fwdTableWrite 9 0 0,
  .fwdTableWrite 0 262144 0, .ecmpSetWrite 9 0 0 0, .ecmpSetWrite 0 4096 0 0, .ecmpSetWrite 0 0 16 0,
  .fwdHold 9 0, .fwdHold 0 262144, .fwdRelease 9 0, .fwdRelease 0 262144, .fwdInvalidate 9 0,
  .fwdInvalidate 0 262144, .fwdQuery 9 0, .fwdQuery 0 262144, .holdTimeout 512 0, .holdTimeout 0 16,
  .occScanEnd 262144, .sowCopySent 512, .stageWrite 9 0 0, .stageWrite 0 281474976710656 0,
  .stageWrite 0 4 0, .groupCommit 9 0 0, .groupCommit 0 65536 0, .memberEntryWrite 9 0 0 0 0,
  .memberEntryWrite 0 12 0 0 0, .memberEntryWrite 0 0 16384 0 0, .memberEntryWrite 0 0 0 4 0,
  .groupAbort 9 0, .groupAbort 0 65536, .groupFallow 9 0, .groupFallow 0 65536] : List Instr).all (fun c => !wellFormed c) = true := by decide

theorem test_ill_formed_2 : ([
  .groupRestore 9 0, .groupRestore 0 65536, .groupFree 9 0, .groupFree 0 65536, .setSeq 9 0 0,
  .setSeq 0 65536 0, .setSeq 0 0 4294967296, .groupQuery 9 0, .groupQuery 0 65536, .reap 512 frame0,
  .reap 0 shortFrame, .reapDeferred 512 frame0, .reapDeferred 0 shortFrame, .reapExpress 512 frame0,
  .reapExpress 0 shortFrame, .sow 512 frame0, .sow 0 shortFrame, .sowExpress 512 frame0,
  .sowExpress 0 shortFrame, .sowRequest 512 frame0, .sowRequest 0 shortFrame, .completion 512 frame0,
  .completion 0 shortFrame, .contributionAdmit 512 0, .contributionAdmit 0 16, .openingPacketAdmit 512 0,
  .openingPacketAdmit 0 16, .stragglerTimeout 65536 0, .stragglerTimeout 0 4294967296,
  .settleTimeout 65536 0, .settleTimeout 0 4294967296, .drillRunEnd 12 0 0 .none, .drillRunEnd 0 9 0 .none,
  .noJudgeTimeout 65536 0 0, .noJudgeTimeout 0 4294967296 0, .noJudgeTimeout 0 0 16777216,
  .fbkEntryCommit 9 0 0 0, .fbkEntryCommit 0 12 0 0, .fbkEntryCommit 0 0 32768 0, .hbmWindowWrite 9 0 0 0,
  .hbmWindowWrite 0 12 0 0, .hbmWindowWrite 0 0 68719476736 0, .hbmWindowWrite 0 0 4 0, .hypArm 9 0 0 0,
  .hypArm 0 12 0 0] : List Instr).all (fun c => !wellFormed c) = true := by decide

theorem test_ill_formed_3 : ([
  .hypArm 0 0 1024 0, .passStart 12, .entryPassDone 12, .secondEncodingEnd 12,
  .tillerGroupComplete 12 0 .agree [], .tillerGroupComplete 0 16 .agree [], .patrolScrub 12 .clean,
  .landingReservationResume 65536 0, .landingReservationResume 0 4294967296, .localVerdictSend 4096,
  .entryActivate 9 0 0, .entryActivate 0 12 0, .entryActivate 0 0 32768, .entryFallow 9 0 0,
  .entryFallow 0 12 0, .entryFallow 0 0 32768, .entryFree 9 0 0, .entryFree 0 12 0, .entryFree 0 0 32768,
  .releaseVersion 9 0 0, .releaseVersion 0 12 0, .releaseVersion 0 0 4096, .passHold 9 0 0,
  .passHold 0 12 0, .passHold 0 0 4096, .passRelease 9 0 0, .passRelease 0 12 0, .passRelease 0 0 4096,
  .rebuildSown 9 0 0, .rebuildSown 0 12 0, .rebuildSown 0 0 32768, .entryQuery 9 0 0, .entryQuery 0 12 0,
  .entryQuery 0 0 32768, .verdict 512 frame0, .verdict 0 shortFrame, .verdictEntryWrite 9 0 0 0 0,
  .verdictEntryWrite 0 12 0 0 0, .verdictEntryWrite 0 0 4096 0 0, .verdictEntryWrite 0 0 0 8 0,
  .verdictStart 9 0 0, .verdictStart 0 12 0, .verdictStart 0 0 4096, .verdictFallow 9 0 0,
  .verdictFallow 0 12 0] : List Instr).all (fun c => !wellFormed c) = true := by decide

theorem test_ill_formed_4 : ([
  .verdictFallow 0 0 4096, .verdictFree 9 0 0, .verdictFree 0 12 0, .verdictFree 0 0 4096, .resolve 9 0 0,
  .resolve 0 12 0, .resolve 0 0 4096, .skipNext 9 0 0, .skipNext 0 12 0, .skipNext 0 0 4096,
  .verdictQuery 9 0 0, .verdictQuery 0 12 0, .verdictQuery 0 0 4096, .oscaleWrite 9 0 0 0,
  .oscaleWrite 0 65536 0 0, .oscaleWrite 0 0 16 0, .advanceFetch 12 0 .clean, .advanceFetch 0 4096 .clean,
  .advPlotWrite 9 0 0 0, .advPlotWrite 0 12 0 0, .advPlotWrite 0 0 4096 0, .turnSlotWrite 9 0 0 0 0,
  .turnSlotWrite 0 12 0 0 0, .turnSlotWrite 0 0 64 0 0, .turnSlotWrite 0 0 0 4 0, .turnArm 9 0 0,
  .turnArm 0 12 0, .turnArm 0 0 64, .turnAbort 9 0 0, .turnAbort 0 12 0, .turnAbort 0 0 64,
  .turnRestart 9 0 0, .turnRestart 0 12 0, .turnRestart 0 0 64, .turnFinish 9 0 0, .turnFinish 0 12 0,
  .turnFinish 0 0 64, .turnQuery 9 0 0, .turnQuery 0 12 0, .turnQuery 0 0 64, .page 512 frame0,
  .page 0 shortFrame, .done 512 frame0, .done 0 shortFrame, .verifyingEnd 12 0] : List Instr).all (fun c => !wellFormed c) = true := by decide

theorem test_ill_formed_5 : ([
  .verifyingEnd 0 64, .confirm 512 frame0, .confirm 0 shortFrame, .reject 512 frame0 .clean,
  .reject 0 shortFrame .clean, .peerAbort 512 frame0, .peerAbort 0 shortFrame, .turnoverTimeout 12 0,
  .turnoverTimeout 0 64, .doneTimeout 12 0, .doneTimeout 0 64, .notArmedResend 12 0, .notArmedResend 0 64,
  .granaryAlloc (some 12) 0 0 0 0, .granaryAlloc none 16384 0 0 0, .granaryAlloc none 0 4096 0 0,
  .granaryAlloc none 0 0 16 0, .ownerClear (some 12) 0 0 .clean, .ownerClear none 16384 0 .clean,
  .ownerClear none 0 4294967296 .clean, .listRebuildEnd 20 0, .listRebuildEnd 0 8, .gleanCfgWrite 9 0,
  .grnErrRead 9, .creditConfigWrite 9 0 .pool 0, .creditConfigWrite 0 512 .pool 0,
  .creditConfigWrite 0 0 (.furrow 16) 0, .schedulerDecision 512 .clean, .shaperWrite 9 0 0 0 0,
  .shaperWrite 0 512 0 0 0, .shaperWrite 0 0 16 0 0, .shaperWrite 0 0 0 4 0, .policerSlotWrite 9 0 0 0 0,
  .policerSlotWrite 0 512 0 0 0, .policerSlotWrite 0 0 16 0 0, .policerSlotWrite 0 0 0 4 0,
  .adaptationConverged 512, .headerLock 512 false 0, .headerLock 0 false 32, .headerLoss 512,
  .countdownStart 512, .countdownEnd 512, .markerCheck 512 false 0, .attemptTimeout 512, .lockLoss 512] : List Instr).all (fun c => !wellFormed c) = true := by decide

theorem test_ill_formed_6 : ([
  .relockTimeout 512, .portWaitExpiry 512, .capabilitySend 512, .capabilityReceived 512 [] false,
  .capTimeout 512, .rateStepFailed 512, .widthChange 512, .portDown 512, .controlSilent 512,
  .retryUnit 512 0 .good, .retryUnit 0 4096 .good, .retryNak 512 0, .retryNak 0 4096, .replay 512 0,
  .replay 0 4096, .nakRepeat 512, .retryTimeout 512, .creditA 512 0 0 [0, 0, 0, 0, 0, 0, 0],
  .creditA 0 4096 0 [0, 0, 0, 0, 0, 0, 0], .creditA 0 0 65536 [0, 0, 0, 0, 0, 0, 0], .creditA 0 0 0 [],
  .creditB 512 0 0 [0, 0, 0, 0, 0, 0] [0, 0, 0, 0, 0, 0, 0, 0],
  .creditB 0 4096 0 [0, 0, 0, 0, 0, 0] [0, 0, 0, 0, 0, 0, 0, 0],
  .creditB 0 0 65536 [0, 0, 0, 0, 0, 0] [0, 0, 0, 0, 0, 0, 0, 0],
  .creditB 0 0 0 [] [0, 0, 0, 0, 0, 0, 0, 0], .creditB 0 0 0 [0, 0, 0, 0, 0, 0] [], .portRestart 9 0,
  .portRestart 0 512, .portFallow 9 0, .portFallow 0 512, .portRestore 9 0, .portRestore 0 512,
  .portTest 9 0, .portTest 0 512, .endTest 9 0, .endTest 0 512, .retrain 9 0, .retrain 0 512,
  .clearFailed 9 0, .clearFailed 0 512, .clearPrbs 9 0, .clearPrbs 0 512, .laneTestWrite 9 0 0,
  .laneTestWrite 0 512 0, .prbsLock 512] : List Instr).all (fun c => !wellFormed c) = true := by decide

theorem test_ill_formed_7 : ([
  .prbsLockLoss 512 0, .plotCommit 9 0 0, .plotCommit 0 4096 0, .plotActivate 9 0, .plotActivate 0 4096,
  .plotFallow 9 0, .plotFallow 0 4096, .plotFree 9 0, .plotFree 0 4096, .plotQuery 9 0, .plotQuery 0 4096,
  .plotFenceWrite 9 0 0 0, .plotFenceWrite 0 512 0 0, .plotFenceWrite 0 0 64 0, .roleOfWrite 9 0, .adopt 9,
  .standDown 9, .yieldConfigWrite 9 0 0, .yieldConfigWrite 0 3 0, .drillWatchWrite 9 0 0 0,
  .drillWatchWrite 0 12 0 0, .drillWatchWrite 0 0 9 0, .hubWatchWrite 9 0 0, .hubWatchWrite 0 12 0,
  .recCfgWrite 9 none 0, .recCfgWrite 0 (some 8) 0, .recStart 9, .recStop 9, .recReplay 9, .replayAbort 9,
  .recClear 9, .replayInstance 65536 0, .replayInstance 0 4294967296, .strikeExpiry .core 512,
  .migrationDone 108 0, .migrationDone 0 4294967296, .fieldTestStart 12, .fieldTestEnd 12 false,
  .drainTimeout .core 512, .retire 9 0 0, .retire 0 16 0, .retire 0 0 4096, .reinstate 9 0 0,
  .reinstate 0 16 0, .reinstate 0 0 4096] : List Instr).all (fun c => !wellFormed c) = true := by decide

theorem test_ill_formed_8 : ([
  .testNow 9 0 0, .testNow 0 16 0, .testNow 0 0 4096, .fltQuery 9 0 0, .fltQuery 0 16 0,
  .fltQuery 0 0 4096, .flashWrite 9 0 0 0, .flashWrite 0 2 0 0, .flashWrite 0 0 67108864 0,
  .flashWrite 0 0 4 0, .quote 9, .verifyCopy 9, .programSlot 9 0, .programSlot 0 4, .revokeSlot 9 0,
  .revokeSlot 0 4, .fieldOrder 512 frame0, .fieldOrder 0 shortFrame, .hitchLaneLock 2,
  .hitchLaneLockLoss 2, .freeze 9 0, .freeze 0 16, .thaw 9 0, .thaw 0 16, .freezeAll 9, .snapshotTaken 9,
  .selfThaw 9, .railFault 16, .avsUpdate 4096 false, .sdrefLoss 4, .sdrefReturn 4, .droopStretch 108,
  .alertClear 9 0, .railReturn 16, .pllLockLoss 205, .pllRelock 205, .flashProgramDone 2 false,
  .sowVersionReadDone 65536 0, .sowVersionReadDone 0 4294967296] : List Instr).all (fun c => !wellFormed c) = true := by decide

/-- Payloads one byte past the longest (R95) and a record one past 4 KiB. -/
theorem test_ill_formed_lengths : wellFormed (.packetTail 0 (zeros 8193) 0 0 false) = false
    ∧ wellFormed (.capabilityReceived 0 (zeros 4097) false) = false
    ∧ wellFormed (.reap 0 ⟨⟨0x20010000, 0, 0, 0⟩, zeros 8193⟩) = false := by
  simp only [wellFormed, zeros, frameOk, List.length_replicate]; decide

/-- Terms at the last value of every operand are well formed. -/
theorem test_well_formed : ([.registerWrite 8 0xFFFFFFFFFFF8 0, .packetHeader 511 hdr0, .quotaAdmit (.ingress 511 15),
    .memberEntryWrite 8 11 16383 3 0, .groupCommit 8 65535 0, .reap 511 frame0, .drillRunEnd 11 8 0 .none,
    .entryActivate 8 11 32767, .turnArm 8 11 63, .granaryAlloc (some 11) 16383 4095 15 0,
    .policerSlotWrite 8 511 15 3 0, .creditConfigWrite 8 511 (.furrow 15) 0, .recCfgWrite 8 (some 7) 0,
    .flashWrite 8 1 67108856 0, .snapshotTaken 8, .retire 8 15 4095, .xingTimeout 204 204] : List Instr).all
    wellFormed = true := by decide

theorem witness_RailsDroopAndTrip :
    inReset ready = false ∧ inReset { ready with boot := { ready.boot with porLow := true } } = true
    ∧ ({ ready with el := { ready.el with railsDown := 1024 } } : State).el.railsDown.testBit 10 = true
    ∧ avsLegal 600 = true ∧ avsLegal 750 = true ∧ inReset (atStep 6) = false ∧ 6 ≤ bootStep (atStep 6) := by
  decide

theorem witness_ClocksAndCrossings :
    (∀ q, q < 4 → ready.el.sdrefLost.testBit q = false)
    ∧ ({ ready with el := { ready.el with sdrefLost := 8 } } : State).el.sdrefLost.testBit 3 = true
    ∧ islandState (setF ready [(aIsland 204, 55, 54, 2)]) 204 = islandRunning
    ∧ islandState (setF ready [(aIsland 171, 55, 54, 2)]) 171 = islandRunning
    ∧ islandState (setF ready [(aIsland 171, 55, 54, 1)]) 171 = islandLocking
    ∧ ready.el.sdrefLost.testBit ((171 - 108) / 16) = false := by
  decide

theorem witness_SensorsAndThrottle :
    sensorState ready 60 ≠ 2 ∧ ready.el.sampled.contains 60 = false ∧ ([-320] : List Int)[0]? = some (-320)
    ∧ (let s := { setF ready [(aSensor 60, 61, 50, 1160)] with el := { ready.el with sampled := [60] } }
      sensorState s 60 ≠ 2 ∧ sensorTemp s 60 - 40 ≤ 1200 ∧ (1200 : Int) ≤ sensorTemp s 60 + 40) := by
  decide

theorem witness_TestPortAndAlert :
    tapPowered ready = true ∧ ready.boot.porLow = false
    ∧ ({ ready with boot := { ready.boot with porLow := true } } : State).boot.porLow = true := by
  decide

theorem witness_LaneTrainingAndAttempts :
    portOfLane ports 511 = some 511 ∧ silent ports = false ∧ octetRuns ports 511 = true
    ∧ portState ports 511 ≠ lsTest ∧ (List.range 10).all (fun st => laneState (lane511 st) 511 == st) = true
    ∧ laneHeld (lane511 lnRelock) 511 = false
    ∧ laneHeld { lane511 lnRelock with cores := { ready.cores with unitsOut := [(ukLane, 511)] } } 511 = true
    ∧ laneAttempt (setF (lane511 lnTrain) [(aLaneStat 511, 59, 56, 7)]) 511 < 8
    ∧ 8 ≤ laneAttempt (setF (lane511 lnTrain) [(aLaneStat 511, 59, 56, 8)]) 511 := by
  decide

theorem witness_PortBringUpAndLoss :
    portExists ports 511 = true ∧ portState ports 511 ≠ lsTest ∧ (link ports 511).phase = lsLanes
    ∧ inPhase (phaseOf { Link.empty with phase := lsCaps }) 511 lsCaps = true
    ∧ parseRecord (zeros 84) = none
    ∧ inPhase (phaseOf { Link.empty with phase := lsRateStep, stepTo := some 1 }) 511 lsRateStep = true
    ∧ linkRuns linked 511 = true
    ∧ activeSet (link (phaseOf { Link.empty with txMask := 2, txSet := 1 }) 511).txMask ≠ 1
    ∧ linkRuns ports 511 = false := by
  decide

/-- A record as R309 lays it out (the partner's own, of a device with ID 5) is one that the receiver takes. -/
theorem witness_PortBringUpAndLoss_record :
    (parseRecord (ownRecord { ports with boot := { ports.boot with deviceId := 5 } } 511)).map
      (fun r => (r.device, r.port, r.width)) = some (5, 511, 1) := by
  decide

theorem witness_RetryAndCredits :
    linkRuns linked 511 = true ∧ (link linked 511).discarding = false
    ∧ (let s := setLink linked 511 { link linked 511 with discarding := true, window := [⟨4095, []⟩] }
      (link s 511).discarding = true ∧ linkRuns s 511 = true
      ∧ (link s 511).window.any (fun u => u.seq == 4095) = true
      ∧ (link s 511).window.any (fun u => u.seq == 0) = false ∧ (link s 511).window = [⟨4095, []⟩])
    ∧ tooNarrow (setLink linked 511 { link linked 511 with cfg := bitsAt 55 51 1 }) 511 0 = true
    ∧ tooNarrow linked 511 1 = false := by
  decide

theorem witness_LinkCommands :
    cfgWidth ports 511 ≠ 0 ∧ mgmtUp ports = true ∧ isHalted ports = false
    ∧ [lsFallow, lsTest, lsForwarding].all
        (fun st => portState (setF ports [(aLinkStat 511, 63, 60, st)]) 511 == st) = true := by
  decide

theorem witness_LaneCommands :
    laneHeld ports 511 = false ∧ laneState (lane511 lnTrain) 511 ≠ lnTest
    ∧ laneState (lane511 lnFailed) 511 = lnFailed ∧ laneInTest ports 511 = false
    ∧ (let s := setF ports [(aLinkStat 511, 63, 60, lsTest), (aLaneTest 511, 59, 57, 3)]
      laneInTest s 511 = true ∧ checkerRuns s 511 = true ∧ rdb s (aLaneTest 511) 57 = true) := by
  decide

theorem witness_ForwardingCommandsAndTables :
    fwdState ready 262143 = 0 ∧ setInUse ready 4095 = false ∧ ready.fab.holds.length < 64
    ∧ fwdState (setF ready [(aFwdEntry 262143, 63, 62, 1)]) 262143 = fwdValid
    ∧ (let s := setF ready [(aFwdEntry 3, 63, 62, 1), (aFwdEntry 3, 33, 33, 1), (aFwdEntry 3, 57, 46, 4095)]
      fwdState s 3 = fwdValid ∧ setInUse s 4095 = true)
    ∧ (let s := { setF ready [(aFwdEntry 262143, 63, 62, 2)] with
          fab := { ready.fab with holds := [(262143, [⟨false, 0⟩])] } }
      fwdState s 262143 = fwdHeld ∧ (holdOf s 262143).any Hold.scanning = false ∧ occOf s 262143 = 0
      ∧ holdOf s 262143 = some ⟨false, 0⟩)
    ∧ (let s := { ready with fab := { ready.fab with holds := (List.range 64).map fun i => (i, [⟨true, 0⟩]) } }
      64 ≤ s.fab.holds.length ∧ (holdOf s 63).any Hold.scanning = true)
    ∧ (let s := { ready with fab := { ready.fab with queues := [(0, [pkt 0 (hdr 1 8 8 0 9)])] } }
      occOf s 9 = 1)
    ∧ bitsOf (bitsAt 63 57 64) 63 57 ≤ 64 := by
  decide

theorem witness_PacketHeader :
    forwarding carrier 511 = true ∧ carriesOrders carrier 511 = false
    ∧ rangeCheck carrier 511 hdr0 = some dcVersion
    ∧ (let h := hdr tWrite 9 8 0 0
      rangeCheck carrier 511 h = none ∧ lossless h.furrow = true ∧ overrun carrier 511 9 (creditsOf 8) = true)
    ∧ (let h := hdr tReap 2 8192 0 0
      rangeCheck carrier 511 h = none ∧ overrun carrier 511 2 (creditsOf 8192) = false
      ∧ typeCollective h.type = true)
    ∧ (let h := hdr tWrite 8 8192 0 0
      rangeCheck carrier 511 h = none ∧ overrun carrier 511 8 (creditsOf 8192) = false
      ∧ typeCollective h.type = false ∧ waitsOf carrier 511 8 = [] ∧ heldBack carrier 511 h = false
      ∧ routeOf carrier (some 511) h = .unroutable
      ∧ waitsOf { carrier with fab := { carrier.fab with
          waits := [(qKey 511 8, [⟨pkt 0 h, none, .quota, false⟩])] } } 511 8 ≠ []) := by
  decide

theorem witness_PacketTail :
    (rxOf (arriving .dropped hdr0) 511).map Rx.place = [.dropped]
    ∧ (let h := hdr tReap 2 8 0 0
      (rxOf (arriving .whole h) 511).map Rx.place = [.whole] ∧ tailFault h [] 0 0 true = some (dcLenmis, 0x02, 1)
      ∧ tailFault h (zeros 8) (BitVec.ofNat 32 (packetCrc h (zeros 8))) 0x0F000000 true = none)
    ∧ (let h := hdr tWrite 8 8 0 0
      let s := { arriving .placed h with
        fab := { (arriving .placed h).fab with queues := [(qKey 0 8, [pkt 0 h])] } }
      (rxOf s 511).map Rx.place = [.placed] ∧ recState s ≠ recRecording ∧ sendingPort s 0 = none
      ∧ queueHolding s 0 = some (qKey 0 8)
      ∧ tailFault h (zeros 8) (BitVec.ofNat 32 (packetCrc h (zeros 8))) 0x0F000000 true = none)
    ∧ (let w : Waiter := ⟨pkt 0 (hdr tWrite 15 8 0 0), none, .hold, false⟩
      waitsOf { carrier with fab := { carrier.fab with waits := [(qKey 511 15, [w])] } } 511 15 = [w]
      ∧ w.why = .hold ∧ w.pkt.bufs = []) := by
  decide

/-- Furrow 14 is not lossless and needs no credit; furrow 0 has a committed rate. -/
theorem witness_EgressAndRefill : hasBuckets carrier 511 = true
    ∧ (let s := setF { carrier with fab := { carrier.fab with queues := [(qKey 511 14, [pkt 7 (hdr tWrite 14 8 0 0)])] } }
        [(aSch 511 14 2, 49, 25, 9000)]
      canBegin s 511 = true ∧ chooseFurrow s 511 = some (3, 14)
      ∧ (queueOf s 511 14).map (fun k => k.hdr.furrow) = [14] ∧ isReady s = true ∧ s.fab.staged = [])
    ∧ (let s := setLink (setF { carrier with
          fab := { carrier.fab with queues := [(qKey 511 0, [pkt 7 (hdr tFieldOrder 0 8 0 0)])] } }
          [(aSch 511 0 2, 49, 25, 9000), (aSch 511 0 2, 24, 0, 9000), (aSch 511 0 0, 19, 0, 1)]) 511
          { link carrier 511 with peerRet := [(0, 1)] }
      strictFurrows.find? (fun f => eligible s 511 f && committed s 511 f) = some 0)
    ∧ canBegin carrier 511 = true ∧ chooseFurrow carrier 511 = none
    ∧ (let s := { carrier with fab := { carrier.fab with sending := [(511, [pkt 7 (hdr tWrite 14 8 0 0)])] } }
      sendingOn s 511 = some (pkt 7 (hdr tWrite 14 8 0 0)) ∧ (pkt 7 (hdr tWrite 14 8 0 0)).tailSeen = true
      ∧ unitsAfter (link s 511) (blocksOf (pkt 7 (hdr tWrite 14 8 0 0))) ≤ retryWindow s 511)
    ∧ portExists carrier 511 = true := by
  decide

/-- Port 511 FALLOW, in a device whose packet buffers grant 33 units in all. -/
def fallow511 : State := setF ports [(aLinkStat 511, 63, 60, lsFallow), (aGrnShare, 41, 21, 33)]

/-- The same after the credits of furrow 13 are set to 33 units. -/
def granted511 : State := wrf (wrf fallow511 (aCredit 511 13) 47 32 33) (aCredit 511 13) 31 16 33

theorem tget_unlisted {α : Type} (d : α) (t : Tbl α) (i : Nat) (h : ∀ kv ∈ t, i ≠ kv.1) : tget d t i = d := by
  induction t with
  | nil => rfl
  | cons kv t ih =>
    rw [tget, if_neg (h kv (List.mem_cons_self ..))]
    exact ih fun x hx => h x (List.mem_cons_of_mem _ hx)

theorem granted511_unset (a : Nat) (lo : 0x1000_0000 ≤ a) (hi : a < 0x11FF_0000) (off : 0x200 ≤ a % 65536)
    (off' : a % 65536 ≤ 0x280) : rd granted511 a = 0 := by
  have keys : granted511.regs.map Prod.fst = [0x400, 0x1010, 0x110_0000, 0x1000_0000, 0x11FF_0000, 0x11FF_0008,
    0x11FF_0268, 0x3000_0008] := by decide
  unfold rd
  rw [tget_unlisted]
  · unfold resetWord resetPrt
    rw [if_neg (by omega), if_neg (by omega), if_pos (by omega), if_neg (by omega), if_neg (by omega),
      if_neg (by omega), if_neg (by omega)]
  · intro kv h e
    have m := List.mem_map_of_mem (f := Prod.fst) h
    rw [keys] at m
    simp only [List.mem_cons, List.not_mem_nil, or_false] at m
    omega

theorem granted511_floors : grantedOf granted511 = 33 := by
  have other : ∀ p ∈ List.range 511, (losslessFurrows.map fun f => furFloor granted511 p f).sum
      + rdf granted511 (aPool p) 31 0 = 0 := by
    intro p hp
    have hp := List.mem_range.1 hp
    have z : ∀ off, 0x200 ≤ off → off ≤ 0x280 → rd granted511 (aPrt p off) = 0 := fun off h h' =>
      granted511_unset _ (by unfold aPrt; omega) (by unfold aPrt; omega) (by unfold aPrt; omega)
        (by unfold aPrt; omega)
    simp [losslessFurrows, furFloor, rdf, aCredit, aPool, z, bitsOf]
  unfold grantedOf
  rw [show List.range 512 = List.range 511 ++ [511] from List.range_succ, List.map_append, List.sum_append,
    List.map_congr_left other, List.map_const', List.sum_replicate_nat]
  decide

theorem witness_QueueSettings :
    8232 ≤ bitsOf (bitsAt 47 24 8232) 47 24
    ∧ bitsOf (bitsAt 63 56 1 ||| bitsAt 39 20 1) 63 56 ≠ 0 ∧ bitsOf (bitsAt 63 56 1 ||| bitsAt 39 20 1) 39 20 ≠ 0
    ∧ bitsOf (bitsAt 31 16 1 ||| bitsAt 15 0 1) 31 16 ≠ 0
    ∧ bitsOf (bitsAt 31 16 1 ||| bitsAt 15 0 1) 15 0 ≤ bitsOf (bitsAt 31 16 1 ||| bitsAt 15 0 1) 31 16
    ∧ bitsOf (bitsAt 39 20 7 ||| bitsAt 19 0 7) 19 0 ≤ bitsOf (bitsAt 39 20 7 ||| bitsAt 19 0 7) 39 20
    ∧ lossless 13 = true ∧ cfgWidth fallow511 511 ≠ 0 ∧ portState fallow511 511 = lsFallow
    ∧ grantedOf (wrf (wrf fallow511 (aCredit 511 13) 47 32 33) (aCredit 511 13) 31 16 33)
      ≤ rdf fallow511 aGrnShare 41 21
    ∧ portState ports 511 ≠ lsFallow := by
  rw [show wrf (wrf fallow511 (aCredit 511 13) 47 32 33) (aCredit 511 13) 31 16 33 = granted511 from rfl,
    granted511_floors]
  decide

/-- One buffer of each cluster-store class, one packet buffer of class 0 in each slice. -/
def granary : State :=
  setF { ready with grn := { ready.grn with storeCounts := [1, 1, 1] } } [(aGrnClass 0, 43, 26, 8)]

theorem pick_one (k : Nat) : Config.pick k % 1 = 0 := Nat.mod_one _

theorem one_free (s : State) (n c : Nat) (count : csCount s c = 1)
    (up : 8 * (8 + n) + c ∉ s.grn.rebuilding) (free : bufState s (some n) (csPtr n c 0) = bsFree) :
    csFreeIn s n c = some (csPtr n c 0) := by
  have p : Config.pick s.picks % 1 = 0 := Nat.mod_one _
  simp [csFreeIn, count, up, p, findFrom, free]

theorem granary_packet : freeIn granary 0 0 = some (bufPtr granary 0 0) := by
  unfold freeIn
  rw [show classCount granary 0 = 8 by rfl]
  simp only [Nat.reduceDiv, pick_one]
  decide

theorem granary_fits : csFreeAtLeast granary 11 3 0 = some (csPtr 11 0 0)
    ∧ csFreeAtLeast granary 11 1 2 = some (csPtr 11 2 0) := by
  constructor
  · rw [csFreeAtLeast, one_free _ _ _ (by decide) (by decide) (by decide)]
  · rw [csFreeAtLeast, one_free _ _ _ (by decide) (by decide) (by decide)]

theorem granary_packets : freeAtLeast granary 0 7 0 = some (bufPtr granary 0 0) := by
  have h : freeInSlices granary 0 8 0 = some (bufPtr granary 0 0) := by
    rw [freeInSlices]; rw [Nat.zero_mod, granary_packet]
  rw [freeAtLeast, h]

theorem witness_GranaryAllocation :
    (∃ p, csFreeAtLeast granary 11 (3 - csFitClass 4096) (csFitClass 4096) = some p)
    ∧ (∃ p, csFreeAtLeast granary 11 (3 - csFitClass 65536) (csFitClass 65536) = some p)
    ∧ csFreeAtLeast ready 11 (3 - csFitClass 65536) (csFitClass 65536) = none
    ∧ (∃ p, freeAtLeast granary (tget 0 granary.fab.rr (whoOf 5)) (7 - fitClass 256) (fitClass 256) = some p
      ∧ quotaOk granary 4095 1 (2 ^ ptrClass p) = true)
    ∧ waitsForBuffer granary 5 1 = false ∧ granary.fab.atSource = []
    ∧ waitsForBuffer { granary with fab := { granary.fab with
        waits := [(qKey 511 8, [⟨pkt 0 (hdr tWrite 8 8 0 0), none, .buffer, false⟩])] } } 0x3FF 8 = true := by
  refine ⟨⟨csPtr 11 0 0, ?_⟩, ⟨csPtr 11 2 0, ?_⟩, by decide, ⟨bufPtr granary 0 0, ?_, by decide⟩, by decide,
    by decide, by decide⟩
  · exact granary_fits.1
  · exact granary_fits.2
  · exact granary_packets

theorem witness_OwnerClears :
    granary.fab.atSource = [] ∧ ptrError granary none 1 = some 0x40
    ∧ ptrError granary none (bufPtr granary 0 7) = none ∧ bufState granary none (bufPtr granary 0 7) = 0
    ∧ (let p := bufPtr granary 0 7
      let s := setF granary [(statusAddr none p, 63, 62, 1), (statusAddr none p, 45, 32, 0x205)]
      ptrError s none p = none ∧ bufState s none p = bsPrivate ∧ rdf s (statusAddr none p) 45 32 = 0x205
      ∧ tget [] s.grn.chains (bufKey none p) = [] ∧ s.grn.bad.contains (bufKey none p) = false
      ∧ (ownersOf s none p).contains 5 = false)
    ∧ bufState (setF granary [(statusAddr none 0, 63, 62, 3)]) none 0 = 3
    ∧ (let p := csPtr 11 2 0
      let s := setF { granary with grn := { granary.grn with csMasks := [(1024 * 11 + 9, 3)] } }
        [(statusAddr (some 11) p, 63, 62, 2), (statusAddr (some 11) p, 45, 32, 9)]
      ptrError s (some 11) p = none ∧ bufState s (some 11) p = bsShared ∧ maskBit 1 = some 1
      ∧ (ownersOf s (some 11) p).contains 1 = true
      ∧ (recMask s (some 11) (rdf s (statusAddr (some 11) p) 45 32)).testBit 1 = true
      ∧ recMask s (some 11) (rdf s (statusAddr (some 11) p) 45 32) ≠ 2 ^ 1) := by
  decide

theorem witness_Gleaner :
    rdb ready aGleanCfg 63 = true ∧ rdb (setF ready [(aGleanCfg, 63, 63, 0)]) aGleanCfg 63 = false
    ∧ ready.grn.baselineNext = true ∧ ready.grn.flags = []
    ∧ (let v : Word := bitsAt 62 47 60000 ||| bitsAt 43 24 1000000 ||| bitsAt 19 0 1
      bitsOf v 62 47 ≤ 60000 ∧ bitsOf v 43 24 ≤ 1000000 ∧ 1 ≤ bitsOf v 19 0) := by
  decide

/-- A REAP group that cluster 11 owns for plot 4,095, a chunk of which one member's contribution is complete, and
an ACTIVE entry of that plot at stack 11, whose advance copies are enabled from reset. -/
def waiting : State :=
  let s := setF granary [(aGroup 5 0, 63, 62, 1), (aGroup 5 0, 51, 40, 4095), (aGroup 5 0, 3, 0, 11),
    (aEntry 11 32767 0, 63, 61, 1), (aEntry 11 32767 0, 57, 52, 4), (aEntry 11 32767 0, 51, 40, 4095),
    (aEntry 11 32767 3, 63, 33, 256)]
  { s with bnd := { s.bnd with
      runs := [(runKey 5 0, [{ newRun 5 0 0 0 false with
        chunks := [(0, { Chunk.empty with contribs := [⟨0, 1, [], true, []⟩], order := [0] })] }])] } }

theorem witness_AdvanceSowing :
    advMay waiting 11 4095 = true ∧ advNext waiting 11 4095 = some 32767
    ∧ csFreeAtLeast waiting 11 2 1 = some (csPtr 11 1 0)
    ∧ (let s := { waiting with grn := { waiting.grn with storeCounts := [] } }
      advMay s 11 4095 = true ∧ advNext s 11 4095 = some 32767 ∧ csFreeAtLeast s 11 2 1 = none)
    ∧ advMay ready 11 4095 = false ∧ clusterUp ready 11 = true
    ∧ bitOf (bitsAt 63 63 1 ||| bitsAt 62 59 15) 63 = true
    ∧ 1 ≤ bitsOf (bitsAt 63 63 1 ||| bitsAt 62 59 1) 62 59 := by
  refine ⟨by decide, by decide, ?_, by decide, by decide, by decide, by decide, by decide⟩
  rw [csFreeAtLeast, one_free _ _ _ (by decide) (by decide) (by decide)]

/-- DEF_SIG of the leaf's group, and its words 1 to 4 staged on path 0. -/
def leafSig : Nat := defSigOf (groupOf (leafWords 0 ++ [0, 0, 0]))
def stagedLeaf : State := setStage plotted 0 ⟨aGroup 65535 0, true, 0x1E, leafWords leafSig ++ [0, 0, 0]⟩

/-- A frozen entry of plot 4,095 (R166), its words 1 to 4 staged on path 0 for entry 32,767 of stack 11. -/
def entryWord : Word := bitsAt 59 59 1 ||| bitsAt 57 52 4 ||| bitsAt 51 40 4095
def stagedFbk : State := setStage plotted 0
  ⟨aEntry 11 32767 0, true, 0x1E, [entryWord, 0, 0, bitsAt 63 33 256, 0, 0, 0, 0]⟩

theorem witness_EntryCommits_group :
    (let e := mergeEntry groupFields (rdEntry stagedLeaf (aGroup 65535 0) 8)
        (stagedEntry stagedLeaf 0 (aGroup 65535 0) ((leafWords 0).getD 0 0));
      groupRefusal (dropStage stagedLeaf 0) 65535 e = 0 ∧ (groupOf e).state = gsFree)
    ∧ (let s := setF stagedLeaf [(aGroup 65535 0, 63, 62, 2)]
      let e := mergeEntry groupFields (rdEntry s (aGroup 65535 0) 8)
        (stagedEntry s 0 (aGroup 65535 0) ((leafWords 0).getD 0 0))
      groupRefusal (dropStage s 0) 65535 e = 0 ∧ (groupOf e).state = gsFallow)
    ∧ (let e := mergeEntry groupFields (rdEntry ready (aGroup 65535 0) 8) (stagedEntry ready 0 (aGroup 65535 0) 0)
      groupRefusal (dropStage ready 0) 65535 e ≠ 0) := by
  decide

theorem witness_EntryCommits_plot_and_entry :
    plotRefusal ready 4095
      (mergeEntry plotFields (rdEntry ready (aPlot 4095 0) 8) (stagedEntry ready 0 (aPlot 4095 0) plotWord)) = 0
    ∧ plotRefusal ready 0
      (mergeEntry plotFields (rdEntry ready (aPlot 0 0) 8) (stagedEntry ready 0 (aPlot 0 0) plotWord)) ≠ 0
    ∧ (let e := mergeEntry fbkFields (rdEntry stagedFbk (aEntry 11 32767 0) 8)
        (stagedEntry stagedFbk 0 (aEntry 11 32767 0) entryWord)
      entryRefusal (dropStage stagedFbk 0) 11 32767 e = 0 ∧ fbState stagedFbk 11 32767 = esFree)
    ∧ (let s := setF stagedFbk [(aEntry 11 32767 0, 63, 61, 2)]
      let e := mergeEntry fbkFields (rdEntry s (aEntry 11 32767 0) 8) (stagedEntry s 0 (aEntry 11 32767 0) entryWord)
      entryRefusal (dropStage s 0) 11 32767 e = 0 ∧ fbState s 11 32767 = esFallow)
    ∧ entryRefusal ready 11 32767 (mergeEntry fbkFields (rdEntry ready (aEntry 11 32767 0) 8)
      (stagedEntry ready 0 (aEntry 11 32767 0) 0)) ≠ 0 := by
  decide

/-- Group 65,535 in a state, with no run. -/
def groupIn (st : Nat) : State := setF ready [(aGroup 65535 0, 63, 62, st)]

theorem witness_GroupCommands :
    (groupAt (groupIn 2) 65535).state = gsFallow ∧ runsOf (groupIn 2) 65535 = []
    ∧ (groupAt (groupIn 1) 65535).state ≠ gsFree ∧ (groupAt ready 65535).state = gsFree
    ∧ runsOf waiting 5 ≠ [] ∧ (groupAt waiting 5).state ≠ gsFallow := by
  decide

theorem witness_MembersAndScales :
    groupsOnMember ready 11 16383 = [] ∧ bitsOf (bitsAt 63 62 2 ||| bitsAt 51 35 65536) 63 62 ≤ 2
    ∧ bitsOf (bitsAt 63 62 2 ||| bitsAt 51 35 65536) 51 35 = 65536 ∧ (8 : Word).toNat % 8 = 0
    ∧ (let s := setF waiting [(aGroup 5 3, 9, 0, 1), (aGroup 5 4, 63, 50, 16383)]
      5 ∈ groupsOnMember s 11 16383 ∧ (groupAt s 5).state = gsActive)
    ∧ (groupAt (groupIn 2) 65535).state = gsFallow ∧ bitsOf (bitsAt 61 57 16) 61 57 ≤ 16
    ∧ (groupAt ready 65535).state ≠ gsFallow := by
  decide

theorem witness_PlotCommands :
    plotState (setF ready [(aPlot 4095 0, 63, 62, 2)]) 4095 = psFallow
    ∧ plotEmpty (setF ready [(aPlot 4095 0, 63, 62, 2)]) 4095 = true
    ∧ plotState (setF ready [(aPlot 4095 0, 63, 62, 1)]) 4095 = psActive ∧ plotState ready 4095 = psFree
    ∧ plotEmpty waiting 4095 = false
    ∧ cfgWidth ports 511 ≠ 0 ∧ rdb (setF ports [(aCable 511, 59, 59, 1)]) (aCable 511) 59 = true
    ∧ rdb ports (aCable 511) 59 = false ∧ bitOf (1 : Word) 0 = true := by
  decide

theorem witness_HeadlandRole :
    (let s := setF ready [(aRole, 63, 61, 3), (aRole, 60, 43, 7), (aFwdEpoch, 31, 0, 1)];
      rdb s aRole 61 = true ∧ roleState s ≠ roleServing ∧ roleState s = roleStandby ∧ rdf s aRole 60 43 ≠ 0x3FFFF
      ∧ rd s aFwdEpoch ≠ 0)
    ∧ (let s := setF ready [(aRole, 61, 61, 1)]
      rdb s aRole 61 = true ∧ roleState s = roleServing ∧ roleState s ≠ roleStandby)
    ∧ (let s := setF ready [(aRole, 63, 61, 3)]
      roleState s = roleStandby ∧ rdf s aRole 60 43 = 0x3FFFF)
    ∧ (let s := setF ready [(aRole, 63, 61, 3), (aRole, 60, 43, 7)]
      rdf s aRole 60 43 ≠ 0x3FFFF ∧ rd s aFwdEpoch = 0)
    ∧ rdb ready aRole 61 = false := by
  decide

theorem witness_YieldMaps :
    isReady (atStep 1) = false ∧ isReady ready = true ∧ mapRuns ready = false
    ∧ (let s := { carrier with
          fab := { carrier.fab with epochPorts := [511], hinted := [511] },
          yld := { carrier.yld with cfg := bitsAt 63 63 1 ||| bitsAt 62 55 2 } }
      mapRuns s = true ∧ s.yld.epochs + 1 < bitsOf s.yld.cfg 62 55 ∧ 511 ∈ s.fab.epochPorts
      ∧ forwarding s 511 = true ∧ 511 ∈ s.fab.hinted)
    ∧ bitsOf (bitsAt 63 63 1 ||| bitsAt 62 55 1) 62 55 ≤ 0 + 1 ∧ (0x2_0000 : Word).toNat % 0x2_0000 = 0 := by
  decide

/-- A recorder in a state, with stack 11 and the block count given. -/
def recorder (st blocks : Nat) : State :=
  { setF ready [(aRecStat, 63, 60, st)] with
    rcd := { ready.rcd with mask := 0x800, blocks := blocks, body := zeros 65472, replaySeq := [(65535, 7)] } }

theorem witness_RecorderCommands :
    recState ready ≠ recRecording ∧ recState ready ≠ recReplaying ∧ granary.grn.captureMiB = 0
    ∧ ({ granary with grn := { granary.grn with captureMiB := 1 } } : State).grn.captureMiB ≠ 0
    ∧ recState (recorder recRecording 0) = recRecording ∧ recState (recorder recReplaying 0) = recReplaying
    ∧ (let s := { setF ready [(aRecStat, 63, 60, recFull)] with rcd := { ready.rcd with mask := 0xFFF } }
      replayRefusal s (keptEntries s) = 0)
    ∧ replayRefusal ready (keptEntries ready) ≠ 0
    ∧ (let v : Word := bitsAt 63 62 1 ||| bitsAt 60 49 1 ||| bitsAt 32 16 65536
      bitsOf v 63 62 ≠ 3 ∧ bitsOf v 60 49 ≠ 0 ∧ bitsOf v 32 16 ≤ 65536 ∧ bitsOf v 32 16 ≠ 0) := by
  decide

theorem witness_JournalAndReplay :
    journalStacks (recorder recRecording 0) ≠ [] ∧ blockBody ≤ (recorder recRecording 0).rcd.body.length
    ∧ (recorder recRecording 0).rcd.blocks % Nat.max 1 (totalBlocks (recorder recRecording 0)) + 1
      ≠ totalBlocks (recorder recRecording 0)
    ∧ (recorder recRecording 49151).rcd.blocks % Nat.max 1 (totalBlocks (recorder recRecording 49151)) + 1
      = totalBlocks (recorder recRecording 49151)
    ∧ rdb (recorder recRecording 49151) aRecCfg 61 = false
    ∧ (recorder recReplaying 0).rcd.replaySeq.find? (fun kv => kv.1 == 65535) = some (65535, 7)
    ∧ recState (recorder recReplaying 0) = recReplaying := by
  refine ⟨by decide, ?_, by decide, by decide, by decide, by decide, by decide⟩
  exact Nat.le_of_eq (List.length_replicate).symm

/-- Group 8 frozen by path 3. -/
def frozen8 : State := setF ready [(aSnapGroup 8 0, 63, 63, 1), (aSnapGroup 8 0, 62, 59, 3)]

theorem witness_Snapshots :
    heldByOther ready 15 8 = false ∧ (∀ g, g ≤ 8 → heldByOther ready 15 g = false)
    ∧ heldByOther frozen8 0 8 = true ∧ heldByOther frozen8 3 8 = false ∧ regsWf frozen8.regs = true
    ∧ frozen frozen8 8 = true ∧ frozen8.mg.taken.contains 8 = false := by
  refine ⟨by decide, fun g h => ?_, by decide, by decide, by decide, by decide, by decide⟩
  have : (List.range 9).all (fun g => heldByOther ready 15 g == false) = true := by decide
  have := List.all_eq_true.1 this g (List.mem_range.2 (by omega))
  simpa using this

def blank : Run := newRun 5 0 0 0 false

/-- Member 1's contribution has one part of 512 bytes so far. -/
def oneOfTwo : Run :=
  { blank with chunks := [(0, { Chunk.empty with contribs := [⟨1, 1, zeros 512, false, []⟩] })] }

theorem witness_CollectivePackets :
    (groupAt ready 5).state = gsFree ∧ waitsOf ready 511 2 = []
    ∧ waitsOf { ready with fab := { ready.fab with
        waits := [(qKey 511 2, [⟨pkt 0 hdr0, none, .opening, false⟩])] } } 511 2 ≠ []
    ∧ memberOnPort (coll 0 0 0 0 0 0 blank) (groupAt (coll 0 0 0 0 0 0 blank) 5) 17 = none
    ∧ (groupAt (coll 0 0 0 0 0 0 blank) 5).role = roleRoot
    ∧ ([(tReap, 2), (tReapDeferred, 4), (tReapExpress, 6), (tSow, 3), (tSowExpress, 6), (tSowRequest, 2), (tCompletion, 1),
        (tVerdict, 1)].all fun x => (collFrame x.1 x.2 0 0 ready []).hdr.type == x.1) = true := by
  decide

/-- Whether a part of a contribution meets what the statement on parts asks, for the group's kind of REAP. -/
def partMeets (s : State) (r : Run) (fr : Frame) (type : Nat) : Bool :=
  let h := fr.hdr
  let g := groupAt s 5
  h.type == type && waitsOf s 511 h.furrow == [] && findRun s h.group h.runNo == some r
    && runOf s (keyOf r) == some r && r.group == h.group && r.state == .opened && g.state != gsFree
    && memberOnPort s g 511 == some 1 && carried s g (some 1) h fr.payload && h.signature == sigOf g r.seq
    && h.tag == r.tag && h.rank == (memberN s g 1).rankLo
    && !partWrong s r g 1 h.chunk h fr.payload.length && !sheafed g

theorem witness_PartsAndPacketsOfRuns_parts :
    partMeets (coll 0 0 0 0 0 0 oneOfTwo) oneOfTwo
      (collFrame tReap 2 0 1 (coll 0 0 0 0 0 0 oneOfTwo) (zeros 256)) tReap = true
    ∧ partMeets (coll 0 0 0 1 0 0 oneOfTwo) oneOfTwo
      (collFrame tReapDeferred 4 0 1 (coll 0 0 0 1 0 0 oneOfTwo) (zeros 256)) tReapDeferred = true
    ∧ partMeets (coll 0 0 1 0 0 0 oneOfTwo) oneOfTwo
      (collFrame tReapExpress 6 0 1 (coll 0 0 1 0 0 0 oneOfTwo) (zeros 256)) tReapExpress = true
    ∧ (contribOf (chunkOf oneOfTwo 0) 1).isSome = true
    ∧ (let s := coll 0 0 0 0 0 0 blank
      let g := groupAt s 5
      let fr := collFrame tReap 2 0x8000 0 s (zeros 256)
      let fr := { fr with hdr := { fr.hdr with w1 := 1 } }
      partMeets s blank fr tReap = true ∧ g.express = false ∧ fr.hdr.first = true ∧ fr.hdr.chunk = 1
      ∧ admitUnits s blank g 1 (csUnitsFor (contribSize s blank g (memberN s g 1) 1).max) = false) := by
  decide

/-- Whether a packet of a run meets what the statements on SOW, requests, notices and verdicts share. -/
def runMeets (s : State) (r : Run) (fr : Frame) (type : Nat) : Bool :=
  let h := fr.hdr
  let g := groupAt s 5
  h.type == type && waitsOf s 511 h.furrow == [] && findRun s h.group h.runNo == some r
    && runOf s (keyOf r) == some r && r.group == h.group && r.state == .opened && g.state != gsFree
    && h.signature == sigOf g r.seq && h.tag == r.tag

theorem witness_PartsAndPacketsOfRuns_sow :
    ([(tSow, 3, 0), (tSowExpress, 6, 1)].all fun x =>
      let r := { blank with state := .opened }
      let s := setF (coll 0 2 x.2.2 0 0 511 r) [(aMember 11 16383 0, 60, 52, 17)]
      let fr := collFrame x.1 x.2.1 0x8000 0 s (zeros 256)
      let g := groupAt s 5
      runMeets s r fr x.1 && r.code == 0 && memberOnPort s g 511 == none && g.role != roleRoot
        && g.parentPort == 511 && carried s g none fr.hdr fr.payload && decide (fr.hdr.chunk < chunkCount g)
        && fr.hdr.part == tget 0 r.sowNext fr.hdr.chunk && fr.hdr.first == decide (fr.hdr.part = 0)
        && !fr.hdr.last) = true := by
  decide

theorem witness_PartsAndPacketsOfRuns_children :
    (let s := coll 3 0 0 0 1 0 blank;
      let fr := collFrame tSowRequest 2 0 0 s []
      let g := groupAt s 5
      runMeets s blank fr tSowRequest = true ∧ memberOnPort s g 511 = some 1
      ∧ carried s g (some 1) fr.hdr fr.payload = true ∧ fr.hdr.rank = (memberN s g 1).rankLo
      ∧ contributes (memberN s g 1) = true ∧ contributes (memberN s g 0) = true ∧ 0 < g.members)
    ∧ (let s := coll 0 0 0 0 1 0 blank
      let fr := collFrame tCompletion 1 0 0 s ([0, 0, 0, 1] ++ zeros 36)
      let g := groupAt s 5
      runMeets s blank fr tCompletion = true ∧ carried s g (some 1) fr.hdr fr.payload = true
      ∧ bitsOf (wordAt (wordsOfLe 5 fr.payload) 0) 7 0 = 0 ∧ 0 ∈ childrenOf s g)
    ∧ (let s := coll 5 0 0 0 1 0 blank
      let fr := collFrame tVerdict 1 0xC000 0 s (zeros 64)
      let g := groupAt s 5
      runMeets s blank fr tVerdict = true ∧ carried s g (some 1) fr.hdr fr.payload = true ∧ fr.hdr.chunk = 0
      ∧ fr.hdr.first = true ∧ fr.hdr.last = true ∧ fr.hdr.part = 0 ∧ tget [] blank.verdicts 1 = []
      ∧ 1 ≠ ownSlot ∧ tget [] blank.verdicts ownSlot = []) := by
  decide

/-- What a packet of a run does next: none it is handled, else what it waits for. -/
def waitOf : CollRes → Option WaitWhy
  | .done _ => none
  | .wait _ why => some why

/-- Two runs of the group are open, as many as it may have. -/
def fullGroup : State :=
  let s := setF (coll 0 0 0 0 0 0 blank) [(aGroup 5 5, 63, 32, 2)]
  { s with bnd := { s.bnd with runs := [(runKey 5 0, [blank]), (runKey 5 1, [{ blank with seq := 1 }])] } }

theorem witness_CollectiveTimers_waits :
    (let s := coll 0 0 0 0 0 0 blank;
      let w : Waiter := ⟨pkt 0 (collFrame tReap 2 0x8000 0 s (zeros 256)).hdr, none, .contribution, false⟩
      waitOf (collPacket s 511 { w.pkt with payload := zeros 256 }) = some .contribution)
    ∧ waitOf (collPacket ready 511 (pkt 0 hdr0)) = none
    ∧ waitOf (collPacket fullGroup 511
      (pkt 0 ⟨(hdr tReap 2 8 0x8000 0).w0, 0, bitsAt 63 48 5 ||| bitsAt 47 32 2, 0⟩)) = some .opening
    ∧ (waitsOf { ready with fab := { ready.fab with
        waits := [(qKey 511 15, [⟨pkt 0 hdr0, none, .quota, false⟩])] } } 511 15).map Waiter.why = [.quota] := by
  decide

theorem witness_CollectiveTimers_runs :
    (let s := coll 0 0 0 0 0 0 blank;
      runOf s (runKey 5 0) = some blank ∧ blank.state = .opened
      ∧ (missingMembers s blank (groupAt s 5)).map (fun m => m.rankLo) = [0, 1])
    ∧ runOf ready (runKey 65535 7) = none
    ∧ (({ blank with state := .failed } : Run).state = .failed)
    ∧ (let c := { Chunk.empty with copies := [(0, 2), (1, 2)] }
      let r := { blank with chunks := [(sowKey 0, c)] }
      let s := setF (coll 0 0 0 0 0 0 r) [(aMember 11 16383 0, 60, 52, 0)]
      let s := { s with fab := { s.fab with leftCopies := [(0, [⟨runKey 5 0, 0, 0, []⟩])] } }
      (tget [] s.fab.leftCopies 0).map LeftCopy.run = [runKey 5 0] ∧ s.fab.atSource = []
      ∧ runOf s (runKey 5 0) = some r ∧ (∀ kv ∈ r.chunks, ∀ x ∈ kv.2.copies, x.2 ≠ 1)
      ∧ tget 0 (chunkOf r (sowKey 0)).copies 1 = 2
      ∧ (memberN s (groupAt s r.group) 1).port = (memberN s (groupAt s r.group) 0).port)
    ∧ (let c := { Chunk.empty with stage := .checked, result := some ⟨[], [], [], none, false⟩ }
      let r := { blank with chunks := [(sowKey 0, c)] }
      let s := coll 0 0 0 0 0 0 r
      (chunkOf r (sowKey 0)).stage = .checked
      ∧ (runOf (placeSow s (runKey 5 0) 0) (runKey 5 0)).map (fun r => (chunkOf r 0).stage) = some .placed)
    ∧ (let r := { blank with chunks := [(0, { Chunk.empty with stage := .judging })] }
      runOf (coll 0 0 0 0 0 0 r) (runKey 5 0) = some r ∧ (chunkOf r 0).stage = .judging
      ∧ (chunkOf r 0).judge = none) := by
  decide

/-- A landing run of a REAP_TO_BIN group whose shard an ACTIVE entry of its stack holds. -/
def landingRun : State :=
  setF (coll 1 0 0 0 0 0 { blank with landing := .waiting })
    [(aEntry 11 32767 0, 63, 61, 1), (aEntry 11 32767 0, 57, 52, 4), (aEntry 11 32767 0, 51, 40, 4095),
      (aEntry 11 32767 3, 63, 33, 512)]

theorem landingRun_record : ∃ r, findRecord landingRun 11 = some r := by
  have keys : landingRun.regs.map Prod.fst = [0x400, 0x1010, 0x110_0000, 0x6D17_FFE0, 0x7000_0140, 0x7000_0148,
    0x7000_0150, 0x7000_0158, 0x7000_0160, 0x7000_0168, 0x8BAF_FFC0, 0x8BAF_FFD8] := by decide
  have free : ∀ r, r < 4096 → recStateOf landingRun 11 r = 0 := by
    intro r h
    have z : rd landingRun (aLanding 11 r 0) = 0 := by
      unfold rd
      rw [tget_unlisted]
      · unfold resetWord resetStack aLanding aFbk aStack
        rw [if_neg (by omega), if_neg (by omega), if_neg (by omega), if_neg (by omega), if_neg (by omega),
          if_neg (by omega), if_neg (by omega), if_neg (by omega), if_neg (by omega), if_pos (by omega),
          if_neg (by omega), if_neg (by omega), if_neg (by omega)]
      · intro kv m e
        have m := List.mem_map_of_mem (f := Prod.fst) m
        rw [keys] at m
        simp only [List.mem_cons, List.not_mem_nil, or_false, ← e, aLanding, aFbk, aStack] at m
        omega
    rw [recStateOf, rdf, z]; rfl
  unfold findRecord
  rw [findFrom, if_pos (by rw [free _ (Nat.mod_lt _ (by decide))]; rfl)]
  exact ⟨_, rfl⟩

theorem witness_CollectiveTimers_landing :
    runOf landingRun (runKey 5 0) = some { blank with landing := .waiting }
    ∧ ∃ s' recs, reserveLanding landingRun 5 0 0 (groupAt landingRun 5) = .reserved s' recs := by
  refine ⟨by decide, ?_⟩
  obtain ⟨r, hr⟩ := landingRun_record
  have es : landingEntries landingRun (groupAt landingRun 5) = [32767] := by decide
  have own : (groupAt landingRun 5).owner = 11 := by decide
  have tells : entrySays landingRun 11 32767 0 = .now := by decide
  have meet : recordMeets landingRun 11 32767 (groupAt landingRun 5) = false := by decide
  refine ⟨makeRecord landingRun 11 r 32767 5 0 (groupAt landingRun 5), [r], ?_⟩
  unfold reserveLanding
  simp only [es, own, List.map_cons, List.map_nil, tells, List.filter_cons, List.filter_nil, meet, makeRecords, hr]
  rfl

/-- Core 8 of cluster 11 runs role A of chunk 0 of the group's run, with a core B still to come, under program 7. -/
def drilling : State :=
  let c := { Chunk.empty with stage := .running, cores := [107, 106] }
  let s := coll 0 0 0 0 0 0 { blank with chunks := [(0, c)] }
  { s with cores := { s.cores with jobs := [(107, [.run (runKey 5 0) 0 0])] },
           boot := { s.boot with programs := [⟨7, 1, false, 2, 2, true⟩] } }

theorem witness_DrillRunsAndWatches :
    jobOf drilling 107 = some (.run (runKey 5 0) 0 0)
    ∧ (runOf drilling (runKey 5 0)).map (fun r => ((chunkOf r 0).stage, (chunkOf r 0).cores.contains 107,
        decide ((chunkOf r 0).results.length + 1 < (chunkOf r 0).cores.length))) = some (.running, true, true)
    ∧ coreState drilling 107 ≠ csFallow ∧ tget 0 drilling.cores.migrated 107 = 0
    ∧ programNo drilling (groupAt drilling 5) = 7 ∧ rdf drilling (aDrl 107 8) 63 52 ≠ 7
    ∧ (let s := setF drilling [(aDrl 107 8, 63, 52, 7), (aDrl 107 8, 51, 35, 256)]
      rdf s (aDrl 107 8) 63 52 = programNo s (groupAt s 5)
      ∧ rdf s (aDrl 107 8) 51 35 = elemsOfChunk (groupAt s 5) 0 ∧ rdf s (aDrl 107 8) 34 25 = 0
      ∧ rdf s (aDrl 107 0x10) 14 0 = 0)
    ∧ watchOpen (setF drilling [(aHubWatch 11, 63, 48, 5)]) 11 = true ∧ watchOpen ready 11 = false := by
  decide

theorem witness_WindowsHoldsAndScrub :
    0xE_FFFF_FFF8 / 8 * 8 < userArea ∧ entriesAt ready 11 0xE_FFFF_FFF8 = [] ∧ ¬ userArea < userArea
    ∧ (let s := setF waiting [(aEntry 11 32767 0, 63, 61, 2)]
      entriesAt s 11 0 = [32767] ∧ fbState s 11 32767 = esFallow)
    ∧ entriesAt waiting 11 0 = [32767] ∧ fbState waiting 11 32767 ≠ esFallow
    ∧ bitOf (4 : Word) 2 = true ∧ pendingFinite ready 11 1023 = true
    ∧ pendingFinite (setF ready [(aHyp 11 1023 15, 31, 0, 0x7F80_0000)]) 11 1023 = false
    ∧ runningPass ready 11 = none
    ∧ (let s := { ready with stk := { ready.stk with
          slotHolds := [⟨11, 32767, 0, runKey 65535 9⟩],
          passes := [(11, [{ Pass.empty 4095 3 with started := true, left := [32767] }])] } }
      runningPass s 11 = some { Pass.empty 4095 3 with started := true, left := [32767] }
      ∧ (∀ h ∈ s.stk.slotHolds, h.stack = 11 → h.entry = 32767 → h.run = runKey 65535 9)) := by
  decide

/-- Entry 32,767 of stack 11 in a state, of plot 4,095, with 256 BF16 elements. -/
def entryIn (st : Nat) : State :=
  setF ready [(aEntry 11 32767 0, 63, 61, st), (aEntry 11 32767 0, 57, 52, 4), (aEntry 11 32767 0, 51, 40, 4095),
    (aEntry 11 32767 3, 63, 33, 256)]

/-- That device with a pass in stack 11. -/
def passing (s : State) (p : Pass) : State := { s with stk := { s.stk with passes := [(11, [p])] } }
def begunPass : Pass := { Pass.empty 4095 3 with started := true, begun := true, left := [32767] }

theorem witness_TillerAndPlotWideCommands :
    fbState (entryIn 2) 11 32767 = esFallow ∧ tillersUp (entryIn 2) 11 ≠ [] ∧ inRunning (entryIn 2) 11 32767 = false
    ∧ fbState (entryIn 1) 11 32767 = esActive ∧ inRunning (passing (entryIn 1) begunPass) 11 32767 = true
    ∧ fbState ready 11 32767 ≠ esFallow ∧ fbState ready 11 32767 ≠ esActive
    ∧ entriesOf ready 11 = [] ∧ 32767 ∈ entriesOf (entryIn 1) 11 ∧ (fbAt (entryIn 1) 11 32767).plot = 4095
    ∧ (fbAt (entryIn 1) 11 32767).tensor = rdf (entryIn 1) (aTilArg 11) 63 33
    ∧ (fbAt (entryIn 1) 11 32767).version = rdf (entryIn 1) (aTilArg 11) 31 0
    ∧ (let s := setF (entryIn 1) [(aEntry 11 32767 4, 31, 0, 6), (aTilArg 11, 31, 0, 5)]
      (fbAt s 11 32767).version ≠ 5 ∧ (fbAt s 11 32767).olderHeld = false)
    ∧ (let s := setF (entryIn 1) [(aEntry 11 32767 4, 31, 0, 6), (aTilArg 11, 31, 0, 5), (aEntry 11 32767 5, 63, 63, 1)]
      (fbAt s 11 32767).version = rdf s (aTilArg 11) 31 0 + 1 ∧ (fbAt s 11 32767).olderHeld = true
      ∧ entriesOf s 11 = [32767]) := by
  decide

theorem witness_UpdatePasses :
    runningPass ready 11 = none ∧ passesOf ready 11 = []
    ∧ (passesOf (passing (entryIn 1) (Pass.empty 4095 3)) 11).find?
        (fun p => !passHeld (passing (entryIn 1) (Pass.empty 4095 3)) 11 p.plot) = some (Pass.empty 4095 3)
    ∧ passEntries (entryIn 1) 11 4095 = [32767]
    ∧ (let s := setF (entryIn 1) [(aHyp 11 0 11, 2, 2, 1), (aHyp 11 0 12, 63, 32, 3)]
      rdb s (aHyp 11 (fbAt s 11 32767).hyp 11) 2 = true ∧ rdf s (aHyp 11 (fbAt s 11 32767).hyp 12) 63 32 ≤ 3)
    ∧ runningPass (passing (entryIn 1) begunPass) 11 = some begunPass ∧ tillerUp (entryIn 1) 11 15 = true
    ∧ begunPass.groupsDone < groupTotal (fbAt (entryIn 1) 11 32767) ∧ begunPass.second = none
    ∧ tillerUp (entryIn 1) 11 16 = false
    ∧ (let p := { begunPass with groupsDone := 2 }
      runningPass (passing (entryIn 1) p) 11 = some p ∧ p.groupsDone = groupTotal (fbAt (entryIn 1) 11 32767)
      ∧ isFp8 (fbAt (entryIn 1) 11 32767) = false)
    ∧ (let s := setF (entryIn 1) [(aEntry 11 32767 0, 57, 52, 5), (aEntry 11 3 0, 63, 61, 1), (aEntry 11 3 0, 57, 52, 6)]
      isFp8 (fbAt s 11 32767) = true ∧ fp8Of s 11 (fbAt s 11 32767).tensor [3] ≠ []
      ∧ groupTotal (fbAt s 11 32767) = 2)
    ∧ (let p := { begunPass with begun := false, left := [], second := some 9, deferred := [(32767, 1)] }
      runningPass (passing ready p) 11 = some p ∧ p.second = some 9 ∧ (∀ kv ∈ p.deferred, kv.1 < 32768)) := by
  decide

/-- Plot 4,095's verdict entry in a state, with the plot's VERDICT group 5. -/
def plotIn (st : Nat) : State :=
  setF (coll 5 0 0 0 1 0 blank) [(aVerdict 4095 0, 63, 61, st), (aVerdict 4095 0, 44, 29, 5)]

theorem witness_VerdictEntries :
    localDue ready 4095 = false ∧ localDue (plotIn vsCollecting) 4095 = true
    ∧ [vsFree, vsFallow, vsVoting].all (fun st => vrdState (plotIn st) 4095 == st) = true
    ∧ bitsOf (rd (plotIn vsVoting) (aVerdict 4095 0)) 52 29 = rdf (plotIn vsVoting) (aVerdict 4095 0) 52 29
    ∧ (let v : Word := bitsAt 59 57 1 ||| bitsAt 52 45 0x20
      1 ≤ bitsOf v 59 57 ∧ lossExpOk (bitsOf v 52 45) = true
      ∧ bitsOf v 52 29 ≠ rdf (plotIn vsVoting) (aVerdict 4095 0) 52 29)
    ∧ lossExpOk 0xE0 = true ∧ bitsOf (1 : Word) 31 0 ≠ rdf (plotIn vsVoting) (aVerdict 4095 2) 31 0 := by
  decide

theorem witness_VerdictCommands :
    vgroupOk (plotIn vsFree) 4095 = true ∧ vgroupOk ready 4095 = false
    ∧ (List.range 6).all (fun st => vrdState (plotIn st) 4095 == st) = true := by
  decide

theorem witness_ResolveCommand :
    vrdState (plotIn vsUnresolved) 4095 = vsUnresolved ∧ (resolveArgs ready 11).outcome < 1
    ∧ (let s := setF (plotIn vsCollecting) [(aVrdArg0 11, 31, 24, 4), (aVrdArg0 11, 63, 32, 1)]
      vrdState s 4095 = vsCollecting ∧ (resolveArgs s 11).outcome ≠ ocFit ∧ rdf s (aVrdArg0 11) 63 32 ≠ plotStep s 4095)
    ∧ (resolveArgs (setF ready [(aVrdArg0 11, 31, 24, 5)]) 11).outcome = 5
    ∧ (let s := setF (plotIn vsUnresolved) [(aVrdArg0 11, 31, 24, 1), (aEntry 11 32767 0, 63, 61, 1),
        (aEntry 11 32767 0, 51, 40, 4095)]
      (resolveArgs s 11).outcome = ocFit ∧ rdf s (aVrdArg0 11) 63 32 = plotStep s 4095 ∧ plotStacks s 4095 = [11]) := by
  decide

/-- No slot of a device without turnovers is due. -/
theorem witness_ResolveCommand_slots : sourcesDue (plotIn vsUnresolved) 4095 0 = [] := by decide

/-- Slot 63 of stack 11 in a phase, for entry 32,767 there, against entry 0 of stack 10 of device 5; dest 1 makes it
the destination's slot. -/
def slotIn (phase dest : Nat) (work : TurnWork) : State :=
  let s := setF (entryIn (if dest = 1 then 2 else 1)) [(aTurn 11 63 0, 63, 61, phase), (aTurn 11 63 0, 60, 60, dest),
    (aTurn 11 63 0, 59, 56, 10), (aTurn 11 63 0, 55, 41, 32767), (aTurn 11 63 0, 25, 8, 5), (aTurn 11 63 1, 63, 32, 4)]
  { s with stk := { s.stk with turns := tset TurnWork.empty [] (64 * 11 + 63) work } }

theorem witness_TurnoverCommands :
    [tpFree, tpArmed, tpMoving, tpHanded, tpFailed].all (fun ph =>
      [0, 1].all fun d => turnPhase (slotIn ph d TurnWork.empty) 11 63 == ph
        && turnDest (slotIn ph d TurnWork.empty) 11 63 == (d == 1)) = true
    ∧ armRefusal (slotIn tpFree 0 TurnWork.empty) 11 63 = 0 ∧ armRefusal (slotIn tpFree 1 TurnWork.empty) 11 63 = 0
    ∧ armRefusal (slotIn tpArmed 1 TurnWork.empty) 11 63 ≠ 0
    ∧ fbState (slotIn tpArmed 0 TurnWork.empty) 11 32767 ≠ esOutgoing := by
  decide

/-- A TURNOVER packet of device 5 to that slot: kind, reason, page and body (R248). -/
def turnFrame (kind reason page : Nat) (body : List Byte) : Frame :=
  ⟨⟨(hdr tTurnover 5 (32 + body.length) 0 0).w0, bitsAt 45 28 5, 0, 0⟩,
    leOfWords [bitsAt 63 60 kind ||| bitsAt 59 56 11 ||| bitsAt 55 41 32767 ||| bitsAt 25 22 10 ||| bitsAt 15 8 reason,
      bitsAt 31 0 4, bitsAt 63 40 page ||| bitsAt 39 16 1, bitsAt 63 32 (crc32c body)] ++ body⟩

theorem witness_TurnoverPackets_pages :
    (let s := slotIn tpArmed 1 TurnWork.empty;
      let k := turnPktOf (turnFrame tkPage 0 0 [1, 2, 3, 4])
      (turnFrame tkPage 0 0 [1, 2, 3, 4]).hdr.type = tTurnover ∧ k.src ≠ deviceId s ∧ clusterUp s k.dstStack = true
      ∧ k.kind = tkPage ∧ turnMatch s k true = some 63 ∧ turnPhase s 11 63 = tpArmed
      ∧ k.page = (turnWork s 11 63).nextPage ∧ crc32c k.body = k.check ∧ k.page < pageTotal (fbAt s 11 32767))
    ∧ (let s := slotIn tpMoving 1 { TurnWork.empty with nextPage := 1 }
      let k := turnPktOf (turnFrame tkPage 0 0 [])
      turnMatch s k true = some 63 ∧ turnPhase s 11 63 = tpMoving ∧ k.page < (turnWork s 11 63).nextPage)
    ∧ (let s := setF (slotIn tpMoving 1 TurnWork.empty) [(aTurn 11 63 2, 63, 40, 1), (aTurn 11 63 2, 39, 16, 1)]
      let body := leOfWords ((rdEntry s (aEntry 11 32767 0) 8).set 1 (bitsAt 31 16 4))
      let k := turnPktOf (turnFrame tkDone 0 0 body)
      k.kind = tkDone ∧ turnMatch s k true = some 63 ∧ turnTotal s 11 63 ≤ turnDone s 11 63
      ∧ sameShard (fbOf (wordsOfLe 8 k.body)) (fbAt s 11 32767) = true
      ∧ bitsOf (wordAt (wordsOfLe 8 k.body) 1) 31 16 = turnBoundary s 11 63 % 2 ^ 16) := by
  decide

theorem witness_TurnoverPackets_answers :
    (let s := slotIn tpVerifying 0 TurnWork.empty;
      turnMatch s (turnPktOf (turnFrame tkConfirm 0 0 [])) false = some 63 ∧ copying s 11 63 = true
      ∧ (turnPktOf (turnFrame tkReject trMismatch 0 [])).reason = trMismatch
      ∧ turnMatch s (turnPktOf (turnFrame tkReject trMismatch 0 [])) false = some 63
      ∧ turnMatch s (turnPktOf (turnFrame tkAbort 0 0 [])) false = some 63)
    ∧ (let s := slotIn tpArmed 1 TurnWork.empty
      turnMatch s (turnPktOf (turnFrame tkAbort 0 0 [])) false = none
      ∧ turnMatch s (turnPktOf (turnFrame tkAbort 0 0 [])) true = some 63
      ∧ turnMatch s (turnPktOf (turnFrame tkConfirm 0 0 [])) false = none)
    ∧ clusterUp (setF ready [(aCapAvail, 63, 63, 0)]) (turnPktOf (turnFrame tkPage 0 0 [])).dstStack = false
    ∧ [tkPage, tkDone, tkConfirm, tkReject, tkAbort].all (fun x => (turnPktOf (turnFrame x 0 0 [])).kind == x) = true := by
  decide

/-- The destination's slot in VERIFYING, one page received with the check given. -/
def verifying (check : Nat) : State :=
  slotIn tpVerifying 1 { TurnWork.empty with checks := [check], doneCheck := listCrc [check] }

theorem readBytes_nil (d : Byte) (a n : Nat) : readBytes d [] a n = List.replicate n d := by
  induction n generalizing a with
  | zero => rfl
  | succ n ih => rw [readBytes, ih]; rfl

/-- No byte of the device's stacks has been written. -/
theorem page_blank (check n i : Nat) (x : Fb) : pageOf (verifying check) n x i = zeros 4096 := by
  unfold pageOf hbmRead
  rw [show (verifying check).stk.hbm = [] from rfl, readBytes_nil]
  rfl

theorem witness_TurnoverTimers_verify :
    (∃ check, turnDest (verifying check) 11 63 = true ∧ turnPhase (verifying check) 11 63 = tpVerifying
      ∧ (List.range (turnWork (verifying check) 11 63).checks.length).find? (fun i =>
        crc32c (pageOf (verifying check) 11 (fbAt (verifying check) 11 (turnEntry (verifying check) 11 63)) i)
          != (turnWork (verifying check) 11 63).checks.getD i 0) = some 0)
    ∧ ∃ check, turnDest (verifying check) 11 63 = true ∧ turnPhase (verifying check) 11 63 = tpVerifying
      ∧ (∀ i, i < (turnWork (verifying check) 11 63).checks.length →
        crc32c (pageOf (verifying check) 11 (fbAt (verifying check) 11 (turnEntry (verifying check) 11 63)) i)
          = (turnWork (verifying check) 11 63).checks.getD i 0)
      ∧ listCrc (turnWork (verifying check) 11 63).checks = (turnWork (verifying check) 11 63).doneCheck := by
  have work : ∀ c, turnWork (verifying c) 11 63 = { TurnWork.empty with checks := [c], doneCheck := listCrc [c] } :=
    fun c => rfl
  have dest : ∀ c, turnDest (verifying c) 11 63 = true := fun c => by
    have h : turnDest (slotIn tpVerifying 1 TurnWork.empty) 11 63 = true := by decide
    simpa only [turnDest, rdb, rd, show (verifying c).regs = (slotIn tpVerifying 1 TurnWork.empty).regs from rfl] using h
  have phase : ∀ c, turnPhase (verifying c) 11 63 = tpVerifying := fun c => by
    have h : turnPhase (slotIn tpVerifying 1 TurnWork.empty) 11 63 = tpVerifying := by decide
    simpa only [turnPhase, rdf, rd, show (verifying c).regs = (slotIn tpVerifying 1 TurnWork.empty).regs from rfl] using h
  constructor
  · refine ⟨crc32c (zeros 4096) + 1, dest _, phase _, ?_⟩
    simp only [work, page_blank]
    generalize crc32c (zeros 4096) = c
    simp [List.range_succ]
  · refine ⟨crc32c (zeros 4096), dest _, phase _, ?_, ?_⟩
    · simp only [work, page_blank]
      generalize crc32c (zeros 4096) = c
      simp
    · simp only [work]

theorem witness_TurnoverTimers :
    turnDest (slotIn tpMoving 0 TurnWork.empty) 11 63 = false ∧ turnPhase (slotIn tpMoving 1 TurnWork.empty) 11 63 = tpMoving
    ∧ turnDest (slotIn tpMoving 1 TurnWork.empty) 11 63 = true
    ∧ turnPhase (slotIn tpVerifying 0 TurnWork.empty) 11 63 = tpVerifying
    ∧ rdf (setF (slotIn tpMoving 0 TurnWork.empty) [(aTurn 11 63 2, 15, 8, 1)]) (aTurn 11 63 2) 15 8 = trNotArmed := by
  decide

/-- A seed copy without a fault: no sections but the mandatory ones, signed by the owner key of slot 0. -/
def goodCopy : SeedCopy :=
  ⟨true, true, 0x5345_4544, 1, 0, false, 0, 0x7200, 1, zeros 64, mandatory.map fun t => ⟨t, 0, []⟩, [], true⟩

/-- Empty tables, and a report of a step that succeeded with them. -/
def goodReport : StepReport :=
  ⟨true, [], 0xFFFF_FFFF, [], [], true, goodCopy, goodCopy, none, 720, [], [], ⟨2, [], [], [], 0, 1, [], [], 0, []⟩⟩

/-- A device at start-up step 4 whose slot 0 holds that owner's hash. -/
def fused4 : State :=
  let s := setF (atStep 4) [(aFuse, 53, 53, 1)]
  { s with boot := { s.boot with slotHashes := [(0, shake256 32 (zeros 64))] } }

theorem padTo_self (n : Nat) (bs : List Byte) (h : bs.length = n) : padTo n bs = bs := by
  rw [padTo, ← h, Nat.sub_self, List.take_length, List.replicate_zero, List.append_nil]

theorem goodCopy_ok : copyFault fused4 goodCopy = jrOk := by
  have h : hashBytes fused4 0 = shake256 32 (zeros 64) :=
    padTo_self 32 (shake256 32 (zeros 64)) (by decide)
  have p : padTo 64 goodCopy.ownerPk = zeros 64 := padTo_self _ _ (by decide)
  have v : slotValid fused4 0 = true ∧ slotRevoked fused4 0 = false ∧ fusedCount fused4 = 0 := by
    decide
  have m : manifestOk goodCopy.sections = true := by decide
  unfold copyFault
  rw [show goodCopy.ownerSlot = 0 from rfl, h, p, v.1, v.2.1, v.2.2, m]
  generalize shake256 32 (zeros 64) = x
  simp [goodCopy, partNumber]

theorem witness_StartRows :
    (List.range 14).all (fun i => starting (atStep (i + 1)) && bootStep (atStep (i + 1)) == i + 1) = true
    ∧ rdf (atStep 2) aStrap 41 40 = 0 ∧ oddOnes 1 = true ∧ strapLegal 1 = true ∧ oddOnes 0 = false
    ∧ oddOnes 0x3FFFF7 = true ∧ strapLegal 0x3FFFF7 = false ∧ starting ready = false
    ∧ (let s := setF (atStep 2) [(aStrap, 41, 40, 1)]
      inReset s = false ∧ rdf s aStrap 41 40 ≠ 0 ∧ (1 : BitVec 22) ≠ s.el.strapPins ∧ rdf s aStrap 41 40 = 1)
    ∧ goodReport.badSection = none ∧ goodReport.failed = [] ∧ goodReport.ok = true
    ∧ ({ goodReport with ok := false } : StepReport).ok = false
    ∧ skipped ready 11 = false ∧ skipped (setF (atStep 14) [(aBoot, 39, 39, 1)]) 11 = true := by
  decide

/-- A pin held low, in a start that is cold or warm. -/
def held (por warm cold : Bool) : State :=
  { ready with boot := { ready.boot with porLow := por, warmLow := warm, cold := cold } }

theorem witness_ResetAndRelease :
    ready.boot.svnTarget = 0 ∧ ready.boot.fuseWork = none ∧ ready.boot.flashJobs = [] ∧ ready.boot.porLow = false
    ∧ [true, false].all (fun c => (held true false c).boot.porLow && !(held true false c).boot.warmLow
      && (held false true c).boot.warmLow && !(held false true c).boot.porLow && (held true true c).boot.warmLow
      && (held true false c).boot.cold == c) = true
    ∧ ({ ready with boot := { ready.boot with svnTarget := 127 } } : State).boot.svnTarget ≠ 0 := by
  decide

/-- Cluster 11 with core 107 due for a test and core 106 in reserve. -/
def testing : State :=
  let s := setF ready [(aFltCore 106, 63, 61, 1)]
  { s with cores := { s.cores with testNext := [(11, 108)] } }

theorem witness_FaultTimers :
    coreState ready 107 ≠ csRetired ∧ coreState (setF ready [(aFltCore 107, 63, 61, 5)]) 107 = csRetired
    ∧ takerOf ready 107 = none
    ∧ (let s := { ready with cores := { ready.cores with
          jobs := [(106, [.takeover 107 false]), (107, [.run (runKey 5 0) 0 0])] } }
      takerOf s 107 = some 106 ∧ jobOf s 106 = some (.takeover 107 false)
      ∧ jobOf s 107 = some (.run (runKey 5 0) 0 0))
    ∧ ready.boot.ledgerDue = []
    ∧ (let s := { ready with boot := { ready.boot with ledgerDue := [(1, 0)], ledger := [[1, 2, 3, 4]] } }
      s.boot.ledgerDue = [(1, 0)])
    ∧ clusterUp testing 11 = true ∧ rdb testing aFltCfg 63 = true ∧ testRuns testing 11 = false
    ∧ testChoice testing 11 = some 107 ∧ reserveOf testing 11 = some 106 ∧ jobOf testing 106 = none
    ∧ jobOf testing 107 = none
    ∧ (let s := setF ready [(aFltCore 107, 63, 61, 2)]
      (coresOf 11).find? (fun u => coreState s u == csTesting) = some 107 ∧ testRuns s 11 = true)
    ∧ (∀ u ∈ coresOf 11, coreState ready u ≠ csTesting)
    ∧ [csMigrating, csFallow].all (fun st => coreState (setF ready [(aFltCore 107, 63, 61, st)]) 107 == st) = true
    ∧ clusterUp (atStep 1) 11 = false := by
  decide

theorem witness_FaultCommands :
    [1, 2, 3, 4].all (fun k => decide (unitCount k ≤ 512) && decide (0 < unitCount k)
      && !unitRetired ready k (unitCount k - 1)) = true ∧ 107 < 108
    ∧ (let r : List Word := [bitsAt 63 60 1 ||| bitsAt 59 56 4 ||| bitsAt 55 40 511, 0, 0, 0]
      let s := { ready with boot := { ready.boot with ledger := [r] } }
      unitRetired s 4 511 = true ∧ s.boot.ledger.length < 1024) := by
  decide

/-- The same ledger when it is full. -/
theorem witness_FaultCommands_full :
    let r : List Word := [bitsAt 63 60 1 ||| bitsAt 59 56 4 ||| bitsAt 55 40 511, 0, 0, 0]
    let s := { ready with boot := { ready.boot with ledger := List.replicate 1024 r } }
    unitRetired s 4 511 = true ∧ 1024 ≤ s.boot.ledger.length := by
  decide

/-- A device with the grant's bytes as given from address 0 of its buffer, and owner slots 0 and 1 in use; the hash of
slot 1 is that of the all-zero key. -/
def granted (bytes : Memory) : State :=
  let s := setF ready [(aFuse, 54, 53, 3)]
  { s with boot := { s.boot with slotHashes := [(1, shake256 32 (zeros 64))], grant := bytes } }

/-- A REVOKE of slot 0 and a PROGRAM of slot 3, signed by slot 1, for part 0x7200 (R415). -/
def grantWord (op slot : Nat) : Memory :=
  [(0, 1), (1, BitVec.ofNat 8 op), (3, 1), (9, 0x72)].filter (fun c => c.2 != 0)
    |> fun m => writeByte 0 m 2 (BitVec.ofNat 8 slot)

/-- Such a grant passes every check when its signature verifies, which the manual leaves to FIPS 205 (log 8). -/
theorem witness_SecurityCommands_grants :
    (Config.slhVerify (zeros 64) (grantBytes (granted (grantWord 4 0)) 0 192)
      (grantBytes (granted (grantWord 4 0)) 192 29792) = true → grantFault (granted (grantWord 4 0)) 4 0 = 0)
    ∧ (Config.slhVerify (zeros 64) (grantBytes (granted (grantWord 3 3)) 0 192)
      (grantBytes (granted (grantWord 3 3)) 192 29792) = true → grantFault (granted (grantWord 3 3)) 3 3 = 0) := by
  have hash : ∀ m, hashBytes (granted m) 1 = shake256 32 (zeros 64) := fun m =>
    padTo_self 32 (shake256 32 (zeros 64)) (by decide)
  constructor
  · intro sig
    have pk : grantBytes (granted (grantWord 4 0)) 112 64 = zeros 64 := by decide
    have signer : (grantByte (granted (grantWord 4 0)) 3).toNat = 1 := by decide
    have bad : grantBad (granted (grantWord 4 0)) 4 0 = false := by
      simp only [grantBad, signer, pk, hash, sig, bne_self_eq_false, Bool.or_false, Bool.not_true]
      decide
    unfold grantFault
    simp only [bad]
    decide
  · intro sig
    have pk : grantBytes (granted (grantWord 3 3)) 112 64 = zeros 64 := by decide
    have signer : (grantByte (granted (grantWord 3 3)) 3).toNat = 1 := by decide
    have bad : grantBad (granted (grantWord 3 3)) 3 3 = false := by
      simp only [grantBad, signer, pk, hash, sig, bne_self_eq_false, Bool.or_false, Bool.not_true]
      decide
    unfold grantFault
    simp only [bad]
    decide

theorem witness_SecurityCommands :
    secBusy ready = 0 ∧ isReady ready = true ∧ secBusy (setF ready [(aSecStat, 55, 54, 3)]) ≠ 0
    ∧ (let s := setF State.reset [(aFuse, 46, 46, 1)]
      mgmtUp s = true ∧ isHalted s = false ∧ secBusy s = 0 ∧ isReady s = false)
    ∧ grantFault ready 3 3 ≠ 0 ∧ grantFault ready 4 3 ≠ 0 := by
  decide

theorem witness_SecurityEnds :
    [1, 2].all (fun b => secBusy (setF ready [(aSecStat, 55, 54, b)]) == b) = true ∧ secBusy ready ≠ 1
    ∧ ready.boot.fuseWork = none
    ∧ ({ ready with boot := { ready.boot with fuseWork := some (3, 3), fuseHash := zeros 32 } } : State).boot.fuseHash.length
      = 32
    ∧ (let s := setF ready [(aBoot, 63, 60, 14)]
      flashWritable s 1 imageBase = true ∧ imageBase % 65536 = 0)
    ∧ (let s := setF ready [(aBoot, 63, 60, 14)]
      let s := { s with mg := { s.mg with flashTop := [(sectorKey 1 (imageBase + 65528), imageBase + 65528)] } }
      flashWritable s 1 (imageBase + 65528) = true ∧ (imageBase + 65528) % 8 = 0
      ∧ tget 0 s.mg.flashTop (sectorKey 1 (imageBase + 65528)) = imageBase + 65528)
    ∧ flashWritable ready 0 0 = false ∧ flashJob ready 1 = none
    ∧ (let job : FlashJob := ⟨1, 0x3FF_FFF8, [1, 2, 3, 4, 5, 6, 7, 8], false, .path 8⟩
      let s := { ready with boot := { ready.boot with flashJobs := [job] } }
      flashJob s 1 = some job ∧ s.mg.held = none ∧ s.mg.heldOrders = [] ∧ s.mg.queue = [] ∧ s.mg.orderQueue = []) := by
  decide

/-- A Hitch frame with its CRC right (R431): type, version, tag, count, SEQ, address and payload. -/
def hitch (type version tag count seq addr : Nat) (payload : List Word) : HitchFrame :=
  let w0 : Word := bitsAt 63 60 type ||| bitsAt 59 56 version ||| bitsAt 55 51 tag ||| bitsAt 50 41 count
  let w1 : Word := bitsAt 63 48 seq ||| bitsAt 47 0 addr
  ⟨w0, w1, payload, bitsAt 31 0 (frameCrc (w0 :: w1 :: payload))⟩

/-- The ready device after a HELLO that agreed version 1. -/
def greeted : State :=
  let s := setF ready [(aHtcStat, 61, 58, 1)]
  { s with mg := { s.mg with helloDone := true } }

theorem witness_HitchRequests :
    mgmtUp State.reset = false ∧ mgmtUp greeted = true ∧ (hitch 1 0 0 0 0 0x11 []).crcOk = true
    ∧ ({ hitch 1 0 0 0 0 0x11 [] with trailer := 0 } : HitchFrame).crcOk = false
    ∧ (let s := { greeted with mg := { greeted.mg with queue := List.replicate 31 (hitch 2 1 0 1 1 0 []), held := some (0, 1, []) } }
      32 ≤ requestsHeld s)
    ∧ (let s := { greeted with mg := { greeted.mg with held := some (0, 1, []) } }
      requestsHeld s < 32 ∧ s.mg.held ≠ none)
    ∧ greeted.mg.held = none ∧ greeted.mg.queue = [] ∧ (hitch 1 0 0 0 0 0x11 []).type = 1
    ∧ helloBad (hitch 1 0 0 0 0 0x11 []) = false ∧ agreedHitch 1 1 = 1
    ∧ (frameFault greeted (hitch 2 1 31 0 65535 0 [])).isSome = true
    ∧ frameFault greeted (hitch 2 1 31 512 65535 0 []) = none ∧ frameFault greeted (hitch 3 1 31 1 65535 0 [0]) = none
    ∧ (let s := { greeted with mg := { greeted.mg with stored := [(31, [(65535, [])])] } }
      tone s.mg.stored (hitch 2 1 31 1 65535 aCapId []).tag = some ((hitch 2 1 31 1 65535 aCapId []).seqNo, []))
    ∧ tone greeted.mg.stored 31 = none ∧ meetsBusyFlash greeted aCapId 1 = false ∧ aCapId ≠ aGrnErr 1
    ∧ (readWord greeted (hitch 2 1 31 1 65535 aCapId []).address).isSome = true := by
  decide

theorem witness_HitchLanesAndEvents :
    inReset ready = false ∧ unsentEvents ready = 0 ∧ rdb ready (aEvt 0) 63 = false
    ∧ (let s := setF ready [(aEvt 0, 63, 63, 1), (aEvt 8, 63, 32, 8192)]
      rdb s (aEvt 0) 63 = true ∧ unsentEvents s = 8192 ∧ s.mg.streamNext < 2 ^ 32)
    ∧ unsentEvents (setF ready [(aEvt 8, 63, 32, 8193)]) = 8193 := by
  decide

/-- A READ field order of manager 9 for CAP_ID: its SEQ and start epoch (R418). -/
def order (seq epoch : Nat) : Frame :=
  ⟨⟨(hdr tFieldOrder 0 8 0 0).w0, bitsAt 45 28 9, bitsAt 47 0 aCapId, bitsAt 63 32 epoch ||| bitsAt 31 0 seq⟩,
    leOfWords [bitsAt 63 60 1 ||| bitsAt 59 50 1]⟩

/-- A device whose port 511 is marked for managers, with managers 9 (all rights) and 10 (none); manager 9 sent 6 last. -/
def managed : State :=
  let s := setF ports [(aCable 511, 59, 59, 1), (aEpoch, 63, 32, 77)]
  { s with boot := { s.boot with
      tables := some ⟨2, [], [⟨9, 7⟩, ⟨10, 0⟩], [], 0, 1, [], [], 0, []⟩, orders := [(1, [(6, [1, 2])])] } }

theorem witness_FieldOrders :
    (order 7 77).hdr.type = tFieldOrder ∧ hdr0.type ≠ tFieldOrder ∧ rdb ports (aCable 511) 59 = false
    ∧ rdb managed (aCable 511) 59 = true ∧ mgmtUp managed = true ∧ isHalted managed = false
    ∧ orderBad ⟨(order 7 77).hdr, []⟩ = true ∧ orderBad (order 7 77) = false
    ∧ managerOfSrc managed 8 = none ∧ managerOfSrc managed (order 7 77).hdr.src = some (⟨9, 7⟩, 1)
    ∧ bitsOf (order 7 76).hdr.w3 63 32 ≠ startEpoch managed ∧ bitsOf (order 7 77).hdr.w3 63 32 = startEpoch managed
    ∧ bitsOf (order 5 77).hdr.w3 31 0 < (lastOrder managed 1).1
    ∧ bitsOf (order 6 77).hdr.w3 31 0 = (lastOrder managed 1).1 ∧ (lastOrder managed 1).2 ≠ []
    ∧ (lastOrder managed 1).1 < bitsOf (order 7 77).hdr.w3 31 0 ∧ orderAllowed ⟨9, 7⟩ (order 7 77) = true
    ∧ orderAllowed ⟨10, 0⟩ (order 7 77) = false ∧ orderWaits managed 9 = false
    ∧ (runOrder managed 1 511 (order 7 77)).isSome = true
    ∧ orderWaits { managed with mg := { managed.mg with orderQueue := [(511, order 7 77)] } } 9 = true := by
  decide

theorem witness_RegisterAndStagedWrites :
    placeOf 4 = none ∧ placeOf (aQuota 4095 15) = some (.quota 4095 15) ∧ charged 15 = true
    ∧ aQuota 4095 15 < 0xA000_0000 ∧ bitsOf (bitsAt 52 32 1048576) 52 32 ≤ 1048576
    ∧ 1048576 < bitsOf (bitsAt 52 32 1048577) 52 32 ∧ bitsOf (204 : Word) 7 0 < 205
    ∧ isStaged (aGroup 65535 0) = false ∧ placeOf (aGroup 65535 7) = some (.group 65535 7)
    ∧ placeOf (aPlot 4095 1) = some (.plot 4095 1) ∧ (stageOf ready 8).valid = false
    ∧ (stageOf stagedLeaf 0).valid = true ∧ placeOf (aEntry 11 32767 7) = some (.entry 11 32767 7)
    ∧ clusterUp ready 11 = true ∧ clusterUp (setF ready [(aCapAvail, 63, 63, 0)]) 11 = false
    ∧ (stageOf stagedLeaf 0).target = aGroup 65535 7 - 8 * 7 ∧ (stageOf stagedLeaf 0).target ≠ aPlot 4095 1 - 8 * 1 := by
  decide

theorem witness_StartLimit :
    starting (atStep 1) = true ∧ (atStep 1).boot.cold = true ∧ goodReport.ok = true
    ∧ (held false true false).boot.warmLow = true ∧ (held false true false).boot.cold = false
    ∧ starting fused4 = true ∧ bootStep fused4 = 4 ∧ fused4.boot.failedStarts < 6
    ∧ 6 ≤ ({ fused4 with boot := { fused4.boot with failedStarts := 6 } } : State).boot.failedStarts
    ∧ copyFault fused4 goodReport.copyA = jrOk ∧ copyFault fused4 goodReport.copyB = jrOk :=
  ⟨by decide, by decide, by decide, by decide, by decide, by decide, by decide, by decide, by decide, goodCopy_ok,
    goodCopy_ok⟩

theorem witness_StatedRegisters :
    starting (atStep 3) = true ∧ bootStep (atStep 3) = 3 ∧ goodReport.ok = true ∧ clusterUp ready 11 = true
    ∧ bitsOf (205 : Word) 7 0 = 205 := by
  decide

theorem witness_StepRunsFront :
    ({ ready with pending := [.refill] } : State).pending = [.refill] ∧ ready.pending = [] ∧ isReady ready = true
    ∧ isReady State.reset = false := by
  decide

theorem witness_StepsKeepSound : sound State.reset ∧ ∃ t, step State.reset = .next t :=
  ⟨⟨by decide, ⟨by decide, by decide, by decide, by decide⟩, by decide, by decide, by decide⟩, _, rfl⟩

theorem witness_FusesStay :
    slotValid (granted []) 1 = true ∧ slotRevoked (setF ready [(aFuse, 52, 52, 1)]) 3 = true := by
  decide

theorem witness_DataPlaneIsolated : dataPlane .refill = true ∧ ∃ t, exec .refill ready = .next t := ⟨by decide, _, rfl⟩

theorem witness_NoCommandUnmanaged :
    managerCommand (.quote 8) = true ∧ ¬manageable State.reset ∧ ¬manageable (setF ready [(aBoot, 59, 58, 2)]) := by
  refine ⟨by decide, fun h => ?_, fun h => ?_⟩
  · exact absurd h.1 (by decide)
  · exact absurd h.2 (by decide)

/-! ## The manual's worked examples -/

/-- The WRITE header of "Worked packet": words 0 and 1, its first bytes on the wire, its credits. -/
def writeHeader : Header :=
  ⟨bitsAt 63 60 1 ||| bitsAt 59 54 1 ||| bitsAt 53 50 9 ||| bitsAt 41 30 0x2A ||| bitsAt 29 16 4096 ||| 0xC000,
    bitsAt 63 46 0x091A3 ||| bitsAt 45 28 0x20C07 ||| bitsAt 27 12 0x5D2E, 0x7F3A00042000, 0x31⟩
theorem test_header_word0 : writeHeader.w0 = 0x1064000A9000C000 := by decide
theorem test_header_word1 : writeHeader.w1 = 0x2468E0C075D2E000 := by decide
theorem test_header_fields : (writeHeader.type, writeHeader.furrow, writeHeader.plot, writeHeader.length) = (1, 9, 0x2A, 4096)
    ∧ (writeHeader.dst, writeHeader.src, writeHeader.key) = (0x091A3, 0x20C07, 0x5D2E) := by decide
theorem test_header_wire : writeHeader.bytes.take 8 = [0x10, 0x64, 0x00, 0x0A, 0x90, 0x00, 0xC0, 0x00] := by decide
theorem test_header_credits : wireBytes 4096 = 4136 ∧ creditsOf 4096 = 17 := by decide

/-- The straps of R331, the word of a sensor of R470 and the IDCODE of R463. -/
theorem test_strap : strapWord (BitVec.ofNat 22 ((bitsAt 21 10 0x2B7 ||| bitsAt 9 7 5 ||| bitsAt 6 5 1 ||| bitsAt 4 1 3 ||| 1).toNat)) 1
    = 0x2B7A9D0000000000 := by decide
theorem test_sensor : rd (sampleSensor (setF State.reset [(aSensor 0, 49, 34, 3)]) 0 749) (aSensor 0)
    = 0x0BB4000C00000000 := by decide
theorem test_idcode : idcode = 0x17200BA7 := by decide

/-- The cycles of the express run (R353). -/
theorem test_run_cycles : rd (noteCycles ready 0 0x041 2 32 78) (aDrl 0 0) = 0x041000104000004E := by decide

/-- SCALE_EPOCH of a plot with EPOCH 38, LOSS_EXP 13 and k = 16. -/
theorem test_scale_epoch : scaleEpoch (setF ready [(aVerdict 9 0, 63, 61, 1), (aVerdict 9 1, 31, 0, 38), (aVerdict 9 0, 51, 45, 13)]) 9 16
    = 0x8690 := by decide

/-- The turnover slot of K9 ("Worked example" of the turnover). -/
theorem test_turn_address : aTurn 10 5 0 = 0x00008A8800A0 := by decide
theorem test_turn_words :
    (bitsAt 60 60 1 ||| bitsAt 59 56 3 ||| bitsAt 55 41 0x47 ||| bitsAt 40 26 0x211 ||| bitsAt 25 8 0x10C04) = 0x13008E08450C0400
      ∧ (let u := wr ready (aTurn 10 5 0) 0x13008E08450C0400
         (turnDest u 10 5, turnPeerStack u 10 5, turnEntry u 10 5, turnPeerEntry u 10 5, turnPeer u 10 5)
          = (true, 3, 0x47, 0x211, 0x10C04)) := by decide

/-- The record of a stack that will not train (R405): kind, step, code, unit and START_SEQ 147. -/
theorem test_journal_word : (wordAt ((journal { State.reset with boot := { State.reset.boot with starts := 147 } } jkUnit 7 0x0C 5
    0x0A01).boot.journal.headD []) 0) = 0x470C000500000093 := by decide

/-! The policed flow: a slot of furrow 14 with CIR 2,688, PIR 5,376, CBS 8,272 and PBS 12,408, six packets of
4,096 bytes and two refills. -/
def policed : State := setF ready [(aPol 511 0 0, 63, 63, 1), (aPol 511 0 0, 61, 61, 1), (aPol 511 0 0, 39, 20, 5376),
  (aPol 511 0 0, 19, 0, 2688), (aPol 511 0 1, 47, 24, 12408), (aPol 511 0 1, 23, 0, 8272),
  (aPol 511 0 2, 47, 24, 12408), (aPol 511 0 2, 23, 0, 8272)]
def bucketsOf (s : State) : Nat × Nat := (rdf s (aPol 511 0 2) 23 0, rdf s (aPol 511 0 2) 47 24)
def metered (s : State) : State := (police s 511 (hdr tWrite 14 4096 0 0)).1
def marked (s : State) : Option Bool := (police s 511 (hdr tWrite 14 4096 0 0)).2.map Header.dropEligible
def refilled (s : State) : State := refillSlot 511 s 0
theorem test_police_green : marked policed = some false ∧ bucketsOf (metered policed) = (4136, 8272)
    ∧ bucketsOf (metered (metered policed)) = (0, 4136) := by decide
def policed3 : State := refilled (metered (metered policed))
theorem test_police_yellow : bucketsOf policed3 = (2688, 9512) ∧ marked policed3 = some true
    ∧ bucketsOf (metered policed3) = (2688, 5376) := by decide
def policed6 : State := metered (refilled (metered (metered policed3)))
theorem test_police_red : bucketsOf policed6 = (1240, 2480) ∧ marked policed6 = none
    ∧ bucketsOf (metered policed6) = (1240, 2480) := by decide

/-! The conversion edge cases. -/
def conv (f : FloatFmt) (t : FloatFmt) (p : Policy) (md : Rounding) (x : Nat) : Nat × Flags :=
  let a := decodeFloat f x
  let b := convertFloat t p md a.1
  (b.1, a.2 ||| b.2)
theorem test_convert_overflow_tie : conv .fp32 .fp16 .sat .rne 0x477FF000 = (0x7BFF, satFlag)
    ∧ conv .fp32 .fp16 .inf .rne 0x477FF000 = (0x7C00, ovfInf) := by decide
theorem test_convert_min_normal : conv .fp32 .fp16 .sat .rne 0x387FF000 = (0x0400, 0)
    ∧ conv .fp32 .fp16 .sat .rne 0x387FE000 = (0, flushOut) := by decide
theorem test_convert_e4m3_top : conv .bf16 .e4m3 .sat .rne 0x43EC = (0x7E, satFlag)
    ∧ conv .bf16 .e4m3 .sat .rne 0x43E8 = (0x7E, 0) := by decide
theorem test_convert_inf : conv .fp32 .e4m3 .sat .rne 0x7F800000 = (0x7E, infSat)
    ∧ conv .fp32 .e5m2 .sat .rne 0x7F800000 = (0x7C, 0) := by decide
theorem test_convert_nan : conv .fp32 .bf16 .sat .rne 0xFFC12345 = (0x7FC0, nanSeen) := by decide
theorem test_convert_subnormal : conv .fp16 .fp32 .sat .rne 0x8001 = (0x80000000, flushIn) := by decide
theorem test_convert_stochastic : conv .fp32 .bf16 .sat (.stoch 0x1A00) 0x3F812345 = (0x3F82, 0)
    ∧ conv .fp32 .bf16 .sat (.stoch 0x3A00) 0x3F812345 = (0x3F81, 0) := by decide

/-- The MXFP4 block: 7.0, 2.5, 5.0, −3.2 (to FP32) and 0.75. -/
theorem test_mxfp4_block : encodeMxBlock (some .e2m1) .sat (List.replicate 5 .rne)
    ([0x40E00000, 0x40200000, 0x40A00000, 0xC04CCCCD, 0x3F400000].map fun x => (decodeFloat .fp32 x).1)
    = (0x7F, [(0x7, satFlag), (0x4, 0), (0x6, 0), (0xD, 0), (0x0, flushOut)]) := by decide

/-! The strict FP64 sum of three values. -/
def term (x : Nat) : Exact := exactOf 2 (decodeFloat .fp64 x).1
theorem test_strict_record : (sheafRecord 1 2 ((term 0x4340000000000001).merge (term 0x3FF4000000000000))).take 8
      = leBytes 8 0x1240200000000000
    ∧ (sheafRecord 1 2 (term 0xC340000000000000)).take 8 = leBytes 8 0x1244180000000000 := by decide
set_option exponentiation.threshold 2048 in
theorem test_strict_sum : convertFloat .fp64 .sat .rne (strictValue 2 (((term 0x4340000000000001).merge
      (term 0x3FF4000000000000)).merge (term 0xC340000000000000))).1 = (0x400A000000000000, 0) := by decide

/-! Sums and selections at a root: the fast BF16 sum of five members, the strict weighted sum, MAXLOC and MINLOC. -/
def rootDef (op : BinOp) (strict : Bool) (inF outF wF n elems : Nat) : ChunkDef :=
  ⟨op, strict, inF, outF, wF, .sat, none, true, n, 0, n, elems, 1, 0, none, false, 1⟩
def fromRanks (bs : List (List Byte)) : List Item := bs.zipIdx.map fun x => ⟨x.2, 1, false, x.1, x.2⟩
theorem test_fast_sum : (reduceChunk (rootDef .sum false 0x04 0x04 0 5 1)
    (fromRanks [[0x80, 0x4B], [0xC0, 0x3F], [0x80, 0xCB], [0x40, 0x3F], [0x20, 0x40]])).bytes = [0xB0, 0x40] := by decide
theorem test_strict_bf16 : (reduceChunk (rootDef .sum true 0x04 0x04 0 5 1)
    (fromRanks [[0x80, 0x4B], [0xC0, 0x3F], [0x80, 0xCB], [0x40, 0x3F], [0x20, 0x40]])).bytes = [0x98, 0x40] := by decide
def locPair (v i : Nat) : List Byte := leBytes 4 v ++ leBytes 4 i
def located : List Item := fromRanks [locPair 0x40A80000 0x10, locPair 0x40F00000 0x21, locPair 0x40F00000 5, locPair 0x80000000 0x30]
theorem test_maxloc : (reduceChunk (rootDef .maxloc true 0x02 0x02 0 4 1) located).bytes = leBytes 8 0x0000002140F00000 := by decide
theorem test_minloc : (reduceChunk (rootDef .minloc true 0x02 0x02 0 4 1) located).bytes = leBytes 8 0x0000003080000000 := by decide

/-! One step: the front command runs with the rest of the queue; an empty queue idles. -/
theorem test_step_front : (match step { State.reset with pending := [.tapIdcode, .refill] } with
    | .next s => (s.pending, s.el.tap.dr) | _ => ([], 0)) = ([.refill], 0x17200BA7) := by decide
theorem test_reset_queue : State.reset.pending = [] := rfl

end Sys2Proof.Tests
end

section
/-! PROOFS. The four stated registers (R6, R21, R195, R424): what a manager's write to a plain and to a
read-only register leaves in it, and what start-up step 3 leaves in GLB_EPOCH. -/

namespace Sys2Proof.Machine

open Sys2Proof

/-! ## A register after a manager's write -/

/-- A register reads at reset the word that the map gives it. -/
theorem rd_reset (a : Nat) : rd State.reset a = resetWord a := rfl

/-- A field copied from one word into another reads as in the first. -/
theorem bitsOf_putBits_copy (w v : Word) {hi lo : Nat} (h : hi < 64) :
    bitsOf (putBits w hi lo (bitsOf v hi lo)) hi lo = bitsOf v hi lo := by
  rw [bitsOf_putBits_same _ _ h, Nat.mod_eq_of_lt (bitsOf_lt v hi lo)]

/-- A manager's write to a register below the recorder's block that has fields only: it holds the merged word. -/
theorem registerWrite_plain {s : State} {path a : Nat} {v : Word} {pl : Place} {fs : List RField}
    (hs : manageable s) (hpl : placeOf a = some pl)
    (hw : writePlace s path a pl v = plainWrite s path a fs v) (ha : a < 0xA000_0000) :
    ∃ t, exec (.registerWrite path a v) s = .next t
      ∧ rd t a = mergedWord (!s.mg.rw1.contains a) fs (rd s a) v := by
  have hm : mgmtWrite s path a v = ⟨regWrite s path a fs v, .ok⟩ := by
    simp only [mgmtWrite, hpl, hw, plainWrite]
  refine ⟨_, rfl, ?_⟩
  rw [mgApply_ok hs (by rw [hm]), rd_captureWrite ha, hm, rd_regWrite_same]

/-- A write to a place without a writable field leaves every register but the event log's (R10, R11). -/
theorem rd_readOnly {s : State} {path a b : Nat} {pl : Place} {v : Word} (h : b < 0xA300_0000) :
    rd (readOnly s path a pl v).st b = rd s b := by
  unfold readOnly
  split
  · rfl
  · exact rd_logWrite (.inl h)

/-- A manager's write to a word that is read as it is stored leaves the word. -/
theorem registerWrite_stored {s : State} {path a b : Nat} {v : Word} (hs : manageable s)
    (hpl : placeOf a = some (.stored b)) (ha : a < 0xA000_0000) :
    ∃ t, exec (.registerWrite path a v) s = .next t ∧ rd t a = rd s a := by
  have hm : mgmtWrite s path a v = readOnly s path a (.stored b) v := by
    simp only [mgmtWrite, hpl, writePlace]
  have hk : rd (mgmtWrite s path a v).st a = rd s a := by
    rw [hm]
    exact rd_readOnly (by omega)
  refine ⟨_, rfl, ?_⟩
  by_cases ho : (mgmtWrite s path a v).out = .ok
  · rw [mgApply_ok hs ho, rd_captureWrite ha, hk]
  · rw [mgApply_not_ok hs ho, hk]

/-! ## The places of the four registers -/

theorem placeOf_aIslandSel : placeOf aIslandSel = some .islandSel := by decide
theorem placeOf_aCapSizes : placeOf aCapSizes = some (.stored aCapSizes) := by decide
theorem placeOf_aEpoch : placeOf aEpoch = some (.stored aEpoch) := by decide

theorem placeOf_aTilArg {n : Nat} (h : n < 12) : placeOf (aTilArg n) = some (.tilArg n) := by
  revert n
  decide

theorem resetWord_aTilArg {n : Nat} (h : n < 12) : resetWord (aTilArg n) = 0 := by
  revert n
  decide

/-! ## What the fields of GLB_ISLAND_SEL and TIL_ARG take from a written word -/

theorem mergedWord_islandSel (first : Bool) (old v : Word) :
    mergedWord first [rsv 63 8, rwIf 7 0 (· < 205)] old v
      = if bitsOf v 7 0 < 205 then putBits old 7 0 (bitsOf v 7 0) else old := by
  by_cases h : bitsOf v 7 0 < 205 <;> simp [mergedWord, putField, rsv, rwIf, h]

theorem mergedWord_tilArg (first : Bool) (old v : Word) :
    mergedWord first tilArgFields old v
      = putBits (putBits old 63 33 (bitsOf v 63 33)) 31 0 (bitsOf v 31 0) := rfl

/-- R21: a manager's write keeps the reserved bits, and takes an island that exists and no other. -/
theorem registerWrite_islandSel {s : State} (path : Nat) (v : Word) (hs : manageable s) :
    ∃ t, exec (.registerWrite path aIslandSel v) s = .next t
      ∧ rdf t aIslandSel 63 8 = rdf s aIslandSel 63 8
      ∧ (bitsOf v 7 0 ≤ 204 → rdf t aIslandSel 7 0 = bitsOf v 7 0)
      ∧ (205 ≤ bitsOf v 7 0 → rdf t aIslandSel 7 0 = rdf s aIslandSel 7 0) := by
  obtain ⟨t, ht, hrd⟩ := registerWrite_plain (path := path) (v := v) hs placeOf_aIslandSel rfl (by decide)
  rw [mergedWord_islandSel] at hrd
  refine ⟨t, ht, ?_⟩
  simp only [rdf, hrd]
  by_cases h : bitsOf v 7 0 < 205
  · rw [if_pos h]
    exact ⟨bitsOf_putBits_other _ _ (by decide), fun _ => bitsOf_putBits_copy _ _ (by decide), by omega⟩
  · rw [if_neg h]
    exact ⟨rfl, by omega, fun _ => rfl⟩

/-- R195: a manager's write takes TENSOR_ID and VERSION and keeps the reserved bit 32. -/
theorem registerWrite_tilArg {s : State} {n : Nat} (path : Nat) (v : Word) (hn : n < 12) (hs : manageable s)
    (hu : clusterUp s n = true) :
    ∃ t, exec (.registerWrite path (aTilArg n) v) s = .next t
      ∧ rdf t (aTilArg n) 63 33 = bitsOf v 63 33 ∧ rdf t (aTilArg n) 31 0 = bitsOf v 31 0
      ∧ rdb t (aTilArg n) 32 = rdb s (aTilArg n) 32 := by
  have hw : writePlace s path (aTilArg n) (.tilArg n) v = plainWrite s path (aTilArg n) tilArgFields v :=
    if_pos hu
  obtain ⟨t, ht, hrd⟩ := registerWrite_plain hs (placeOf_aTilArg hn) hw (by simp only [aTilArg, aStack]; omega)
  rw [mergedWord_tilArg] at hrd
  refine ⟨t, ht, ?_⟩
  simp only [rdf, rdb, hrd]
  refine ⟨?_, bitsOf_putBits_copy _ _ (by decide), ?_⟩
  · rw [bitsOf_putBits_other _ _ (by decide), bitsOf_putBits_copy _ _ (by decide)]
  · rw [bitOf_putBits_other _ _ (by decide), bitOf_putBits_other _ _ (by decide)]

/-! ## GLB_EPOCH at step 3 -/

/-- A journal record writes no register. -/
theorem rd_journal (s : State) (kind step result unit detail a : Nat) :
    rd (journal s kind step result unit detail) a = rd s a :=
  (journal_keeps (m := 1024) (Fits.refl _) (Keeps.refl _ s)).allRegs (by decide) a

/-- Extending a measurement chain writes no register. -/
theorem rd_extend (s : State) (c i : Nat) (digest : List Byte) (a : Nat) : rd (extend s c i digest) a = rd s a := rfl

/-- A step other than step 5, which may halt, begins with GLB_BOOT alone written. -/
theorem rd_beginStep_other {s : State} {k a : Nat} (hk : k ≠ 5) (ha : a ≠ aBoot) :
    rd (beginStep s k) a = rd s a := by
  unfold beginStep
  rw [if_neg (by simp [hk]), rd_journal]
  exact rd_wrf_other ha

/-- A step other than step 4 ends with GLB_BOOT alone written: the one that begins then is not step 5. -/
theorem rd_endStep_other {s : State} {a : Nat} (d : Nat) (hk : bootStep s ≠ 4) (ha : a ≠ aBoot) :
    rd (endStep s d) a = rd s a := by
  unfold endStep
  rw [rd_beginStep_other (by omega) ha, rd_journal]

/-- R424: the reeve ROM leaves START_EPOCH and START_SEQ in GLB_EPOCH. -/
theorem rd_stepRom_aEpoch {s : State} (r : StepReport) (h : bootStep s = 3) :
    rd (stepRom s r) aEpoch = bitsAt 63 32 r.random ||| bitsAt 31 0 s.boot.starts := by
  unfold stepRom
  extract_lets s1 src s2 s3 s4 fuses
  have hother : ∀ a x, a ≠ aFuse → a ≠ aIsland 204 →
      rd (extend (extend s4 0 0 r.romDigest) 0 1 x) a = rd s1 a := fun a x hf hi =>
    calc rd (extend (extend s4 0 0 r.romDigest) 0 1 x) a = rd s4 a := by rw [rd_extend, rd_extend]
      _ = rd s3 a := rd_wrf_other hi
      _ = rd s1 a := (rd_wrf_other hf).trans (rd_wrf_other hf)
  have hboot : ∀ x, bootStep (extend (extend s4 0 0 r.romDigest) 0 1 x) = 3 := fun x => by
    have hrd := (hother aBoot x (by decide) (by decide)).trans (rd_wr_other (by decide))
    rw [bootStep, rdf, hrd]
    exact h
  rw [rd_endStep_other _ (by rw [hboot]; decide) (by decide), hother _ _ (by decide) (by decide)]
  exact rd_wr_same _ _ _

/-- A word made of two adjoining fields reads each of them. -/
theorem bitsOf_epochWord (x y : Nat) :
    bitsOf (bitsAt 63 32 x ||| bitsAt 31 0 y) 63 32 = x % 2 ^ 32
      ∧ bitsOf (bitsAt 63 32 x ||| bitsAt 31 0 y) 31 0 = y % 2 ^ 32 := by
  constructor
  · rw [bitsOf_or, bitsOf_bitsAt_same _ (by decide), bitsOf_bitsAt_other _ (by decide), Nat.or_zero]
  · rw [bitsOf_or, bitsOf_bitsAt_other _ (by decide), bitsOf_bitsAt_same _ (by decide), Nat.zero_or]

/-- A good report ends step 3 with the reeve ROM's work. -/
theorem exec_startupStepComplete_rom {s : State} {r : StepReport} (hs : starting s = true)
    (h3 : bootStep s = 3) (hok : r.ok = true) : exec (.startupStepComplete r) s = .next (stepRom s r) := by
  simp [execStartupStepComplete, hs, h3, hok]

/-! ## The obligation -/

/-- Settles O52, register by register: CAP_SIZES and GLB_EPOCH are stored words, which no write changes,
GLB_ISLAND_SEL and TIL_ARG merge their own fields, and what step 3 does after it has written GLB_EPOCH touches other
registers only. -/
theorem statedRegisters : Obligations.StatedRegisters := by
  unfold Obligations.StatedRegisters
  refine ⟨?capSizes, ?islandSel, fun n hn => ?tilArg, rfl, by decide, ?epochWrite, ?epochStep3⟩
  case capSizes =>
    refine ⟨rfl, by decide, by decide, by decide, by decide, by decide, by decide, by decide, by decide, ?_⟩
    exact fun s path v hs => registerWrite_stored hs placeOf_aCapSizes (by decide)
  case islandSel => exact ⟨rfl, by decide, fun s path v hs => registerWrite_islandSel path v hs⟩
  case tilArg =>
    refine ⟨rfl, (rd_reset _).trans (resetWord_aTilArg hn), ?_⟩
    exact fun s path v hs hu => registerWrite_tilArg path v hn hs hu
  case epochWrite => exact fun s path v hs => registerWrite_stored hs placeOf_aEpoch (by decide)
  case epochStep3 =>
    intro s r hs h3 hok
    obtain ⟨hhi, hlo⟩ := bitsOf_epochWord r.random s.boot.starts
    refine ⟨stepRom s r, exec_startupStepComplete_rom hs h3 hok, ?_, ?_⟩
    · rw [rdf, rd_stepRom_aEpoch r h3, hhi]
    · rw [rdf, rd_stepRom_aEpoch r h3, hlo]

end Sys2Proof.Machine
end

section
/-! PROOFS. The limit on failed starts (R402): what the beginning of a start, of a step and of a halt leave in
GLB_BOOT and in the count, and how step 4 ends when both copies pass their checks. -/

namespace Sys2Proof.Machine

open Sys2Proof

/-! ## Two states of one start -/

/-- Two states of one start: the count of failed starts, the reset pins and GLB_BOOT.STATE agree. -/
structure SameStart (s t : State) : Prop where
  failed : t.boot.failedStarts = s.boot.failedStarts
  held : inReset t = inReset s
  phase : rdf t aBoot 59 58 = rdf s aBoot 59 58

theorem SameStart.trans {s t u : State} (h : SameStart s t) (g : SameStart t u) : SameStart s u :=
  ⟨g.failed.trans h.failed, g.held.trans h.held, g.phase.trans h.phase⟩

theorem SameStart.starting_eq {s t : State} (h : SameStart s t) : starting t = starting s := by
  rw [starting, starting, h.held, h.phase]

/-- What touches neither the start state nor GLB_BOOT.STATE stays in the same start. -/
theorem Keeps.sameStart {m : Nat} {s t : State} (h : Keeps m s t) (hm : m.testBit 15 = false)
    (hp : rdf t aBoot 59 58 = rdf s aBoot 59 58) : SameStart s t where
  failed := show (trustOf t.boot).failedStarts = (trustOf s.boot).failedStarts by rw [h.trust hm]
  held :=
    show ((trustOf t.boot).porLow || (trustOf t.boot).warmLow || (trustOf t.boot).resetHeld)
      = ((trustOf s.boot).porLow || (trustOf s.boot).warmLow || (trustOf s.boot).resetHeld) by rw [h.trust hm]
  phase := hp

theorem rdf_journal (s : State) (kind step result unit detail a hi lo : Nat) :
    rdf (journal s kind step result unit detail) a hi lo = rdf s a hi lo := by
  rw [rdf, rd_journal, rdf]

theorem journal_sameStart (s : State) (kind step result unit detail : Nat) :
    SameStart s (journal s kind step result unit detail) :=
  (journal_keeps (m := 1024) (Fits.refl _) (Keeps.refl _ s)).sameStart (by decide) (rdf_journal ..)

theorem setBootStep_sameStart (s : State) (k : Nat) : SameStart s (setBootStep s k) :=
  ⟨rfl, rfl, rdf_wrf_field _ _ _ (by decide)⟩

/-! ## A step begins -/

/-- A step within the limit begins with its number and its record. -/
theorem beginStep_of_within {s : State} {k : Nat} (h : k = 5 → s.boot.failedStarts < startLimit) :
    beginStep s k = journal (setBootStep s k) jkStepBegin k jrOk 0xFFFF 0 := by
  have hf := ((setBootStep_sameStart s k).trans (journal_sameStart _ jkStepBegin k jrOk 0xFFFF 0)).failed
  rw [beginStep, if_neg (by rw [hf]; omega)]

/-- Step 5 at the limit begins and halts. -/
theorem beginStep_of_limit {s : State} (h : startLimit ≤ s.boot.failedStarts) :
    beginStep s 5 = haltFree (journal (setBootStep s 5) jkStepBegin 5 jrOk 0xFFFF 0) jrStartLimit := by
  have hf := ((setBootStep_sameStart s 5).trans (journal_sameStart _ jkStepBegin 5 jrOk 0xFFFF 0)).failed
  rw [beginStep, if_pos (by rw [hf]; exact ⟨rfl, h⟩)]

theorem beginStep_sameStart {s : State} {k : Nat} (h : k = 5 → s.boot.failedStarts < startLimit) :
    SameStart s (beginStep s k) := by
  rw [beginStep_of_within h]
  exact (setBootStep_sameStart s k).trans (journal_sameStart ..)

theorem rdf_beginStep_aBoot {s : State} {k hi lo : Nat} (h : k = 5 → s.boot.failedStarts < startLimit)
    (hf : hi < 60) : rdf (beginStep s k) aBoot hi lo = rdf s aBoot hi lo := by
  rw [beginStep_of_within h, rdf_journal]
  exact rdf_wrf_field _ _ _ (.inl hf)

theorem bootStep_journal (s : State) (kind step result unit detail : Nat) :
    bootStep (journal s kind step result unit detail) = bootStep s := rdf_journal ..

theorem bootStep_setBootStep (s : State) {k : Nat} (h : k < 16) : bootStep (setBootStep s k) = k :=
  (rdf_wrf_same _ _ _ (by decide)).trans (Nat.mod_eq_of_lt h)

/-! ## A halt (R401) -/

/-- The serial transmitters' stop writes port registers only. -/
theorem rd_stopTransmitters (s : State) {a : Nat} (h : a < 0x1000_0000) : rd (stopTransmitters s) a = rd s a :=
  (stopTransmitters_keeps (m := 262146) (Fits.refl _) (Keeps.refl _ s)).below (k := 2) (by decide) h

/-- A halt leaves its state and its code in GLB_BOOT and the step that ran; it asserts ALERT_L. -/
theorem halt_registers (s : State) (code detail : Nat) :
    rd (halt s code detail) aBoot = putBits (putBits (rd s aBoot) 59 58 bootHalted) 47 40 code
      ∧ rdb (halt s code detail) aAlert 63 = true := by
  unfold halt
  extract_lets k j w
  have hj : rd j aBoot = rd s aBoot := by
    unfold j
    split
    · rfl
    · rw [rd_journal]
  constructor
  · rw [rd_stopTransmitters _ (by decide), rd_wrf_other (by decide), ← hj]
    simp [w, wrf]
  · rw [rdb, rd_stopTransmitters _ (by decide), wrf, rd_wr_same, bitOf_putBits_same _ _ (by decide) (by decide)
      (by decide)]
    rfl

/-- What a halt whose DETAIL no rule states shows. -/
theorem haltFree_shows (s : State) {code : Nat} (h : code < 256) :
    isHalted (haltFree s code) = true ∧ rdf (haltFree s code) aBoot 47 40 = code
      ∧ rdb (haltFree s code) aAlert 63 = true ∧ bootStep (haltFree s code) = bootStep s := by
  obtain ⟨hb, ha⟩ := halt_registers { s with picks := s.picks + 1 } code (Config.haltDetail code s.picks)
  refine ⟨?_, ?_, ha, ?_⟩
  · rw [isHalted, rdf, haltFree, hb, bitsOf_putBits_other _ _ (by decide), bitsOf_putBits_same _ _ (by decide)]
    rfl
  · rw [rdf, haltFree, hb, bitsOf_putBits_same _ _ (by decide)]
    exact Nat.mod_eq_of_lt h
  · rw [bootStep, rdf, haltFree, hb, bitsOf_putBits_other _ _ (by decide), bitsOf_putBits_other _ _ (by decide)]
    rfl

/-! ## A start begins (R402) -/

/-- The count that a start begins with: none after a power cycle, else the journal's. -/
def failedAtStart (s : State) : Nat := if s.boot.cold then 0 else failedOf (sinceCold (readJournal s))

theorem failedAtStart_cold {s : State} (h : s.boot.cold = true) : failedAtStart s = 0 := if_pos h

theorem failedAtStart_warm {s : State} (h : s.boot.cold = false) :
    failedAtStart s = failedOf (sinceCold (readJournal s)) := if_neg (by simp [h])

/-- A start begins with step 2, its count kept and shown in GLB_BOOT. -/
theorem openStart_eq_beginStep (s : State) :
    ∃ u, openStart s = beginStep u 2 ∧ SameStart { s with boot := { s.boot with failedStarts := failedAtStart s } } u
      ∧ rdf u aBoot 55 48 = Nat.min 0xFF (failedAtStart s) := by
  unfold openStart
  extract_lets rs cold starts seq ons failed src boot s1 s2 s3
  refine ⟨_, rfl, ?_, ?_⟩
  · refine SameStart.trans (t := s2) ⟨rfl, rfl, ?_⟩ (journal_sameStart s2 ..)
    exact (rdf_wrf_field _ _ _ (by decide)).trans (rdf_wrf_field _ _ _ (by decide))
  · have hlt : Nat.min 0xFF failed < 2 ^ 8 := Nat.lt_of_le_of_lt (Nat.min_le_left ..) (by decide)
    rw [rdf_journal]
    exact (rdf_wrf_same _ _ _ (by decide)).trans (Nat.mod_eq_of_lt hlt)

/-- The count after the beginning of a start, in the device and in GLB_BOOT, and the step that runs then. -/
theorem openStart_shows (s : State) :
    (openStart s).boot.failedStarts = failedAtStart s
      ∧ rdf (openStart s) aBoot 55 48 = Nat.min 0xFF (failedAtStart s)
      ∧ bootStep (openStart s) = 2 ∧ starting (openStart s) = starting s := by
  obtain ⟨u, hu, hsame, hcount⟩ := openStart_eq_beginStep s
  have hk : 2 = 5 → u.boot.failedStarts < startLimit := by omega
  have hstart := hsame.trans (beginStep_sameStart hk)
  rw [hu]
  refine ⟨hstart.failed, (rdf_beginStep_aBoot hk (by decide)).trans hcount, ?_, hstart.starting_eq⟩
  rw [beginStep_of_within hk, bootStep_journal, bootStep_setBootStep _ (by decide)]

/-- The end of step 1 begins the start. -/
theorem exec_startupStepComplete_power {s : State} {r : StepReport} (hs : starting s = true)
    (h1 : bootStep s = 1) (hok : r.ok = true) : exec (.startupStepComplete r) s = .next (openStart s) := by
  simp [execStartupStepComplete, stepPower, hs, h1, hok]

/-- WARM_RESET_L rising, with POR_L high, releases the device from reset; a warm start begins. -/
theorem exec_warmResetRelease_warm {s : State} (hw : s.boot.warmLow = true) (hp : s.boot.porLow = false)
    (hc : s.boot.cold = false) :
    exec .warmResetRelease s = .next (openStart { s with
      boot := { s.boot with warmLow := false, resetHeld := false }, el := { s.el with sysclkLost := false } }) := by
  simp [execWarmResetRelease, beginStart, inReset, hw, hp, hc]

/-! ## Step 4 ends with both copies valid -/

/-- Of two copies that pass their checks one is chosen, whichever the last start may have to avoid. -/
theorem chooseCopy_of_valid {s : State} {a b : SeedCopy} (ha : copyFault s a = jrOk) (hb : copyFault s b = jrOk) :
    ∃ i, chooseCopy s a b = some i := by
  simp only [chooseCopy, ha, hb, beq_self_eq_true, if_true, Bool.true_and, Bool.not_true, Bool.false_or]
  split <;> split <;> exact ⟨_, rfl⟩

/-- A copy is taken into use within the start and step that run. -/
theorem useCopy_sameStart (s : State) (i : Nat) : SameStart s (useCopy s i) ∧ bootStep (useCopy s i) = bootStep s := by
  unfold useCopy
  split
  next => exact ⟨⟨rfl, rfl, rfl⟩, rfl⟩
  next c _ =>
    have hfield : ∀ {hi lo}, 56 < lo → rdf (wrf (wrf s aBoot 56 56 i) aFuse 48 47 c.ownerSlot) aBoot hi lo
        = rdf s aBoot hi lo := fun h =>
      (rdf_wrf_other (by decide)).trans (rdf_wrf_field _ _ _ (.inr h))
    exact ⟨⟨rfl, rfl, hfield (by decide)⟩, hfield (by decide)⟩

/-- Step 4 with both copies valid ends, and step 5 begins in the same start. -/
theorem stepImage_of_valid {s : State} {a b : SeedCopy} (h4 : bootStep s = 4)
    (ha : copyFault s a = jrOk) (hb : copyFault s b = jrOk) :
    ∃ u, stepImage s a b = beginStep u 5 ∧ SameStart s u := by
  unfold stepImage
  extract_lets src s1 forced fault src' s2
  obtain ⟨i, hi⟩ := chooseCopy_of_valid (s := s1) (a := a) (b := b) ha hb
  rw [hi]
  show ∃ u, endStep (useCopy s2 i) (if i = 0 then a else b).imageSeq = beginStep u 5 ∧ SameStart s u
  obtain ⟨hsame, hstep⟩ := useCopy_sameStart s2 i
  have hk : bootStep (useCopy s2 i) = 4 := hstep.trans h4
  refine ⟨journal (useCopy s2 i) jkStepEnd 4 jrOk 0xFFFF _, by rw [endStep, hk], ?_⟩
  exact (SameStart.trans (s := s) (t := s2) ⟨rfl, rfl, rfl⟩ hsame).trans (journal_sameStart ..)

theorem exec_startupStepComplete_image {s : State} {r : StepReport} (hs : starting s = true)
    (h4 : bootStep s = 4) :
    exec (.startupStepComplete r) s = .next (stepImage s r.copyA r.copyB) := by
  simp [execStartupStepComplete, hs, h4]

/-- R402: the beginning of step 5 halts a start at the limit and lets every other one go on. -/
theorem beginStep_five (u : State) :
    bootStep (beginStep u 5) = 5
      ∧ (startLimit ≤ u.boot.failedStarts → isHalted (beginStep u 5) = true
        ∧ rdf (beginStep u 5) aBoot 47 40 = jrStartLimit ∧ rdb (beginStep u 5) aAlert 63 = true)
      ∧ (u.boot.failedStarts < startLimit → starting (beginStep u 5) = starting u) := by
  have hbegun : bootStep (journal (setBootStep u 5) jkStepBegin 5 jrOk 0xFFFF 0) = 5 := by
    rw [bootStep_journal, bootStep_setBootStep _ (by decide)]
  rcases Nat.lt_or_ge u.boot.failedStarts startLimit with hlt | hge
  · refine ⟨?_, fun h => absurd hlt (Nat.not_lt.mpr h), fun _ => (beginStep_sameStart fun _ => hlt).starting_eq⟩
    rw [beginStep_of_within fun _ => hlt, hbegun]
  · rw [beginStep_of_limit hge]
    obtain ⟨hhalt, hcode, halert, hstep⟩ :=
      haltFree_shows (journal (setBootStep u 5) jkStepBegin 5 jrOk 0xFFFF 0) (code := jrStartLimit) (by decide)
    exact ⟨hstep.trans hbegun, fun _ => ⟨hhalt, hcode, halert⟩, fun h => absurd h (Nat.not_lt.mpr hge)⟩

/-! ## The obligation -/

/-- Settles O51 (the name `startLimit` is the model's limit): a start's count is set where it opens, by the cold pin
or from the journal, and nothing changes it up to the beginning of step 5, which alone compares it with the limit. -/
theorem startLimit_holds : Obligations.StartLimit := by
  unfold Obligations.StartLimit
  refine ⟨?coldStart, ?warmStart, ?stepFive⟩
  case coldStart =>
    intro s r hs h1 hok hcold
    obtain ⟨hfailed, hcount, hstep, hstarting⟩ := openStart_shows s
    rw [failedAtStart_cold hcold] at hfailed hcount
    exact ⟨_, exec_startupStepComplete_power hs h1 hok, hfailed, hcount, hstep, hstarting.trans hs⟩
  case warmStart =>
    intro s hw hp hcold
    obtain ⟨hfailed, hcount, -, -⟩ := openStart_shows { s with
      boot := { s.boot with warmLow := false, resetHeld := false }, el := { s.el with sysclkLost := false } }
    refine ⟨_, exec_warmResetRelease_warm hw hp hcold, hfailed.trans (failedAtStart_warm hcold), hfailed ▸ hcount⟩
  case stepFive =>
    intro s r hs h4 ha hb
    obtain ⟨u, hu, hsame⟩ := stepImage_of_valid h4 ha hb
    obtain ⟨hstep, hlimit, hwithin⟩ := beginStep_five u
    rw [← hu, hsame.failed] at hlimit hwithin
    exact ⟨_, exec_startupStepComplete_image hs h4, hu ▸ hstep, hlimit,
      fun h => (hwithin h).trans (hsame.starting_eq.trans hs)⟩

end Sys2Proof.Machine
end

section
/-! PROOFS. What holds of every row: it answers a next state, it keeps what its mask names, and no manager's
command runs in a device out of its managers' reach. -/

namespace Sys2Proof.Machine

open Sys2Proof

/-! ## Every row answers -/

/-- Every branch of every meaning ends in a next state. -/
theorem exec_answers (c : Instr) (s : State) : ∃ t, exec c s = .next t := by
  cases c
  case registerWrite | hbmRefresh | d2dRetry | fwdTableWrite | ecmpSetWrite | fwdHold | fwdRelease |
      fwdInvalidate | fwdQuery | groupCommit | memberEntryWrite | groupAbort | groupFallow |
      groupRestore | groupFree | setSeq | groupQuery | reap | reapDeferred | reapExpress | sow |
      sowExpress | sowRequest | completion | contributionAdmit | openingPacketAdmit | fbkEntryCommit |
      hbmWindowWrite | hypArm | entryActivate | entryFallow | entryFree | releaseVersion | passHold |
      passRelease | rebuildSown | entryQuery | verdictEntryWrite | verdictStart | verdictFallow |
      verdictFree | resolve | skipNext | verdictQuery | oscaleWrite | advPlotWrite | turnSlotWrite |
      turnArm | turnAbort | turnRestart | turnFinish | turnQuery | page | done | confirm | reject |
      peerAbort | ownerClear | listRebuildEnd | gleanCfgWrite | grnErrRead | shaperWrite |
      policerSlotWrite | portDown | controlSilent | portRestart | portFallow | portRestore | portTest |
      endTest | retrain | clearFailed | clearPrbs | laneTestWrite | plotCommit | plotActivate |
      plotFallow | plotFree | plotQuery | plotFenceWrite | roleOfWrite | adopt | standDown |
      yieldConfigWrite | drillWatchWrite | hubWatchWrite | recCfgWrite | recStart | recStop | recReplay
      | replayAbort | recClear | retire | reinstate | testNow | fltQuery | porAssert | warmResetAssert |
      flashWrite | quote | verifyCopy | programSlot | revokeSlot | fieldOrder | hitchLaneLock |
      hitchLaneLockLoss | hello | hitchRead | hitchWrite | eventFrame | freeze | thaw | freezeAll |
      selfThaw | sysclkLoss | thermTrip | alertClear | tapExtest | tapSamplePreload | tapBypass |
      tapIdcode | tapPacketAccess | sowVersionReadDone =>
    exact ⟨_, rfl⟩
  all_goals
    simp only [exec, laneEvent, execXingTimeout, execPacketHeader, execQuotaAdmit, execPacketTail, execPacketSent, execHoldTimeout,
      execOccScanEnd, execSowCopySent, execStageWrite, execStragglerTimeout, execSettleTimeout,
      execDrillRunEnd, execNoJudgeTimeout, execPassStart, execEntryPassDone, execSecondEncodingEnd,
      execTillerGroupComplete, execPatrolScrub, execLandingReservationResume, execLocalVerdictSend,
      execVerdict, execAdvanceFetch, execVerifyingEnd, execTurnoverTimeout, execDoneTimeout,
      execNotArmedResend, execGranaryAlloc, execGleanerPass, execCreditConfigWrite,
      execSchedulerDecision, execRefill, execAdaptationConverged, execHeaderLock, execHeaderLoss,
      execCountdownStart, execCountdownEnd, execMarkerCheck, execAttemptTimeout, execLockLoss,
      execRelockTimeout, execPortWaitExpiry, execCapabilitySend, execCapabilityReceived, execCapTimeout,
      execRateStepFailed, execWidthChange, execRetryUnit, execRetryNak, execReplay, execNakRepeat,
      execRetryTimeout, execCreditA, execCreditB, execPrbsLock, execPrbsLockLoss, execStrapAccept,
      execStrapChanged, execYieldEpoch, execJournalWrite, execReplayInstance, execReplayDone,
      execStrikeExpiry, execMigrationDone, execLedgerWriteRetry, execFieldTestStart, execFieldTestEnd,
      execDrainTimeout, execPorRelease, execWarmResetRelease, execStartupStepComplete,
      execStartupStepTimeout, execQuoteDone, execVerifyCopyDone, execSlotFusesDone, execSnapshotTaken,
      execRailFault, execAvsUpdate, execSdrefLoss, execSdrefReturn, execSensorSample,
      execThermalThrottle, execDroopStretch, execRailReturn, execPllLockLoss, execPllRelock,
      execFlashProgramDone, execSvnAdvanceDone]
    repeat' split
    all_goals exact ⟨_, rfl⟩

/-! ## What every row keeps -/

/-- What a row may touch: everything, or, for one of the data plane, neither the management path's own state,
the electrical state, the flashes and the start state nor a register below the ports. -/
def rowMask (c : Instr) : Nat := bif dataPlane c then 536612863 else 536870911

theorem Fits.trans {e m n : Nat} (h : Fits e m) (g : Fits m n) : Fits e n := by
  unfold Fits at *
  rw [← g, ← Nat.or_assoc, h]

/-- What touches no more than a mask touches no more than a wider one. -/
theorem Keeps.mono {m n : Nat} {r s : State} (h : Keeps m r s) (hf : Fits m n) : Keeps n r s where
  pending := h.pending
  regs := h.regs
  mem := h.mem
  capId := h.capId
  capSizes := h.capSizes
  boot := h.boot
  fuses := h.fuses
  fab := fun e => h.fab (hf.off e)
  links := fun e => h.links (hf.off e)
  grn := fun e => h.grn (hf.off e)
  bnd := fun e => h.bnd (hf.off e)
  cores := fun e => h.cores (hf.off e)
  stk := fun e => h.stk (hf.off e)
  vrd := fun e => h.vrd (hf.off e)
  adv := fun e => h.adv (hf.off e)
  rcd := fun e => h.rcd (hf.off e)
  yld := fun e => h.yld (hf.off e)
  work := fun e => h.work (hf.off e)
  hbm := fun e => h.hbm (hf.off e)
  mg := fun e => h.mg (hf.off e)
  el := fun e => h.el (hf.off e)
  flashA := fun e => h.flashA (hf.off e)
  flashB := fun e => h.flashB (hf.off e)
  trust := fun e => h.trust (hf.off e)
  low := fun a e => h.low a fun j hj => e j (by
    have := congrArg (Nat.testBit · (16 + j)) hf
    simpa [Nat.testBit_or, hj] using this.symm)

theorem Fits.all {e : Nat} {c : Instr} (he : e ||| 536870911 = 536870911) (hc : dataPlane c = false) :
    Fits e (rowMask c) := by
  rw [rowMask, hc]
  exact he

theorem Fits.data {e : Nat} {c : Instr} (he : e ||| 536612863 = 536612863) (hc : dataPlane c = true) :
    Fits e (rowMask c) := by
  rw [rowMask, hc]
  exact he

theorem rowMask_fits (c : Instr) : Fits (rowMask c) 536870911 := by
  unfold rowMask
  cases dataPlane c <;> rfl

/-- Every row keeps what its mask leaves out. -/
theorem exec_keeps (c : Instr) (s : State) : KeepsA (rowMask c) s (exec c s) := by
  cases c with
  | registerWrite => exact execRegisterWrite_keeps (.all rfl rfl) (.refl _ _)
  | xingTimeout => exact execXingTimeout_keeps (.all rfl rfl) (.refl _ _)
  | hbmRefresh => exact execHbmRefresh_keeps (.data rfl rfl) (.refl _ _)
  | d2dRetry => exact execD2dRetry_keeps (.data rfl rfl) (.refl _ _)
  | packetHeader => exact execPacketHeader_keeps (.data rfl rfl) (.refl _ _)
  | quotaAdmit => exact execQuotaAdmit_keeps (.data rfl rfl) (.refl _ _)
  | packetTail => exact execPacketTail_keeps (.data rfl rfl) (.refl _ _)
  | packetSent => exact execPacketSent_keeps (.data rfl rfl) (.refl _ _)
  | fwdTableWrite => exact execFwdTableWrite_keeps (.all rfl rfl) (.refl _ _)
  | ecmpSetWrite => exact execEcmpSetWrite_keeps (.all rfl rfl) (.refl _ _)
  | fwdHold => exact execFwdHold_keeps (.all rfl rfl) (.refl _ _)
  | fwdRelease => exact execFwdRelease_keeps (.all rfl rfl) (.refl _ _)
  | fwdInvalidate => exact execFwdInvalidate_keeps (.all rfl rfl) (.refl _ _)
  | fwdQuery => exact execFwdQuery_keeps (.all rfl rfl) (.refl _ _)
  | holdTimeout => exact execHoldTimeout_keeps (.data rfl rfl) (.refl _ _)
  | occScanEnd => exact execOccScanEnd_keeps (.data rfl rfl) (.refl _ _)
  | sowCopySent => exact execSowCopySent_keeps (.data rfl rfl) (.refl _ _)
  | stageWrite => exact execStageWrite_keeps (.all rfl rfl) (.refl _ _)
  | groupCommit => exact execGroupCommit_keeps (.all rfl rfl) (.refl _ _)
  | memberEntryWrite => exact execMemberEntryWrite_keeps (.all rfl rfl) (.refl _ _)
  | groupAbort => exact execGroupAbort_keeps (.all rfl rfl) (.refl _ _)
  | groupFallow => exact execGroupFallow_keeps (.all rfl rfl) (.refl _ _)
  | groupRestore => exact execGroupRestore_keeps (.all rfl rfl) (.refl _ _)
  | groupFree => exact execGroupFree_keeps (.all rfl rfl) (.refl _ _)
  | setSeq => exact execSetSeq_keeps (.all rfl rfl) (.refl _ _)
  | groupQuery => exact execGroupQuery_keeps (.all rfl rfl) (.refl _ _)
  | reap => exact execReap_keeps (.data rfl rfl) (.refl _ _)
  | reapDeferred => exact execReapDeferred_keeps (.data rfl rfl) (.refl _ _)
  | reapExpress => exact execReapExpress_keeps (.data rfl rfl) (.refl _ _)
  | sow => exact execSow_keeps (.data rfl rfl) (.refl _ _)
  | sowExpress => exact execSowExpress_keeps (.data rfl rfl) (.refl _ _)
  | sowRequest => exact execSowRequest_keeps (.data rfl rfl) (.refl _ _)
  | completion => exact execCompletion_keeps (.data rfl rfl) (.refl _ _)
  | contributionAdmit => exact execContributionAdmit_keeps (.data rfl rfl) (.refl _ _)
  | openingPacketAdmit => exact execOpeningPacketAdmit_keeps (.data rfl rfl) (.refl _ _)
  | stragglerTimeout => exact execStragglerTimeout_keeps (.data rfl rfl) (.refl _ _)
  | settleTimeout => exact execSettleTimeout_keeps (.data rfl rfl) (.refl _ _)
  | drillRunEnd => exact execDrillRunEnd_keeps (.all rfl rfl) (.refl _ _)
  | noJudgeTimeout => exact execNoJudgeTimeout_keeps (.data rfl rfl) (.refl _ _)
  | fbkEntryCommit => exact execFbkEntryCommit_keeps (.all rfl rfl) (.refl _ _)
  | hbmWindowWrite path => exact execHbmWindowWrite_keeps (x1 := path) (.all rfl rfl) (.refl _ _)
  | hypArm => exact execHypArm_keeps (.all rfl rfl) (.refl _ _)
  | passStart => exact execPassStart_keeps (.data rfl rfl) (.refl _ _)
  | entryPassDone => exact execEntryPassDone_keeps (.data rfl rfl) (.refl _ _)
  | secondEncodingEnd => exact execSecondEncodingEnd_keeps (.data rfl rfl) (.refl _ _)
  | tillerGroupComplete => exact execTillerGroupComplete_keeps (.data rfl rfl) (.refl _ _)
  | patrolScrub => exact execPatrolScrub_keeps (.data rfl rfl) (.refl _ _)
  | landingReservationResume => exact execLandingReservationResume_keeps (.data rfl rfl) (.refl _ _)
  | localVerdictSend => exact execLocalVerdictSend_keeps (.data rfl rfl) (.refl _ _)
  | entryActivate => exact execEntryActivate_keeps (.all rfl rfl) (.refl _ _)
  | entryFallow => exact execEntryFallow_keeps (.all rfl rfl) (.refl _ _)
  | entryFree => exact execEntryFree_keeps (.all rfl rfl) (.refl _ _)
  | releaseVersion => exact execReleaseVersion_keeps (.all rfl rfl) (.refl _ _)
  | passHold => exact execPassHold_keeps (.all rfl rfl) (.refl _ _)
  | passRelease => exact execPassRelease_keeps (.all rfl rfl) (.refl _ _)
  | rebuildSown => exact execRebuildSown_keeps (.all rfl rfl) (.refl _ _)
  | entryQuery => exact execEntryQuery_keeps (.all rfl rfl) (.refl _ _)
  | verdict => exact execVerdict_keeps (.data rfl rfl) (.refl _ _)
  | verdictEntryWrite => exact execVerdictEntryWrite_keeps (.all rfl rfl) (.refl _ _)
  | verdictStart => exact execVerdictStart_keeps (.all rfl rfl) (.refl _ _)
  | verdictFallow => exact execVerdictFallow_keeps (.all rfl rfl) (.refl _ _)
  | verdictFree => exact execVerdictFree_keeps (.all rfl rfl) (.refl _ _)
  | resolve => exact execResolve_keeps (.all rfl rfl) (.refl _ _)
  | skipNext => exact execSkipNext_keeps (.all rfl rfl) (.refl _ _)
  | verdictQuery => exact execVerdictQuery_keeps (.all rfl rfl) (.refl _ _)
  | oscaleWrite => exact execOscaleWrite_keeps (.all rfl rfl) (.refl _ _)
  | advanceFetch => exact execAdvanceFetch_keeps (.data rfl rfl) (.refl _ _)
  | advPlotWrite => exact execAdvPlotWrite_keeps (.all rfl rfl) (.refl _ _)
  | turnSlotWrite => exact execTurnSlotWrite_keeps (.all rfl rfl) (.refl _ _)
  | turnArm => exact execTurnArm_keeps (.all rfl rfl) (.refl _ _)
  | turnAbort => exact execTurnAbort_keeps (.all rfl rfl) (.refl _ _)
  | turnRestart => exact execTurnRestart_keeps (.all rfl rfl) (.refl _ _)
  | turnFinish => exact execTurnFinish_keeps (.all rfl rfl) (.refl _ _)
  | turnQuery => exact execTurnQuery_keeps (.all rfl rfl) (.refl _ _)
  | page => exact execPage_keeps (.data rfl rfl) (.refl _ _)
  | done => exact execDone_keeps (.data rfl rfl) (.refl _ _)
  | verifyingEnd => exact execVerifyingEnd_keeps (.data rfl rfl) (.refl _ _)
  | confirm => exact execConfirm_keeps (.data rfl rfl) (.refl _ _)
  | reject => exact execReject_keeps (.data rfl rfl) (.refl _ _)
  | peerAbort => exact execPeerAbort_keeps (.data rfl rfl) (.refl _ _)
  | turnoverTimeout => exact execTurnoverTimeout_keeps (.data rfl rfl) (.refl _ _)
  | doneTimeout => exact execDoneTimeout_keeps (.data rfl rfl) (.refl _ _)
  | notArmedResend => exact execNotArmedResend_keeps (.data rfl rfl) (.refl _ _)
  | granaryAlloc => exact execGranaryAlloc_keeps (.data rfl rfl) (.refl _ _)
  | ownerClear => exact execOwnerClear_keeps (.data rfl rfl) (.refl _ _)
  | gleanerPass => exact execGleanerPass_keeps (.data rfl rfl) (.refl _ _)
  | listRebuildEnd => exact execListRebuildEnd_keeps (.data rfl rfl) (.refl _ _)
  | gleanCfgWrite => exact execGleanCfgWrite_keeps (.all rfl rfl) (.refl _ _)
  | grnErrRead path => exact execGrnErrRead_keeps (x1 := path) (.all rfl rfl) (.refl _ _)
  | creditConfigWrite => exact execCreditConfigWrite_keeps (.all rfl rfl) (.refl _ _)
  | schedulerDecision =>
    rw [exec_schedulerDecision]
    exact execSchedulerDecision_keeps (.data rfl rfl) (.refl _ _)
  | refill => exact execRefill_keeps (.data rfl rfl) (.refl _ _)
  | shaperWrite => exact execShaperWrite_keeps (.all rfl rfl) (.refl _ _)
  | policerSlotWrite => exact execPolicerSlotWrite_keeps (.all rfl rfl) (.refl _ _)
  | adaptationConverged => exact execAdaptationConverged_keeps (.data rfl rfl) (.refl _ _)
  | headerLock => exact execHeaderLock_keeps (.data rfl rfl) (.refl _ _)
  | headerLoss => exact execHeaderLoss_keeps (.data rfl rfl) (.refl _ _)
  | countdownStart => exact execCountdownStart_keeps (.data rfl rfl) (.refl _ _)
  | countdownEnd => exact execCountdownEnd_keeps (.data rfl rfl) (.refl _ _)
  | markerCheck => exact execMarkerCheck_keeps (.data rfl rfl) (.refl _ _)
  | attemptTimeout => exact execAttemptTimeout_keeps (.data rfl rfl) (.refl _ _)
  | lockLoss => exact execLockLoss_keeps (.data rfl rfl) (.refl _ _)
  | relockTimeout => exact execRelockTimeout_keeps (.data rfl rfl) (.refl _ _)
  | portWaitExpiry => exact execPortWaitExpiry_keeps (.data rfl rfl) (.refl _ _)
  | capabilitySend => exact execCapabilitySend_keeps (.data rfl rfl) (.refl _ _)
  | capabilityReceived => exact execCapabilityReceived_keeps (.data rfl rfl) (.refl _ _)
  | capTimeout => exact execCapTimeout_keeps (.data rfl rfl) (.refl _ _)
  | rateStepFailed => exact execRateStepFailed_keeps (.data rfl rfl) (.refl _ _)
  | widthChange => exact execWidthChange_keeps (.data rfl rfl) (.refl _ _)
  | portDown => exact execPortDown_keeps (.data rfl rfl) (.refl _ _)
  | controlSilent => exact execControlSilent_keeps (.data rfl rfl) (.refl _ _)
  | retryUnit => exact execRetryUnit_keeps (.data rfl rfl) (.refl _ _)
  | retryNak => exact execRetryNak_keeps (.data rfl rfl) (.refl _ _)
  | replay => exact execReplay_keeps (.data rfl rfl) (.refl _ _)
  | nakRepeat => exact execNakRepeat_keeps (.data rfl rfl) (.refl _ _)
  | retryTimeout => exact execRetryTimeout_keeps (.data rfl rfl) (.refl _ _)
  | creditA => exact execCreditA_keeps (.data rfl rfl) (.refl _ _)
  | creditB => exact execCreditB_keeps (.data rfl rfl) (.refl _ _)
  | portRestart => exact execPortRestart_keeps (.all rfl rfl) (.refl _ _)
  | portFallow => exact execPortFallow_keeps (.all rfl rfl) (.refl _ _)
  | portRestore => exact execPortRestore_keeps (.all rfl rfl) (.refl _ _)
  | portTest => exact execPortTest_keeps (.all rfl rfl) (.refl _ _)
  | endTest => exact execEndTest_keeps (.all rfl rfl) (.refl _ _)
  | retrain => exact execRetrain_keeps (.all rfl rfl) (.refl _ _)
  | clearFailed => exact execClearFailed_keeps (.all rfl rfl) (.refl _ _)
  | clearPrbs => exact execClearPrbs_keeps (.all rfl rfl) (.refl _ _)
  | laneTestWrite => exact execLaneTestWrite_keeps (.all rfl rfl) (.refl _ _)
  | prbsLock => exact execPrbsLock_keeps (.data rfl rfl) (.refl _ _)
  | prbsLockLoss => exact execPrbsLockLoss_keeps (.data rfl rfl) (.refl _ _)
  | strapAccept => exact execStrapAccept_keeps (.all rfl rfl) (.refl _ _)
  | strapChanged => exact execStrapChanged_keeps (.all rfl rfl) (.refl _ _)
  | plotCommit => exact execPlotCommit_keeps (.all rfl rfl) (.refl _ _)
  | plotActivate => exact execPlotActivate_keeps (.all rfl rfl) (.refl _ _)
  | plotFallow => exact execPlotFallow_keeps (.all rfl rfl) (.refl _ _)
  | plotFree => exact execPlotFree_keeps (.all rfl rfl) (.refl _ _)
  | plotQuery => exact execPlotQuery_keeps (.all rfl rfl) (.refl _ _)
  | plotFenceWrite => exact execPlotFenceWrite_keeps (.all rfl rfl) (.refl _ _)
  | roleOfWrite => exact execRoleOfWrite_keeps (.all rfl rfl) (.refl _ _)
  | adopt => exact execAdopt_keeps (.all rfl rfl) (.refl _ _)
  | standDown => exact execStandDown_keeps (.all rfl rfl) (.refl _ _)
  | yieldEpoch => exact execYieldEpoch_keeps (.data rfl rfl) (.refl _ _)
  | yieldConfigWrite => exact execYieldConfigWrite_keeps (.all rfl rfl) (.refl _ _)
  | drillWatchWrite => exact execDrillWatchWrite_keeps (.all rfl rfl) (.refl _ _)
  | hubWatchWrite => exact execHubWatchWrite_keeps (.all rfl rfl) (.refl _ _)
  | journalWrite => exact execJournalWrite_keeps (.data rfl rfl) (.refl _ _)
  | recCfgWrite => exact execRecCfgWrite_keeps (.all rfl rfl) (.refl _ _)
  | recStart => exact execRecStart_keeps (.all rfl rfl) (.refl _ _)
  | recStop => exact execRecStop_keeps (.all rfl rfl) (.refl _ _)
  | recReplay => exact execRecReplay_keeps (.all rfl rfl) (.refl _ _)
  | replayAbort => exact execReplayAbort_keeps (.all rfl rfl) (.refl _ _)
  | recClear => exact execRecClear_keeps (.all rfl rfl) (.refl _ _)
  | replayInstance => exact execReplayInstance_keeps (.data rfl rfl) (.refl _ _)
  | replayDone => exact execReplayDone_keeps (.data rfl rfl) (.refl _ _)
  | strikeExpiry => exact execStrikeExpiry_keeps (.data rfl rfl) (.refl _ _)
  | migrationDone => exact execMigrationDone_keeps (.all rfl rfl) (.refl _ _)
  | ledgerWriteRetry => exact execLedgerWriteRetry_keeps (.all rfl rfl) (.refl _ _)
  | fieldTestStart => exact execFieldTestStart_keeps (.all rfl rfl) (.refl _ _)
  | fieldTestEnd => exact execFieldTestEnd_keeps (.all rfl rfl) (.refl _ _)
  | drainTimeout => exact execDrainTimeout_keeps (.all rfl rfl) (.refl _ _)
  | retire => exact execRetire_keeps (.all rfl rfl) (.refl _ _)
  | reinstate => exact execReinstate_keeps (.all rfl rfl) (.refl _ _)
  | testNow => exact execTestNow_keeps (.all rfl rfl) (.refl _ _)
  | fltQuery => exact execFltQuery_keeps (.all rfl rfl) (.refl _ _)
  | porAssert => exact execPorAssert_keeps (.all rfl rfl) (.refl _ _)
  | porRelease => exact execPorRelease_keeps (.all rfl rfl) (.refl _ _)
  | warmResetAssert => exact execWarmResetAssert_keeps (.all rfl rfl) (.refl _ _)
  | warmResetRelease => exact execWarmResetRelease_keeps (.all rfl rfl) (.refl _ _)
  | startupStepComplete => exact execStartupStepComplete_keeps (.all rfl rfl) (.refl _ _)
  | startupStepTimeout => exact execStartupStepTimeout_keeps (.all rfl rfl) (.refl _ _)
  | flashWrite => exact execFlashWrite_keeps (.all rfl rfl) (.refl _ _)
  | quote => exact execQuote_keeps (.all rfl rfl) (.refl _ _)
  | quoteDone => exact execQuoteDone_keeps (.all rfl rfl) (.refl _ _)
  | verifyCopy => exact execVerifyCopy_keeps (.all rfl rfl) (.refl _ _)
  | verifyCopyDone => exact execVerifyCopyDone_keeps (.all rfl rfl) (.refl _ _)
  | programSlot => exact execProgramSlot_keeps (.all rfl rfl) (.refl _ _)
  | revokeSlot => exact execRevokeSlot_keeps (.all rfl rfl) (.refl _ _)
  | slotFusesDone => exact execSlotFusesDone_keeps (.all rfl rfl) (.refl _ _)
  | fieldOrder => exact execFieldOrder_keeps (.all rfl rfl) (.refl _ _)
  | hitchLaneLock => exact execHitchLaneLock_keeps (.all rfl rfl) (.refl _ _)
  | hitchLaneLockLoss => exact execHitchLaneLockLoss_keeps (.all rfl rfl) (.refl _ _)
  | hello => exact execHello_keeps (.all rfl rfl) (.refl _ _)
  | hitchRead => exact execHitchRead_keeps (.all rfl rfl) (.refl _ _)
  | hitchWrite => exact execHitchWrite_keeps (.all rfl rfl) (.refl _ _)
  | eventFrame => exact execEventFrame_keeps (.all rfl rfl) (.refl _ _)
  | freeze => exact execFreeze_keeps (.all rfl rfl) (.refl _ _)
  | thaw => exact execThaw_keeps (.all rfl rfl) (.refl _ _)
  | freezeAll => exact execFreezeAll_keeps (.all rfl rfl) (.refl _ _)
  | snapshotTaken => exact execSnapshotTaken_keeps (.all rfl rfl) (.refl _ _)
  | selfThaw => exact execSelfThaw_keeps (.all rfl rfl) (.refl _ _)
  | railFault => exact execRailFault_keeps (.all rfl rfl) (.refl _ _)
  | avsUpdate => exact execAvsUpdate_keeps (.all rfl rfl) (.refl _ _)
  | sdrefLoss => exact execSdrefLoss_keeps (.all rfl rfl) (.refl _ _)
  | sdrefReturn => exact execSdrefReturn_keeps (.all rfl rfl) (.refl _ _)
  | sysclkLoss => exact execSysclkLoss_keeps (.all rfl rfl) (.refl _ _)
  | sensorSample => exact execSensorSample_keeps (.all rfl rfl) (.refl _ _)
  | thermalThrottle => exact execThermalThrottle_keeps (.all rfl rfl) (.refl _ _)
  | droopStretch => exact execDroopStretch_keeps (.all rfl rfl) (.refl _ _)
  | thermTrip => exact execThermTrip_keeps (.all rfl rfl) (.refl _ _)
  | alertClear => exact execAlertClear_keeps (.all rfl rfl) (.refl _ _)
  | tapExtest => exact execTapExtest_keeps (.all rfl rfl) (.refl _ _)
  | tapSamplePreload => exact execTapSamplePreload_keeps (.all rfl rfl) (.refl _ _)
  | tapBypass => exact execTapBypass_keeps (.all rfl rfl) (.refl _ _)
  | tapIdcode => exact execTapIdcode_keeps (.all rfl rfl) (.refl _ _)
  | tapPacketAccess => exact execTapPacketAccess_keeps (.all rfl rfl) (.refl _ _)
  | railReturn => exact execRailReturn_keeps (.all rfl rfl) (.refl _ _)
  | pllLockLoss => exact execPllLockLoss_keeps (.data rfl rfl) (.refl _ _)
  | pllRelock => exact execPllRelock_keeps (.data rfl rfl) (.refl _ _)
  | flashProgramDone => exact execFlashProgramDone_keeps (.all rfl rfl) (.refl _ _)
  | sowVersionReadDone => exact execSowVersionReadDone_keeps (.data rfl rfl) (.refl _ _)
  | svnAdvanceDone => exact execSvnAdvanceDone_keeps (.all rfl rfl) (.refl _ _)

theorem Keeps.of_exec {c : Instr} {s t : State} (h : exec c s = .next t) : Keeps (rowMask c) s t :=
  exec_keeps c s t h

/-- A step keeps the invariants of `Keeps`, whether a row or an idle tick ran; it takes the front of the queue. -/
theorem step_keeps {s t : State} (h : step s = .next t) : Keeps 536870911 { s with pending := s.pending.tail } t := by
  unfold step at h
  split at h
  next hp =>
    obtain rfl : idleTick s = t := Host.Outcome.next.inj h
    rw [show { s with pending := s.pending.tail } = s by rw [hp]; cases s; subst hp; rfl]
    exact idleTick_keeps rfl (.refl _ _)
  next c rest hp =>
    rw [hp]
    exact (Keeps.of_exec h).mono (rowMask_fits c)

/-! ## The invariants of a step -/

/-- Settles O56: each row keeps the invariant, and so does the idle tick. -/
theorem stepsKeepSound : Obligations.StepsKeepSound := fun _ _ hs ht => (step_keeps ht).sound hs

/-- Settles O57: bits 49 to 56 of the fuse word, VALID and REVOKED of the four slots, stay set in every row. -/
theorem fusesStay : Obligations.FusesStay := fun s t slot hslot ht =>
  ⟨(step_keeps ht).fuses (53 + slot) (by omega) (by omega), (step_keeps ht).fuses (49 + slot) (by omega) (by omega)⟩

/-- Settles O58: the mask of the data plane names none of these parts and no register below the ports. -/
theorem dataPlaneIsolated : Obligations.DataPlaneIsolated := by
  intro c s t hc ht
  have h : Keeps 536612863 s t := by
    have := Keeps.of_exec ht
    rwa [rowMask, hc] at this
  exact ⟨h.part .flashes rfl, h.part .startState rfl, h.part .management rfl, h.part .electrical rfl,
    fun a ha => h.below (k := 2) rfl ha⟩

/-- Settles O54: every row answers, and none touches the queue. -/
theorem everyStepAnswers : Obligations.EveryStepAnswers := by
  refine ⟨fun c s => ?_, fun s => ?_, fun s t h => (step_keeps h).pending⟩
  · obtain ⟨t, ht⟩ := exec_answers c s
    exact ⟨t, ht, (Keeps.of_exec ht).pending⟩
  · unfold safeStep step
    split
    · exact ⟨_, rfl⟩
    · exact exec_answers _ _

/-! ## The queue -/

/-- An idle tick from Ready on adds one nanosecond to GLB_TIME. -/
theorem idleTick_ready {s : State} (h : isReady s = true) :
    (rd (idleTick s) aTime).toNat = ((rd s aTime).toNat + 1) % 2 ^ 64
      ∧ changesOnly [] [(aTime, 63, 0)] s (idleTick s) := by
  rw [idleTick, if_pos h]
  refine ⟨?_, rfl, fun p _ => (Keeps.refl 0 s).part p (Nat.zero_testBit _), (onlyBits.refl _ s).wr⟩
  rw [rd_wr_same, BitVec.toNat_ofNat, now]

theorem idleTick_notReady {s : State} (h : isReady s = false) : idleTick s = s := by
  rw [idleTick, if_neg (by simp [h])]

theorem step_cons {s : State} {c : Instr} {rest : List Instr} (h : s.pending = c :: rest) :
    step s = exec c { s with pending := rest } := by
  unfold step
  rw [h]

theorem step_nil {s : State} (h : s.pending = []) : step s = .next (idleTick s) := by
  unfold step
  rw [h]

/-- Settles O53, from what a step is on a queue with a front and on an empty one. -/
theorem stepRunsFront : Obligations.StepRunsFront :=
  ⟨fun _ _ => rfl, fun _ _ _ hp => step_cons hp, fun _ hp hr => ⟨_, step_nil hp, idleTick_ready hr⟩,
    fun _ hp hr => (step_nil hp).trans (congrArg _ (idleTick_notReady hr))⟩

/-! ## The state after reset -/

/-- No cluster is in service after reset: CAP_AVAIL is clear. -/
theorem clusterUp_reset (n : Nat) : clusterUp State.reset n = false := by
  rw [clusterUp, rdb, rd_reset, show resetWord aCapAvail = 0 from rfl]
  simp [bitOf]

/-- Settles O55 (the name `resetState` is the model's): the register table and the memories are empty, so every
read is a reset word. -/
theorem resetState_holds : Obligations.ResetState :=
  ⟨rfl, rd_reset, fun _ _ => rfl, rfl, rfl, rfl, clusterUp_reset,
    rfl, ⟨rfl, rfl, rfl, rfl⟩, rfl, rfl, by decide⟩

/-! ## Commands of a device out of its managers' reach -/

theorem plotRow_unmanageable {s : State} (path op p : Nat) (h : ¬manageable s) : plotRow s path op p = s := by
  unfold plotRow
  exact mgApply_unmanageable h

/-- Settles O59: a manager's row is a write through `mgApply`, which leaves such a device alone, or no write at
all; the read of GRN_ERR asks the same. -/
theorem noCommandUnmanaged : Obligations.NoCommandUnmanaged := by
  intro c s hc h
  have hw : ∀ a v op, Host.Outcome.next (mgApply s a v op) = (.next s : Answer) := fun a v op =>
    congrArg _ (mgApply_unmanageable h)
  cases c
  case stageWrite path addr value =>
    rw [exec_stageWrite, execStageWrite]
    split
    · exact hw _ _ _
    · rfl
  case creditConfigWrite path port reg value =>
    rw [exec_creditConfigWrite, execCreditConfigWrite]
    split
    · rfl
    · exact hw _ _ _
  case grnErrRead path =>
    have hn : (isHalted s || !mgmtUp s) = true := by
      by_contra hm
      simp only [Bool.or_eq_true, Bool.not_eq_true', not_or, Bool.not_eq_true, Bool.not_eq_false] at hm
      exact h ⟨hm.2, hm.1⟩
    rw [exec_grnErrRead, execGrnErrRead, if_pos hn]
  case plotActivate | plotFallow | plotFree | plotQuery => exact congrArg _ (plotRow_unmanageable _ _ _ h)
  all_goals cases hc <;> exact hw _ _ _

end Sys2Proof.Machine
end

section
/-! PROOFS. How frames are built up: updates of parts and registers one after another, folds over a list, and
fields of a register after writes to it. -/

namespace Sys2Proof.Machine

open Sys2Proof

/-! ## Parts -/

theorem Part.same_refl (p : Part) (s : State) : p.same s s := by
  cases p with
  | flashes => exact ⟨rfl, rfl⟩
  | _ => rfl

/-- A register write is no change of a part. -/
theorem Part.same_wr (p : Part) (s : State) (a : Nat) (w : Word) : p.same s (wr s a w) := by
  cases p with
  | flashes => exact ⟨rfl, rfl⟩
  | _ => rfl

/-- An update of the parts that a mask names, of a list's parts only. -/
theorem same_of_restored {e : Nat} {ps : List Part} {s t : State} (hu : restored e s t = s)
    (he : e % 65536 ||| partMask ps = partMask ps) : ∀ p, p ∉ ps → p.same s t :=
  (Keeps.upd e (.refl e s) (Fits.refl e) hu).parts he

theorem regs_of_restored {e : Nat} {s t : State} (hu : restored e s t = s) : t.regs = s.regs :=
  show (restored e s t).regs = s.regs by rw [hu]

theorem pending_of_restored {e : Nat} {s t : State} (hu : restored e s t = s) : t.pending = s.pending :=
  show (restored e s t).pending = s.pending by rw [hu]

/-! ## changesOnly -/

theorem changesOnly.refl (ps : List Part) (fs : List (Nat × Nat × Nat)) (s : State) : changesOnly ps fs s s :=
  ⟨rfl, fun p _ => p.same_refl s, onlyBits.refl fs s⟩

theorem changesOnly.trans {ps : List Part} {fs : List (Nat × Nat × Nat)} {r s t : State}
    (h : changesOnly ps fs r s) (g : changesOnly ps fs s t) : changesOnly ps fs r t :=
  ⟨g.1.trans h.1, sameParts_trans h.2.1 g.2.1, h.2.2.trans g.2.2⟩

theorem changesOnly.mono {ps qs : List Part} {fs gs : List (Nat × Nat × Nat)} {s t : State}
    (h : changesOnly ps fs s t) (hp : ∀ p ∈ ps, p ∈ qs) (hf : ∀ f ∈ fs, f ∈ gs) : changesOnly qs gs s t :=
  ⟨h.1, fun p hn => h.2.1 p fun hm => hn (hp p hm), h.2.2.mono hf⟩

theorem changesOnly.wr {ps : List Part} {fs : List (Nat × Nat × Nat)} {r s : State} {a : Nat} {w : Word}
    (h : changesOnly ps fs r s) (hm : (a, 63, 0) ∈ fs := by simp) : changesOnly ps fs r (Machine.wr s a w) :=
  ⟨h.1, sameParts_trans h.2.1 fun p _ => p.same_wr s a w, h.2.2.wr hm⟩

theorem changesOnly.wrf {ps : List Part} {fs : List (Nat × Nat × Nat)} {r s : State} {a hi lo v : Nat}
    (h : changesOnly ps fs r s) (hm : (a, hi, lo) ∈ fs := by simp) : changesOnly ps fs r (Machine.wrf s a hi lo v) :=
  ⟨h.1, sameParts_trans h.2.1 fun p _ => p.same_wr s a _, h.2.2.wrf hm⟩

theorem changesOnly.bump {ps : List Part} {fs : List (Nat × Nat × Nat)} {r s : State} {a hi lo v : Nat}
    (h : changesOnly ps fs r s) (hm : (a, hi, lo) ∈ fs := by simp) :
    changesOnly ps fs r (Machine.bump s a hi lo v) := h.wrf hm

/-- An update of parts that the frame names. -/
theorem changesOnly.upd {ps : List Part} {fs : List (Nat × Nat × Nat)} {r s t : State} (e : Nat)
    (h : changesOnly ps fs r s) (hu : restored e s t = s) (he : e % 65536 ||| partMask ps = partMask ps) :
    changesOnly ps fs r t :=
  ⟨(pending_of_restored hu).trans h.1, sameParts_trans h.2.1 (same_of_restored hu he),
    h.2.2.regs (regs_of_restored hu)⟩

/-- The mask of a list holds the bit of each part of it. -/
theorem partMask_mem {ps : List Part} {p : Part} (h : p ∈ ps) : 2 ^ p.bit ||| partMask ps = partMask ps := by
  induction ps with
  | nil => cases h
  | cons q ps ih =>
    rw [partMask]
    rcases List.mem_cons.mp h with rfl | h
    · rw [← Nat.or_assoc, Nat.or_self]
    · rw [Nat.or_left_comm, ih h]

theorem changesOnly.setLink {ps : List Part} {fs : List (Nat × Nat × Nat)} {r s : State} {p : Nat} {l : Link}
    (h : changesOnly ps fs r s) (hp : Part.links ∈ ps := by simp) : changesOnly ps fs r (Machine.setLink s p l) :=
  h.upd 2 rfl (partMask_mem hp)

/-! ## touchesOnly -/

theorem touchesOnly.upd {ps : List Part} {b : Nat} {as : List Nat} {r s t : State} (e : Nat)
    (h : touchesOnly ps b as r s) (hu : restored e s t = s) (he : e % 65536 ||| partMask ps = partMask ps) :
    touchesOnly ps b as r t :=
  ⟨(pending_of_restored hu).trans h.1, sameParts_trans h.2.1 (same_of_restored hu he),
    fun a ha hn => (rd_congr (regs_of_restored hu) a).trans (h.2.2 a ha hn)⟩

theorem touchesOnly.bump {ps : List Part} {b : Nat} {as : List Nat} {r s : State} {a hi lo v : Nat}
    (h : touchesOnly ps b as r s) (hm : a ∈ as ∨ b ≤ a) : touchesOnly ps b as r (Machine.bump s a hi lo v) :=
  h.wr hm

/-- What an operation keeps, as a frame that other operations went before. -/
theorem touchesOnly.keeps {m k : Nat} {ps : List Part} {as : List Nat} {r s t : State}
    (h : touchesOnly ps (blockBase k) as r s) (g : Keeps m s t) (hm : m % 65536 ||| partMask ps = partMask ps)
    (hk : m >>> 16 % 2 ^ k = 0) : touchesOnly ps (blockBase k) as r t :=
  h.trans (g.touchesOnly k hm hk as)

/-- Two words with the same bits are one. -/
theorem rd_eq_of_rdb {s t : State} {a : Nat} (h : ∀ k, rdb t a k = rdb s a k) : rd t a = rd s a :=
  BitVec.eq_of_getLsbD_eq fun k _ => h k

/-- A register that no field of the frame belongs to is as before. -/
theorem changesOnly.rd_eq {ps : List Part} {fs : List (Nat × Nat × Nat)} {s t : State} {a : Nat}
    (h : changesOnly ps fs s t) (ha : ∀ f ∈ fs, a ≠ f.1) : rd t a = rd s a :=
  rd_eq_of_rdb fun k => h.2.2 a k fun f hf e => absurd e (ha f hf)

/-- Fields that change lie in the registers that a frame names. -/
theorem changesOnly.touches {ps : List Part} {fs : List (Nat × Nat × Nat)} {s t : State} {b : Nat} {as : List Nat}
    (h : changesOnly ps fs s t) (hf : ∀ f ∈ fs, f.1 ∈ as ∨ b ≤ f.1) : touchesOnly ps b as s t :=
  ⟨h.1, h.2.1, fun a ha hn => rd_eq_of_rdb fun k => h.2.2 a k fun f hm e => by
    rcases hf f hm with hm' | hb
    · exact absurd (e ▸ hm') hn
    · omega⟩

/-! ## Folds -/

/-- What every step of a fold keeps, the fold keeps. -/
theorem forAll_rel {α : Type} {R : State → State → Prop} (hr : ∀ s, R s s) (ht : ∀ {r s t}, R r s → R s t → R r t)
    {f : State → α → State} {xs : List α} (hf : ∀ s x, x ∈ xs → R s (f s x)) (s : State) : R s (forAll f s xs) := by
  induction xs generalizing s with
  | nil => exact hr s
  | cons x xs ih =>
    exact ht (hf s x List.mem_cons_self) (ih (fun s y hy => hf s y (List.mem_cons_of_mem _ hy)) (f s x))

theorem changesOnly_forAll {α : Type} {ps : List Part} {fs : List (Nat × Nat × Nat)} {f : State → α → State}
    {xs : List α} (hf : ∀ s x, x ∈ xs → changesOnly ps fs s (f s x)) (s : State) :
    changesOnly ps fs s (forAll f s xs) :=
  forAll_rel (R := changesOnly ps fs) (changesOnly.refl ps fs) changesOnly.trans hf s

theorem touchesOnly_forAll {α : Type} {ps : List Part} {b : Nat} {as : List Nat} {f : State → α → State}
    {xs : List α} (hf : ∀ s x, x ∈ xs → touchesOnly ps b as s (f s x)) (s : State) :
    touchesOnly ps b as s (forAll f s xs) :=
  forAll_rel (R := touchesOnly ps b as) (touchesOnly.refl ps b as) touchesOnly.trans hf s

/-! ## Bits of a word -/

theorem bitOf_or (v w : Word) (k : Nat) : bitOf (v ||| w) k = (bitOf v k || bitOf w k) := BitVec.getLsbD_or

theorem bitOf_and (v w : Word) (k : Nat) : bitOf (v &&& w) k = (bitOf v k && bitOf w k) := BitVec.getLsbD_and

theorem bitOf_not (w : Word) (k : Nat) : bitOf (~~~w) k = (decide (k < 64) && !bitOf w k) := BitVec.getLsbD_not

theorem bitOf_bitsAt (hi lo v k : Nat) :
    bitOf (bitsAt hi lo v) k = (decide (k < 64) && (decide (lo ≤ k) && (decide (k < hi + 1) && v.testBit (k - lo)))) :=
  getLsbD_bitsAt hi lo v k

theorem bitOf_maskOf {hi lo k : Nat} :
    bitOf (maskOf hi lo) k = (decide (k < 64) && (decide (lo ≤ k) && decide (k < hi + 1))) := by
  rw [maskOf, bitOf_bitsAt, testBit_ones]
  by_cases h1 : lo ≤ k <;> by_cases h2 : k < hi + 1 <;> simp [h1, h2]
  omega

theorem bitOf_ge {w : Word} {k : Nat} (h : 64 ≤ k) : bitOf w k = false := BitVec.getLsbD_of_ge w k h

/-- A flag reads as it was set. -/
theorem rdb_wrf_flag (s : State) (a : Nat) {k : Nat} (b : Bool) (h : k < 64) :
    rdb (wrf s a k k (b2n b)) a k = b := by
  rw [rdb, wrf, rd_wr_same, bitOf_putBits_same _ _ le_rfl le_rfl h, Nat.sub_self]
  cases b <;> rfl

theorem rdb_wrf_one (s : State) (a : Nat) {k : Nat} (h : k < 64) : rdb (wrf s a k k 1) a k = true :=
  rdb_wrf_flag s a true h

theorem rdb_wrf_zero (s : State) (a : Nat) {k : Nat} (h : k < 64) : rdb (wrf s a k k 0) a k = false :=
  rdb_wrf_flag s a false h

/-- A field reads as written where the value fits. -/
theorem rdf_wrf_fits (s : State) (a : Nat) {hi lo v : Nat} (h : hi < 64) (hv : v < 2 ^ (hi + 1 - lo)) :
    rdf (wrf s a hi lo v) a hi lo = v := by
  rw [rdf_wrf_same s a v h, Nat.mod_eq_of_lt hv]

/-- A saturating field after an addition. -/
theorem rdf_bump_same (s : State) (a : Nat) {hi lo : Nat} (n : Nat) (h : hi < 64) :
    rdf (bump s a hi lo n) a hi lo = Nat.min (2 ^ (hi + 1 - lo) - 1) (rdf s a hi lo + n) := by
  refine rdf_wrf_fits s a h (Nat.lt_of_le_of_lt (Nat.min_le_left _ _) ?_)
  have : 0 < 2 ^ (hi + 1 - lo) := by positivity
  omega

theorem rdf_bump_field (s : State) (a : Nat) {hi lo hi' lo' n : Nat} (h : hi' < lo ∨ hi < lo') :
    rdf (bump s a hi lo n) a hi' lo' = rdf s a hi' lo' := rdf_wrf_field s a _ h

theorem rdf_bump_other {s : State} {a b hi lo hi' lo' n : Nat} (h : b ≠ a) :
    rdf (bump s a hi lo n) b hi' lo' = rdf s b hi' lo' := rdf_wrf_other h

theorem rdf_congr {s t : State} {a hi lo : Nat} (h : rd t a = rd s a) : rdf t a hi lo = rdf s a hi lo := by
  rw [rdf, h, rdf]

theorem rdb_congr {s t : State} {a k : Nat} (h : rd t a = rd s a) : rdb t a k = rdb s a k := by
  rw [rdb, h, rdb]

theorem rdf_lt (s : State) (a hi lo : Nat) : rdf s a hi lo < 2 ^ (hi + 1 - lo) := bitsOf_lt _ _ _

end Sys2Proof.Machine
end

section
/-! PROOFS. Rails, clocks, sensors, the test access port and GLB_ALERT (R22, R24, R455 to R470). -/

namespace Sys2Proof.Machine

open Sys2Proof

/-! ## Rails, droop and trip -/

/-- A row of one update of the electrical state and at most ALERT bit 61. -/
theorem alertRail_frame {s t : State} (hu : restored 8192 s t = s) :
    rdb (wrf t aAlert 61 61 1) aAlert 61 = true
      ∧ changesOnly [.electrical] [(aAlert, 61, 61)] s (wrf t aAlert 61 61 1)
      ∧ changesOnly [.electrical] [(aAlert, 61, 61)] s t :=
  have h := (changesOnly.refl [.electrical] [(aAlert, 61, 61)] s).upd 8192 hu rfl
  ⟨rdb_wrf_one _ _ (by decide), h.wrf, h⟩

theorem railFault_shows {s : State} {rail : Nat} (h : rail < 11) : ∃ t, exec (.railFault rail) s = .next t
    ∧ t.el = { s.el with railsDown := s.el.railsDown ||| 2 ^ rail }
    ∧ (inReset s = false → rdb t aAlert 61 = true) ∧ (inReset s = true → t.regs = s.regs)
    ∧ changesOnly [.electrical] [(aAlert, 61, 61)] s t := by
  obtain ⟨hbit, hset, hheld⟩ := alertRail_frame (s := s)
    (t := { s with el := { s.el with railsDown := s.el.railsDown ||| 2 ^ rail } }) rfl
  have hx : exec (.railFault rail) s = .next _ := if_neg (by omega)
  by_cases hr : inReset s = true
  · exact ⟨_, hx.trans (congrArg _ (if_pos hr)), rfl, fun h0 => absurd (hr.symm.trans h0) (by decide),
      fun _ => rfl, hheld⟩
  · exact ⟨_, hx.trans (congrArg _ (if_neg hr)), rfl, fun _ => hbit, fun h1 => absurd h1 hr, hset⟩

theorem railReturn_shows {s : State} {rail : Nat} (h : s.el.railsDown.testBit rail = true) :
    ∃ t, exec (.railReturn rail) s = .next t
      ∧ t.el = { s.el with railsDown := s.el.railsDown - 2 ^ rail } ∧ t.regs = s.regs
      ∧ changesOnly [.electrical] [] s t := by
  exact ⟨_, if_pos h, rfl, rfl, (changesOnly.refl _ _ _).upd 8192 rfl rfl⟩

theorem avsUpdate_runs {s : State} {mv : Nat} (hr : inReset s = false) (hb : 6 ≤ bootStep s)
    (hl : avsLegal mv = true) : ¬(inReset s || decide (bootStep s < 6) || !avsLegal mv) = true := by
  simp [hr, hl]
  omega

theorem avsUpdate_acknowledged {s : State} {mv : Nat} (hr : inReset s = false) (hb : 6 ≤ bootStep s)
    (hl : avsLegal mv = true) : ∃ t, exec (.avsUpdate mv true) s = .next t
      ∧ t.el = { s.el with avsMv := mv, avsFailed := 0 } ∧ t.regs = s.regs ∧ changesOnly [.electrical] [] s t := by
  have hx : exec (.avsUpdate mv true) s = .next _ := (if_neg (avsUpdate_runs hr hb hl)).trans (if_pos rfl)
  exact ⟨_, hx, rfl, rfl, (changesOnly.refl _ _ _).upd 8192 rfl rfl⟩

theorem avsUpdate_failed {s : State} {mv : Nat} (hr : inReset s = false) (hb : 6 ≤ bootStep s)
    (hl : avsLegal mv = true) : ∃ t, exec (.avsUpdate mv false) s = .next t
      ∧ t.el = { s.el with avsFailed := Nat.min 4 (s.el.avsFailed + 1) }
      ∧ (3 ≤ s.el.avsFailed → rdb t aAlert 61 = true) ∧ (s.el.avsFailed < 3 → t.regs = s.regs)
      ∧ changesOnly [.electrical] [(aAlert, 61, 61)] s t := by
  obtain ⟨hbit, hset, hheld⟩ := alertRail_frame (s := s)
    (t := { s with el := { s.el with avsFailed := Nat.min 4 (s.el.avsFailed + 1) } }) rfl
  have hx : exec (.avsUpdate mv false) s = .next _ :=
    (if_neg (avsUpdate_runs hr hb hl)).trans (if_neg (by decide))
  have hmin : Nat.min 4 (s.el.avsFailed + 1) = 4 ↔ 3 ≤ s.el.avsFailed := by
    show min 4 (s.el.avsFailed + 1) = 4 ↔ 3 ≤ s.el.avsFailed
    omega
  by_cases h3 : 3 ≤ s.el.avsFailed
  · exact ⟨_, hx.trans (congrArg _ (if_pos (hmin.mpr h3))), rfl, fun _ => hbit, fun h => absurd h3 (Nat.not_le.mpr h), hset⟩
  · exact ⟨_, hx.trans (congrArg _ (if_neg (mt hmin.mp h3))), rfl, fun h => absurd h h3, fun _ => rfl, hheld⟩

theorem droopStretch_shows {s : State} {core : Nat} (hr : inReset s = false) (hc : core < 108) :
    ∃ t, exec (.droopStretch core) s = .next t ∧ tget 0 t.el.droops core = now s + 1
      ∧ (∀ k, k ≠ core → tget 0 t.el.droops k = tget 0 s.el.droops k) ∧ changesOnly [.electrical] [] s t := by
  exact ⟨_, if_neg (by simp [hr]; omega), tget_tset_same 0 s.el.droops core (now s + 1),
      fun k hk => tget_tset_other 0 0 s.el.droops (now s + 1) hk,
    (changesOnly.refl _ _ _).upd 8192 rfl rfl⟩

theorem aIsland_inj {i j : Nat} : aIsland i = aIsland j ↔ i = j := by
  simp only [aIsland]
  omega

theorem islandState_setIsland_same (s : State) (i : Nat) {st : Nat} (h : st < 4) :
    islandState (setIsland s i st) i = st := rdf_wrf_fits s _ (by decide) h

theorem islandState_setIsland_other {s : State} {i j st : Nat} (h : j ≠ i) :
    islandState (setIsland s i st) j = islandState s j := rdf_wrf_other (mt aIsland_inj.mp h)

theorem changesOnly.setIsland {ps : List Part} {fs : List (Nat × Nat × Nat)} {r s : State} {i st : Nat}
    (h : changesOnly ps fs r s) (hm : (aIsland i, 55, 54) ∈ fs := by simp) :
    changesOnly ps fs r (Machine.setIsland s i st) := h.wrf hm

/-- Every island of a list is left in the state given. -/
theorem islandState_forAll_setIsland {st : Nat} (h : st < 4) {i : Nat} :
    ∀ (is : List Nat) (s : State), i ∈ is ∨ islandState s i = st →
      islandState (forAll (fun s i => setIsland s i st) s is) i = st
  | [], _, hm => hm.resolve_left (by simp)
  | j :: is, s, hm => islandState_forAll_setIsland h is _ (by
      by_cases e : i = j
      · exact .inr (e ▸ islandState_setIsland_same s i h)
      · rw [islandState_setIsland_other e]
        simpa [e] using hm)

theorem thermTrip_shows (s : State) : ∃ t u, exec .thermTrip s = .next t ∧ t = stopTransmitters u
    ∧ t.el = { s.el with tripped := true } ∧ (∀ i, i < 204 → islandState u i = islandOff)
    ∧ changesOnly [.electrical] ((List.range 204).map fun i => (aIsland i, 55, 54)) s u
    ∧ touchesOnly [.links, .electrical] 0x1000_0000 [] s t := by
  have hs := (changesOnly.refl [.electrical] ((List.range 204).map fun i => (aIsland i, 55, 54)) s).upd
    (t := { s with el := { s.el with tripped := true } }) 8192 rfl rfl
  have hu := hs.trans (changesOnly_forAll (f := fun s i => setIsland s i islandOff) (xs := List.range 204)
    (fun s i hi => (changesOnly.refl _ _ s).setIsland (List.mem_map.mpr ⟨i, hi, rfl⟩)) _)
  have hk := stopTransmitters_keeps (m := 262146) (.refl _)
    (.refl _ (forAll (fun s i => setIsland s i islandOff) { s with el := { s.el with tripped := true } } (List.range 204)))
  have hel := forAll_rel (R := fun s t => t.el = s.el) (fun _ => rfl) (fun h g => g.trans h)
    (f := fun s i => setIsland s i islandOff) (xs := List.range 204) (fun _ _ _ => rfl)
    { s with el := { s.el with tripped := true } }
  refine ⟨_, _, rfl, rfl, (hk.el rfl).trans hel,
    fun i hi => islandState_forAll_setIsland (by decide) _ _ (.inl (List.mem_range.mpr hi)), hu, ?_⟩
  refine touchesOnly.keeps (k := 2) ((hu.touches (as := []) fun f hf => ?_).mono (by simp) le_rfl (by simp)) hk rfl rfl
  obtain ⟨i, -, rfl⟩ := List.mem_map.mp hf
  exact .inr (aIsland_from (by decide))

/-- Settles O1, row by row. -/
theorem railsDroopAndTrip : Obligations.RailsDroopAndTrip :=
  ⟨⟨fun _ _ h => railFault_shows h, fun _ _ h => railReturn_shows h,
      fun _ _ hr hb hl => avsUpdate_acknowledged hr hb hl, fun _ _ hr hb hl => avsUpdate_failed hr hb hl⟩,
    fun _ _ hr hc => droopStretch_shows hr hc, thermTrip_shows⟩

end Sys2Proof.Machine
end

section
/-! PROOFS. Reference clocks, PLLs and crossing timeouts (R22, R24, R459). -/

namespace Sys2Proof.Machine

open Sys2Proof

/-- The parts that the loss of an octet's clock reaches. -/
theorem dropOctets_keeps (os : List Nat) (s : State) :
    Keeps 533990399 s (settle (forAll (fun s o => octetDown (setIsland s (108 + o) islandLocking) o) s os)) :=
  settle_keeps rfl (forAll_keeps (fun _ _ h => octetDown_keeps rfl (setIsland_keeps rfl h)) (.refl _ _))

theorem sdrefLoss_shows {s : State} {q : Nat} (hq : q < 4) (h : s.el.sdrefLost.testBit q = false) :
    ∃ t, exec (.sdrefLoss q) s = .next t ∧ t.el = { s.el with sdrefLost := s.el.sdrefLost ||| 2 ^ q }
      ∧ (inReset s = false → rdb t aAlert 60 = true) ∧ (inReset s = true → t.regs = s.regs)
      ∧ touchesOnly [.fabric, .links, .granary, .binding, .cores, .stack, .stackMemory, .verdicts, .advance,
          .recorder, .yield, .electrical] 0x1000_0000 [aAlert] s t := by
  have hx : exec (.sdrefLoss q) s = _ := if_neg (by simp [h, hq])
  have hlost := (touchesOnly.refl [.fabric, .links, .granary, .binding, .cores, .stack, .stackMemory, .verdicts,
    .advance, .recorder, .yield, .electrical] (blockBase 2) [aAlert] s).upd
    (t := { s with el := { s.el with sdrefLost := s.el.sdrefLost ||| 2 ^ q } }) 8192 rfl rfl
  by_cases hr : inReset s = true
  · exact ⟨_, hx.trans (if_pos hr), rfl, fun h0 => absurd (hr.symm.trans h0) (by decide), fun _ => rfl, hlost⟩
  · refine ⟨_, hx.trans (if_neg hr), ?_, fun _ => ?_, fun h1 => absurd h1 hr, ?_⟩
    · exact (dropOctets_keeps _ _).el rfl
    · exact (rdb_congr ((dropOctets_keeps _ _).below (k := 2) rfl (by decide))).trans (rdb_wrf_one _ _ (by decide))
    · exact (hlost.wrf (.inl (by simp))).keeps (k := 2) (dropOctets_keeps _ _) rfl rfl

theorem sdrefReturn_shows {s : State} {q : Nat} (h : s.el.sdrefLost.testBit q = true) :
    ∃ t, exec (.sdrefReturn q) s = .next t ∧ t.el = { s.el with sdrefLost := s.el.sdrefLost - 2 ^ q }
      ∧ touchesOnly [.links, .electrical] 0x1000_0000 [] s t := by
  have hx : exec (.sdrefReturn q) s = .next _ := if_neg (by simp [h])
  have hup : ∀ (os : List Nat) (u : State),
      Keeps 402915330 u (forAll (fun s o => octetUp (relock s (108 + o)) o) u os) := fun os u =>
    forAll_keeps (fun _ _ h => octetUp_keeps rfl (relock_keeps rfl h)) (.refl _ _)
  have hback := (touchesOnly.refl [.links, .electrical] (blockBase 2) [] s).upd
    (t := { s with el := { s.el with sdrefLost := s.el.sdrefLost - 2 ^ q } }) 8192 rfl rfl
  exact ⟨_, hx, (hup _ _).el rfl, hback.keeps (hup _ _) rfl rfl⟩

theorem pllLockLoss_shows {s : State} {i : Nat} (hi : i < 205) (h : islandState s i = islandRunning) :
    ∃ u, islandState u i = islandLocking ∧ changesOnly [] [(aIsland i, 55, 54)] s u
      ∧ exec (.pllLockLoss i) s
        = .next (if 108 ≤ i ∧ i < 172 then settle (octetDown u (i - 108)) else u) := by
  refine ⟨setIsland s i islandLocking, islandState_setIsland_same _ _ (by decide),
    (changesOnly.refl _ _ _).setIsland, ?_⟩
  have hx : exec (.pllLockLoss i) s = _ := if_neg (by simp [h]; omega)
  rw [hx, apply_ite Host.Outcome.next]

/-- R22: the relock counts on the island and leaves it running. -/
theorem relock_shows (s : State) (i : Nat) : islandState (relock s i) i = islandRunning
    ∧ rdf (relock s i) (aIsland i) 15 0 = Nat.min 0xFFFF (rdf s (aIsland i) 15 0 + 1)
    ∧ changesOnly [] [(aIsland i, 55, 54), (aIsland i, 15, 0)] s (relock s i) :=
  ⟨islandState_setIsland_same _ _ (by decide),
    (rdf_wrf_field _ _ _ (by decide)).trans (rdf_bump_same _ _ _ (by decide)),
    ((changesOnly.refl _ _ s).bump).setIsland⟩

theorem pllRelock_shows {s : State} {i : Nat} (hi : i < 205) (h : islandState s i = islandLocking)
    (hq : 108 ≤ i ∧ i < 172 → s.el.sdrefLost.testBit ((i - 108) / 16) = false) :
    ∃ u, islandState u i = islandRunning
      ∧ rdf u (aIsland i) 15 0 = Nat.min 0xFFFF (rdf s (aIsland i) 15 0 + 1)
      ∧ changesOnly [] [(aIsland i, 55, 54), (aIsland i, 15, 0)] s u
      ∧ exec (.pllRelock i) s = .next (if 108 ≤ i ∧ i < 172 then octetUp u (i - 108) else u) := by
  obtain ⟨hrun, hcount, hframe⟩ := relock_shows s i
  refine ⟨relock s i, hrun, hcount, hframe, ?_⟩
  have hn : ¬(decide (205 ≤ i) || islandState s i != islandLocking
      || (decide (108 ≤ i ∧ i < 172) && s.el.sdrefLost.testBit ((i - 108) / 16))) = true := by
    by_cases ho : 108 ≤ i ∧ i < 172
    · simp [h, ho, hq ho]; omega
    · simp [h, ho]; omega
  have hx : exec (.pllRelock i) s = _ := if_neg hn
  rw [hx, apply_ite Host.Outcome.next]

theorem rdf_event_other {s : State} {code kind source : Nat} {x : EvItem} {a hi lo : Nat}
    (h : a < 0xA300_0000 ∨ 0xA400_0000 ≤ a) : rdf (event s code kind source x) a hi lo = rdf s a hi lo :=
  rdf_congr (rd_event_other h)

theorem xingTimeout_shows {s : State} {i j : Nat} (hr : inReset s = false) (hi : i < 205) (hj : j < 205)
    (hij : i ≠ j) (h : islandState s j = islandRunning ∨ islandState s j = islandLocking) : ∃ u,
      rdf u (aIsland i) 31 16 = Nat.min 0xFFFF (rdf s (aIsland i) 31 16 + 1)
      ∧ rdf u (aIsland j) 31 16 = Nat.min 0xFFFF (rdf s (aIsland j) 31 16 + 1)
      ∧ islandState u j = islandFallow ∧ touchesOnly [] 0xA300_0000 [] s u
      ∧ exec (.xingTimeout i j) s = .next (islandDown u j) := by
  have hhigh : ∀ k, 0xA400_0000 ≤ aIsland k := fun k => by unfold aIsland; omega
  have haij : aIsland i ≠ aIsland j := mt aIsland_inj.mp hij
  have hcounted : touchesOnly [] (blockBase 11) [] s
      (bump (bump s (aIsland i) 31 16 1) (aIsland j) 31 16 1) :=
    ((touchesOnly.refl _ _ _ s).bump (.inr (aIsland_from (by decide)))).bump (.inr (aIsland_from (by decide)))
  refine ⟨setIsland (event (bump (bump s (aIsland i) 31 16 1) (aIsland j) 31 16 1) 0x0105 srcIsland i
    { detail := j }) j islandFallow, ?_, ?_, islandState_setIsland_same _ _ (by decide), ?_, if_neg ?_⟩
  · rw [setIsland, rdf_wrf_other haij, rdf_event_other (.inr (hhigh i)), rdf_bump_other haij,
      rdf_bump_same _ _ _ (by decide)]
    rfl
  · rw [setIsland, rdf_wrf_field _ _ _ (by decide), rdf_event_other (.inr (hhigh j)),
      rdf_bump_same _ _ _ (by decide), rdf_bump_other haij.symm]
    rfl
  · exact (hcounted.keeps (event_keeps (m := 134217728) rfl (.refl _ _)) rfl rfl).wrf
      (.inr (aIsland_from (by decide)))
  · rcases h with h | h <;> simp [hr, h, hij] <;> omega

/-- Settles O2, row by row. -/
theorem clocksAndCrossings : Obligations.ClocksAndCrossings :=
  ⟨⟨fun _ _ hq h => sdrefLoss_shows hq h, fun _ _ h => sdrefReturn_shows h, fun _ _ hi h => pllLockLoss_shows hi h,
      fun _ _ hi h hq => pllRelock_shows hi h hq⟩,
    fun _ _ _ hr hi hj hij h => xingTimeout_shows hr hi hj hij h⟩

end Sys2Proof.Machine
end

section
/-! PROOFS. Sensor samples and thermal throttling (R464, R465). -/

namespace Sys2Proof.Machine

open Sys2Proof

theorem aSensor_inj {m n : Nat} : aSensor m = aSensor n ↔ m = n := by
  unfold aSensor
  omega

theorem aSensor_ne_aTherm (n : Nat) : aSensor n ≠ aTherm := by
  simp only [aSensor, aTherm]
  omega

theorem aSensor_ne_aAlert (n : Nat) : aSensor n ≠ aAlert := by
  simp only [aSensor, aAlert]
  omega

/-! ## One sensor -/

/-- All that a sample looks at and writes of one sensor. -/
structure SameSensor (n : Nat) (s t : State) : Prop where
  reg : rd t (aSensor n) = rd s (aSensor n)
  discards : tget 0 t.el.discards n = tget 0 s.el.discards n
  sampled : t.el.sampled.contains n = s.el.sampled.contains n

theorem SameSensor.refl (n : Nat) (s : State) : SameSensor n s s := ⟨rfl, rfl, rfl⟩

theorem SameSensor.trans {n : Nat} {r s t : State} (h : SameSensor n r s) (g : SameSensor n s t) : SameSensor n r t :=
  ⟨g.reg.trans h.reg, g.discards.trans h.discards, g.sampled.trans h.sampled⟩

theorem SameSensor.wr {n a : Nat} {r s : State} {w : Word} (h : SameSensor n r s) (ha : aSensor n ≠ a) :
    SameSensor n r (Machine.wr s a w) := ⟨(rd_wr_other ha).trans h.reg, h.discards, h.sampled⟩

theorem SameSensor.state_eq {n : Nat} {s t : State} (h : SameSensor n s t) : sensorState t n = sensorState s n :=
  rdf_congr h.reg

theorem SameSensor.temp_eq {n : Nat} {s t : State} (h : SameSensor n s t) : sensorTemp t n = sensorTemp s n := by
  rw [sensorTemp, rdf_congr h.reg, sensorTemp]

/-- A sample of one sensor leaves every other as it was. -/
theorem sampleSensor_same {s : State} {m n : Nat} (h : m ≠ n) (r : Int) : SameSensor m s (sampleSensor s n r) := by
  have hreg : aSensor m ≠ aSensor n := mt aSensor_inj.mp h
  have hel : ∀ k, SameSensor m s { s with el := { s.el with discards := tset 0 s.el.discards n k } } := fun k =>
    ⟨rfl, tget_tset_other 0 0 s.el.discards k h, rfl⟩
  unfold sampleSensor
  split
  · exact .refl m s
  · extract_lets last far k src s1 s2 seen s3
    split
    · have h2 : SameSensor m s s2 := ((hel k).wr hreg).wr hreg
      split
      · exact h2
      · exact (((h2.wr hreg).wr (aSensor_ne_aTherm m)).wr (aSensor_ne_aAlert m))
    · have h3 : SameSensor m s s3 := by
        refine ⟨rfl, (hel 0).discards, ?_⟩
        show seen.contains m = s.el.sampled.contains m
        unfold seen
        split
        · rfl
        · simp [h]
      exact (h3.wr hreg).wr hreg

/-- A code in 12-bit two's complement reads as the number it was made of. -/
theorem signed_unsigned_12 {r : Int} (h1 : -320 ≤ r) (h2 : r ≤ 1200) : signed 12 (unsigned 12 r) = r := by
  have hv : (unsigned 12 r : Int) = r % 2 ^ 12 := by
    unfold unsigned
    omega
  unfold signed
  split <;> omega

/-- R464: a reading in range and near the last one is the sensor's temperature. -/
theorem sampleSensor_accepts {s : State} {n : Nat} {r : Int} (hs : sensorState s n ≠ 2) (h1 : -320 ≤ r)
    (h2 : r ≤ 1200)
    (hnear : s.el.sampled.contains n = true → sensorTemp s n - 40 ≤ r ∧ r ≤ sensorTemp s n + 40) :
    sensorState (sampleSensor s n r) n = 0 ∧ sensorTemp (sampleSensor s n r) n = r
      ∧ tget 0 (sampleSensor s n r).el.discards n = 0 := by
  have hfar : ¬(decide (r < -320) || decide (1200 < r) || (s.el.sampled.contains n
      && (decide (r < sensorTemp s n - 40) || decide (sensorTemp s n + 40 < r)))) = true := by
    cases hc : s.el.sampled.contains n with
    | false => simp; omega
    | true =>
      have := hnear hc
      simp
      omega
  unfold sampleSensor
  rw [if_neg hs]
  simp only []
  rw [if_neg hfar]
  refine ⟨rdf_wrf_fits _ _ (by decide) (by decide), ?_, tget_tset_same 0 s.el.discards n 0⟩
  have hlt : unsigned 12 r < 2 ^ (61 + 1 - 50) := by
    unfold unsigned
    omega
  rw [sensorTemp, rdf_wrf_field _ _ _ (by decide), rdf_wrf_fits _ _ (by decide) hlt, signed_unsigned_12 h1 h2]

/-! ## All of them -/

theorem sampleAll_same {n : Nat} :
    ∀ (rs : List Int) (k : Nat) (s : State), n < k →
      SameSensor n s (forAll (fun s (x : Int × Nat) => sampleSensor s x.2 x.1) s (rs.zipIdx k))
  | [], _, s, _ => .refl n s
  | r :: rs, k, s, h =>
    (sampleSensor_same (by omega) r).trans (sampleAll_same rs (k + 1) _ (by omega))

/-- The sensor whose reading stands at its place in the list takes it, whatever the others do. -/
theorem sampleAll_accepts {n : Nat} {r : Int} (h1 : -320 ≤ r) (h2 : r ≤ 1200) :
    ∀ (rs : List Int) (k : Nat) (s : State), k ≤ n → rs[n - k]? = some r → sensorState s n ≠ 2 →
      (s.el.sampled.contains n = true → sensorTemp s n - 40 ≤ r ∧ r ≤ sensorTemp s n + 40) →
      let t := forAll (fun s (x : Int × Nat) => sampleSensor s x.2 x.1) s (rs.zipIdx k)
      sensorState t n = 0 ∧ sensorTemp t n = r ∧ tget 0 t.el.discards n = 0
  | [], _, _, _, hr, _, _ => by simp at hr
  | x :: rs, k, s, hk, hr, hs, hnear => by
    intro t
    by_cases e : k = n
    · subst e
      obtain rfl : x = r := by simpa using hr
      have hsame := sampleAll_same rs (k + 1) (sampleSensor s k x) (Nat.lt_succ_self k)
      obtain ⟨hstate, htemp, hdisc⟩ := sampleSensor_accepts hs h1 h2 hnear
      exact ⟨hsame.state_eq.trans hstate, hsame.temp_eq.trans htemp, hsame.discards.trans hdisc⟩
    · have hsame := sampleSensor_same (s := s) (Ne.symm e) x
      refine sampleAll_accepts h1 h2 rs (k + 1) _ (by omega) ?_ ?_ ?_
      · rwa [show n - k = n - (k + 1) + 1 by omega, List.getElem?_cons_succ] at hr
      · rwa [hsame.state_eq]
      · rwa [hsame.sampled, hsame.temp_eq]

/-- Only failed sensors are given a substitute. -/
theorem substitute_same {s : State} {n : Nat} (d : Int) (kind : List Nat) (h : sensorState s n ≠ 2) :
    SameSensor n s (substitute d kind s) := by
  unfold substitute
  extract_lets t
  refine forAll_rel (R := SameSensor n) (.refl n) SameSensor.trans (fun u m hm => ?_) s
  refine (SameSensor.refl n u).wr (mt aSensor_inj.mp ?_)
  rintro rfl
  simp_all

/-! ## What a sample changes -/

/-- The registers that the sensors report in. -/
def sensorFields : List (Nat × Nat × Nat) :=
  (aTherm, 63, 0) :: (aAlert, 63, 0) :: (List.range 61).map fun k => (aSensor k, 63, 0)

theorem aTherm_mem_sensorFields : (aTherm, 63, 0) ∈ sensorFields := List.mem_cons_self

theorem aAlert_mem_sensorFields : (aAlert, 63, 0) ∈ sensorFields := List.mem_cons_of_mem _ List.mem_cons_self

theorem aSensor_mem_sensorFields {n : Nat} (h : n < 61) : (aSensor n, 63, 0) ∈ sensorFields :=
  List.mem_cons_of_mem _ (List.mem_cons_of_mem _ (List.mem_map.mpr ⟨n, List.mem_range.mpr h, rfl⟩))

theorem sampleSensor_frame {s : State} {n : Nat} (h : n < 61) (r : Int) :
    changesOnly [.electrical] sensorFields s (sampleSensor s n r) := by
  have hn := aSensor_mem_sensorFields h
  unfold sampleSensor
  split
  · exact .refl _ _ s
  · extract_lets last far k src s1 s2 seen s3
    split
    · have h1 : changesOnly [.electrical] sensorFields s s1 := (changesOnly.refl _ _ s).upd 8192 rfl rfl
      have h2 : changesOnly [.electrical] sensorFields s s2 := (h1.wr hn).wr hn
      split
      · exact h2
      · exact ((h2.wr hn).wr aTherm_mem_sensorFields).wr aAlert_mem_sensorFields
    · have h3 : changesOnly [.electrical] sensorFields s s3 := (changesOnly.refl _ _ s).upd 8192 rfl rfl
      exact (h3.wr hn).wr hn

theorem substitute_frame {s : State} (d : Int) {kind : List Nat} (h : ∀ n ∈ kind, n < 61) :
    changesOnly [.electrical] sensorFields s (substitute d kind s) :=
  changesOnly_forAll (f := fun s n => wrf s (aSensor n) 61 50 _)
    (fun u n hn => (changesOnly.refl _ _ u).wr (aSensor_mem_sensorFields (h n (List.mem_filter.mp hn).1))) s

theorem dieSensors_lt : ∀ n ∈ dieSensors, n < 61 := by decide

theorem dramSensors_lt : ∀ n ∈ dramSensors, n < 61 := by decide

theorem sampleAll_frame (readings : List Int) (s : State) : changesOnly [.electrical] sensorFields s
    (forAll (fun s (x : Int × Nat) => sampleSensor s x.2 x.1) s (readings.take 61).zipIdx) := by
  refine changesOnly_forAll (fun u x hx => sampleSensor_frame ?_ _) s
  have := List.snd_lt_of_mem_zipIdx hx
  simp only [List.length_take] at this
  omega

theorem rd_eq_of_sensorFields {ps : List Part} {s t : State} (h : changesOnly ps sensorFields s t) {a : Nat}
    (h1 : a ≠ aTherm) (h2 : a ≠ aAlert) (h3 : ∀ k, k < 61 → a ≠ aSensor k) : rd t a = rd s a :=
  rd_eq_of_rdb fun k => h.2.2 a k fun f hf e => by
    simp only [sensorFields, List.mem_cons, List.mem_map, List.mem_range] at hf
    rcases hf with rfl | rfl | ⟨n, hn, rfl⟩
    · exact absurd e h1
    · exact absurd e h2
    · exact absurd e (h3 n hn)

theorem sensorSample_shows {s : State} {readings : List Int} {n : Nat} {r : Int} (hr : inReset s = false)
    (hn : n < 61) (hread : readings[n]? = some r) (hs : sensorState s n ≠ 2) (h1 : -320 ≤ r) (h2 : r ≤ 1200)
    (hnear : s.el.sampled.contains n = true → sensorTemp s n - 40 ≤ r ∧ r ≤ sensorTemp s n + 40) :
    ∃ t, exec (.sensorSample readings) s = .next t ∧ sensorState t n = 0 ∧ sensorTemp t n = r
      ∧ tget 0 t.el.discards n = 0
      ∧ (∀ a, a ≠ aTherm → a ≠ aAlert → (∀ k, k < 61 → a ≠ aSensor k) → rd t a = rd s a)
      ∧ t.pending = s.pending ∧ ∀ p, p ∉ [Part.electrical] → p.same s t := by
  have hx : exec (.sensorSample readings) s = .next _ := if_neg (by simp [hr])
  have htake : (readings.take 61)[n - 0]? = some r := by rwa [Nat.sub_zero, List.getElem?_take_of_lt hn]
  obtain ⟨hstate, htemp, hdisc⟩ := sampleAll_accepts h1 h2 (readings.take 61) 0 s (Nat.zero_le n) htake hs hnear
  have hframe := sampleAll_frame readings s
  generalize forAll (fun s (x : Int × Nat) => sampleSensor s x.2 x.1) s (readings.take 61).zipIdx = u
    at hx hstate htemp hdisc hframe
  have hdie := substitute_same (s := u) (n := n) 840 dieSensors (by rw [hstate]; decide)
  have hdram := substitute_same (n := n) 680 dramSensors
    (by rw [hdie.state_eq, hstate]; decide)
  have hsame : ∀ v w x, SameSensor n u (wr (wr (wr (substitute 680 dramSensors (substitute 840 dieSensors u))
      aTherm v) aTherm w) aAlert x) := fun _ _ _ =>
    (((hdie.trans hdram).wr (aSensor_ne_aTherm n)).wr (aSensor_ne_aTherm n)).wr (aSensor_ne_aAlert n)
  have hall : ∀ v w x, changesOnly [.electrical] sensorFields s
      (wr (wr (wr (substitute 680 dramSensors (substitute 840 dieSensors u)) aTherm v) aTherm w) aAlert x) :=
    fun _ _ _ => ((((hframe.trans (substitute_frame 840 dieSensors_lt)).trans (substitute_frame 680 dramSensors_lt)).wr
    aTherm_mem_sensorFields).wr aTherm_mem_sensorFields).wr aAlert_mem_sensorFields
  exact ⟨_, hx, (hsame _ _ _).state_eq.trans hstate, (hsame _ _ _).temp_eq.trans htemp,
    (hsame _ _ _).discards.trans hdisc, fun a => rd_eq_of_sensorFields (hall _ _ _), (hall _ _ _).1, (hall _ _ _).2.1⟩

/-! ## Throttling -/

theorem hottest_congr {s t : State} (h : ∀ n, sensorTemp t n = sensorTemp s n) (ns : List Nat) :
    hottest t ns = hottest s ns := by
  induction ns with
  | nil => rfl
  | cons n ns ih => simp only [hottest, ih, h]

/-- A step count of four bits stays one. -/
theorem stepTo_lt {k : Nat} (h : k < 16) (t : Int) : stepTo k t < 16 := by
  have : Nat.min 8 (k + 1) ≤ 8 := Nat.min_le_left _ _
  unfold stepTo
  split
  · omega
  · split <;> omega

/-- A table changed key by key from 0 upward. -/
theorem tget_foldl_range (f : Nat → Nat → Nat) (t : Tbl Nat) (k n : Nat) :
    tget 0 ((List.range k).foldl (fun t n => tset 0 t n (f (tget 0 t n) n)) t) n
      = if n < k then f (tget 0 t n) n else tget 0 t n := by
  induction k with
  | zero => rfl
  | succ k ih =>
    rw [List.range_succ, List.foldl_append, List.foldl_cons, List.foldl_nil, tget_tset]
    by_cases e : n = k
    · subst e
      rw [if_pos rfl, ih, if_neg (Nat.lt_irrefl n), if_pos (Nat.lt_succ_self n)]
    · rw [if_neg e, ih]
      exact if_congr (by omega) rfl rfl

theorem thermalThrottle_shows {s : State} (hr : inReset s = false) : ∃ t, exec .thermalThrottle s = .next t
    ∧ rdf t aTherm 47 44 = stepTo (rdf s aTherm 47 44) ((hottest s (List.range 37)).getD 0)
    ∧ (∀ n, n < 12 → tget 0 t.el.stackSteps n = stepTo (tget 0 s.el.stackSteps n) (stackReading s n))
    ∧ rdf t aTherm 31 0 = (if isReady s = true ∧ rdf s aTherm 47 40 ≠ 0 then
        Nat.min 0xFFFFFFFF (rdf s aTherm 31 0 + 1) else rdf s aTherm 31 0)
    ∧ changesOnly [.electrical] [(aTherm, 47, 44), (aTherm, 43, 40), (aTherm, 31, 0)] s t := by
  have hx : exec .thermalThrottle s = _ := if_neg (by simp [hr])
  obtain ⟨u, hu⟩ : ∃ u, u = if (isReady s && (rdf s aTherm 47 40 != 0)) = true then bump s aTherm 31 0 1 else s :=
    ⟨_, rfl⟩
  have hframe : changesOnly [.electrical] [(aTherm, 47, 44), (aTherm, 43, 40), (aTherm, 31, 0)] s u := by
    rw [hu]
    split
    · exact (changesOnly.refl _ _ s).bump
    · exact .refl _ _ s
  have hcount : rdf u aTherm 31 0 = if isReady s = true ∧ rdf s aTherm 47 40 ≠ 0 then
      Nat.min 0xFFFFFFFF (rdf s aTherm 31 0 + 1) else rdf s aTherm 31 0 := by
    rw [hu, apply_ite (rdf · aTherm 31 0), rdf_bump_same _ _ _ (by decide)]
    exact if_congr (by simp) rfl rfl
  have hstep : rdf u aTherm 47 44 = rdf s aTherm 47 44 := by
    rw [hu, apply_ite (rdf · aTherm 47 44), rdf_bump_field _ _ (by decide), ite_self]
  have hel : u.el = s.el := by
    rw [hu]
    split <;> rfl
  have htemp : ∀ n, sensorTemp u n = sensorTemp s n := fun n => by
    rw [sensorTemp, hu, apply_ite (rdf · (aSensor n) 61 50), rdf_bump_other (aSensor_ne_aTherm n), ite_self,
      sensorTemp]
  simp only [← hu] at hx
  refine ⟨_, hx, ?_, fun n hn => ?_, ?_, ?_⟩
  · rw [rdf_wrf_field _ _ _ (by decide)]
    refine (rdf_wrf_fits u aTherm (by decide) (stepTo_lt (rdf_lt u aTherm 47 44) _)).trans ?_
    rw [hstep, hottest_congr htemp]
  · refine (tget_foldl_range (fun k n => stepTo k (stackReading (wrf u aTherm 47 44 _) n)) u.el.stackSteps 12 n).trans ?_
    rw [if_pos hn, hel]
    have hread : ∀ n v, sensorTemp (wrf u aTherm 47 44 v) n = sensorTemp s n := fun n v => by
      rw [sensorTemp, rdf_wrf_other (aSensor_ne_aTherm n)]
      exact htemp n
    simp only [stackReading, hread]
  · rw [rdf_wrf_field _ _ _ (by decide)]
    exact (rdf_wrf_field u aTherm _ (by decide)).trans hcount
  · exact ((hframe.wrf).upd 8192 rfl rfl).wrf

/-- Settles O3: the sample of each sensor and what follows the samples; the steps of each domain. -/
theorem sensorsAndThrottle : Obligations.SensorsAndThrottle :=
  ⟨fun _ _ _ _ hr hn hread hs h1 h2 hnear => sensorSample_shows hr hn hread hs h1 h2 hnear,
    fun _ hr => thermalThrottle_shows hr⟩

end Sys2Proof.Machine
end

section
/-! PROOFS. The test access port (R463) and the clear of GLB_ALERT (R468). -/

namespace Sys2Proof.Machine

open Sys2Proof

theorem setTap_powered {s : State} (h : tapPowered s = true) (t : Tap) :
    setTap s t = { s with el := { s.el with tap := t } } := if_pos h

theorem tapBypass_powered {s : State} (h : tapPowered s = true) : exec .tapBypass s
    = .next { s with el := { s.el with tap := { s.el.tap with ir := .bypass, dr := 0 } } } :=
  congrArg _ (setTap_powered h _)

/-- An instruction that only POR_N admits: selected under it, else BYPASS. -/
theorem tapUnderPor {s : State} (h : tapPowered s = true) (hp : s.boot.porLow = true) (t : Tap) :
    (Host.Outcome.next (if s.boot.porLow = true then setTap s t else tapBypass s) : Answer)
      = .next { s with el := { s.el with tap := t } } :=
  congrArg _ ((if_pos hp).trans (setTap_powered h t))

theorem tapElsewhere {s : State} (hp : s.boot.porLow = false) (t : Tap) :
    (Host.Outcome.next (if s.boot.porLow = true then setTap s t else tapBypass s) : Answer) = exec .tapBypass s :=
  congrArg _ (if_neg (by simp [hp]))

/-! ## ALERT_CLEAR -/

theorem bitOf_putField_w1c (first : Bool) (old v acc : Word) (hi lo k : Nat) :
    bitOf (putField first old v acc (w1c hi lo)) k
      = (bitOf acc k && !(bitOf v k && bitOf (maskOf hi lo) k && bitOf old k)) := by
  by_cases h : k < 64
  · simp [putField, w1c, bitOf_and, bitOf_not, h]
  · simp [bitOf_ge (Nat.le_of_not_lt h)]

/-- The word of GLB_ALERT after a write: each of bits 61 to 57 that the write names is cleared. -/
theorem bitOf_mergedWord_alert (old v : Word) (k : Nat) :
    bitOf (mergedWord true alertFields old v) k
      = (bitOf old k && !(decide (57 ≤ k ∧ k ≤ 61) && bitOf v k)) := by
  have hro : ∀ acc hi lo, putField true old v acc (ro hi lo) = acc := fun _ _ _ => rfl
  have hrsv : ∀ acc hi lo, putField true old v acc (rsv hi lo) = acc := fun _ _ _ => rfl
  simp only [mergedWord, alertFields, List.foldl_cons, List.foldl_nil, hro, hrsv, bitOf_putField_w1c, bitOf_maskOf]
  by_cases h : 57 ≤ k ∧ k ≤ 61
  · obtain ⟨h1, h2⟩ := h
    have hword : ∀ a b : Bool, (a && (!b || !a)) = (a && !b) := by decide
    interval_cases k <;> simp [hword]
  · have hoff : ∀ j, 57 ≤ j → j ≤ 61 → (decide (k < 64) && (decide (j ≤ k) && decide (k < j + 1))) = false :=
      fun j hj1 hj2 => by simp; omega
    rw [hoff 61 (by decide) (by decide), hoff 60 (by decide) (by decide), hoff 59 (by decide) (by decide),
      hoff 58 (by decide) (by decide), hoff 57 (by decide) (by decide)]
    simp [h]

theorem any_congr_mem {α : Type} {f g : α → Bool} {xs : List α} (h : ∀ x ∈ xs, f x = g x) : xs.any f = xs.any g := by
  rw [Bool.eq_iff_iff, List.any_eq_true, List.any_eq_true]
  exact exists_congr fun x => and_congr_right fun hx => by rw [h x hx]

/-- R468's live causes are read from the sensors and the electrical state alone. -/
theorem liveCauses_congr {s t : State} (hel : t.el = s.el) (hr : ∀ n, n < 61 → rd t (aSensor n) = rd s (aSensor n)) :
    liveCauses t = liveCauses s := by
  have htemp : ∀ n, n < 61 → sensorTemp t n = sensorTemp s n := fun n hn => by
    rw [sensorTemp, rdf_congr (hr n hn), sensorTemp]
  have hdie : (dieSensors.any fun n => decide (800 ≤ sensorTemp t n))
      = dieSensors.any fun n => decide (800 ≤ sensorTemp s n) :=
    any_congr_mem fun n hn => by rw [htemp n (dieSensors_lt n hn)]
  have hdram : (dramSensors.any fun n => decide (680 ≤ sensorTemp t n))
      = dramSensors.any fun n => decide (680 ≤ sensorTemp s n) :=
    any_congr_mem fun n hn => by rw [htemp n (dramSensors_lt n hn)]
  have hfail : (allSensors.any fun n => sensorState t n == 2) = allSensors.any fun n => sensorState s n == 2 :=
    any_congr_mem fun n hn => by rw [sensorState, rdf_congr (hr n (List.mem_range.mp hn)), sensorState]
  rw [liveCauses, liveCauses, hdie, hdram, hfail, railMask, railMask, hel]

theorem liveCauses_logWrite (s : State) (path addr : Nat) (fs : List RField) (old v : Word) :
    liveCauses (logWrite s path addr fs old v) = liveCauses s :=
  liveCauses_congr ((logWrite_keeps (m := 134217728) rfl (.refl _ s)).el rfl)
    fun n hn => rd_logWrite (.inl (by unfold aSensor; omega))

/-- What ALERT_CLEAR leaves in GLB_ALERT, and what it may touch. -/
theorem alertWrite_shows (s : State) (path : Nat) (v : Word) :
    (∀ k, rdb (alertWrite s path v).st aAlert k
        = (rdb s aAlert k && !(decide (57 ≤ k ∧ k ≤ 61) && bitOf (v &&& ~~~ liveCauses s) k)))
      ∧ touchesOnly [] (blockBase 11) [aAlert] s (alertWrite s path v).st := by
  unfold alertWrite
  extract_lets s1
  have hrd : rd s1 aAlert = rd s aAlert := rd_logWrite (.inl (by decide))
  have hlive : liveCauses s1 = liveCauses s := liveCauses_logWrite ..
  refine ⟨fun k => ?_, ?_⟩
  · rw [rdb, rd_wr_same, bitOf_mergedWord_alert, hrd, hlive, rdb]
  · exact ((touchesOnly.refl _ _ _ s).keeps (logWrite_keeps (m := 134217728) rfl (.refl _ _)) rfl rfl).wr (.inl (by simp))

theorem alertClear_shows {s : State} (path : Nat) (value : Word) (h : manageable s) :
    ∃ t, exec (.alertClear path value) s = .next t
      ∧ (∀ k, 57 ≤ k → k ≤ 61 →
          rdb t aAlert k = (rdb s aAlert k && !(bitOf value k && !bitOf (liveCauses s) k)))
      ∧ (∀ k, k < 57 ∨ 61 < k → rdb t aAlert k = rdb s aAlert k)
      ∧ touchesOnly [.recorder] 0xA000_0000 [aAlert] s t := by
  obtain ⟨hbit, hframe⟩ := alertWrite_shows s path value
  have hx : exec (.alertClear path value) s = .next (captureWrite (alertWrite s path value).st aAlert value) :=
    congrArg _ (mgApply_ok h rfl)
  have hread : ∀ k, rdb (captureWrite (alertWrite s path value).st aAlert value) aAlert k
      = rdb (alertWrite s path value).st aAlert k := fun k => rdb_congr (rd_captureWrite (by decide))
  refine ⟨_, hx, fun k h1 h2 => ?_, fun k hk => ?_, ?_⟩
  · rw [hread, hbit, bitOf_and, bitOf_not]
    simp [h1, h2, show k < 64 by omega]
  · rw [hread, hbit, decide_eq_false (by omega)]
    simp
  · exact captureWrite_touches (hframe.mono (by simp) (by decide) (by simp)) (by simp) le_rfl

/-- Settles O4: the rows of the test access port are updates of its state; a clear merges GLB_ALERT's own fields. -/
theorem testPortAndAlert : Obligations.TestPortAndAlert :=
  ⟨fun _ h => ⟨tapBypass_powered h, congrArg _ (setTap_powered h _), fun _ hp => tapUnderPor h hp _,
      fun _ hp => tapUnderPor h hp _, fun _ hp => tapUnderPor h hp _,
      fun _ _ hp => ⟨tapElsewhere hp _, tapElsewhere hp _, tapElsewhere hp _⟩⟩,
    fun _ path value h => alertClear_shows path value h⟩

end Sys2Proof.Machine
end

section
/-! PROOFS. Lane training (R305 to R308, R394), lane commands and lane tests (R320, R321, R327). -/

namespace Sys2Proof.Machine

open Sys2Proof

/-! ## A command row (R9 to R12) -/

/-- A command word that meets no read-only, reserved, illegal or RW1 field is stored and its operation runs. -/
theorem cmdWrite_clean {s : State} {path a : Nat} {fs : List RField} {v : Word} {op : State → State × Nat}
    (h1 : touchesRo fs (rd s a) v = false) (h2 : touchesReserved fs v = false) (h3 : outOfRange fs v = false)
    (h4 : hasRw1 fs = false) :
    let r := op (wr s a (mergedWord (!s.mg.rw1.contains a) fs (rd s a) v))
    cmdWrite s path a fs v op = ⟨r.1, if r.2 = 0 then .ok else .refused r.2⟩ := by
  unfold cmdWrite
  rw [regWrite_clean h1 h2 h3 h4]
  simp only [h3, Bool.false_eq_true, if_false]

/-- The command row of a managed device whose operation answers OK. -/
theorem cmdRow_ok {s u : State} {path a : Nat} {fs : List RField} {v : Word} {op : State → State × Nat}
    (h : manageable s) (h1 : touchesRo fs (rd s a) v = false) (h2 : touchesReserved fs v = false)
    (h3 : outOfRange fs v = false) (h4 : hasRw1 fs = false)
    (hop : op (wr s a (mergedWord (!s.mg.rw1.contains a) fs (rd s a) v)) = (u, 0)) :
    mgApply s a v (fun s => cmdWrite s path a fs v op) = captureWrite u a v := by
  have hc := cmdWrite_clean (path := path) (op := op) h1 h2 h3 h4
  simp only [hop] at hc
  rw [mgApply_ok h (by rw [hc]; rfl), hc]

/-- The command row of a managed device whose operation refuses it with a code. -/
theorem cmdRow_refused {s u : State} {path a code : Nat} {fs : List RField} {v : Word} {op : State → State × Nat}
    (h : manageable s) (h1 : touchesRo fs (rd s a) v = false) (h2 : touchesReserved fs v = false)
    (h3 : outOfRange fs v = false) (h4 : hasRw1 fs = false) (hcode : code ≠ 0)
    (hop : op (wr s a (mergedWord (!s.mg.rw1.contains a) fs (rd s a) v)) = (u, code)) :
    mgApply s a v (fun s => cmdWrite s path a fs v op) = u := by
  have hc := cmdWrite_clean (path := path) (op := op) h1 h2 h3 h4
  simp only [hop, if_neg hcode] at hc
  rw [mgApply_not_ok h (by rw [hc]; exact fun x => nomatch x), hc]

/-! ## Registers of ports and lanes -/

/-- Two registers of port blocks at different offsets. -/
theorem aPrt_ne {p q x y : Nat} (hne : x ≠ y) (hx : x < 0x1_0000) (hy : y < 0x1_0000) : aPrt p x ≠ aPrt q y := by
  unfold aPrt
  omega

theorem aLaneStat_ne_aLinkStat (l p : Nat) : aLaneStat l ≠ aLinkStat p := aPrt_ne (by decide) (by decide) (by decide)

theorem aLaneStat_inj {k l : Nat} : aLaneStat k = aLaneStat l ↔ k = l := by
  simp only [aLaneStat, aPrt]
  omega

/-- A lane's registers lie below the recorder's block. -/
theorem aPrt_lt {l x : Nat} (h : l < 512) (hx : x < 0x1_0000) : aPrt l x < 0xA000_0000 := by
  unfold aPrt
  omega

theorem cfgWidth_congr {s t : State} {p : Nat} (h : rd t (aLinkCfg p) = rd s (aLinkCfg p)) :
    cfgWidth t p = cfgWidth s p := rdf_congr h

theorem lanesOf_congr {s t : State} {p : Nat} (h : rd t (aLinkCfg p) = rd s (aLinkCfg p)) :
    lanesOf t p = lanesOf s p := by
  rw [lanesOf, lanesOf, cfgWidth_congr h]

theorem portOfLane_congr {s t : State} {l : Nat} (hcfg : ∀ p, rd t (aLinkCfg p) = rd s (aLinkCfg p))
    (hcable : ∀ p, rd t (aCable p) = rd s (aCable p)) : portOfLane t l = portOfLane s l := by
  have hw : cfgWidth t = cfgWidth s := funext fun p => cfgWidth_congr (hcfg p)
  have hr : portRole t = portRole s := funext fun p => rdf_congr (hcable p)
  rw [portOfLane, hw, hr, portOfLane]

/-- A lane's port is the one whose width reaches it (R300). -/
theorem portOfLane_mem {s : State} {l p : Nat} (h : portOfLane s l = some p) : l ∈ lanesOf s p := by
  obtain ⟨d, -, hd⟩ := List.exists_of_findSome?_eq_some h
  split at hd
  next hc =>
    obtain rfl : l - d = p := Option.some.inj hd
    exact List.mem_map.mpr ⟨d, List.mem_range.mpr hc.2.1, by omega⟩
  next => cases hd

theorem portOfLane_le {s : State} {l p : Nat} (h : portOfLane s l = some p) : p ≤ l := by
  obtain ⟨d, -, rfl⟩ := List.mem_map.mp (portOfLane_mem h)
  omega

/-! ## Counters -/

theorem cntWidth_le (g x : Nat) : cntWidth g x ≤ 64 := by
  unfold cntWidth
  split
  · decide
  · decide
  · split <;> decide
  · split <;> decide
  · decide

/-- A counter advances modulo its width (R448). -/
theorem rd_count_same (s : State) (g i x n : Nat) :
    (rd (count s g i x n) (aCnt g i x)).toNat = ((rd s (aCnt g i x)).toNat + n) % 2 ^ cntWidth g x := by
  have hw : 2 ^ cntWidth g x ≤ 2 ^ 64 := Nat.pow_le_pow_right (by decide) (cntWidth_le g x)
  have hv : ∀ v, v % 2 ^ cntWidth g x % 2 ^ 64 = v % 2 ^ cntWidth g x := fun v =>
    Nat.mod_eq_of_lt (Nat.lt_of_lt_of_le (Nat.mod_lt _ (by positivity)) hw)
  unfold count
  extract_lets a v m t
  have ht : (rd t a).toNat = v % m := by
    rw [rd_wr_same, BitVec.toNat_ofNat]
    exact hv v
  split
  · rw [rd_wrf_other (by omega)]
    exact ht
  · exact ht

theorem rd_count_low {s : State} {g i x n a : Nat} (h : a < 0xA400_0000) : rd (count s g i x n) a = rd s a :=
  rd_count_other (by unfold aCnt; omega) (by unfold aCnt; omega)

theorem changesOnly.count {ps : List Part} {fs : List (Nat × Nat × Nat)} {r s : State} {g i x n : Nat}
    (h : changesOnly ps fs r s) (h1 : (aCnt g i x, 63, 0) ∈ fs := by simp)
    (h2 : (aCnt g i x + 8, 0, 0) ∈ fs := by simp) : changesOnly ps fs r (Machine.count s g i x n) := by
  unfold Machine.count
  extract_lets a v m t
  have ht : changesOnly ps fs r t := h.wr h1
  split
  · exact ht.wrf h2
  · exact ht

/-! ## Links -/

theorem rd_modLink (s : State) (p : Nat) (f : Link → Link) (a : Nat) : rd (modLink s p f) a = rd s a := rfl

theorem link_modLink_same (s : State) (p : Nat) (f : Link → Link) : link (modLink s p f) p = f (link s p) :=
  link_setLink_same s p _

theorem link_wrf (s : State) (a hi lo v p : Nat) : link (wrf s a hi lo v) p = link s p := rfl

theorem link_setLink_other {s : State} {p q : Nat} (l : Link) (h : q ≠ p) : link (setLink s p l) q = link s q := by
  rw [link_setLink, if_neg h]

theorem link_modLink_other {s : State} {p q : Nat} (f : Link → Link) (h : q ≠ p) :
    link (modLink s p f) q = link s q := link_setLink_other _ h

theorem changesOnly.modLink {ps : List Part} {fs : List (Nat × Nat × Nat)} {r s : State} {p : Nat} {f : Link → Link}
    (h : changesOnly ps fs r s) (hp : Part.links ∈ ps := by simp) : changesOnly ps fs r (Machine.modLink s p f) :=
  h.setLink hp

/-! ## A lane's state -/

theorem laneState_setLaneState_same (s : State) (l : Nat) {st : Nat} (h : st < 16) :
    laneState (setLaneState s l st) l = st := rdf_wrf_fits s _ (by decide) h

theorem laneState_congr {s t : State} {l : Nat} (h : rd t (aLaneStat l) = rd s (aLaneStat l)) :
    laneState t l = laneState s l := rdf_congr h

theorem rd_showRx_other {s : State} {p a : Nat} (h : a ≠ aLinkStat p) : rd (showRx s p) a = rd s a :=
  (rd_wrf_other h).trans (rd_wrf_other h)

theorem showRx_frame {ps : List Part} {fs : List (Nat × Nat × Nat)} {r s : State} {p : Nat}
    (h : changesOnly ps fs r s) (h1 : (aLinkStat p, 15, 0) ∈ fs) (h2 : (aLinkStat p, 54, 50) ∈ fs) :
    changesOnly ps fs r (showRx s p) := (h.wrf h1).wrf h2

/-- R308: a port with a lane that is neither ALIGNED nor FAILED stays where it is. -/
theorem checkLanes_of_unsettled {s : State} {p l : Nat} (hl : l ∈ lanesOf s p) (h1 : laneState s l ≠ lnAligned)
    (h2 : laneState s l ≠ lnFailed) : checkLanes s p = s := by
  unfold checkLanes
  extract_lets ph done some'
  have hd : done = false := by
    rw [Bool.eq_false_iff]
    intro hall
    have := List.all_eq_true.mp hall l hl
    simp [h1, h2] at this
  rw [hd]
  simp

/-- An event of a lane in a state that it leaves. -/
theorem laneEvent_runs {s : State} {l p : Nat} {from' : List Nat} {f : State → Nat → State}
    (hp : portOfLane s l = some p) (hs : silent s = false) (ho : octetRuns s l = true) (ht : portState s p ≠ lsTest)
    (hm : laneState s l ∈ from') : laneEvent s l from' f = .next (checkLanes (showRx (f s p) p) p) := by
  unfold laneEvent
  rw [hp]
  simp [hs, ho, ht, hm]

/-- What an event leaves that moves the lane to a state other than ALIGNED and FAILED. -/
theorem laneEvent_moves {s : State} {l p st : Nat} {from' : List Nat} {f : State → Nat → State}
    (hp : portOfLane s l = some p) (hs : silent s = false) (ho : octetRuns s l = true) (ht : portState s p ≠ lsTest)
    (hm : laneState s l ∈ from') (hst : laneState (f s p) l = st) (h1 : st ≠ lnAligned) (h2 : st ≠ lnFailed)
    (hcfg : rd (f s p) (aLinkCfg p) = rd s (aLinkCfg p)) :
    laneEvent s l from' f = .next (showRx (f s p) p) ∧ laneState (showRx (f s p) p) l = st := by
  have hlane : laneState (showRx (f s p) p) l = st :=
    (laneState_congr (rd_showRx_other (aLaneStat_ne_aLinkStat l p))).trans hst
  refine ⟨?_, hlane⟩
  rw [laneEvent_runs hp hs ho ht hm, checkLanes_of_unsettled (l := l) _ (by rwa [hlane]) (by rwa [hlane])]
  rw [lanesOf_congr ((rd_showRx_other (aPrt_ne (by decide) (by decide) (by decide))).trans hcfg)]
  exact portOfLane_mem hp

/-! ## The rows of R305 and R307 -/

section
variable {s : State} {l p : Nat} (hp : portOfLane s l = some p) (hs : silent s = false)
  (ho : octetRuns s l = true) (ht : portState s p ≠ lsTest)
include hp hs ho ht

/-- A row that only writes the lane's next state. -/
theorem laneEvent_sets {from' : List Nat} {st : Nat} (hm : laneState s l ∈ from') (hst : st < 16)
    (h1 : st ≠ lnAligned) (h2 : st ≠ lnFailed) :
    ∃ t, laneEvent s l from' (fun s _ => setLaneState s l st) = .next t ∧ laneState t l = st
      ∧ changesOnly [] [(aLaneStat l, 63, 60), (aLinkStat p, 15, 0), (aLinkStat p, 54, 50)] s t := by
  obtain ⟨hx, hlane⟩ := laneEvent_moves (f := fun s _ => setLaneState s l st) hp hs ho ht hm
    (laneState_setLaneState_same s l hst) h1 h2 (rd_wrf_other (aPrt_ne (by decide) (by decide) (by decide)))
  exact ⟨_, hx, hlane, showRx_frame (changesOnly.refl _ _ s).wrf (by simp) (by simp)⟩

theorem headerLock_shows (hm : laneState s l = lnHunt) (inverted : Bool) {peer : Nat} (hpeer : peer < 16) :
    ∃ t, exec (.headerLock l inverted peer) s = .next t ∧ laneState t l = lnLocked
      ∧ rdf t (aLaneStat l) 52 49 = peer ∧ rdb t (aLaneStat l) 48 = inverted
      ∧ changesOnly [] [(aLaneStat l, 52, 49), (aLaneStat l, 48, 48), (aLaneStat l, 63, 60), (aLinkStat p, 15, 0),
          (aLinkStat p, 54, 50)] s t := by
  have hne := aLaneStat_ne_aLinkStat l p
  have hstate : laneState (wrf (wrf (setLaneState s l lnLocked) (aLaneStat l) 52 49 peer) (aLaneStat l) 48 48
      (b2n inverted)) l = lnLocked := by
    rw [laneState, rdf_wrf_field _ _ _ (by decide), rdf_wrf_field _ _ _ (by decide)]
    exact laneState_setLaneState_same s l (by decide)
  have hcfg : rd (wrf (wrf (setLaneState s l lnLocked) (aLaneStat l) 52 49 peer) (aLaneStat l) 48 48
      (b2n inverted)) (aLinkCfg p) = rd s (aLinkCfg p) := by
    have : aLinkCfg p ≠ aLaneStat l := aPrt_ne (by decide) (by decide) (by decide)
    rw [rd_wrf_other this, rd_wrf_other this]
    exact rd_wrf_other this
  obtain ⟨hx, hlane⟩ := laneEvent_moves (f := fun s _ => wrf (wrf (setLaneState s l lnLocked) (aLaneStat l) 52 49 peer)
    (aLaneStat l) 48 48 (b2n inverted)) hp hs ho ht (List.mem_singleton.mpr hm) hstate (by decide) (by decide) hcfg
  refine ⟨_, hx, hlane, ?_, ?_, showRx_frame (((changesOnly.refl _ _ s).wrf).wrf.wrf) (by simp) (by simp)⟩
  · rw [rdf_congr (rd_showRx_other hne), rdf_wrf_field _ _ _ (by decide), rdf_wrf_fits _ _ (by decide) hpeer]
  · rw [rdb_congr (rd_showRx_other hne), rdb_wrf_flag _ _ _ (by decide)]

theorem markerCheck_valid (hm : laneState s l = lnMarkerHunt ∨ laneState s l = lnRelock) (late : Nat) : ∃ u,
    exec (.markerCheck l true late) s = .next (checkLanes (showRx u p) p) ∧ laneState u l = lnAligned
      ∧ link u p = { link s p with late := tset 0 (link s p).late l late }
      ∧ changesOnly [.links] [(aLaneStat l, 63, 60)] s u := by
  have hx := laneEvent_runs (from' := [lnMarkerHunt, lnRelock]) (f := fun s p => if true = true then
    modLink (setLaneState s l lnAligned) p fun x => { x with late := tset 0 x.late l late }
    else if laneState s l = lnRelock then s else setLaneState s l lnHunt) hp hs ho ht (by simpa using hm)
  rw [if_pos rfl] at hx
  refine ⟨_, hx, ?_, ?_, (changesOnly.refl _ _ s).wrf.modLink⟩
  · rw [laneState_congr (rd_modLink ..), laneState_setLaneState_same s l (by decide)]
  · rw [link_modLink_same, setLaneState, link_wrf]

theorem markerCheck_invalid (hm : laneState s l = lnMarkerHunt) (late : Nat) :
    ∃ t, exec (.markerCheck l false late) s = .next t ∧ laneState t l = lnHunt
      ∧ changesOnly [] [(aLaneStat l, 63, 60), (aLinkStat p, 15, 0), (aLinkStat p, 54, 50)] s t := by
  obtain ⟨t, hx, ht'⟩ := laneEvent_sets (from' := [lnMarkerHunt, lnRelock]) (st := lnHunt) hp hs ho ht (by simp [hm])
    (by decide) (by decide) (by decide)
  refine ⟨t, ?_, ht'⟩
  rw [← hx, exec_markerCheck, execMarkerCheck, laneEvent_runs hp hs ho ht (by simp [hm]),
    laneEvent_runs hp hs ho ht (by simp [hm])]
  simp [hm, lnMarkerHunt, lnRelock]

theorem lockLoss_shows (hm : laneState s l = lnAligned) (hl : l < 512) :
    ∃ t, exec (.lockLoss l) s = .next t ∧ laneState t l = lnRelock
      ∧ (rd t (aCnt 4 l 0)).toNat = ((rd s (aCnt 4 l 0)).toNat + 1) % 2 ^ cntWidth 4 0
      ∧ changesOnly [] [(aCnt 4 l 0, 63, 0), (aCnt 4 l 0 + 8, 0, 0), (aLaneStat l, 63, 60), (aLinkStat p, 15, 0),
          (aLinkStat p, 54, 50)] s t := by
  have hpl : p < 512 := Nat.lt_of_le_of_lt (portOfLane_le hp) hl
  have hstat : aLaneStat l < 0xA400_0000 := (aPrt_lt hl (by decide)).trans (by decide)
  have hlink : aLinkStat p < 0xA400_0000 := (aPrt_lt hpl (by decide)).trans (by decide)
  have hcfg : aLinkCfg p < 0xA400_0000 := (aPrt_lt hpl (by decide)).trans (by decide)
  obtain ⟨hx, hlane⟩ := laneEvent_moves (st := lnRelock) (f := fun s _ => count (setLaneState s l lnRelock) 4 l 0 1)
    hp hs ho ht (List.mem_singleton.mpr hm)
    ((laneState_congr (rd_count_low hstat)).trans (laneState_setLaneState_same s l (by decide)))
    (by decide) (by decide)
    ((rd_count_low hcfg).trans (rd_wrf_other (aPrt_ne (by decide) (by decide) (by decide))))
  refine ⟨_, hx, hlane, ?_, showRx_frame ((changesOnly.refl _ _ s).wrf.count) (by simp) (by simp)⟩
  have hcnt : 0xA400_0000 ≤ aCnt 4 l 0 := by
    unfold aCnt
    omega
  rw [rd_showRx_other (by omega), rd_count_same, setLaneState, rd_wrf_other (by omega)]

end

/-- What a new attempt of a lane that no fault holds leaves in the lane's status (R305). -/
theorem startAttempt_shows {u : State} {l k : Nat} (hh : laneHeld u l = false) (hk : k < 16) :
    laneState (startAttempt u l k) l = lnTrain ∧ laneAttempt (startAttempt u l k) l = k
      ∧ rdf (startAttempt u l k) (aLaneStat l) 55 53 = (firstPreset u + k - 1) % 8
      ∧ changesOnly [] [(aLaneStat l, 63, 60), (aLaneStat l, 59, 56), (aLaneStat l, 55, 53)] u (startAttempt u l k) := by
  have hpre : (firstPreset u + k - 1) % 8 < 2 ^ (55 + 1 - 53) := Nat.mod_lt _ (by decide)
  rw [startAttempt, hh, if_neg (by decide)]
  refine ⟨?_, ?_, rdf_wrf_fits _ _ (by decide) hpre, (changesOnly.refl _ _ u).wrf.wrf.wrf⟩
  · rw [laneState, rdf_wrf_field _ _ _ (by decide), rdf_wrf_field _ _ _ (by decide)]
    exact laneState_setLaneState_same u l (by decide)
  · rw [laneAttempt, rdf_wrf_field _ _ _ (by decide), rdf_wrf_fits _ _ (by decide) hk]

/-- The start of an attempt leaves every other register. -/
theorem rd_startAttempt_other {s : State} {l k a : Nat} (h : a ≠ aLaneStat l) :
    rd (startAttempt s l k) a = rd s a := by
  unfold startAttempt
  split
  · exact rd_wrf_other h
  · exact ((rd_wrf_other h).trans (rd_wrf_other h)).trans (rd_wrf_other h)

section
variable {s : State} {l p : Nat} (hp : portOfLane s l = some p) (hs : silent s = false)
  (ho : octetRuns s l = true) (ht : portState s p ≠ lsTest)
include hp hs ho ht

/-- A row that starts an attempt of a lane that no fault holds. -/
theorem laneEvent_starts {from' : List Nat} {f : State → Nat → State} {k : Nat} (hm : laneState s l ∈ from')
    (hf : f s p = startAttempt s l k) (hh : laneHeld s l = false) (hk : k < 16) :
    ∃ t, laneEvent s l from' f = .next t ∧ laneState t l = lnTrain ∧ laneAttempt t l = k
      ∧ rdf t (aLaneStat l) 55 53 = (firstPreset s + k - 1) % 8
      ∧ changesOnly [] [(aLaneStat l, 63, 60), (aLaneStat l, 59, 56), (aLaneStat l, 55, 53), (aLinkStat p, 15, 0),
          (aLinkStat p, 54, 50)] s t := by
  have hne := aLaneStat_ne_aLinkStat l p
  obtain ⟨hstate, hattempt, hpreset, hframe⟩ := startAttempt_shows hh hk
  obtain ⟨hx, hlane⟩ := laneEvent_moves (f := f) (st := lnTrain) hp hs ho ht hm (by rw [hf, hstate]) (by decide) (by decide)
    (by rw [hf]; exact rd_startAttempt_other (aPrt_ne (by decide) (by decide) (by decide)))
  rw [hf] at hx hlane
  refine ⟨_, hx, hlane, ?_, ?_, showRx_frame (hframe.mono (by simp) (by simp)) (by simp) (by simp)⟩
  · rw [laneAttempt, rdf_congr (rd_showRx_other hne)]
    exact hattempt
  · rw [rdf_congr (rd_showRx_other hne)]
    exact hpreset

theorem attemptTimeout_retries (hh : laneHeld s l = false) (h8 : laneAttempt s l < 8)
    (hm : laneState s l ∈ [lnTrain, lnHunt, lnLocked, lnSwitch, lnMarkerHunt]) :
    ∃ t, exec (.attemptTimeout l) s = .next t ∧ laneState t l = lnTrain ∧ laneAttempt t l = laneAttempt s l + 1
      ∧ rdf t (aLaneStat l) 55 53 = (firstPreset s + laneAttempt s l) % 8
      ∧ changesOnly [] [(aLaneStat l, 63, 60), (aLaneStat l, 59, 56), (aLaneStat l, 55, 53), (aLinkStat p, 15, 0),
          (aLinkStat p, 54, 50)] s t :=
  laneEvent_starts (f := fun s _ => nextAttempt s l) hp hs ho ht hm (if_neg (Nat.not_le.mpr h8)) hh (by omega)

theorem attemptTimeout_fails (hl : l < 512) (h8 : 8 ≤ laneAttempt s l)
    (hm : laneState s l ∈ [lnTrain, lnHunt, lnLocked, lnSwitch, lnMarkerHunt]) :
    ∃ u, exec (.attemptTimeout l) s = .next (checkLanes (showRx u p) p) ∧ laneState u l = lnFailed
      ∧ touchesOnly [] 0xA300_0000 [aLaneStat l] s u := by
  have hx := laneEvent_runs (f := fun s _ => nextAttempt s l) hp hs ho ht hm
  have hnext : nextAttempt s l = event (setLaneState s l lnFailed) 0x0501 srcLane l {} := if_pos h8
  rw [hnext] at hx
  have hlow : aLaneStat l < 0xA300_0000 := (aPrt_lt hl (by decide)).trans (by decide)
  refine ⟨_, hx, ?_, ?_⟩
  · rw [laneState_congr (rd_event_other (.inl hlow)), laneState_setLaneState_same s l (by decide)]
  · exact touchesOnly.keeps (k := 11) ((touchesOnly.refl _ _ _ s).wr (.inl (by simp)))
      (event_keeps (m := 134217728) rfl (.refl _ _)) rfl rfl

theorem relockTimeout_starts (hh : laneHeld s l = false) (hm : laneState s l = lnRelock) :
    ∃ t, exec (.relockTimeout l) s = .next t ∧ laneState t l = lnTrain ∧ laneAttempt t l = 1
      ∧ rdf t (aLaneStat l) 55 53 = firstPreset s % 8
      ∧ changesOnly [] [(aLaneStat l, 63, 60), (aLaneStat l, 59, 56), (aLaneStat l, 55, 53), (aLinkStat p, 15, 0),
          (aLinkStat p, 54, 50)] s t :=
  laneEvent_starts (f := fun s _ => startAttempt s l 1) hp hs ho ht (List.mem_singleton.mpr hm) rfl hh (by decide)

theorem relockTimeout_held (hh : laneHeld s l = true) (hm : laneState s l = lnRelock) :
    ∃ u, exec (.relockTimeout l) s = .next (checkLanes (showRx u p) p) ∧ laneState u l = lnFailed
      ∧ changesOnly [] [(aLaneStat l, 63, 60)] s u := by
  have hx := laneEvent_runs (f := fun s _ => startAttempt s l 1) hp hs ho ht (List.mem_singleton.mpr hm)
  have hheld : startAttempt s l 1 = setLaneState s l lnFailed := if_pos hh
  rw [hheld] at hx
  exact ⟨_, hx, laneState_setLaneState_same s l (by decide), (changesOnly.refl _ _ s).wrf⟩

end

/-- Settles O5: each row of R305 and R307 is a lane event, and a port with a lane still in training stays. -/
theorem laneTrainingAndAttempts : Obligations.LaneTrainingAndAttempts := by
  refine ⟨fun s l p hl hp hs ho ht => ⟨?_, ?_, ?_, ?_, ?_, ?_, ?_, ?_⟩, fun s l p hl hp hs ho ht => ⟨?_, ?_, ?_, ?_⟩⟩
  · exact fun hm => laneEvent_sets hp hs ho ht (List.mem_singleton.mpr hm) (by decide) (by decide) (by decide)
  · exact fun hm inverted peer hpeer => headerLock_shows hp hs ho ht hm inverted hpeer
  · exact fun hm => laneEvent_sets hp hs ho ht (List.mem_singleton.mpr hm) (by decide) (by decide) (by decide)
  · exact fun hm => laneEvent_sets hp hs ho ht (List.mem_singleton.mpr hm) (by decide) (by decide) (by decide)
  · exact fun hm => laneEvent_sets hp hs ho ht (List.mem_singleton.mpr hm) (by decide) (by decide) (by decide)
  · exact fun hm late => markerCheck_invalid hp hs ho ht hm late
  · exact fun hm late => markerCheck_valid hp hs ho ht hm late
  · exact fun hm => lockLoss_shows hp hs ho ht hm hl
  · exact fun hh h8 hm => attemptTimeout_retries hp hs ho ht hh h8 hm
  · exact fun h8 hm => attemptTimeout_fails hp hs ho ht hl h8 hm
  · exact fun hh hm => relockTimeout_starts hp hs ho ht hh hm
  · exact fun hh hm => relockTimeout_held hp hs ho ht hh hm

end Sys2Proof.Machine
end

section
/-! PROOFS. The lane commands and the lane tests (R320, R321, R327). -/

namespace Sys2Proof.Machine

open Sys2Proof

/-! ## LNK_LANE_CMD -/

/-- A lane command of a managed device: the word is stored, the operation runs and the write is captured. -/
theorem laneRow_shows {s : State} (path l : Nat) {op : Nat} (h : manageable s) (h1 : 1 ≤ op) (h3 : op ≤ 3) :
    ∃ w, laneRow s path l op
      = captureWrite (laneCommand (wr s (aLaneCmd l) w) l op) (aLaneCmd l) (bitsAt 63 60 op) := by
  have hop : bitsOf (bitsAt 63 60 op) 63 60 = op := by
    rw [bitsOf_bitsAt_same _ (by decide)]
    exact Nat.mod_eq_of_lt (by omega)
  refine ⟨_, cmdRow_ok h ?_ ?_ ?_ rfl (by rw [hop])⟩
  · rfl
  · simp [touchesReserved, rsv, bitsOf_bitsAt_other]
  · simp [outOfRange, rsv, hop, h1, h3]

theorem laneHeld_wr (s : State) (a : Nat) (w : Word) (l : Nat) : laneHeld (wr s a w) l = laneHeld s l := by
  rw [laneHeld, wr_cores, laneHeld]

/-- RETRAIN's work: the lane at TRAIN with ATTEMPT 1, its port where it was. -/
theorem retrain_shows {s : State} {l p op : Nat} (w : Word) (hp : portOfLane s l = some p)
    (hh : laneHeld s l = false)
    (hop : op = 1 ∧ laneState s l ≠ lnTest ∨ op = 2 ∧ laneState s l = lnFailed) :
    let u := laneCommand (wr s (aLaneCmd l) w) l op
    laneState u l = lnTrain ∧ laneAttempt u l = 1 ∧ touchesOnly [] 0x1000_0000 [] s u := by
  intro u
  have hstat : laneState (wr s (aLaneCmd l) w) l = laneState s l :=
    laneState_congr (rd_wr_other (aPrt_ne (by decide) (by decide) (by decide)))
  have hport : portOfLane (wr s (aLaneCmd l) w) l = some p := by
    rw [← hp]
    exact portOfLane_congr (fun q => rd_wr_other (aPrt_ne (by decide) (by decide) (by decide)))
      fun q => rd_wr_other (aPrt_ne (by decide) (by decide) (by decide))
  obtain ⟨hstate, hattempt, -, hframe⟩ := startAttempt_shows (u := wr s (aLaneCmd l) w) (l := l) (k := 1)
    ((laneHeld_wr ..).trans hh) (by decide)
  have hshown : rd (showRx (startAttempt (wr s (aLaneCmd l) w) l 1) p) (aLaneStat l)
      = rd (startAttempt (wr s (aLaneCmd l) w) l 1) (aLaneStat l) := rd_showRx_other (aLaneStat_ne_aLinkStat l p)
  have hcfg : rd (showRx (startAttempt (wr s (aLaneCmd l) w) l 1) p) (aLinkCfg p) = rd s (aLinkCfg p) := by
    have h1 : aLinkCfg p ≠ aLinkStat p := aPrt_ne (by decide) (by decide) (by decide)
    have h2 : aLinkCfg p ≠ aLaneStat l := aPrt_ne (by decide) (by decide) (by decide)
    have h3 : aLinkCfg p ≠ aLaneCmd l := aPrt_ne (by decide) (by decide) (by decide)
    rw [rd_showRx_other h1, rd_startAttempt_other h2, rd_wr_other h3]
  have hlane : laneState (showRx (startAttempt (wr s (aLaneCmd l) w) l 1) p) l = lnTrain :=
    (laneState_congr hshown).trans hstate
  have hu : u = showRx (startAttempt (wr s (aLaneCmd l) w) l 1) p := by
    have hstay := checkLanes_of_unsettled (p := p) (l := l) (by rw [lanesOf_congr hcfg]; exact portOfLane_mem hp)
      (by rw [hlane]; decide) (by rw [hlane]; decide)
    unfold u laneCommand
    rcases hop with ⟨rfl, hs⟩ | ⟨rfl, hs⟩ <;> simp only [hstat, hport, hstay, beq_iff_eq]
    · exact if_neg hs
    · exact if_pos hs
  rw [hu]
  refine ⟨hlane, (rdf_congr hshown).trans hattempt, ?_⟩
  exact ((touchesOnly.refl _ _ _ s).wr (.inr (aLaneCmd_from le_rfl))).trans
    ((showRx_frame (fs := [(aLaneStat l, 63, 60), (aLaneStat l, 59, 56), (aLaneStat l, 55, 53), (aLinkStat p, 15, 0),
      (aLinkStat p, 54, 50)]) (hframe.mono (by simp) (by simp)) (by simp) (by simp)).touches fun f hf => .inr (by
      simp only [List.mem_cons, List.not_mem_nil, or_false] at hf
      rcases hf with rfl | rfl | rfl | rfl | rfl <;> exact aPrt_from le_rfl))

theorem retrainRow_shows {s : State} {l p op : Nat} (path : Nat) (h : manageable s) (hl : l < 512)
    (hp : portOfLane s l = some p) (hh : laneHeld s l = false)
    (hop : op = 1 ∧ laneState s l ≠ lnTest ∨ op = 2 ∧ laneState s l = lnFailed) :
    laneState (laneRow s path l op) l = lnTrain ∧ laneAttempt (laneRow s path l op) l = 1
      ∧ touchesOnly [.links, .recorder] 0x1000_0000 [] s (laneRow s path l op) := by
  obtain ⟨w, hw⟩ := laneRow_shows path l (op := op) h (by omega) (by omega)
  obtain ⟨hstate, hattempt, hframe⟩ := retrain_shows w hp hh hop
  have hread : ∀ u v, rd (captureWrite u (aLaneCmd l) v) (aLaneStat l) = rd u (aLaneStat l) := fun u v =>
    rd_captureWrite (aPrt_lt hl (by decide))
  rw [hw]
  exact ⟨(laneState_congr (hread _ _)).trans hstate, (rdf_congr (hread _ _)).trans hattempt,
    captureWrite_touches (hframe.mono (by simp) le_rfl (by simp)) (by simp) (by decide)⟩

theorem clearPrbs_shows {s : State} {l : Nat} (path : Nat) (h : manageable s) (hl : l < 512) :
    ∃ t, exec (.clearPrbs path l) s = .next t ∧ rdf t (aPrbsErr l) 47 0 = 0
      ∧ touchesOnly [.recorder] 0xA000_0000 [aPrbsErr l, aLaneCmd l] s t := by
  obtain ⟨w, hw⟩ := laneRow_shows path l (op := 3) h (by decide) (by decide)
  refine ⟨_, congrArg Host.Outcome.next hw, ?_, ?_⟩
  · have hlow : aPrbsErr l < 0xA000_0000 := aPrt_lt hl (by decide)
    rw [rdf_congr (rd_captureWrite hlow)]
    exact rdf_wrf_fits _ _ (by decide) (by decide)
  · exact captureWrite_touches (((touchesOnly.refl _ _ _ s).wr (.inl (by simp))).wrf (.inl (by simp))) (by simp) le_rfl

/-! ## LNK_LANE_TEST -/

/-- A write that meets no RW1 field: what it logs, then the merged word. -/
theorem regWrite_noRw1 {s : State} {path a : Nat} {fs : List RField} {v : Word} (h : hasRw1 fs = false) :
    regWrite s path a fs v
      = wr (logWrite s path a fs (rd s a) v) a (mergedWord (!s.mg.rw1.contains a) fs (rd s a) v) := by
  unfold regWrite
  simp only [h, Bool.false_and, Bool.false_eq_true, if_false]

/-- The fields of LNK_LANE_TEST, of which a write takes 63:58. -/
def laneTestFields : List RField := [rw 63 62, rwIf 61 60 (· != 3), rwIf 59 58 (· != 3), ro 57 57, rsv 56 0]

theorem mergedWord_laneTest {first : Bool} {old v : Word} (h1 : bitsOf v 61 60 ≠ 3) (h2 : bitsOf v 59 58 ≠ 3) :
    mergedWord first laneTestFields old v
      = putBits (putBits (putBits old 63 62 (bitsOf v 63 62)) 61 60 (bitsOf v 61 60)) 59 58 (bitsOf v 59 58) := by
  simp [mergedWord, laneTestFields, putField, rw, rwIf, ro, rsv, h1, h2]

/-- Three fields side by side are one. -/
theorem bitsOf_putBits_laneTest (old v : Word) :
    bitsOf (putBits (putBits (putBits old 63 62 (bitsOf v 63 62)) 61 60 (bitsOf v 61 60)) 59 58 (bitsOf v 59 58)) 63 58
      = bitsOf v 63 58 := by
  apply Nat.eq_of_testBit_eq
  intro i
  simp only [testBit_bitsOf, getLsbD_putBits]
  by_cases hi : i < 6
  · interval_cases i <;> simp
  · simp [hi]

theorem laneTestWrite_inTest {s : State} (path : Nat) {l : Nat} {v : Word} (ht : laneInTest s l = true)
    (h1 : bitsOf v 61 60 ≠ 3) (h2 : bitsOf v 59 58 ≠ 3) :
    let t := (laneTestWrite s path l v).st
    rdf t (aLaneTest l) 63 58 = bitsOf v 63 58
      ∧ rdf t (aLaneTest l) 57 57 = (if rdf s (aLaneTest l) 59 58 = bitsOf v 59 58 then
          rdf s (aLaneTest l) 57 57 else 0)
      ∧ touchesOnly [] (blockBase 11) [aLaneTest l] s t := by
  have hw := rd_regWrite_same s path (aLaneTest l) laneTestFields v
  rw [mergedWord_laneTest h1 h2] at hw
  have hframe : touchesOnly [] (blockBase 11) [aLaneTest l] s (regWrite s path (aLaneTest l) laneTestFields v) := by
    rw [regWrite_noRw1 rfl]
    exact ((touchesOnly.refl _ _ _ s).keeps (logWrite_keeps (m := 134217728) rfl (.refl _ _)) rfl rfl).wr
      (.inl (by simp))
  have hpat : rdf (regWrite s path (aLaneTest l) laneTestFields v) (aLaneTest l) 59 58 = bitsOf v 59 58 := by
    rw [rdf, hw, bitsOf_putBits_copy _ _ (by decide)]
  have h63 : rdf (regWrite s path (aLaneTest l) laneTestFields v) (aLaneTest l) 63 58 = bitsOf v 63 58 := by
    rw [rdf, hw, bitsOf_putBits_laneTest]
  have h57 : rdf (regWrite s path (aLaneTest l) laneTestFields v) (aLaneTest l) 57 57 = rdf s (aLaneTest l) 57 57 := by
    rw [rdf, hw, bitsOf_putBits_other _ _ (by decide), bitsOf_putBits_other _ _ (by decide),
      bitsOf_putBits_other _ _ (by decide), rdf]
  intro t
  have ht : t = if rdf (regWrite s path (aLaneTest l) laneTestFields v) (aLaneTest l) 59 58 = rdf s (aLaneTest l) 59 58
      then regWrite s path (aLaneTest l) laneTestFields v
      else wrf (regWrite s path (aLaneTest l) laneTestFields v) (aLaneTest l) 57 57 0 := by
    unfold t laneTestWrite
    rw [ht, if_neg (by decide)]
    rfl
  rw [ht, hpat]
  by_cases he : bitsOf v 59 58 = rdf s (aLaneTest l) 59 58
  · rw [if_pos he, if_pos he.symm]
    exact ⟨h63, h57, hframe⟩
  · rw [if_neg he, if_neg (Ne.symm he)]
    exact ⟨(rdf_wrf_field _ _ _ (by decide)).trans h63, rdf_wrf_fits _ _ (by decide) (by decide),
      hframe.wrf (.inl (by simp))⟩

theorem laneTest_shows {s : State} (path : Nat) {l : Nat} (value : Word) (h : manageable s) (hl : l < 512)
    (ht : laneInTest s l = true) (h1 : bitsOf value 61 60 ≠ 3) (h2 : bitsOf value 59 58 ≠ 3) :
    ∃ t, exec (.laneTestWrite path l value) s = .next t ∧ rdf t (aLaneTest l) 63 58 = bitsOf value 63 58
      ∧ rdf t (aLaneTest l) 57 57 = (if rdf s (aLaneTest l) 59 58 = bitsOf value 59 58 then
          rdf s (aLaneTest l) 57 57 else 0)
      ∧ touchesOnly [.recorder] 0xA000_0000 [aLaneTest l] s t := by
  obtain ⟨h63, h57, hframe⟩ := laneTestWrite_inTest path ht h1 h2
  have hok : (laneTestWrite s path l value).out = .ok := by
    unfold laneTestWrite
    rw [ht, if_neg (by decide)]
  have hlow : aLaneTest l < 0xA000_0000 := aPrt_lt hl (by decide)
  refine ⟨_, congrArg Host.Outcome.next (mgApply_ok h hok), ?_, ?_, ?_⟩
  · rw [rdf_congr (rd_captureWrite hlow), h63]
  · rw [rdf_congr (rd_captureWrite hlow), h57]
  · exact captureWrite_touches (hframe.mono (by simp) (by decide) (by simp)) (by simp) le_rfl

theorem laneTest_outside {s : State} (path : Nat) {l : Nat} (value : Word) (h : manageable s)
    (ht : laneInTest s l = false) : ∃ t, exec (.laneTestWrite path l value) s = .next t
      ∧ touchesOnly [.recorder] 0xA000_0000 [] s t := by
  have hw : laneTestWrite s path l value = ⟨refuseR12 s path (aLaneTest l), .ok⟩ := by
    unfold laneTestWrite
    rw [ht]
    rfl
  have hframe : touchesOnly [] (blockBase 11) [] s (refuseR12 s path (aLaneTest l)) :=
    (refuseR12_keeps (m := 134217728) rfl (.refl _ s)).touchesOnly 11 rfl rfl _
  refine ⟨_, congrArg Host.Outcome.next (mgApply_ok h (by rw [hw])), ?_⟩
  rw [hw]
  exact captureWrite_touches (hframe.mono (by simp) (by decide) (by simp)) (by simp) le_rfl

/-! ## The pattern checker -/

theorem prbsLockLoss_shows {s : State} {l bits : Nat} (hc : checkerRuns s l = true)
    (hlock : rdb s (aLaneTest l) 57 = true) : ∃ t, exec (.prbsLockLoss l bits) s = .next t
      ∧ rdb t (aLaneTest l) 57 = false
      ∧ rdf t (aPrbsErr l) 47 0 = Nat.min (2 ^ 48 - 1) (rdf s (aPrbsErr l) 47 0 + bits)
      ∧ changesOnly [] [(aLaneTest l, 57, 57), (aPrbsErr l, 47, 0)] s t := by
  have hne : aPrbsErr l ≠ aLaneTest l := aPrt_ne (by decide) (by decide) (by decide)
  refine ⟨_, if_pos (by rw [hc, hlock]; rfl), rdb_wrf_zero _ _ (by decide), ?_, (changesOnly.refl _ _ s).bump.wrf⟩
  rw [rdf_wrf_other hne, rdf_bump_same _ _ _ (by decide)]

/-- Settles O9: RETRAIN and CLEAR_FAILED start an attempt, which keeps the port where it is; the rest writes its own
registers. -/
theorem laneCommands : Obligations.LaneCommands :=
  ⟨fun _ path _ _ h hl hp hh ht => ⟨_, rfl, retrainRow_shows path h hl hp hh (.inl ⟨rfl, ht⟩)⟩,
    fun _ path _ _ h hl hp hh hf => ⟨_, rfl, retrainRow_shows path h hl hp hh (.inr ⟨rfl, hf⟩)⟩,
    fun _ path _ h hl => clearPrbs_shows path h hl,
    fun _ path _ value h hl ht h1 h2 => laneTest_shows path value h hl ht h1 h2,
    fun _ path _ value h _ ht => laneTest_outside path value h ht,
    fun _ _ hc => ⟨_, if_pos hc, rdb_wrf_one _ _ (by decide), (changesOnly.refl _ _ _).wrf⟩,
    fun _ _ _ hc hlock => prbsLockLoss_shows hc hlock⟩

end Sys2Proof.Machine
end

section
/-! PROOFS. The width of a port beyond the device's 512: its status register lies in the event log. -/

namespace Sys2Proof.Machine

open Sys2Proof

/-- A port number whose PRT_LINK_STAT is word 1 of entry 0 of the event log. -/
def logPort : Nat := 0x9301

/-- A state with a running link at that port, whose partner reports one healthy lane, and an empty log. -/
def logPortState : State :=
  { State.reset with
    links := [(logPort, [{ Link.empty with phase := lsForwarding, txMask := 1 }])]
    mg := { State.reset.mg with logging := true } }

theorem logPort_status : aLinkStat logPort = aEvtEntry 0 1 := by decide

theorem logPort_runs : linkRuns logPortState logPort = true := by decide

/-- Its WIDTH_CHANGE logs PORT_WIDTH, and the entry overwrites the width that the register then shows. -/
theorem logPort_width : ∃ t, exec (.widthChange logPort) logPortState = .next t
    ∧ rdf t (aLinkStat logPort) 59 55 = 10 :=
  ⟨event (setActive logPortState logPort (activeSet 1)) 0x0503 srcPort logPort {}, rfl, by decide⟩

/-- Refutes O6: WIDTH_CHANGE logs after it has set TX_WIDTH, and the statement does not bound the port; the status
register of port 0x9301 would be word 1 of entry 0 of the event log, where the entry's own word lands. -/
theorem not_portBringUpAndLoss : ¬Obligations.PortBringUpAndLoss := by
  rintro ⟨⟨-, -, -, -, -, -, hwidth⟩, -⟩
  obtain ⟨t, hx, -, -, hshown, -⟩ := hwidth logPortState logPort logPort_runs (by decide)
  obtain ⟨u, hu, h10⟩ := logPort_width
  obtain rfl : u = t := Host.Outcome.next.inj (hu.symm.trans hx)
  rw [h10] at hshown
  exact absurd hshown (by decide)

end Sys2Proof.Machine
end

section
/-! PROOFS. Link-level retry and credit blocks (R314 to R318). -/

namespace Sys2Proof.Machine

open Sys2Proof

/-! ## Retry -/

/-- An update of one port's link. -/
theorem modLink_shows (s : State) (p : Nat) (f : Link → Link) :
    link (modLink s p f) p = f (link s p) ∧ (∀ q, q ≠ p → link (modLink s p f) q = link s q)
      ∧ changesOnly [.links] [] s (modLink s p f) :=
  ⟨link_modLink_same s p f, fun _ hq => link_modLink_other f hq, (changesOnly.refl _ _ s).modLink⟩

theorem link_count (s : State) (g i x n p : Nat) : link (count s g i x n) p = link s p := by
  unfold count
  extract_lets a v m t
  split <;> rfl

/-- An update of one port's link after a count. -/
theorem modLink_count_shows (s : State) (g i x n p : Nat) (f : Link → Link) :
    link (modLink (count s g i x n) p f) p = f (link s p)
      ∧ (∀ q, q ≠ p → link (modLink (count s g i x n) p f) q = link s q)
      ∧ (rd (modLink (count s g i x n) p f) (aCnt g i x)).toNat
        = ((rd s (aCnt g i x)).toNat + n) % 2 ^ cntWidth g x
      ∧ changesOnly [.links] [(aCnt g i x, 63, 0), (aCnt g i x + 8, 0, 0)] s (modLink (count s g i x n) p f) := by
  refine ⟨?_, fun q hq => ?_, ?_, (changesOnly.refl _ _ s).count.modLink⟩
  · rw [link_modLink_same, link_count]
  · rw [link_modLink_other f hq, link_count]
  · rw [rd_modLink, rd_count_same]

theorem not_linkRuns {s : State} {p : Nat} (h : linkRuns s p = true) : ¬(!linkRuns s p) = true := by simp [h]

/-- The unit expected is accepted. -/
theorem goodUnit_expected {s : State} {p : Nat} (hd : (link s p).discarding = false) :
    goodUnit s p (link s p).rxExpect = modLink s p fun l => { l with rxExpect := (l.rxExpect + 1) % 4096 } := by
  simp [goodUnit, hd]

theorem goodUnit_discarded {s : State} {p seq : Nat}
    (h : (link s p).discarding = true ∨ seq ≠ (link s p).rxExpect) : goodUnit s p seq = s := by
  rcases h with h | h <;> simp [goodUnit, h]

/-- A first bad unit is discarded with what follows it, and asked for again. -/
theorem badUnit_first {s : State} {p reason : Nat} (hd : (link s p).discarding = false) :
    badUnit s p reason = sendNak (modLink s p fun l => { l with discarding := true }) p reason := by
  simp [badUnit, hd]

/-- Two updates of one port's link are one. -/
theorem modLink_modLink (s : State) (p : Nat) (f g : Link → Link) :
    link (modLink (modLink s p f) p g) p = g (f (link s p))
      ∧ (∀ q, q ≠ p → link (modLink (modLink s p f) p g) q = link s q) :=
  ⟨by rw [link_modLink_same, link_modLink_same], fun q hq => by
    rw [link_modLink_other g hq, link_modLink_other f hq]⟩

/-- What the first bad unit leaves, after its count. -/
theorem badUnit_count_shows {s : State} {p : Nat} (hd : (link s p).discarding = false) (g i x n reason : Nat) :
    link (badUnit (count s g i x n) p reason) p
        = { link s p with discarding := true, lastSent := [nakBlock (link s p).rxExpect reason] }
      ∧ (∀ q, q ≠ p → link (badUnit (count s g i x n) p reason) q = link s q)
      ∧ (rd (badUnit (count s g i x n) p reason) (aCnt g i x)).toNat
        = ((rd s (aCnt g i x)).toNat + n) % 2 ^ cntWidth g x
      ∧ changesOnly [.links] [(aCnt g i x, 63, 0), (aCnt g i x + 8, 0, 0)] s (badUnit (count s g i x n) p reason) := by
  have hd' : (link (count s g i x n) p).discarding = false := by rw [link_count, hd]
  rw [badUnit_first hd', sendNak]
  obtain ⟨hsame, hother⟩ := modLink_modLink (count s g i x n) p (fun l => { l with discarding := true })
    fun l => { l with lastSent := [nakBlock l.rxExpect reason] }
  refine ⟨?_, fun q hq => ?_, ?_, (changesOnly.refl _ _ s).count.modLink.modLink⟩
  · rw [hsame, link_count]
  · rw [hother q hq, link_count]
  · rw [rd_modLink, rd_modLink, rd_count_same]

theorem badUnit_shows {s : State} {p : Nat} (hd : (link s p).discarding = false) (reason : Nat) :
    link (badUnit s p reason) p
        = { link s p with discarding := true, lastSent := [nakBlock (link s p).rxExpect reason] }
      ∧ (∀ q, q ≠ p → link (badUnit s p reason) q = link s q)
      ∧ changesOnly [.links] [] s (badUnit s p reason) := by
  rw [badUnit_first hd, sendNak]
  obtain ⟨hsame, hother⟩ := modLink_modLink s p (fun l => { l with discarding := true })
    fun l => { l with lastSent := [nakBlock l.rxExpect reason] }
  exact ⟨hsame, hother, (changesOnly.refl _ _ s).modLink.modLink⟩

/-- What a replay from a unit of the window sends and counts. -/
theorem replayFrom_shows (s : State) (p k : Nat) :
    link (replayFrom s p k) p = { link s p with
        lastSent := replayBlock k :: ((link s p).window.dropWhile fun u => u.seq != k).map Unit'.bytes }
      ∧ (∀ q, q ≠ p → link (replayFrom s p k) q = link s q)
      ∧ changesOnly [.links] [(aCnt 1 p dcReplay, 63, 0), (aCnt 1 p dcReplay + 8, 0, 0)] s (replayFrom s p k) := by
  unfold replayFrom
  extract_lets us t
  obtain ⟨hsame, hother, -, hframe⟩ := modLink_count_shows s 1 p dcReplay us.length p
    fun l => { l with lastSent := replayBlock k :: us.map Unit'.bytes }
  exact ⟨hsame, hother, hframe⟩

theorem dropWhile_seq_head (u : Unit') (us : List Unit') :
    (u :: us).dropWhile (fun x => x.seq != u.seq) = u :: us := by simp

/-! ## Credit blocks -/

/-- A cumulative ACK of a unit in the window. -/
theorem takeAck_named {s : State} {p ack : Nat} (h : ((link s p).window.any fun u => u.seq == ack) = true) :
    ∃ n left, takeAck s p ack
      = { setLink s p { link s p with window := (link s p).window.drop n, txAcked := ack } with
          fab := { s.fab with unacked := tset [] s.fab.unacked p left } }
      ∧ n = ((link s p).window.takeWhile fun u => u.seq != ack).length + 1 :=
  ⟨_, _, if_pos h, by simp⟩

/-- A cumulative ACK moves the window of its own port alone. -/
theorem takeAck_shows (s : State) (p ack : Nat) :
    (∃ w a, link (takeAck s p ack) p = { link s p with window := w, txAcked := a }
        ∧ ((∀ x ∈ (link s p).window, x.seq ≠ ack) → w = (link s p).window)
        ∧ (∀ older x newer, (link s p).window = older ++ x :: newer → x.seq = ack → (∀ y ∈ older, y.seq ≠ ack) →
          w = newer))
      ∧ (∀ q, q ≠ p → link (takeAck s p ack) q = link s q) ∧ changesOnly [.links, .fabric] [] s (takeAck s p ack) := by
  by_cases hany : ((link s p).window.any fun u => u.seq == ack) = true
  · obtain ⟨n, left, htake, hn⟩ := takeAck_named hany
    rw [htake]
    refine ⟨⟨_, _, link_setLink_same _ _ _, fun hnone => ?_, fun older x newer hwin hx hold => ?_⟩,
      fun q hq => link_setLink_other _ hq, (changesOnly.refl _ _ s).setLink.upd 1 rfl rfl⟩
    · obtain ⟨u, hu, hseq⟩ := List.any_eq_true.mp hany
      exact absurd (beq_iff_eq.mp hseq) (hnone u hu)
    · have hw : (older ++ x :: newer).takeWhile (fun u => u.seq != ack) = older := by
        rw [List.takeWhile_append_of_pos (by simpa using hold), List.takeWhile_cons_of_neg (by simp [hx]),
          List.append_nil]
      rw [hn, hwin, hw]
      simp
  · rw [show takeAck s p ack = s from if_neg hany]
    refine ⟨⟨_, _, rfl, fun _ => rfl, fun older x newer hwin hx _ => ?_⟩, fun _ _ => rfl, .refl _ _ s⟩
    exact (hany (List.any_eq_true.mpr ⟨x, by rw [hwin]; simp, by simp [hx]⟩)).elim

/-- A table set key by key keeps every other key. -/
theorem tget_foldl_zip_notin {f : Nat → Nat} (key : Nat → Nat) (hkey : ∀ i j, key i = key j → i = j) :
    ∀ (ks vs : List Nat) (t : Tbl Nat) (k : Nat), k ∉ ks →
      tget 0 ((ks.zip vs).foldl (fun t x => tset 0 t (key x.1) (f x.2)) t) (key k) = tget 0 t (key k)
  | [], _, _, _, _ => rfl
  | _ :: _, [], _, _, _ => rfl
  | j :: ks, v :: vs, t, k, hk => by
    rw [List.mem_cons, not_or] at hk
    rw [List.zip_cons_cons, List.foldl_cons, tget_foldl_zip_notin key hkey ks vs _ k hk.2,
      tget_tset_other 0 0 t (f v) (mt (hkey k j) hk.1)]

/-- A table set key by key, from a list of distinct keys and as many values. -/
theorem tget_foldl_zip {f : Nat → Nat} (key : Nat → Nat) (hkey : ∀ i j, key i = key j → i = j) :
    ∀ (ks vs : List Nat) (t : Tbl Nat) (i : Nat), ks.Nodup → vs.length = ks.length → i < ks.length →
      tget 0 ((ks.zip vs).foldl (fun t x => tset 0 t (key x.1) (f x.2)) t) (key (ks.getD i 0)) = f (vs.getD i 0)
  | [], _, _, _, _, _, hi => by simp at hi
  | k :: ks, [], _, _, _, hl, _ => by simp at hl
  | k :: ks, v :: vs, t, i, hn, hl, hi => by
    obtain ⟨hk, hn⟩ := List.nodup_cons.mp hn
    rw [List.zip_cons_cons, List.foldl_cons]
    cases i with
    | zero =>
      rw [List.getD_cons_zero, List.getD_cons_zero, tget_foldl_zip_notin key hkey ks vs _ k hk, tget_tset_same]
    | succ i =>
      rw [List.getD_cons_succ, List.getD_cons_succ]
      exact tget_foldl_zip key hkey ks vs _ i hn (by simpa using hl) (by simpa using hi)

/-- What a CREDIT block leaves of its port's link, whatever its furrows. -/
structure CreditTaken (s u : State) (p ack mask : Nat) (fs ret : List Nat) : Prop where
  peerRet : ∀ i, i < fs.length → tget 0 (link u p).peerRet (fs.getD i 0) = ret.getD i 0 % 2 ^ 16
  txMask : (link u p).txMask = mask
  shown : rdf u (aLinkPeer p) 30 15 = mask % 2 ^ 16
  kept : (∀ x ∈ (link s p).window, x.seq ≠ ack) → (link u p).window = (link s p).window
  acked : ∀ older x newer, (link s p).window = older ++ x :: newer → x.seq = ack → (∀ y ∈ older, y.seq ≠ ack) →
    (link u p).window = newer
  others : ∀ q, q ≠ p → link u q = link s q
  frame : changesOnly [.links, .fabric] [(aLinkPeer p, 30, 15)] s u
  narrow : tooNarrow u p mask = tooNarrow s p mask

theorem takeCredit_shows {s : State} {p ack mask : Nat} {fs ret : List Nat} (hn : fs.Nodup)
    (hl : ret.length = fs.length) : CreditTaken s (takeCredit s p ack mask fs ret) p ack mask fs ret := by
  obtain ⟨⟨w, a, hlink, hkept, hacked⟩, hother, hframe⟩ := takeAck_shows s p ack
  unfold takeCredit
  extract_lets t pr u
  have hu : link u p = { link s p with window := w, txAcked := a, peerRet := pr, txMask := mask } := by
    rw [link_modLink_same, hlink]
  have hframe' : changesOnly [.links, .fabric] [(aLinkPeer p, 30, 15)] s u :=
    changesOnly.modLink (hframe.mono (fun _ h => h) (by simp))
  refine ⟨fun i hi => ?_, ?_, rdf_wrf_same _ _ _ (by decide), fun h => ?_, fun older x newer h1 h2 h3 => ?_,
    fun q hq => ?_, hframe'.wrf, ?_⟩
  · rw [link_wrf, hu]
    exact tget_foldl_zip (f := (· % 2 ^ 16)) id (fun _ _ h => h) fs ret _ i hn hl hi
  · rw [link_wrf, hu]
  · rw [link_wrf, hu, hkept h]
  · rw [link_wrf, hu, hacked older x newer h1 h2 h3]
  · rw [link_wrf, link_modLink_other _ hq, hother q hq]
  · rw [tooNarrow, minWidth, link_wrf, hu, tooNarrow, minWidth]

theorem creditA_shows {s : State} {p ack mask : Nat} {ret : List Nat} (hr : linkRuns s p = true)
    (hl : ret.length = 7) : ∃ u,
      (∀ i, i < 7 → tget 0 (link u p).peerRet i = ret.getD i 0 % 2 ^ 16) ∧ (link u p).txMask = mask
      ∧ rdf u (aLinkPeer p) 30 15 = mask % 2 ^ 16
      ∧ ((∀ x ∈ (link s p).window, x.seq ≠ ack) → (link u p).window = (link s p).window)
      ∧ (∀ older x newer, (link s p).window = older ++ x :: newer → x.seq = ack → (∀ y ∈ older, y.seq ≠ ack) →
          (link u p).window = newer)
      ∧ (∀ q, q ≠ p → link u q = link s q) ∧ changesOnly [.links, .fabric] [(aLinkPeer p, 30, 15)] s u
      ∧ exec (.creditA p ack mask ret) s
        = .next (if tooNarrow s p mask = true then settle (portLost u p 1) else u) := by
  have h := takeCredit_shows (s := s) (p := p) (ack := ack) (mask := mask) (fs := [0, 1, 2, 3, 4, 5, 6]) (ret := ret)
    (by decide) hl
  refine ⟨_, fun i hi => ?_, h.txMask, h.shown, h.kept, h.acked, h.others, h.frame, ?_⟩
  · have := h.peerRet i hi
    rwa [show ([0, 1, 2, 3, 4, 5, 6] : List Nat).getD i 0 = i by interval_cases i <;> rfl] at this
  · rw [← h.narrow]
    exact if_neg (not_linkRuns hr)

theorem qKey_inj {p i j : Nat} (h : qKey p i = qKey p j) : i = j := by
  unfold qKey at h
  omega

theorem takeHints_frame (s : State) (p : Nat) (hints : List Nat) : changesOnly [.fabric] [] s (takeHints s p hints) :=
  (changesOnly.refl _ _ s).upd 1 rfl rfl

theorem takeHints_shows (s : State) {p : Nat} {hints : List Nat} (hl : hints.length = 8) :
    (∀ i, i < 8 → tget 0 (takeHints s p hints).fab.hints (qKey p (8 + i)) = hints.getD i 0 % 16)
      ∧ p ∈ (takeHints s p hints).fab.hinted := by
  constructor
  · intro i hi
    have := tget_foldl_zip (f := (· % 16)) (qKey p) (fun _ _ => qKey_inj) [8, 9, 10, 11, 12, 13, 14, 15] hints
      s.fab.hints i (by decide) hl hi
    rwa [show ([8, 9, 10, 11, 12, 13, 14, 15] : List Nat).getD i 0 = 8 + i by interval_cases i <;> rfl] at this
  · show p ∈ if s.fab.hinted.contains p = true then s.fab.hinted else s.fab.hinted ++ [p]
    split
    next h => exact List.contains_iff_mem.mp h
    · simp

theorem creditB_shows {s : State} {p ack mask : Nat} {ret hints : List Nat} (hr : linkRuns s p = true)
    (hl : ret.length = 6) (hh : hints.length = 8) : ∃ u,
      (∀ i, i < 6 → tget 0 (link u p).peerRet (8 + i) = ret.getD i 0 % 2 ^ 16) ∧ (link u p).txMask = mask
      ∧ rdf u (aLinkPeer p) 30 15 = mask % 2 ^ 16
      ∧ (∀ i, i < 8 → tget 0 u.fab.hints (qKey p (8 + i)) = hints.getD i 0 % 16) ∧ p ∈ u.fab.hinted
      ∧ (∀ q, q ≠ p → link u q = link s q) ∧ changesOnly [.links, .fabric] [(aLinkPeer p, 30, 15)] s u
      ∧ exec (.creditB p ack mask ret hints) s
        = .next (if tooNarrow s p mask = true then settle (portLost u p 1) else u) := by
  have h := takeCredit_shows (s := s) (p := p) (ack := ack) (mask := mask) (fs := [8, 9, 10, 11, 12, 13]) (ret := ret)
    (by decide) hl
  obtain ⟨hhints, hhinted⟩ := takeHints_shows (takeCredit s p ack mask [8, 9, 10, 11, 12, 13] ret) (p := p) hh
  refine ⟨takeHints (takeCredit s p ack mask [8, 9, 10, 11, 12, 13] ret) p hints, fun i hi => ?_, h.txMask, h.shown,
    hhints, hhinted, h.others, h.frame.trans ((takeHints_frame _ p hints).mono (by simp) (by simp)), ?_⟩
  · have := h.peerRet i hi
    rwa [show ([8, 9, 10, 11, 12, 13] : List Nat).getD i 0 = 8 + i by interval_cases i <;> rfl] at this
  · rw [← h.narrow]
    exact if_neg (not_linkRuns hr)

/-- Settles O7: each row of link-level retry is an update of its port's link, after at most one count. -/
theorem retryAndCredits : Obligations.RetryAndCredits := by
  refine ⟨fun s p hr _ => ⟨fun hd => ?good, fun seq h => ?discarded, fun hd lane n => ?corrected, fun hd seq => ?block,
    fun hd seq lane => ?codeword, fun hd seq lane => ?badCtrl, fun k hk => ?nak, fun k hk => ?nakOutside,
    fun hd => ?replay, fun hd => ?nakRepeat, fun u us hw => ?timeout⟩,
    fun _ _ _ _ _ hr hl => creditA_shows hr hl, fun _ _ _ _ _ _ hr hl hh => creditB_shows hr hl hh⟩
  all_goals have hruns := not_linkRuns hr
  case good => exact ⟨_, (if_neg hruns).trans (congrArg _ (goodUnit_expected hd)), modLink_shows s p _⟩
  case discarded => exact (if_neg hruns).trans (congrArg _ (goodUnit_discarded h))
  case corrected =>
    have hx : exec (.retryUnit p (link s p).rxExpect (.corrected lane n)) s
        = .next (modLink (count s 4 lane 3 n) p fun l => { l with rxExpect := (l.rxExpect + 1) % 4096 }) := by
      refine (if_neg hruns).trans (congrArg _ ?_)
      rw [← link_count s 4 lane 3 n p]
      exact goodUnit_expected (by rw [link_count, hd])
    exact ⟨_, hx, modLink_count_shows s 4 lane 3 n p _⟩
  case block => exact ⟨_, if_neg hruns, badUnit_shows hd 2⟩
  case codeword => exact ⟨_, if_neg hruns, badUnit_count_shows hd 4 lane 2 1 1⟩
  case badCtrl => exact ⟨_, if_neg hruns, badUnit_count_shows hd 4 lane 1 1 2⟩
  case nak => exact ⟨_, (if_neg hruns).trans (if_pos hk), replayFrom_shows s p k⟩
  case nakOutside => exact (if_neg hruns).trans (if_neg (by rw [hk]; decide))
  case replay =>
    exact ⟨_, if_pos (by simp [hr, hd]), link_setLink_same _ _ _, fun q hq => link_setLink_other _ hq,
      (changesOnly.refl _ _ s).setLink⟩
  case nakRepeat => exact ⟨_, if_pos (by simp [hr, hd]), modLink_shows s p _⟩
  case timeout =>
    have hx : exec (.retryTimeout p) s = .next (replayFrom s p u.seq) := by
      rw [exec_retryTimeout, execRetryTimeout, hw]
      exact if_pos hr
    obtain ⟨hlink, hother, hframe⟩ := replayFrom_shows s p u.seq
    rw [hw, dropWhile_seq_head] at hlink
    exact ⟨_, hx, hlink, hother, hframe⟩

end Sys2Proof.Machine
end

section
/-! PROOFS. The forwarding table: commands, table writes and the scan of a held entry (R111, R112, R124 to
R130). -/

namespace Sys2Proof.Machine

open Sys2Proof

/-! ## Registers of the forwarding block -/

theorem aFwdEntry_ne_cmd (i : Nat) : aFwdEntry i ≠ aFwdCmd := by
  unfold aFwdEntry aFwdCmd
  omega

theorem aFwdEntry_ne_stat (i : Nat) : aFwdEntry i ≠ aFwdStat := by
  unfold aFwdEntry aFwdStat
  omega

theorem aFwdEntry_lt {i : Nat} (h : i < 2 ^ 18) : aFwdEntry i < 0xA000_0000 := by
  unfold aFwdEntry
  omega

theorem aEcmp_ne_stat (set w : Nat) : aEcmp set w ≠ aFwdStat := by
  unfold aEcmp aFwdStat
  omega

theorem aEcmp_lt {set w : Nat} (h : set < 4096) (hw : w ≤ 10) : aEcmp set w < 0xA000_0000 := by
  unfold aEcmp
  omega

/-! ## HOLD records -/

theorem holdOf_setHold_same (s : State) (i : Nat) (x : List Hold) : holdOf (setHold s i x) i = x.head? :=
  congrArg List.head? (tget_tset_same [] s.fab.holds i x)

theorem holdOf_setHold_other {s : State} {i j : Nat} (x : List Hold) (h : j ≠ i) :
    holdOf (setHold s i x) j = holdOf s j :=
  congrArg List.head? (tget_tset_other [] [] s.fab.holds x h)

theorem touchesOnly.setHold {ps : List Part} {b : Nat} {as : List Nat} {r s : State} {i : Nat} {x : List Hold}
    (h : touchesOnly ps b as r s) (hp : Part.fabric ∈ ps := by simp) :
    touchesOnly ps b as r (Machine.setHold s i x) :=
  h.upd 1 rfl (partMask_mem hp)

/-- OCC_SCAN_END ends the scan of its own entry. -/
theorem occScanEnd_shows {s : State} {i : Nat} {x : Hold} (h : holdOf s i = some x) :
    ∃ t, exec (.occScanEnd i) s = .next t ∧ holdOf t i = some ⟨false, x.arrivals⟩
      ∧ (∀ j, j ≠ i → holdOf t j = holdOf s j) ∧ changesOnly [.fabric] [] s t := by
  refine ⟨setHold s i [{ x with scanning := false }], ?_, holdOf_setHold_same .., fun j hj => holdOf_setHold_other _ hj,
    (changesOnly.refl _ _ s).upd 1 rfl rfl⟩
  rw [exec_occScanEnd, execOccScanEnd, h]

/-! ## FWD_CMD -/

theorem bitsOf_fwdCmdWord {op i : Nat} (hop : op < 16) (hi : i < 2 ^ 18) :
    bitsOf (fwdCmdWord op i) 63 60 = op ∧ bitsOf (fwdCmdWord op i) 17 0 = i
      ∧ bitsOf (fwdCmdWord op i) 59 18 = 0 := by
  simp only [fwdCmdWord, bitsOf_or, bitsOf_bitsAt_same _ (show 63 < 64 by decide),
    bitsOf_bitsAt_same _ (show 17 < 64 by decide), bitsOf_bitsAt_other, show (17 : Nat) < 60 by decide,
    show (59 : Nat) < 60 by decide, show (17 : Nat) < 18 by decide, true_or, or_true, Nat.or_zero, Nat.zero_or]
  exact ⟨Nat.mod_eq_of_lt (by omega), Nat.mod_eq_of_lt (by omega), trivial⟩

/-- The fields of FWD_CMD (R128). -/
def fwdCmdFields : List RField :=
  [⟨63, 60, .wo, fun w => 1 ≤ bitsOf w 63 60 && bitsOf w 63 60 ≤ 4⟩, rsv 59 18, wo 17 0]

theorem fwdCmdWrite_eq (s : State) (path : Nat) (v : Word) :
    fwdCmdWrite s path v
      = cmdWrite s path aFwdCmd fwdCmdFields v fun s => fwdCommand s (bitsOf v 63 60) (bitsOf v 17 0) := rfl

/-- A forwarding command of a managed device: the command word is stored, the command runs, and an accepted one
is captured. -/
theorem fwdRow_shows {s : State} (path : Nat) {op i : Nat} (h : manageable s) (h1 : 1 ≤ op) (h4 : op ≤ 4)
    (hi : i < 2 ^ 18) : ∃ w, bitsOf w 17 0 = i ∧ ∀ u code, fwdCommand (wr s aFwdCmd w) op i = (u, code) →
      mgApply s aFwdCmd (fwdCmdWord op i) (fun s => fwdCmdWrite s path (fwdCmdWord op i))
        = if code = 0 then captureWrite u aFwdCmd (fwdCmdWord op i) else u := by
  obtain ⟨hop, hidx, hres⟩ := bitsOf_fwdCmdWord (op := op) (by omega) hi
  have hrsv : touchesReserved fwdCmdFields (fwdCmdWord op i) = false := by
    simp [touchesReserved, fwdCmdFields, rsv, wo, hres]
  have hrange : outOfRange fwdCmdFields (fwdCmdWord op i) = false := by
    simp [outOfRange, fwdCmdFields, rsv, wo, hop, h1, h4]
  refine ⟨mergedWord (!s.mg.rw1.contains aFwdCmd) fwdCmdFields (rd s aFwdCmd) (fwdCmdWord op i), ?_,
    fun u code hu => ?_⟩
  · simpa [mergedWord, fwdCmdFields, putField, rsv, wo, hidx, bitsOf_putBits_same _ _ (show 17 < 64 by decide)]
      using hi
  · simp only [fwdCmdWrite_eq, hop, hidx]
    split
    · next hc => exact cmdRow_ok h rfl hrsv hrange rfl (hu.trans (by rw [hc]))
    · next hc => exact cmdRow_refused h rfl hrsv hrange rfl hc hu

theorem fwdState_wr_cmd (s : State) (w : Word) (i : Nat) : fwdState (wr s aFwdCmd w) i = fwdState s i :=
  rdf_congr (rd_wr_other (aFwdEntry_ne_cmd i))

theorem occOf_wr (s : State) (a : Nat) (w : Word) (i : Nat) : occOf (wr s a w) i = occOf s i := rfl

theorem holdOf_wr (s : State) (a : Nat) (w : Word) (i : Nat) : holdOf (wr s a w) i = holdOf s i := rfl

theorem fwdResult_code (s : State) {code : Nat} (h : code < 256) : rdf (fwdResult s code) aFwdStat 63 56 = code :=
  rdf_wrf_fits s aFwdStat (by decide) h

theorem fwdState_fwdResult (s : State) (code i : Nat) : fwdState (fwdResult s code) i = fwdState s i :=
  rdf_wrf_other (aFwdEntry_ne_stat i)

theorem holdOf_fwdResult (s : State) (code i : Nat) : holdOf (fwdResult s code) i = holdOf s i := rfl

/-- An accepted command's register reads after the capture. -/
theorem rdf_fwdCapture {u : State} {a hi lo : Nat} {v : Word} (h : a < 0xA000_0000) :
    rdf (captureWrite u aFwdCmd v) a hi lo = rdf u a hi lo := rdf_congr (rd_captureWrite h)

theorem fwdState_captureWrite {u : State} {a i : Nat} {v : Word} (hi : i < 2 ^ 18) :
    fwdState (captureWrite u a v) i = fwdState u i := rdf_congr (rd_captureWrite (aFwdEntry_lt hi))

theorem holdOf_captureWrite (u : State) (a : Nat) (v : Word) (i : Nat) : holdOf (captureWrite u a v) i = holdOf u i := by
  have hfab : (captureWrite u a v).fab = u.fab := (captureWrite_frame u a v).2.1 .fabric (by simp)
  rw [holdOf, hfab, holdOf]

/-- What an accepted command leaves that stores an entry's state and its HOLD record. -/
theorem fwdStored_shows {s : State} {w v : Word} {i st : Nat} {x : List Hold} (hi : i < 2 ^ 18) (hst : st < 4) :
    let t := captureWrite (fwdResult (setHold (wrf (wr s aFwdCmd w) (aFwdEntry i) 63 62 st) i x) 0) aFwdCmd v
    fwdState t i = st ∧ holdOf t i = x.head? ∧ rdf t aFwdStat 63 56 = 0 ∧ (∀ j, j ≠ i → holdOf t j = holdOf s j)
      ∧ touchesOnly [.fabric, .recorder] 0xA000_0000 [aFwdCmd, aFwdStat, aFwdEntry i] s t := by
  intro t
  refine ⟨?_, ?_, ?_, fun j hj => ?_, ?_⟩
  · rw [fwdState_captureWrite hi]
    exact (fwdState_fwdResult ..).trans (rdf_wrf_fits _ _ (by decide) hst)
  · rw [holdOf_captureWrite, holdOf_fwdResult, holdOf_setHold_same]
  · rw [rdf_fwdCapture (by decide)]
    exact fwdResult_code _ (by decide)
  · rw [holdOf_captureWrite, holdOf_fwdResult, holdOf_setHold_other _ hj]
    rfl
  · exact captureWrite_touches ((((touchesOnly.refl _ _ _ s).wr (.inl (by simp))).wrf (.inl (by simp))).setHold.wrf
      (.inl (by simp))) (by simp) le_rfl

theorem fwdHold_shows {s : State} {i : Nat} (path : Nat) (h : manageable s) (hi : i < 2 ^ 18)
    (hv : fwdState s i = fwdValid) (hn : s.fab.holds.length < 64) : ∃ t, exec (.fwdHold path i) s = .next t
      ∧ fwdState t i = fwdHeld ∧ holdOf t i = some ⟨true, 0⟩ ∧ rdf t aFwdStat 63 56 = 0
      ∧ (∀ j, j ≠ i → holdOf t j = holdOf s j)
      ∧ touchesOnly [.fabric, .recorder] 0xA000_0000 [aFwdCmd, aFwdStat, aFwdEntry i] s t := by
  obtain ⟨w, -, hrow⟩ := fwdRow_shows path (op := 1) h (by decide) (by decide) hi
  have hcmd : fwdCommand (wr s aFwdCmd w) 1 i
      = (fwdResult (setHold (wrf (wr s aFwdCmd w) (aFwdEntry i) 63 62 fwdHeld) i [⟨true, 0⟩]) 0, 0) := by
    simp [fwdCommand, fwdState_wr_cmd, hv, fwdValid, Nat.not_le.mpr hn]
  exact ⟨_, congrArg Host.Outcome.next (hrow _ _ hcmd), fwdStored_shows hi (by decide)⟩

theorem fwdInvalidate_shows {s : State} {i : Nat} (path : Nat) (h : manageable s) (hi : i < 2 ^ 18)
    (hv : fwdState s i = fwdHeld) (hscan : (holdOf s i).any Hold.scanning = false) (hocc : occOf s i = 0) :
    ∃ t, exec (.fwdInvalidate path i) s = .next t ∧ fwdState t i = 0 ∧ holdOf t i = none ∧ rdf t aFwdStat 63 56 = 0
      ∧ (∀ j, j ≠ i → holdOf t j = holdOf s j)
      ∧ touchesOnly [.fabric, .recorder] 0xA000_0000 [aFwdCmd, aFwdStat, aFwdEntry i] s t := by
  obtain ⟨w, -, hrow⟩ := fwdRow_shows path (op := 3) h (by decide) (by decide) hi
  have hcmd : fwdCommand (wr s aFwdCmd w) 3 i
      = (fwdResult (setHold (wrf (wr s aFwdCmd w) (aFwdEntry i) 63 62 0) i []) 0, 0) := by
    simp [fwdCommand, fwdState_wr_cmd, hv, holdOf_wr, occOf_wr, hscan, hocc]
  exact ⟨_, congrArg Host.Outcome.next (hrow _ _ hcmd), fwdStored_shows hi (by decide)⟩

theorem fwdRelease_shows {s : State} {i : Nat} (path : Nat) (h : manageable s) (hi : i < 2 ^ 18)
    (hv : fwdState s i = fwdHeld) : ∃ u, fwdState u i = fwdValid ∧ holdOf u i = none
      ∧ (∀ j, j ≠ i → holdOf u j = holdOf s j) ∧ touchesOnly [.fabric] (2 ^ 64) [aFwdCmd, aFwdEntry i] s u
      ∧ exec (.fwdRelease path i) s
        = .next (captureWrite (wrf (drainHolds u) aFwdStat 63 56 0) aFwdCmd (fwdCmdWord 2 i)) := by
  obtain ⟨w, -, hrow⟩ := fwdRow_shows path (op := 2) h (by decide) (by decide) hi
  have hcmd : fwdCommand (wr s aFwdCmd w) 2 i
      = (wrf (drainHolds (setHold (wrf (wr s aFwdCmd w) (aFwdEntry i) 63 62 fwdValid) i [])) aFwdStat 63 56 0, 0) := by
    simp [fwdCommand, fwdState_wr_cmd, hv, fwdResult]
  refine ⟨setHold (wrf (wr s aFwdCmd w) (aFwdEntry i) 63 62 fwdValid) i [], rdf_wrf_fits _ _ (by decide) (by decide),
    holdOf_setHold_same .., fun j hj => (holdOf_setHold_other _ hj).trans rfl, ?_,
    congrArg Host.Outcome.next (hrow _ _ hcmd)⟩
  exact (((touchesOnly.refl _ _ _ s).wr (.inl (by simp))).wrf (.inl (by simp))).setHold

theorem fwdQuery_shows {s : State} {i : Nat} (path : Nat) (h : manageable s) (hi : i < 2 ^ 18) :
    ∃ t, exec (.fwdQuery path i) s = .next t ∧ rdf t aFwdStat 63 56 = 0 ∧ rdf t aFwdCmd 17 0 = i
      ∧ touchesOnly [.recorder] 0xA000_0000 [aFwdCmd, aFwdStat] s t := by
  obtain ⟨w, hw, hrow⟩ := fwdRow_shows path (op := 4) h (by decide) (by decide) hi
  have hcmd : fwdCommand (wr s aFwdCmd w) 4 i = (fwdResult (wr s aFwdCmd w) 0, 0) := rfl
  refine ⟨_, congrArg Host.Outcome.next (hrow _ _ hcmd), ?_, ?_, ?_⟩
  · exact (rdf_fwdCapture (by decide)).trans (fwdResult_code _ (by decide))
  · refine (rdf_fwdCapture (by decide)).trans ((rdf_wrf_other (by decide)).trans ?_)
    rw [rdf, rd_wr_same, hw]
  · exact captureWrite_touches (((touchesOnly.refl _ _ _ s).wr (.inl (by simp))).wrf (.inl (by simp))) (by simp) le_rfl

/-- A refused command changes the command register and RESULT alone. -/
theorem fwdRefused_shows {s : State} {c : Instr} (path : Nat) {op i code : Nat} (h : manageable s) (h1 : 1 ≤ op)
    (h4 : op ≤ 4) (hi : i < 2 ^ 18)
    (hx : exec c s = .next (mgApply s aFwdCmd (fwdCmdWord op i) fun s => fwdCmdWrite s path (fwdCmdWord op i)))
    (hcode : code ≠ 0) (hlt : code < 256)
    (hcmd : ∀ w, fwdCommand (wr s aFwdCmd w) op i = (fwdResult (wr s aFwdCmd w) code, code)) :
    ∃ t, exec c s = .next t ∧ rdf t aFwdStat 63 56 = code ∧ touchesOnly [] (2 ^ 64) [aFwdCmd, aFwdStat] s t := by
  obtain ⟨w, -, hrow⟩ := fwdRow_shows path h h1 h4 hi
  refine ⟨_, hx.trans (congrArg Host.Outcome.next ((hrow _ _ (hcmd w)).trans (if_neg hcode))), fwdResult_code _ hlt,
    ((touchesOnly.refl _ _ _ s).wr (.inl (by simp))).wrf (.inl (by simp))⟩

theorem fwdHold_refused {s : State} {i code : Nat} (path : Nat) (h : manageable s) (hi : i < 2 ^ 18)
    (hc : code = if fwdState s i = 1 ∧ 64 ≤ s.fab.holds.length then 0x04
      else if fwdState s i = 0 ∨ fwdState s i = 3 then 0x06 else 0) (hne : code ≠ 0) :
    ∃ t, exec (.fwdHold path i) s = .next t ∧ rdf t aFwdStat 63 56 = code
      ∧ touchesOnly [] (2 ^ 64) [aFwdCmd, aFwdStat] s t := by
  refine fwdRefused_shows path (op := 1) h (by decide) (by decide) hi rfl hne ?_ fun w => ?_
  · rw [hc]
    split
    · decide
    · split <;> decide
  · by_cases hfull : fwdState s i = 1 ∧ 64 ≤ s.fab.holds.length
    · rw [if_pos hfull] at hc
      simp [fwdCommand, fwdState_wr_cmd, hfull, hc]
    · rw [if_neg hfull] at hc
      by_cases hst : fwdState s i = 0 ∨ fwdState s i = 3
      · rw [if_pos hst] at hc
        rcases hst with hst | hst <;> simp [fwdCommand, fwdState_wr_cmd, hst, hc]
      · exact absurd (hc.trans (if_neg hst)) hne

theorem fwdRelease_refused {s : State} {i code : Nat} (path : Nat) (h : manageable s) (hi : i < 2 ^ 18)
    (hc : code = if fwdState s i ≠ fwdHeld then 0x01 else 0) (hne : code ≠ 0) :
    ∃ t, exec (.fwdRelease path i) s = .next t ∧ rdf t aFwdStat 63 56 = code
      ∧ touchesOnly [] (2 ^ 64) [aFwdCmd, aFwdStat] s t := by
  have hst : fwdState s i ≠ fwdHeld := fun hh => hne (hc.trans (if_neg (not_not.mpr hh)))
  rw [if_pos hst] at hc
  subst hc
  refine fwdRefused_shows path (op := 2) h (by decide) (by decide) hi rfl hne (by decide) fun w => ?_
  simp [fwdCommand, fwdState_wr_cmd, hst]

theorem fwdInvalidate_refused {s : State} {i code : Nat} (path : Nat) (h : manageable s) (hi : i < 2 ^ 18)
    (hc : code = if fwdState s i ≠ fwdHeld then 0x01 else if (holdOf s i).any Hold.scanning = true then 0x03
      else if occOf s i ≠ 0 then 0x02 else 0) (hne : code ≠ 0) :
    ∃ t, exec (.fwdInvalidate path i) s = .next t ∧ rdf t aFwdStat 63 56 = code
      ∧ touchesOnly [] (2 ^ 64) [aFwdCmd, aFwdStat] s t := by
  refine fwdRefused_shows path (op := 3) h (by decide) (by decide) hi rfl hne ?_ fun w => ?_
  · rw [hc]
    repeat' split
    all_goals decide
  · by_cases hst : fwdState s i ≠ fwdHeld
    · rw [if_pos hst] at hc
      simp [fwdCommand, fwdState_wr_cmd, hst, hc]
    rw [if_neg hst] at hc
    rw [not_not] at hst
    by_cases hscan : (holdOf s i).any Hold.scanning = true
    · rw [if_pos hscan] at hc
      simp [fwdCommand, fwdState_wr_cmd, holdOf_wr, hst, hscan, hc]
    rw [if_neg hscan] at hc
    by_cases hocc : occOf s i ≠ 0
    · rw [if_pos hocc] at hc
      simp [fwdCommand, fwdState_wr_cmd, holdOf_wr, occOf_wr, hst, hscan, hocc, hc]
    · exact absurd (hc.trans (if_neg hocc)) hne

/-! ## Table writes -/

/-- A table write that is refused reports its code and nothing else. -/
theorem fwdWrite_refused {s : State} {a code : Nat} {v : Word} {op : State → WrRes} (h : manageable s)
    (hop : op s = ⟨fwdResult s code, .refused code⟩) (hlt : code < 256) :
    rdf (mgApply s a v op) aFwdStat 63 56 = code ∧ touchesOnly [] (2 ^ 64) [aFwdStat] s (mgApply s a v op) := by
  rw [mgApply_not_ok h (by rw [hop]; exact fun x => nomatch x), hop]
  exact ⟨fwdResult_code s hlt, (touchesOnly.refl _ _ _ s).wrf (.inl (by simp))⟩

theorem fwdTableWrite_valid {s : State} {i : Nat} (path : Nat) (v : Word) (h : manageable s)
    (hv : fwdState s i = fwdValid) : ∃ t, exec (.fwdTableWrite path i v) s = .next t ∧ rdf t aFwdStat 63 56 = 0x01
      ∧ touchesOnly [] (2 ^ 64) [aFwdStat] s t :=
  ⟨_, rfl, fwdWrite_refused h (by simp [fwdTableWrite, hv, fwdValid]) (by decide)⟩

theorem ecmpSetWrite_inUse {s : State} {set : Nat} (path w : Nat) (v : Word) (h : manageable s)
    (hu : setInUse s set = true) : ∃ t, exec (.ecmpSetWrite path set w v) s = .next t ∧ rdf t aFwdStat 63 56 = 0x05
      ∧ touchesOnly [] (2 ^ 64) [aFwdStat] s t :=
  ⟨_, rfl, fwdWrite_refused h (if_pos hu) (by decide)⟩

/-- A register write without RW1 fields touches its register and what it logs. -/
theorem touchesOnly.regWrite {ps : List Part} {as : List Nat} {r s : State} {path a : Nat} {fs : List RField} {v : Word}
    (h : touchesOnly ps 0xA000_0000 as r s) (hfs : hasRw1 fs = false) (hm : a ∈ as ∨ 0xA000_0000 ≤ a) :
    touchesOnly ps 0xA000_0000 as r (Machine.regWrite s path a fs v) := by
  rw [regWrite_noRw1 hfs]
  exact (touchesOnly.keeps (m := 134217728) (k := 9) h (logWrite_keeps rfl (.refl _ _)) (Nat.zero_or _) rfl).wr hm

theorem ecmpSetWrite_shows {s : State} {set w : Nat} (path : Nat) {v : Word} (h : manageable s) (hset : set < 4096)
    (hw : w ≤ 10) (hcount : w = 0 → bitsOf v 63 57 ≤ 64) (hu : setInUse s set = false) :
    ∃ t, exec (.ecmpSetWrite path set w v) s = .next t ∧ rdf t aFwdStat 63 56 = 0
      ∧ (w = 0 → rdf t (aEcmp set w) 63 57 = bitsOf v 63 57)
      ∧ (w ≠ 0 → rdf t (aEcmp set w) 62 0 = bitsOf v 62 0)
      ∧ touchesOnly [.recorder] 0xA000_0000 [aFwdStat, aEcmp set w] s t := by
  have hop : ecmpSetWrite s path set w v = ⟨regWrite (fwdResult s 0) path (aEcmp set w) (ecmpFields w) v, .ok⟩ :=
    if_neg (by simp [hu])
  have hfs : hasRw1 (ecmpFields w) = false := by
    unfold ecmpFields
    repeat' split
    all_goals rfl
  have hread : ∀ hi lo, rdf (captureWrite (regWrite (fwdResult s 0) path (aEcmp set w) (ecmpFields w) v) (aEcmp set w) v)
      (aEcmp set w) hi lo = bitsOf (mergedWord (!(fwdResult s 0).mg.rw1.contains (aEcmp set w)) (ecmpFields w)
        (rd (fwdResult s 0) (aEcmp set w)) v) hi lo := fun hi lo => by
    rw [rdf_congr (rd_captureWrite (aEcmp_lt hset hw)), rdf, rd_regWrite_same]
  refine ⟨_, congrArg Host.Outcome.next ((mgApply_ok h (by rw [hop])).trans (by rw [hop])), ?_, fun h0 => ?_,
    fun h0 => ?_, ?_⟩
  · rw [rdf_congr (rd_captureWrite (by decide)),
      rdf_congr (rd_regWrite_other (aEcmp_ne_stat set w).symm (by decide)), fwdResult_code _ (by decide)]
  · rw [hread]
    subst h0
    simp [mergedWord, ecmpFields, putField, rwIf, ro, rsv, hcount rfl, bitsOf_putBits_copy]
  · rw [hread]
    simp [mergedWord, ecmpFields, putField, rw, rsv, h0, hw, bitsOf_putBits_copy]
  · exact captureWrite_touches (((touchesOnly.refl _ _ _ s).wrf (.inl (by simp))).regWrite hfs (.inl (by simp)))
      (by simp) le_rfl

/-- The word that a write to a forwarding entry leaves: LOCAL and the sets as written (R111). -/
theorem mergedWord_fwd (first : Bool) (old v : Word) :
    let w := mergedWord first fwdFields old v
    bitsOf w 61 61 = bitsOf v 61 61 ∧ bitsOf w 57 46 = bitsOf v 57 46 ∧ bitsOf w 45 34 = bitsOf v 45 34
      ∧ bitsOf w 33 33 = bitsOf v 33 33 ∧ bitsOf w 32 32 = bitsOf v 32 32 ∧ bitsOf w 63 62 = bitsOf old 63 62 := by
  simp [mergedWord, fwdFields, putField, rw, ro, rsv, bitsOf_putBits_copy, bitsOf_putBits_other]

/-- Two fields side by side make the field of both. -/
theorem bitsOf_split {v w : Word} {hi mid lo : Nat} (h1 : lo ≤ mid) (h2 : mid < hi)
    (hh : bitsOf v hi (mid + 1) = bitsOf w hi (mid + 1)) (hl : bitsOf v mid lo = bitsOf w mid lo) :
    bitsOf v hi lo = bitsOf w hi lo := by
  have key : ∀ x : Word, bitsOf x hi lo = bitsOf x mid lo + 2 ^ (mid + 1 - lo) * bitsOf x hi (mid + 1) := fun x => by
    have e1 : x.toNat >>> (mid + 1) = x.toNat >>> lo / 2 ^ (mid + 1 - lo) := by
      rw [← Nat.shiftRight_eq_div_pow, ← Nat.shiftRight_add, Nat.add_sub_cancel' (by omega)]
    have e2 : hi + 1 - lo = (mid + 1 - lo) + (hi + 1 - (mid + 1)) := by omega
    unfold bitsOf
    rw [e1, e2, Nat.pow_add, Nat.mod_mul]
  rw [key v, key w, hh, hl]

theorem fwdTableWrite_shows {s : State} {i : Nat} (path : Nat) (v : Word) (h : manageable s) (hi : i < 2 ^ 18)
    (hfree : fwdState s i = 0 ∨ fwdState s i = fwdHeld ∧ (holdOf s i).any Hold.scanning = false ∧ occOf s i = 0) :
    ∃ t, exec (.fwdTableWrite path i v) s = .next t ∧ rdf t aFwdStat 63 56 = 0
      ∧ rdf t (aFwdEntry i) 61 61 = bitsOf v 61 61 ∧ rdf t (aFwdEntry i) 57 46 = bitsOf v 57 46
      ∧ rdf t (aFwdEntry i) 45 34 = bitsOf v 45 34 ∧ rdf t (aFwdEntry i) 33 32 = bitsOf v 33 32
      ∧ fwdState t i = (if fwdState s i = 0 ∧ (bitOf v 61 || bitOf v 33 || bitOf v 32) = true then fwdValid
        else fwdState s i)
      ∧ touchesOnly [.recorder] 0xA000_0000 [aFwdStat, aFwdEntry i] s t := by
  let u := regWrite (fwdResult s 0) path (aFwdEntry i) fwdFields v
  let becomes := fwdState s i = 0 ∧ (bitOf v 61 || bitOf v 33 || bitOf v 32) = true
  have hop : fwdTableWrite s path i v
      = ⟨if fwdState s i = 0 && (bitOf v 61 || bitOf v 33 || bitOf v 32) then wrf u (aFwdEntry i) 63 62 fwdValid else u,
        .ok⟩ := by
    rcases hfree with h0 | ⟨hheld, hscan, hocc⟩
    · simp only [fwdTableWrite, h0]
      rfl
    · cases hh : holdOf s i with
      | none =>
        simp only [fwdTableWrite, hheld, hh, hocc]
        rfl
      | some x =>
        have hx : x.scanning = false := by simpa [hh] using hscan
        simp only [fwdTableWrite, hheld, hh, hocc, hx]
        rfl
  have hold : rd (fwdResult s 0) (aFwdEntry i) = rd s (aFwdEntry i) := rd_wr_other (aFwdEntry_ne_stat i)
  obtain ⟨h61, h57, h45, h33, h32, h63⟩ := mergedWord_fwd (!(fwdResult s 0).mg.rw1.contains (aFwdEntry i))
    (rd (fwdResult s 0) (aFwdEntry i)) v
  have hu : ∀ hi' lo, rdf u (aFwdEntry i) hi' lo = bitsOf (mergedWord (!(fwdResult s 0).mg.rw1.contains (aFwdEntry i))
      fwdFields (rd (fwdResult s 0) (aFwdEntry i)) v) hi' lo := fun hi' lo => by rw [rdf, rd_regWrite_same]
  have hres : rdf u aFwdStat 63 56 = 0 := by
    rw [rdf_congr (rd_regWrite_other (aFwdEntry_ne_stat i).symm (by decide)), fwdResult_code _ (by decide)]
  have hframe : touchesOnly [.recorder] 0xA000_0000 [aFwdStat, aFwdEntry i] s u :=
    ((touchesOnly.refl _ _ _ s).wrf (.inl (by simp))).regWrite rfl (.inl (by simp))
  have h3332 : rdf u (aFwdEntry i) 33 32 = bitsOf v 33 32 := by
    rw [hu]
    exact bitsOf_split (mid := 32) le_rfl (by decide) h33 h32
  refine ⟨_, congrArg Host.Outcome.next ((mgApply_ok h (by rw [hop])).trans (by rw [hop])), ?_⟩
  simp only [fwdState_captureWrite hi, rdf_congr (rd_captureWrite (aFwdEntry_lt hi)),
    rdf_congr (rd_captureWrite (show aFwdStat < 0xA000_0000 by decide))]
  by_cases hb : becomes
  · have hc : (decide (fwdState s i = 0) && (bitOf v 61 || bitOf v 33 || bitOf v 32)) = true := by
      rw [hb.2, decide_eq_true hb.1]
      rfl
    rw [if_pos hc, if_pos hb]
    refine ⟨(rdf_wrf_other (aFwdEntry_ne_stat i).symm).trans hres, ?_, ?_, ?_, ?_, rdf_wrf_fits _ _ (by decide) (by decide),
      captureWrite_touches (hframe.wrf (.inl (by simp))) (by simp) le_rfl⟩
    · exact (rdf_wrf_field _ _ _ (by decide)).trans ((hu 61 61).trans h61)
    · exact (rdf_wrf_field _ _ _ (by decide)).trans ((hu 57 46).trans h57)
    · exact (rdf_wrf_field _ _ _ (by decide)).trans ((hu 45 34).trans h45)
    · exact (rdf_wrf_field _ _ _ (by decide)).trans h3332
  · have hc : ¬(decide (fwdState s i = 0) && (bitOf v 61 || bitOf v 33 || bitOf v 32)) = true := fun hc =>
      hb ⟨of_decide_eq_true (Bool.and_eq_true_iff.mp hc).1, (Bool.and_eq_true_iff.mp hc).2⟩
    rw [if_neg hc, if_neg hb]
    exact ⟨hres, (hu 61 61).trans h61, (hu 57 46).trans h57, (hu 45 34).trans h45, h3332,
      (hu 63 62).trans (h63.trans (by rw [hold]; rfl)), captureWrite_touches hframe (by simp) le_rfl⟩

/-- Settles O10: a command stores what it stores and is captured; the others report their code. -/
theorem forwardingCommandsAndTables : Obligations.ForwardingCommandsAndTables := by
  refine ⟨fun s path i h hi => ⟨fun hv hn => fwdHold_shows path h hi hv hn, fun hv => fwdRelease_shows path h hi hv,
      fun hv hs ho => fwdInvalidate_shows path h hi hv hs ho, fwdQuery_shows path h hi, fun c code hm hne => ?_⟩,
    fun s path i v h hi hf => fwdTableWrite_shows path v h hi hf,
    fun s path i v h _ hv => fwdTableWrite_valid path v h hv,
    fun s path set w v h hset hw hcount hu => ecmpSetWrite_shows path h hset hw hcount hu,
    fun s path set w v h hu => ecmpSetWrite_inUse path w v h hu, fun s i x hx => occScanEnd_shows hx⟩
  simp only [List.mem_cons, Prod.mk.injEq, List.not_mem_nil, or_false] at hm
  rcases hm with ⟨rfl, hc⟩ | ⟨rfl, hc⟩ | ⟨rfl, hc⟩
  · exact fwdHold_refused path h hi hc hne
  · exact fwdRelease_refused path h hi hc hne
  · exact fwdInvalidate_refused path h hi hc hne

end Sys2Proof.Machine
end

section
/-! PROOFS. A packet's tail and the end of a wait for a held entry (R103, R118, R125). -/

namespace Sys2Proof.Machine

open Sys2Proof

theorem rxOf_setRx_same (s : State) (p : Nat) (x : List Rx) : rxOf (setRx s p x) p = x :=
  tget_tset_same [] s.fab.rx p x

theorem rxOf_setRx_other {s : State} {p q : Nat} (x : List Rx) (h : q ≠ p) : rxOf (setRx s p x) q = rxOf s q :=
  tget_tset_other [] [] s.fab.rx x h

theorem rxOf_congr {s t : State} (h : t.fab = s.fab) (p : Nat) : rxOf t p = rxOf s p := by rw [rxOf, h, rxOf]

theorem waitsOf_setWaits_same (s : State) (p f : Nat) (x : List Waiter) : waitsOf (setWaits s p f x) p f = x :=
  tget_tset_same [] s.fab.waits (qKey p f) x

theorem waitsOf_congr {s t : State} (h : t.fab.waits = s.fab.waits) (p f : Nat) : waitsOf t p f = waitsOf s p f := by
  rw [waitsOf, h, waitsOf]

theorem changesOnly.setRx {ps : List Part} {fs : List (Nat × Nat × Nat)} {r s : State} {p : Nat} {x : List Rx}
    (h : changesOnly ps fs r s) (hp : Part.fabric ∈ ps := by simp) : changesOnly ps fs r (Machine.setRx s p x) :=
  h.upd 1 rfl (partMask_mem hp)

theorem touchesOnly.setRx {ps : List Part} {b : Nat} {as : List Nat} {r s : State} {p : Nat} {x : List Rx}
    (h : touchesOnly ps b as r s) (hp : Part.fabric ∈ ps := by simp) :
    touchesOnly ps b as r (Machine.setRx s p x) :=
  h.upd 1 rfl (partMask_mem hp)

/-- A tail is the oldest received packet's. -/
theorem packetTail_cons {s : State} {p : Nat} {r : Rx} {rest : List Rx} (h : rxOf s p = r :: rest)
    (payload : List Byte) (crc tail : BitVec 32) (clean : Bool) :
    exec (.packetTail p payload crc tail clean) s = .next (tailAt (setRx s p rest) p r payload crc tail clean) := by
  rw [exec_packetTail, execPacketTail, h]

/-! ## The four ends of a received packet -/

theorem tailAt_dropped {s : State} {r : Rx} (h : r.place = .dropped) (p : Nat) (payload : List Byte)
    (crc tail : BitVec 32) (clean : Bool) : tailAt s p r payload crc tail clean = s := by
  rw [tailAt, h]

theorem tailAt_whole_bad {s : State} {r : Rx} {payload : List Byte} {crc tail : BitVec 32} {clean : Bool}
    {x reason hop : Nat} (h : r.place = .whole)
    (hf : tailFault r.pkt.hdr payload crc tail clean = some (x, reason, hop)) (p : Nat) :
    tailAt s p r payload crc tail clean
      = returnCredits (countPort s p x) p r.pkt.hdr.furrow (creditsOf r.pkt.hdr.length) := by
  simp only [tailAt, h, hf]

theorem tailAt_whole_good {s : State} {r : Rx} {payload : List Byte} {crc tail : BitVec 32} {clean : Bool}
    (h : r.place = .whole) (hf : tailFault r.pkt.hdr payload crc tail clean = none) (p : Nat) :
    tailAt s p r payload crc tail clean = capturePacket s p r.since r.pkt.hdr payload := by
  simp only [tailAt, h, hf]

theorem capturePacket_idle {s : State} (h : recState s ≠ recRecording) (p since : Nat) (hdr : Header)
    (payload : List Byte) : capturePacket s p since hdr payload = s := if_neg (by simp [h])

theorem tailAt_placed_good {s : State} {r : Rx} {payload : List Byte} {crc tail : BitVec 32} {clean : Bool}
    (h : r.place = .placed) (hf : tailFault r.pkt.hdr payload crc tail clean = none) (hr : recState s ≠ recRecording)
    (p : Nat) : tailAt s p r payload crc tail clean = goodPlaced s p payload r.pkt := by
  simp only [tailAt, h, hf, capturePacket_idle hr]

theorem tailDropped_shows {s : State} {p : Nat} {r : Rx} {rest : List Rx} (payload : List Byte) (crc tail : BitVec 32)
    (clean : Bool) (h : rxOf s p = r :: rest) (hd : r.place = .dropped) :
    ∃ t, exec (.packetTail p payload crc tail clean) s = .next t ∧ rxOf t p = rest
      ∧ (∀ q, q ≠ p → rxOf t q = rxOf s q) ∧ changesOnly [.fabric] [] s t := by
  refine ⟨_, packetTail_cons h .., ?_⟩
  rw [tailAt_dropped hd]
  exact ⟨rxOf_setRx_same .., fun q hq => rxOf_setRx_other _ hq, (changesOnly.refl _ _ s).setRx⟩

theorem lossless_lt {f : Nat} (h : lossless f = true) : f < 14 := by
  simp only [lossless, Bool.or_eq_true, Bool.and_eq_true, decide_eq_true_eq] at h
  omega

/-- Returned credits free the port's space and advance its RET, and nothing else. -/
theorem returnCredits_shows (s : State) (p f c : Nat) :
    (lossless f = true → tget 0 (link (returnCredits s p f c) p).ret f = (tget 0 (link s p).ret f + c) % 2 ^ 16)
      ∧ ∀ a, (f < 14 → a ≠ aCredit p f) → rd (returnCredits s p f c) a = rd s a := by
  unfold returnCredits
  split
  · next h =>
    extract_lets t l
    refine ⟨fun _ => ?_, fun a ha => rd_wrf_other (ha (lossless_lt h))⟩
    rw [link_setLink_same, tget_tset_same]
    rfl
  · next h => exact ⟨fun h' => absurd h' h, fun _ _ => rfl⟩

theorem aCnt_ne_aCredit {p f : Nat} (hp : p < 512) (hf : f < 14) (g i x : Nat) : aCnt g i x ≠ aCredit p f := by
  unfold aCnt aCredit aPrt
  omega

/-- No port's credit register is a port's HOLD counter. -/
theorem aCnt_hold_ne_aCredit {f : Nat} (hf : f < 14) (p i : Nat) : aCnt 1 i dcHold ≠ aCredit p f := by
  unfold aCnt aCredit aPrt dcHold
  omega

/-- A field written with its own value leaves the word. -/
theorem putBits_bitsOf (w : Word) (hi lo : Nat) : putBits w hi lo (bitsOf w hi lo) = w := by
  refine BitVec.eq_of_getLsbD_eq fun k hk => ?_
  rw [getLsbD_putBits, testBit_bitsOf]
  split
  · next h =>
    have h1 : k - lo < hi + 1 - lo := by omega
    rw [show lo + (k - lo) = k by omega, decide_eq_true h1, decide_eq_true hk]
    rfl
  · rfl

theorem tailWholeBad_shows {s : State} {p : Nat} {r : Rx} {rest : List Rx} {payload : List Byte} {crc tail : BitVec 32}
    {clean : Bool} {x reason hop : Nat} (hp : p < 512) (h : rxOf s p = r :: rest) (hw : r.place = .whole)
    (hf : tailFault r.pkt.hdr payload crc tail clean = some (x, reason, hop)) :
    ∃ t, exec (.packetTail p payload crc tail clean) s = .next t ∧ rxOf t p = rest
      ∧ (rd t (aCnt 1 p x)).toNat = ((rd s (aCnt 1 p x)).toNat + 1) % 2 ^ 48
      ∧ (lossless r.pkt.hdr.furrow = true → tget 0 (link t p).ret r.pkt.hdr.furrow
        = (tget 0 (link s p).ret r.pkt.hdr.furrow + creditsOf r.pkt.hdr.length) % 2 ^ 16)
      ∧ t.fab.queues = s.fab.queues ∧ t.fab.waits = s.fab.waits
      ∧ touchesOnly [.fabric, .links] 0x1000_0000 [] s t := by
  refine ⟨_, packetTail_cons h .., ?_⟩
  rw [tailAt_whole_bad hw hf]
  let u := countPort (setRx s p rest) p x
  have hkeep : Keeps 134479874 (setRx s p rest) (returnCredits u p r.pkt.hdr.furrow (creditsOf r.pkt.hdr.length)) :=
    returnCredits_keeps rfl (countPort_keeps rfl (.refl _ _))
  have hfab : (returnCredits u p r.pkt.hdr.furrow (creditsOf r.pkt.hdr.length)).fab = (setRx s p rest).fab :=
    hkeep.part .fabric rfl
  obtain ⟨hret, hrd⟩ := returnCredits_shows u p r.pkt.hdr.furrow (creditsOf r.pkt.hdr.length)
  refine ⟨(rxOf_congr hfab p).trans (rxOf_setRx_same ..), ?_, fun hl => ?_, ?_, ?_,
    touchesOnly.keeps (k := 2) ((touchesOnly.refl _ _ _ s).setRx) hkeep (by decide) (by decide)⟩
  · rw [hrd _ fun hf => aCnt_ne_aCredit hp hf 1 p x]
    exact rd_count_same (setRx s p rest) 1 p x 1
  · rw [hret hl]
    exact congrArg (fun l => (tget 0 l.ret r.pkt.hdr.furrow + creditsOf r.pkt.hdr.length) % 2 ^ 16) (link_count ..)
  · exact (congrArg Fabric.queues hfab).trans rfl
  · exact (congrArg Fabric.waits hfab).trans rfl

theorem tailPlacedGood_shows {s : State} {p : Nat} {r : Rx} {rest : List Rx} {payload : List Byte}
    {crc tail : BitVec 32} {clean : Bool} {key : Nat} (h : rxOf s p = r :: rest) (hpl : r.place = .placed)
    (hr : recState s ≠ recRecording) (hf : tailFault r.pkt.hdr payload crc tail clean = none)
    (hsend : sendingPort s r.pkt.uid = none) (hq : queueHolding s r.pkt.uid = some key) :
    ∃ t, exec (.packetTail p payload crc tail clean) s = .next t ∧ rxOf t p = rest
      ∧ tget [] t.fab.queues key = (tget [] s.fab.queues key).map (fun q =>
        if q.uid = r.pkt.uid then { q with payload := payload, tailSeen := true } else q)
      ∧ touchesOnly [.fabric, .granary] 0x1000_0000 [] s t := by
  refine ⟨_, packetTail_cons h .., ?_⟩
  have hsend' : sendingPort (setRx s p rest) r.pkt.uid = none := hsend
  have hq' : queueHolding (setRx s p rest) r.pkt.uid = some key := hq
  rw [tailAt_placed_good hpl hf (s := setRx s p rest) hr]
  simp only [goodPlaced, hsend', hq']
  let done := fun q : Pkt => if q.uid = r.pkt.uid then { q with payload := payload, tailSeen := true } else q
  let u := setQueue (setRx s p rest) (key / 16) (key % 16) ((tget [] s.fab.queues key).map done)
  have hkeep : ∀ ks : List Pkt, Keeps 1048580 u
      (forAll (fun s q => ownEgress (fillBufs s none 16384 q.bufs payload) (key / 16) q) u ks) := fun ks =>
    forAll_keeps (fun _ _ q => ownEgress_keeps rfl (fillBufs_keeps rfl q)) (.refl _ _)
  have hfab := fun ks => (hkeep ks).part .fabric rfl
  have hget : tget [] u.fab.queues (qKey (key / 16) (key % 16)) = (tget [] s.fab.queues key).map done :=
    tget_tset_same [] s.fab.queues (qKey (key / 16) (key % 16)) _
  rw [show qKey (key / 16) (key % 16) = key from Nat.div_add_mod key 16] at hget
  have hu : touchesOnly [.fabric, .granary] (blockBase 2) [] s u :=
    (touchesOnly.refl _ _ _ s).upd (t := u) 1 rfl (by decide)
  exact ⟨(rxOf_congr (hfab _) p).trans (rxOf_setRx_same s p rest),
    (congrArg (fun x => tget [] x.queues key) (hfab _)).trans hget, hu.keeps (hkeep _) (by decide) (by decide)⟩

theorem tailWholeGood_shows {s : State} {p : Nat} {r : Rx} {rest : List Rx} {payload : List Byte}
    {crc tail : BitVec 32} {clean : Bool} (h : rxOf s p = r :: rest) (hw : r.place = .whole)
    (hf : tailFault r.pkt.hdr payload crc tail clean = none) :
    ∃ t, exec (.packetTail p payload crc tail clean) s = .next t ∧ rxOf t p = rest
      ∧ t.fab.queues = s.fab.queues ∧ touchesOnly [.fabric, .recorder] 0xA000_0000 [] s t := by
  refine ⟨_, packetTail_cons h .., ?_⟩
  rw [tailAt_whole_good hw hf]
  have hkeep : Keeps 167772416 (setRx s p rest) (capturePacket (setRx s p rest) p r.since r.pkt.hdr payload) :=
    capturePacket_keeps rfl (.refl _ _)
  have hfab : _ = (setRx s p rest).fab := hkeep.part .fabric rfl
  exact ⟨(rxOf_congr hfab p).trans (rxOf_setRx_same ..), (congrArg Fabric.queues hfab).trans rfl,
    touchesOnly.keeps (k := 9) ((touchesOnly.refl _ _ _ s).setRx) hkeep (by decide) (by decide)⟩

/-! ## HOLD_TIMEOUT -/

/-- A charge of nothing changes no register. -/
theorem rd_chargeQuota_none (s : State) (plot f a : Nat) : rd (chargeQuota s plot f 0) a = rd s a := by
  unfold chargeQuota
  split
  · by_cases h : a = aQuota plot f
    · rw [h, wrf, rd_wr_same, Nat.add_zero, rdf, putBits_bitsOf]
    · exact rd_wrf_other h
  · rfl

/-- A packet without buffers that is dropped at ingress: counted, its credits returned. -/
theorem dropIngress_noBufs (s : State) (p x : Nat) {k : Pkt} (h : k.bufs = []) :
    dropIngress s p x k = giveBack (chargeQuota (countPort s p x) k.hdr.plot k.hdr.furrow 0) k := by
  rw [dropIngress, h]
  rfl

/-- Returning a packet's credits changes no counter. -/
theorem rd_giveBack_cnt (s : State) (k : Pkt) (p : Nat) : rd (giveBack s k) (aCnt 1 p dcHold) = rd s (aCnt 1 p dcHold) := by
  unfold giveBack
  split
  · exact (returnCredits_shows ..).2 _ fun hf => aCnt_hold_ne_aCredit hf _ p
  · rfl

theorem holdTimeout_shows {s : State} {p f : Nat} {w : Waiter} {rest : List Waiter} (h : waitsOf s p f = w :: rest)
    (hw : w.why = .hold) (hb : w.pkt.bufs = []) : ∃ u, waitsOf u p f = rest
      ∧ (rd u (aCnt 1 p dcHold)).toNat = ((rd s (aCnt 1 p dcHold)).toNat + 1) % 2 ^ 48
      ∧ u.fab.queues = s.fab.queues ∧ touchesOnly [.fabric, .links, .granary, .yield] 0x1000_0000 [] s u
      ∧ exec (.holdTimeout p f) s = .next (drainPort u p f) := by
  let v := placeRx (setWaits s p f rest) p w.pkt.uid .dropped
  let u := event (dropIngress v p dcHold w.pkt) 0x0601 srcPort p { detail := w.pkt.hdr.dst }
  have hkeep : Keeps 135528454 v u := event_keeps rfl (dropIngress_keeps rfl (.refl _ _))
  have hfab : u.fab = v.fab := hkeep.part .fabric rfl
  have hx : exec (.holdTimeout p f) s = .next (drainPort u p f) := by
    rw [exec_holdTimeout, execHoldTimeout, h]
    exact if_pos (by rw [hw]; rfl)
  refine ⟨u, (waitsOf_congr (congrArg Fabric.waits hfab) p f).trans (waitsOf_setWaits_same s p f rest), ?_,
    (congrArg Fabric.queues hfab).trans rfl, ?_, hx⟩
  · have hcnt : aCnt 1 p dcHold < 0xA300_0000 ∨ 0xA400_0000 ≤ aCnt 1 p dcHold := by
      unfold aCnt
      omega
    rw [rd_event_other hcnt, dropIngress_noBufs v p dcHold hb, rd_giveBack_cnt, rd_chargeQuota_none]
    exact rd_count_same v 1 p dcHold 1
  · have hv : touchesOnly [.fabric, .links, .granary, .yield] (blockBase 2) [] s v :=
      (touchesOnly.refl _ _ _ s).upd (t := v) 1 rfl (by decide)
    exact hv.keeps hkeep (by decide) (by decide)

/-- Settles O12: each end of a received packet by where it stood; HOLD_TIMEOUT drops the head and goes on. -/
theorem packetTail : Obligations.PacketTail :=
  ⟨fun _ _ _ _ payload crc tail clean h hd => tailDropped_shows payload crc tail clean h hd,
    fun _ _ _ _ _ _ _ _ _ _ _ hp h hw hf => tailWholeBad_shows hp h hw hf,
    fun _ _ _ _ _ _ _ _ _ h hpl hr hf hs hq => tailPlacedGood_shows h hpl hr hf hs hq,
    fun _ _ _ _ _ _ _ _ h hw hf => tailWholeGood_shows h hw hf,
    fun _ _ _ _ _ _ h hw hb => holdTimeout_shows h hw hb⟩

end Sys2Proof.Machine
end

section
/-! PROOFS. The egress scheduler, what follows a packet and the refill of the buckets (R281 to R287, R296). -/

namespace Sys2Proof.Machine

open Sys2Proof

/-! ## The furrow chosen -/

theorem chooseFurrow_strict {s : State} {p f : Nat}
    (h : strictFurrows.find? (fun f => eligible s p f && committed s p f) = some f) :
    chooseFurrow s p = some (1, f) := by
  rw [chooseFurrow, h]

/-- The smallest tag is one of the furrows compared. -/
theorem smallestTag_mem {s : State} {p f : Nat} {fs : List Nat} (h : smallestTag s p fs = some f) : f ∈ fs := by
  have hfold : ∀ (xs : List Nat) (a : Nat),
      xs.foldl (fun a b => if tagLt (headTag s p b) (headTag s p a) then b else a) a ∈ a :: xs := by
    intro xs
    induction xs with
    | nil => intro a; exact List.mem_cons_self
    | cons x xs ih =>
      intro a
      rw [List.foldl_cons]
      split
      · exact List.mem_cons_of_mem _ (ih x)
      · rcases List.mem_cons.mp (ih a) with h | h
        · rw [h]
          exact List.mem_cons_self
        · exact List.mem_cons_of_mem _ (List.mem_cons_of_mem _ h)
  cases fs with
  | nil => cases h
  | cons a xs =>
    obtain rfl := Option.some.inj h
    exact hfold xs a

/-- A furrow chosen is one of the sixteen. -/
theorem chooseFurrow_lt {s : State} {p tier f : Nat} (h : chooseFurrow s p = some (tier, f)) : f < 16 := by
  have hstrict : ∀ g ∈ strictFurrows, g < 16 := by decide
  have hfair : ∀ g ∈ fairFurrows, g < 16 := by decide
  have hall : ∀ g ∈ allFurrows, g < 16 := by decide
  unfold chooseFurrow at h
  split at h
  · next g hg =>
    obtain rfl : g = f := congrArg Prod.snd (Option.some.inj h)
    exact hstrict g (List.mem_of_find?_eq_some hg)
  · split at h
    · next g hg =>
      obtain rfl : g = f := congrArg Prod.snd (Option.some.inj h)
      exact hfair g (List.mem_of_mem_filter (smallestTag_mem hg))
    · obtain ⟨g, hg, hgf⟩ := Option.map_eq_some_iff.mp h
      obtain rfl : g = f := congrArg Prod.snd hgf
      exact hall g (List.mem_of_mem_filter (smallestTag_mem hg))

/-! ## SCHEDULER_DECISION -/

theorem countPassed_fab (s : State) (p : Nat) : (countPassed s p).fab = s.fab :=
  (countPassed_keeps (m := 134218240) rfl (.refl _ s)).part .fabric rfl

theorem countPassed_links (s : State) (p : Nat) : (countPassed s p).links = s.links :=
  (countPassed_keeps (m := 134218240) rfl (.refl _ s)).part .links rfl

theorem link_congr {s t : State} (h : t.links = s.links) (p : Nat) : link t p = link s p := by rw [link, h, link]

theorem queueOf_congr {s t : State} (h : t.fab = s.fab) (p f : Nat) : queueOf t p f = queueOf s p f := by
  rw [queueOf, h, queueOf]

/-- The heads passed over are counted apart from what is sent. -/
theorem rd_countPassed_sent (s : State) (p q f : Nat) :
    rd (countPassed s p) (aCnt 2 (qKey q f) 1) = rd s (aCnt 2 (qKey q f) 1) := by
  refine forAll_rel (R := fun s t => rd t (aCnt 2 (qKey q f) 1) = rd s (aCnt 2 (qKey q f) 1)) (fun _ => rfl)
    (fun h g => g.trans h) (fun u g _ => ?_) s
  have hne : ∀ x, x = 2 ∨ x = 3 → aCnt 2 (qKey q f) 1 ≠ aCnt 2 (qKey p g) x
      ∧ aCnt 2 (qKey q f) 1 ≠ aCnt 2 (qKey p g) x + 8 := by
    intro x hx
    unfold aCnt
    omega
  have hstall : rd (if lacksCredit u p g then countStall u p g else u) (aCnt 2 (qKey q f) 1)
      = rd u (aCnt 2 (qKey q f) 1) := by
    split
    · exact rd_count_other (hne 2 (.inl rfl)).1 (hne 2 (.inl rfl)).2
    · rfl
  extract_lets v
  have hv : rd v (aCnt 2 (qKey q f) 1) = rd u (aCnt 2 (qKey q f) 1) := hstall
  split
  · exact (rd_count_other (hne 3 (.inr rfl)).1 (hne 3 (.inr rfl)).2).trans hv
  · exact hv

/-- With nothing to send, the unit begun is filled. -/
theorem schedulerDecision_none {s : State} {p : Nat} {ecc : Ecc} (hb : canBegin s p = true)
    (hc : chooseFurrow s p = none) : ∃ t, exec (.schedulerDecision p ecc) s = .next t
      ∧ link t p = fillUnit (link s p) ∧ (∀ q, q ≠ p → link t q = link s q)
      ∧ touchesOnly [.links, .yield] 0xA300_0000 [] s t := by
  have hlink := fun q => link_congr (countPassed_links s p) q
  refine ⟨setLink (countPassed s p) p (fillUnit (link (countPassed s p) p)), ?_, ?_, fun q hq => ?_, ?_⟩
  · rw [exec_schedulerDecision, execSchedulerDecision, if_neg (by simp [hb])]
    simp only [hc]
  · rw [link_setLink_same, hlink]
  · rw [link_setLink_other _ hq, hlink]
  · exact (setLink_keeps (m := 134218242) rfl (countPassed_keeps rfl (.refl _ s))).touchesOnly 11 (by decide)
      (by decide) []

theorem schedulerDecision_some {s : State} {p tier f : Nat} {ecc : Ecc} {k : Pkt} {rest : List Pkt}
    (hb : canBegin s p = true) (hc : chooseFurrow s p = some (tier, f)) (hq : queueOf s p f = k :: rest) :
    exec (.schedulerDecision p ecc) s = .next (beginSend (countPassed s p) p tier f k rest ecc) := by
  rw [exec_schedulerDecision, execSchedulerDecision, if_neg (by simp [hb])]
  simp only [hc, queueOf_congr (countPassed_fab s p), hq]

/-- What the ECC finds changes the tail alone (R275). -/
theorem readPayload_pkt (s : State) (p : Nat) (k : Pkt) (ecc : Ecc) :
    (readPayload s p k ecc).2.uid = k.uid ∧ (readPayload s p k ecc).2.hdr = k.hdr
      ∧ (ecc ≠ .uncorrectable → (readPayload s p k ecc).2 = k) := by
  unfold readPayload
  split
  · exact ⟨rfl, rfl, fun _ => rfl⟩
  · next h => exact ⟨rfl, rfl, fun h' => absurd rfl h'⟩
  · exact ⟨rfl, rfl, fun _ => rfl⟩

theorem queueOf_lastTag (s : State) (x : Tbl Nat) (p f : Nat) :
    queueOf { s with fab := { s.fab with lastTag := x } } p f = queueOf s p f := rfl

/-- A queue whose head has its tag holds the same packets. -/
theorem queueOf_tagHead_uids (s : State) (p f : Nat) :
    (queueOf (tagHead s p f) p f).map Pkt.uid = (queueOf s p f).map Pkt.uid := by
  unfold tagHead
  split
  · rfl
  · next k ks h =>
    extract_lets n u
    rw [queueOf_lastTag, queueOf_setQueue_same, h, List.map_cons, List.map_cons]

/-- The payload's read is counted apart from what is sent. -/
theorem rd_readPayload_sent (s : State) {p : Nat} (k : Pkt) (ecc : Ecc) (f : Nat) (hp : p < 512) (hf : f < 16) :
    rd (readPayload s p k ecc).1 (aCnt 2 (qKey p f) 1) = rd s (aCnt 2 (qKey p f) 1) := by
  have h6 : ∀ m x, aCnt 2 (qKey p f) 1 ≠ aCnt 6 m x ∧ aCnt 2 (qKey p f) 1 ≠ aCnt 6 m x + 8 := by
    intro m x
    unfold aCnt qKey
    omega
  have hgrn : ∀ i, i < 2 → aCnt 2 (qKey p f) 1 ≠ aGrnErr i := by
    intro i hi
    unfold aCnt qKey aGrnErr
    omega
  have hlog : aCnt 2 (qKey p f) 1 < 0xA300_0000 ∨ 0xA400_0000 ≤ aCnt 2 (qKey p f) 1 := by
    unfold aCnt
    omega
  have hport : aCnt 2 (qKey p f) 1 ≠ aCnt 1 p dcBadTailSent ∧ aCnt 2 (qKey p f) 1 ≠ aCnt 1 p dcBadTailSent + 8 := by
    unfold aCnt qKey dcBadTailSent
    omega
  have hreport : ∀ code mgr b owner plot fu g n, rd (grnReport s code mgr b owner plot fu g n) (aCnt 2 (qKey p f) 1)
      = rd s (aCnt 2 (qKey p f) 1) := fun code mgr b owner plot fu g n => by
    unfold grnReport
    extract_lets u v w
    have hv : rd v (aCnt 2 (qKey p f) 1) = rd s (aCnt 2 (qKey p f) 1) :=
      (rd_event_other hlog).trans (rd_count_other (h6 _ _).1 (h6 _ _).2)
    split
    · exact (rd_wrf_other (hgrn 0 (by decide))).trans hv
    · exact (rd_wr_other (hgrn 1 (by decide))).trans ((rd_wr_other (hgrn 0 (by decide))).trans hv)
  unfold readPayload
  split
  · exact rd_count_other (h6 _ _).1 (h6 _ _).2
  · exact (rd_count_other hport.1 hport.2).trans (hreport ..)
  · rfl

/-- What a packet that begins to leave does: to its queue, its credits and its count. -/
structure SendBegun (s t : State) (p f : Nat) (k : Pkt) (rest : List Pkt) (ecc : Ecc) : Prop where
  leaving : ∃ k', sendingOn t p = some k' ∧ k'.uid = k.uid ∧ k'.hdr = k.hdr ∧ (ecc ≠ .uncorrectable → k' = k)
  queue : (queueOf t p f).map Pkt.uid = rest.map Pkt.uid
  credits : lossless f = true →
    tget 0 (link t p).used f = (tget 0 (link s p).used f + creditsOf k.hdr.length) % 2 ^ 16
  counted : (rd t (aCnt 2 (qKey p f) 1)).toNat = ((rd s (aCnt 2 (qKey p f) 1)).toNat + 1) % 2 ^ 48

theorem beginSend_shows (s : State) {p f : Nat} (tier : Nat) (k : Pkt) (rest : List Pkt) (ecc : Ecc) (hp : p < 512)
    (hf : f < 16) : SendBegun s (beginSend s p tier f k rest ecc) p f k rest ecc := by
  have hport : aCnt 2 (qKey p f) 1 ≠ aSchPort p := by
    unfold aCnt aSchPort
    omega
  have hsch : aCnt 2 (qKey p f) 1 ≠ aSch p f 2 := by
    unfold aCnt aSch
    omega
  have hown : ∀ x, x ∈ [8, 9, 10] → aCnt 2 (qKey p f) 1 ≠ aCnt 2 (qKey p f) x
      ∧ aCnt 2 (qKey p f) 1 ≠ aCnt 2 (qKey p f) x + 8 := by
    intro x hx
    simp only [List.mem_cons, List.not_mem_nil, or_false] at hx
    unfold aCnt
    omega
  have hdev : ∀ x, x ∈ [1, 3] → aCnt 2 (qKey p f) 1 ≠ aCnt 0 0 x ∧ aCnt 2 (qKey p f) 1 ≠ aCnt 0 0 x + 8 := by
    intro x hx
    simp only [List.mem_cons, List.not_mem_nil, or_false] at hx
    unfold aCnt
    omega
  unfold beginSend
  extract_lets b s1 s2 s3 s4 l s5 s6 s7 s8 s9 x s10 r
  have k1 : Keeps 2097152 s s1 := by
    unfold s1
    exact keeps_ite (P := Keeps _ s) (fun _ => .refl _ s) fun _ => Keeps.wrf (k := 5) (.refl _ s) rfl
  have k3 : Keeps 2097152 s2 s3 := by
    unfold s3
    exact keeps_ite (P := Keeps _ s2) (fun _ => .refl _ s2) fun _ => setCommitTok_keeps rfl (.refl _ s2)
  have k4 : Keeps 2097152 s2 s4 := setPeakTok_keeps rfl k3
  have k5 : Keeps 2 s4 s5 := by
    unfold s5
    exact keeps_ite (P := Keeps _ s4) (fun _ => setLink_keeps rfl (.refl _ s4)) fun _ => .refl _ s4
  have k6 : Keeps 134217728 s5 s6 := count_keeps rfl (count_keeps rfl (.refl _ s5))
  have k7 : Keeps 134217728 s5 s7 := by
    unfold s7
    exact keeps_ite (P := Keeps _ s5) (fun _ => count_keeps rfl k6) fun _ => k6
  have k8 : Keeps 134217728 s5 s8 := by
    unfold s8
    exact keeps_ite (P := Keeps _ s5) (fun _ => count_keeps rfl k7) fun _ => k7
  have k9 : Keeps 134217728 s5 s9 := count_keeps rfl (count_keeps rfl k8)
  have kr : Keeps 135266820 s5 r.1 :=
    (readPayload_keeps (m := 135266820) rfl (setStat_keeps rfl (k9.mono rfl)))
  have hlink4 : s4.links = s.links := by
    rw [k4.links rfl, ← k1.links rfl]
    exact (tagHead_keeps (m := 1) rfl (setQueue_keeps rfl (.refl _ s1))).links rfl
  have hcnt4 : rd s4 (aCnt 2 (qKey p f) 1) = rd s (aCnt 2 (qKey p f) 1) := by
    have h1 : rd s1 (aCnt 2 (qKey p f) 1) = rd s (aCnt 2 (qKey p f) 1) := by
      unfold s1
      split
      · rfl
      · exact rd_wrf_other hport
    have h2 : rd s2 (aCnt 2 (qKey p f) 1) = rd s1 (aCnt 2 (qKey p f) 1) :=
      (tagHead_keeps (m := 1) rfl (setQueue_keeps rfl (.refl _ s1))).allRegs (by decide) _
    have h3 : rd s3 (aCnt 2 (qKey p f) 1) = rd s2 (aCnt 2 (qKey p f) 1) := by
      unfold s3
      split
      · rfl
      · exact rd_wrf_other hsch
    exact (rd_wrf_other hsch).trans (h3.trans (h2.trans h1))
  obtain ⟨huid, hhdr, hpkt⟩ := readPayload_pkt s10 p k ecc
  refine ⟨⟨r.2, ?_, huid, hhdr, hpkt⟩, ?_, fun hl => ?_, ?_⟩
  · exact congrArg List.head? (tget_tset_same [] r.1.fab.sending p [r.2])
  · have hq : queueOf r.1 p f = queueOf s2 p f :=
      queueOf_congr ((kr.fab rfl).trans ((k5.fab rfl).trans (k4.fab rfl))) p f
    exact (congrArg (List.map Pkt.uid) hq).trans ((queueOf_tagHead_uids ..).trans
      (congrArg (List.map Pkt.uid) (queueOf_setQueue_same ..)))
  · have h5 : s5 = setLink s4 p { l with used := tset 0 l.used f ((tget 0 l.used f + creditsOf k.hdr.length) % 2 ^ 16) } :=
      if_pos hl
    have hr : link r.1 p = link s5 p := link_congr (kr.links rfl) p
    have hl4 : l = link s p := link_congr hlink4 p
    refine (congrArg (fun x => tget 0 x.used f) hr).trans ?_
    rw [h5, link_setLink_same, tget_tset_same, hl4]
  · have h9 : rd s9 (aCnt 2 (qKey p f) 1) = rd s6 (aCnt 2 (qKey p f) 1) := by
      have h7 : rd s7 (aCnt 2 (qKey p f) 1) = rd s6 (aCnt 2 (qKey p f) 1) := by
        unfold s7
        split
        · exact rd_count_other (hown 9 (by simp)).1 (hown 9 (by simp)).2
        · rfl
      have h8 : rd s8 (aCnt 2 (qKey p f) 1) = rd s7 (aCnt 2 (qKey p f) 1) := by
        unfold s8
        split
        · exact rd_count_other (hown 10 (by simp)).1 (hown 10 (by simp)).2
        · rfl
      exact (rd_count_other (hdev 3 (by simp)).1 (hdev 3 (by simp)).2).trans
        ((rd_count_other (hdev 1 (by simp)).1 (hdev 1 (by simp)).2).trans (h8.trans h7))
    have h6 : rd s6 (aCnt 2 (qKey p f) 1) = rd (count s5 2 (qKey p f) 1 1) (aCnt 2 (qKey p f) 1) :=
      rd_count_other (hown 8 (by simp)).1 (hown 8 (by simp)).2
    have hr : rd r.1 (aCnt 2 (qKey p f) 1) = rd (count s5 2 (qKey p f) 1 1) (aCnt 2 (qKey p f) 1) :=
      (rd_readPayload_sent s10 k ecc f hp hf).trans (h9.trans h6)
    have h5 : rd s5 (aCnt 2 (qKey p f) 1) = rd s (aCnt 2 (qKey p f) 1) := (k5.allRegs (by decide) _).trans hcnt4
    refine (congrArg BitVec.toNat hr).trans ((rd_count_same ..).trans ?_)
    rw [h5]
    rfl

theorem schedulerDecision_shows {s : State} {p tier f : Nat} {ecc : Ecc} {k : Pkt} {rest : List Pkt} (hp : p < 512)
    (hb : canBegin s p = true) (hc : chooseFurrow s p = some (tier, f)) (hq : queueOf s p f = k :: rest) :
    ∃ t k', exec (.schedulerDecision p ecc) s = .next t ∧ sendingOn t p = some k' ∧ k'.uid = k.uid
      ∧ k'.hdr = k.hdr ∧ (ecc ≠ .uncorrectable → k' = k) ∧ (queueOf t p f).map Pkt.uid = rest.map Pkt.uid
      ∧ (lossless f = true → tget 0 (link t p).used f
        = (tget 0 (link s p).used f + creditsOf k.hdr.length) % 2 ^ 16)
      ∧ (rd t (aCnt 2 (16 * p + f) 1)).toNat = ((rd s (aCnt 2 (16 * p + f) 1)).toNat + 1) % 2 ^ 48
      ∧ touchesOnly [.fabric, .links, .granary, .yield] 0x3000_0000 [] s t := by
  obtain ⟨⟨k', hsend, huid, hhdr, hpkt⟩, hqueue, hcred, hcnt⟩ :=
    beginSend_shows (countPassed s p) tier k rest ecc hp (chooseFurrow_lt hc)
  refine ⟨_, k', schedulerDecision_some hb hc hq, hsend, huid, hhdr, hpkt, hqueue, fun hl => ?_, ?_, ?_⟩
  · rw [hcred hl, link_congr (countPassed_links s p)]
  · rw [rd_countPassed_sent] at hcnt
    exact hcnt
  · exact (beginSend_keeps (m := 137363975) rfl (countPassed_keeps rfl (.refl _ s))).touchesOnly 4 (by decide)
      (by decide) []

/-! ## PACKET_SENT -/

theorem packetSent_shows {s : State} {p : Nat} {k : Pkt} (hk : sendingOn s p = some k) (ht : k.tailSeen = true)
    (hw : unitsAfter (link s p) (blocksOf k) ≤ retryWindow s p) : ∃ u, sendingOn u p = none
      ∧ link u p = pushUnits (link s p) (blocksOf k) ∧ (∀ q, q ≠ p → link u q = link s q)
      ∧ u.fab.queues = s.fab.queues ∧ changesOnly [.fabric, .links] [] s u
      ∧ exec (.packetSent p) s = .next (settle
        (drainSource (pktGone u p k true).fab.atSource.length (pktGone u p k true))) := by
  let v := setSending (setLink s p (pushUnits (link s p) (blocksOf k))) p []
  let unit := ((link s p).txNext + ceilDiv ((link s p).part.length + (blocksOf k).length) 256 + 4095) % 4096
  let u := if typeCollective k.hdr.type then v else noteUnacked v p k.hdr.dst unit
  have hsame : u.links = v.links ∧ u.fab.sending = v.fab.sending ∧ u.fab.queues = v.fab.queues := by
    unfold u
    split <;> exact ⟨rfl, rfl, rfl⟩
  have hv : changesOnly [.fabric, .links] [] s v :=
    ((changesOnly.refl _ _ s).setLink).upd (t := v) 1 rfl (by decide)
  have hx : exec (.packetSent p) s = .next (settle
      (drainSource (pktGone u p k true).fab.atSource.length (pktGone u p k true))) := by
    rw [exec_packetSent, execPacketSent, hk]
    exact if_neg (by simp [ht, hw])
  obtain ⟨hlinks, hsending, hqueues⟩ := hsame
  refine ⟨u, ?_, ?_, fun q hq => ?_, hqueues, ?_, hx⟩
  · rw [sendingOn, hsending]
    exact congrArg List.head? (tget_tset_same [] s.fab.sending p [])
  · exact (link_congr hlinks p).trans (link_setLink_same s p _)
  · exact (link_congr hlinks q).trans (link_setLink_other _ hq)
  · unfold u
    split
    · exact hv
    · exact hv.upd (t := noteUnacked v p k.hdr.dst unit) 1 rfl (by decide)

/-! ## REFILL -/

/-- A fold over a list without repetitions works on each item once; what the items around it keep holds before and
after. -/
theorem forAll_once {α : Type} {f : State → α → State} {K : State → State → Prop} (hr : ∀ s, K s s)
    (ht : ∀ {r s t}, K r s → K s t → K r t) {x : α} : ∀ {xs : List α} (s : State), xs.Nodup → x ∈ xs →
    (∀ s y, y ∈ xs → y ≠ x → K s (f s y)) → ∃ a, K s a ∧ K (f a x) (forAll f s xs)
  | [], _, _, hx, _ => nomatch hx
  | y :: ys, s, hn, hx, hf => by
    obtain ⟨hy, hn⟩ := List.nodup_cons.mp hn
    by_cases hyx : y = x
    · subst hyx
      exact ⟨s, hr s, forAll_rel hr ht (fun u z hz => hf u z (List.mem_cons_of_mem _ hz) fun e => hy (e ▸ hz)) _⟩
    · obtain ⟨a, h1, h2⟩ := forAll_once hr ht (f s y) hn ((List.mem_cons.mp hx).resolve_left fun e => hyx e.symm)
        fun u z hz => hf u z (List.mem_cons_of_mem _ hz)
      exact ⟨a, ht (hf s y List.mem_cons_self hyx) h1, h2⟩

theorem applyStaged_none {s : State} (h : s.fab.staged = []) : applyStaged s = s := by
  have hs : { s with fab := { s.fab with staged := [] } } = s := by rw [← h]
  unfold applyStaged
  rw [h]
  exact hs

/-- What the refill of other furrows and slots keeps: every register below the scheduler's, the links, and the
registers that one item names. -/
def KeepsRates (as : Nat → Prop) (s t : State) : Prop :=
  t.links = s.links ∧ ∀ a, a < 0x3800_0000 ∨ as a → rd t a = rd s a

theorem KeepsRates.refl (as : Nat → Prop) (s : State) : KeepsRates as s s := ⟨rfl, fun _ _ => rfl⟩

theorem KeepsRates.trans {as : Nat → Prop} {r s t : State} (h : KeepsRates as r s) (g : KeepsRates as s t) :
    KeepsRates as r t := ⟨g.1.trans h.1, fun a ha => (g.2 a ha).trans (h.2 a ha)⟩

theorem KeepsRates.wrf {as : Nat → Prop} {r s : State} {a hi lo v : Nat} (h : KeepsRates as r s) (ha : 0x3800_0000 ≤ a)
    (hn : ¬as a) : KeepsRates as r (Machine.wrf s a hi lo v) :=
  ⟨h.1, fun b hb => (rd_wrf_other (by
    rintro rfl
    rcases hb with hb | hb
    · omega
    · exact hn hb)).trans (h.2 b hb)⟩

/-- A token count written as 25 bits reads as itself. -/
theorem signed_unsigned {v : Int} (h1 : -2 ^ 24 ≤ v) (h2 : v < 2 ^ 24) : signed 25 (unsigned 25 v % 2 ^ 25) = v := by
  unfold signed unsigned
  omega

theorem signed_ge (n : Nat) : -2 ^ 24 ≤ signed 25 n := by
  unfold signed
  omega

/-- The registers of a port's furrow, and of a policer slot, that a refill reads and writes. -/
def furrowWords (p f a : Nat) : Prop := ∃ w, w ≤ 2 ∧ a = aSch p f w
def slotWords (p i a : Nat) : Prop := ∃ w, w ≤ 2 ∧ a = aPol p i w

theorem not_furrowWords_aSch {p q f g : Nat} (hf : f < 16) (hg : g < 16) (h : ¬(q = p ∧ g = f)) :
    ¬furrowWords p f (aSch q g 2) := by
  rintro ⟨w, hw, he⟩
  unfold aSch at he
  omega

theorem not_furrowWords_aPol {p q f i : Nat} (hp : p < 512) (hf : f < 16) : ¬furrowWords p f (aPol q i 2) := by
  rintro ⟨w, hw, he⟩
  unfold aSch aPol at he
  omega

theorem not_slotWords_aSch {p q f i : Nat} (hq : q < 512) (hf : f < 16) : ¬slotWords p i (aSch q f 2) := by
  rintro ⟨w, hw, he⟩
  unfold aSch aPol at he
  omega

theorem not_slotWords_aPol {p q i j : Nat} (hi : i < 16) (hj : j < 16) (h : ¬(q = p ∧ j = i)) :
    ¬slotWords p i (aPol q j 2) := by
  rintro ⟨w, hw, he⟩
  unfold aPol at he
  omega

theorem refillFurrow_keepsRates {as : Nat → Prop} {p f : Nat} (s : State) (hn : ¬as (aSch p f 2)) :
    KeepsRates as s (refillFurrow p s f) :=
  have ha : 0x3800_0000 ≤ aSch p f 2 := by
    unfold aSch
    omega
  ((KeepsRates.refl as s).wrf ha hn).wrf ha hn

theorem refillSlot_keepsRates {as : Nat → Prop} {p i : Nat} (s : State) (hn : ¬as (aPol p i 2)) :
    KeepsRates as s (refillSlot p s i) :=
  have ha : 0x3800_0000 ≤ aPol p i 2 := by
    unfold aPol
    omega
  ((KeepsRates.refl as s).wrf ha hn).wrf ha hn

theorem allFurrows_lt {f : Nat} (h : f ∈ allFurrows) : f < 16 :=
  (by decide : ∀ f ∈ allFurrows, f < 16) f h

theorem portsOf_lt {s : State} {p : Nat} (h : p ∈ portsOf s) : p < 512 := by
  unfold portsOf at h
  exact List.mem_range.mp (List.mem_filter.mp h).1

theorem portsOf_nodup (s : State) : (portsOf s).Nodup := List.nodup_range.filter _

/-- A refilled furrow's buckets: what they held and gain, lowered to their sizes. -/
def RefilledFurrow (p f : Nat) (s t : State) : Prop :=
  commitTok t p f = min (commitTok s p f + commitGain s p f) (rdf s (aSch p f 1) 23 0)
    ∧ peakTok t p f = min (peakTok s p f + rdf s (aSch p f 0) 39 20) (rdf s (aSch p f 1) 47 24)

theorem refillFurrow_shows (s : State) (p f : Nat) : RefilledFurrow p f s (refillFurrow p s f) := by
  have hc := rdf_lt s (aSch p f 1) 23 0
  have hk := rdf_lt s (aSch p f 1) 47 24
  have h1 : -2 ^ 24 ≤ commitTok s p f := signed_ge _
  have h2 : -2 ^ 24 ≤ peakTok s p f := signed_ge _
  unfold refillFurrow
  extract_lets c k
  have hcommit : commitTok (setCommitTok s p f c) p f = c := by
    rw [commitTok, setCommitTok, rdf_wrf_same _ _ _ (by decide)]
    exact signed_unsigned (by unfold c; omega) (by unfold c; omega)
  constructor
  · exact (congrArg (signed 25) (rdf_wrf_field _ _ _ (by decide))).trans hcommit
  · rw [peakTok, setPeakTok, rdf_wrf_same _ _ _ (by decide)]
    exact signed_unsigned (by unfold k; omega) (by unfold k; omega)

theorem commitGain_congr {s t : State} {as : Nat → Prop} {p f : Nat} (h : KeepsRates as s t) (hp : p < 512)
    (h0 : rd t (aSch p f 0) = rd s (aSch p f 0)) : commitGain t p f = commitGain s p f := by
  have hstat : rd t (aLinkStat p) = rd s (aLinkStat p) := h.2 _ (.inl (by unfold aLinkStat aPrt; omega))
  have hfwd : forwarding t p = forwarding s p := by rw [forwarding, portState, rdf_congr hstat, forwarding, portState]
  have hnet : netPerRefill t p = netPerRefill s p := by
    rw [netPerRefill, hfwd, rdf_congr hstat, rdf_congr hstat, link_congr h.1, netPerRefill]
  rw [commitGain, rdf_congr h0, hnet, commitGain]

/-- A refill between states that agree on the furrow's registers. -/
theorem RefilledFurrow.congr {p f : Nat} {s a b t : State} (hp : p < 512) (h1 : KeepsRates (furrowWords p f) s a)
    (h : RefilledFurrow p f a b) (h2 : KeepsRates (furrowWords p f) b t) : RefilledFurrow p f s t := by
  have e1 : ∀ w, w ≤ 2 → rd a (aSch p f w) = rd s (aSch p f w) := fun w hw => h1.2 _ (.inr ⟨w, hw, rfl⟩)
  have e2 : rd t (aSch p f 2) = rd b (aSch p f 2) := h2.2 _ (.inr ⟨2, le_rfl, rfl⟩)
  obtain ⟨hc, hk⟩ := h
  simp only [commitTok, peakTok, rdf_congr (e1 1 (by decide)), rdf_congr (e1 0 (by decide)), rdf_congr (e1 2 le_rfl),
    commitGain_congr h1 hp (e1 0 (by decide))] at hc hk
  simp only [RefilledFurrow, commitTok, peakTok, rdf_congr e2]
  exact ⟨hc, hk⟩

/-- A refilled policer slot's buckets. -/
def RefilledSlot (p i : Nat) (s t : State) : Prop :=
  rdf t (aPol p i 2) 47 24 = Nat.min (rdf s (aPol p i 2) 47 24 + rdf s (aPol p i 0) 39 20) (rdf s (aPol p i 1) 47 24)
    ∧ rdf t (aPol p i 2) 23 0 = Nat.min (rdf s (aPol p i 2) 23 0 + rdf s (aPol p i 0) 19 0) (rdf s (aPol p i 1) 23 0)

theorem refillSlot_shows (s : State) (p i : Nat) : RefilledSlot p i s (refillSlot p s i) :=
  ⟨(rdf_wrf_field _ _ _ (by decide)).trans
      (rdf_wrf_fits _ _ (by decide) (Nat.lt_of_le_of_lt (Nat.min_le_right _ _) (rdf_lt s _ 47 24))),
    rdf_wrf_fits _ _ (by decide) (Nat.lt_of_le_of_lt (Nat.min_le_right _ _) (rdf_lt s _ 23 0))⟩

theorem RefilledSlot.congr {p i : Nat} {s a b t : State} (h1 : KeepsRates (slotWords p i) s a)
    (h : RefilledSlot p i a b) (h2 : KeepsRates (slotWords p i) b t) : RefilledSlot p i s t := by
  have e1 : ∀ w, w ≤ 2 → rd a (aPol p i w) = rd s (aPol p i w) := fun w hw => h1.2 _ (.inr ⟨w, hw, rfl⟩)
  have e2 : rd t (aPol p i 2) = rd b (aPol p i 2) := h2.2 _ (.inr ⟨2, le_rfl, rfl⟩)
  simpa only [RefilledSlot, rdf_congr (e1 1 (by decide)), rdf_congr (e1 0 (by decide)), rdf_congr (e1 2 le_rfl),
    rdf_congr e2] using h

/-- The two passes of a refill. -/
def refillFurrows (s : State) (ps : List Nat) : State := forAll (fun s p => forAll (refillFurrow p) s allFurrows) s ps
def refillSlots (s : State) (ps : List Nat) : State := forAll (fun s p => forAll (refillSlot p) s (List.range 16)) s ps

theorem refillFurrows_shows {s : State} {ps : List Nat} {p f : Nat} (hn : ps.Nodup) (hp : p ∈ ps) (hlt : p < 512)
    (hf : f ∈ allFurrows) : RefilledFurrow p f s (refillFurrows s ps) := by
  have hother : ∀ u q g, g ∈ allFurrows → ¬(q = p ∧ g = f) → KeepsRates (furrowWords p f) u (refillFurrow q u g) :=
    fun u q g hg h => refillFurrow_keepsRates u (not_furrowWords_aSch (allFurrows_lt hf) (allFurrows_lt hg) h)
  obtain ⟨a, ha, hta⟩ := forAll_once (f := fun s p => forAll (refillFurrow p) s allFurrows)
    (KeepsRates.refl (furrowWords p f)) KeepsRates.trans s hn hp fun u q _ hq =>
      forAll_rel (KeepsRates.refl _) KeepsRates.trans (fun v g hg => hother v q g hg fun h => hq h.1) u
  obtain ⟨b, hb, htb⟩ := forAll_once (f := refillFurrow p) (KeepsRates.refl (furrowWords p f)) KeepsRates.trans a
    (by decide) hf fun u g hg hne => hother u p g hg fun h => hne h.2
  exact (refillFurrow_shows b p f).congr hlt (ha.trans hb) (htb.trans hta)

theorem refillSlots_shows {s : State} {ps : List Nat} {p i : Nat} (hn : ps.Nodup) (hp : p ∈ ps) (hi : i < 16) :
    RefilledSlot p i s (refillSlots s ps) := by
  have hother : ∀ u q j, j ∈ List.range 16 → ¬(q = p ∧ j = i) → KeepsRates (slotWords p i) u (refillSlot q u j) :=
    fun u q j hj h => refillSlot_keepsRates u (not_slotWords_aPol hi (List.mem_range.mp hj) h)
  obtain ⟨a, ha, hta⟩ := forAll_once (f := fun s p => forAll (refillSlot p) s (List.range 16))
    (KeepsRates.refl (slotWords p i)) KeepsRates.trans s hn hp fun u q _ hq =>
      forAll_rel (KeepsRates.refl _) KeepsRates.trans (fun v j hj => hother v q j hj fun h => hq h.1) u
  obtain ⟨b, hb, htb⟩ := forAll_once (f := refillSlot p) (KeepsRates.refl (slotWords p i)) KeepsRates.trans a
    List.nodup_range (List.mem_range.mpr hi) fun u j hj hne => hother u p j hj fun h => hne h.2
  exact (refillSlot_shows b p i).congr (ha.trans hb) (htb.trans hta)

theorem refillFurrows_keepsRates {s : State} {ps : List Nat} {p i : Nat} (hlt : ∀ q ∈ ps, q < 512) :
    KeepsRates (slotWords p i) s (refillFurrows s ps) :=
  forAll_rel (KeepsRates.refl _) KeepsRates.trans (fun u q hq =>
    forAll_rel (KeepsRates.refl _) KeepsRates.trans (fun v _ hg =>
      refillFurrow_keepsRates v (not_slotWords_aSch (hlt q hq) (allFurrows_lt hg))) u) s

theorem refillSlots_keepsRates {s : State} {ps : List Nat} {p f : Nat} (hp : p < 512) (hf : f < 16) :
    KeepsRates (furrowWords p f) s (refillSlots s ps) :=
  forAll_rel (KeepsRates.refl _) KeepsRates.trans (fun u _ _ =>
    forAll_rel (KeepsRates.refl _) KeepsRates.trans (fun v _ _ =>
      refillSlot_keepsRates v (not_furrowWords_aPol hp hf)) u) s

theorem sampleMap_keepsRates (as : Nat → Prop) (s : State) : KeepsRates as s (sampleMap s) :=
  have hk : Keeps 512 s (sampleMap s) := sampleMap_keeps rfl (.refl _ s)
  ⟨hk.links rfl, fun a _ => hk.allRegs (by decide) a⟩

theorem refill_shows {s : State} (hr : isReady s = true) (hst : s.fab.staged = []) :
    ∃ t, exec .refill s = .next t
      ∧ (∀ p f, p ∈ portsOf s → hasBuckets s p = true → f ∈ allFurrows →
        commitTok t p f = min (commitTok s p f + commitGain s p f) (rdf s (aSch p f 1) 23 0)
        ∧ peakTok t p f = min (peakTok s p f + rdf s (aSch p f 0) 39 20) (rdf s (aSch p f 1) 47 24))
      ∧ (∀ p i, p ∈ portsOf s → i < 16 →
        rdf t (aPol p i 2) 47 24 = Nat.min (rdf s (aPol p i 2) 47 24 + rdf s (aPol p i 0) 39 20)
          (rdf s (aPol p i 1) 47 24)
        ∧ rdf t (aPol p i 2) 23 0 = Nat.min (rdf s (aPol p i 2) 23 0 + rdf s (aPol p i 0) 19 0)
          (rdf s (aPol p i 1) 23 0))
      ∧ touchesOnly [.fabric, .yield] 0x3800_0000 [] s t := by
  let ps := (portsOf s).filter (hasBuckets s)
  have hps : ∀ q ∈ ps, q < 512 := fun q hq => portsOf_lt (List.mem_of_mem_filter hq)
  have hsome : portsOf (refillFurrows s ps) = portsOf s := by
    have hk : KeepsRates (fun _ => False) s (refillFurrows s ps) :=
      forAll_rel (KeepsRates.refl _) KeepsRates.trans (fun u q _ =>
        forAll_rel (KeepsRates.refl _) KeepsRates.trans (fun v _ _ => refillFurrow_keepsRates v not_false) u) s
    refine List.filter_congr fun p hp => ?_
    have hlt := List.mem_range.mp hp
    rw [portExists, cfgWidth, portRole, rdf_congr (hk.2 _ (.inl (by unfold aLinkCfg aPrt; omega))),
      rdf_congr (hk.2 _ (.inl (by unfold aCable aPrt; omega))), portExists, cfgWidth, portRole]
  have hx : exec .refill s = .next (sampleMap (refillSlots (refillFurrows s ps) (portsOf s))) := by
    rw [← hsome]
    refine (if_neg (by simp [hr])).trans ?_
    rw [applyStaged_none hst]
    rfl
  refine ⟨_, hx, fun p f hp hb hf => ?_, fun p i hp hi => ?_, ?_⟩
  · exact (refillFurrows_shows ((portsOf_nodup s).filter _) (List.mem_filter.mpr ⟨hp, hb⟩) (portsOf_lt hp) hf).congr
      (portsOf_lt hp) (.refl _ s) ((refillSlots_keepsRates (portsOf_lt hp) (allFurrows_lt hf)).trans
        (sampleMap_keepsRates _ _))
  · exact (refillSlots_shows (portsOf_nodup s) hp hi).congr (refillFurrows_keepsRates hps) (sampleMap_keepsRates _ _)
  · have hk1 : Keeps 2097664 s (refillFurrows s ps) :=
      forAll_keeps (fun _ _ h => forAll_keeps (fun _ _ h => refillFurrow_keeps rfl h) h) (.refl _ s)
    have hk2 : Keeps 2097664 s (refillSlots (refillFurrows s ps) (portsOf s)) :=
      forAll_keeps (fun _ _ h => forAll_keeps (fun _ _ h => refillSlot_keeps rfl h) h) hk1
    exact (sampleMap_keeps (m := 2097664) rfl hk2).touchesOnly 5 (by decide) (by decide) []

/-- Settles O13: the furrow chosen, the packet that begins, the one that has gone and the refill. -/
theorem egressAndRefill : Obligations.EgressAndRefill :=
  ⟨⟨fun _ _ _ h => chooseFurrow_strict h,
      fun _ _ _ _ _ _ _ hp hb hc hq _ => schedulerDecision_shows hp hb hc hq,
      fun _ _ _ hb hc => schedulerDecision_none hb hc, fun _ _ _ hk ht hw => packetSent_shows hk ht hw⟩,
    fun _ hr hst => refill_shows hr hst⟩

end Sys2Proof.Machine
end

section
/-! PROOFS. Writes to shapers, policer slots and credits (R108, R288, R290, R295, R296). -/

namespace Sys2Proof.Machine

open Sys2Proof

/-! ## Staged words -/

/-- A word staged on top of what is staged or held. -/
def shaperStaged (s : State) (a : Nat) (fs : List RField) (v : Word) : Word :=
  mergedWord true fs (tget (rd s a) s.fab.staged a) v

theorem captureWrite_fab (u : State) (a : Nat) (v : Word) : (captureWrite u a v).fab = u.fab :=
  (captureWrite_frame u a v).2.1 .fabric (by simp)

/-- A shaper write's word is staged; the registers below the event log's and the other parts stay. -/
theorem stageShaper_shows (s : State) (path a : Nat) (fs : List RField) (v : Word) :
    tget 0 (stageShaper s path a fs v).fab.staged a = shaperStaged s a fs v
      ∧ touchesOnly [.fabric, .recorder] 0xA000_0000 [] s (stageShaper s path a fs v) := by
  unfold stageShaper
  extract_lets base u t
  have hlog : touchesOnly [.fabric, .recorder] (blockBase 9) [] s u :=
    (touchesOnly.refl _ _ _ s).keeps (m := 134217728) (logWrite_keeps rfl (.refl _ _)) (by decide) (by decide)
  refine ⟨?_, hlog.upd (t := { u with fab := { u.fab with staged := t } }) 1 rfl (by decide)⟩
  exact (tget_tins 0 u.fab.staged a a _).trans (if_pos rfl)

/-- A captured state whose staged word is known. -/
theorem staged_captureWrite {s : State} {path a : Nat} {fs : List RField} {v : Word} {u : State}
    (hfab : u.fab = (stageShaper s path a fs v).fab) (b : Nat) (x : Word) :
    tget 0 (captureWrite u b x).fab.staged a = shaperStaged s a fs v := by
  rw [captureWrite_fab, hfab, (stageShaper_shows s path a fs v).1]

/-- The sizes of a furrow's buckets wait for the refill. -/
theorem shaperSizes_shows {s : State} {f : Nat} {v : Word} (path p : Nat) (h : manageable s) (hf : f ≠ 7)
    (hv : 8232 ≤ bitsOf v 47 24) : ∃ t, exec (.shaperWrite path p f 1 v) s = .next t
      ∧ bitsOf (tget 0 t.fab.staged (aSch p f 1)) 47 24 = bitsOf v 47 24
      ∧ bitsOf (tget 0 t.fab.staged (aSch p f 1)) 23 0 = bitsOf v 23 0
      ∧ touchesOnly [.fabric, .recorder] 0xA000_0000 [] s t := by
  have hop : shaperWrite s path p f 1 v = ⟨stageShaper s path (aSch p f 1) (schFields f 1) v, .ok⟩ := if_pos (by simp [hf])
  refine ⟨_, congrArg Host.Outcome.next ((mgApply_ok h (by rw [hop])).trans (by rw [hop])), ?_, ?_,
    captureWrite_touches (stageShaper_shows ..).2 (by simp) le_rfl⟩ <;> rw [staged_captureWrite rfl]
  · simp [shaperStaged, mergedWord, schFields, hf, putField, rw, rwIf, rsv, hv, bitsOf_putBits_copy, bitsOf_putBits_other]
  · simp [shaperStaged, mergedWord, schFields, hf, putField, rw, rwIf, rsv, hv, bitsOf_putBits_copy]

/-- A furrow's rates wait for the refill, its weight acts at once. -/
theorem shaperRates_shows {s : State} {p f : Nat} {v : Word} (path : Nat) (h : manageable s) (hp : p < 512) (hf : f < 16)
    (hf7 : f ≠ 7) (hw : bitsOf v 63 56 ≠ 0) (hr : bitsOf v 39 20 ≠ 0) :
    ∃ t, exec (.shaperWrite path p f 0 v) s = .next t
      ∧ bitsOf (tget 0 t.fab.staged (aSch p f 0)) 39 20 = bitsOf v 39 20
      ∧ bitsOf (tget 0 t.fab.staged (aSch p f 0)) 19 0 = bitsOf v 19 0
      ∧ rdf t (aSch p f 0) 63 56 = bitsOf v 63 56 ∧ rdf t (aSch p f 0) 39 20 = rdf s (aSch p f 0) 39 20
      ∧ touchesOnly [.fabric, .recorder] 0xA000_0000 [aSch p f 0] s t := by
  let u := stageShaper s path (aSch p f 0) (schFields f 0) v
  obtain ⟨hst, hframe⟩ := stageShaper_shows s path (aSch p f 0) (schFields f 0) v
  have hop : shaperWrite s path p f 0 v
      = ⟨wrf u (aSch p f 0) 63 56 (bitsOf (tget 0 u.fab.staged (aSch p f 0)) 63 56), .ok⟩ :=
    (if_pos (by simp [hf7])).trans (by rw [if_pos rfl])
  have hlow : aSch p f 0 < 0xA000_0000 := by
    unfold aSch
    omega
  refine ⟨_, congrArg Host.Outcome.next ((mgApply_ok h (by rw [hop])).trans (by rw [hop])), ?_, ?_, ?_, ?_,
    captureWrite_touches ((hframe.mono (by simp) le_rfl (by simp)).wrf (.inl (by simp))) (by simp) le_rfl⟩
  · rw [captureWrite_fab, wrf_fab, hst]
    simp [shaperStaged, mergedWord, schFields, hf7, putField, rw, rwIf, rsv, hw, hr, bitsOf_putBits_copy, bitsOf_putBits_other]
  · rw [captureWrite_fab, wrf_fab, hst]
    simp [shaperStaged, mergedWord, schFields, hf7, putField, rw, rwIf, rsv, hw, hr, bitsOf_putBits_copy]
  · rw [rdf_congr (rd_captureWrite hlow), rdf_wrf_fits _ _ (by decide) (bitsOf_lt _ _ _), hst]
    simp [shaperStaged, mergedWord, schFields, hf7, putField, rw, rwIf, rsv, hw, hr, bitsOf_putBits_copy, bitsOf_putBits_other]
  · rw [rdf_congr (rd_captureWrite hlow), rdf_wrf_field _ _ _ (by decide)]
    exact rdf_congr (hframe.2.2 _ hlow (by simp))

/-- A policer slot's key and rates wait for the refill. -/
theorem policerRates_shows {s : State} {v : Word} (path p i : Nat) (h : manageable s)
    (hr : bitsOf v 19 0 ≤ bitsOf v 39 20) : ∃ t, exec (.policerSlotWrite path p i 0 v) s = .next t
      ∧ bitsOf (tget 0 t.fab.staged (aPol p i 0)) 63 49 = bitsOf v 63 49
      ∧ bitsOf (tget 0 t.fab.staged (aPol p i 0)) 39 20 = bitsOf v 39 20
      ∧ bitsOf (tget 0 t.fab.staged (aPol p i 0)) 19 0 = bitsOf v 19 0
      ∧ touchesOnly [.fabric, .recorder] 0xA000_0000 [] s t := by
  have hop : policerWrite s path p i 0 v = ⟨stageShaper s path (aPol p i 0) (polFields 0) v, .ok⟩ := rfl
  have hfields : ∀ hi lo, (hi, lo) ∈ [(63, 63), (62, 62), (61, 61), (60, 49), (39, 20), (19, 0)] →
      bitsOf (shaperStaged s (aPol p i 0) (polFields 0) v) hi lo = bitsOf v hi lo := by
    intro hi lo hm
    simp only [List.mem_cons, Prod.mk.injEq, List.not_mem_nil, or_false] at hm
    rcases hm with ⟨rfl, rfl⟩ | ⟨rfl, rfl⟩ | ⟨rfl, rfl⟩ | ⟨rfl, rfl⟩ | ⟨rfl, rfl⟩ | ⟨rfl, rfl⟩ <;>
      simp [shaperStaged, mergedWord, polFields, putField, rw, rsv, hr, bitsOf_putBits_copy, bitsOf_putBits_other]
  refine ⟨_, congrArg Host.Outcome.next ((mgApply_ok h (by rw [hop])).trans (by rw [hop])), ?_, ?_, ?_,
    captureWrite_touches (stageShaper_shows ..).2 (by simp) le_rfl⟩ <;> rw [staged_captureWrite rfl]
  · exact bitsOf_split (mid := 62) (by decide) (by decide) (hfields 63 63 (by simp))
      (bitsOf_split (mid := 61) (by decide) (by decide) (hfields 62 62 (by simp))
        (bitsOf_split (mid := 60) (by decide) (by decide) (hfields 61 61 (by simp)) (hfields 60 49 (by simp))))
  · exact hfields 39 20 (by simp)
  · exact hfields 19 0 (by simp)

/-! ## Writes that act at once -/

/-- A written register after an accepted write to it. -/
theorem rd_regWrite_captured (s : State) (path : Nat) {a : Nat} (fs : List RField) (v : Word) (ha : a < 0xA000_0000) :
    rd (captureWrite (regWrite s path a fs v) a v) a = mergedWord (!s.mg.rw1.contains a) fs (rd s a) v := by
  rw [rd_captureWrite ha, rd_regWrite_same]

/-- The queue's own limits of a lossy furrow. -/
theorem queueLimits_shows {s : State} {p f : Nat} {v : Word} (path : Nat) (h : manageable s) (hp : p < 512)
    (hf14 : 14 ≤ f) (hf : f < 16) (hmax : bitsOf v 31 16 ≠ 0) (hle : bitsOf v 15 0 ≤ bitsOf v 31 16) :
    ∃ t, exec (.shaperWrite path p f 3 v) s = .next t
      ∧ rdf t (aSch p f 3) 31 16 = bitsOf v 31 16 ∧ rdf t (aSch p f 3) 15 0 = bitsOf v 15 0
      ∧ touchesOnly [.recorder] 0xA000_0000 [aSch p f 3] s t := by
  have hop : shaperWrite s path p f 3 v = ⟨regWrite s path (aSch p f 3) (schFields f 3) v, .ok⟩ := if_neg (by simp)
  have hf7 : f ≠ 7 := by omega
  have hfs : hasRw1 (schFields f 3) = false := by
    simp only [schFields, if_neg hf7, if_pos hf14]
    rfl
  have hlow : aSch p f 3 < 0xA000_0000 := by
    unfold aSch
    omega
  refine ⟨_, congrArg Host.Outcome.next ((mgApply_ok h (by rw [hop])).trans (by rw [hop])), ?_, ?_,
    captureWrite_touches ((touchesOnly.refl _ _ _ s).regWrite hfs (.inl (by simp))) (by simp) le_rfl⟩ <;>
    rw [rdf, rd_regWrite_captured _ _ _ _ hlow]
  · simp [mergedWord, schFields, hf7, hf14, putField, rwIf, ro, hmax, hle, bitsOf_putBits_copy, bitsOf_putBits_other]
  · simp [mergedWord, schFields, hf7, hf14, putField, rwIf, ro, hmax, hle, bitsOf_putBits_copy]

/-- The credits granted are read from the ports' credit registers. -/
theorem grantedOf_congr {s t : State} (h : ∀ a, a < 0xA000_0000 → rd t a = rd s a) : grantedOf t = grantedOf s := by
  unfold grantedOf
  refine congrArg List.sum (List.map_congr_left fun p hp => ?_)
  have hp := List.mem_range.mp hp
  have hfloor : (losslessFurrows.map fun f => furFloor t p f) = losslessFurrows.map fun f => furFloor s p f :=
    List.map_congr_left fun f hf => rdf_congr (h _ (by
      have hf := (by decide : ∀ f ∈ losslessFurrows, f < 16) f hf
      unfold aCredit aPrt
      omega))
  have hpool : aPool p < 0xA000_0000 := by
    unfold aPool aPrt
    omega
  rw [hfloor, rdf_congr (h _ hpool)]

/-- The word that a credit write leaves: CEILING and FLOOR as written. -/
theorem mergedWord_credit (first : Bool) (f : Nat) (old v : Word) :
    mergedWord first (creditFields (.furrow f)) old v
      = putBits (putBits old 47 32 (bitsOf v 47 32)) 31 16 (bitsOf v 31 16) := by
  simp [mergedWord, creditFields, putField, rw, ro, rsv]

/-- A furrow's credits are written while its port is FALLOW. -/
theorem creditWrite_shows {s : State} {p f : Nat} {v : Word} (path : Nat) (h : manageable s) (hp : p < 512) (hf : f < 14)
    (hw : cfgWidth s p ≠ 0) (hst : portState s p = lsFallow) (hfloor : 33 ≤ bitsOf v 31 16)
    (hceil : bitsOf v 31 16 ≤ bitsOf v 47 32)
    (hshare : grantedOf (wrf (wrf s (aCredit p f) 47 32 (bitsOf v 47 32)) (aCredit p f) 31 16 (bitsOf v 31 16))
      ≤ rdf s aGrnShare 41 21) :
    ∃ t, exec (.creditConfigWrite path p (.furrow f) v) s = .next t
      ∧ rdf t (aCredit p f) 47 32 = bitsOf v 47 32 ∧ rdf t (aCredit p f) 31 16 = bitsOf v 31 16
      ∧ rdf t (aCredit p f) 15 0 = rdf s (aCredit p f) 15 0
      ∧ touchesOnly [.recorder] 0xA000_0000 [aCredit p f] s t := by
  let u := regWrite s path (aCredit p f) (creditFields (.furrow f)) v
  have hlow : aCredit p f < 0xA000_0000 := by
    unfold aCredit aPrt
    omega
  have hword : rd u (aCredit p f) = putBits (putBits (rd s (aCredit p f)) 47 32 (bitsOf v 47 32)) 31 16 (bitsOf v 31 16) :=
    (rd_regWrite_same ..).trans (mergedWord_credit ..)
  have hgranted : grantedOf u
      = grantedOf (wrf (wrf s (aCredit p f) 47 32 (bitsOf v 47 32)) (aCredit p f) 31 16 (bitsOf v 31 16)) := by
    refine grantedOf_congr fun a ha => ?_
    by_cases he : a = aCredit p f
    · rw [he, hword, wrf, rd_wr_same, wrf, rd_wr_same]
    · rw [rd_wrf_other he, rd_wrf_other he]
      exact rd_regWrite_other he (.inl (by omega))
  have hillegal : creditIllegal (.furrow f) v = false := by
    simp only [creditIllegal]
    have h1 : ¬bitsOf v 31 16 < 33 := by omega
    have h2 : ¬bitsOf v 47 32 < bitsOf v 31 16 := by omega
    simp [h1, h2]
  have hop : creditWrite s path p (.furrow f) v = ⟨u, .ok⟩ := by
    have hfit : decide (rdf s aGrnShare 41 21
        < grantedOf (regWrite s path (creditAddr p (.furrow f)) (creditFields (.furrow f)) v)) = false :=
      decide_eq_false (show ¬rdf s aGrnShare 41 21 < grantedOf u by omega)
    refine if_neg ?_
    rw [hst, hillegal, hfit]
    simp
  have hx : exec (.creditConfigWrite path p (.furrow f) v) s = .next (captureWrite u (aCredit p f) v) :=
    (if_neg hw).trans (congrArg Host.Outcome.next ((mgApply_ok h (by rw [hop])).trans (by rw [hop]; rfl)))
  refine ⟨_, hx, ?_, ?_, ?_,
    captureWrite_touches ((touchesOnly.refl _ _ _ s).regWrite rfl (.inl (by simp))) (by simp) le_rfl⟩ <;>
    rw [rdf_congr (rd_captureWrite hlow), rdf, hword]
  · rw [bitsOf_putBits_other _ _ (by decide), bitsOf_putBits_copy _ _ (by decide)]
  · rw [bitsOf_putBits_copy _ _ (by decide)]
  · rw [bitsOf_putBits_other _ _ (by decide), bitsOf_putBits_other _ _ (by decide), rdf]

/-- A credit write to a port that is not FALLOW is refused whole. -/
theorem creditWrite_refused {s : State} {p : Nat} (path : Nat) (reg : CreditReg) (v : Word) (h : manageable s)
    (hw : cfgWidth s p ≠ 0) (hst : portState s p ≠ lsFallow) :
    ∃ t, exec (.creditConfigWrite path p reg v) s = .next t ∧ touchesOnly [.recorder] 0xA000_0000 [] s t := by
  have hop : creditWrite s path p reg v = ⟨refuseR12 s path (creditAddr p reg), .ok⟩ := if_pos (by simp [hst])
  have hx : exec (.creditConfigWrite path p reg v) s
      = .next (captureWrite (refuseR12 s path (creditAddr p reg)) (creditAddr p reg) v) :=
    (if_neg hw).trans (congrArg Host.Outcome.next ((mgApply_ok h (by rw [hop])).trans (by rw [hop])))
  exact ⟨_, hx, captureWrite_touches ((refuseR12_keeps (m := 134217728) rfl (.refl _ s)).touchesOnly 9 (by decide)
    (by decide) []) (by simp) le_rfl⟩

/-- Settles O14: what waits for the refill is staged; limits act at once and credits on a FALLOW port. -/
theorem queueSettings : Obligations.QueueSettings :=
  ⟨fun _ path p _ _ h _ _ hf hv => shaperSizes_shows path p h hf hv,
    fun _ path _ _ _ h hp hf hf7 hw hr => shaperRates_shows path h hp hf hf7 hw hr,
    fun _ path _ _ _ h hp hf14 hf hmax hle => queueLimits_shows path h hp hf14 hf hmax hle,
    fun _ path p i _ h _ _ hr => policerRates_shows path p i h hr,
    fun _ path _ _ _ h hp hf _ hw hst h1 h2 h3 => creditWrite_shows path h hp hf hw hst h1 h2 h3,
    fun _ path _ reg v h _ hw hst => creditWrite_refused path reg v h hw hst⟩

end Sys2Proof.Machine
end

section
/-! PROOFS. Buffers: their allocation, their owners' clears and the Gleaner (R258 to R280). -/

namespace Sys2Proof.Machine

open Sys2Proof

/-! ## Allocation -/

theorem nowUs_congr {s t : State} (h : rd t aTime = rd s aTime) : nowUs t = nowUs s := by
  rw [nowUs, now, h, nowUs, now]

theorem nowUs_count (s : State) (g i x n : Nat) : nowUs (count s g i x n) = nowUs s :=
  nowUs_congr (rd_count_low (by decide))

theorem touchesOnly.count {ps : List Part} {b : Nat} {as : List Nat} {r s : State} {g i x n : Nat}
    (h : touchesOnly ps b as r s) (hb : b ≤ 0xA400_0000) : touchesOnly ps b as r (Machine.count s g i x n) :=
  h.trans ⟨(count_keeps (m := 134217728) rfl (.refl _ s)).pending, (count_keeps (m := 134217728) rfl (.refl _ s)).parts (Nat.zero_or _),
    fun _ ha _ => rd_count_low (Nat.lt_of_lt_of_le ha hb)⟩

/-- A claimed buffer: PRIVATE to its owner, with plot, furrow and time; its status word alone changes. -/
theorem claim_shows (s : State) (st : Store) (p : Nat) {owner plot furrow : Nat} (ho : owner < 2 ^ 14)
    (hp : plot < 4096) (hf : furrow < 16) :
    let t := claim s st p owner plot furrow
    bufState t st p = bsPrivate ∧ rdf t (statusAddr st p) 61 50 = plot ∧ rdf t (statusAddr st p) 49 46 = furrow
      ∧ rdf t (statusAddr st p) 45 32 = owner ∧ rdf t (statusAddr st p) 31 0 = nowUs s % 2 ^ 32
      ∧ changesOnly [] [(statusAddr st p, 63, 0)] s t := by
  intro t
  have hword : ∀ hi lo, rdf t (statusAddr st p) hi lo = bitsOf (bitsAt 63 62 bsPrivate ||| bitsAt 61 50 plot
      ||| bitsAt 49 46 furrow ||| bitsAt 45 32 owner ||| bitsAt 31 0 (nowUs s)) hi lo := fun hi lo =>
    congrArg (bitsOf · hi lo) (rd_wr_same s (statusAddr st p) _)
  refine ⟨?_, ?_, ?_, ?_, ?_, ((changesOnly.refl _ _ s).wr).upd (t := t) 0 rfl rfl⟩
  · rw [bufState, hword]
    simp [bitsOf_or, bitsOf_bitsAt_same, bitsOf_bitsAt_other, bsPrivate]
  · rw [hword]
    simpa [bitsOf_or, bitsOf_bitsAt_same, bitsOf_bitsAt_other] using hp
  · rw [hword]
    simpa [bitsOf_or, bitsOf_bitsAt_same, bitsOf_bitsAt_other] using hf
  · rw [hword]
    simpa [bitsOf_or, bitsOf_bitsAt_same, bitsOf_bitsAt_other] using ho
  · rw [hword]
    simp [bitsOf_or, bitsOf_bitsAt_same, bitsOf_bitsAt_other]

/-- A cluster store's buffer, claimed for the owner that asked (R258, R259). -/
theorem allocStore_some {s : State} {n owner plot bytes p : Nat} (h0 : 0 < bytes) (h1 : bytes ≤ 65536)
    (hp : csFreeAtLeast s n (3 - csFitClass bytes) (csFitClass bytes) = some p) :
    ∃ u, allocStore s n owner plot (bytes / 65536 + 1) bytes = some (claim u (some n) p owner plot 0, [p])
      ∧ nowUs u = nowUs s ∧ touchesOnly [] 0xA300_0000 [] s u := by
  let u := if csFitClass bytes < csClass p then count s 6 (8 + n) 0 1 else s
  have hmin : Nat.min bytes 65536 = bytes := Nat.min_eq_left h1
  have hrest : ∀ k v, allocStore v n owner plot k (bytes - 65536) = some (v, []) := by
    intro k v
    cases k with
    | zero => rfl
    | succ k => rw [allocStore, if_pos (by omega)]
  refine ⟨u, ?_, ?_, ?_⟩
  · rw [allocStore, if_neg (by omega), hmin]
    simp only [hp, hrest]
    rfl
  · unfold u
    split
    · exact nowUs_count ..
    · rfl
  · unfold u
    split
    · exact (touchesOnly.refl _ _ _ s).count (by decide)
    · exact .refl _ _ _ s

theorem storeAlloc_shows {s : State} {n owner plot bytes p : Nat} (f : Nat) (ho : owner < 2 ^ 14) (hplot : plot < 4096)
    (h0 : 0 < bytes) (h1 : bytes ≤ 65536)
    (hp : csFreeAtLeast s n (3 - csFitClass bytes) (csFitClass bytes) = some p) :
    ∃ t, exec (.granaryAlloc (some n) owner plot f bytes) s = .next t
      ∧ bufState t (some n) p = bsPrivate ∧ rdf t (statusAddr (some n) p) 61 50 = plot
      ∧ rdf t (statusAddr (some n) p) 45 32 = owner ∧ rdf t (statusAddr (some n) p) 31 0 = nowUs s
      ∧ touchesOnly [] 0xA300_0000 [statusAddr (some n) p] s t := by
  obtain ⟨u, halloc, hnow, hframe⟩ := allocStore_some (owner := owner) (plot := plot) h0 h1 hp
  obtain ⟨hst, hpl, -, hown, htime, hclaim⟩ := claim_shows u (some n) p ho hplot (furrow := 0) (by decide)
  have hx : exec (.granaryAlloc (some n) owner plot f bytes) s = .next (claim u (some n) p owner plot 0) := by
    rw [exec_granaryAlloc, execGranaryAlloc, if_neg (by simp), if_neg (by simp), allocFor]
    simp only [halloc]
  refine ⟨_, hx, hst, hpl, hown, ?_, (hframe.mono (by simp) le_rfl (by simp)).trans (hclaim.touches (by simp))⟩
  rw [htime, hnow]
  exact Nat.mod_eq_of_lt (Nat.mod_lt _ (by decide))

theorem storeAlloc_none {s : State} {n bytes : Nat} (owner plot f : Nat) (h0 : 0 < bytes) (h1 : bytes ≤ 65536)
    (hp : csFreeAtLeast s n (3 - csFitClass bytes) (csFitClass bytes) = none) :
    exec (.granaryAlloc (some n) owner plot f bytes) s = .next s := by
  have hmin : Nat.min bytes 65536 = bytes := Nat.min_eq_left h1
  have halloc : allocStore s n owner plot (bytes / 65536 + 1) bytes = none := by
    rw [allocStore, if_neg (by omega), hmin]
    simp only [hp]
  rw [exec_granaryAlloc, execGranaryAlloc, if_neg (by simp), if_neg (by simp), allocFor]
  simp only [halloc]

/-- A packet buffer, claimed for the owner that asked (R260). -/
theorem allocChain_one {s : State} {who owner plot f bytes p : Nat} (h0 : 0 < bytes) (h1 : bytes ≤ 16384)
    (hp : freeAtLeast s (tget 0 s.fab.rr who) (7 - fitClass bytes) (fitClass bytes) = some p) :
    ∃ u, allocChain s who owner plot f (bytes / 16384 + 1) bytes = some (claim u none p owner plot f, [p])
      ∧ nowUs u = nowUs s ∧ (∀ a, a < 0xA300_0000 → rd u a = rd s a)
      ∧ touchesOnly [.fabric, .granary] 0xA300_0000 [] s u := by
  let v : State := { s with fab := { s.fab with rr := tset 0 s.fab.rr who ((ptrStart p + 1) % 8) } }
  let u := if fitClass bytes < ptrClass p then count v 6 (ptrStart p) 0 1 else v
  have hmin : Nat.min bytes 16384 = bytes := Nat.min_eq_left h1
  have hrest : ∀ k w, allocChain w who owner plot f k (bytes - 16384) = some (w, []) := by
    intro k w
    cases k with
    | zero => rfl
    | succ k => rw [allocChain, if_pos (by omega)]
  have hone : allocOne s who owner plot f bytes = some (claim u none p owner plot f, p) := by
    simp only [allocOne, hp]
    rfl
  have hv : touchesOnly [.fabric, .granary] 0xA300_0000 [] s v :=
    (touchesOnly.refl _ _ _ s).upd (t := v) 1 rfl (by decide)
  have hu : touchesOnly [.fabric, .granary] 0xA300_0000 [] s u := by
    unfold u
    split
    · exact hv.count (by decide)
    · exact hv
  refine ⟨u, ?_, nowUs_congr (hu.2.2 _ (by decide) (by simp)), fun a ha => hu.2.2 a ha (by simp), hu⟩
  rw [allocChain, if_neg (by omega), hmin, hone]
  simp only [hrest]

theorem aQuota_ne_status {plot f : Nat} (hplot : plot < 4096) (hf : f < 16) (p : Nat) :
    aQuota plot f ≠ statusAddr none p := by
  simp only [aQuota, statusAddr, aBufStatus]
  omega

theorem packetAlloc_shows {s : State} {owner plot f bytes p : Nat} (hw : waitsForBuffer s owner f = false)
    (hsrc : s.fab.atSource = []) (ho : owner < 2 ^ 14) (hplot : plot < 4096) (hf : f < 16) (h0 : 0 < bytes)
    (h1 : bytes ≤ 16384)
    (hp : freeAtLeast s (tget 0 s.fab.rr (whoOf owner)) (7 - fitClass bytes) (fitClass bytes) = some p)
    (hq : quotaOk s plot f (2 ^ ptrClass p) = true) :
    ∃ t, exec (.granaryAlloc none owner plot f bytes) s = .next t
      ∧ bufState t none p = bsPrivate ∧ rdf t (statusAddr none p) 61 50 = plot
      ∧ rdf t (statusAddr none p) 49 46 = f ∧ rdf t (statusAddr none p) 45 32 = owner
      ∧ (charged f = true → rdf t (aQuota plot f) 20 0 = (rdf s (aQuota plot f) 20 0 + 2 ^ ptrClass p) % 2 ^ 21)
      ∧ touchesOnly [.fabric, .granary] 0xA300_0000 [statusAddr none p, aQuota plot f] s t := by
  obtain ⟨u, halloc, -, hregs, hframe⟩ := allocChain_one (owner := owner) (plot := plot) (f := f) h0 h1 hp
  obtain ⟨hst, hpl, hfu, hown, -, hclaim⟩ := claim_shows u none p ho hplot hf
  let c := claim u none p owner plot f
  have hne := aQuota_ne_status hplot hf p
  have hquota : rd c (aQuota plot f) = rd s (aQuota plot f) :=
    (hclaim.rd_eq (by simpa using hne)).trans (hregs _ (by unfold aQuota; omega))
  have hqc : quotaOk c plot f (unitsOf [p]) = true := by
    rw [quotaOk, rdf_congr hquota, rdf_congr hquota, show unitsOf [p] = 2 ^ ptrClass p from Nat.add_zero _]
    exact hq
  have hx : exec (.granaryAlloc none owner plot f bytes) s = .next (chargeQuota c plot f (2 ^ ptrClass p)) := by
    rw [exec_granaryAlloc, execGranaryAlloc, if_neg (by simp [hw]), if_neg (by simp [hsrc]), allocFor]
    simp only [halloc]
    exact congrArg Host.Outcome.next (if_pos hqc)
  have hstatus : ∀ hi lo, rdf (chargeQuota c plot f (2 ^ ptrClass p)) (statusAddr none p) hi lo
      = rdf c (statusAddr none p) hi lo := fun hi lo => by
    unfold chargeQuota
    split
    · exact rdf_wrf_other hne.symm
    · rfl
  refine ⟨_, hx, (hstatus 63 62).trans hst, (hstatus 61 50).trans hpl, (hstatus 49 46).trans hfu,
    (hstatus 45 32).trans hown, fun hch => ?_, ?_⟩
  · rw [chargeQuota, if_pos hch, rdf_wrf_same _ _ _ (by decide), rdf_congr hquota]
  · have hc : touchesOnly [.fabric, .granary] 0xA300_0000 [statusAddr none p, aQuota plot f] s c :=
      (hframe.mono (by simp) le_rfl (by simp)).trans
        ((hclaim.touches (as := [statusAddr none p]) (by simp)).mono (by simp) le_rfl (by simp))
    unfold chargeQuota
    split
    · exact hc.wrf (.inl (by simp))
    · exact hc

theorem waitingAlloc_shows {s : State} {owner f : Nat} (plot bytes : Nat) (h : waitsForBuffer s owner f = true) :
    exec (.granaryAlloc none owner plot f bytes) s = .next (drainPort s (owner - 0x200) f) := by
  rw [exec_granaryAlloc, execGranaryAlloc]
  exact if_pos (by simp [h])

/-- Settles O15: the buffer found is claimed and, of the packet buffers, charged. -/
theorem granaryAllocation : Obligations.GranaryAllocation :=
  ⟨fun _ _ _ _ f _ _ _ ho hplot h0 h1 hp => storeAlloc_shows f ho hplot h0 h1 hp,
    fun _ _ owner plot f _ h0 h1 hp => storeAlloc_none owner plot f h0 h1 hp,
    fun _ _ _ _ _ _ hw hsrc ho hplot hf h0 h1 hp hq => packetAlloc_shows hw hsrc ho hplot hf h0 h1 hp hq,
    fun _ _ plot _ bytes h => waitingAlloc_shows plot bytes h⟩

end Sys2Proof.Machine
end

section
/-! PROOFS. What an owner's clear does (R262, R263, R266, R280). -/

namespace Sys2Proof.Machine

open Sys2Proof

/-! ## Reports -/

theorem aGrnErr_ne : aGrnErr 0 ≠ aGrnErr 1 := by decide

theorem touchesOnly.grnReport {ps : List Part} {as : List Nat} {r s : State} {code mgr p owner plot furrow group number : Nat}
    (h : touchesOnly ps 0xA300_0000 as r s) (h0 : aGrnErr 0 ∈ as) (h1 : aGrnErr 1 ∈ as) :
    touchesOnly ps 0xA300_0000 as r (Machine.grnReport s code mgr p owner plot furrow group number) := by
  unfold Machine.grnReport
  extract_lets u v w
  have hu : touchesOnly ps 0xA300_0000 as r u := h.count (by decide)
  have hv : touchesOnly ps (blockBase 11) as r v :=
    touchesOnly.keeps (m := 134217728) hu (event_keeps rfl (.refl _ u)) (Nat.zero_or _) (by decide)
  split
  · exact hv.wrf (.inl h0)
  · exact (hv.wr (.inl h0)).wr (.inl h1)

/-- A report is captured by GRN_ERR when it is armed, and else counts as a further one (R280). -/
theorem grnReport_shows (s : State) {code : Nat} (mgr p owner plot furrow : Nat) (hcode : code < 256) :
    let t := grnReport s code mgr p owner plot furrow
    (rdb s (aGrnErr 0) 63 = false → rdb t (aGrnErr 0) 63 = true ∧ rdf t (aGrnErr 0) 55 48 = code
        ∧ rdf t (aGrnErr 0) 31 0 = p % 2 ^ 32 ∧ rdf t (aGrnErr 1) 63 48 = owner % 2 ^ 16)
      ∧ (rdb s (aGrnErr 0) 63 = true → rdb t (aGrnErr 0) 62 = true)
      ∧ touchesOnly [] 0xA300_0000 [aGrnErr 0, aGrnErr 1] s t := by
  intro t
  have hframe : touchesOnly [] 0xA300_0000 [aGrnErr 0, aGrnErr 1] s t :=
    (touchesOnly.refl _ _ _ s).grnReport (by simp) (by simp)
  unfold t grnReport
  extract_lets u v w
  have hv : rd v (aGrnErr 0) = rd s (aGrnErr 0) :=
    (rd_event_other (.inl (by decide))).trans (rd_count_low (by decide))
  refine ⟨fun h => ?_, fun h => ?_, hframe⟩
  · rw [if_neg (by rw [rdb_congr hv, h]; decide)]
    refine ⟨?_, ?_, ?_, ?_⟩
    · rw [rdb, rd_wr_other aGrnErr_ne, rd_wr_same]
      simp [bitOf_or, bitOf_bitsAt]
    · rw [rdf, rd_wr_other aGrnErr_ne, rd_wr_same]
      simpa [bitsOf_or, bitsOf_bitsAt_same, bitsOf_bitsAt_other] using hcode
    · rw [rdf, rd_wr_other aGrnErr_ne, rd_wr_same]
      simp [bitsOf_or, bitsOf_bitsAt_same, bitsOf_bitsAt_other]
    · rw [rdf, rd_wr_same]
      simp [bitsOf_or, bitsOf_bitsAt_same, bitsOf_bitsAt_other]
  · rw [if_pos (by rw [rdb_congr hv, h])]
    exact rdb_wrf_one _ _ (by decide)

/-! ## OWNER_CLEAR -/

/-- With no frame at its source unit, a clear ends there. -/
theorem ownerClear_eq {s : State} {st : Store} {owner p : Nat} {ecc : Ecc}
    (h : (presentClear s st owner p ecc).fab.atSource = []) :
    exec (.ownerClear st owner p ecc) s = .next (presentClear s st owner p ecc) := by
  rw [exec_ownerClear, execOwnerClear]
  simp only [h]
  rfl

theorem ptrError_lt {s : State} {st : Store} {p code : Nat} (h : ptrError s st p = some code) : code < 256 := by
  cases st with
  | none =>
    simp only [ptrError] at h
    split_ifs at h <;> cases h <;> decide
  | some n =>
    simp only [ptrError] at h
    split_ifs at h <;> cases h <;> decide

/-- A clear that fails a check is its report. -/
theorem presentClear_bad {s : State} {st : Store} {owner p code : Nat} (ecc : Ecc)
    (h : ptrError s st p = some code
      ∨ ptrError s st p = none ∧ (bufState s st p = 0 ∧ code = 0x42 ∨ bufState s st p = 3 ∧ code = 0x43
        ∨ (bufState s st p = 1 ∨ bufState s st p = 2) ∧ (ownersOf s st p).contains owner = false ∧ code = 0x44)) :
    code < 256 ∧ ∃ mgr plot furrow, presentClear s st owner p ecc = grnReport s code mgr p owner plot furrow := by
  unfold presentClear
  rcases h with h | ⟨h, ⟨hb, rfl⟩ | ⟨hb, rfl⟩ | ⟨hb, ho, rfl⟩⟩
  · exact ⟨ptrError_lt h, managerOf st p, 0xFFF, 0, by simp only [h]⟩
  · exact ⟨by decide, managerOf st p, 0xFFF, 0, by simp only [h, hb]⟩
  · exact ⟨by decide, managerOf st p, 0xFFF, 0, by simp only [h, hb]⟩
  · refine ⟨by decide, managerOf st p, (chargedTo s st p).1, (chargedTo s st p).2, ?_⟩
    rcases hb with hb | hb <;> simp only [h, hb, ho, Bool.false_eq_true, if_false]

theorem badClear_shows {s : State} {st : Store} {owner p code : Nat} (ecc : Ecc) (hsrc : s.fab.atSource = [])
    (h : ptrError s st p = some code
      ∨ ptrError s st p = none ∧ (bufState s st p = 0 ∧ code = 0x42 ∨ bufState s st p = 3 ∧ code = 0x43
        ∨ (bufState s st p = 1 ∨ bufState s st p = 2) ∧ (ownersOf s st p).contains owner = false ∧ code = 0x44)) :
    ∃ t, exec (.ownerClear st owner p ecc) s = .next t
      ∧ (rdb s (aGrnErr 0) 63 = false → rdb t (aGrnErr 0) 63 = true ∧ rdf t (aGrnErr 0) 55 48 = code
        ∧ rdf t (aGrnErr 0) 31 0 = p % 2 ^ 32 ∧ rdf t (aGrnErr 1) 63 48 = owner % 2 ^ 16)
      ∧ (rdb s (aGrnErr 0) 63 = true → rdb t (aGrnErr 0) 62 = true)
      ∧ touchesOnly [] 0xA300_0000 [aGrnErr 0, aGrnErr 1] s t := by
  obtain ⟨hcode, mgr, plot, furrow, heq⟩ := presentClear_bad ecc h
  have hshow := grnReport_shows s mgr p owner plot furrow hcode
  rw [← heq] at hshow
  have hfab : (presentClear s st owner p ecc).fab = s.fab := hshow.2.2.2.1 .fabric (by simp)
  exact ⟨_, ownerClear_eq (by rw [hfab, hsrc]), hshow⟩

/-- A PRIVATE buffer's clear by its owner frees it. -/
theorem presentClear_private {s : State} {owner p : Nat} (hptr : ptrError s none p = none)
    (hst : bufState s none p = bsPrivate) (hown : rdf s (statusAddr none p) 45 32 = owner) :
    presentClear s none owner p .clean = freeChain s none p := by
  have howners : (ownersOf s none p).contains owner = true := by simp [ownersOf, hst, bsPrivate, hown]
  simp only [presentClear, hptr, hst, bsPrivate, howners, if_true, noteUnit, clearOwner, hown]

/-- A free packet buffer that no unit spoiled: its status word is 0 and its plot gets its units back (R266). -/
theorem freeChain_shows {s : State} {p : Nat} (hst : bufState s none p = bsPrivate)
    (hchain : tget [] s.grn.chains (bufKey none p) = []) (hbad : s.grn.bad.contains (bufKey none p) = false) :
    let f := rdf s (statusAddr none p) 49 46
    let q := aQuota (rdf s (statusAddr none p) 61 50) f
    let t := freeChain s none p
    rd t (statusAddr none p) = 0 ∧ (charged f = true → rdf t q 20 0 = rdf s q 20 0 - 2 ^ ptrClass p)
      ∧ touchesOnly [.granary] 0xA300_0000 [statusAddr none p, q] s t := by
  intro f q t
  have hne : q ≠ statusAddr none p := aQuota_ne_status (rdf_lt s _ 61 50) (rdf_lt s _ 49 46) p
  let u := releaseQuota s (rdf s (statusAddr none p) 61 50) f (2 ^ ptrClass p)
  let v : State := { u with grn := { u.grn with flags := tset [] u.grn.flags (bufKey none p) [] } }
  have hgrn : u.grn = s.grn := by
    unfold u releaseQuota
    split <;> rfl
  have hone : freeOne s none p = wr v (statusAddr none p) 0 := by
    have hb : v.grn.bad.contains (bufKey none p) = false := by
      rw [← hbad]
      exact congrArg (fun x => x.bad.contains (bufKey none p)) hgrn
    have hs : (bufState s none p == bsShared) = false := by rw [hst]; rfl
    unfold freeOne
    simp only [hs, Bool.false_eq_true, if_false]
    exact if_neg (by rw [hb]; decide)
  have ht : t = { wr v (statusAddr none p) 0 with grn := { (wr v (statusAddr none p) 0).grn with
      chains := tset [] (wr v (statusAddr none p) 0).grn.chains (bufKey none p) [] } } := by
    unfold t freeChain
    rw [hchain, ← hone]
    rfl
  have hu : touchesOnly [.granary] 0xA300_0000 [statusAddr none p, q] s u := by
    unfold u releaseQuota
    split
    · exact (touchesOnly.refl _ _ _ s).wrf (.inl (by simp [q]))
    · exact .refl _ _ _ s
  have hv : touchesOnly [.granary] 0xA300_0000 [statusAddr none p, q] s v := hu.upd (t := v) 4 rfl (by decide)
  rw [ht]
  refine ⟨rd_wr_same v _ 0, fun hch => ?_, (hv.wr (.inl (by simp))).upd (t := { wr v (statusAddr none p) 0 with
    grn := { (wr v (statusAddr none p) 0).grn with
      chains := tset [] (wr v (statusAddr none p) 0).grn.chains (bufKey none p) [] } }) 4 rfl (by decide)⟩
  have huq : rdf u q 20 0 = rdf s q 20 0 - 2 ^ ptrClass p := by
    unfold u releaseQuota
    rw [if_pos hch]
    exact rdf_wrf_fits _ _ (by decide) (Nat.lt_of_le_of_lt (Nat.sub_le _ _) (rdf_lt s _ 20 0))
  exact (rdf_congr (rd_wr_other (s := v) hne)).trans huq

theorem privateClear_shows {s : State} {owner p : Nat} (hsrc : s.fab.atSource = []) (hptr : ptrError s none p = none)
    (hst : bufState s none p = bsPrivate) (hown : rdf s (statusAddr none p) 45 32 = owner)
    (hchain : tget [] s.grn.chains (bufKey none p) = []) (hbad : s.grn.bad.contains (bufKey none p) = false) :
    ∃ t, exec (.ownerClear none owner p .clean) s = .next t ∧ rd t (statusAddr none p) = 0
      ∧ (let q := aQuota (rdf s (statusAddr none p) 61 50) (rdf s (statusAddr none p) 49 46)
        (charged (rdf s (statusAddr none p) 49 46) = true → rdf t q 20 0 = rdf s q 20 0 - 2 ^ ptrClass p)
        ∧ touchesOnly [.granary] 0xA300_0000 [statusAddr none p, q] s t) := by
  have hshow := freeChain_shows hst hchain hbad
  have heq := presentClear_private hptr hst hown
  rw [← heq] at hshow
  have hfab : (presentClear s none owner p .clean).fab = s.fab := hshow.2.2.2.1 .fabric (by simp)
  exact ⟨_, ownerClear_eq (by rw [hfab, hsrc]), hshow⟩

/-- One owner of several leaves a cluster store's buffer to the others (R266). -/
theorem sharedClear_shows {s : State} {n owner p b : Nat} (hsrc : s.fab.atSource = [])
    (hptr : ptrError s (some n) p = none) (hst : bufState s (some n) p = bsShared) (hbit : maskBit owner = some b)
    (hown : (ownersOf s (some n) p).contains owner = true)
    (hset : (recMask s (some n) (rdf s (statusAddr (some n) p) 45 32)).testBit b = true)
    (hmore : recMask s (some n) (rdf s (statusAddr (some n) p) 45 32) ≠ 2 ^ b) :
    ∃ t, exec (.ownerClear (some n) owner p .clean) s = .next t
      ∧ recMask t (some n) (rdf s (statusAddr (some n) p) 45 32)
        = recMask s (some n) (rdf s (statusAddr (some n) p) 45 32) - 2 ^ b
      ∧ t.regs = s.regs ∧ changesOnly [.granary] [] s t := by
  let r := rdf s (statusAddr (some n) p) 45 32
  let u := setRec s (some n) r (recMask s (some n) r - 2 ^ b) p
  have hleft : recMask s (some n) r - 2 ^ b ≠ 0 := by
    have hge : 2 ^ b ≤ recMask s (some n) r := Nat.ge_two_pow_of_testBit hset
    have : recMask s (some n) r ≠ 2 ^ b := hmore
    omega
  have heq : presentClear s (some n) owner p .clean = u := by
    simp only [presentClear, hptr, hst, bsShared, hown, if_true, noteUnit, clearOwner, hbit, hset, Bool.not_true,
      Bool.false_eq_true, if_false]
    exact if_neg hleft
  refine ⟨u, ?_, tget_tset_same 0 s.grn.csMasks (1024 * n + r) _, rfl, (changesOnly.refl _ _ s).upd (t := u) 4 rfl
    (by decide)⟩
  rw [← heq]
  exact ownerClear_eq (by rw [heq]; exact hsrc)

/-- Settles O16: a clear that fails is reported, a sole owner's frees and another's leaves the rest. -/
theorem ownerClears : Obligations.OwnerClears :=
  ⟨fun _ _ _ _ ecc _ hsrc h => badClear_shows ecc hsrc h,
    fun _ _ _ hsrc hptr hst hown hchain hbad => privateClear_shows hsrc hptr hst hown hchain hbad,
    fun _ _ _ _ _ hsrc hptr hst hbit hown hset hmore => sharedClear_shows hsrc hptr hst hbit hown hset hmore⟩

end Sys2Proof.Machine
end

section
/-! PROOFS. The Gleaner's passes, rebuilds and registers (R271 to R274, R278 to R280). -/

namespace Sys2Proof.Machine

open Sys2Proof

/-! ## What the work of a pass keeps -/

/-- The pass's own register and the baseline mark are the same. -/
structure GleanKeeps (s t : State) : Prop where
  baseline : t.grn.baselineNext = s.grn.baselineNext
  stat : rd t aGleanStat = rd s aGleanStat

theorem GleanKeeps.refl (s : State) : GleanKeeps s s := ⟨rfl, rfl⟩

theorem GleanKeeps.trans {r s t : State} (h : GleanKeeps r s) (g : GleanKeeps s t) : GleanKeeps r t :=
  ⟨g.baseline.trans h.baseline, g.stat.trans h.stat⟩

theorem GleanKeeps.wr {r s : State} {a : Nat} {w : Word} (h : GleanKeeps r s) (ha : a ≠ aGleanStat) :
    GleanKeeps r (Machine.wr s a w) :=
  ⟨h.baseline, (rd_wr_other ha.symm).trans h.stat⟩

theorem GleanKeeps.grn {r s : State} {g : Granary} (h : GleanKeeps r s)
    (hg : g.baselineNext = s.grn.baselineNext) : GleanKeeps r { s with grn := g } :=
  ⟨hg.trans h.baseline, h.stat⟩

theorem GleanKeeps.flag {r s : State} {k : Nat} {x : GleanFlag} (h : GleanKeeps r s) :
    GleanKeeps r (setGleanFlag s k x) := h.grn rfl

/-- A report changes no granary state and only its own registers. -/
theorem GleanKeeps.report {r s : State} {code mgr p owner plot furrow group number : Nat} (h : GleanKeeps r s) :
    GleanKeeps r (grnReport s code mgr p owner plot furrow group number) := by
  have hk : Keeps 135266304 s (grnReport s code mgr p owner plot furrow group number) := grnReport_keeps rfl (.refl _ s)
  have hf : touchesOnly [] 0xA300_0000 [aGrnErr 0, aGrnErr 1] s (grnReport s code mgr p owner plot furrow group number) :=
    (touchesOnly.refl _ _ _ s).grnReport (by simp) (by simp)
  exact ⟨(congrArg Granary.baselineNext (hk.grn rfl)).trans h.baseline,
    (hf.2.2 _ (by decide) (by decide)).trans h.stat⟩

theorem statusAddr_ne_gleanStat (st : Store) (p : Nat) : statusAddr st p ≠ aGleanStat := by
  cases st with
  | none =>
    simp only [statusAddr, aBufStatus, aGleanStat]
    omega
  | some n =>
    simp only [statusAddr, aCsStatus, aCluster, aGleanStat]
    omega

theorem setRec_gleanKeeps (s : State) (st : Store) (r mask p : Nat) : GleanKeeps s (setRec s st r mask p) := by
  cases st with
  | none =>
    have h0 : aGleanStat < aOwnerRec r 0 := by
      unfold aGleanStat aOwnerRec
      omega
    have h12 : aGleanStat ≠ aOwnerRec r 12 := by
      unfold aGleanStat aOwnerRec
      omega
    have hgrn : (setRec s none r mask p).grn = s.grn := by
      have hw : ∀ (ws : Entry) (u : State) (a : Nat), (wrEntry u a ws).grn = u.grn := by
        intro ws
        induction ws with
        | nil => exact fun _ _ => rfl
        | cons w ws ih => exact fun u a => (ih (Machine.wr u a w) (a + 8)).trans rfl
      rw [setRec, wr_grn, hw]
    exact ⟨congrArg Granary.baselineNext hgrn, (rd_wr_other h12).trans (rd_wrEntry_other _ s (.inl h0))⟩
  | some n => exact ⟨rfl, rfl⟩

theorem releaseQuota_gleanKeeps (s : State) (plot f units : Nat) : GleanKeeps s (releaseQuota s plot f units) := by
  unfold releaseQuota
  split
  · exact (GleanKeeps.refl s).wr (by unfold aQuota aGleanStat; omega)
  · exact .refl s

theorem freeOne_gleanKeeps (s : State) (st : Store) (p : Nat) : GleanKeeps s (freeOne s st p) := by
  unfold freeOne
  extract_lets -underBinder -merge -useContext +onlyGivenNames a u v g w
  have hu : GleanKeeps s u := by
    unfold u
    split
    · exact setRec_gleanKeeps ..
    · exact .refl s
  have hv : GleanKeeps s v := by
    unfold v
    cases st with
    | none => exact hu.trans (releaseQuota_gleanKeeps ..)
    | some n => exact hu
  have hw : GleanKeeps s w := hv.grn rfl
  split <;> exact hw.wr (statusAddr_ne_gleanStat st p)

theorem reclaim_gleanKeeps (s : State) (st : Store) (p : Nat) : GleanKeeps s (reclaim s st p) := by
  unfold reclaim
  extract_lets -underBinder -merge -useContext +onlyGivenNames c u v g w
  have hv : GleanKeeps s v := (GleanKeeps.refl s).report.trans (freeOne_gleanKeeps u st p)
  have hw : GleanKeeps s w := hv.grn rfl
  split
  · exact hw
  · exact (hw.wr (statusAddr_ne_gleanStat st p)).flag

theorem gleanBuf_gleanKeeps (baseline : Bool) (s : State) (x : Store × Nat) : GleanKeeps s (gleanBuf baseline s x) := by
  unfold gleanBuf
  extract_lets -underBinder -merge -useContext +onlyGivenNames st p k age g u c
  have hu : GleanKeeps s u := by
    unfold u
    split
    · exact (GleanKeeps.refl s).flag
    · exact .refl s
  split
  · exact hu
  split
  · split
    · exact hu
    · exact hu.report.flag
  · split
    · exact hu
    · exact hu.trans (reclaim_gleanKeeps u st p)

theorem gleanList_gleanKeeps (s : State) (x : Nat × Nat) : GleanKeeps s (gleanList s x) :=
  ((GleanKeeps.refl s).report (code := 0x47) (mgr := x.1) (p := x.2) (owner := 0xFFFF) (plot := 0xFFF)
    (furrow := 0)).grn rfl

theorem returnReclaimed_gleanKeeps (s : State) (ks : List Nat) : GleanKeeps s (returnReclaimed s ks) :=
  forAll_rel GleanKeeps.refl GleanKeeps.trans (fun u k _ => by
    have ha : keyStatus k ≠ aGleanStat := by
      unfold keyStatus
      split
      · exact statusAddr_ne_gleanStat _ _
      · exact statusAddr_ne_gleanStat _ _
    exact ((GleanKeeps.refl u).wr ha).flag) s

/-! ## A baseline pass reclaims nothing -/

theorem touchesOnly.setGleanFlag {ps : List Part} {b : Nat} {as : List Nat} {r s : State} {k : Nat} {x : GleanFlag}
    (h : touchesOnly ps b as r s) (hp : Part.granary ∈ ps := by simp) :
    touchesOnly ps b as r (Machine.setGleanFlag s k x) :=
  h.upd 4 rfl (partMask_mem hp)

theorem gleanBuf_baseline (s : State) (x : Store × Nat) :
    touchesOnly [.granary] 0xA300_0000 [aGrnErr 0, aGrnErr 1] s (gleanBuf true s x) := by
  unfold gleanBuf
  extract_lets -underBinder -merge -useContext +onlyGivenNames st p k age g u c
  have hu : touchesOnly [.granary] 0xA300_0000 [aGrnErr 0, aGrnErr 1] s u := by
    unfold u
    split
    · exact (touchesOnly.refl _ _ _ s).setGleanFlag
    · exact .refl _ _ _ s
  split
  · exact hu
  split
  · split
    · exact hu
    · exact (hu.grnReport (by simp) (by simp)).setGleanFlag
  · rw [if_pos rfl]
    exact hu

theorem gleanList_frame (s : State) (x : Nat × Nat) :
    touchesOnly [.granary] 0xA300_0000 [aGrnErr 0, aGrnErr 1] s (gleanList s x) :=
  ((touchesOnly.refl _ _ _ s).grnReport (by simp) (by simp)).upd (t := gleanList s x) 4 rfl (by decide)

/-! ## GLEANER_PASS -/

/-- The state of a pass after its lists and buffers, before its own register is written. -/
def gleanWork (s : State) (badLists : List (Nat × Nat)) : State :=
  let u := forAll gleanList (wrf { s with grn := { s.grn with baselineNext := false } } aGleanStat 63 63
    (b2n s.grn.baselineNext)) badLists
  returnReclaimed (forAll (gleanBuf s.grn.baselineNext) u (heldBufs u))
    ((s.grn.flags.filter fun kv => kv.2.any GleanFlag.reclaimed).map Prod.fst)

/-- The state that a pass leaves before frames at their sources are taken up. -/
def gleanDone (s : State) (badLists : List (Nat × Nat)) (micros : Nat) : State :=
  wrf (bump (gleanWork s badLists) aGleanStat 61 32 1) aGleanStat 31 0 micros

theorem gleanDone_keeps (s : State) (badLists : List (Nat × Nat)) (micros : Nat) :
    Keeps 135266308 s (gleanDone s badLists micros) := by
  have h1 : Keeps 135266308 s { s with grn := { s.grn with baselineNext := false } } :=
    Keeps.upd 4 (.refl _ s) rfl rfl
  have h2 : Keeps 135266308 s (wrf { s with grn := { s.grn with baselineNext := false } } aGleanStat 63 63
      (b2n s.grn.baselineNext)) := Keeps.wrf (k := 4) h1 rfl
  have h3 : Keeps 135266308 s (gleanWork s badLists) :=
    returnReclaimed_keeps rfl (forAll_keeps (fun _ _ h => gleanBuf_keeps rfl h)
      (forAll_keeps (fun _ _ h => gleanList_keeps rfl h) h2))
  exact Keeps.wrf (k := 4) (Keeps.bump (k := 4) h3 rfl) rfl

theorem gleanerPass_eq {s : State} (badLists : List (Nat × Nat)) (micros : Nat) (hon : rdb s aGleanCfg 63 = true)
    (hsrc : s.fab.atSource = []) : exec (.gleanerPass badLists micros) s = .next (gleanDone s badLists micros) := by
  have hfab : (gleanDone s badLists micros).fab = s.fab := (gleanDone_keeps s badLists micros).fab rfl
  have hx : exec (.gleanerPass badLists micros) s
      = .next (drainSource (gleanDone s badLists micros).fab.atSource.length (gleanDone s badLists micros)) :=
    if_neg (by simp [hon])
  rw [hx, hfab, hsrc]
  rfl

theorem gleanWork_gleanKeeps (s : State) (badLists : List (Nat × Nat)) :
    GleanKeeps (wrf { s with grn := { s.grn with baselineNext := false } } aGleanStat 63 63 (b2n s.grn.baselineNext))
      (gleanWork s badLists) :=
  ((forAll_rel GleanKeeps.refl GleanKeeps.trans (fun u x _ => gleanList_gleanKeeps u x) _).trans
    (forAll_rel GleanKeeps.refl GleanKeeps.trans (fun u x _ => gleanBuf_gleanKeeps _ u x) _)).trans
    (returnReclaimed_gleanKeeps _ _)

/-- What a pass writes to its own register. -/
theorem gleanDone_shows (s : State) (badLists : List (Nat × Nat)) (micros : Nat) :
    let t := gleanDone s badLists micros
    t.grn.baselineNext = false ∧ rdf t aGleanStat 63 63 = b2n s.grn.baselineNext
      ∧ rdf t aGleanStat 61 32 = Nat.min (2 ^ 30 - 1) (rdf s aGleanStat 61 32 + 1)
      ∧ rdf t aGleanStat 31 0 = micros % 2 ^ 32 := by
  obtain ⟨hbase, hstat⟩ := gleanWork_gleanKeeps s badLists
  refine ⟨hbase, ?_, ?_, rdf_wrf_same _ _ _ (by decide)⟩
  · refine (rdf_wrf_field _ _ _ (by decide)).trans ((rdf_bump_field _ _ (by decide)).trans ((rdf_congr hstat).trans ?_))
    refine rdf_wrf_fits _ _ (by decide) ?_
    cases s.grn.baselineNext <;> decide
  · refine (rdf_wrf_field _ _ _ (by decide)).trans ((rdf_bump_same _ _ _ (by decide)).trans ?_)
    rw [rdf_congr hstat, rdf_wrf_field _ _ _ (by decide)]
    rfl

theorem gleanDone_baseline {s : State} (badLists : List (Nat × Nat)) (micros : Nat) (hb : s.grn.baselineNext = true)
    (hnone : ∀ kv ∈ s.grn.flags, kv.2.any GleanFlag.reclaimed = false) :
    touchesOnly [.fabric, .granary, .yield] 0xA300_0000 [aGleanStat, aGrnErr 0, aGrnErr 1] s
      (gleanDone s badLists micros) := by
  have hold : (s.grn.flags.filter fun kv => kv.2.any GleanFlag.reclaimed) = [] :=
    List.filter_eq_nil_iff.mpr fun kv hkv => by rw [hnone kv hkv]; decide
  let u := forAll gleanList (wrf { s with grn := { s.grn with baselineNext := false } } aGleanStat 63 63
    (b2n s.grn.baselineNext)) badLists
  have hwork : gleanWork s badLists = forAll (gleanBuf true) u (heldBufs u) := by
    rw [gleanWork, hold, hb]
    simp only [u, hb]
    rfl
  have h1 : touchesOnly [.granary] 0xA300_0000 [aGleanStat, aGrnErr 0, aGrnErr 1] s
      { s with grn := { s.grn with baselineNext := false } } :=
    (touchesOnly.refl _ _ _ s).upd (t := { s with grn := { s.grn with baselineNext := false } }) 4 rfl (by decide)
  have h2 : touchesOnly [.granary] 0xA300_0000 [aGleanStat, aGrnErr 0, aGrnErr 1] s u :=
    (h1.wrf (.inl (by simp))).trans (touchesOnly_forAll (fun v x _ =>
      (gleanList_frame v x).mono (by simp) le_rfl (by simp)) _)
  have h3 : touchesOnly [.granary] 0xA300_0000 [aGleanStat, aGrnErr 0, aGrnErr 1] s (gleanWork s badLists) := by
    rw [hwork]
    exact h2.trans (touchesOnly_forAll (fun v x _ => (gleanBuf_baseline v x).mono (by simp) le_rfl (by simp)) _)
  exact ((h3.bump (.inl (by simp))).wrf (.inl (by simp))).mono (by simp) le_rfl (by simp)

theorem gleanerPass_shows {s : State} (badLists : List (Nat × Nat)) (micros : Nat) (hon : rdb s aGleanCfg 63 = true)
    (hsrc : s.fab.atSource = []) : ∃ t, exec (.gleanerPass badLists micros) s = .next t ∧ t.grn.baselineNext = false
      ∧ rdf t aGleanStat 63 63 = b2n s.grn.baselineNext
      ∧ rdf t aGleanStat 61 32 = Nat.min (2 ^ 30 - 1) (rdf s aGleanStat 61 32 + 1)
      ∧ rdf t aGleanStat 31 0 = micros % 2 ^ 32
      ∧ touchesOnly [.fabric, .granary, .yield] 0x3000_0000 [] s t
      ∧ (s.grn.baselineNext = true → (∀ kv ∈ s.grn.flags, kv.2.any GleanFlag.reclaimed = false) →
        touchesOnly [.fabric, .granary, .yield] 0xA300_0000 [aGleanStat, aGrnErr 0, aGrnErr 1] s t) := by
  obtain ⟨hbase, h63, h61, h31⟩ := gleanDone_shows s badLists micros
  exact ⟨_, gleanerPass_eq badLists micros hon hsrc, hbase, h63, h61, h31,
    (gleanDone_keeps s badLists micros).touchesOnly 4 (by decide) (by decide) [],
    fun hb hnone => gleanDone_baseline badLists micros hb hnone⟩

/-! ## The end of a rebuild, and the registers -/

theorem listRebuildEnd_shows (s : State) (m c : Nat) :
    ∃ u, u.grn = { s.grn with rebuilding := s.grn.rebuilding.filter (· != 8 * m + c) }
      ∧ changesOnly [.granary] [] s u
      ∧ exec (.listRebuildEnd m c) s = .next (drainSource u.fab.atSource.length u) :=
  ⟨{ s with grn := { s.grn with rebuilding := s.grn.rebuilding.filter (· != 8 * m + c) } }, rfl,
    (changesOnly.refl _ _ s).upd (t := { s with grn := { s.grn with
      rebuilding := s.grn.rebuilding.filter (· != 8 * m + c) } }) 4 rfl (by decide), rfl⟩

theorem gleanCfgWrite_shows {s : State} (path : Nat) {v : Word} (h : manageable s) (h1 : 10 ≤ bitsOf v 62 47)
    (h2 : bitsOf v 62 47 ≤ 60000) (h3 : 1 ≤ bitsOf v 43 24) (h4 : bitsOf v 43 24 ≤ 1000000)
    (h5 : 1 ≤ bitsOf v 19 0) (h6 : bitsOf v 19 0 ≤ 1000000) :
    ∃ t, exec (.gleanCfgWrite path v) s = .next t ∧ t.grn = { s.grn with baselineNext := true }
      ∧ rdf t aGleanCfg 63 47 = bitsOf v 63 47 ∧ rdf t aGleanCfg 43 24 = bitsOf v 43 24
      ∧ rdf t aGleanCfg 19 0 = bitsOf v 19 0
      ∧ touchesOnly [.granary, .recorder] 0xA000_0000 [aGleanCfg] s t := by
  let u := regWrite s path aGleanCfg gleanFields v
  let t : State := { u with grn := { u.grn with baselineNext := true } }
  have hgrn : u.grn = s.grn := (regWrite_keeps (k := 4) (m := 135270400) rfl rfl (.refl _ s)).grn rfl
  have hword : ∀ hi lo, rdf (captureWrite t aGleanCfg v) aGleanCfg hi lo
      = bitsOf (mergedWord (!s.mg.rw1.contains aGleanCfg) gleanFields (rd s aGleanCfg) v) hi lo := fun hi lo => by
    rw [rdf_congr (rd_captureWrite (by decide))]
    exact congrArg (bitsOf · hi lo) (rd_regWrite_same ..)
  have hfields : ∀ hi lo, (hi, lo) ∈ [(63, 63), (62, 47), (43, 24), (19, 0)] →
      bitsOf (mergedWord (!s.mg.rw1.contains aGleanCfg) gleanFields (rd s aGleanCfg) v) hi lo = bitsOf v hi lo := by
    intro hi lo hm
    simp only [List.mem_cons, Prod.mk.injEq, List.not_mem_nil, or_false] at hm
    rcases hm with ⟨rfl, rfl⟩ | ⟨rfl, rfl⟩ | ⟨rfl, rfl⟩ | ⟨rfl, rfl⟩ <;>
      simp [mergedWord, gleanFields, putField, rw, rwIf, rsv, h1, h2, h3, h4, h5, h6, bitsOf_putBits_copy,
        bitsOf_putBits_other]
  have hu : touchesOnly [.granary, .recorder] 0xA000_0000 [aGleanCfg] s u :=
    (touchesOnly.refl _ _ _ s).regWrite rfl (.inl (by simp))
  have ht : touchesOnly [.granary, .recorder] 0xA000_0000 [aGleanCfg] s t := hu.upd (t := t) 4 rfl (by decide)
  have hop : gleanCfgWrite s path v = ⟨t, .ok⟩ := rfl
  refine ⟨captureWrite t aGleanCfg v, congrArg Host.Outcome.next ((mgApply_ok h (by rw [hop])).trans (by rw [hop])), ?_,
    ?_, ?_, ?_, captureWrite_touches ht (by simp) le_rfl⟩
  · exact ((captureWrite_frame t aGleanCfg v).2.1 .granary (by simp)).trans
      (congrArg (fun g : Granary => { g with baselineNext := true }) hgrn)
  · rw [hword]
    exact bitsOf_split (mid := 62) (by decide) (by decide) (hfields 63 63 (by simp)) (hfields 62 47 (by simp))
  · exact (hword ..).trans (hfields 43 24 (by simp))
  · exact (hword ..).trans (hfields 19 0 (by simp))

theorem grnErrRead_shows {s : State} (path : Nat) (h : manageable s) :
    ∃ t, exec (.grnErrRead path) s = .next t ∧ rdf t (aGrnErr 0) 63 62 = 0 ∧ changesOnly [] [(aGrnErr 0, 63, 62)] s t :=
  ⟨_, congrArg Host.Outcome.next (if_neg (by simp [h.1, h.2])), rdf_wrf_fits _ _ (by decide) (by decide),
    (changesOnly.refl _ _ s).wrf⟩

/-- Settles O17: a pass by its parts; a baseline pass logs and reclaims nothing. -/
theorem gleaner : Obligations.Gleaner :=
  ⟨fun _ _ _ hoff => if_pos (by simp [hoff]),
    fun _ badLists micros hon hsrc => gleanerPass_shows badLists micros hon hsrc,
    fun s m c => listRebuildEnd_shows s m c,
    fun _ path _ h h1 h2 h3 h4 h5 h6 => gleanCfgWrite_shows path h h1 h2 h3 h4 h5 h6,
    fun _ path h => grnErrRead_shows path h⟩

end Sys2Proof.Machine
end

section
/-! PROOFS. Advance sowing (R231 to R236). -/

namespace Sys2Proof.Machine

open Sys2Proof

/-! ## ADVANCE_FETCH -/

/-- A piece added to an entry's copy. -/
theorem addPiece_shows (s : State) (n plot e v i b done : Nat) :
    ∃ c, c ∈ (addPiece s n plot e v i (some b) done).adv ∧ isCopy n e v c = true ∧ c.fetched = done
      ∧ tget 0 c.bufs i = b := by
  let old := s.adv.find? (isCopy n e v)
  let c : AdvCopy := old.getD ⟨n, plot, e, v, [], 0⟩
  have hc : isCopy n e v c = true := by
    unfold c
    cases ho : old with
    | none => simp [isCopy]
    | some d => exact List.find?_some ho
  exact ⟨{ c with fetched := done, bufs := tins c.bufs i b }, List.mem_append_right _ (List.mem_singleton.mpr rfl), hc,
    rfl, (tget_tins 0 c.bufs i i b).trans (if_pos rfl)⟩

theorem advHeld_congr {s t : State} (h : t.adv = s.adv) (n p : Nat) : advHeld t n p = advHeld s n p := by
  rw [advHeld, h, advHeld]

theorem touchesOnly.claim {ps : List Part} {b : Nat} {as : List Nat} {r s : State} {st : Store} {p owner plot f : Nat}
    (h : touchesOnly ps b as r s) (ha : statusAddr st p ∈ as ∨ b ≤ statusAddr st p) :
    touchesOnly ps b as r (Machine.claim s st p owner plot f) :=
  (h.wr ha).upd (t := Machine.claim s st p owner plot f) 0 rfl (Nat.zero_or _)

theorem advanceFetch_shows {s : State} {n plot e b : Nat} (hmay : advMay s n plot = true)
    (hnext : advNext s n plot = some e) (hfree : csFreeAtLeast s n 2 1 = some b) :
    ∃ t c, exec (.advanceFetch n plot .clean) s = .next t ∧ c ∈ t.adv
      ∧ isCopy n e (fbAt s n e).version c = true ∧ c.fetched = advFetched s n e + 1
      ∧ tget 0 c.bufs (advFetched s n e) = b ∧ rdf t (aAdv n plot) 46 35 = advHeld t n plot % 2 ^ 12
      ∧ touchesOnly [.granary, .advance] 0xA300_0000 [statusAddr (some n) b, aAdv n plot] s t := by
  let x := fbAt s n e
  let i := advFetched s n e
  let m := pieceBytes (slotBytes x) i
  let u := if 1 < csClass b then count s 6 (8 + n) 0 1 else s
  let v := fillBufs (claim u (some n) b (ownHub n) plot 0) (some n) advPiece [b]
    (hbmRead u n (slotBase x x.version + i * advPiece) m)
  let w := addPiece v n plot e x.version i (some b) (i + 1)
  let y := count w 5 n 26 m
  obtain ⟨c, hmem, hcopy, hdone, hbuf⟩ := addPiece_shows v n plot e x.version i b (i + 1)
  have hx : exec (.advanceFetch n plot .clean) s = .next (showHeld y n plot) := by
    rw [exec_advanceFetch, execAdvanceFetch, if_neg (by simp [hmay])]
    simp only [hnext, hfree, reduceCtorEq, if_false]
    rfl
  have hadv : y.adv = w.adv := (count_keeps (m := 134217728) rfl (.refl _ w)).adv rfl
  have hu : touchesOnly [.granary, .advance] 0xA300_0000 [statusAddr (some n) b, aAdv n plot] s u := by
    unfold u
    split
    · exact (touchesOnly.refl _ _ _ s).count (by decide)
    · exact .refl _ _ _ s
  have hv : touchesOnly [.granary, .advance] 0xA300_0000 [statusAddr (some n) b, aAdv n plot] s v :=
    touchesOnly.keeps (m := 4) (k := 11) (hu.claim (.inl (by simp))) (fillBufs_keeps rfl (.refl _ _)) (by decide)
      (by decide)
  have hw : touchesOnly [.granary, .advance] 0xA300_0000 [statusAddr (some n) b, aAdv n plot] s w :=
    hv.upd (t := w) 128 rfl (by decide)
  refine ⟨_, c, hx, ?_, hcopy, hdone, hbuf, rdf_wrf_same _ _ _ (by decide), (hw.count (by decide)).wrf (.inl (by simp))⟩
  show c ∈ y.adv
  rw [hadv]
  exact hmem

theorem advanceFetch_full {s : State} {n plot e : Nat} (hmay : advMay s n plot = true)
    (hnext : advNext s n plot = some e) (hfree : csFreeAtLeast s n 2 1 = none) :
    exec (.advanceFetch n plot .clean) s = .next (count s 6 (8 + n) 1 1) := by
  rw [exec_advanceFetch, execAdvanceFetch, if_neg (by simp [hmay])]
  simp only [hnext, hfree, reduceCtorEq, if_false]

theorem advanceFetch_idle {s : State} {n plot : Nat} (ecc : Ecc)
    (h : advMay s n plot = false ∨ advNext s n plot = none) : exec (.advanceFetch n plot ecc) s = .next s := by
  rw [exec_advanceFetch, execAdvanceFetch]
  rcases h with h | h
  · exact if_pos (by simp [h])
  · split
    · rfl
    · simp only [h]

/-! ## BND_ADV_PLOT -/

/-- The settings that BND_ADV_PLOT shows are the same. -/
structure AdvSettings (n plot : Nat) (s t : State) : Prop where
  en : rdb t (aAdv n plot) 63 = rdb s (aAdv n plot) 63
  depth : rdf t (aAdv n plot) 62 59 = rdf s (aAdv n plot) 62 59

theorem AdvSettings.refl (n plot : Nat) (s : State) : AdvSettings n plot s s := ⟨rfl, rfl⟩

theorem AdvSettings.trans {n plot : Nat} {r s t : State} (h : AdvSettings n plot r s) (g : AdvSettings n plot s t) :
    AdvSettings n plot r t := ⟨g.en.trans h.en, g.depth.trans h.depth⟩

theorem AdvSettings.of_rd {n plot : Nat} {s t : State} (h : rd t (aAdv n plot) = rd s (aAdv n plot)) :
    AdvSettings n plot s t := ⟨rdb_congr h, rdf_congr h⟩

theorem aAdv_lt {n plot : Nat} (hn : n < 12) (hp : plot < 4096) : aAdv n plot < 0xA000_0000 := by
  unfold aAdv aCluster
  omega

theorem aAdv_ne_status (n plot p : Nat) (h : plot < 4096) : aAdv n plot ≠ statusAddr (some n) p := by
  simp only [aAdv, statusAddr, aCsStatus, aCluster]
  omega

/-- Freeing a cluster store's buffers writes their status words alone. -/
theorem rd_freeBufs_store {s : State} {n : Nat} {ps : List Nat} {a : Nat} (ha : ∀ p, a ≠ statusAddr (some n) p) :
    rd (freeBufs s (some n) ps) a = rd s a := by
  have hone : ∀ (u : State) (p : Nat), rd (freeOne u (some n) p) a = rd u a := by
    intro u p
    unfold freeOne
    extract_lets -underBinder -merge -useContext +onlyGivenNames x v w g y
    have hv : rd v a = rd u a := by
      unfold v
      split <;> rfl
    have hy : rd y a = rd v a := rfl
    split
    · exact (rd_wr_other (ha p)).trans (hy.trans hv)
    · exact (rd_wr_other (ha p)).trans (hy.trans hv)
  exact forAll_rel (R := fun s t => rd t a = rd s a) (fun _ => rfl) (fun h g => g.trans h)
    (fun u p _ => hone u p) _

/-- Discarded copies leave the settings. -/
theorem advDiscard_settings {s : State} {n plot : Nat} {sel : AdvCopy → Bool} (hn : n < 12)
    (hp : plot < 4096)
    (hsel : ∀ c, sel c = true → c.cluster = n) : AdvSettings n plot s (advDiscard s sel) := by
  unfold advDiscard
  extract_lets -underBinder -merge -useContext +onlyGivenNames gone u
  have hu : AdvSettings n plot s u := .of_rd rfl
  refine hu.trans (forAll_rel (AdvSettings.refl n plot) AdvSettings.trans (fun v c hc => ?_) u)
  have hcn : c.cluster = n := hsel c (List.mem_filter.mp hc).2
  extract_lets -underBinder -merge -useContext +onlyGivenNames x bytes w
  have hw : rd (count w 5 c.cluster 28 bytes) (aAdv n plot) = rd v (aAdv n plot) := by
    refine (rd_count_low (by have := aAdv_lt hn hp; omega)).trans ?_
    unfold w
    rw [hcn]
    exact rd_freeBufs_store fun p => aAdv_ne_status n plot p hp
  refine (AdvSettings.of_rd hw).trans ?_
  unfold showHeld
  rw [hcn]
  by_cases hpl : c.plot = plot
  · rw [hpl]
    exact ⟨by rw [rdb_wrf_field _ _ _ (by decide)], rdf_wrf_field _ _ _ (by decide)⟩
  · exact .of_rd (rd_wrf_other (by unfold aAdv aCluster; omega))

theorem trimCopies_settings {s : State} {n plot : Nat} (hn : n < 12) (hp : plot < 4096) :
    AdvSettings n plot s (trimCopies s n plot) :=
  forAll_rel (AdvSettings.refl n plot) AdvSettings.trans (fun u d _ => by
    split
    · refine advDiscard_settings hn hp fun c hc => ?_
      simp only [isCopy, Bool.and_eq_true, beq_iff_eq] at hc
      exact hc.1.1
    · exact .refl n plot u) s

/-- Discarding copies discards those and no other. -/
theorem advDiscard_adv (s : State) (sel : AdvCopy → Bool) : (advDiscard s sel).adv = s.adv.filter fun c => !sel c := by
  unfold advDiscard
  extract_lets -underBinder -merge -useContext +onlyGivenNames gone u
  have hk : Keeps 139460612 u (forAll (fun s c =>
      let x := fbAt s c.cluster c.entry
      let bytes := (c.bufs.map fun b => pieceBytes (slotBytes x) b.1).sum
      let s := freeBufs s (some c.cluster) (c.bufs.map Prod.snd)
      showHeld (count s 5 c.cluster 28 bytes) c.cluster c.plot) u gone) :=
    forAll_keeps (fun _ _ h => showHeld_keeps rfl (count_keeps rfl (freeBufs_keeps rfl h))) (.refl _ u)
  exact hk.adv rfl

theorem clusterUp_lt {s : State} {n : Nat} (h : clusterUp s n = true) : n < 12 := by
  simp only [clusterUp, Bool.and_eq_true, decide_eq_true_eq] at h
  exact h.1

/-- A field that is not cleared by ones leaves the bits apart from its own. -/
theorem bitsOf_putField_other {first : Bool} {old v acc : Word} {f : RField} {hi lo : Nat} (hty : f.ty ≠ .w1c)
    (h : hi < f.lo ∨ f.hi < lo) : bitsOf (putField first old v acc f) hi lo = bitsOf acc hi lo := by
  unfold putField
  cases hf : f.ty with
  | ro | rsv => rfl
  | rw | wo | rw1 =>
    dsimp only
    split
    · exact bitsOf_putBits_other acc _ h
    · rfl
  | w1c => exact absurd hf hty

/-- Fields of one bit are that bit. -/
theorem bitOf_of_bitsOf {v w : Word} {k : Nat} (h : bitsOf w k k = bitsOf v k k) : bitOf w k = bitOf v k := by
  have hbit : ∀ x : Word, bitOf x k = (bitsOf x k k).testBit 0 := fun x => by
    rw [testBit_bitsOf, show decide (0 < k + 1 - k) = true by simp]
    rfl
  rw [hbit w, hbit v, h]

/-- The word that a write to BND_ADV_PLOT leaves. -/
theorem mergedWord_adv (first : Bool) (s : State) (n plot : Nat) (old v : Word) :
    let w := mergedWord first (advFields s n plot) old v
    bitOf w 63 = bitOf v 63 ∧ (1 ≤ bitsOf v 62 59 → bitsOf w 62 59 = bitsOf v 62 59) := by
  have hlow : ∀ hi lo, 59 ≤ lo → ∃ acc, bitsOf (mergedWord first (advFields s n plot) old v) hi lo = bitsOf acc hi lo
      ∧ acc = putField first old v (putField first old v old (rw 63 63)) (rwIf 62 59 (1 ≤ ·)) := by
    intro hi lo h
    refine ⟨_, ?_, rfl⟩
    simp only [mergedWord, advFields, List.foldl_cons, List.foldl_nil]
    rw [bitsOf_putField_other (by simp [ro]) (.inr (by simp only [ro]; omega)),
      bitsOf_putField_other (by simp [ro]) (.inr (by simp only [ro]; omega)),
      bitsOf_putField_other (by simp [rsv]) (.inr (by simp only [rsv]; omega)),
      bitsOf_putField_other (by simp [ro]) (.inr (by simp only [ro]; omega)),
      bitsOf_putField_other (by simp [rwIf]) (.inr (by simp only [rwIf]; omega))]
  constructor
  · obtain ⟨acc, hw, rfl⟩ := hlow 63 63 (by decide)
    refine bitOf_of_bitsOf (hw.trans ?_)
    rw [bitsOf_putField_other (by simp [rwIf]) (.inr (by decide))]
    simp [putField, rw, bitsOf_putBits_copy]
  · intro h
    obtain ⟨acc, hw, rfl⟩ := hlow 62 59 le_rfl
    refine hw.trans ?_
    simp [putField, rwIf, h, bitsOf_putBits_copy]

theorem rdb_eq_bitOf (s : State) (a k : Nat) : rdb s a k = bitOf (rd s a) k := rfl

theorem advFields_noRw1 (s : State) (n plot : Nat) : hasRw1 (advFields s n plot) = false := rfl

/-- The frame of a write to BND_ADV_PLOT. -/
theorem advPlotWrite_frame {s t : State} {path n plot : Nat} {v : Word}
    (hx : exec (.advPlotWrite path n plot v) s = .next t) :
    touchesOnly [.granary, .advance, .recorder, .management] 0x3000_0000 [] s t :=
  (execAdvPlotWrite_keeps (m := 173019524) rfl (.refl _ s)).frame 4 hx (by decide) (by decide) []

theorem advPlotOff_shows {s : State} {n plot : Nat} {v : Word} (path : Nat) (h : manageable s)
    (hup : clusterUp s n = true) (hp : plot < 4096) (hoff : bitOf v 63 = false) :
    ∃ t, exec (.advPlotWrite path n plot v) s = .next t
      ∧ t.adv = s.adv.filter (fun c => !(c.cluster == n && c.plot == plot))
      ∧ rdb t (aAdv n plot) 63 = false
      ∧ touchesOnly [.granary, .advance, .recorder, .management] 0x3000_0000 [] s t := by
  have hn := clusterUp_lt hup
  let u := regWrite s path (aAdv n plot) (advFields s n plot) v
  let t := advDiscard u fun c => c.cluster == n && c.plot == plot
  have hen : rdb u (aAdv n plot) 63 = false := by
    rw [rdb_eq_bitOf, rd_regWrite_same, (mergedWord_adv ..).1, hoff]
  have hop : advPlotWrite s path n plot v = ⟨t, .ok⟩ :=
    (if_neg (by simp [hup])).trans (if_pos (by rw [advEn, hen]; rfl))
  have hadv : u.adv = s.adv := by
    unfold u
    rw [regWrite_noRw1 (advFields_noRw1 s n plot)]
    exact (logWrite_keeps (m := 134217728) rfl (.refl _ s)).adv rfl
  have hset : AdvSettings n plot u t := advDiscard_settings hn hp fun c hc => by
    simp only [Bool.and_eq_true, beq_iff_eq] at hc
    exact hc.1
  have hx : exec (.advPlotWrite path n plot v) s = .next (captureWrite t (aAdv n plot) v) :=
    congrArg Host.Outcome.next ((mgApply_ok h (by rw [hop])).trans (by rw [hop]))
  refine ⟨_, hx, ?_, ?_, advPlotWrite_frame hx⟩
  · refine ((captureWrite_frame t _ v).2.1 .advance (by simp)).trans ?_
    exact (advDiscard_adv u _).trans (congrArg (List.filter _) hadv)
  · rw [rdb_congr (rd_captureWrite (aAdv_lt hn hp)), hset.en, hen]

theorem advPlotOn_shows {s : State} {n plot : Nat} {v : Word} (path : Nat) (h : manageable s)
    (hup : clusterUp s n = true) (hp : plot < 4096) (hon : bitOf v 63 = true) (hd : 1 ≤ bitsOf v 62 59) :
    ∃ t, exec (.advPlotWrite path n plot v) s = .next t
      ∧ rdb t (aAdv n plot) 63 = true ∧ rdf t (aAdv n plot) 62 59 = bitsOf v 62 59
      ∧ touchesOnly [.granary, .advance, .recorder, .management] 0x3000_0000 [] s t := by
  have hn := clusterUp_lt hup
  let u := regWrite s path (aAdv n plot) (advFields s n plot) v
  let t := trimCopies u n plot
  have hen : rdb u (aAdv n plot) 63 = true := by
    rw [rdb_eq_bitOf, rd_regWrite_same, (mergedWord_adv ..).1, hon]
  have hdepth : rdf u (aAdv n plot) 62 59 = bitsOf v 62 59 := by
    rw [rdf, rd_regWrite_same, (mergedWord_adv ..).2 hd]
  have hop : advPlotWrite s path n plot v = ⟨t, .ok⟩ :=
    (if_neg (by simp [hup])).trans (if_neg (by rw [advEn, hen]; decide))
  have hset : AdvSettings n plot u t := trimCopies_settings hn hp
  have hx : exec (.advPlotWrite path n plot v) s = .next (captureWrite t (aAdv n plot) v) :=
    congrArg Host.Outcome.next ((mgApply_ok h (by rw [hop])).trans (by rw [hop]))
  refine ⟨_, hx, ?_, ?_, advPlotWrite_frame hx⟩
  · rw [rdb_congr (rd_captureWrite (aAdv_lt hn hp)), hset.en, hen]
  · rw [rdf_congr (rd_captureWrite (aAdv_lt hn hp)), hset.depth, hdepth]

/-- Settles O18: the piece fetched enters the copy; settings are written and copies beyond them discarded. -/
theorem advanceSowing : Obligations.AdvanceSowing :=
  ⟨fun _ _ _ _ _ hmay hnext _ hfree => advanceFetch_shows hmay hnext hfree,
    fun _ _ _ _ hmay hnext hfree => advanceFetch_full hmay hnext hfree,
    fun _ _ _ ecc h => advanceFetch_idle ecc h,
    fun _ path _ _ _ h hup hp hoff => advPlotOff_shows path h hup hp hoff,
    fun _ path _ _ _ h hup hp hon hd => advPlotOn_shows path h hup hp hon hd⟩

end Sys2Proof.Machine
end

section
/-! PROOFS. Commits of staged entries: groups (R134 to R138), plots (R337, R338) and field-book entries (R166,
R167, R441). -/

namespace Sys2Proof.Machine

open Sys2Proof

/-! ## Entries in registers -/

theorem rd_wrEntry_at {a i : Nat} (ws : Entry) (s : State) (h : i < ws.length) :
    rd (wrEntry s a ws) (a + 8 * i) = wordAt ws i := by
  induction ws generalizing s a i with
  | nil => exact absurd h (Nat.not_lt_zero i)
  | cons w ws ih =>
    cases i with
    | zero => exact (rd_wrEntry_other ws _ (by omega)).trans (rd_wr_same ..)
    | succ i =>
      have := ih (a := a + 8) (wr s a w) (Nat.lt_of_succ_lt_succ h)
      rw [wrEntry, show a + 8 * (i + 1) = a + 8 + 8 * i by omega, this]
      rfl

/-- Storing an entry touches its words. -/
theorem touchesOnly.wrEntry {ps : List Part} {b a : Nat} {as : List Nat} {r s : State} {ws : Entry}
    (h : touchesOnly ps b as r s) (hm : ∀ i < ws.length, a + 8 * i ∈ as ∨ b ≤ a + 8 * i) :
    touchesOnly ps b as r (Machine.wrEntry s a ws) := by
  induction ws generalizing s a with
  | nil => exact h
  | cons w ws ih =>
    refine ih (h.wr (hm 0 (by simp))) fun i hi => ?_
    rw [show a + 8 + 8 * i = a + 8 * (i + 1) by omega]
    exact hm (i + 1) (by simpa using hi)

theorem rdEntry_length (s : State) (a n : Nat) : (rdEntry s a n).length = n := by simp [rdEntry]

theorem wordAt_rdEntry {s : State} {a n i : Nat} (h : i < n) : wordAt (rdEntry s a n) i = rd s (a + 8 * i) := by
  simp [wordAt, rdEntry, h]

theorem mergeEntry_length {fs : List (List RField)} {old staged : Entry} :
    (mergeEntry fs old staged).length = Nat.min fs.length (Nat.min old.length staged.length) := by
  simp [mergeEntry]

theorem wordAt_mergeEntry {fs : List (List RField)} {old staged : Entry} {i : Nat} (hf : i < fs.length)
    (ho : i < old.length) (hs : i < staged.length) :
    wordAt (mergeEntry fs old staged) i = mergedWord true fs[i] old[i] staged[i] := by
  have h : i < (mergeEntry fs old staged).length := by
    rw [mergeEntry_length]
    exact lt_min hf (lt_min ho hs)
  rw [wordAt, List.getD_eq_getElem _ _ h]
  simp [mergeEntry]

theorem stagedEntry_length (s : State) (path target : Nat) (v : Word) : (stagedEntry s path target v).length = 8 := by
  simp [stagedEntry]

theorem groupAt_state (s : State) (g : Nat) : (groupAt s g).state = rdf s (aGroup g 0) 63 62 :=
  congrArg (bitsOf · 63 62) (wordAt_rdEntry (by decide))

theorem groupAt_instSeq (s : State) (g : Nat) : (groupAt s g).instSeq = rdf s (aGroup g 5) 63 32 :=
  congrArg (bitsOf · 63 32) ((wordAt_rdEntry (by decide)).trans (congrArg (rd s) (by unfold aGroup; omega)))

/-! ## The commit of a window -/

/-- The state that a commit's refusal is judged in: the write is logged and the path's buffer is empty. -/
def judgedAt (s : State) (path target : Nat) (fs : List (List RField)) (v : Word) : State :=
  dropStage (logEntryWords s path target fs (rdEntry s target 8) (stagedEntry s path target v)) path

theorem judgedAt_frame (s : State) (path target : Nat) (fs : List (List RField)) (v : Word) :
    touchesOnly [.management] 0xA300_0000 [] s (judgedAt s path target fs v) :=
  (dropStage_keeps (m := 134221824) rfl (logEntryWords_keeps rfl (.refl _ s))).touchesOnly 11 (by decide) (by decide) []

theorem rd_judgedAt {s : State} {path target a : Nat} {fs : List (List RField)} {v : Word} (h : a < 0xA300_0000) :
    rd (judgedAt s path target fs v) a = rd s a := (judgedAt_frame s path target fs v).2.2 a h (by simp)

theorem stageOf_dropStage (u : State) (path : Nat) : stageOf (dropStage u path) path = Stage.empty :=
  tget_tset_same Stage.empty u.mg.stages path Stage.empty

theorem stageOf_judgedAt (s : State) (path target : Nat) (fs : List (List RField)) (v : Word) :
    stageOf (judgedAt s path target fs v) path = Stage.empty := stageOf_dropStage _ path

theorem stageOf_congr {s t : State} (h : Part.management.same s t) (path : Nat) : stageOf t path = stageOf s path :=
  congrArg (fun m : Mgmt => tget Stage.empty m.stages path) h

/-- An accepted commit stores the merged entry, reports 0 and is captured. -/
theorem commit_accepted {s : State} {path target : Nat} {fs : List (List RField)} {v : Word}
    {check : State → Entry → Nat} {accept : State → Entry → State} {report : State → Nat → State} (h : manageable s)
    (hc : check (judgedAt s path target fs v) (mergeEntry fs (rdEntry s target 8) (stagedEntry s path target v)) = 0) :
    mgApply s target v (fun s => commitEntry s path target fs v check accept report)
      = captureWrite (report (accept (judgedAt s path target fs v)
          (mergeEntry fs (rdEntry s target 8) (stagedEntry s path target v))) 0) target v := by
  have hop : commitEntry s path target fs v check accept report = ⟨report (accept (judgedAt s path target fs v)
      (mergeEntry fs (rdEntry s target 8) (stagedEntry s path target v))) 0, .ok⟩ := if_neg (not_not.mpr hc)
  exact (mgApply_ok h (by rw [hop])).trans (by rw [hop])

/-- A refused commit reports its code and stores nothing. -/
theorem commit_refused {s : State} {path target : Nat} {fs : List (List RField)} {v : Word}
    {check : State → Entry → Nat} {accept : State → Entry → State} {report : State → Nat → State} (h : manageable s)
    (hc : check (judgedAt s path target fs v) (mergeEntry fs (rdEntry s target 8) (stagedEntry s path target v)) ≠ 0) :
    mgApply s target v (fun s => commitEntry s path target fs v check accept report)
      = report (judgedAt s path target fs v) (check (judgedAt s path target fs v)
          (mergeEntry fs (rdEntry s target 8) (stagedEntry s path target v))) := by
  have hop : commitEntry s path target fs v check accept report = ⟨report (judgedAt s path target fs v)
      (check (judgedAt s path target fs v) (mergeEntry fs (rdEntry s target 8) (stagedEntry s path target v))),
      .refused (check (judgedAt s path target fs v)
        (mergeEntry fs (rdEntry s target 8) (stagedEntry s path target v)))⟩ := if_pos hc
  exact (mgApply_not_ok h (by rw [hop]; exact fun x => nomatch x)).trans (by rw [hop])

/-! ## Group commits -/

theorem aGroup_ne_stat {g w : Nat} (hg : g < 65536) (hw : w < 8) : aGroup g w ≠ aGroupStat := by
  unfold aGroup aGroupStat
  omega

theorem aGroup_lt {g w : Nat} (hg : g < 65536) (hw : w < 8) : aGroup g w < 0x7100_0000 := by
  unfold aGroup
  omega

theorem groupReport_shows (s : State) {g code : Nat} (hg : g < 65536) :
    rdf (groupReport s g code) aGroupStat 63 56 = code % 256 ∧ rdf (groupReport s g code) aGroupStat 15 0 = g := by
  rw [rdf, rdf, groupReport, rd_wr_same]
  simp only [bitsOf_or, bitsOf_bitsAt_same _ (show 63 < 64 by decide), bitsOf_bitsAt_same _ (show 15 < 64 by decide),
    bitsOf_bitsAt_other, show (15 : Nat) < 56 by decide, true_or, or_true, Nat.or_zero, Nat.zero_or]
  exact ⟨rfl, Nat.mod_eq_of_lt hg⟩

theorem rd_groupReport {s : State} {g w x code : Nat} (hg : g < 65536) (hw : w < 8) :
    rd (groupReport s x code) (aGroup g w) = rd s (aGroup g w) := rd_wr_other (aGroup_ne_stat hg hw)

/-- A history's words lie above every group's. -/
theorem rd_freshHist {s : State} {g a : Nat} (h : a < 0x7100_0000) : rd (freshHist s g) a = rd s a := by
  have hne : a ≠ aOscale g 8 := by
    unfold aOscale
    omega
  rw [freshHist, rd_wrf_other hne, rd_wrf_other hne, clearHist, rd_wrf_other hne,
    rd_wrEntry_other _ _ (.inl (by unfold aOscale; omega))]

/-- The words of an accepted group entry: as committed, a FREE one's state ACTIVE and its sequence 0. -/
theorem rd_groupAccept {s : State} {g w : Nat} {e : Entry} (he : e.length = 8) (hg : g < 65536) (hw : w < 8) :
    rd (groupAccept s g e) (aGroup g w)
      = if (groupOf e).state = gsFree then
          if w = 0 then putBits (wordAt e 0) 63 62 gsActive
          else if w = 5 then putBits (wordAt e 5) 63 32 0 else wordAt e w
        else wordAt e w := by
  have hfresh : ∀ u : State, rd (if keepsScale (groupOf e) then freshHist u g else u) (aGroup g w)
      = rd u (aGroup g w) := fun u => by
    split
    · exact rd_freshHist (aGroup_lt hg hw)
    · rfl
  have hstored : ∀ (u : State) {w : Nat}, w < 8 → rd (wrEntry u (aGroup g 0) e) (aGroup g w) = wordAt e w :=
    fun u w hw => (congrArg (rd _) (show aGroup g w = aGroup g 0 + 8 * w by unfold aGroup; omega)).trans
      (rd_wrEntry_at e u (by omega))
  have hne : ∀ {x y : Nat}, x ≠ y → aGroup g x ≠ aGroup g y := fun h hc => h (by unfold aGroup at hc; omega)
  rw [groupAccept, hfresh]
  by_cases hfree : (groupOf e).state = gsFree
  · rw [if_pos hfree, if_pos (by simpa using hfree)]
    by_cases h0 : w = 0
    · subst h0
      rw [if_pos rfl, rd_wrf_other (hne (by decide)), wrf, rd_wr_same, hstored _ (by decide)]
    · rw [if_neg h0]
      by_cases h5 : w = 5
      · subst h5
        rw [if_pos rfl, wrf, rd_wr_same, rd_wrf_other (hne (by decide)), hstored _ (by decide)]
      · rw [if_neg h5, rd_wrf_other (hne h5), rd_wrf_other (hne h0), hstored _ hw]
  · rw [if_neg hfree, if_neg (by simpa using hfree), hstored _ hw]

theorem groupAccept_frame (s : State) (g : Nat) (e : Entry) :
    touchesOnly [.granary, .binding] 0x3000_0000 [] s (groupAccept s g e) :=
  (groupAccept_keeps (m := 143654924) rfl (.refl _ s)).touchesOnly 4 (by decide) (by decide) []

/-- No ACTIVE group is committed (R138). -/
theorem groupRefusal_not_active {s : State} {g : Nat} {e : Entry} (h : groupRefusal s g e = 0) :
    (groupOf e).state ≠ gsActive := fun hc => by
  rw [groupRefusal, if_pos (by simp [hc])] at h
  exact absurd h (by decide)

theorem groupCommit_accepted {s : State} {path g : Nat} {v : Word} (h : manageable s) (hg : g < 65536) {e : Entry}
    (he : e = mergeEntry groupFields (rdEntry s (aGroup g 0) 8) (stagedEntry s path (aGroup g 0) v))
    (hc : groupRefusal (judgedAt s path (aGroup g 0) groupFields v) g e = 0) :
    ∃ t, exec (.groupCommit path g v) s = .next t
      ∧ (∀ w ∈ [1, 2, 3, 4, 6, 7], rd t (aGroup g w) = wordAt e w)
      ∧ rdf t (aGroup g 0) 61 0 = bitsOf (wordAt e 0) 61 0 ∧ (groupOf e).state ≠ gsActive
      ∧ ((groupOf e).state = gsFree → (groupAt t g).state = gsActive ∧ (groupAt t g).instSeq = 0)
      ∧ ((groupOf e).state = gsFallow → (groupAt t g).state = gsFallow)
      ∧ rdf t aGroupStat 63 56 = 0 ∧ rdf t aGroupStat 15 0 = g ∧ stageOf t path = Stage.empty
      ∧ touchesOnly [.management, .granary, .binding, .recorder] 0x3000_0000 [] s t := by
  let u := judgedAt s path (aGroup g 0) groupFields v
  let x := groupReport (groupAccept u g e) g 0
  have hlen : e.length = 8 := by
    rw [he, mergeEntry_length, rdEntry_length, stagedEntry_length]
    rfl
  have hx : exec (.groupCommit path g v) s = .next (captureWrite x (aGroup g 0) v) := by
    subst he
    exact congrArg Host.Outcome.next (commit_accepted h hc)
  have hword : ∀ {w}, w < 8 → rd (captureWrite x (aGroup g 0) v) (aGroup g w)
      = rd (groupAccept u g e) (aGroup g w) := fun hw =>
    (rd_captureWrite ((aGroup_lt hg hw).trans (by decide))).trans (rd_groupReport hg hw)
  have hfield : ∀ {w hi lo}, w < 8 → rdf (captureWrite x (aGroup g 0) v) (aGroup g w) hi lo
      = bitsOf (rd (groupAccept u g e) (aGroup g w)) hi lo := fun hw => congrArg (bitsOf · _ _) (hword hw)
  have hstat : ∀ hi lo, rdf (captureWrite x (aGroup g 0) v) aGroupStat hi lo = rdf x aGroupStat hi lo :=
    fun hi lo => rdf_congr (rd_captureWrite (by decide))
  have hframe : touchesOnly [.granary, .binding, .recorder] 0x3000_0000 [] u (captureWrite x (aGroup g 0) v) :=
    captureWrite_touches (((groupAccept_frame u g e).mono (by simp) le_rfl (by simp)).wr (.inr (by decide))) (by simp)
      (by decide)
  refine ⟨_, hx, fun w hw => ?_, ?_, groupRefusal_not_active hc, fun hf => ⟨?_, ?_⟩, fun hf => ?_, ?_, ?_, ?_, ?_⟩
  · have hw' : w < 8 ∧ w ≠ 0 ∧ w ≠ 5 := by
      simp only [List.mem_cons, List.not_mem_nil, or_false] at hw
      omega
    rw [hword hw'.1, rd_groupAccept hlen hg hw'.1, if_neg hw'.2.1, if_neg hw'.2.2, ite_self]
  · rw [hfield (by decide), rd_groupAccept hlen hg (by decide), if_pos rfl]
    split
    · exact bitsOf_putBits_other _ _ (by decide)
    · rfl
  · rw [groupAt_state, hfield (by decide), rd_groupAccept hlen hg (by decide), if_pos hf, if_pos rfl]
    exact bitsOf_putBits_same _ _ (by decide)
  · rw [groupAt_instSeq, hfield (by decide), rd_groupAccept hlen hg (by decide), if_pos hf, if_neg (by decide),
      if_pos rfl]
    exact bitsOf_putBits_same _ _ (by decide)
  · rw [groupAt_state, hfield (by decide), rd_groupAccept hlen hg (by decide), if_neg (by rw [hf]; decide)]
    exact hf
  · exact (hstat ..).trans (groupReport_shows _ hg).1
  · exact (hstat ..).trans (groupReport_shows _ hg).2
  · exact (stageOf_congr (hframe.2.1 .management (by simp)) path).trans (stageOf_judgedAt ..)
  · exact ((judgedAt_frame s path _ groupFields v).mono (by simp) (by decide) (by simp)).trans
      (hframe.mono (by simp) le_rfl (by simp))

theorem groupCommit_refused {s : State} {path g : Nat} {v : Word} (h : manageable s) (hg : g < 65536) {e : Entry}
    (he : e = mergeEntry groupFields (rdEntry s (aGroup g 0) 8) (stagedEntry s path (aGroup g 0) v))
    (hc : groupRefusal (judgedAt s path (aGroup g 0) groupFields v) g e ≠ 0) :
    ∃ t, exec (.groupCommit path g v) s = .next t
      ∧ rdf t aGroupStat 63 56 = groupRefusal (judgedAt s path (aGroup g 0) groupFields v) g e % 256
      ∧ rdf t aGroupStat 15 0 = g ∧ stageOf t path = Stage.empty
      ∧ touchesOnly [.management] 0xA300_0000 [aGroupStat] s t := by
  subst he
  refine ⟨_, congrArg Host.Outcome.next (commit_refused h hc), (groupReport_shows _ hg).1, (groupReport_shows _ hg).2,
    stageOf_judgedAt s path (aGroup g 0) groupFields v, ?_⟩
  exact ((judgedAt_frame s path (aGroup g 0) groupFields v).mono (by simp) le_rfl (by simp)).wr (.inl (by simp))

/-! ## Plot commits -/

theorem aPlot_at (p w : Nat) : aPlot p w = aPlot p 0 + 8 * w := by
  unfold aPlot
  omega

theorem aPlot_lt {p w : Nat} (hp : p < 4096) (hw : w < 8) : aPlot p w < aPlotStat := by
  unfold aPlot aPlotStat
  omega

theorem plotReport_shows (s : State) {p code : Nat} (hp : p < 4096) (hcode : code < 256) :
    rdf (plotReport s p code) aPlotStat 63 56 = code ∧ rdf (plotReport s p code) aPlotStat 11 0 = p := by
  rw [rdf, rdf, plotReport, rd_wr_same]
  simp only [bitsOf_or, bitsOf_bitsAt_same _ (show 63 < 64 by decide), bitsOf_bitsAt_same _ (show 11 < 64 by decide),
    bitsOf_bitsAt_other, show (11 : Nat) < 56 by decide, true_or, or_true, Nat.or_zero, Nat.zero_or]
  exact ⟨Nat.mod_eq_of_lt hcode, Nat.mod_eq_of_lt hp⟩

theorem rd_plotAccept {s : State} {p w : Nat} {e : Entry} (he : e.length = 8) (hw : w < 8) :
    rd (plotAccept s p e) (aPlot p w)
      = if plotState s p = psFree ∧ w = 0 then putBits (wordAt e 0) 63 62 psFallow else wordAt e w := by
  have hstored : ∀ {w : Nat}, w < 8 → rd (wrEntry s (aPlot p 0) e) (aPlot p w) = wordAt e w := fun hw =>
    (congrArg (rd _) (aPlot_at ..)).trans (rd_wrEntry_at e s (by omega))
  by_cases hfree : plotState s p = psFree
  · rw [plotAccept, if_pos (by simpa using hfree)]
    by_cases h0 : w = 0
    · subst h0
      rw [if_pos ⟨hfree, rfl⟩, wrf, rd_wr_same, hstored hw]
    · rw [if_neg (fun hc => h0 hc.2), rd_wrf_other (by unfold aPlot; omega), hstored hw]
  · rw [plotAccept, if_neg (by simpa using hfree), if_neg (fun hc => hfree hc.1), hstored hw]

theorem plotAccept_frame (s : State) (p : Nat) {e : Entry} (he : e.length = 8) :
    touchesOnly [] (2 ^ 64) ((List.range 8).map (aPlot p)) s (plotAccept s p e) := by
  have hm : ∀ i < 8, aPlot p 0 + 8 * i ∈ (List.range 8).map (aPlot p) := fun i hi =>
    List.mem_map.mpr ⟨i, List.mem_range.mpr hi, aPlot_at p i⟩
  have hw : touchesOnly [] (2 ^ 64) ((List.range 8).map (aPlot p)) s (wrEntry s (aPlot p 0) e) :=
    (touchesOnly.refl _ _ _ s).wrEntry fun i hi => .inl (hm i (he ▸ hi))
  rw [plotAccept]
  split
  · exact hw.wrf (.inl (hm 0 (by decide)))
  · exact hw

theorem plotRefusal_lt (s : State) (p : Nat) (e : Entry) : plotRefusal s p e < 256 := by
  unfold plotRefusal
  repeat' split
  all_goals decide

/-- A commit leaves a plot's state in the entry that it judges (R338). -/
theorem plotCommit_state (s : State) (path p : Nat) (v : Word) :
    bitsOf (wordAt (mergeEntry plotFields (rdEntry s (aPlot p 0) 8) (stagedEntry s path (aPlot p 0) v)) 0) 63 62
      = plotState s p := by
  rw [wordAt_mergeEntry (by decide) (by simp [rdEntry]) (by simp [stagedEntry])]
  simp [mergedWord, plotFields, putField, rw, rwIf, ro, rsv, rdEntry, plotState, rdf]
  split <;> split <;> split <;> simp [bitsOf_putBits_other]

theorem plotCommit_accepted {s : State} {path p : Nat} {v : Word} (h : manageable s) (hp : p < 4096) {e : Entry}
    (he : e = mergeEntry plotFields (rdEntry s (aPlot p 0) 8) (stagedEntry s path (aPlot p 0) v))
    (hc : plotRefusal (judgedAt s path (aPlot p 0) plotFields v) p e = 0) :
    ∃ t, exec (.plotCommit path p v) s = .next t ∧ (∀ w ∈ [1, 2, 3], rd t (aPlot p w) = wordAt e w)
      ∧ rdf t (aPlot p 0) 61 0 = bitsOf (wordAt e 0) 61 0
      ∧ plotState t p = (if plotState s p = psFree then psFallow else plotState s p)
      ∧ rdf t aPlotStat 63 56 = 0 ∧ rdf t aPlotStat 11 0 = p ∧ stageOf t path = Stage.empty
      ∧ touchesOnly [.management, .recorder] 0xA000_0000 (aPlotStat :: (List.range 8).map (aPlot p)) s t := by
  let u := judgedAt s path (aPlot p 0) plotFields v
  let x := plotReport (plotAccept u p e) p 0
  have hlen : e.length = 8 := by
    rw [he, mergeEntry_length, rdEntry_length, stagedEntry_length]
    rfl
  have hx : exec (.plotCommit path p v) s = .next (captureWrite x (aPlot p 0) v) := by
    subst he
    exact congrArg Host.Outcome.next (commit_accepted h hc)
  have hst : plotState u p = plotState s p :=
    rdf_congr (rd_judgedAt ((aPlot_lt hp (by decide)).trans (by decide)))
  have hword : ∀ {w}, w < 8 → rd (captureWrite x (aPlot p 0) v) (aPlot p w)
      = if plotState s p = psFree ∧ w = 0 then putBits (wordAt e 0) 63 62 psFallow else wordAt e w := fun hw => by
    rw [rd_captureWrite ((aPlot_lt hp hw).trans (by decide)), ← hst, ← rd_plotAccept hlen hw]
    exact rd_wr_other (Nat.ne_of_lt (aPlot_lt hp hw))
  have hstat : ∀ hi lo, rdf (captureWrite x (aPlot p 0) v) aPlotStat hi lo = rdf x aPlotStat hi lo :=
    fun hi lo => rdf_congr (rd_captureWrite (by decide))
  have hframe : touchesOnly [.recorder] 0xA000_0000 (aPlotStat :: (List.range 8).map (aPlot p)) u
      (captureWrite x (aPlot p 0) v) :=
    captureWrite_touches (((plotAccept_frame u p hlen).mono (by simp) (by decide)
      (fun a ha => List.mem_cons_of_mem _ ha)).wr (.inl List.mem_cons_self)) (by simp) le_rfl
  refine ⟨_, hx, fun w hw => ?_, ?_, ?_, ?_, ?_, ?_, ?_⟩
  · have hw' : w < 8 ∧ w ≠ 0 := by
      simp only [List.mem_cons, List.not_mem_nil, or_false] at hw
      omega
    rw [hword hw'.1, if_neg fun hc => hw'.2 hc.2]
  · rw [rdf, hword (by decide)]
    split
    · exact bitsOf_putBits_other _ _ (by decide)
    · rfl
  · rw [plotState, rdf, hword (by decide)]
    by_cases hf : plotState s p = psFree
    · rw [if_pos ⟨hf, rfl⟩, if_pos hf]
      exact bitsOf_putBits_same _ _ (by decide)
    · rw [if_neg fun hc => hf hc.1, if_neg hf, he]
      exact plotCommit_state ..
  · exact (hstat ..).trans (plotReport_shows _ hp (by decide)).1
  · exact (hstat ..).trans (plotReport_shows _ hp (by decide)).2
  · exact (stageOf_congr (hframe.2.1 .management (by simp)) path).trans (stageOf_judgedAt ..)
  · exact ((judgedAt_frame s path _ plotFields v).mono (by simp) (by decide) (by simp)).trans
      (hframe.mono (by simp) le_rfl fun a ha => ha)

theorem plotCommit_refused {s : State} {path p : Nat} {v : Word} (h : manageable s) (hp : p < 4096) {e : Entry}
    (he : e = mergeEntry plotFields (rdEntry s (aPlot p 0) 8) (stagedEntry s path (aPlot p 0) v))
    (hc : plotRefusal (judgedAt s path (aPlot p 0) plotFields v) p e ≠ 0) :
    ∃ t, exec (.plotCommit path p v) s = .next t
      ∧ rdf t aPlotStat 63 56 = plotRefusal (judgedAt s path (aPlot p 0) plotFields v) p e
      ∧ rdf t aPlotStat 11 0 = p ∧ stageOf t path = Stage.empty
      ∧ touchesOnly [.management] 0xA300_0000 [aPlotStat] s t := by
  subst he
  refine ⟨_, congrArg Host.Outcome.next (commit_refused h hc), (plotReport_shows _ hp (plotRefusal_lt ..)).1,
    (plotReport_shows _ hp (plotRefusal_lt ..)).2, stageOf_judgedAt s path (aPlot p 0) plotFields v, ?_⟩
  exact ((judgedAt_frame s path (aPlot p 0) plotFields v).mono (by simp) le_rfl (by simp)).wr (.inl (by simp))

/-! ## Field-book commits -/

theorem aEntry_at (n x w : Nat) : aEntry n x w = aEntry n x 0 + 8 * w := by
  unfold aEntry aFbk aStack
  omega

theorem aEntry_ne_stat {n x w : Nat} (hx : x < 32768) (hw : w < 8) : aEntry n x w ≠ aTilStat n := by
  unfold aEntry aFbk aTilStat aStack
  omega

theorem aEntry_lt {n x w : Nat} (hn : n < 12) (hx : x < 32768) (hw : w < 8) : aEntry n x w < 0xA000_0000 := by
  unfold aEntry aFbk aStack
  omega

theorem aTilStat_lt {n : Nat} (hn : n < 12) : aTilStat n < 0xA000_0000 := by
  unfold aTilStat aStack
  omega

theorem tilReport_shows (s : State) (n : Nat) {x code : Nat} (hx : x < 32768) (hcode : code < 256) :
    rdf (tilReport s n x code) (aTilStat n) 63 56 = code ∧ rdf (tilReport s n x code) (aTilStat n) 14 0 = x := by
  rw [rdf, rdf, tilReport, rd_wr_same]
  simp only [bitsOf_or, bitsOf_bitsAt_same _ (show 63 < 64 by decide), bitsOf_bitsAt_same _ (show 14 < 64 by decide),
    bitsOf_bitsAt_other, show (14 : Nat) < 56 by decide, true_or, or_true, Nat.or_zero, Nat.zero_or]
  exact ⟨Nat.mod_eq_of_lt hcode, Nat.mod_eq_of_lt hx⟩

/-- Below the one bit of a mask nothing stays. -/
theorem bitsOf_flag_low (v : Word) : bitsOf (v &&& maskOf 63 63) 62 0 = 0 := by
  refine Nat.eq_of_testBit_eq fun k => ?_
  rw [testBit_bitsOf, Nat.zero_testBit]
  by_cases hk : k < 63
  · have : (v &&& maskOf 63 63).getLsbD (0 + k) = false := (bitOf_and ..).trans (by
      rw [bitOf_maskOf]
      simp [hk])
    rw [this, Bool.and_false]
  · simp [hk]

/-- The words that an accepted field-book entry is stored with: of a FREE one only OLDER_HELD of words 5 to 7. -/
def acceptedEntry (s : State) (n x : Nat) (e : Entry) : Entry :=
  if fbState s n x = esFree then e.take 5 ++ [wordAt e 5 &&& maskOf 63 63, 0, 0] else e

theorem acceptedEntry_length {s : State} {n x : Nat} {e : Entry} (he : e.length = 8) :
    (acceptedEntry s n x e).length = 8 := by
  unfold acceptedEntry
  split <;> simp [he]

theorem wordAt_acceptedEntry {s : State} {n x w : Nat} {e : Entry} (he : e.length = 8) (hw : w < 5) :
    wordAt (acceptedEntry s n x e) w = wordAt e w := by
  unfold acceptedEntry
  split
  · have hlen : w < (e.take 5).length := by simpa [he] using hw
    exact (List.getD_append _ _ _ _ hlen).trans (by simp [wordAt, hw])
  · rfl

theorem wordAt_acceptedEntry_free {s : State} {n x w : Nat} {e : Entry} (he : e.length = 8)
    (hf : fbState s n x = esFree) :
    wordAt (acceptedEntry s n x e) (5 + w) = wordAt [wordAt e 5 &&& maskOf 63 63, 0, 0] w := by
  have hlen : (e.take 5).length = 5 := by simp [he]
  rw [acceptedEntry, if_pos hf, wordAt, List.getD_append_right _ _ _ _ (by omega), hlen, Nat.add_sub_cancel_left]
  rfl

theorem entryAccept_eq (s : State) (n x : Nat) (e : Entry) :
    entryAccept s n x e = if fbState s n x = esFree
      then setFbState (wrEntry s (aEntry n x 0) (acceptedEntry s n x e)) n x esFallow
      else wrEntry s (aEntry n x 0) (acceptedEntry s n x e) := by
  unfold entryAccept acceptedEntry
  split <;> rfl

theorem rd_entryAccept {s : State} {n x w : Nat} {e : Entry} (he : e.length = 8) (hw : w < 8) :
    rd (entryAccept s n x e) (aEntry n x w) = if fbState s n x = esFree ∧ w = 0
      then putBits (wordAt e 0) 63 61 esFallow else wordAt (acceptedEntry s n x e) w := by
  have hstored : ∀ {w : Nat}, w < 8 → rd (wrEntry s (aEntry n x 0) (acceptedEntry s n x e)) (aEntry n x w)
      = wordAt (acceptedEntry s n x e) w := fun hw =>
    (congrArg (rd _) (aEntry_at ..)).trans (rd_wrEntry_at _ s (by rw [acceptedEntry_length he]; exact hw))
  rw [entryAccept_eq]
  by_cases hfree : fbState s n x = esFree
  · rw [if_pos hfree]
    by_cases h0 : w = 0
    · subst h0
      rw [if_pos ⟨hfree, rfl⟩, setFbState, wrf, rd_wr_same, hstored hw, wordAt_acceptedEntry he (by decide)]
    · rw [if_neg (fun hc => h0 hc.2), setFbState, rd_wrf_other (by unfold aEntry aFbk aStack; omega), hstored hw]
  · rw [if_neg hfree, if_neg (fun hc => hfree hc.1), hstored hw]

theorem entryAccept_frame (s : State) (n x : Nat) {e : Entry} (he : e.length = 8) :
    touchesOnly [] (2 ^ 64) ((List.range 8).map (aEntry n x)) s (entryAccept s n x e) := by
  have hm : ∀ i < 8, aEntry n x 0 + 8 * i ∈ (List.range 8).map (aEntry n x) := fun i hi =>
    List.mem_map.mpr ⟨i, List.mem_range.mpr hi, aEntry_at n x i⟩
  have hw : touchesOnly [] (2 ^ 64) ((List.range 8).map (aEntry n x)) s
      (wrEntry s (aEntry n x 0) (acceptedEntry s n x e)) :=
    (touchesOnly.refl _ _ _ s).wrEntry fun i hi => .inl (hm i (acceptedEntry_length he ▸ hi))
  rw [entryAccept_eq]
  split
  · exact hw.wrf (.inl (hm 0 (by decide)))
  · exact hw

theorem entryRefusal_lt (s : State) (n x : Nat) (e : Entry) : entryRefusal s n x e < 256 := by
  unfold entryRefusal
  extract_lets
  repeat' split
  all_goals decide

/-- Only a FREE or a FALLOW entry is committed (R167). -/
theorem entryRefusal_state {s : State} {n x : Nat} {e : Entry} (h : entryRefusal s n x e = 0) :
    fbState s n x = esFree ∨ fbState s n x = esFallow := by
  by_contra hc
  rw [entryRefusal, if_pos (not_or.mp hc)] at h
  exact absurd h (by decide)

/-- A commit leaves an entry's state in the entry that it judges. -/
theorem entryCommit_state (s : State) (path n x : Nat) (v : Word) :
    bitsOf (wordAt (mergeEntry fbkFields (rdEntry s (aEntry n x 0) 8) (stagedEntry s path (aEntry n x 0) v)) 0) 63 61
      = fbState s n x := by
  rw [wordAt_mergeEntry (by decide) (by simp [rdEntry]) (by simp [stagedEntry])]
  simp [mergedWord, fbkFields, putField, rw, ro, rsv, rdEntry, fbState, rdf, bitsOf_putBits_other]

theorem fbkCommit_row {s : State} {path n x : Nat} {v : Word} (hn : clusterUp s n = true) :
    exec (.fbkEntryCommit path n x v) s = .next (mgApply s (aEntry n x 0) v fun s => commitEntry s path (aEntry n x 0)
      fbkFields v (fun s e => entryRefusal s n x e) (fun s e => entryAccept s n x e)
      fun s code => tilReport s n x code) := by
  have hop : entryCommit s path n x v = commitEntry s path (aEntry n x 0) fbkFields v
      (fun s e => entryRefusal s n x e) (fun s e => entryAccept s n x e) (fun s code => tilReport s n x code) :=
    if_neg (by simp [hn])
  rw [exec_fbkEntryCommit, execFbkEntryCommit, mgApply, mgApply, hop]

theorem fbkCommit_accepted {s : State} {path n x : Nat} {v : Word} (h : manageable s) (hn : clusterUp s n = true)
    (hx : x < 32768) {e : Entry}
    (he : e = mergeEntry fbkFields (rdEntry s (aEntry n x 0) 8) (stagedEntry s path (aEntry n x 0) v))
    (hc : entryRefusal (judgedAt s path (aEntry n x 0) fbkFields v) n x e = 0) :
    ∃ t, exec (.fbkEntryCommit path n x v) s = .next t
      ∧ (∀ w ∈ [1, 2, 3, 4], rd t (aEntry n x w) = wordAt e w)
      ∧ rdf t (aEntry n x 0) 60 0 = bitsOf (wordAt e 0) 60 0 ∧ fbState t n x = esFallow
      ∧ (fbState s n x = esFree → rdb t (aEntry n x 5) 63 = bitOf (wordAt e 5) 63
        ∧ rdf t (aEntry n x 5) 62 0 = 0 ∧ rd t (aEntry n x 6) = 0 ∧ rd t (aEntry n x 7) = 0)
      ∧ (fbState s n x = esFallow → ∀ w ∈ [5, 6, 7], rd t (aEntry n x w) = wordAt e w)
      ∧ (rdf t (aTilStat n) 63 56 = 0 ∧ rdf t (aTilStat n) 14 0 = x) ∧ stageOf t path = Stage.empty
      ∧ touchesOnly [.management, .recorder] 0xA000_0000 (aTilStat n :: (List.range 8).map (aEntry n x)) s t := by
  have hn' := clusterUp_lt hn
  let u := judgedAt s path (aEntry n x 0) fbkFields v
  let y := tilReport (entryAccept u n x e) n x 0
  let t := captureWrite y (aEntry n x 0) v
  have hlen : e.length = 8 := by
    rw [he, mergeEntry_length, rdEntry_length, stagedEntry_length]
    rfl
  have hrow : exec (.fbkEntryCommit path n x v) s = .next t := by
    subst he
    exact (fbkCommit_row hn).trans (congrArg Host.Outcome.next (commit_accepted h hc))
  have hst : fbState u n x = fbState s n x :=
    rdf_congr (rd_judgedAt ((aEntry_lt hn' hx (by decide)).trans (by decide)))
  have hword : ∀ {w}, w < 8 → rd t (aEntry n x w) = if fbState u n x = esFree ∧ w = 0
      then putBits (wordAt e 0) 63 61 esFallow else wordAt (acceptedEntry u n x e) w := fun hw => by
    rw [rd_captureWrite (aEntry_lt hn' hx hw), ← rd_entryAccept hlen hw]
    exact rd_wr_other (aEntry_ne_stat hx hw)
  have hlow : ∀ {w}, w < 5 → w ≠ 0 → rd t (aEntry n x w) = wordAt e w := fun hw h0 => by
    rw [hword (by omega), if_neg (fun hc => h0 hc.2), wordAt_acceptedEntry hlen hw]
  have hhigh : fbState s n x = esFree → ∀ {w}, w < 3 → rd t (aEntry n x (5 + w))
      = wordAt [wordAt e 5 &&& maskOf 63 63, 0, 0] w := fun hf w hw => by
    rw [hword (by omega), if_neg (fun hc => absurd hc.2 (by omega)), wordAt_acceptedEntry_free hlen (hst.trans hf)]
  have hstat : ∀ hi lo, rdf t (aTilStat n) hi lo = rdf y (aTilStat n) hi lo :=
    fun hi lo => rdf_congr (rd_captureWrite (aTilStat_lt hn'))
  have hframe : touchesOnly [.recorder] 0xA000_0000 (aTilStat n :: (List.range 8).map (aEntry n x)) u t :=
    captureWrite_touches (((entryAccept_frame u n x hlen).mono (by simp) (by decide)
      (fun a ha => List.mem_cons_of_mem _ ha)).wr (.inl List.mem_cons_self)) (by simp) le_rfl
  refine ⟨t, hrow, fun w hw => ?_, ?_, ?_, fun hf => ⟨?_, ?_, ?_, ?_⟩, fun hf w hw => ?_, ⟨?_, ?_⟩, ?_, ?_⟩
  · simp only [List.mem_cons, List.not_mem_nil, or_false] at hw
    exact hlow (by omega) (by omega)
  · rw [rdf, hword (by decide), wordAt_acceptedEntry hlen (by decide)]
    split
    · exact bitsOf_putBits_other _ _ (by decide)
    · rfl
  · rw [fbState, rdf, hword (by decide)]
    by_cases hf : fbState u n x = esFree
    · rw [if_pos ⟨hf, rfl⟩]
      exact bitsOf_putBits_same _ _ (by decide)
    · rw [if_neg fun hc => hf hc.1, wordAt_acceptedEntry hlen (by decide), he, entryCommit_state, ← hst]
      exact (entryRefusal_state hc).resolve_left hf
  · rw [rdb_eq_bitOf, hhigh hf (w := 0) (by decide)]
    exact (bitOf_and ..).trans (by rw [show bitOf (maskOf 63 63) 63 = true by decide, Bool.and_true])
  · exact (congrArg (bitsOf · 62 0) (hhigh hf (w := 0) (by decide))).trans (bitsOf_flag_low _)
  · exact (hhigh hf (w := 1) (by decide)).trans rfl
  · exact (hhigh hf (w := 2) (by decide)).trans rfl
  · have hne : ¬(fbState u n x = esFree) := by
      rw [hst, hf]
      decide
    simp only [List.mem_cons, List.not_mem_nil, or_false] at hw
    rw [hword (by omega), if_neg fun hc => hne hc.1, acceptedEntry, if_neg hne]
  · exact (hstat ..).trans (tilReport_shows _ n hx (by decide)).1
  · exact (hstat ..).trans (tilReport_shows _ n hx (by decide)).2
  · exact (stageOf_congr (hframe.2.1 .management (by simp)) path).trans (stageOf_judgedAt ..)
  · exact ((judgedAt_frame s path _ fbkFields v).mono (by simp) (by decide) (by simp)).trans
      (hframe.mono (by simp) le_rfl fun a ha => ha)

theorem fbkCommit_refused {s : State} {path n x : Nat} {v : Word} (h : manageable s) (hn : clusterUp s n = true)
    (hx : x < 32768) {e : Entry}
    (he : e = mergeEntry fbkFields (rdEntry s (aEntry n x 0) 8) (stagedEntry s path (aEntry n x 0) v))
    (hc : entryRefusal (judgedAt s path (aEntry n x 0) fbkFields v) n x e ≠ 0) :
    ∃ t, exec (.fbkEntryCommit path n x v) s = .next t
      ∧ (rdf t (aTilStat n) 63 56 = entryRefusal (judgedAt s path (aEntry n x 0) fbkFields v) n x e
        ∧ rdf t (aTilStat n) 14 0 = x) ∧ stageOf t path = Stage.empty
      ∧ touchesOnly [.management] 0xA300_0000 [aTilStat n] s t := by
  subst he
  refine ⟨_, (fbkCommit_row hn).trans (congrArg Host.Outcome.next (commit_refused h hc)),
    tilReport_shows _ n hx (entryRefusal_lt ..), stageOf_judgedAt s path (aEntry n x 0) fbkFields v, ?_⟩
  exact ((judgedAt_frame s path (aEntry n x 0) fbkFields v).mono (by simp) le_rfl (by simp)).wr (.inl (by simp))

/-- Settles O19: in each window the logged write and the emptied buffer are the state that the refusal is judged
in; what a commit then stores is read off word by word. -/
theorem entryCommits : Obligations.EntryCommits := by
  unfold Obligations.EntryCommits
  refine ⟨fun s path g v h hg => ?_, fun s path p v h hp => ?_, fun s path n x v h hn hx => ?_⟩
  · exact ⟨_, judgedAt_frame s path (aGroup g 0) groupFields v, stageOf_judgedAt .., groupCommit_accepted h hg rfl,
      groupCommit_refused h hg rfl⟩
  · exact ⟨_, judgedAt_frame s path (aPlot p 0) plotFields v, stageOf_judgedAt .., plotCommit_accepted h hp rfl,
      plotCommit_refused h hp rfl⟩
  · exact ⟨_, judgedAt_frame s path (aEntry n x 0) fbkFields v, stageOf_judgedAt .., fbkCommit_accepted h hn hx rfl,
      fbkCommit_refused h hn hx rfl⟩

end Sys2Proof.Machine
end

section
/-! PROOFS. The group commands (R139, R140). -/

namespace Sys2Proof.Machine

open Sys2Proof

theorem bitsOf_groupCmdWord {op g : Nat} (seq : Nat) (hop : op < 16) (hg : g < 65536) :
    bitsOf (groupCmdWord op g seq) 63 60 = op ∧ bitsOf (groupCmdWord op g seq) 15 0 = g
      ∧ bitsOf (groupCmdWord op g seq) 47 16 = seq % 2 ^ 32 ∧ bitsOf (groupCmdWord op g seq) 59 48 = 0 := by
  simp only [groupCmdWord, bitsOf_or, bitsOf_bitsAt_same _ (show 63 < 64 by decide),
    bitsOf_bitsAt_same _ (show 47 < 64 by decide), bitsOf_bitsAt_same _ (show 15 < 64 by decide), bitsOf_bitsAt_other,
    show (15 : Nat) < 60 by decide, show (47 : Nat) < 60 by decide, show (59 : Nat) < 60 by decide,
    show (47 : Nat) < 48 by decide, show (15 : Nat) < 48 by decide, show (15 : Nat) < 16 by decide, true_or, or_true,
    Nat.or_zero, Nat.zero_or]
  exact ⟨Nat.mod_eq_of_lt hop, Nat.mod_eq_of_lt hg, trivial, trivial⟩

/-- A group command of a managed device: the command word is stored, the command runs, and an accepted one is
captured. -/
theorem groupRow_shows {s : State} (path seq : Nat) {op g : Nat} (h : manageable s) (h1 : 1 ≤ op) (h6 : op ≤ 6)
    (hg : g < 65536) : ∃ w, ∀ u code, groupCommand (wr s aGroupCmd w) op g (seq % 2 ^ 32) = (u, code) →
      groupRow s path op g seq = if code = 0 then captureWrite u aGroupCmd (groupCmdWord op g seq) else u := by
  obtain ⟨hop, hgno, hseq, hres⟩ := bitsOf_groupCmdWord seq (show op < 16 by omega) hg
  have hrsv : touchesReserved groupCmdFields (groupCmdWord op g seq) = false := by
    simp [touchesReserved, groupCmdFields, rsv, wo, hres]
  have hrange : outOfRange groupCmdFields (groupCmdWord op g seq) = false := by
    simp [outOfRange, groupCmdFields, rsv, wo, hop, h1, h6]
  refine ⟨mergedWord (!s.mg.rw1.contains aGroupCmd) groupCmdFields (rd s aGroupCmd) (groupCmdWord op g seq),
    fun u code hu => ?_⟩
  simp only [groupRow, groupCmdWrite, hop, hgno, hseq]
  split
  · next hc => exact cmdRow_ok h rfl hrsv hrange rfl (hu.trans (by rw [hc]))
  · next hc => exact cmdRow_refused h rfl hrsv hrange rfl hc hu

theorem groupRow_ok {s : State} (path seq : Nat) {op g : Nat} (h : manageable s) (h1 : 1 ≤ op) (h6 : op ≤ 6)
    (hg : g < 65536) : ∃ w, ∀ u, groupCommand (wr s aGroupCmd w) op g (seq % 2 ^ 32) = (u, 0) →
      groupRow s path op g seq = captureWrite u aGroupCmd (groupCmdWord op g seq) := by
  obtain ⟨w, hrow⟩ := groupRow_shows path seq h h1 h6 hg
  exact ⟨w, fun u hu => (hrow u 0 hu).trans (if_pos rfl)⟩

/-- The command register and the status register are no group's. -/
theorem aGroup_ne_cmd {g w : Nat} (hg : g < 65536) (hw : w < 8) : aGroup g w ≠ aGroupCmd := by
  unfold aGroup aGroupCmd
  omega

theorem groupState_wr_cmd {s : State} {w : Word} {g : Nat} (hg : g < 65536) :
    (groupAt (wr s aGroupCmd w) g).state = (groupAt s g).state := by
  rw [groupAt_state, groupAt_state]
  exact rdf_congr (rd_wr_other (aGroup_ne_cmd hg (by decide)))

theorem runsOf_wr (s : State) (a g : Nat) (w : Word) : runsOf (wr s a w) g = runsOf s g := rfl

/-- What an accepted command answers, and a word of its group afterwards. -/
theorem groupCapture_shows (u : State) {g : Nat} (v : Word) (hg : g < 65536) :
    let t := captureWrite (groupReport u g 0) aGroupCmd v
    (rdf t aGroupStat 63 56 = 0 ∧ rdf t aGroupStat 15 0 = g) ∧ ∀ w < 8, rd t (aGroup g w) = rd u (aGroup g w) := by
  intro t
  have hstat : ∀ hi lo, rdf t aGroupStat hi lo = rdf (groupReport u g 0) aGroupStat hi lo :=
    fun hi lo => rdf_congr (rd_captureWrite (by decide))
  refine ⟨⟨(hstat ..).trans (groupReport_shows u hg).1, (hstat ..).trans (groupReport_shows u hg).2⟩, fun w hw => ?_⟩
  exact (rd_captureWrite ((aGroup_lt hg hw).trans (by decide))).trans (rd_groupReport hg hw)

/-- The frame of an accepted command that changes registers only. -/
theorem groupCapture_frame {s u : State} {g : Nat} {v : Word} {as : List Nat}
    (h : touchesOnly [] (2 ^ 64) as s u) (hm : aGroupStat ∈ as) :
    touchesOnly [.recorder] 0xA000_0000 as s (captureWrite (groupReport u g 0) aGroupCmd v) :=
  captureWrite_touches ((h.mono (by simp) (by decide) fun a ha => ha).wr (.inl hm)) (by simp) le_rfl

theorem groupQuery_shows {s : State} (path : Nat) {g : Nat} (h : manageable s) (hg : g < 65536) :
    ∃ t, exec (.groupQuery path g) s = .next t ∧ (rdf t aGroupStat 63 56 = 0 ∧ rdf t aGroupStat 15 0 = g)
      ∧ touchesOnly [.recorder] 0xA000_0000 [aGroupCmd, aGroupStat] s t := by
  obtain ⟨w, hrow⟩ := groupRow_ok path 0 (op := 6) h (by decide) (by decide) hg
  refine ⟨_, congrArg Host.Outcome.next (hrow (groupReport (wr s aGroupCmd w) g 0) rfl),
    (groupCapture_shows _ _ hg).1, ?_⟩
  exact groupCapture_frame ((touchesOnly.refl _ _ _ s).wr (.inl (by simp))) (by simp)

theorem setSeq_shows {s : State} (path : Nat) {g : Nat} (seq : Nat) (h : manageable s) (hg : g < 65536)
    (hst : (groupAt s g).state = gsFallow) : ∃ t, exec (.setSeq path g seq) s = .next t
      ∧ (rdf t aGroupStat 63 56 = 0 ∧ rdf t aGroupStat 15 0 = g) ∧ (groupAt t g).instSeq = seq % 2 ^ 32
      ∧ touchesOnly [.recorder] 0xA000_0000 [aGroupCmd, aGroupStat, aGroup g 5] s t := by
  obtain ⟨w, hrow⟩ := groupRow_ok path seq (op := 5) h (by decide) (by decide) hg
  have hcmd : groupCommand (wr s aGroupCmd w) 5 g (seq % 2 ^ 32)
      = (groupReport (wrf (wr s aGroupCmd w) (aGroup g 5) 63 32 (seq % 2 ^ 32)) g 0, 0) := by
    simp [groupCommand, groupState_wr_cmd hg, hst, rcOk]
  refine ⟨_, congrArg Host.Outcome.next (hrow _ hcmd), (groupCapture_shows _ _ hg).1, ?_, ?_⟩
  · rw [groupAt_instSeq, rdf, (groupCapture_shows _ _ hg).2 5 (by decide)]
    exact rdf_wrf_fits _ _ (by decide) (Nat.mod_lt _ (by decide))
  · exact groupCapture_frame (((touchesOnly.refl _ _ _ s).wr (.inl (by simp))).wrf (.inl (by simp))) (by simp)

theorem groupRestore_shows {s : State} (path : Nat) {g : Nat} (h : manageable s) (hg : g < 65536)
    (hst : (groupAt s g).state = gsFallow) : ∃ t, exec (.groupRestore path g) s = .next t
      ∧ (rdf t aGroupStat 63 56 = 0 ∧ rdf t aGroupStat 15 0 = g) ∧ (groupAt t g).state = gsActive
      ∧ touchesOnly [.recorder] 0xA000_0000 [aGroupCmd, aGroupStat, aGroup g 0] s t := by
  obtain ⟨w, hrow⟩ := groupRow_ok path 0 (op := 3) h (by decide) (by decide) hg
  have hcmd : groupCommand (wr s aGroupCmd w) 3 g (0 % 2 ^ 32)
      = (groupReport (wrf (wr s aGroupCmd w) (aGroup g 0) 63 62 gsActive) g 0, 0) := by
    simp [groupCommand, groupState_wr_cmd hg, hst, rcOk]
  refine ⟨_, congrArg Host.Outcome.next (hrow _ hcmd), (groupCapture_shows _ _ hg).1, ?_, ?_⟩
  · rw [groupAt_state, rdf, (groupCapture_shows _ _ hg).2 0 (by decide)]
    exact rdf_wrf_fits _ _ (by decide) (by decide)
  · exact groupCapture_frame (((touchesOnly.refl _ _ _ s).wr (.inl (by simp))).wrf (.inl (by simp))) (by simp)

/-! ## Freeing a group -/

theorem groupReport_bnd (s : State) (g code : Nat) : (groupReport s g code).bnd = s.bnd := rfl

/-- A freed group's words and its history are those after reset, and its staging is empty. -/
theorem freeGroup_shows (s : State) {g : Nat} (hg : g < 65536) :
    (∀ w < 8, rd (freeGroup s g) (aGroup g w) = resetWord (aGroup g w))
      ∧ (∀ w < 16, rd (freeGroup s g) (aOscale g w) = resetWord (aOscale g w))
      ∧ tget [] (freeGroup s g).bnd.staging g = []
      ∧ touchesOnly [.granary, .binding] 0x3000_0000 [] s (freeGroup s g) := by
  have hword : ∀ (f : Nat → Nat) {n w : Nat}, w < n →
      wordAt ((List.range n).map fun w => resetWord (f w)) w = resetWord (f w) := fun f n w hw => by
    simp [wordAt, hw]
  refine ⟨fun w hw => ?_, fun w hw => ?_, ?_, ?_⟩
  · rw [freeGroup, rd_wrEntry_other _ _ (.inl ((aGroup_lt hg hw).trans_le (by unfold aOscale; omega))),
      show aGroup g w = aGroup g 0 + 8 * w by unfold aGroup; omega, rd_wrEntry_at _ _ (by simpa using hw), hword _ hw,
      show aGroup g w = aGroup g 0 + 8 * w by unfold aGroup; omega]
  · rw [freeGroup, show aOscale g w = aOscale g 0 + 8 * w by unfold aOscale; omega,
      rd_wrEntry_at _ _ (by simpa using hw), hword _ hw,
      show aOscale g w = aOscale g 0 + 8 * w by unfold aOscale; omega]
  · have hbnd : (freeGroup s g).bnd = (freeStaging s g (groupAt s g).owner).bnd :=
      (((touchesOnly.refl [] 0x3000_0000 [] _).wrEntry fun i _ => .inr (by unfold aGroup; omega)).wrEntry fun i _ =>
        .inr (by unfold aOscale; omega)).2.1 .binding (by simp)
    rw [hbnd]
    exact tget_tset_same ([] : List Nat) _ g []
  · exact (freeGroup_keeps (m := 9437196) rfl (.refl _ s)).touchesOnly 4 (by decide) (by decide) []

theorem groupFree_shows {s : State} (path : Nat) {g : Nat} (h : manageable s) (hg : g < 65536)
    (hst : (groupAt s g).state = gsFallow) (hruns : runsOf s g = []) : ∃ t, exec (.groupFree path g) s = .next t
      ∧ (rdf t aGroupStat 63 56 = 0 ∧ rdf t aGroupStat 15 0 = g)
      ∧ (∀ w, w < 8 → rd t (aGroup g w) = resetWord (aGroup g w))
      ∧ (∀ w, w < 16 → rd t (aOscale g w) = resetWord (aOscale g w))
      ∧ tget [] t.bnd.staging g = [] ∧ touchesOnly [.granary, .binding, .recorder] 0x3000_0000 [] s t := by
  obtain ⟨w, hrow⟩ := groupRow_ok path 0 (op := 4) h (by decide) (by decide) hg
  have hcmd : groupCommand (wr s aGroupCmd w) 4 g (0 % 2 ^ 32)
      = (groupReport (freeGroup (wr s aGroupCmd w) g) g 0, 0) := by
    simp [groupCommand, groupState_wr_cmd hg, hst, runsOf_wr, hruns, rcOk]
  obtain ⟨hwords, hscale, hstaging, hframe⟩ := freeGroup_shows (wr s aGroupCmd w) hg
  refine ⟨_, congrArg Host.Outcome.next (hrow _ hcmd), (groupCapture_shows _ _ hg).1, fun w hw => ?_, fun w hw => ?_,
    ?_, ?_⟩
  · exact ((groupCapture_shows _ _ hg).2 w hw).trans (hwords w hw)
  · have hne : aOscale g w ≠ aGroupStat := by
      unfold aOscale aGroupStat
      omega
    rw [rd_captureWrite (by unfold aOscale; omega), groupReport, rd_wr_other hne, hscale w hw]
  · have hbnd := (captureWrite_frame (groupReport (freeGroup (wr s aGroupCmd w) g) g 0) aGroupCmd
      (groupCmdWord 4 g 0)).2.1 .binding (by simp)
    rw [hbnd, groupReport_bnd, hstaging]
  · have hsent : touchesOnly [.granary, .binding, .recorder] 0x3000_0000 [] s (wr s aGroupCmd w) :=
      (touchesOnly.refl _ _ _ s).wr (.inr (by decide))
    exact captureWrite_touches ((hsent.trans (hframe.mono (by simp) le_rfl (by simp))).wr (.inr (by decide))) (by simp)
      (by decide)

/-! ## Ends of the group's runs -/

theorem groupFallow_shows {s : State} (path : Nat) {g : Nat} (h : manageable s) (hg : g < 65536)
    (hst : (groupAt s g).state ≠ gsFree) : ∃ u, (groupAt u g).state = gsFallow
      ∧ touchesOnly [] (2 ^ 64) [aGroupCmd, aGroup g 0] s u
      ∧ exec (.groupFallow path g) s
        = .next (captureWrite (groupReport (settle (endGroup u g 4)) g 0) aGroupCmd (groupCmdWord 2 g 0)) := by
  obtain ⟨w, hrow⟩ := groupRow_ok path 0 (op := 2) h (by decide) (by decide) hg
  have hcmd : groupCommand (wr s aGroupCmd w) 2 g (0 % 2 ^ 32)
      = (groupReport (settle (endGroup (wrf (wr s aGroupCmd w) (aGroup g 0) 63 62 gsFallow) g 4)) g 0, 0) := by
    simp [groupCommand, groupState_wr_cmd hg, hst, rcOk]
  refine ⟨wrf (wr s aGroupCmd w) (aGroup g 0) 63 62 gsFallow, ?_, ?_, congrArg Host.Outcome.next (hrow _ hcmd)⟩
  · rw [groupAt_state]
    exact rdf_wrf_fits _ _ (by decide) (by decide)
  · exact ((touchesOnly.refl _ _ _ s).wr (.inl (by simp))).wrf (.inl (by simp))

theorem groupAbort_shows {s : State} (path : Nat) {g : Nat} (h : manageable s) (hg : g < 65536) :
    ∃ u, touchesOnly [] (2 ^ 64) [aGroupCmd] s u
      ∧ exec (.groupAbort path g) s
        = .next (captureWrite (groupReport (settle (endGroup u g 5)) g 0) aGroupCmd (groupCmdWord 1 g 0)) := by
  obtain ⟨w, hrow⟩ := groupRow_ok path 0 (op := 1) h (by decide) (by decide) hg
  have hcmd : groupCommand (wr s aGroupCmd w) 1 g (0 % 2 ^ 32)
      = (groupReport (settle (endGroup (wr s aGroupCmd w) g 5)) g 0, 0) := rfl
  exact ⟨_, (touchesOnly.refl _ _ _ s).wr (.inl (by simp)), congrArg Host.Outcome.next (hrow _ hcmd)⟩

/-! ## Refusals -/

/-- A refused command changes its own two registers alone. -/
theorem groupRow_refused {s : State} {c : Instr} (path seq : Nat) {op g : Nat} (h : manageable s) (h1 : 1 ≤ op)
    (h6 : op ≤ 6) (hg : g < 65536) (hx : exec c s = .next (groupRow s path op g seq))
    (hcmd : ∀ w, groupCommand (wr s aGroupCmd w) op g (seq % 2 ^ 32)
      = (groupReport (wr s aGroupCmd w) g rcGroupBusy, rcGroupBusy)) :
    ∃ t, exec c s = .next t ∧ (rdf t aGroupStat 63 56 = 0x13 ∧ rdf t aGroupStat 15 0 = g)
      ∧ touchesOnly [] (2 ^ 64) [aGroupCmd, aGroupStat] s t := by
  obtain ⟨w, hrow⟩ := groupRow_shows path seq h h1 h6 hg
  refine ⟨_, hx.trans (congrArg Host.Outcome.next ((hrow _ _ (hcmd w)).trans (if_neg (by decide)))),
    groupReport_shows _ hg, ?_⟩
  exact ((touchesOnly.refl _ _ _ s).wr (.inl (by simp))).wr (.inl (by simp))

theorem groupCommands_refused {s : State} {path g seq : Nat} {c : Instr} (h : manageable s) (hg : g < 65536)
    (hc : c = .setSeq path g seq ∧ (groupAt s g).state ≠ gsFallow
      ∨ c = .groupRestore path g ∧ (groupAt s g).state ≠ gsFallow
      ∨ c = .groupFree path g ∧ ((groupAt s g).state ≠ gsFallow ∨ runsOf s g ≠ [])
      ∨ c = .groupFallow path g ∧ (groupAt s g).state = gsFree) :
    ∃ t, exec c s = .next t ∧ (rdf t aGroupStat 63 56 = 0x13 ∧ rdf t aGroupStat 15 0 = g)
      ∧ touchesOnly [] (2 ^ 64) [aGroupCmd, aGroupStat] s t := by
  rcases hc with ⟨rfl, hst⟩ | ⟨rfl, hst⟩ | ⟨rfl, hst⟩ | ⟨rfl, hst⟩
  · refine groupRow_refused path seq (op := 5) h (by decide) (by decide) hg rfl fun w => ?_
    simp [groupCommand, groupState_wr_cmd hg, hst]
  · refine groupRow_refused path 0 (op := 3) h (by decide) (by decide) hg rfl fun w => ?_
    simp [groupCommand, groupState_wr_cmd hg, hst]
  · refine groupRow_refused path 0 (op := 4) h (by decide) (by decide) hg rfl fun w => ?_
    have : ¬((groupAt s g).state = gsFallow ∧ runsOf s g = []) := by
      rcases hst with hst | hst
      · exact fun hb => hst hb.1
      · exact fun hb => hst hb.2
    simp [groupCommand, groupState_wr_cmd hg, runsOf_wr, this]
  · refine groupRow_refused path 0 (op := 2) h (by decide) (by decide) hg rfl fun w => ?_
    simp [groupCommand, groupState_wr_cmd hg, hst]

/-- Settles O20: every command is the command word stored and its one branch of the operation. -/
theorem groupCommands : Obligations.GroupCommands := by
  unfold Obligations.GroupCommands
  intro s path g h hg
  exact ⟨groupQuery_shows path h hg, fun seq hst => setSeq_shows path seq h hg hst,
    fun hst => groupRestore_shows path h hg hst, fun hst hruns => groupFree_shows path h hg hst hruns,
    fun hst => groupFallow_shows path h hg hst, groupAbort_shows path h hg,
    fun c seq hc => groupCommands_refused h hg hc⟩

end Sys2Proof.Machine
end

section
/-! PROOFS. Member entries (R137, R138) and output-scale histories (R229). -/

namespace Sys2Proof.Machine

open Sys2Proof

/-! ## A write applied by its field types -/

/-- An accepted write of a register: the word that the field types leave, and the frame. -/
theorem plainRow_shows {s : State} {a : Nat} {fs : List RField} {v : Word} {op : State → WrRes} (path : Nat)
    (h : manageable s) (ha : a < 0xA000_0000) (hfs : hasRw1 fs = false) (hop : op s = ⟨regWrite s path a fs v, .ok⟩) :
    (∃ first, rd (mgApply s a v op) a = mergedWord first fs (rd s a) v)
      ∧ touchesOnly [.recorder] 0xA000_0000 [a] s (mgApply s a v op) := by
  have hx : mgApply s a v op = captureWrite (regWrite s path a fs v) a v :=
    (mgApply_ok h (by rw [hop])).trans (by rw [hop])
  rw [hx]
  exact ⟨⟨_, rd_regWrite_captured s path fs v ha⟩,
    captureWrite_touches ((touchesOnly.refl _ _ _ s).regWrite hfs (.inl (by simp))) (by simp) le_rfl⟩

/-- A field of the whole word is the word. -/
theorem putBits_whole (acc v : Word) : putBits acc 63 0 (bitsOf v 63 0) = v := by
  refine BitVec.eq_of_getLsbD_eq fun k hk => ?_
  rw [getLsbD_putBits, testBit_bitsOf]
  simp [hk]

/-! ## Member entries -/

theorem aMember_lt {n i w : Nat} (hn : n < 12) (hi : i < 16384) (hw : w < 4) : aMember n i w < 0xA000_0000 := by
  unfold aMember aCluster
  omega

theorem memberFields_noRw1 (w : Nat) : hasRw1 (memberFields w) = false := by
  unfold memberFields
  split <;> rfl

theorem memberWrite_free {s : State} {n i : Nat} (path w : Nat) (v : Word) (hn : clusterUp s n = true)
    (hfree : ∀ g ∈ groupsOnMember s n i, (groupAt s g).state ≠ gsActive) :
    memberWrite s path n i w v = ⟨regWrite s path (aMember n i w) (memberFields w) v, .ok⟩ := by
  have hany : (groupsOnMember s n i).any (fun g => (groupAt s g).state == gsActive) = false := by
    simpa using hfree
  exact (if_neg (by simp [hn])).trans (if_neg (by simp [hany]))

/-- A word of a member entry that no ACTIVE group uses. -/
theorem memberEntryWrite_shows {s : State} {n i w : Nat} (path : Nat) (v : Word) (h : manageable s)
    (hn : clusterUp s n = true) (hi : i < 16384) (hw : w < 4)
    (hfree : ∀ g ∈ groupsOnMember s n i, (groupAt s g).state ≠ gsActive) :
    ∃ t first, exec (.memberEntryWrite path n i w v) s = .next t
      ∧ rd t (aMember n i w) = mergedWord first (memberFields w) (rd s (aMember n i w)) v
      ∧ touchesOnly [.recorder] 0xA000_0000 [aMember n i w] s t := by
  obtain ⟨⟨first, hrd⟩, hframe⟩ := plainRow_shows (op := fun s => memberWrite s path n i w v) path h
    (aMember_lt (clusterUp_lt hn) hi hw) (memberFields_noRw1 w) (memberWrite_free path w v hn hfree)
  exact ⟨_, first, rfl, hrd, hframe⟩

theorem mergedWord_member0 (first : Bool) (old v : Word) (hk : bitsOf v 63 62 ≤ 2) (h1 : 1 ≤ bitsOf v 51 35)
    (h2 : bitsOf v 51 35 ≤ 65536) :
    bitsOf (mergedWord first (memberFields 0) old v) 63 19 = bitsOf v 63 19
      ∧ bitsOf (mergedWord first (memberFields 0) old v) 15 0 = bitsOf v 15 0 := by
  have hf : ∀ f ∈ [(63, 62), (61, 61), (60, 52), (51, 35), (34, 19), (15, 0)],
      bitsOf (mergedWord first (memberFields 0) old v) f.1 f.2 = bitsOf v f.1 f.2 := by
    simp [mergedWord, memberFields, putField, rw, rwIf, rsv, hk, h1, h2, bitsOf_putBits_copy, bitsOf_putBits_other]
  refine ⟨?_, hf (15, 0) (by simp)⟩
  exact bitsOf_split (mid := 61) (by decide) (by decide) (hf (63, 62) (by simp))
    (bitsOf_split (mid := 60) (by decide) (by decide) (hf (61, 61) (by simp))
      (bitsOf_split (mid := 51) (by decide) (by decide) (hf (60, 52) (by simp))
        (bitsOf_split (mid := 34) (by decide) (by decide) (hf (51, 35) (by simp)) (hf (34, 19) (by simp)))))

theorem mergedWord_member1 (first : Bool) (old v : Word) (h8 : v.toNat % 8 = 0) :
    mergedWord first (memberFields 1) old v = v := by
  have hv : bitsOf v 63 0 % 8 = 0 := by
    have : bitsOf v 63 0 = v.toNat := by
      rw [bitsOf, Nat.shiftRight_zero]
      exact Nat.mod_eq_of_lt v.isLt
    rw [this, h8]
  have hput : mergedWord first (memberFields 1) old v = putBits old 63 0 (bitsOf v 63 0) := by
    simp [mergedWord, memberFields, putField, rwIf, hv]
  rw [hput, putBits_whole]

theorem mergedWord_member2 (first : Bool) (old v : Word) :
    bitsOf (mergedWord first (memberFields 2) old v) 63 46 = bitsOf v 63 46
      ∧ bitsOf (mergedWord first (memberFields 2) old v) 39 0 = bitsOf v 39 0 := by
  simp [mergedWord, memberFields, putField, rw, rsv, bitsOf_putBits_copy, bitsOf_putBits_other]

theorem memberEntryWrite_busy {s : State} {n i g : Nat} (path w : Nat) (v : Word) (h : manageable s)
    (hg : g ∈ groupsOnMember s n i) (hst : (groupAt s g).state = gsActive) :
    exec (.memberEntryWrite path n i w v) s = .next s := by
  have hop : (memberWrite s path n i w v).out ≠ .ok ∧ (memberWrite s path n i w v).st = s := by
    have hany : (groupsOnMember s n i).any (fun g => (groupAt s g).state == gsActive) = true :=
      List.any_eq_true.mpr ⟨g, hg, by simp [hst]⟩
    cases hn : clusterUp s n with
    | false => simp [memberWrite, hn]
    | true => simp [memberWrite, hn, hany]
  exact congrArg Host.Outcome.next ((mgApply_not_ok h hop.1).trans hop.2)

/-! ## Output-scale histories -/

theorem aOscale_lt {g w : Nat} (hg : g < 65536) (hw : w < 16) : aOscale g w < 0xA000_0000 := by
  unfold aOscale
  omega

theorem oscaleFields_noRw1 (w : Nat) : hasRw1 (oscaleFields w) = false := by
  unfold oscaleFields
  repeat' split
  all_goals rfl

/-- A word of the history of a FALLOW group. -/
theorem oscaleWrite_shows {s : State} {g w : Nat} (path : Nat) (v : Word) (h : manageable s) (hg : g < 65536)
    (hw : w < 16) (hst : (groupAt s g).state = gsFallow) :
    ∃ t first, exec (.oscaleWrite path g w v) s = .next t
      ∧ rd t (aOscale g w) = mergedWord first (oscaleFields w) (rd s (aOscale g w)) v
      ∧ touchesOnly [.recorder] 0xA000_0000 [aOscale g w] s t := by
  obtain ⟨⟨first, hrd⟩, hframe⟩ := plainRow_shows (op := fun s => oscaleWrite s path g w v) path h (aOscale_lt hg hw)
    (oscaleFields_noRw1 w) (if_neg (not_not.mpr hst))
  exact ⟨_, first, rfl, hrd, hframe⟩

theorem mergedWord_oscaleEntry (first : Bool) (old v : Word) {w : Nat} (hw : w < 8) :
    mergedWord first (oscaleFields w) old v = v := by
  have hput : mergedWord first (oscaleFields w) old v = putBits old 63 0 (bitsOf v 63 0) := by
    simp [mergedWord, oscaleFields, hw, putField, rw]
  rw [hput, putBits_whole]

theorem mergedWord_oscaleState (first : Bool) (old v : Word) (h16 : bitsOf v 61 57 ≤ 16) :
    bitsOf (mergedWord first (oscaleFields 8) old v) 63 43 = bitsOf v 63 43
      ∧ bitsOf (mergedWord first (oscaleFields 8) old v) 42 0 = bitsOf old 42 0 := by
  have hf : ∀ f ∈ [(63, 62), (61, 57), (56, 53), (52, 46), (45, 43)],
      bitsOf (mergedWord first (oscaleFields 8) old v) f.1 f.2 = bitsOf v f.1 f.2 := by
    simp [mergedWord, oscaleFields, putField, rw, rwIf, ro, rsv, h16, bitsOf_putBits_copy, bitsOf_putBits_other]
  refine ⟨?_, ?_⟩
  · exact bitsOf_split (mid := 61) (by decide) (by decide) (hf (63, 62) (by simp))
      (bitsOf_split (mid := 56) (by decide) (by decide) (hf (61, 57) (by simp))
        (bitsOf_split (mid := 52) (by decide) (by decide) (hf (56, 53) (by simp))
          (bitsOf_split (mid := 45) (by decide) (by decide) (hf (52, 46) (by simp)) (hf (45, 43) (by simp)))))
  · simp [mergedWord, oscaleFields, putField, rw, rwIf, ro, rsv, h16, bitsOf_putBits_other]

theorem oscaleWrite_busy {s : State} {g : Nat} (path w : Nat) (v : Word) (h : manageable s)
    (hst : (groupAt s g).state ≠ gsFallow) : exec (.oscaleWrite path g w v) s = .next s := by
  have hop : oscaleWrite s path g w v = ⟨s, .refused rcGroupBusy⟩ := if_pos hst
  exact congrArg Host.Outcome.next ((mgApply_not_ok h (by rw [hop]; exact fun x => nomatch x)).trans (by rw [hop]))

/-- Settles O21: an accepted write leaves the word that the field types make of it. -/
theorem membersAndScales : Obligations.MembersAndScales := by
  unfold Obligations.MembersAndScales
  refine ⟨fun s path n i v h hn hi hfree hk h1 h2 => ?_, fun s path n i v h hn hi hfree h8 => ?_,
    fun s path n i v h hn hi hfree => ?_, fun s path n i w v g h hg hst => memberEntryWrite_busy path w v h hg hst,
    fun s path g w v h hg hw hst => ?_, fun s path g v h hg hst h16 => ?_,
    fun s path g w v h hst => oscaleWrite_busy path w v h hst⟩
  · obtain ⟨t, first, hx, hrd, hframe⟩ := memberEntryWrite_shows path v h hn hi (w := 0) (by decide) hfree
    obtain ⟨hup, hlo⟩ := mergedWord_member0 first (rd s (aMember n i 0)) v hk h1 h2
    exact ⟨t, hx, (congrArg (bitsOf · 63 19) hrd).trans hup, (congrArg (bitsOf · 15 0) hrd).trans hlo, hframe⟩
  · obtain ⟨t, first, hx, hrd, hframe⟩ := memberEntryWrite_shows path v h hn hi (w := 1) (by decide) hfree
    exact ⟨t, hx, hrd.trans (mergedWord_member1 first _ v h8), hframe⟩
  · obtain ⟨t, first, hx, hrd, hframe⟩ := memberEntryWrite_shows path v h hn hi (w := 2) (by decide) hfree
    obtain ⟨hup, hlo⟩ := mergedWord_member2 first (rd s (aMember n i 2)) v
    exact ⟨t, hx, (congrArg (bitsOf · 63 46) hrd).trans hup, (congrArg (bitsOf · 39 0) hrd).trans hlo, hframe⟩
  · obtain ⟨t, first, hx, hrd, hframe⟩ := oscaleWrite_shows path v h hg (show w < 16 by omega) hst
    exact ⟨t, hx, hrd.trans (mergedWord_oscaleEntry first _ v hw), hframe⟩
  · obtain ⟨t, first, hx, hrd, hframe⟩ := oscaleWrite_shows path v h hg (w := 8) (by decide) hst
    obtain ⟨hup, hlo⟩ := mergedWord_oscaleState first (rd s (aOscale g 8)) v h16
    exact ⟨t, hx, (congrArg (bitsOf · 63 43) hrd).trans hup, (congrArg (bitsOf · 42 0) hrd).trans hlo, hframe⟩

end Sys2Proof.Machine
end

section
/-! PROOFS. The plot commands (R339) and fences (R340). -/

namespace Sys2Proof.Machine

open Sys2Proof

/-- The word that gives a plot command. -/
def plotCmdWord (op p : Nat) : Word := bitsAt 63 60 op ||| bitsAt 11 0 p

/-- The fields of BND_PLOT_CMD (R339). -/
def plotCmdFields : List RField :=
  [⟨63, 60, .wo, fun w => 1 ≤ bitsOf w 63 60 && bitsOf w 63 60 ≤ 4⟩, rsv 59 12, wo 11 0]

theorem plotRow_eq (s : State) (path op p : Nat) :
    plotRow s path op p = mgApply s aPlotCmd (plotCmdWord op p) fun s =>
      cmdWrite s path aPlotCmd plotCmdFields (plotCmdWord op p) fun s =>
        plotCommand s (bitsOf (plotCmdWord op p) 63 60) (bitsOf (plotCmdWord op p) 11 0) := rfl

theorem bitsOf_plotCmdWord {op p : Nat} (hop : op < 16) (hp : p < 4096) :
    bitsOf (plotCmdWord op p) 63 60 = op ∧ bitsOf (plotCmdWord op p) 11 0 = p
      ∧ bitsOf (plotCmdWord op p) 59 12 = 0 := by
  simp only [plotCmdWord, bitsOf_or, bitsOf_bitsAt_same _ (show 63 < 64 by decide),
    bitsOf_bitsAt_same _ (show 11 < 64 by decide), bitsOf_bitsAt_other, show (11 : Nat) < 60 by decide,
    show (59 : Nat) < 60 by decide, show (11 : Nat) < 12 by decide, true_or, or_true, Nat.or_zero, Nat.zero_or]
  exact ⟨Nat.mod_eq_of_lt hop, Nat.mod_eq_of_lt hp, trivial⟩

/-- A plot command of a managed device: the command word is stored, the command runs, and an accepted one is
captured. -/
theorem plotRow_shows {s : State} (path : Nat) {op p : Nat} (h : manageable s) (h1 : 1 ≤ op) (h4 : op ≤ 4)
    (hp : p < 4096) : ∃ w, (∀ u, plotCommand (wr s aPlotCmd w) op p = (u, 0) →
        plotRow s path op p = captureWrite u aPlotCmd (plotCmdWord op p))
      ∧ ∀ u code, plotCommand (wr s aPlotCmd w) op p = (u, code) → code ≠ 0 → plotRow s path op p = u := by
  obtain ⟨hop, hplot, hres⟩ := bitsOf_plotCmdWord (show op < 16 by omega) hp
  have hrsv : touchesReserved plotCmdFields (plotCmdWord op p) = false := by
    simp [touchesReserved, plotCmdFields, rsv, wo, hres]
  have hrange : outOfRange plotCmdFields (plotCmdWord op p) = false := by
    simp [outOfRange, plotCmdFields, rsv, wo, hop, h1, h4]
  refine ⟨mergedWord (!s.mg.rw1.contains aPlotCmd) plotCmdFields (rd s aPlotCmd) (plotCmdWord op p), fun u hu => ?_,
    fun u code hu hc => ?_⟩ <;>
    rw [plotRow_eq, hop, hplot]
  · exact cmdRow_ok h rfl hrsv hrange rfl hu
  · exact cmdRow_refused h rfl hrsv hrange rfl hc hu

/-- What a plot command does before it reports (R339). -/
def plotMove (s : State) (op p : Nat) : State × Nat :=
  if op = 4 then (s, 0)
  else if p = 0 then (s, rcPlotBusy)
  else
    match op with
    | 1 => if plotState s p == psFallow then (wrf s (aPlot p 0) 63 62 psActive, 0) else (s, rcPlotBusy)
    | 2 => if plotState s p == psActive then (fallowPlot s p, 0) else (s, rcPlotBusy)
    | _ =>
      if plotState s p == psFallow && plotEmpty s p then
        (wrEntry s (aPlot p 0) ((List.range 8).map fun w => resetWord (aPlot p w)), 0)
      else (s, rcPlotBusy)

theorem plotCommand_of_move {s u : State} {op p code : Nat} (h : plotMove s op p = (u, code)) :
    plotCommand s op p = (plotReport u p code, code) := by
  have heq : plotCommand s op p = (plotReport (plotMove s op p).1 p (plotMove s op p).2, (plotMove s op p).2) := rfl
  rw [heq, h]

theorem aPlot_ne_cmd {p w : Nat} (hp : p < 4096) (hw : w < 8) : aPlot p w ≠ aPlotCmd := by
  unfold aPlot aPlotCmd
  omega

theorem plotState_wr_cmd {s : State} {w : Word} {p : Nat} (hp : p < 4096) :
    plotState (wr s aPlotCmd w) p = plotState s p :=
  rdf_congr (rd_wr_other (aPlot_ne_cmd hp (by decide)))

/-- What an accepted command answers, and a word of its plot afterwards. -/
theorem plotCapture_shows (u : State) {p : Nat} (v : Word) (hp : p < 4096) :
    let t := captureWrite (plotReport u p 0) aPlotCmd v
    (rdf t aPlotStat 63 56 = 0 ∧ rdf t aPlotStat 11 0 = p) ∧ ∀ w < 8, rd t (aPlot p w) = rd u (aPlot p w) := by
  intro t
  have hstat : ∀ hi lo, rdf t aPlotStat hi lo = rdf (plotReport u p 0) aPlotStat hi lo :=
    fun hi lo => rdf_congr (rd_captureWrite (by decide))
  refine ⟨⟨(hstat ..).trans (plotReport_shows u hp (by decide)).1, (hstat ..).trans (plotReport_shows u hp (by decide)).2⟩,
    fun w hw => ?_⟩
  exact (rd_captureWrite ((aPlot_lt hp hw).trans (by decide))).trans (rd_wr_other (Nat.ne_of_lt (aPlot_lt hp hw)))

/-- The frame of an accepted command that changes registers only. -/
theorem plotCapture_frame {s u : State} {p : Nat} {v : Word} {as : List Nat} (h : touchesOnly [] (2 ^ 64) as s u)
    (hm : aPlotStat ∈ as) :
    touchesOnly [.recorder] 0xA000_0000 as s (captureWrite (plotReport u p 0) aPlotCmd v) :=
  captureWrite_touches ((h.mono (by simp) (by decide) fun a ha => ha).wr (.inl hm)) (by simp) le_rfl

theorem plotQuery_shows {s : State} (path : Nat) {p : Nat} (h : manageable s) (hp : p < 4096) :
    ∃ t, exec (.plotQuery path p) s = .next t ∧ (rdf t aPlotStat 63 56 = 0 ∧ rdf t aPlotStat 11 0 = p)
      ∧ touchesOnly [.recorder] 0xA000_0000 [aPlotCmd, aPlotStat] s t := by
  obtain ⟨w, hrow, -⟩ := plotRow_shows path (op := 4) h (by decide) (by decide) hp
  refine ⟨_, congrArg Host.Outcome.next (hrow (plotReport (wr s aPlotCmd w) p 0) rfl), (plotCapture_shows _ _ hp).1, ?_⟩
  exact plotCapture_frame ((touchesOnly.refl _ _ _ s).wr (.inl (by simp))) (by simp)

theorem plotActivate_shows {s : State} (path : Nat) {p : Nat} (h : manageable s) (hp : p < 4096) (h0 : p ≠ 0)
    (hst : plotState s p = psFallow) : ∃ t, exec (.plotActivate path p) s = .next t
      ∧ (rdf t aPlotStat 63 56 = 0 ∧ rdf t aPlotStat 11 0 = p) ∧ plotState t p = psActive
      ∧ touchesOnly [.recorder] 0xA000_0000 [aPlotCmd, aPlotStat, aPlot p 0] s t := by
  obtain ⟨w, hrow, -⟩ := plotRow_shows path (op := 1) h (by decide) (by decide) hp
  have hcmd : plotMove (wr s aPlotCmd w) 1 p = (wrf (wr s aPlotCmd w) (aPlot p 0) 63 62 psActive, 0) := by
    simp [plotMove, plotState_wr_cmd hp, hst, h0]
  refine ⟨_, congrArg Host.Outcome.next (hrow _ (plotCommand_of_move hcmd)), (plotCapture_shows _ _ hp).1, ?_, ?_⟩
  · rw [plotState, rdf, (plotCapture_shows _ _ hp).2 0 (by decide)]
    exact rdf_wrf_fits _ _ (by decide) (by decide)
  · exact plotCapture_frame (((touchesOnly.refl _ _ _ s).wr (.inl (by simp))).wrf (.inl (by simp))) (by simp)

theorem plotFallow_shows {s : State} (path : Nat) {p : Nat} (h : manageable s) (hp : p < 4096) (h0 : p ≠ 0)
    (hst : plotState s p = psActive) : ∃ u, plotState u p = psFallow
      ∧ touchesOnly [] (2 ^ 64) [aPlotCmd, aPlot p 0] s u
      ∧ exec (.plotFallow path p) s = .next (captureWrite
        (plotReport (settle (failGroups u 4 fun r => (groupAt u r.group).plot == p)) p 0) aPlotCmd
        (bitsAt 63 60 2 ||| bitsAt 11 0 p)) := by
  obtain ⟨w, hrow, -⟩ := plotRow_shows path (op := 2) h (by decide) (by decide) hp
  have hcmd : plotMove (wr s aPlotCmd w) 2 p = (fallowPlot (wr s aPlotCmd w) p, 0) := by
    simp [plotMove, plotState_wr_cmd hp, hst, h0]
  refine ⟨wrf (wr s aPlotCmd w) (aPlot p 0) 63 62 psFallow, rdf_wrf_fits _ _ (by decide) (by decide),
    ((touchesOnly.refl _ _ _ s).wr (.inl (by simp))).wrf (.inl (by simp)), congrArg Host.Outcome.next (hrow _ (plotCommand_of_move hcmd))⟩

/-- A freed plot's words are those after reset. -/
theorem plotFreed_shows (u : State) (p : Nat) :
    let t := wrEntry u (aPlot p 0) ((List.range 8).map fun w => resetWord (aPlot p w))
    (∀ w < 8, rd t (aPlot p w) = resetWord (aPlot p w))
      ∧ touchesOnly [] (2 ^ 64) ((List.range 8).map (aPlot p)) u t := by
  intro t
  refine ⟨fun w hw => ?_, (touchesOnly.refl _ _ _ u).wrEntry fun i hi => .inl ?_⟩
  · have hword : wordAt ((List.range 8).map fun w => resetWord (aPlot p w)) w = resetWord (aPlot p w) := by
      simp [wordAt, hw]
    rw [← hword, aPlot_at]
    exact rd_wrEntry_at _ u (by simpa using hw)
  · exact List.mem_map.mpr ⟨i, List.mem_range.mpr (by simpa using hi), aPlot_at p i⟩

theorem plotFree_shows {s : State} (path : Nat) {p : Nat} (h : manageable s) (hp : p < 4096) :
    ∃ u, touchesOnly [] (2 ^ 64) [aPlotCmd] s u
      ∧ (p ≠ 0 → plotState s p = psFallow → plotEmpty u p = true →
        ∃ t, exec (.plotFree path p) s = .next t ∧ (rdf t aPlotStat 63 56 = 0 ∧ rdf t aPlotStat 11 0 = p)
          ∧ (∀ w, w < 8 → rd t (aPlot p w) = resetWord (aPlot p w))
          ∧ touchesOnly [.recorder] 0xA000_0000 (aPlotCmd :: aPlotStat :: (List.range 8).map (aPlot p)) s t)
      ∧ (p = 0 ∨ plotState s p ≠ psFallow ∨ plotEmpty u p = false →
        ∃ t, exec (.plotFree path p) s = .next t ∧ (rdf t aPlotStat 63 56 = 0x60 ∧ rdf t aPlotStat 11 0 = p)
          ∧ touchesOnly [] (2 ^ 64) [aPlotCmd, aPlotStat] s t) := by
  obtain ⟨w, hok, hbad⟩ := plotRow_shows path (op := 3) h (by decide) (by decide) hp
  have hsent : touchesOnly [] (2 ^ 64) [aPlotCmd] s (wr s aPlotCmd w) :=
    (touchesOnly.refl _ _ _ s).wr (.inl (by simp))
  refine ⟨wr s aPlotCmd w, hsent, fun h0 hst hempty => ?_, fun hno => ?_⟩
  · have hcmd : plotMove (wr s aPlotCmd w) 3 p = (wrEntry (wr s aPlotCmd w) (aPlot p 0)
        ((List.range 8).map fun w => resetWord (aPlot p w)), 0) := by
      simp [plotMove, plotState_wr_cmd hp, hst, hempty, h0]
    obtain ⟨hwords, hframe⟩ := plotFreed_shows (wr s aPlotCmd w) p
    refine ⟨_, congrArg Host.Outcome.next (hok _ (plotCommand_of_move hcmd)), (plotCapture_shows _ _ hp).1,
      fun w hw => ((plotCapture_shows _ _ hp).2 w hw).trans (hwords w hw), ?_⟩
    exact plotCapture_frame ((hsent.mono (by simp) le_rfl (by simp)).trans
      (hframe.mono (by simp) le_rfl fun a ha => List.mem_cons_of_mem _ (List.mem_cons_of_mem _ ha))) (by simp)
  · have hcmd : plotMove (wr s aPlotCmd w) 3 p = (wr s aPlotCmd w, rcPlotBusy) := by
      by_cases h0 : p = 0
      · simp [plotMove, h0]
      · have hbusy : ¬(plotState s p = psFallow ∧ plotEmpty (wr s aPlotCmd w) p = true) := fun hc => by
          rcases hno with hno | hno | hno
          · exact h0 hno
          · exact hno hc.1
          · exact absurd hc.2 (by rw [hno]; decide)
        simp [plotMove, h0, plotState_wr_cmd hp, hbusy]
    exact ⟨_, congrArg Host.Outcome.next (hbad _ _ (plotCommand_of_move hcmd) (by decide)), plotReport_shows _ hp (by decide),
      (hsent.mono (by simp) le_rfl (by simp)).wr (.inl (by simp))⟩

theorem plotMove_refused {s : State} {path p : Nat} {c : Instr} (h : manageable s) (hp : p < 4096)
    (hc : c = .plotActivate path p ∧ (p = 0 ∨ plotState s p ≠ psFallow)
      ∨ c = .plotFallow path p ∧ (p = 0 ∨ plotState s p ≠ psActive)) :
    ∃ t, exec c s = .next t ∧ (rdf t aPlotStat 63 56 = 0x60 ∧ rdf t aPlotStat 11 0 = p)
      ∧ touchesOnly [] (2 ^ 64) [aPlotCmd, aPlotStat] s t := by
  have hrefuse : ∀ {op : Nat}, 1 ≤ op → op ≤ 4 → exec c s = .next (plotRow s path op p) →
      (∀ w, plotMove (wr s aPlotCmd w) op p = (wr s aPlotCmd w, rcPlotBusy)) →
      ∃ t, exec c s = .next t ∧ (rdf t aPlotStat 63 56 = 0x60 ∧ rdf t aPlotStat 11 0 = p)
        ∧ touchesOnly [] (2 ^ 64) [aPlotCmd, aPlotStat] s t := fun h1 h4 hx hcmd => by
    obtain ⟨w, -, hbad⟩ := plotRow_shows path h h1 h4 hp
    exact ⟨_, hx.trans (congrArg Host.Outcome.next (hbad _ _ (plotCommand_of_move (hcmd w)) (by decide))), plotReport_shows _ hp (by decide),
      ((touchesOnly.refl _ _ _ s).wr (.inl (by simp))).wr (.inl (by simp))⟩
  rcases hc with ⟨rfl, hst⟩ | ⟨rfl, hst⟩
  · refine hrefuse (op := 1) (by decide) (by decide) rfl fun w => ?_
    by_cases h0 : p = 0
    · simp [plotMove, h0]
    · simp [plotMove, h0, plotState_wr_cmd hp, hst.resolve_left h0]
  · refine hrefuse (op := 2) (by decide) (by decide) rfl fun w => ?_
    by_cases h0 : p = 0
    · simp [plotMove, h0]
    · simp [plotMove, h0, plotState_wr_cmd hp, hst.resolve_left h0]

/-! ## Fences -/

/-- The field of a fence word: plot 0 only on a management-capable port. -/
def fenceFields (s : State) (p j : Nat) : List RField :=
  [⟨63, 0, .rw, fun w => !(j == 0 && bitOf w 0 && !rdb s (aCable p) 59)⟩]

theorem aFence_lt {p j : Nat} (hp : p < 512) (hj : j < 64) : aFence p j < 0xA000_0000 := by
  unfold aFence aPrt
  omega

/-- A fence write of a configured port applies its one field. -/
theorem plotFenceWrite_row {s : State} {p : Nat} (path j : Nat) (v : Word) (hcfg : cfgWidth s p ≠ 0) :
    fenceWrite s path p j v = ⟨regWrite s path (aFence p j) (fenceFields s p j) v, .ok⟩ := if_neg hcfg

theorem plotFenceWrite_shows {s : State} {p j : Nat} (path : Nat) {v : Word} (h : manageable s) (hp : p < 512)
    (hj : j < 64) (hcfg : cfgWidth s p ≠ 0) (hmg : j = 0 → bitOf v 0 = true → rdb s (aCable p) 59 = true) :
    ∃ t, exec (.plotFenceWrite path p j v) s = .next t ∧ rd t (aFence p j) = v
      ∧ touchesOnly [.recorder] 0xA000_0000 [aFence p j] s t := by
  obtain ⟨⟨first, hrd⟩, hframe⟩ := plainRow_shows (op := fun s => fenceWrite s path p j v) path h (aFence_lt hp hj) rfl
    (plotFenceWrite_row path j v hcfg)
  refine ⟨_, rfl, hrd.trans ?_, hframe⟩
  have hlegal : (!(j == 0 && bitOf v 0 && !rdb s (aCable p) 59)) = true := by
    by_cases hb : j = 0 ∧ bitOf v 0 = true
    · simp [hmg hb.1 hb.2]
    · simp only [Bool.not_eq_true', Bool.and_eq_false_iff, beq_eq_false_iff_ne]
      by_cases h0 : j = 0
      · exact .inl (.inr (by simpa [h0] using hb))
      · exact .inl (.inl h0)
  have hput : mergedWord first (fenceFields s p j) (rd s (aFence p j)) v
      = putBits (rd s (aFence p j)) 63 0 (bitsOf v 63 0) := if_pos hlegal
  rw [hput, putBits_whole]

theorem plotFenceWrite_refused {s : State} {p : Nat} (path : Nat) {v : Word} (h : manageable s) (hp : p < 512)
    (hcfg : cfgWidth s p ≠ 0) (h0 : bitOf v 0 = true) (hmg : rdb s (aCable p) 59 = false) :
    ∃ t, exec (.plotFenceWrite path p 0 v) s = .next t ∧ touchesOnly [.recorder] 0xA000_0000 [] s t := by
  obtain ⟨⟨first, hrd⟩, hpend, hparts, hregs⟩ := plainRow_shows (op := fun s => fenceWrite s path p 0 v) path h
    (aFence_lt hp (by decide)) rfl (plotFenceWrite_row path 0 v hcfg)
  have hput : mergedWord first (fenceFields s p 0) (rd s (aFence p 0)) v = rd s (aFence p 0) :=
    if_neg (by simp [h0, hmg])
  refine ⟨_, rfl, hpend, hparts, fun a ha _ => ?_⟩
  by_cases hf : a = aFence p 0
  · rw [hf]
    exact hrd.trans hput
  · exact hregs a ha (by simpa using hf)

/-- Settles O22: every command is the command word stored and its one branch of the operation; a fence word is
one field. -/
theorem plotCommands : Obligations.PlotCommands := by
  unfold Obligations.PlotCommands
  refine ⟨fun s path p h hp => ?_, fun s path p j v h hp hj hcfg hmg => plotFenceWrite_shows path h hp hj hcfg hmg,
    fun s path p v h hp hcfg h0 hmg => plotFenceWrite_refused path h hp hcfg h0 hmg⟩
  exact ⟨plotQuery_shows path h hp, fun h0 hst => plotActivate_shows path h hp h0 hst,
    fun h0 hst => plotFallow_shows path h hp h0 hst, plotFree_shows path h hp, fun c hc => plotMove_refused h hp hc⟩

end Sys2Proof.Machine
end

section
/-! PROOFS. The headland role (R343 to R345). -/

namespace Sys2Proof.Machine

open Sys2Proof

/-- The parts that a change of the role may reach through its ports. -/
def roleParts : List Part :=
  [.fabric, .links, .granary, .binding, .cores, .stack, .stackMemory, .verdicts, .advance, .recorder, .yield]

/-- The fields of GLB_ROLE_CMD (R345). -/
def roleCmdFields : List RField :=
  [⟨63, 60, .wo, fun w => 1 ≤ bitsOf w 63 60 && bitsOf w 63 60 ≤ 2⟩, rsv 59 0]

theorem roleCmdWrite_eq (s : State) (path : Nat) (v : Word) :
    roleCmdWrite s path v
      = cmdWrite s path aRoleCmd roleCmdFields v fun s => roleCommand s (bitsOf v 63 60) := rfl

/-- A role command of a managed device: the command word is stored, the command runs, and an accepted one is
captured. -/
theorem roleRow_shows {s : State} (path : Nat) {op : Nat} (h : manageable s) (hop : op = 1 ∨ op = 2) :
    ∃ w, (∀ u, roleCommand (wr s aRoleCmd w) op = (u, 0) →
        mgApply s aRoleCmd (bitsAt 63 60 op) (fun s => roleCmdWrite s path (bitsAt 63 60 op))
          = captureWrite u aRoleCmd (bitsAt 63 60 op))
      ∧ ∀ u code, roleCommand (wr s aRoleCmd w) op = (u, code) → code ≠ 0 →
        mgApply s aRoleCmd (bitsAt 63 60 op) (fun s => roleCmdWrite s path (bitsAt 63 60 op)) = u := by
  have hbits : bitsOf (bitsAt 63 60 op) 63 60 = op ∧ bitsOf (bitsAt 63 60 op) 59 0 = 0 := by
    rcases hop with rfl | rfl <;> decide
  have hrsv : touchesReserved roleCmdFields (bitsAt 63 60 op) = false := by
    simp [touchesReserved, roleCmdFields, rsv, hbits.2]
  have hrange : outOfRange roleCmdFields (bitsAt 63 60 op) = false := by
    simp only [outOfRange, roleCmdFields, List.any_cons, hbits.1]
    rcases hop with rfl | rfl <;> rfl
  refine ⟨mergedWord (!s.mg.rw1.contains aRoleCmd) roleCmdFields (rd s aRoleCmd) (bitsAt 63 60 op), fun u hu => ?_,
    fun u code hu hc => ?_⟩ <;>
    simp only [roleCmdWrite_eq, hbits.1]
  · exact cmdRow_ok h rfl hrsv hrange rfl hu
  · exact cmdRow_refused h rfl hrsv hrange rfl hc hu

/-- Why a role command is refused, 0 for none (R345). -/
def roleCode (s : State) (op : Nat) : Nat :=
  if !rdb s aRole 61 then rcNotHeadland
  else if op = 1 && roleState s == roleServing then rcRoleState
  else if op = 2 && roleState s == roleStandby then rcRoleState
  else if op = 1 && rdf s aRole 60 43 == 0x3FFFF then rcNoRole
  else if op = 1 && rd s aFwdEpoch == 0 then rcNoTables
  else 0

theorem roleCommand_eq (s : State) (op : Nat) :
    roleCommand s op = if roleCode s op ≠ 0 then (wrf s aRole 42 35 (roleCode s op), roleCode s op)
      else if op = 1 then (adopt (wrf s aRole 42 35 (roleCode s op)), 0)
      else (standDown (wrf s aRole 42 35 (roleCode s op)), 0) := rfl

theorem rd_wr_roleCmd {s : State} {w : Word} {a : Nat} (ha : a ≠ aRoleCmd) : rd (wr s aRoleCmd w) a = rd s a :=
  rd_wr_other ha

theorem roleCode_wr (s : State) (w : Word) (op : Nat) : roleCode (wr s aRoleCmd w) op = roleCode s op := by
  have hrole : ∀ hi lo, rdf (wr s aRoleCmd w) aRole hi lo = rdf s aRole hi lo := fun hi lo =>
    rdf_congr (rd_wr_other (by decide))
  have hhead : rdb (wr s aRoleCmd w) aRole 61 = rdb s aRole 61 := rdb_congr (rd_wr_other (by decide))
  have hepoch : rd (wr s aRoleCmd w) aFwdEpoch = rd s aFwdEpoch := rd_wr_other (by decide)
  rw [roleCode, roleState, hrole, hrole, hhead, hepoch]
  rfl

/-! ## Accepted commands -/

/-- What ADOPT does after the role serves. -/
theorem adopt_keeps_serving (s : State) :
    Keeps 198446063 (bumpMod (wrf s aRole 63 62 roleServing) aRole 31 0 1) (adopt s) := by
  unfold adopt
  extract_lets -underBinder -merge -useContext +onlyGivenNames serving logged
  have hlogged : Keeps 198446063 serving logged := event_keeps rfl (.refl _ serving)
  clear_value logged
  refine forAll_keeps (fun u p hu => ?_) hlogged
  exact keeps_ite (P := Keeps 198446063 serving) (fun _ => portRestore_keeps rfl hu) fun _ => hu

/-- ADOPT leaves the low registers but the role's, and the role serves under the next term. -/
theorem adopt_shows (s : State) :
    roleState (adopt s) = roleServing ∧ rdf (adopt s) aRole 31 0 = (rdf s aRole 31 0 + 1) % 2 ^ 32
      ∧ rdf (adopt s) aRole 60 35 = rdf s aRole 60 35 ∧ touchesOnly roleParts 0x1000_0000 [aRole] s (adopt s) := by
  let x := bumpMod (wrf s aRole 63 62 roleServing) aRole 31 0 1
  have hx : touchesOnly roleParts 0x1000_0000 [aRole] s x :=
    ((touchesOnly.refl _ _ _ s).wrf (.inl (by simp))).wrf (.inl (by simp))
  have hkeeps : Keeps 198446063 x (adopt s) := adopt_keeps_serving s
  have hrd : ∀ hi lo, rdf (adopt s) aRole hi lo = rdf x aRole hi lo := fun hi lo =>
    rdf_congr (hkeeps.below (k := 2) (by decide) (by decide))
  refine ⟨(hrd ..).trans ?_, (hrd ..).trans ?_, (hrd ..).trans ?_, ?_⟩
  · exact (rdf_wrf_field _ _ _ (by decide)).trans (rdf_wrf_fits _ _ (by decide) (by decide))
  · refine (rdf_wrf_same _ _ _ (by decide)).trans ?_
    rw [rdf_wrf_field _ _ _ (by decide)]
  · exact (rdf_wrf_field _ _ _ (by decide)).trans (rdf_wrf_field _ _ _ (by decide))
  · exact touchesOnly.keeps (k := 2) hx hkeeps (by decide) (by decide)

theorem standDown_shows (s : State) :
    roleState (standDown s) = roleStandby ∧ rdf (standDown s) aRole 60 43 = 0x3FFFF
      ∧ rdf (standDown s) aRole 42 0 = rdf s aRole 42 0
      ∧ touchesOnly roleParts 0x1000_0000 [aRole] s (standDown s) := by
  let x := wrf (wrf s aRole 63 62 roleStandby) aRole 60 43 0x3FFFF
  have hx : touchesOnly roleParts 0x1000_0000 [aRole] s x :=
    ((touchesOnly.refl _ _ _ s).wrf (.inl (by simp))).wrf (.inl (by simp))
  have hkeeps : Keeps 265554943 x (standDown s) :=
    settle_keeps rfl (forAll_keeps (fun u p hu => orderFallow_keeps rfl hu) (.refl _ x))
  have hrd : ∀ hi lo, rdf (standDown s) aRole hi lo = rdf x aRole hi lo := fun hi lo =>
    rdf_congr (hkeeps.below (k := 2) (by decide) (by decide))
  refine ⟨(hrd ..).trans ?_, (hrd ..).trans ?_, (hrd ..).trans ?_, ?_⟩
  · exact (rdf_wrf_field _ _ _ (by decide)).trans (rdf_wrf_fits _ _ (by decide) (by decide))
  · exact rdf_wrf_fits _ _ (by decide) (by decide)
  · exact (rdf_wrf_field _ _ _ (by decide)).trans (rdf_wrf_field _ _ _ (by decide))
  · exact touchesOnly.keeps (k := 2) hx hkeeps (by decide) (by decide)

/-- The frame of an accepted role command. -/
theorem roleRow_frame {s u : State} {v w : Word} {code : Nat}
    (h : touchesOnly roleParts 0x1000_0000 [aRole] (wrf (wr s aRoleCmd w) aRole 42 35 code) u) :
    touchesOnly roleParts 0x1000_0000 [aRole, aRoleCmd] s (captureWrite u aRoleCmd v) := by
  have hsent : touchesOnly roleParts 0x1000_0000 [aRole, aRoleCmd] s (wrf (wr s aRoleCmd w) aRole 42 35 code) :=
    ((touchesOnly.refl _ _ _ s).wr (.inl (by simp))).wrf (.inl (by simp))
  exact captureWrite_touches (hsent.trans (h.mono (fun _ hp => hp) le_rfl (by simp))) (by simp [roleParts]) (by decide)

theorem rdf_role_sent {s : State} {w : Word} {hi lo : Nat} (hf : hi < 35 ∨ 42 < lo) :
    rdf (wrf (wr s aRoleCmd w) aRole 42 35 0) aRole hi lo = rdf s aRole hi lo :=
  (rdf_wrf_field _ _ _ hf).trans (rdf_congr (rd_wr_other (by decide)))

theorem rdf_roleCapture {u : State} {v : Word} {hi lo : Nat} :
    rdf (captureWrite u aRoleCmd v) aRole hi lo = rdf u aRole hi lo := rdf_congr (rd_captureWrite (by decide))

/-- A part of a field that two words share. -/
theorem bitsOf_within {v w : Word} {hi lo hi' lo' : Nat} (h : bitsOf v hi lo = bitsOf w hi lo) (hh : hi' ≤ hi)
    (hl : lo ≤ lo') : bitsOf v hi' lo' = bitsOf w hi' lo' := by
  refine Nat.eq_of_testBit_eq fun k => ?_
  have hk := congrArg (Nat.testBit · (lo' - lo + k)) h
  simp only [testBit_bitsOf, show lo + (lo' - lo + k) = lo' + k by omega] at hk
  rw [testBit_bitsOf, testBit_bitsOf]
  by_cases hin : k < hi' + 1 - lo'
  · simpa [hin, show lo' - lo + k < hi + 1 - lo by omega] using hk
  · simp [hin]

theorem adoptRow_shows {s : State} (path : Nat) (h : manageable s) (hhead : rdb s aRole 61 = true)
    (hst : roleState s ≠ roleServing) (hof : rdf s aRole 60 43 ≠ 0x3FFFF) (hep : rd s aFwdEpoch ≠ 0) :
    ∃ t, exec (.adopt path) s = .next t ∧ roleState t = roleServing
      ∧ rdf t aRole 31 0 = (rdf s aRole 31 0 + 1) % 2 ^ 32 ∧ rdf t aRole 60 43 = rdf s aRole 60 43
      ∧ rdf t aRole 42 35 = 0 ∧ touchesOnly roleParts 0x1000_0000 [aRole, aRoleCmd] s t := by
  obtain ⟨w, hok, -⟩ := roleRow_shows path h (.inl rfl)
  let x := wrf (wr s aRoleCmd w) aRole 42 35 0
  have hcode : roleCode (wr s aRoleCmd w) 1 = 0 := by
    rw [roleCode_wr]
    have hep' : (rd s aFwdEpoch == 0) = false := beq_eq_false_iff_ne.mpr hep
    simp only [roleCode, hhead, hep']
    simp [hst, hof]
  have hcmd : roleCommand (wr s aRoleCmd w) 1 = (adopt x, 0) := by
    rw [roleCommand_eq, hcode, if_neg (by decide), if_pos rfl]
  obtain ⟨hserving, hterm, hmid, hframe⟩ := adopt_shows x
  refine ⟨_, congrArg Host.Outcome.next (hok _ hcmd), rdf_roleCapture.trans hserving, rdf_roleCapture.trans ?_,
    rdf_roleCapture.trans ?_, rdf_roleCapture.trans ?_, roleRow_frame hframe⟩
  · rw [hterm, rdf_role_sent (.inl (by decide))]
  · exact (bitsOf_within hmid (by decide) (by decide)).trans (rdf_role_sent (.inr (by decide)))
  · exact (bitsOf_within hmid (by decide) (by decide)).trans (rdf_wrf_fits _ _ (by decide) (by decide))

theorem standDownRow_shows {s : State} (path : Nat) (h : manageable s) (hhead : rdb s aRole 61 = true)
    (hst : roleState s ≠ roleStandby) : ∃ t, exec (.standDown path) s = .next t ∧ roleState t = roleStandby
      ∧ rdf t aRole 60 43 = 0x3FFFF ∧ rdf t aRole 42 35 = 0 ∧ rdf t aRole 31 0 = rdf s aRole 31 0
      ∧ touchesOnly roleParts 0x1000_0000 [aRole, aRoleCmd] s t := by
  obtain ⟨w, hok, -⟩ := roleRow_shows path h (.inr rfl)
  let x := wrf (wr s aRoleCmd w) aRole 42 35 0
  have hcode : roleCode (wr s aRoleCmd w) 2 = 0 := by
    rw [roleCode_wr]
    simp [roleCode, hhead, hst]
  have hcmd : roleCommand (wr s aRoleCmd w) 2 = (standDown x, 0) := by
    rw [roleCommand_eq, hcode, if_neg (by decide), if_neg (by decide)]
  obtain ⟨hstandby, hof, hlow, hframe⟩ := standDown_shows x
  refine ⟨_, congrArg Host.Outcome.next (hok _ hcmd), rdf_roleCapture.trans hstandby, rdf_roleCapture.trans hof,
    rdf_roleCapture.trans ?_, rdf_roleCapture.trans ?_, roleRow_frame hframe⟩
  · exact (bitsOf_within hlow (by decide) (by decide)).trans (rdf_wrf_fits _ _ (by decide) (by decide))
  · exact (bitsOf_within hlow (by decide) (by decide)).trans (rdf_role_sent (.inl (by decide)))

/-! ## Refused commands and ROLE_OF -/

/-- A refused role command changes RESULT and its own register. -/
theorem roleRow_refused {s : State} {c : Instr} {path op code : Nat} (h : manageable s) (hop : op = 1 ∨ op = 2)
    (hx : exec c s = .next (mgApply s aRoleCmd (bitsAt 63 60 op) fun s => roleCmdWrite s path (bitsAt 63 60 op)))
    (hcode : roleCode s op = code) (hne : code ≠ 0) (hlt : code < 256) :
    ∃ t, exec c s = .next t ∧ rdf t aRole 42 35 = code
      ∧ changesOnly [] [(aRole, 42, 35), (aRoleCmd, 63, 0)] s t := by
  obtain ⟨w, -, hbad⟩ := roleRow_shows path h hop
  have hcmd : roleCommand (wr s aRoleCmd w) op = (wrf (wr s aRoleCmd w) aRole 42 35 code, code) := by
    rw [roleCommand_eq, roleCode_wr, hcode, if_pos hne]
  exact ⟨_, hx.trans (congrArg Host.Outcome.next (hbad _ _ hcmd hne)), rdf_wrf_fits _ _ (by decide) hlt,
    ((changesOnly.refl _ _ s).wr (by simp)).wrf (by simp)⟩

theorem role_refused {s : State} {path code : Nat} {c : Instr} (h : manageable s)
    (hc : (c = .adopt path ∨ c = .standDown path) ∧ rdb s aRole 61 = false ∧ code = 0x50
      ∨ c = .adopt path ∧ rdb s aRole 61 = true ∧ (roleState s = roleServing ∧ code = 0x51
        ∨ roleState s ≠ roleServing ∧ (rdf s aRole 60 43 = 0x3FFFF ∧ code = 0x52
          ∨ rdf s aRole 60 43 ≠ 0x3FFFF ∧ rd s aFwdEpoch = 0 ∧ code = 0x53))
      ∨ c = .standDown path ∧ rdb s aRole 61 = true ∧ roleState s = roleStandby ∧ code = 0x51) :
    ∃ t, exec c s = .next t ∧ rdf t aRole 42 35 = code
      ∧ changesOnly [] [(aRole, 42, 35), (aRoleCmd, 63, 0)] s t := by
  have hadopt : ∀ code, roleCode s 1 = code → code ≠ 0 → code < 256 → ∃ t, exec (.adopt path) s = .next t
      ∧ rdf t aRole 42 35 = code ∧ changesOnly [] [(aRole, 42, 35), (aRoleCmd, 63, 0)] s t :=
    fun code => roleRow_refused h (.inl rfl) rfl
  have hdown : ∀ code, roleCode s 2 = code → code ≠ 0 → code < 256 → ∃ t, exec (.standDown path) s = .next t
      ∧ rdf t aRole 42 35 = code ∧ changesOnly [] [(aRole, 42, 35), (aRoleCmd, 63, 0)] s t :=
    fun code => roleRow_refused h (.inr rfl) rfl
  rcases hc with ⟨rfl | rfl, hno, rfl⟩ | ⟨rfl, hhead, hc⟩ | ⟨rfl, hhead, hst, rfl⟩
  · exact hadopt _ (by simp [roleCode, hno, rcNotHeadland]) (by decide) (by decide)
  · exact hdown _ (by simp [roleCode, hno, rcNotHeadland]) (by decide) (by decide)
  · rcases hc with ⟨hst, rfl⟩ | ⟨hst, ⟨hof, rfl⟩ | ⟨hof, hep, rfl⟩⟩
    · exact hadopt _ (by simp [roleCode, hhead, hst, rcRoleState]) (by decide) (by decide)
    · exact hadopt _ (by simp [roleCode, hhead, hst, hof, rcNoRole]) (by decide) (by decide)
    · exact hadopt _ (by simp [roleCode, hhead, hst, hof, hep, rcNoTables]) (by decide) (by decide)
  · exact hdown _ (by simp [roleCode, hhead, hst, rcRoleState]) (by decide) (by decide)

/-- The fields of GLB_ROLE: ROLE_OF is written in STANDBY alone (R344). -/
def roleFields (s : State) : List RField :=
  [ro 63 62, ro 61 61, rwIf 60 43 (fun _ => roleState s == roleStandby), ro 42 35, rsv 34 32, ro 31 0]

theorem roleOfWrite_shows {s : State} (path : Nat) (v : Word) (h : manageable s) (hst : roleState s = roleStandby) :
    ∃ t, exec (.roleOfWrite path v) s = .next t ∧ rdf t aRole 60 43 = bitsOf v 60 43
      ∧ rdf t aRole 63 61 = rdf s aRole 63 61 ∧ rdf t aRole 42 0 = rdf s aRole 42 0
      ∧ touchesOnly [.recorder] 0xA000_0000 [aRole] s t := by
  obtain ⟨⟨first, hrd⟩, hframe⟩ := plainRow_shows (op := fun s => roleWrite s path v) (fs := roleFields s) path h
    (by decide) rfl rfl
  have hword : mergedWord first (roleFields s) (rd s aRole) v = putBits (rd s aRole) 60 43 (bitsOf v 60 43) :=
    if_pos (by simpa [rwIf] using hst)
  refine ⟨_, rfl, ?_, ?_, ?_, hframe⟩ <;> rw [rdf, hrd, hword]
  · exact bitsOf_putBits_copy _ _ (by decide)
  · exact bitsOf_putBits_other _ _ (by decide)
  · exact bitsOf_putBits_other _ _ (by decide)

theorem roleOfWrite_refused {s : State} (path : Nat) (v : Word) (h : manageable s) (hst : roleState s ≠ roleStandby) :
    ∃ t, exec (.roleOfWrite path v) s = .next t ∧ touchesOnly [.recorder] 0xA000_0000 [] s t := by
  obtain ⟨⟨first, hrd⟩, hpend, hparts, hregs⟩ := plainRow_shows (op := fun s => roleWrite s path v)
    (fs := roleFields s) path h (by decide) rfl rfl
  have hword : mergedWord first (roleFields s) (rd s aRole) v = rd s aRole := if_neg (by simpa [rwIf] using hst)
  refine ⟨_, rfl, hpend, hparts, fun a ha _ => ?_⟩
  by_cases hr : a = aRole
  · rw [hr]
    exact hrd.trans hword
  · exact hregs a ha (by simpa using hr)

/-- Settles O23: a command's code is judged first; what ADOPT and STAND_DOWN then do to the ports leaves the role's
word and the low registers. -/
theorem headlandRole : Obligations.HeadlandRole := by
  unfold Obligations.HeadlandRole
  intro s path h
  exact ⟨fun hhead hst hof hep => adoptRow_shows path h hhead hst hof hep,
    fun hhead hst => standDownRow_shows path h hhead hst, fun c code hc => role_refused h hc,
    fun v hst => roleOfWrite_shows path v h hst, fun v hst => roleOfWrite_refused path v h hst⟩

end Sys2Proof.Machine
end

section
/-! PROOFS. Yield maps (R116, R346 to R349), and what placing a frame leaves of the registers above the buffers'
status words. -/

namespace Sys2Proof.Machine

open Sys2Proof

/-! ## Frames that the device builds -/

/-- The registers between the buffers' status words and the event log are the same. -/
def sameAboveBuffers (r s : State) : Prop := ∀ a, 0x3100_0000 ≤ a → a < 0xA300_0000 → rd s a = rd r a

theorem sameAboveBuffers.refl (s : State) : sameAboveBuffers s s := fun _ _ _ => rfl

theorem sameAboveBuffers.trans {r s t : State} (h : sameAboveBuffers r s) (g : sameAboveBuffers s t) :
    sameAboveBuffers r t := fun a h1 h2 => (g a h1 h2).trans (h a h1 h2)

/-- An operation that writes no register below the event log. -/
theorem sameAboveBuffers.of_keeps {m : Nat} {r s : State} (h : Keeps m r s) (hm : m >>> 16 % 2 ^ 11 = 0) :
    sameAboveBuffers r s := fun _ _ h2 => h.below (k := 11) hm h2

theorem claim_aboveBuffers (s : State) (p owner plot f : Nat) : sameAboveBuffers s (claim s none p owner plot f) := by
  intro a h1 _
  refine (rd_wr_other ?_).trans rfl
  show a ≠ aBufStatus (p / 2 ^ 6 % 2 ^ 20)
  unfold aBufStatus
  omega

theorem chargeQuota_aboveBuffers {s : State} {plot f : Nat} (n : Nat) (hp : plot < 4096) (hf : f < 16) :
    sameAboveBuffers s (chargeQuota s plot f n) := by
  intro a h1 _
  unfold chargeQuota
  split
  · refine rd_wrf_other ?_
    unfold aQuota
    omega
  · rfl

theorem allocOne_aboveBuffers {s t : State} {who owner plot f n p : Nat} (h : allocOne s who owner plot f n = some (t, p)) :
    sameAboveBuffers s t := by
  unfold allocOne at h
  extract_lets m k at h
  split at h
  · cases h
  · extract_lets x y at h
    cases h
    have hx : sameAboveBuffers s x := .of_keeps (Keeps.upd 1 (.refl 1 s) (Fits.refl 1) rfl) (by decide)
    have hy : sameAboveBuffers x y := by
      unfold y
      split
      · exact .of_keeps (m := 134217728) (count_keeps rfl (.refl _ x)) (by decide)
      · exact .refl x
    exact (hx.trans hy).trans (claim_aboveBuffers _ _ _ _ _)

theorem allocChain_aboveBuffers {who owner plot f fuel n : Nat} {s t : State} {ps : List Nat}
    (h : allocChain s who owner plot f fuel n = some (t, ps)) : sameAboveBuffers s t := by
  induction fuel generalizing s n ps with
  | zero =>
    cases h
    exact .refl _
  | succ fuel ih =>
    unfold allocChain at h
    split at h
    · cases h
      exact .refl _
    · split at h
      · cases h
      · next hone =>
        split at h
        · cases h
        · next hrest =>
          cases h
          exact (allocOne_aboveBuffers hone).trans (ih hrest)

theorem allocPacket_aboveBuffers {s t : State} {who owner plot f : Nat} {payload : List Byte} {ps : List Nat}
    (h : allocPacket s who owner plot f payload = some (t, ps)) : sameAboveBuffers s t := by
  unfold allocPacket at h
  split at h
  · cases h
  · next x qs hc =>
    cases h
    exact (allocChain_aboveBuffers hc).trans
      (.of_keeps (m := 4) (setChain_keeps rfl (fillBufs_keeps rfl (.refl _ x))) (by decide))

theorem placeFrame_aboveBuffers {s t : State} {who port : Nat} {k : Pkt} (h : placeFrame s who port k = some t) :
    sameAboveBuffers s t := by
  unfold placeFrame at h
  split at h
  · cases h
  · next x bs ha =>
    have hplot : k.hdr.plot < 4096 := bitsOf_lt _ 41 30
    have hfur : k.hdr.furrow < 16 := bitsOf_lt _ 53 50
    split at h
    · cases h
      refine ((allocPacket_aboveBuffers ha).trans (chargeQuota_aboveBuffers (unitsOf bs) hplot hfur)).trans ?_
      exact .of_keeps (m := 134218241) (enqueue_keeps rfl (.refl _ _)) (by decide)
    · cases h

theorem sendFrame_aboveBuffers (s : State) (who port : Nat) (k : Pkt) : sameAboveBuffers s (sendFrame s who port k) := by
  unfold sendFrame
  extract_lets -underBinder -merge -useContext +onlyGivenNames src wait
  have hwait : sameAboveBuffers s wait := .of_keeps (Keeps.upd 1 (.refl 1 s) (Fits.refl 1) rfl) (by decide)
  clear_value wait
  split
  · exact hwait
  · split
    · exact hwait
    · next hp => exact placeFrame_aboveBuffers hp

theorem sendRouted_aboveBuffers (s : State) (who : Nat) (h : Header) (payload : List Byte) (use : PktUse) :
    sameAboveBuffers s (sendRouted s who h payload use) := by
  unfold sendRouted
  split
  · exact .refl s
  · exact .of_keeps (Keeps.upd 1 (.refl 1 s) (Fits.refl 1) rfl) (by decide)
  · extract_lets f
    have hf : sameAboveBuffers s f.1 := .of_keeps (m := 1) (newFrame_keeps rfl (.refl _ s)) (by decide)
    exact hf.trans (sendFrame_aboveBuffers _ _ _ _)

/-! ## The end of an epoch -/

theorem tget_foldl_const {xs : List Nat} {t : Tbl Nat} {p v : Nat} (h : p ∈ xs ∨ tget 0 t p = v) :
    tget 0 (xs.foldl (fun t p => tset 0 t p v) t) p = v := by
  induction xs generalizing t with
  | nil => exact h.resolve_left List.not_mem_nil
  | cons q xs ih =>
    refine ih ?_
    by_cases hq : p = q
    · exact .inr (hq ▸ tget_tset_same 0 t q v)
    · rcases h with h | h
      · exact .inl ((List.mem_cons.mp h).resolve_left hq)
      · exact .inr ((tget_tset_other 0 0 t v hq).trans h)

/-- Every port that an epoch served and that hinted is settled (R116). -/
theorem endHints_settled {s : State} {p : Nat} (hp : p ∈ s.fab.epochPorts) (hf : forwarding s p = true)
    (hh : p ∈ s.fab.hinted) : tget 0 (endHints s).fab.settled p = 1 :=
  tget_foldl_const (.inl (List.mem_filter.mpr ⟨hp, by simp [hf, hh]⟩))

/-- Counting stalls changes the statistics of the map alone. -/
theorem endStalls_shows (s : State) : ((endStalls s).yld.epochs = s.yld.epochs ∧ (endStalls s).yld.cfg = s.yld.cfg
      ∧ (endStalls s).yld.maps = s.yld.maps) ∧ (endStalls s).fab = s.fab
    ∧ changesOnly [.yield] [] s (endStalls s) := by
  unfold endStalls
  extract_lets f
  refine ⟨?_, ?_, ?_⟩
  · exact forAll_rel (f := fun s (kv : Nat × QueueStat) => setStat s (kv.1 / 16) (kv.1 % 16) (f kv.2))
      (R := fun r t : State => t.yld.epochs = r.yld.epochs ∧ t.yld.cfg = r.yld.cfg ∧ t.yld.maps = r.yld.maps) (fun _ => ⟨rfl, rfl, rfl⟩)
      (fun h g => ⟨g.1.trans h.1, g.2.1.trans h.2.1, g.2.2.trans h.2.2⟩) (fun _ _ _ => ⟨rfl, rfl, rfl⟩) s
  · exact forAll_rel (f := fun s (kv : Nat × QueueStat) => setStat s (kv.1 / 16) (kv.1 % 16) (f kv.2))
      (R := fun r t : State => t.fab = r.fab) (fun _ => rfl) (fun h g => g.trans h) (fun _ _ _ => rfl) s
  · exact changesOnly_forAll (ps := [.yield]) (fun u kv _ => (changesOnly.refl _ _ u).upd
      (t := setStat u (kv.1 / 16) (kv.1 % 16) (f kv.2)) 512 rfl (by decide)) s

/-- The state at an epoch boundary of a map that goes on, before the map may close. -/
def epochCounted (s : State) : State :=
  let s := endStalls (endHints s)
  { s with yld := { s.yld with epochs := s.yld.epochs + 1 } }

theorem epochCounted_shows (s : State) : (epochCounted s).fab = (endHints s).fab
    ∧ (epochCounted s).yld.epochs = s.yld.epochs + 1 ∧ (epochCounted s).yld.cfg = s.yld.cfg
    ∧ (epochCounted s).yld.maps = s.yld.maps ∧ changesOnly [.fabric, .yield] [] s (epochCounted s) := by
  obtain ⟨⟨hepochs, hcfg, hmaps⟩, hfab, hframe⟩ := endStalls_shows (endHints s)
  have hends : changesOnly [.fabric, .yield] [] s (endHints s) := (changesOnly.refl _ _ s).upd 1 rfl (by decide)
  refine ⟨hfab, ?_, ?_, ?_, ?_⟩
  · exact congrArg (· + 1) hepochs
  · exact hcfg
  · exact hmaps
  · exact (hends.trans (hframe.mono (by simp) (by simp))).upd 512 rfl (by decide)

theorem endHints_ports (s : State) : (endHints s).fab.hinted = []
    ∧ (endHints s).fab.epochPorts = (portsOf s).filter (forwarding s) := by
  simp only [endHints, and_self]

theorem beginMap_fab (s : State) : (beginMap s).fab = s.fab := rfl

theorem yieldEpoch_row {s : State} (h : isReady s = true) :
    exec .yieldEpoch s = if mapRuns s = false then .next (beginMap (endHints s))
      else if (epochCounted s).yld.epochs < bitsOf (epochCounted s).yld.cfg 62 55 then .next (epochCounted s)
      else .next (beginMap (closeMap (epochCounted s))) := by
  have hx : exec .yieldEpoch s = if (!mapRuns (endHints s)) = true then .next (beginMap (endHints s))
      else if (epochCounted s).yld.epochs < bitsOf (epochCounted s).yld.cfg 62 55 then .next (epochCounted s)
      else .next (beginMap (closeMap (epochCounted s))) := if_neg (by simp [h])
  rw [hx]
  exact if_congr (by rw [Bool.not_eq_true']; rfl) rfl rfl

/-- A map that begins at an epoch's end takes the settings in the registers (R349). -/
theorem beginMap_endHints (s : State) : (beginMap (endHints s)).yld = { s.yld with
    cfg := rd s aYldCfg, collect := rd s aYldCollect, base := rd s aYldBase, epochs := 0, samples := 0,
    start := now s, stats := [] } := by
  have hrd : ∀ a, rd (endHints s) a = rd s a := rd_congr rfl
  have hbegin : ∀ u : State, (beginMap u).yld = { u.yld with
      cfg := rd u aYldCfg, collect := rd u aYldCollect, base := rd u aYldBase, epochs := 0, samples := 0,
      start := (rd u aTime).toNat, stats := [] } := fun _ => rfl
  have hyld : (endHints s).yld = s.yld := rfl
  rw [hbegin, hyld, hrd, hrd, hrd, hrd, now]

theorem yieldEpoch_open {s : State} (h : isReady s = true)
    (hrun : mapRuns s = false ∨ s.yld.epochs + 1 < bitsOf s.yld.cfg 62 55) :
    ∃ t, exec .yieldEpoch s = .next t ∧ t.fab.hinted = [] ∧ t.fab.epochPorts = (portsOf s).filter (forwarding s)
      ∧ (∀ p, p ∈ s.fab.epochPorts → forwarding s p = true → p ∈ s.fab.hinted → tget 0 t.fab.settled p = 1)
      ∧ (mapRuns s = false → t.yld = { s.yld with
          cfg := rd s aYldCfg, collect := rd s aYldCollect, base := rd s aYldBase, epochs := 0, samples := 0,
          start := now s, stats := [] })
      ∧ (mapRuns s = true → t.yld.epochs = s.yld.epochs + 1 ∧ t.yld.cfg = s.yld.cfg ∧ t.yld.maps = s.yld.maps)
      ∧ changesOnly [.fabric, .yield] [] s t := by
  cases hm : mapRuns s with
  | false =>
    refine ⟨beginMap (endHints s), (yieldEpoch_row h).trans (if_pos hm), ?_, ?_, fun p => endHints_settled,
      fun _ => beginMap_endHints s, fun hc => absurd hc (by decide), ?_⟩
    · rw [beginMap_fab, (endHints_ports s).1]
    · rw [beginMap_fab, (endHints_ports s).2]
    · exact ((changesOnly.refl _ _ s).upd (t := endHints s) 1 rfl (by decide)).upd 512 rfl (by decide)
  | true =>
    obtain ⟨hfab, hepochs, hcfg, hmaps, hframe⟩ := epochCounted_shows s
    have hlt : (epochCounted s).yld.epochs < bitsOf (epochCounted s).yld.cfg 62 55 := by
      rw [hepochs, hcfg]
      exact hrun.resolve_left (by rw [hm]; decide)
    refine ⟨epochCounted s, (yieldEpoch_row h).trans ((if_neg (by simp [hm])).trans (if_pos hlt)), ?_, ?_,
      fun p h1 h2 h3 => ?_, fun hc => absurd hc (by decide), fun _ => ⟨hepochs, hcfg, hmaps⟩, hframe⟩
    · exact (congrArg Fabric.hinted hfab).trans (endHints_ports s).1
    · exact (congrArg Fabric.epochPorts hfab).trans (endHints_ports s).2
    · exact (congrArg (fun f : Fabric => tget 0 f.settled p) hfab).trans (endHints_settled h1 h2 h3)

/-! ## The close of a map -/

/-- Sending a map leaves its sequence number and the settings (R348). -/
theorem sendMap_shows (s : State) (seq : Nat) (parts : List (List Byte)) :
    rdf (sendMap s seq parts) aYldStat 63 32 = rdf s aYldStat 63 32 ∧ rd (sendMap s seq parts) aYldCfg = rd s aYldCfg := by
  unfold sendMap
  split
  · exact ⟨rfl, rfl⟩
  · split
    · exact ⟨rdf_bump_field _ _ (by decide), rd_wrf_other (by decide)⟩
    · have hkeep : sameAboveBuffers s (forAll (fun s (x : List Byte × Nat) =>
          let h := mapHeader s seq x.2 parts.length x.1.length
          match routeOf s none h with
          | .toPort _ =>
            let s := { s with yld := { s.yld with partsLeft := s.yld.partsLeft + 1 } }
            sendRouted s 76 h x.1 .yieldPart
          | _ => s) s parts.zipIdx) := by
        refine forAll_rel (R := sameAboveBuffers) .refl .trans (fun u x _ => ?_) s
        extract_lets h
        split
        · refine sameAboveBuffers.trans ?_ (sendRouted_aboveBuffers _ _ _ _ _)
          exact .of_keeps (Keeps.upd 512 (.refl 512 u) (Fits.refl 512) rfl) (by decide)
        · exact .refl u
      exact ⟨rdf_congr (hkeep _ (by decide) (by decide)), hkeep _ (by decide) (by decide)⟩

theorem rd_withYld (s : State) (y : Yield) (a : Nat) : rd { s with yld := y } a = rd s a := rfl

theorem rdf_withYld (s : State) (y : Yield) (a hi lo : Nat) : rdf { s with yld := y } a hi lo = rdf s a hi lo := rfl

theorem closeMap_shows (s : State) : rdf (closeMap s) aYldStat 63 32 = (rdf s aYldStat 63 32 + 1) % 2 ^ 32
    ∧ rd (closeMap s) aYldCfg = rd s aYldCfg ∧ touchesOnly [.fabric, .granary, .yield] 0x3000_0000 [] s (closeMap s) := by
  obtain ⟨y, parts, hclose⟩ : ∃ y parts, closeMap s = sendMap { wrf s aYldStat 63 32 ((rdf s aYldStat 63 32 + 1) % 2 ^ 32)
      with yld := y } ((rdf s aYldStat 63 32 + 1) % 2 ^ 32) parts := ⟨_, _, rfl⟩
  refine ⟨?_, ?_, (closeMap_keeps (m := 168821253) rfl (.refl _ s)).touchesOnly 4 (by decide) (by decide) []⟩ <;>
    rw [hclose]
  · rw [(sendMap_shows ..).1, rdf_withYld]
    exact rdf_wrf_fits s aYldStat (by decide) (Nat.mod_lt _ (by decide))
  · rw [(sendMap_shows ..).2, rd_withYld, rd_wrf_other (by decide)]

theorem yieldEpoch_closes {s : State} (h : isReady s = true) (hm : mapRuns s = true)
    (hle : bitsOf s.yld.cfg 62 55 ≤ s.yld.epochs + 1) :
    ∃ t, exec .yieldEpoch s = .next t ∧ rdf t aYldStat 63 32 = (rdf s aYldStat 63 32 + 1) % 2 ^ 32
      ∧ t.yld.epochs = 0 ∧ t.yld.samples = 0 ∧ t.yld.stats = [] ∧ t.yld.cfg = rd s aYldCfg
      ∧ touchesOnly [.fabric, .granary, .yield] 0x3000_0000 [] s t := by
  obtain ⟨-, hepochs, hcfg, -, hframe⟩ := epochCounted_shows s
  obtain ⟨hseq, hset, hclosed⟩ := closeMap_shows (epochCounted s)
  have hnot : ¬(epochCounted s).yld.epochs < bitsOf (epochCounted s).yld.cfg 62 55 := by
    rw [hepochs, hcfg]
    omega
  refine ⟨beginMap (closeMap (epochCounted s)), (yieldEpoch_row h).trans ((if_neg (by simp [hm])).trans (if_neg hnot)),
    ?_, rfl, rfl, rfl, ?_, ?_⟩
  · refine Eq.trans (rdf_congr rfl) (hseq.trans ?_)
    rw [rdf_congr (hframe.rd_eq (by simp))]
  · exact hset.trans (hframe.rd_eq (by simp))
  · exact (((hframe.touches (as := []) (by simp)).mono (by simp) le_rfl (by simp)).trans hclosed).upd 512 rfl (by decide)

/-! ## Settings -/

/-- From the yield registers upward no address is in a table that the recorder captures (R356). -/
theorem captureWrite_untabled {s : State} {a : Nat} (v : Word) (h : 0x9000_0000 ≤ a) : captureWrite s a v = s := by
  have hg : groupsOfAddr s a = [] := by
    unfold groupsOfAddr aGroup aOscale
    rw [if_neg (by omega), if_neg (by omega), if_neg (by omega)]
  have hp : plotsOfAddr s a = [] := by
    unfold plotsOfAddr aPlot aQuota
    rw [if_neg (by omega), if_neg (by omega), if_neg (by omega), if_neg (by omega)]
  have ht : isTableAddr a = false := by
    rw [Bool.eq_false_iff]
    intro hc
    unfold isTableAddr aFwdEntry aPol aQuota at hc
    simp only [Bool.or_eq_true, Bool.and_eq_true, decide_eq_true_eq] at hc
    omega
  have hrec : recWrite s a = false := by
    unfold recWrite
    split
    · simp [hg, hp]
    · simp [hg]
    · exact ht
  simp [captureWrite, hrec]

/-- A write of a yield register: the word its field types leave, and the frame. -/
theorem yieldConfigWrite_shows {s : State} (path : Nat) {i : Nat} (v : Word) (h : manageable s) (hi : i < 3) :
    ∃ t first, exec (.yieldConfigWrite path i v) s = .next t
      ∧ rd t (aYld (8 * i)) = mergedWord first (yieldFields i) (rd s (aYld (8 * i))) v
      ∧ touchesOnly [.recorder] 0xA000_0000 [] s t := by
  have hfs : hasRw1 (yieldFields i) = false := by
    unfold yieldFields
    split <;> rfl
  have hx : mgApply s (aYld (8 * i)) v (fun s => yieldWrite s path i v)
      = regWrite s path (aYld (8 * i)) (yieldFields i) v :=
    (mgApply_ok h rfl).trans (captureWrite_untabled _ (by unfold aYld; omega))
  refine ⟨_, _, congrArg Host.Outcome.next hx, rd_regWrite_same .., ?_⟩
  exact (touchesOnly.refl _ _ _ s).regWrite hfs (.inr (Nat.le_add_right ..))

/-- Settles O24: an epoch's end is the hints, then the stalls, then the close where the map is full. -/
theorem yieldMaps : Obligations.YieldMaps := by
  unfold Obligations.YieldMaps
  refine ⟨fun s h => ?_, fun s h hrun => yieldEpoch_open h hrun, fun s h hm hle => yieldEpoch_closes h hm hle,
    fun s path v h => ⟨fun hne => ?_, ?_, fun hal => ?_⟩⟩
  · exact if_pos (by rw [h]; rfl)
  · obtain ⟨t, first, hx, hrd, hframe⟩ := yieldConfigWrite_shows path (i := 0) v h (by decide)
    refine ⟨t, hx, (congrArg (bitsOf · 63 55) hrd).trans ?_, hframe⟩
    have hf : bitsOf (mergedWord first (yieldFields 0) (rd s (aYld (8 * 0))) v) 63 63 = bitsOf v 63 63
        ∧ bitsOf (mergedWord first (yieldFields 0) (rd s (aYld (8 * 0))) v) 62 55 = bitsOf v 62 55 := by
      simp [mergedWord, yieldFields, putField, rw, rwIf, rsv, hne, bitsOf_putBits_copy, bitsOf_putBits_other]
    exact bitsOf_split (mid := 62) (by decide) (by decide) hf.1 hf.2
  · obtain ⟨t, first, hx, hrd, hframe⟩ := yieldConfigWrite_shows path (i := 1) v h (by decide)
    refine ⟨t, hx, (congrArg (bitsOf · 63 46) hrd).trans ?_, hframe⟩
    simp [mergedWord, yieldFields, putField, rw, rsv, bitsOf_putBits_copy]
  · obtain ⟨t, first, hx, hrd, hframe⟩ := yieldConfigWrite_shows path (i := 2) v h (by decide)
    refine ⟨t, hx, hrd.trans ?_, hframe⟩
    have hwhole : bitsOf v 63 0 = v.toNat := by
      rw [bitsOf, Nat.shiftRight_zero]
      exact Nat.mod_eq_of_lt v.isLt
    have hput : mergedWord first (yieldFields 2) (rd s (aYld (8 * 2))) v
        = putBits (rd s (aYld (8 * 2))) 63 0 (bitsOf v 63 0) := if_pos (by simp [rwIf, hwhole, hal])
    rw [hput, putBits_whole]

end Sys2Proof.Machine
end

section
/-! PROOFS. Counter snapshots (R450 to R452). -/

namespace Sys2Proof.Machine

open Sys2Proof

/-! ## The records of the groups -/

theorem aSnapGroup_ne {g h w x : Nat} (hw : w < 2) (hx : x < 2) (hne : g ≠ h ∨ w ≠ x) :
    aSnapGroup g w ≠ aSnapGroup h x := by
  unfold aSnapGroup
  omega

theorem aSnapGroup_ne_cmd (g w : Nat) : aSnapGroup g w ≠ aSnapCmd ∧ aSnapGroup g w ≠ aSnapStat := by
  unfold aSnapGroup aSnapCmd aSnapStat
  omega

theorem dropShadow_taken (s : State) (g : Nat) : g ∉ (dropShadow s g).mg.taken := by simp [dropShadow]

theorem rd_dropShadow (s : State) (g a : Nat) : rd (dropShadow s g) a = rd s a := rfl

theorem touchesOnly.dropShadow {ps : List Part} {b : Nat} {as : List Nat} {r s : State} {g : Nat}
    (h : touchesOnly ps b as r s) (hp : Part.management ∈ ps := by simp) :
    touchesOnly ps b as r (Machine.dropShadow s g) :=
  h.upd 4096 rfl (partMask_mem hp)

/-- A frozen group is its path's, T is 2 µs ahead and its shadow is empty. -/
theorem freezeGroup_shows (s : State) {path : Nat} (g : Nat) (hpath : path < 16) :
    frozen (freezeGroup path s g) g = true ∧ snapOwner (freezeGroup path s g) g = path
      ∧ rd (freezeGroup path s g) (aSnapGroup g 1) = BitVec.ofNat 64 (now s + 2000)
      ∧ g ∉ (freezeGroup path s g).mg.taken := by
  have hword : rd (freezeGroup path s g) (aSnapGroup g 0) = bitsAt 63 63 1 ||| bitsAt 62 59 path :=
    (rd_wr_other (aSnapGroup_ne (by decide) (by decide) (.inr (by decide)))).trans (rd_wr_same ..)
  have htime : aTime ≠ aSnapGroup g 0 := by
    unfold aTime aSnapGroup
    omega
  refine ⟨?_, ?_, ?_, dropShadow_taken s g⟩
  · rw [frozen, rdb_eq_bitOf, hword, bitOf_or, bitOf_bitsAt]
    rfl
  · rw [snapOwner, rdf, hword, bitsOf_or, bitsOf_bitsAt_other _ (by decide), bitsOf_bitsAt_same _ (by decide),
      Nat.zero_or]
    exact Nat.mod_eq_of_lt hpath
  · refine (rd_wr_same ..).trans ?_
    rw [now, rd_wr_other htime, rd_dropShadow, now]

theorem freezeGroup_frame (s : State) (path g : Nat) :
    touchesOnly [.management] (2 ^ 64) [aSnapGroup g 0, aSnapGroup g 1] s (freezeGroup path s g) :=
  ((touchesOnly.refl _ _ _ s).dropShadow.wr (.inl (by simp))).wr (.inl (by simp))

/-- Another group's record stays. -/
theorem rd_freezeGroup_other {s : State} {path g h w : Nat} (hw : w < 2) (hne : h ≠ g) :
    rd (freezeGroup path s g) (aSnapGroup h w) = rd s (aSnapGroup h w) := by
  rw [freezeGroup, rd_wr_other (aSnapGroup_ne hw (by decide) (.inl hne)),
    rd_wr_other (aSnapGroup_ne hw (by decide) (.inl hne)), rd_dropShadow]

theorem thawGroup_shows (s : State) (g : Nat) : frozen (thawGroup s g) g = false ∧ g ∉ (thawGroup s g).mg.taken
    ∧ touchesOnly [.management] (2 ^ 64) [aSnapGroup g 0] s (thawGroup s g) := by
  refine ⟨?_, dropShadow_taken s g, (touchesOnly.refl _ _ _ s).dropShadow.wr (.inl (by simp))⟩
  rw [frozen, rdb_eq_bitOf, thawGroup, rd_wr_same]
  rfl

/-- Every group of a list is its path's after the whole list is frozen. -/
theorem freezeList_shows {s : State} {path : Nat} (hpath : path < 16) {gs : List Nat} {g : Nat}
    (h : g ∈ gs ∨ frozen s g = true ∧ snapOwner s g = path) :
    frozen (forAll (freezeGroup path) s gs) g = true ∧ snapOwner (forAll (freezeGroup path) s gs) g = path := by
  induction gs generalizing s with
  | nil => exact h.resolve_left List.not_mem_nil
  | cons x xs ih =>
    rw [forAll]
    refine ih (s := freezeGroup path s x) ?_
    by_cases hg : g = x
    · subst hg
      obtain ⟨hf, ho, -⟩ := freezeGroup_shows s g hpath
      exact .inr ⟨hf, ho⟩
    · rcases h with h | ⟨hf, ho⟩
      · exact .inl ((List.mem_cons.mp h).resolve_left hg)
      · have hrd : rd (freezeGroup path s x) (aSnapGroup g 0) = rd s (aSnapGroup g 0) :=
          rd_freezeGroup_other (by decide) hg
        exact .inr ⟨(rdb_congr hrd).trans hf, (rdf_congr hrd).trans ho⟩

/-! ## CNT_SNAP_CMD -/

/-- The word that gives a snapshot command. -/
def snapCmdWord (op g : Nat) : Word := bitsAt 63 60 op ||| bitsAt 3 0 g

theorem bitsOf_snapCmdWord {op g : Nat} (hop : op < 16) (hg : g < 16) :
    bitsOf (snapCmdWord op g) 63 60 = op ∧ bitsOf (snapCmdWord op g) 3 0 = g
      ∧ bitsOf (snapCmdWord op g) 59 4 = 0 := by
  simp only [snapCmdWord, bitsOf_or, bitsOf_bitsAt_same _ (show 63 < 64 by decide),
    bitsOf_bitsAt_same _ (show 3 < 64 by decide), bitsOf_bitsAt_other, show (3 : Nat) < 60 by decide,
    show (59 : Nat) < 60 by decide, show (3 : Nat) < 4 by decide, true_or, or_true, Nat.or_zero, Nat.zero_or]
  exact ⟨Nat.mod_eq_of_lt hop, Nat.mod_eq_of_lt hg, trivial⟩

/-- What a snapshot command does before it reports (R450). -/
def snapMove (s : State) (path op g : Nat) : State × Nat :=
  if op = 3 then
    if snapGroups.any (heldByOther s path) then (s, rcSnapBusy) else (forAll (freezeGroup path) s snapGroups, 0)
  else if 8 < g then (s, rcSnapGroup)
  else if op = 1 then if heldByOther s path g then (s, rcSnapBusy) else (freezeGroup path s g, 0)
  else if heldByOther s path g then (s, rcNotOwner)
  else (if frozen s g then thawGroup s g else s, 0)

theorem snapCommand_of_move {s u : State} {path op g code : Nat} (h : snapMove s path op g = (u, code)) :
    snapCommand s path op g = (wr u aSnapStat (bitsAt 63 56 code), code) := by
  have heq : snapCommand s path op g = (wr (snapMove s path op g).1 aSnapStat (bitsAt 63 56 (snapMove s path op g).2),
    (snapMove s path op g).2) := rfl
  rw [heq, h]

/-- A snapshot command of a managed device: the command word is stored and the command runs. -/
theorem snapRow_shows {s : State} (path : Nat) {op g : Nat} (h : manageable s) (h1 : 1 ≤ op) (h3 : op ≤ 3)
    (hg : g < 16) : ∃ w, ∀ u code, snapMove (wr s aSnapCmd w) path op g = (u, code) →
      snapRow s path op g = wr u aSnapStat (bitsAt 63 56 code) := by
  obtain ⟨hop, hgrp, hres⟩ := bitsOf_snapCmdWord (show op < 16 by omega) hg
  have hrow : snapRow s path op g = mgApply s aSnapCmd (snapCmdWord op g) fun s =>
      cmdWrite s path aSnapCmd snapCmdFields (snapCmdWord op g) fun s =>
        snapCommand s path (bitsOf (snapCmdWord op g) 63 60) (bitsOf (snapCmdWord op g) 3 0) := rfl
  have hrsv : touchesReserved snapCmdFields (snapCmdWord op g) = false := by
    simp [touchesReserved, snapCmdFields, rsv, wo, hres]
  have hrange : outOfRange snapCmdFields (snapCmdWord op g) = false := by
    simp [outOfRange, snapCmdFields, rsv, wo, hop, h1, h3]
  refine ⟨mergedWord (!s.mg.rw1.contains aSnapCmd) snapCmdFields (rd s aSnapCmd) (snapCmdWord op g),
    fun u code hu => ?_⟩
  rw [hrow, hop, hgrp]
  by_cases hc : code = 0
  · subst hc
    exact (cmdRow_ok h rfl hrsv hrange rfl (snapCommand_of_move hu)).trans (captureWrite_untabled _ (by decide))
  · exact cmdRow_refused h rfl hrsv hrange rfl hc (snapCommand_of_move hu)

theorem heldByOther_wr_cmd (s : State) (w : Word) (path g : Nat) :
    heldByOther (wr s aSnapCmd w) path g = heldByOther s path g := by
  have hrd : rd (wr s aSnapCmd w) (aSnapGroup g 0) = rd s (aSnapGroup g 0) := rd_wr_other (aSnapGroup_ne_cmd g 0).1
  rw [heldByOther, frozen, snapOwner, rdb_congr hrd, rdf_congr hrd]
  rfl

/-- A command's report leaves the groups' records. -/
theorem rd_snapReport (u : State) (code g w : Nat) :
    rd (wr u aSnapStat (bitsAt 63 56 code)) (aSnapGroup g w) = rd u (aSnapGroup g w) :=
  rd_wr_other (aSnapGroup_ne_cmd g w).2

theorem snapReport_code (u : State) {code : Nat} (h : code < 256) :
    rdf (wr u aSnapStat (bitsAt 63 56 code)) aSnapStat 63 56 = code := by
  rw [rdf, rd_wr_same, bitsOf_bitsAt_same _ (by decide)]
  exact Nat.mod_eq_of_lt h

/-- The frame of an accepted snapshot command. -/
theorem snapReport_frame {s u : State} {w : Word} {code : Nat} {as : List Nat}
    (h : touchesOnly [.management] (2 ^ 64) as (wr s aSnapCmd w) u) (has : ∀ a ∈ as, 0xA000_0000 ≤ a) :
    touchesOnly [.management, .recorder] 0xA000_0000 [] s (wr u aSnapStat (bitsAt 63 56 code)) := by
  have hlow : touchesOnly [.management, .recorder] 0xA000_0000 [] (wr s aSnapCmd w) u :=
    ⟨h.1, fun p hp => h.2.1 p (fun hm => hp (by simpa using .inl (List.mem_singleton.mp hm))), fun a ha _ =>
      h.2.2 a (by omega) fun hm => by have := has a hm; omega⟩
  exact (((touchesOnly.refl _ _ _ s).wr (.inr (by decide))).trans hlow).wr (.inr (by decide))

theorem aSnapGroup_ge (g w : Nat) : 0xA000_0000 ≤ aSnapGroup g w := by
  unfold aSnapGroup
  omega

theorem freeze_shows {s : State} {path g : Nat} (h : manageable s) (hpath : path < 16) (hg : g ≤ 8)
    (hfree : heldByOther s path g = false) : ∃ t, exec (.freeze path g) s = .next t ∧ frozen t g = true
      ∧ snapOwner t g = path ∧ rd t (aSnapGroup g 1) = BitVec.ofNat 64 (now s + 2000) ∧ rdf t aSnapStat 63 56 = 0
      ∧ g ∉ t.mg.taken ∧ touchesOnly [.management, .recorder] 0xA000_0000 [] s t := by
  obtain ⟨w, hrow⟩ := snapRow_shows path (op := 1) h (by decide) (by decide) (show g < 16 by omega)
  have hmove : snapMove (wr s aSnapCmd w) path 1 g = (freezeGroup path (wr s aSnapCmd w) g, 0) := by
    simp [snapMove, heldByOther_wr_cmd, hfree, Nat.not_lt.mpr hg]
  obtain ⟨hf, ho, hT, htaken⟩ := freezeGroup_shows (wr s aSnapCmd w) g hpath
  refine ⟨_, congrArg Host.Outcome.next (hrow _ _ hmove), (rdb_congr (rd_snapReport ..)).trans hf,
    (rdf_congr (rd_snapReport ..)).trans ho, (rd_snapReport ..).trans (hT.trans ?_), snapReport_code _ (by decide), htaken,
    snapReport_frame (freezeGroup_frame ..) ?_⟩
  · rw [now, rd_wr_other (by decide), now]
  · simp

theorem thaw_shows {s : State} (path : Nat) {g : Nat} (h : manageable s) (hg : g ≤ 8)
    (hfree : heldByOther s path g = false) : ∃ t, exec (.thaw path g) s = .next t ∧ frozen t g = false
      ∧ rdf t aSnapStat 63 56 = 0 ∧ touchesOnly [.management, .recorder] 0xA000_0000 [] s t := by
  obtain ⟨w, hrow⟩ := snapRow_shows path (op := 2) h (by decide) (by decide) (show g < 16 by omega)
  have hmove : snapMove (wr s aSnapCmd w) path 2 g
      = (if frozen (wr s aSnapCmd w) g then thawGroup (wr s aSnapCmd w) g else wr s aSnapCmd w, 0) := by
    simp [snapMove, heldByOther_wr_cmd, hfree, Nat.not_lt.mpr hg]
  refine ⟨_, congrArg Host.Outcome.next (hrow _ _ hmove), (rdb_congr (rd_snapReport ..)).trans ?_,
    snapReport_code _ (by decide), ?_⟩
  · split
    · exact (thawGroup_shows _ g).1
    · next hf => exact Bool.eq_false_iff.mpr hf
  · split
    · exact snapReport_frame (thawGroup_shows _ g).2.2 (by simp)
    · exact snapReport_frame (as := []) (touchesOnly.refl _ _ _ _) (by simp)

theorem mem_snapGroups {g : Nat} : g ∈ snapGroups ↔ g ≤ 8 := by
  rw [snapGroups, List.mem_range]
  omega

theorem freezeAll_shows {s : State} {path : Nat} (h : manageable s) (hpath : path < 16)
    (hfree : ∀ g, g ≤ 8 → heldByOther s path g = false) : ∃ t, exec (.freezeAll path) s = .next t
      ∧ (∀ g, g ≤ 8 → frozen t g = true ∧ snapOwner t g = path) ∧ rdf t aSnapStat 63 56 = 0
      ∧ touchesOnly [.management, .recorder] 0xA000_0000 [] s t := by
  obtain ⟨w, hrow⟩ := snapRow_shows path (op := 3) h (by decide) (by decide) (show 0 < 16 by decide)
  have hany : snapGroups.any (heldByOther (wr s aSnapCmd w) path) = false := by
    rw [List.any_eq_false]
    intro g hg
    rw [heldByOther_wr_cmd, hfree g (mem_snapGroups.mp hg)]
    decide
  have hmove : snapMove (wr s aSnapCmd w) path 3 0 = (forAll (freezeGroup path) (wr s aSnapCmd w) snapGroups, 0) := by
    simp [snapMove, hany]
  refine ⟨_, congrArg Host.Outcome.next (hrow _ _ hmove), fun g hg => ?_, snapReport_code _ (by decide), ?_⟩
  · obtain ⟨hf, ho⟩ := freezeList_shows (s := wr s aSnapCmd w) hpath (.inl (mem_snapGroups.mpr hg))
    exact ⟨(rdb_congr (rd_snapReport ..)).trans hf, (rdf_congr (rd_snapReport ..)).trans ho⟩
  · refine snapReport_frame (as := snapGroups.flatMap fun g => [aSnapGroup g 0, aSnapGroup g 1])
      (touchesOnly_forAll (fun u g hg => (freezeGroup_frame u path g).mono (by simp) le_rfl fun a ha =>
        List.mem_flatMap.mpr ⟨g, hg, ha⟩) _) fun a ha => ?_
    obtain ⟨g, -, ha⟩ := List.mem_flatMap.mp ha
    rcases List.mem_cons.mp ha with rfl | ha
    · exact aSnapGroup_ge g 0
    · exact List.mem_singleton.mp ha ▸ aSnapGroup_ge g 1

/-- A refused snapshot command changes its own two registers alone. -/
theorem snapRow_refused {s : State} {c : Instr} {path op g code : Nat} (h : manageable s) (h1 : 1 ≤ op) (h3 : op ≤ 3)
    (hg : g < 16) (hx : exec c s = .next (snapRow s path op g)) (hlt : code < 256)
    (hmove : ∀ w, snapMove (wr s aSnapCmd w) path op g = (wr s aSnapCmd w, code)) :
    ∃ t, exec c s = .next t ∧ rdf t aSnapStat 63 56 = code
      ∧ touchesOnly [] (2 ^ 64) [aSnapCmd, aSnapStat] s t := by
  obtain ⟨w, hrow⟩ := snapRow_shows path h h1 h3 hg
  exact ⟨_, hx.trans (congrArg Host.Outcome.next (hrow _ _ (hmove w))), snapReport_code _ hlt,
    ((touchesOnly.refl _ _ _ s).wr (.inl (by simp))).wr (.inl (by simp))⟩

theorem snap_refused {s : State} {path g code : Nat} {c : Instr} (h : manageable s) (hg : g < 16)
    (hc : g ≤ 8 ∧ heldByOther s path g = true
        ∧ (c = .freeze path g ∧ code = 0xA0 ∨ c = .thaw path g ∧ code = 0xA1 ∨ c = .freezeAll path ∧ code = 0xA0)
      ∨ 8 < g ∧ (c = .freeze path g ∨ c = .thaw path g) ∧ code = 0xA2) :
    ∃ t, exec c s = .next t ∧ rdf t aSnapStat 63 56 = code
      ∧ touchesOnly [] (2 ^ 64) [aSnapCmd, aSnapStat] s t := by
  rcases hc with ⟨h8, hheld, ⟨rfl, rfl⟩ | ⟨rfl, rfl⟩ | ⟨rfl, rfl⟩⟩ | ⟨h8, rfl | rfl, rfl⟩
  · refine snapRow_refused (op := 1) h (by decide) (by decide) hg rfl (by decide) fun w => ?_
    simp [snapMove, heldByOther_wr_cmd, hheld, Nat.not_lt.mpr h8, rcSnapBusy]
  · refine snapRow_refused (op := 2) h (by decide) (by decide) hg rfl (by decide) fun w => ?_
    simp [snapMove, heldByOther_wr_cmd, hheld, Nat.not_lt.mpr h8, rcNotOwner]
  · refine snapRow_refused (op := 3) h (by decide) (by decide) (by decide) rfl (by decide) fun w => ?_
    have hany : snapGroups.any (heldByOther (wr s aSnapCmd w) path) = true :=
      List.any_eq_true.mpr ⟨g, mem_snapGroups.mpr h8, by rw [heldByOther_wr_cmd, hheld]⟩
    simp [snapMove, hany, rcSnapBusy]
  · refine snapRow_refused (op := 1) h (by decide) (by decide) hg rfl (by decide) fun w => ?_
    simp [snapMove, h8, rcSnapGroup]
  · refine snapRow_refused (op := 2) h (by decide) (by decide) hg rfl (by decide) fun w => ?_
    simp [snapMove, h8, rcSnapGroup]

/-! ## The copy at T -/

/-- Leaving out other keys leaves a key's value. -/
theorem tget_filter_key {α : Type} {d : α} {t : Tbl α} {f : Nat → Bool} {a : Nat} (h : f a = true) :
    tget d (t.filter fun kv => f kv.1) a = tget d t a := by
  induction t with
  | nil => rfl
  | cons kv t ih =>
    by_cases ha : a = kv.1
    · rw [List.filter_cons, if_pos (by rw [← ha]; exact h), tget, tget, if_pos ha, if_pos ha]
    · have hskip : ∀ u, tget d (kv :: u) a = tget d u a := fun u => if_neg ha
      rw [List.filter_cons, hskip]
      split
      · rw [hskip, ih]
      · exact ih

theorem tget_of_unlisted {α : Type} {d : α} {t : Tbl α} {a : Nat} (h : ∀ kv ∈ t, a ≠ kv.1) : tget d t a = d := by
  induction t with
  | nil => rfl
  | cons kv t ih =>
    rw [tget, if_neg (h kv List.mem_cons_self)]
    exact ih fun x hx => h x (List.mem_cons_of_mem _ hx)

/-- A key that is left out reads as an unlisted one. -/
theorem tget_filter_none {α : Type} {d : α} {t : Tbl α} {f : Nat → Bool} {a : Nat} (h : f a = false) :
    tget d (t.filter fun kv => f kv.1) a = d :=
  tget_of_unlisted fun kv hkv ha => by
    have := (List.mem_filter.mp hkv).2
    rw [← ha, h] at this
    exact absurd this (by decide)

/-- In canonical form a key above which everything lies is not listed. -/
theorem tget_above {α : Type} {dk : Nat → α} {d : α} {t : Tbl α} {a : Nat} (h : canon dk t)
    (ha : tableAbove a t = true) : tget d t a = d := by
  induction t with
  | nil => rfl
  | cons kv t ih =>
    have hlt : a < kv.1 := by simpa [tableAbove] using ha
    rw [tget, if_neg (Nat.ne_of_lt hlt)]
    exact ih h.2.2 (tableAbove_trans (Nat.le_of_lt hlt) h.2.1)

/-- Inserting the entries of a canonical table: they go before what the table held. -/
theorem tget_foldl_tins {α : Type} {dk : Nat → α} {d : α} {xs t : Tbl α} {a : Nat} (h : canon dk xs) :
    tget d (xs.foldl (fun t kv => tins t kv.1 kv.2) t) a = tget (tget d t a) xs a := by
  induction xs generalizing t with
  | nil => rfl
  | cons kv xs ih =>
    refine (ih h.2.2).trans ?_
    rw [tget_tins, tget]
    split
    · next ha => exact tget_above h.2.2 (ha ▸ h.2.1)
    · rfl

theorem snapshotTaken_shows {s : State} {g : Nat} (hwf : regsWf s.regs = true) (hg : g < 9) (hf : frozen s g = true)
    (ht : s.mg.taken.contains g = false) : ∃ t, exec (.snapshotTaken g) s = .next t ∧ g ∈ t.mg.taken
      ∧ (∀ a, inGroup g a = true → tget (resetWord a) t.mg.shadow a = rd s a)
      ∧ (∀ a, inGroup g a = false → tget (resetWord a) t.mg.shadow a = tget (resetWord a) s.mg.shadow a)
      ∧ changesOnly [.management] [] s t := by
  have hlive : canon resetWord (s.regs.filter fun kv => inGroup g kv.1) :=
    canon_filter _ _ ((regsWf_iff _).mp hwf)
  refine ⟨_, if_neg (by simp only [hf, ht, Bool.not_true, Bool.or_false, decide_eq_true_eq]; omega), List.mem_cons_self, fun a ha => ?_, fun a ha => ?_,
    (changesOnly.refl _ _ s).upd 4096 rfl (by decide)⟩
  · refine (tget_foldl_tins hlive).trans ?_
    rw [tget_filter_key (f := inGroup g) ha, tget_filter_none (f := fun b => !inGroup g b) (by simp [ha])]
    rfl
  · refine (tget_foldl_tins hlive).trans ?_
    rw [tget_filter_none (f := inGroup g) ha, tget_filter_key (f := fun b => !inGroup g b) (by simp [ha])]

/-- Settles O27: a command is judged, then the groups' records and shadows follow. -/
theorem snapshots : Obligations.Snapshots := by
  unfold Obligations.Snapshots
  refine ⟨fun s path g h hpath hg hfree => freeze_shows h hpath hg hfree,
    fun s path g h hg hfree => thaw_shows path h hg hfree, fun s path h hpath hfree => freezeAll_shows h hpath hfree,
    fun s path g c code h hg hc => snap_refused h hg hc,
    fun s g hwf hg hf ht => snapshotTaken_shows hwf hg hf ht, fun s g hg hf => ?_⟩
  obtain ⟨hthaw, htaken, hframe⟩ := thawGroup_shows s g
  exact ⟨_, congrArg Host.Outcome.next (if_pos (by simp [hg, hf])), hthaw, htaken, hframe⟩

end Sys2Proof.Machine
end

section
/-! PROOFS. Collective packets that wait behind others, and those of no member (R119, R142, R144, R150). -/

namespace Sys2Proof.Machine

open Sys2Proof

/-- The rows of collective packets, each with its type. -/
def collRows : List ((Nat → Frame → Instr) × Nat) :=
  [(Instr.reap, tReap), (Instr.reapDeferred, tReapDeferred), (Instr.reapExpress, tReapExpress),
    (Instr.sow, tSow), (Instr.sowExpress, tSowExpress), (Instr.sowRequest, tSowRequest),
    (Instr.completion, tCompletion), (Instr.verdict, tVerdict)]

/-- A packet of its row's type is taken in. -/
theorem collRows_exec {row : (Nat → Frame → Instr) × Nat} (hrow : row ∈ collRows) (s : State) (p : Nat) {fr : Frame}
    (ht : fr.hdr.type = row.2) : exec (row.1 p fr) s = .next (settle (takeColl s p fr)) := by
  have hcoll : ∀ {i : Instr} {t : Nat}, exec i s = .next (collRow s t p fr) → fr.hdr.type = t →
      exec i s = .next (settle (takeColl s p fr)) := fun hx ht => hx.trans (congrArg _ (if_pos ht))
  simp only [collRows, List.mem_cons, List.not_mem_nil, or_false] at hrow
  rcases hrow with rfl | rfl | rfl | rfl | rfl | rfl | rfl | rfl
  exacts [hcoll rfl ht, hcoll rfl ht, hcoll rfl ht, hcoll rfl ht, hcoll rfl ht, hcoll rfl ht, hcoll rfl ht, if_pos ht]

/-- The packet that a frame is taken in as. -/
def collPkt (p : Nat) (fr : Frame) : Pkt := ⟨0, fr.hdr, fr.payload, tailGood, true, [], .forward p, 0⟩

theorem waitsOf_setWaits_other {s : State} {p f q x : Nat} (ws : List Waiter) (h : qKey q x ≠ qKey p f) :
    waitsOf (setWaits s p f ws) q x = waitsOf s q x := tget_tset_other [] [] s.fab.waits ws h

theorem setWaits_setWaits_frame (s : State) (p f : Nat) (xs : List Waiter) :
    changesOnly [.fabric] [] s (setWaits s p f xs) := (changesOnly.refl _ _ s).upd 1 rfl (by decide)

/-- Behind others a packet waits at the end. -/
theorem takeColl_behind {s : State} {p : Nat} {fr : Frame} (h : waitsOf s p fr.hdr.furrow ≠ []) :
    takeColl s p fr = setWaits s p fr.hdr.furrow
      (waitsOf s p fr.hdr.furrow ++ [⟨collPkt p fr, none, .behind, false⟩]) := if_pos h

/-- With none before it a packet is handled at once. -/
theorem takeColl_handled {s t : State} {p : Nat} {fr : Frame} (h : waitsOf s p fr.hdr.furrow = [])
    (hdone : collPacket (setWaits s p fr.hdr.furrow [⟨collPkt p fr, none, .behind, false⟩]) p (collPkt p fr) = .done t) :
    takeColl s p fr = returnCredits (setWaits t p fr.hdr.furrow []) p fr.hdr.furrow (creditsOf fr.hdr.length) := by
  have htake : takeColl s p fr = drainColl p fr.hdr.furrow 1
      (setWaits s p fr.hdr.furrow [⟨collPkt p fr, none, .behind, false⟩]) := if_neg (not_not.mpr h)
  rw [htake, drainColl, waitsOf_setWaits_same]
  simp only [hdone]
  rfl

/-- With none before it a packet that must wait is at the head. -/
theorem takeColl_waits {s t : State} {p : Nat} {fr : Frame} {why : WaitWhy} (h : waitsOf s p fr.hdr.furrow = [])
    (hwait : collPacket (setWaits s p fr.hdr.furrow [⟨collPkt p fr, none, .behind, false⟩]) p (collPkt p fr)
      = .wait t why) :
    takeColl s p fr = setWaits t p fr.hdr.furrow [⟨collPkt p fr, none, why, false⟩] := by
  have htake : takeColl s p fr = drainColl p fr.hdr.furrow 1
      (setWaits s p fr.hdr.furrow [⟨collPkt p fr, none, .behind, false⟩]) := if_neg (not_not.mpr h)
  rw [htake, drainColl, waitsOf_setWaits_same]
  simp only [hwait]

/-! ## Packets of no member -/

theorem collPacket_notMember {s : State} {p : Nat} {k : Pkt} {g : Group} (hg : g = groupAt s k.hdr.group)
    (h : g.state = gsFree ∨ memberOnPort s g p = none ∧ (g.role = roleRoot ∨ g.parentPort ≠ p)) :
    collPacket s p k = .done (notMember s p g k.hdr) := by
  subst hg
  refine if_pos ?_
  rcases h with h | ⟨h, hr | hp⟩
  · simp [h]
  · simp [h, hr]
  · simp [h, hp]

/-- Such a packet is counted and reported, and nothing else. -/
theorem notMember_shows (s : State) (p : Nat) (g : Group) (h : Header) :
    (rd (notMember s p g h) (aCnt 5 (Nat.min 11 g.owner) 12)).toNat
        = ((rd s (aCnt 5 (Nat.min 11 g.owner) 12)).toNat + 1) % 2 ^ 64
      ∧ touchesOnly [] 0xA300_0000 [] s (notMember s p g h) := by
  refine ⟨?_, (notMember_keeps (m := 134217728) rfl (.refl _ s)).touchesOnly 11 (by decide) (by decide) []⟩
  refine (congrArg BitVec.toNat (rd_event_other (.inr ?_))).trans (rd_count_same ..)
  unfold aCnt
  omega

theorem collectivePacket_notMember {s : State} {p : Nat} {fr : Frame} {g : Group} (hg : g = groupAt s fr.hdr.group)
    (hp : p < 512) (hw : waitsOf s p fr.hdr.furrow = [])
    (h : g.state = gsFree ∨ memberOnPort s g p = none ∧ (g.role = roleRoot ∨ g.parentPort ≠ p)) :
    waitsOf (takeColl s p fr) p fr.hdr.furrow = []
      ∧ (rd (takeColl s p fr) (aCnt 5 (Nat.min 11 g.owner) 12)).toNat
        = ((rd s (aCnt 5 (Nat.min 11 g.owner) 12)).toNat + 1) % 2 ^ 64
      ∧ (lossless fr.hdr.furrow = true → rdf (takeColl s p fr) (aCredit p fr.hdr.furrow) 15 0
        = rdf s (aCredit p fr.hdr.furrow) 15 0 - creditsOf fr.hdr.length)
      ∧ (takeColl s p fr).bnd = s.bnd ∧ touchesOnly [.fabric, .links] 0x1000_0000 [] s (takeColl s p fr) := by
  let v := setWaits s p fr.hdr.furrow [⟨collPkt p fr, none, .behind, false⟩]
  let x := notMember v p g fr.hdr
  let y := setWaits x p fr.hdr.furrow []
  have htake : takeColl s p fr = returnCredits y p fr.hdr.furrow (creditsOf fr.hdr.length) :=
    takeColl_handled hw (collPacket_notMember (s := v) (k := collPkt p fr) hg h)
  obtain ⟨hcnt, hcounted⟩ := notMember_shows v p g fr.hdr
  have hv : touchesOnly [.fabric, .links] 0x1000_0000 [] s v := (touchesOnly.refl _ _ _ s).upd 1 rfl (by decide)
  have hy : touchesOnly [.fabric, .links] 0x1000_0000 [] s y :=
    (hv.trans (hcounted.mono (by simp) (by decide) (by simp))).upd 1 rfl (by decide)
  have hkeep : Keeps 262146 y (returnCredits y p fr.hdr.furrow (creditsOf fr.hdr.length)) :=
    returnCredits_keeps rfl (.refl _ y)
  rw [htake]
  refine ⟨?_, ?_, fun hl => ?_, ?_, touchesOnly.keeps (k := 2) hy hkeep (by decide) (by decide)⟩
  · exact (waitsOf_congr (congrArg Fabric.waits (hkeep.part .fabric rfl)) p _).trans (waitsOf_setWaits_same ..)
  · rw [(returnCredits_shows y p _ _).2 _ fun hf => aCnt_ne_aCredit hp hf 5 (Nat.min 11 g.owner) 12]
    exact hcnt
  · have hlow : rdf y (aCredit p fr.hdr.furrow) 15 0 = rdf s (aCredit p fr.hdr.furrow) 15 0 :=
      rdf_congr (hcounted.2.2 _ (by have := lossless_lt hl; unfold aCredit aPrt; omega) (by simp))
    have hlt := rdf_lt y (aCredit p fr.hdr.furrow) 15 0
    rw [← hlow, returnCredits, if_pos hl]
    exact rdf_wrf_fits _ _ (by decide) (by omega)
  · exact (hkeep.part .binding rfl).trans (hcounted.2.1 .binding (by simp))

/-- Settles O28: behind others a packet joins the end of the wait; alone it is judged, and a packet of no member
only counts, reports and returns its credits. -/
theorem collectivePackets : Obligations.CollectivePackets := by
  unfold Obligations.CollectivePackets
  intro row hrow s p fr ht
  have hx := collRows_exec hrow s p ht
  refine ⟨fun hw => ⟨_, ⟨collPkt p fr, none, .behind, false⟩, hx.trans (congrArg _ (congrArg settle (takeColl_behind hw))),
    rfl, rfl, waitsOf_setWaits_same .., fun q x hq => waitsOf_setWaits_other _ hq, setWaits_setWaits_frame ..⟩,
    fun hp hw h => ⟨_, hx, collectivePacket_notMember rfl hp hw h⟩⟩

end Sys2Proof.Machine
end

section
/-! PROOFS. The statement on parts of contributions: a part's ingress credits return, so that a register of its port
changes (R106, R142, R146). -/

namespace Sys2Proof.Machine

open Sys2Proof

/-- Settling leaves the registers of the ports and of the forwarding tables. -/
theorem rd_settle {s : State} {a : Nat} (h : a < 0x3000_0000) : rd (settle s) a = rd s a :=
  (settle_keeps (m := 265292797) rfl (.refl _ s)).below (k := 4) (by decide) h

/-- The packet of a run that is open, from a member, is the run's. -/
theorem collPacket_ofRun {s : State} {p i : Nat} {k : Pkt} {r : Run}
    (hfree : (groupAt s k.hdr.group).state ≠ gsFree) (hmem : memberOnPort s (groupAt s k.hdr.group) p = some i)
    (hrun : findRun s k.hdr.group k.hdr.runNo = some r) :
    collPacket s p k = packetOfRun s p (some i) r k.hdr k.payload := by
  have hnot : ¬((groupAt s k.hdr.group).state == gsFree || ((memberOnPort s (groupAt s k.hdr.group) p).isNone
      && !((groupAt s k.hdr.group).role != roleRoot && (groupAt s k.hdr.group).parentPort == p))) = true := by
    simp [hfree, hmem]
  refine (if_neg hnot).trans ?_
  rw [hrun, hmem]

/-- A part that passes the checks of R142 is a part of its run's chunk. -/
theorem packetOfRun_part {s : State} {p i : Nat} {r : Run} {h : Header} {payload : List Byte}
    (hcar : carried s (groupAt s r.group) (some i) h payload = true)
    (hsig : h.signature = sigOf (groupAt s r.group) r.seq) (htag : h.tag = r.tag)
    (hrank : h.rank = (memberN s (groupAt s r.group) i).rankLo) (hopen : r.state = .opened)
    (htype : h.type = tReap ∨ h.type = tReapDeferred ∨ h.type = tReapExpress) :
    packetOfRun s p (some i) r h payload = reapPart s p (keyOf r) i r (groupAt s r.group) h payload := by
  have hne : h.type ≠ tCompletion ∧ h.type ≠ tSowRequest ∧ h.type ≠ tVerdict := by
    rcases htype with ht | ht | ht <;> rw [ht] <;> decide
  obtain ⟨hc, hr, hv⟩ := hne
  simp [packetOfRun, hcar, hsig, htag, hrank, hopen, hc, hr, hv]

/-- A part after the first is stored. -/
theorem reapPart_later {s : State} {p key i : Nat} {r : Run} {g : Group} {h : Header} {payload : List Byte}
    (hwrong : partWrong s r g i h.chunk h payload.length = false) (hsheaf : sheafed g = false)
    (hfirst : h.first = false) : reapPart s p key i r g h payload = .done (storePart s key i h.chunk h payload []) := by
  simp [reapPart, hwrong, hsheaf, hfirst]

/-- A part after the first is stored and its credits return. -/
theorem takeColl_laterPart {s : State} {p i : Nat} {fr : Frame} {r : Run} (hwait : waitsOf s p fr.hdr.furrow = [])
    (hfind : findRun s fr.hdr.group fr.hdr.runNo = some r) (hgroup : r.group = fr.hdr.group) (hopen : r.state = .opened)
    (hfree : (groupAt s r.group).state ≠ gsFree) (hmem : memberOnPort s (groupAt s r.group) p = some i)
    (hcar : carried s (groupAt s r.group) (some i) fr.hdr fr.payload = true)
    (hsig : fr.hdr.signature = sigOf (groupAt s r.group) r.seq) (htag : fr.hdr.tag = r.tag)
    (hrank : fr.hdr.rank = (memberN s (groupAt s r.group) i).rankLo)
    (htype : fr.hdr.type = tReap ∨ fr.hdr.type = tReapDeferred ∨ fr.hdr.type = tReapExpress)
    (hwrong : partWrong s r (groupAt s r.group) i fr.hdr.chunk fr.hdr fr.payload.length = false)
    (hsheaf : sheafed (groupAt s r.group) = false) (hfirst : fr.hdr.first = false) :
    ∃ x, Keeps 198183933 s x
      ∧ takeColl s p fr = returnCredits (setWaits x p fr.hdr.furrow []) p fr.hdr.furrow (creditsOf fr.hdr.length) := by
  let v := setWaits s p fr.hdr.furrow [⟨collPkt p fr, none, .behind, false⟩]
  have hv : Keeps 198183933 s v := .upd 1 (.refl _ s) rfl rfl
  refine ⟨storePart v (keyOf r) i fr.hdr.chunk fr.hdr fr.payload [], storePart_keeps rfl hv, takeColl_handled hwait ?_⟩
  have hpkt : collPacket v p (collPkt p fr) = packetOfRun v p (some i) r fr.hdr fr.payload := by
    rw [hgroup] at hfree hmem
    exact collPacket_ofRun (k := collPkt p fr) hfree hmem hfind
  have hpart : packetOfRun v p (some i) r fr.hdr fr.payload
      = reapPart v p (keyOf r) i r (groupAt v r.group) fr.hdr fr.payload :=
    packetOfRun_part hcar hsig htag hrank hopen htype
  exact hpkt.trans (hpart.trans (reapPart_later hwrong hsheaf hfirst))

/-! ## A part that returns a credit -/

/-- The open run of group 0: member 0's contribution to chunk 0 has its first part. -/
def partRun : Run :=
  { newRun 0 0 0 0 false with chunks := [(0, { Chunk.empty with contribs := [⟨0, 1, [], false, []⟩] })] }

/-- Group 0 is ACTIVE: a SUM of 512 FP32 elements from one member, at port 0, whose furrow 2 has 5 credits in use. -/
def partState : State :=
  let s := wr State.reset (aGroup 0 0)
    (bitsAt 63 62 1 ||| bitsAt 39 32 1 ||| bitsAt 31 26 2 ||| bitsAt 25 20 2 ||| bitsAt 19 14 2)
  let s := wr s (aGroup 0 1) (bitsAt 63 24 512 ||| bitsAt 23 16 1)
  let s := wr s (aGroup 0 3) (bitsAt 9 0 1)
  let s := wr s (aCredit 0 2) 5
  { s with bnd := { s.bnd with runs := [(runKey 0 0, [partRun])] } }

/-- Part 1 of that contribution, with no bytes. -/
def partFrame : Frame :=
  ⟨⟨bitsAt 59 54 tReap ||| bitsAt 53 50 2, 0, 0, bitsAt 63 32 (sigOf (groupAt partState 0) 0) ||| bitsAt 15 8 1⟩, []⟩

set_option maxRecDepth 20000 in
/-- What the statement on parts asks of that packet. -/
theorem partState_meets :
    waitsOf partState 0 partFrame.hdr.furrow = [] ∧ findRun partState partFrame.hdr.group partFrame.hdr.runNo = some partRun
      ∧ runOf partState (keyOf partRun) = some partRun ∧ (groupAt partState partRun.group).state ≠ gsFree
      ∧ memberOnPort partState (groupAt partState partRun.group) 0 = some 0
      ∧ carried partState (groupAt partState partRun.group) (some 0) partFrame.hdr partFrame.payload = true
      ∧ partFrame.hdr.signature = sigOf (groupAt partState partRun.group) partRun.seq := by decide

set_option maxRecDepth 20000 in
theorem partState_checks :
    partFrame.hdr.type = tReap ∧ partFrame.hdr.furrow = 2 ∧ partFrame.hdr.length = 0 ∧ partFrame.hdr.first = false
      ∧ partFrame.hdr.last = false ∧ partRun.group = partFrame.hdr.group ∧ partFrame.hdr.tag = partRun.tag
      ∧ partFrame.hdr.rank = (memberN partState (groupAt partState partRun.group) 0).rankLo
      ∧ partWrong partState partRun (groupAt partState partRun.group) 0 partFrame.hdr.chunk partFrame.hdr
        partFrame.payload.length = false
      ∧ sheafed (groupAt partState partRun.group) = false
      ∧ contribOf (chunkOf partRun partFrame.hdr.chunk) 0 = some ⟨0, 1, [], false, []⟩
      ∧ rdf partState (aCredit 0 2) 15 0 = 5 := by decide

/-- The part is stored and its credit returns: 4 of the 5 stay in use. -/
theorem partState_credit : rdf (takeColl partState 0 partFrame) (aCredit 0 2) 15 0 = 4 := by
  obtain ⟨hwait, hfind, -, hfree, hmem, hcar, hsig⟩ := partState_meets
  obtain ⟨htype, hfur, hlen, hfirst, -, hgroup, htag, hrank, hwrong, hsheaf, -, hfive⟩ := partState_checks
  obtain ⟨x, hkeeps, htake⟩ := takeColl_laterPart hwait hfind hgroup rfl hfree hmem hcar hsig htag hrank (.inl htype)
    hwrong hsheaf hfirst
  have hkept : rdf (setWaits x 0 2 []) (aCredit 0 2) 15 0 = 5 :=
    (rdf_congr (hkeeps.below (k := 4) (by decide) (by decide))).trans hfive
  rw [htake, hfur, hlen]
  have hret : rdf (returnCredits (setWaits x 0 2 []) 0 2 (creditsOf 0)) (aCredit 0 2) 15 0
      = rdf (setWaits x 0 2 []) (aCredit 0 2) 15 0 - creditsOf 0 := by
    refine rdf_wrf_fits _ _ (by decide) ?_
    rw [hkept]
    decide
  rw [hret, hkept]
  rfl

/-- Refutes O29: the ingress credits of a part return with it, so a register of its port below the event log
changes: with 5 credits in use on furrow 2 of port 0, 4 stay. -/
theorem not_partsAndPacketsOfRuns : ¬ Obligations.PartsAndPacketsOfRuns := by
  unfold Obligations.PartsAndPacketsOfRuns
  rintro ⟨hparts, -⟩
  obtain ⟨hwait, hfind, hrun, hfree, hmem, hcar, hsig⟩ := partState_meets
  obtain ⟨htype, -, -, hfirst, hlast, hgroup, htag, hrank, hwrong, hsheaf, hcontrib, hfive⟩ := partState_checks
  obtain ⟨hlater, -⟩ := hparts (Instr.reap, tReap) (by simp) partState 0 partFrame 0 partRun htype hwait hfind hrun hgroup
    rfl hfree hmem hcar hsig htag hrank hwrong hsheaf
  obtain ⟨u, -, hx, -, -, -, -, -, hframe⟩ := hlater _ hfirst hlast hcontrib
  have hsettled : settle (takeColl partState 0 partFrame) = settle u :=
    Host.Outcome.next.inj ((collRows_exec (row := (Instr.reap, tReap)) (by simp [collRows]) partState 0 htype).symm.trans hx)
  have hfour : rdf u (aCredit 0 2) 15 0 = 4 := by
    rw [← rdf_congr (rd_settle (s := u) (by decide)), ← hsettled, rdf_congr (rd_settle (by decide))]
    exact partState_credit
  have hsame : rdf u (aCredit 0 2) 15 0 = 5 := (rdf_congr (hframe.2.2 _ (by decide) (by simp))).trans hfive
  exact absurd (hfour.symm.trans hsame) (by decide)

end Sys2Proof.Machine
end

section
/-! PROOFS. Runs: reads of the binder's slots, and what a run waits for (R123, R144, R151, R153, R158, R173, R270,
R373). -/

namespace Sys2Proof.Machine

open Sys2Proof

/-! ## Run slots -/

theorem runOf_setRuns_same (s : State) (key : Nat) (x : List Run) : runOf (setRuns s key x) key = x.head? :=
  congrArg List.head? (tget_tset_same [] s.bnd.runs key x)

theorem runOf_setRuns_other {s : State} {key k : Nat} (x : List Run) (h : k ≠ key) :
    runOf (setRuns s key x) k = runOf s k :=
  congrArg List.head? (tget_tset_other [] [] s.bnd.runs x h)

theorem runOf_congr {s t : State} (h : t.bnd = s.bnd) (key : Nat) : runOf t key = runOf s key := by
  rw [runOf, h, runOf]

theorem modRun_of {s : State} {key : Nat} {r : Run} {f : Run → Run} (h : runOf s key = some r) :
    modRun s key f = setRuns s key [f r] := by rw [modRun, h]

theorem runOf_modRun_same {s : State} {key : Nat} {r : Run} {f : Run → Run} (h : runOf s key = some r) :
    runOf (modRun s key f) key = some (f r) := by
  rw [modRun_of h, runOf_setRuns_same]
  rfl

theorem runOf_modRun_other {s : State} {key k : Nat} {f : Run → Run} (h : k ≠ key) :
    runOf (modRun s key f) k = runOf s k := by
  unfold modRun
  split
  · rfl
  · exact runOf_setRuns_other _ h

theorem changesOnly.modRun {ps : List Part} {fs : List (Nat × Nat × Nat)} {r s : State} {key : Nat} {f : Run → Run}
    (h : changesOnly ps fs r s) (hp : Part.binding ∈ ps := by simp) : changesOnly ps fs r (Machine.modRun s key f) := by
  unfold Machine.modRun
  split
  · exact h
  · exact h.upd 8 rfl (partMask_mem hp)

theorem chunkOf_set_same (r : Run) (k : Nat) (c : Chunk) :
    chunkOf { r with chunks := tset Chunk.empty r.chunks k c } k = c := tget_tset_same Chunk.empty r.chunks k c

theorem chunkOf_set_other {r : Run} {k j : Nat} (c : Chunk) (h : j ≠ k) :
    chunkOf { r with chunks := tset Chunk.empty r.chunks k c } j = chunkOf r j :=
  tget_tset_other Chunk.empty Chunk.empty r.chunks c h

/-! ## Tables as lists -/

theorem mem_tdel {α : Type} {t : Tbl α} {i : Nat} {kv : Nat × α} (h : kv ∈ tdel t i) : kv ∈ t := by
  induction t with
  | nil => exact h
  | cons x t ih =>
    rw [tdel] at h
    split at h
    · exact List.mem_cons_of_mem _ (ih h)
    · rcases List.mem_cons.mp h with rfl | h
      · exact List.mem_cons_self
      · exact List.mem_cons_of_mem _ (ih h)

theorem mem_tins {α : Type} {t : Tbl α} {i : Nat} {x : α} {kv : Nat × α} (h : kv ∈ tins t i x) :
    kv = (i, x) ∨ kv ∈ t := by
  induction t with
  | nil => exact .inl (List.mem_singleton.mp h)
  | cons y t ih =>
    rw [tins] at h
    split at h
    · exact List.mem_cons.mp h
    · split at h
      · exact (List.mem_cons.mp h).imp id (List.mem_cons_of_mem _)
      · rcases List.mem_cons.mp h with rfl | h
        · exact .inr List.mem_cons_self
        · exact (ih h).imp id (List.mem_cons_of_mem _)

/-- What a write leaves listed was listed or is the new pair. -/
theorem mem_tset {α : Type} [DecidableEq α] {d : α} {t : Tbl α} {i : Nat} {x : α} {kv : Nat × α}
    (h : kv ∈ tset d t i x) : kv = (i, x) ∨ kv ∈ t := by
  unfold tset at h
  split at h
  · exact .inr (mem_tdel h)
  · exact mem_tins h

/-- A key that reads as something else than the default is listed with it. -/
theorem mem_of_tget {α : Type} {d v : α} {t : Tbl α} {i : Nat} (h : tget d t i = v) (hv : v ≠ d) : (i, v) ∈ t := by
  induction t with
  | nil => exact absurd h.symm hv
  | cons kv t ih =>
    rw [tget] at h
    split at h
    · next hi => exact List.mem_cons.mpr (.inl (by rw [hi, ← h]))
    · exact List.mem_cons_of_mem _ (ih h)

/-! ## The head of a wait is tried again -/

/-- The rows that try a waiting collective packet again, each with what it waited for. -/
theorem admitRow_exec {row : (Nat → Nat → Instr) × WaitWhy}
    (hrow : row ∈ [(Instr.contributionAdmit, WaitWhy.contribution), (Instr.openingPacketAdmit, WaitWhy.opening)])
    (s : State) (p f : Nat) :
    exec (row.1 p f) s = .next (if headWaits s p f row.2 then
      settle (drainColl p f (waitsOf s p f).length s) else s) := by
  simp only [List.mem_cons, List.not_mem_nil, or_false] at hrow
  rcases hrow with rfl | rfl <;> rfl

theorem headWaits_cons {s : State} {p f : Nat} {w : Waiter} {rest : List Waiter} (why : WaitWhy)
    (h : waitsOf s p f = w :: rest) : headWaits s p f why = (w.why == why) := by
  rw [headWaits, h]

theorem drainColl_done {s t : State} {p f n : Nat} {w : Waiter} {rest : List Waiter} (h : waitsOf s p f = w :: rest)
    (ht : collPacket s p w.pkt = .done t) :
    drainColl p f (n + 1) s = drainColl p f n (giveBack (setWaits t p f rest) w.pkt) := by
  rw [drainColl, h]
  simp only [ht]

theorem drainColl_wait {s t : State} {p f n : Nat} {w : Waiter} {rest : List Waiter} {why : WaitWhy}
    (h : waitsOf s p f = w :: rest) (ht : collPacket s p w.pkt = .wait t why) :
    drainColl p f (n + 1) s = setWaits t p f ({ w with why := why } :: rest) := by
  rw [drainColl, h]
  simp only [ht]

theorem admitRow_shows {row : (Nat → Nat → Instr) × WaitWhy}
    (hrow : row ∈ [(Instr.contributionAdmit, WaitWhy.contribution), (Instr.openingPacketAdmit, WaitWhy.opening)])
    {s : State} {p f : Nat} {w : Waiter} {rest : List Waiter} (h : waitsOf s p f = w :: rest) :
    (w.why ≠ row.2 → exec (row.1 p f) s = .next s)
      ∧ (w.why = row.2 → ∀ t, collPacket s p w.pkt = .done t → exec (row.1 p f) s
        = .next (settle (drainColl p f rest.length (giveBack (setWaits t p f rest) w.pkt))))
      ∧ (w.why = row.2 → ∀ t why, collPacket s p w.pkt = .wait t why → exec (row.1 p f) s
        = .next (settle (setWaits t p f ({ w with why := why } :: rest)))) := by
  rw [admitRow_exec hrow, headWaits_cons row.2 h, h, List.length_cons]
  refine ⟨fun hw => ?_, fun hw t ht => ?_, fun hw t why ht => ?_⟩
  · rw [if_neg (by simpa using hw)]
  · rw [if_pos (by simp [hw]), drainColl_done h ht]
  · rw [if_pos (by simp [hw]), drainColl_wait h ht]

/-! ## Timers of a run -/

theorem mem_insertBy {α : Type} {le : α → α → Bool} {x y : α} {ys : List α} (h : y ∈ insertBy le x ys) :
    y = x ∨ y ∈ ys := by
  induction ys with
  | nil => exact .inl (List.mem_singleton.mp h)
  | cons z ys ih =>
    rw [insertBy] at h
    split at h
    · exact List.mem_cons.mp h
    · rcases List.mem_cons.mp h with rfl | h
      · exact .inr List.mem_cons_self
      · exact (ih h).imp id (List.mem_cons_of_mem _)

/-- A sorted list begins with an item that no other is below. -/
theorem sortBy_head {α : Type} (key : α → Nat) {xs : List α} (h : xs ≠ []) :
    ∃ y ys, sortBy (fun a b => decide (key a ≤ key b)) xs = y :: ys ∧ y ∈ xs ∧ ∀ x ∈ xs, key y ≤ key x := by
  induction xs with
  | nil => exact absurd rfl h
  | cons x xs ih =>
    have hstep : sortBy (fun a b => decide (key a ≤ key b)) (x :: xs)
        = insertBy (fun a b => decide (key a ≤ key b)) x (sortBy (fun a b => decide (key a ≤ key b)) xs) := rfl
    by_cases hxs : xs = []
    · subst hxs
      exact ⟨x, [], rfl, List.mem_cons_self, fun z hz => by rw [List.mem_singleton.mp hz]⟩
    · obtain ⟨y, ys, hsort, hy, hmin⟩ := ih hxs
      rw [hstep, hsort, insertBy]
      by_cases hle : key x ≤ key y
      · refine ⟨x, y :: ys, if_pos (by simpa using hle), List.mem_cons_self, fun z hz => ?_⟩
        rcases List.mem_cons.mp hz with rfl | hz
        · exact le_rfl
        · exact hle.trans (hmin z hz)
      · refine ⟨y, _, if_neg (by simpa using hle), List.mem_cons_of_mem _ hy, fun z hz => ?_⟩
        rcases List.mem_cons.mp hz with rfl | hz
        · exact Nat.le_of_not_le hle
        · exact hmin z hz

theorem stragglerTimeout_fails {s : State} {g seq : Nat} {r : Run} {m : Member}
    (hr : runOf s (runKey g seq) = some r) (hopen : r.state = .opened) (hm : m ∈ missingMembers s r (groupAt s g))
    (hmin : ∀ x ∈ missingMembers s r (groupAt s g), x ≠ m → m.rankLo < x.rankLo) :
    exec (.stragglerTimeout g seq) s = .next (settle (failHere s (runKey g seq) 9 m.port m.rankLo)) := by
  obtain ⟨y, ys, hsort, hy, hle⟩ := sortBy_head (fun x : Member => x.rankLo) (List.ne_nil_of_mem hm)
  have hym : y = m := by
    by_contra hne
    exact absurd (hmin y hy hne) (Nat.not_lt.mpr (hle m hm))
  rw [exec_stragglerTimeout, execStragglerTimeout, hr]
  simp only [hopen, ne_eq, not_true, if_false, hsort, hym]

theorem stragglerTimeout_late {s : State} {g seq : Nat} (h : ∀ r, runOf s (runKey g seq) = some r → r.state ≠ .opened) :
    exec (.stragglerTimeout g seq) s = .next s := by
  rw [exec_stragglerTimeout, execStragglerTimeout]
  cases hr : runOf s (runKey g seq) with
  | none => rfl
  | some r => exact if_pos (h r hr)

theorem settleTimeout_closes {s : State} {g seq : Nat} {r : Run} (hr : runOf s (runKey g seq) = some r)
    (hfailed : r.state = .failed) :
    exec (.settleTimeout g seq) s = .next (settle (closeRun s (runKey g seq) r.code r.cause)) := by
  rw [exec_settleTimeout, execSettleTimeout, hr]
  exact if_neg (not_not.mpr hfailed)

theorem noJudgeTimeout_fails {s : State} {g seq k : Nat} {r : Run} (hr : runOf s (runKey g seq) = some r)
    (hstage : (chunkOf r k).stage = .judging) (hjudge : (chunkOf r k).judge = none) :
    exec (.noJudgeTimeout g seq k) s = .next (settle (chunkFailed s (runKey g seq) k 2)) := by
  rw [exec_noJudgeTimeout, execNoJudgeTimeout, hr]
  exact if_pos (by rw [hstage, hjudge]; rfl)

/-! ## Copies that have left -/

/-- A copy that goes while another of its port stays: the run forgets it and nothing else changes. -/
theorem copyOver_stays {s : State} {key k i j : Nat} {r : Run} (hr : runOf s key = some r) (hj : j ≠ i)
    (hcopy : tget 0 (chunkOf r (sowKey k)).copies j = 2)
    (hport : (memberN s (groupAt s r.group) j).port = (memberN s (groupAt s r.group) i).port) :
    copyOver s key k i = setChunk s key (sowKey k)
      { chunkOf r (sowKey k) with copies := tset 0 (chunkOf r (sowKey k)).copies i 0 } := by
  have hleft : (j, 2) ∈ tset 0 (chunkOf r (sowKey k)).copies i 0 :=
    mem_of_tget ((tget_tset_other 0 0 _ 0 hj).trans hcopy) (by decide)
  have hmem : ∀ x n, memberN (setChunk s key (sowKey k) x) (groupAt s r.group) n = memberN s (groupAt s r.group) n :=
    fun x n => by
      have hrd : ∀ a, rd (setChunk s key (sowKey k) x) a = rd s a := by
        rw [setChunk, modRun_of hr]
        exact fun _ => rfl
      simp only [memberN, memberAt, rdEntry, hrd]
  have hany : ∀ x, (tset 0 (chunkOf r (sowKey k)).copies i 0).any (fun o =>
      (memberN (setChunk s key (sowKey k) x) (groupAt s r.group) o.1).port
        == (memberN s (groupAt s r.group) i).port) = true := fun x =>
    List.any_eq_true.mpr ⟨(j, 2), hleft, by rw [hmem, hport]; exact beq_self_eq_true _⟩
  simp only [copyOver, hr, hany, if_true, if_neg (List.ne_nil_of_mem hleft)]

/-- With no copy held back nothing is queued. -/
theorem releaseHeld_none {s : State} {key : Nat} {r : Run} (hr : runOf s key = some r)
    (hnone : ∀ kv ∈ r.chunks, ∀ x ∈ kv.2.copies, x.2 ≠ 1) : releaseHeld s key = s := by
  have hheld : (r.chunks.flatMap fun kv =>
      if 2 ^ 24 ≤ kv.1 then (kv.2.copies.filter fun c => c.2 == 1).map fun c => (kv.1 - 2 ^ 24, c.1) else []) = [] := by
    refine List.flatMap_eq_nil_iff.mpr fun kv hkv => ?_
    split
    · exact List.map_eq_nil_iff.mpr (List.filter_eq_nil_iff.mpr fun c hc => by simpa using hnone kv hkv c hc)
    · rfl
  rw [releaseHeld, hr]
  simp only [hheld]
  rfl

theorem tryFinish_open {s : State} {key : Nat} {r : Run} (hr : runOf s key = some r) (hopen : r.state = .opened) :
    tryFinish s key = s := by
  rw [tryFinish, hr]
  exact if_pos (by simp [hopen])

theorem sowCopySent_shows {s : State} {p : Nat} {c : LeftCopy} {rest : List LeftCopy} {r : Run}
    (hleft : tget [] s.fab.leftCopies p = c :: rest) (hsource : s.fab.atSource = []) (hr : runOf s c.run = some r)
    (hopen : r.state = .opened) (hnone : ∀ kv ∈ r.chunks, ∀ x ∈ kv.2.copies, x.2 ≠ 1)
    (hother : ∃ i, i ≠ c.member ∧ tget 0 (chunkOf r (sowKey c.chunk)).copies i = 2
      ∧ (memberN s (groupAt s r.group) i).port = (memberN s (groupAt s r.group) c.member).port) :
    ∃ u r', exec (.sowCopySent p) s = .next (settle u) ∧ tget [] u.fab.leftCopies p = rest
      ∧ runOf u c.run = some r' ∧ tget 0 (chunkOf r' (sowKey c.chunk)).copies c.member = 0
      ∧ (∀ i, i ≠ c.member → tget 0 (chunkOf r' (sowKey c.chunk)).copies i
        = tget 0 (chunkOf r (sowKey c.chunk)).copies i)
      ∧ changesOnly [.fabric, .binding] [] s u := by
  obtain ⟨j, hj, hcopy, hport⟩ := hother
  let v : State := { s with fab := { s.fab with leftCopies := tset [] s.fab.leftCopies p rest } }
  let x : Chunk := { chunkOf r (sowKey c.chunk) with copies := tset 0 (chunkOf r (sowKey c.chunk)).copies c.member 0 }
  let r' : Run := { r with chunks := tset Chunk.empty r.chunks (sowKey c.chunk) x }
  let u := setChunk v c.run (sowKey c.chunk) x
  have hu : runOf u c.run = some r' := runOf_modRun_same (s := v) hr
  have hover : copyOver v c.run c.chunk c.member = u := copyOver_stays (s := v) hr hj hcopy hport
  have hnone' : ∀ kv ∈ r'.chunks, ∀ y ∈ kv.2.copies, y.2 ≠ 1 := fun kv hkv y hy => by
    rcases mem_tset hkv with rfl | hkv
    · rcases mem_tset (show y ∈ tset 0 (chunkOf r (sowKey c.chunk)).copies c.member 0 from hy) with rfl | hy
      · exact Nat.zero_ne_one
      · have hlisted : (sowKey c.chunk, chunkOf r (sowKey c.chunk)) ∈ r.chunks := by
          refine mem_of_tget rfl fun he => ?_
          rw [show chunkOf r (sowKey c.chunk) = Chunk.empty from he] at hy
          exact absurd hy List.not_mem_nil
        exact hnone _ hlisted y hy
    · exact hnone kv hkv y hy
  have hsrc : u.fab.atSource.length = 0 := by
    have : u.fab = v.fab := (changesOnly.refl [.binding] [] v).modRun.2.1 .fabric (by simp)
    rw [this, show v.fab.atSource = [] from hsource, List.length_nil]
  have hx : exec (.sowCopySent p) s = .next (settle u) := by
    rw [exec_sowCopySent, execSowCopySent, hleft]
    have hrow : tryFinish (releaseHeld (copyOver v c.run c.chunk c.member) c.run) c.run = u := by
      rw [hover, releaseHeld_none hu hnone', tryFinish_open hu hopen]
    simp only [v] at hrow
    simp only [hrow, hsrc, drainSource]
  have hframe : changesOnly [.fabric, .binding] [] s u :=
    ((changesOnly.refl _ _ s).upd (t := v) 1 rfl (by decide)).modRun
  have hfab : u.fab = v.fab := (changesOnly.refl [.binding] [] v).modRun.2.1 .fabric (by simp)
  refine ⟨u, r', hx, ?_, hu, ?_, fun i hi => ?_, hframe⟩
  · rw [hfab]
    exact tget_tset_same ..
  · rw [chunkOf_set_same]
    exact tget_tset_same 0 _ c.member 0
  · rw [chunkOf_set_same]
    exact tget_tset_other 0 0 _ 0 hi

/-! ## Admissions and landings -/

theorem quotaAdmit_ingress {s : State} {p f : Nat} {w : Waiter} {rest : List Waiter} (h : waitsOf s p f = w :: rest)
    (hw : w.why = .quota) : exec (.quotaAdmit (.ingress p f)) s = .next (drainPort s p f) := by
  have hq : quotaAdmitIngress s p f = drainPort s p f := by
    rw [quotaAdmitIngress, h]
    exact if_pos (by rw [hw]; rfl)
  exact congrArg Host.Outcome.next hq

theorem quotaAdmit_sow {s : State} {g seq k : Nat} {r : Run} (hr : runOf s (runKey g seq) = some r)
    (hstage : (chunkOf r (sowKey k)).stage = .checked)
    (hplaced : ∃ r', runOf (placeSow s (runKey g seq) k) (runKey g seq) = some r' ∧ (chunkOf r' k).stage = .placed) :
    exec (.quotaAdmit (.sow g seq k)) s = .next (settle (tryFinish (progress (chunkPlaced
      (placeSow s (runKey g seq) k) (runKey g seq) k) (runKey g seq)) (runKey g seq))) := by
  obtain ⟨r', hr', hst⟩ := hplaced
  have hadmit : admitSow s (runKey g seq) k = tryFinish (progress (chunkPlaced (placeSow s (runKey g seq) k)
      (runKey g seq) k) (runKey g seq)) (runKey g seq) := by
    simp [admitSow, hr, hstage, hr', hst]
  exact congrArg (fun t => Host.Outcome.next (settle t)) hadmit

theorem landingReservationResume_shows {s s' : State} {g seq : Nat} {r : Run} {recs : List Nat}
    (hr : runOf s (runKey g seq) = some r) (hland : r.landing = .waiting) (hopen : r.state = .opened)
    (hnone : ∀ kv ∈ r.chunks, kv.1 < 2 ^ 24 → kv.2.stage ≠ .checked)
    (hres : reserveLanding s r.group r.seq r.tag (groupAt s r.group) = .reserved s' recs) :
    ∃ u, exec (.landingReservationResume g seq) s = .next (settle (progress u (runKey g seq)))
      ∧ runOf u (runKey g seq) = some { r with landing := .reserved recs (vrdLossExp s (groupAt s r.group).plot) } := by
  have hkeep : Keeps 150994976 s s' := (reserveLanding_keeps (m := 150994976) rfl (.refl _ s)).reserved hres
  have hr' : runOf s' (runKey g seq) = some r := (runOf_congr (hkeep.bnd rfl) _).trans hr
  let u := modRun s' (runKey g seq) fun x => { x with landing := .reserved recs (vrdLossExp s (groupAt s r.group).plot) }
  have hu : runOf u (runKey g seq) = some { r with landing := .reserved recs (vrdLossExp s (groupAt s r.group).plot) } :=
    runOf_modRun_same hr'
  have hrun : reserveRun s (runKey g seq) = u := by simp [reserveRun, hr, hres, u]
  have hwaiting : (r.chunks.filter fun kv => kv.1 < 2 ^ 24 && kv.2.stage == .checked) = [] :=
    List.filter_eq_nil_iff.mpr fun kv hkv => by
      simp only [Bool.and_eq_true, decide_eq_true_eq, beq_iff_eq, not_and]
      exact hnone kv hkv
  refine ⟨u, ?_, hu⟩
  rw [exec_landingReservationResume, execLandingReservationResume]
  simp only [hr, hland, hopen, hrun, hu, hwaiting]
  rfl

/-- Settles O30: each timer or admission is one step of its run's slot, read off the row. -/
theorem collectiveTimers : Obligations.CollectiveTimers := by
  unfold Obligations.CollectiveTimers
  exact ⟨fun row hrow s p f w rest h => admitRow_shows hrow h,
    fun s g seq r m hr hopen hm hmin => stragglerTimeout_fails hr hopen hm hmin,
    fun s g seq h => stragglerTimeout_late h, fun s g seq r hr hf => settleTimeout_closes hr hf,
    fun s p c rest r h1 h2 h3 h4 h5 h6 => sowCopySent_shows h1 h2 h3 h4 h5 h6,
    fun s p f w rest h hw => quotaAdmit_ingress h hw, fun s g seq k r hr hst hpl => quotaAdmit_sow hr hst hpl,
    fun s g seq r s' recs hr hl ho hn hres => landingReservationResume_shows hr hl ho hn hres,
    fun s g seq k r hr hst hj => noJudgeTimeout_fails hr hst hj⟩

end Sys2Proof.Machine
end

section
/-! PROOFS. Core runs, their registers and the watches (R26, R27, R352 to R354, R369). -/

namespace Sys2Proof.Machine

open Sys2Proof

/-! ## Jobs and chunks -/

theorem jobOf_setJob_same (s : State) (u : Nat) (j : List CoreJob) : jobOf (setJob s u j) u = j.head? :=
  congrArg List.head? (tget_tset_same [] s.cores.jobs u j)

theorem jobOf_setJob_other {s : State} {u v : Nat} (j : List CoreJob) (h : v ≠ u) :
    jobOf (setJob s u j) v = jobOf s v :=
  congrArg List.head? (tget_tset_other [] [] s.cores.jobs j h)

theorem jobOf_congr {s t : State} (h : t.cores.jobs = s.cores.jobs) (u : Nat) : jobOf t u = jobOf s u := by
  rw [jobOf, h, jobOf]

theorem runOf_setChunk {s : State} {key k : Nat} {r : Run} {c : Chunk} (h : runOf s key = some r) :
    runOf (setChunk s key k c) key = some { r with chunks := tset Chunk.empty r.chunks k c } :=
  runOf_modRun_same h

theorem setChunk_cores (s : State) (key k : Nat) (c : Chunk) : (setChunk s key k c).cores = s.cores := by
  unfold setChunk modRun
  split <;> rfl

theorem rd_setChunk (s : State) (key k : Nat) (c : Chunk) (a : Nat) : rd (setChunk s key k c) a = rd s a := by
  unfold setChunk modRun
  split <;> rfl

/-! ## The registers of a core -/

theorem aDrl_inj {u a b : Nat} (h : aDrl u a = aDrl u b) : a = b := by
  unfold aDrl aCluster at h
  omega

theorem aDrl_ne {u a b : Nat} (h : a ≠ b) : aDrl u a ≠ aDrl u b := fun e => h (aDrl_inj e)

/-- DRL_RUN_CYCLES as R352 gives it. -/
theorem noteCycles_shows (s : State) (u prog elems inputs cycles : Nat) :
    rd (noteCycles s u prog elems inputs cycles) (aDrl u 0)
      = bitsAt 63 52 prog ||| bitsAt 51 35 elems ||| bitsAt 34 25 inputs ||| bitsAt 24 0 (Nat.min cycleCap cycles) :=
  rd_wr_same _ _ _

/-- The run has the shape that its core's watch names (R353). -/
def watchesShape (s : State) (u prog elems inputs : Nat) : Prop :=
  rdf s (aDrl u 8) 63 52 = prog ∧ rdf s (aDrl u 8) 51 35 = elems ∧ rdf s (aDrl u 8) 34 25 = inputs

theorem watchRun_unwatched {s : State} {u gno prog elems inputs cycles : Nat}
    (h : ¬ watchesShape s u prog elems inputs) : watchRun s u gno prog elems inputs cycles = s := by
  refine if_pos ?_
  simp only [watchesShape, not_and_or] at h
  simp only [Bool.or_eq_true, decide_eq_true_eq]
  tauto

/-- MIN and MAX of a watch after its first run. -/
def watchFirst (s : State) (u took : Nat) : State :=
  wr (wr s (aDrl u 0x10) (bitsAt 63 39 took ||| bitsAt 14 0 1)) (aDrl u 0x18) (bitsAt 63 39 took)

theorem watchRun_first {s : State} {u gno prog elems inputs cycles : Nat} (h : watchesShape s u prog elems inputs)
    (h0 : rdf s (aDrl u 0x10) 14 0 = 0) :
    watchRun s u gno prog elems inputs cycles = watchFirst s u (Nat.min cycleCap cycles) := by
  obtain ⟨hp, he, hi⟩ := h
  unfold watchRun
  rw [if_neg (by simp [hp, he, hi]), h0]
  simp [watchFirst]

theorem watchFirst_shows (s : State) {u took : Nat} (h : took < 2 ^ 25) :
    rdf (watchFirst s u took) (aDrl u 0x10) 63 39 = took ∧ rdf (watchFirst s u took) (aDrl u 0x18) 63 39 = took
      ∧ rdf (watchFirst s u took) (aDrl u 0x10) 14 0 = 1 := by
  have hlo : rd (watchFirst s u took) (aDrl u 0x10) = bitsAt 63 39 took ||| bitsAt 14 0 1 :=
    (rd_wr_other (aDrl_ne (by decide))).trans (rd_wr_same _ _ _)
  have hhi : rd (watchFirst s u took) (aDrl u 0x18) = bitsAt 63 39 took := rd_wr_same _ _ _
  refine ⟨?_, ?_, ?_⟩
  · rw [rdf, hlo, bitsOf_or, bitsOf_bitsAt_same _ (by decide), bitsOf_bitsAt_other _ (.inr (by decide)), Nat.or_zero,
      Nat.mod_eq_of_lt h]
  · rw [rdf, hhi, bitsOf_bitsAt_same _ (by decide), Nat.mod_eq_of_lt h]
  · rw [rdf, hlo, bitsOf_or, bitsOf_bitsAt_other _ (.inl (by decide)), bitsOf_bitsAt_same _ (by decide)]
    decide

/-! ## DRILL_RUN_END -/

/-- The count of a core's work before it moved here is forgotten (R382). -/
def unmoved (s : State) (u : Nat) : State :=
  { s with cores := { s.cores with migrated := tset 0 s.cores.migrated u 0 } }

theorem runResult_names (s : State) (r : Run) (g : Group) (k u cycles : Nat) (fault : RunFault) :
    (runResult s r g k u cycles fault).core = u ∧ (runResult s r g k u cycles fault).cycles = cycles := by
  unfold runResult
  cases fault with
  | residue bs => dsimp only; split <;> exact ⟨rfl, rfl⟩
  | rounding bs => dsimp only; split <;> exact ⟨rfl, rfl⟩
  | none => exact ⟨rfl, rfl⟩
  | wrong bs => exact ⟨rfl, rfl⟩
  | input => exact ⟨rfl, rfl⟩
  | output => exact ⟨rfl, rfl⟩

/-- The first of a chunk's runs to end: its result joins the chunk's, and the chunk still runs. -/
theorem endRun_first {s : State} {u key k role cycles : Nat} {fault : RunFault} {r : Run}
    (hr : runOf s key = some r) (hrole : role ≠ 2) (hstage : (chunkOf r k).stage = .running)
    (hin : (chunkOf r k).cores.contains u = true) (hleft : (chunkOf r k).results.length + 1 < (chunkOf r k).cores.length)
    (hf : fault ≠ .input) (hm : tget 0 s.cores.migrated u = 0) :
    ∃ x : RunResult, x.core = u ∧ x.cycles = Nat.min cycleCap cycles ∧
      endRun s u key k role cycles fault =
        setChunk (watchRun (noteCycles (unmoved s u) u (programNo s (groupAt s r.group))
            (elemsOfChunk (groupAt s r.group) k) (chunkOf r k).contribs.length cycles) u r.group
            (programNo s (groupAt s r.group)) (elemsOfChunk (groupAt s r.group) k) (chunkOf r k).contribs.length cycles)
          key k { chunkOf r k with results := (chunkOf r k).results ++ [x] } := by
  let g := groupAt s r.group
  let v := watchRun (noteCycles (unmoved s u) u (programNo s g) (elemsOfChunk g k) (chunkOf r k).contribs.length cycles)
    u r.group (programNo s g) (elemsOfChunk g k) (chunkOf r k).contribs.length cycles
  obtain ⟨hcore, hcyc⟩ := runResult_names v r g k u (Nat.min cycleCap (cycles + (0 - 1))) fault
  have hfault : (fault == RunFault.input) = false := by simp [hf]
  refine ⟨_, hcore, hcyc, ?_⟩
  unfold endRun
  simp only [hr, if_neg hrole, hm, if_true, hfault, Bool.false_eq_true, if_false]
  rw [if_neg (by simp [hstage]; simpa using hin), if_pos (by simpa using hleft)]
  rfl

theorem retireIfDone_active {s : State} {u : Nat} (h : coreState s u ≠ csFallow) : retireIfDone s u = s :=
  if_neg fun g => h g.1

/-- DRILL_RUN_END of a first run, from the state `t` that the run's end leaves. -/
theorem drillRunEnd_of {s t : State} {n core cycles key k role : Nat} {fault : RunFault}
    (hjob : jobOf s (9 * n + core) = some (.run key k role))
    (ht : endRun (setJob s (9 * n + core) []) (9 * n + core) key k role cycles fault = t)
    (hc : coreState t (9 * n + core) ≠ csFallow) :
    exec (.drillRunEnd n core cycles fault) s = .next (settle t) := by
  rw [exec_drillRunEnd, execDrillRunEnd]
  simp only [hjob, ht, retireIfDone_active hc]

/-- The core's job ended, its count shown, its watch kept apart: the state before the chunk takes the result. -/
def ranOut (s : State) (u prog elems inputs cycles : Nat) : State :=
  noteCycles (unmoved (setJob s u []) u) u prog elems inputs cycles

theorem ranOut_frame (s : State) (u prog elems inputs cycles : Nat) (fs : List (Nat × Nat × Nat)) :
    changesOnly [.cores, .binding] ((aDrl u 0, 63, 0) :: fs) s (ranOut s u prog elems inputs cycles) :=
  ((changesOnly.refl _ _ s).upd (t := unmoved (setJob s u []) u) 16 rfl (by decide)).wr

theorem rd_ranOut {s : State} {u prog elems inputs cycles a : Nat} (h : a ≠ aDrl u 0) :
    rd (ranOut s u prog elems inputs cycles) a = rd s a := rd_wr_other h

theorem watchesShape_ranOut (s : State) (u prog elems inputs cycles p e i : Nat) :
    watchesShape (ranOut s u prog elems inputs cycles) u p e i ↔ watchesShape s u p e i := by
  simp only [watchesShape, rdf, rd_ranOut (aDrl_ne (show 8 ≠ 0 by decide))]

theorem ranOut_jobs (s : State) (u prog elems inputs cycles v : Nat) :
    jobOf (ranOut s u prog elems inputs cycles) v = jobOf (setJob s u []) v := rfl

theorem ranOut_bnd (s : State) (u prog elems inputs cycles : Nat) :
    (ranOut s u prog elems inputs cycles).bnd = s.bnd := rfl

theorem aDrl_lt_core {n core off : Nat} (hn : n < 12) (hc : core < 9) (ho : off < 0x1_0000) (v : Nat) :
    aFltCore v ≠ aDrl (9 * n + core) off := by
  unfold aFltCore aDrl aCluster
  omega

theorem cycles_fit (cycles : Nat) : Nat.min cycleCap cycles < 2 ^ 25 :=
  Nat.lt_of_le_of_lt (Nat.min_le_left _ _) (by decide)

theorem rd_watchFirst {s : State} {u took a : Nat} (h : a ≠ aDrl u 0x10) (g : a ≠ aDrl u 0x18) :
    rd (watchFirst s u took) a = rd s a := (rd_wr_other g).trans (rd_wr_other h)

theorem runEnd_unwatched {s : State} {n core cycles key k role : Nat} {fault : RunFault} {r : Run} {prog elems : Nat}
    (hn : n < 12) (hcore : core < 9) (hjob : jobOf s (9 * n + core) = some (.run key k role))
    (hr : runOf s key = some r) (hrole : role ≠ 2) (hstage : (chunkOf r k).stage = .running)
    (hin : (chunkOf r k).cores.contains (9 * n + core) = true)
    (hleft : (chunkOf r k).results.length + 1 < (chunkOf r k).cores.length) (hf : fault ≠ .input)
    (hc : coreState s (9 * n + core) ≠ csFallow) (hm : tget 0 s.cores.migrated (9 * n + core) = 0)
    (hp : programNo s (groupAt s r.group) = prog) (he : elemsOfChunk (groupAt s r.group) k = elems)
    (hw : ¬ watchesShape s (9 * n + core) prog elems (chunkOf r k).contribs.length) :
    ∃ t x r', exec (.drillRunEnd n core cycles fault) s = .next (settle t) ∧ jobOf t (9 * n + core) = none
      ∧ (∀ v, v ≠ 9 * n + core → jobOf t v = jobOf s v)
      ∧ rd t (aDrl (9 * n + core) 0) = bitsAt 63 52 prog ||| bitsAt 51 35 elems
        ||| bitsAt 34 25 (chunkOf r k).contribs.length ||| bitsAt 24 0 (Nat.min 0x1FF_FFFF cycles)
      ∧ x.core = 9 * n + core ∧ x.cycles = Nat.min 0x1FF_FFFF cycles ∧ runOf t key = some r'
      ∧ chunkOf r' k = { chunkOf r k with results := (chunkOf r k).results ++ [x] }
      ∧ (∀ j, j ≠ k → chunkOf r' j = chunkOf r j)
      ∧ changesOnly [.cores, .binding] [(aDrl (9 * n + core) 0, 63, 0)] s t := by
  generalize hu : 9 * n + core = u at *
  let y := ranOut s u prog elems (chunkOf r k).contribs.length cycles
  obtain ⟨x, hxc, hxy, hend⟩ := endRun_first (s := setJob s u []) (cycles := cycles) (key := key) (role := role)
    (runOf_congr rfl key ▸ hr) hrole hstage hin hleft hf hm
  have hg : groupAt (setJob s u []) r.group = groupAt s r.group := rfl
  have hpn : programNo (setJob s u []) (groupAt s r.group) = programNo s (groupAt s r.group) := rfl
  rw [hg, hpn, hp, he] at hend
  have hw' : ¬ watchesShape y u prog elems (chunkOf r k).contribs.length := (watchesShape_ranOut ..).not.mpr hw
  rw [show noteCycles (unmoved (setJob s u []) u) u prog elems (chunkOf r k).contribs.length cycles = y from rfl,
    watchRun_unwatched hw'] at hend
  have hry : runOf y key = some r := (runOf_congr (ranOut_bnd s u prog elems _ cycles) key).trans hr
  let t := setChunk y key k { chunkOf r k with results := (chunkOf r k).results ++ [x] }
  have hjt : ∀ v, jobOf t v = jobOf (setJob s u []) v := fun v =>
    (jobOf_congr (congrArg Cores.jobs (setChunk_cores y key k _)) v).trans (ranOut_jobs s u prog elems _ cycles v)
  have hct : coreState t u ≠ csFallow := by
    have : coreState t u = coreState s u := rdf_congr ((rd_setChunk y key k _ _).trans
      (rd_ranOut (hu ▸ aDrl_lt_core hn hcore (by decide) _)))
    rwa [this]
  have hx : exec (.drillRunEnd n core cycles fault) s = .next (settle t) := by
    subst hu
    exact drillRunEnd_of hjob hend hct
  refine ⟨t, x, _, hx, (hjt u).trans (jobOf_setJob_same s u []),
    fun v hv => (hjt v).trans (jobOf_setJob_other [] hv), ?_, hxc, hxy, runOf_setChunk hry, chunkOf_set_same r k _,
    fun j hj => chunkOf_set_other _ hj, (ranOut_frame s u prog elems _ cycles []).modRun⟩
  exact (rd_setChunk y key k _ _).trans (noteCycles_shows _ u prog elems _ cycles)

theorem runEnd_watched {s : State} {n core cycles key k role : Nat} {fault : RunFault} {r : Run} {prog elems : Nat}
    (hn : n < 12) (hcore : core < 9) (hjob : jobOf s (9 * n + core) = some (.run key k role))
    (hr : runOf s key = some r) (hrole : role ≠ 2) (hstage : (chunkOf r k).stage = .running)
    (hin : (chunkOf r k).cores.contains (9 * n + core) = true)
    (hleft : (chunkOf r k).results.length + 1 < (chunkOf r k).cores.length) (hf : fault ≠ .input)
    (hc : coreState s (9 * n + core) ≠ csFallow) (hm : tget 0 s.cores.migrated (9 * n + core) = 0)
    (hp : programNo s (groupAt s r.group) = prog) (he : elemsOfChunk (groupAt s r.group) k = elems)
    (hw : watchesShape s (9 * n + core) prog elems (chunkOf r k).contribs.length)
    (h0 : rdf s (aDrl (9 * n + core) 0x10) 14 0 = 0) :
    ∃ t, exec (.drillRunEnd n core cycles fault) s = .next (settle t)
      ∧ rdf t (aDrl (9 * n + core) 0x10) 63 39 = Nat.min 0x1FF_FFFF cycles
      ∧ rdf t (aDrl (9 * n + core) 0x18) 63 39 = Nat.min 0x1FF_FFFF cycles
      ∧ rdf t (aDrl (9 * n + core) 0x10) 14 0 = 1
      ∧ changesOnly [.cores, .binding] [(aDrl (9 * n + core) 0, 63, 0), (aDrl (9 * n + core) 0x10, 63, 0),
        (aDrl (9 * n + core) 0x18, 63, 0)] s t := by
  generalize hu : 9 * n + core = u at *
  let y := ranOut s u prog elems (chunkOf r k).contribs.length cycles
  obtain ⟨x, -, -, hend⟩ := endRun_first (s := setJob s u []) (cycles := cycles) (key := key) (role := role)
    (runOf_congr rfl key ▸ hr) hrole hstage hin hleft hf hm
  have hg : groupAt (setJob s u []) r.group = groupAt s r.group := rfl
  have hpn : programNo (setJob s u []) (groupAt s r.group) = programNo s (groupAt s r.group) := rfl
  rw [hg, hpn, hp, he] at hend
  have hw' : watchesShape y u prog elems (chunkOf r k).contribs.length := (watchesShape_ranOut ..).mpr hw
  have h0' : rdf y (aDrl u 0x10) 14 0 = 0 := (rdf_congr (rd_ranOut (aDrl_ne (by decide)))).trans h0
  rw [show noteCycles (unmoved (setJob s u []) u) u prog elems (chunkOf r k).contribs.length cycles = y from rfl,
    watchRun_first hw' h0'] at hend
  let w := watchFirst y u (Nat.min cycleCap cycles)
  let t := setChunk w key k { chunkOf r k with results := (chunkOf r k).results ++ [x] }
  have hne : ∀ off, off < 0x1_0000 → aFltCore u ≠ aDrl u off := fun off h => hu ▸ aDrl_lt_core hn hcore h _
  have hct : coreState t u ≠ csFallow := by
    have : coreState t u = coreState s u := rdf_congr ((rd_setChunk w key k _ _).trans
      ((rd_watchFirst (hne _ (by decide)) (hne _ (by decide))).trans (rd_ranOut (hne _ (by decide)))))
    rwa [this]
  have hx : exec (.drillRunEnd n core cycles fault) s = .next (settle t) := by
    subst hu
    exact drillRunEnd_of hjob hend hct
  obtain ⟨h1, h2, h3⟩ := watchFirst_shows y (u := u) (cycles_fit cycles)
  have hrd : ∀ a hi lo, rdf t a hi lo = rdf w a hi lo := fun a _ _ => rdf_congr (rd_setChunk w key k _ a)
  exact ⟨t, hx, (hrd _ _ _).trans h1, (hrd _ _ _).trans h2, (hrd _ _ _).trans h3,
    (changesOnly.wr (changesOnly.wr (ranOut_frame s u prog elems _ cycles _))).modRun⟩

/-! ## The watches -/

theorem watchOpen_counts {s : State} {n : Nat} (h : watchOpen s n = true) :
    (exec (.hbmRefresh n) s = .next { s with cores := { s.cores with stalls := tmod 0 s.cores.stalls n (· + 1) } })
      ∧ exec (.d2dRetry n) s
        = .next { s with cores := { s.cores with retries := tmod 0 s.cores.retries n (· + 1) } } :=
  ⟨congrArg Host.Outcome.next (if_pos h), congrArg Host.Outcome.next (if_pos h)⟩

theorem watchOpen_idle {s : State} {n : Nat} (h : watchOpen s n = false) :
    exec (.hbmRefresh n) s = .next s ∧ exec (.d2dRetry n) s = .next s :=
  ⟨congrArg Host.Outcome.next (if_neg (by simp [h])), congrArg Host.Outcome.next (if_neg (by simp [h]))⟩

theorem tget_tmod_same {t : Tbl Nat} (i : Nat) (f : Nat → Nat) : tget 0 (tmod 0 t i f) i = f (tget 0 t i) :=
  tget_tset_same 0 t i _

theorem tget_tmod_other {t : Tbl Nat} {i j : Nat} (f : Nat → Nat) (h : j ≠ i) :
    tget 0 (tmod 0 t i f) j = tget 0 t j :=
  tget_tset_other 0 0 t _ h

theorem drillWatchWrite_shows {s : State} {n core : Nat} (path : Nat) (v : Word) (h : manageable s)
    (hup : clusterUp s n = true) (hcore : core < 9) :
    ∃ t, exec (.drillWatchWrite path n core v) s = .next t
      ∧ rdf t (aDrl (9 * n + core) 8) 63 25 = bitsOf v 63 25
      ∧ rdf t (aDrl (9 * n + core) 8) 24 0 = rdf s (aDrl (9 * n + core) 8) 24 0
      ∧ rd t (aDrl (9 * n + core) 0x10) = 0 ∧ rd t (aDrl (9 * n + core) 0x18) = 0
      ∧ touchesOnly [.recorder] 0xA000_0000 [aDrl (9 * n + core) 8, aDrl (9 * n + core) 0x10,
        aDrl (9 * n + core) 0x18] s t := by
  have hn : n < 12 := clusterUp_lt hup
  have hdiv : (9 * n + core) / 9 = n := by omega
  have hlt : ∀ off, off < 0x1_0000 → aDrl (9 * n + core) off < 0xA000_0000 := fun off ho => by
    unfold aDrl aCluster
    omega
  generalize hu : 9 * n + core = u at *
  let fs : List RField := [rw 63 52, rw 51 35, rw 34 25, rsv 24 0]
  let w := wr (wr (regWrite s path (aDrl u 8) fs v) (aDrl u 0x10) 0) (aDrl u 0x18) 0
  have hop : drillWatchSet s path u v = ⟨w, .ok⟩ := if_neg (by simp [hdiv, hup])
  have hx : exec (.drillWatchWrite path n core v) s = .next (captureWrite w (aDrl u 8) v) := by
    subst hu
    exact congrArg Host.Outcome.next ((mgApply_ok h (by rw [hop])).trans (by rw [hop]))
  have hf : touchesOnly [.recorder] 0xA000_0000 [aDrl u 8, aDrl u 0x10, aDrl u 0x18] s w :=
    (((touchesOnly.refl _ _ _ s).regWrite rfl (.inl (by simp))).wr (.inl (by simp))).wr (.inl (by simp))
  have hword : rd w (aDrl u 8) = mergedWord (!s.mg.rw1.contains (aDrl u 8)) fs (rd s (aDrl u 8)) v := by
    rw [rd_wr_other (aDrl_ne (by decide)), rd_wr_other (aDrl_ne (by decide)), rd_regWrite_same]
  have hrd : ∀ off, off < 0x1_0000 → rd (captureWrite w (aDrl u 8) v) (aDrl u off) = rd w (aDrl u off) :=
    fun off ho => rd_captureWrite (hlt off ho)
  refine ⟨_, hx, ?_, ?_, ?_, ?_, captureWrite_touches hf (by simp) le_rfl⟩
  · rw [rdf, hrd 8 (by decide), hword]
    have hfield : ∀ f ∈ [(63, 52), (51, 35), (34, 25)],
        bitsOf (mergedWord (!s.mg.rw1.contains (aDrl u 8)) fs (rd s (aDrl u 8)) v) f.1 f.2 = bitsOf v f.1 f.2 := by
      simp [mergedWord, fs, putField, rw, rsv, bitsOf_putBits_copy, bitsOf_putBits_other]
    exact bitsOf_split (mid := 51) (by decide) (by decide) (hfield (63, 52) (by simp))
      (bitsOf_split (mid := 34) (by decide) (by decide) (hfield (51, 35) (by simp)) (hfield (34, 25) (by simp)))
  · rw [rdf, hrd 8 (by decide), hword]
    simp [mergedWord, fs, putField, rw, rsv, bitsOf_putBits_other, rdf]
  · rw [hrd 0x10 (by decide)]
    exact (rd_wr_other (aDrl_ne (by decide))).trans (rd_wr_same _ _ _)
  · rw [hrd 0x18 (by decide)]
    exact rd_wr_same _ _ _

theorem hubWatchWrite_shows {s : State} {n : Nat} (path : Nat) (v : Word) (h : manageable s)
    (hup : clusterUp s n = true) :
    ∃ t, exec (.hubWatchWrite path n v) s = .next t ∧ rdf t (aHubWatch n) 63 48 = bitsOf v 63 48
      ∧ rdf t (aHubWatch n) 23 0 = bitsOf v 23 0 ∧ rdf t (aHubTime n) 13 0 = 0
      ∧ rdf t (aHubTime n) 63 14 = rdf s (aHubTime n) 63 14
      ∧ touchesOnly [.recorder] 0xA000_0000 [aHubWatch n, aHubTime n] s t := by
  have hn : n < 12 := clusterUp_lt hup
  have hlw : aHubWatch n < 0xA000_0000 := by unfold aHubWatch aCluster; omega
  have hlt : aHubTime n < 0xA000_0000 := by unfold aHubTime aCluster; omega
  have hne : aHubWatch n ≠ aHubTime n := by unfold aHubWatch aHubTime aCluster; omega
  let fs : List RField := [rw 63 48, rsv 47 24, rw 23 0]
  let u := regWrite s path (aHubWatch n) fs v
  let w := wrf u (aHubTime n) 13 0 0
  have hop : hubWatchSet s path n v = ⟨w, .ok⟩ := if_neg (by simp [hup])
  have hf : touchesOnly [.recorder] 0xA000_0000 [aHubWatch n] s u :=
    (touchesOnly.refl _ _ _ s).regWrite rfl (.inl (by simp))
  have hword : rd w (aHubWatch n) = mergedWord (!s.mg.rw1.contains (aHubWatch n)) fs (rd s (aHubWatch n)) v :=
    (rd_wrf_other hne).trans (rd_regWrite_same _ _ _ _ _)
  have htime : rd u (aHubTime n) = rd s (aHubTime n) := hf.2.2 _ hlt (by simpa using hne.symm)
  refine ⟨_, congrArg Host.Outcome.next ((mgApply_ok h (by rw [hop])).trans (by rw [hop])), ?_, ?_, ?_, ?_,
    captureWrite_touches ((hf.mono (qs := [.recorder]) (by simp) le_rfl (by simp)).wrf (.inl (by simp))) (by simp)
      le_rfl⟩
  · rw [rdf, rd_captureWrite hlw, hword]
    simp [mergedWord, fs, putField, rw, rsv, bitsOf_putBits_copy, bitsOf_putBits_other]
  · rw [rdf, rd_captureWrite hlw, hword]
    simp [mergedWord, fs, putField, rw, rsv, bitsOf_putBits_copy]
  · rw [rdf_congr (rd_captureWrite hlt)]
    exact rdf_wrf_same _ _ _ (by decide)
  · rw [rdf_congr (rd_captureWrite hlt)]
    exact (rdf_wrf_field _ _ _ (.inr (by decide))).trans (rdf_congr htime)

/-- Settles O31: the first of two runs to end leaves its chunk running, so nothing but the core's own registers and
the chunk's results change before the cores are given out again. -/
theorem drillRunsAndWatches : Obligations.DrillRunsAndWatches := by
  refine ⟨?_, ?_, ?_, fun s n h => watchOpen_idle h, fun s path n core v h hup hc => drillWatchWrite_shows path v h hup hc,
    fun s path n v h hup => hubWatchWrite_shows path v h hup⟩
  · intro s n core cycles fault key k role r hn hcore u g c shape took watched hjob hr hrole hstage hin hleft hf hc hm
    exact ⟨fun hw => runEnd_unwatched hn hcore hjob hr hrole hstage hin hleft hf hc hm rfl rfl hw,
      fun hw h0 => runEnd_watched hn hcore hjob hr hrole hstage hin hleft hf hc hm rfl rfl hw h0⟩
  · exact fun s n h => ⟨_, (watchOpen_counts h).1, rfl, tget_tmod_same n (· + 1), fun m hm => tget_tmod_other (· + 1) hm,
      (changesOnly.refl _ _ s).upd 16 rfl (by decide)⟩
  · exact fun s n h => ⟨_, (watchOpen_counts h).2, rfl, tget_tmod_same n (· + 1), fun m hm => tget_tmod_other (· + 1) hm,
      (changesOnly.refl _ _ s).upd 16 rfl (by decide)⟩

end Sys2Proof.Machine
end

section
/-! PROOFS. Window writes, hyperparameter arming, slot holds and scrub (R163, R171, R190, R200, R201). -/

namespace Sys2Proof.Machine

open Sys2Proof

/-! ## Bytes -/

theorem leBytes_length (n v : Nat) : (leBytes n v).length = n := by
  induction n generalizing v with
  | zero => rfl
  | succ n ih => rw [leBytes, List.length_cons, ih]

/-- Byte i of a number, least significant first. -/
theorem leBytes_getD {n i : Nat} (v : Nat) (d : Byte) (h : i < n) :
    (leBytes n v).getD i d = BitVec.ofNat 8 (v / 2 ^ (8 * i)) := by
  induction n generalizing v i with
  | zero => omega
  | succ n ih =>
    rw [leBytes]
    cases i with
    | zero =>
      refine BitVec.eq_of_toNat_eq ?_
      simp [BitVec.toNat_ofNat]
    | succ i =>
      rw [List.getD_cons_succ, ih _ (by omega), Nat.div_div_eq_div_mul, Nat.mul_succ, Nat.pow_add, Nat.mul_comm]

/-! ## HBM_WINDOW_WRITE -/

/-- Every entry over a stack offset, if any, is FALLOW. -/
theorem window_open {s : State} {n a : Nat} :
    (entriesAt s n a).any (fun e => fbState s n e != esFallow) = false ↔ ∀ e ∈ entriesAt s n a, fbState s n e = esFallow := by
  simp

theorem hbmWindowWrite_open {s : State} {n off : Nat} (path : Nat) (v : Word) (h : manageable s)
    (hup : clusterUp s n = true) (ha : off / 8 * 8 < userArea)
    (he : ∀ e ∈ entriesAt s n (off / 8 * 8), fbState s n e = esFallow) :
    exec (.hbmWindowWrite path n off v) s = .next (hbmWrite s n (off / 8 * 8) (leBytes 8 v.toNat)) := by
  have hop : hbmWindowWrite s n off v = ⟨hbmWrite s n (off / 8 * 8) (leBytes 8 v.toNat), .ok⟩ := by
    refine if_neg ?_
    simp only [hup, window_open.mpr he, Bool.not_true, Bool.false_or, Bool.or_false, decide_eq_true_eq]
    omega
  exact congrArg Host.Outcome.next ((mgApply_ok h (by rw [hop])).trans
    ((captureWrite_untabled _ (by unfold aHbm; omega)).trans (by rw [hop])))

theorem hbmWindowWrite_shut {s : State} {n off : Nat} (path : Nat) (v : Word) (h : manageable s)
    (hno : ¬ (clusterUp s n = true ∧ off / 8 * 8 < userArea
      ∧ ∀ e ∈ entriesAt s n (off / 8 * 8), fbState s n e = esFallow)) :
    exec (.hbmWindowWrite path n off v) s = .next s := by
  have hop : hbmWindowWrite s n off v = ⟨s, .access⟩ := by
    refine if_pos ?_
    by_contra hc
    simp only [Bool.or_eq_true, not_or, Bool.not_eq_true', Bool.not_eq_true, Bool.not_eq_false, decide_eq_true_eq] at hc
    exact hno ⟨hc.1.1, Nat.lt_of_not_le hc.1.2, window_open.mp hc.2⟩
  exact congrArg Host.Outcome.next ((mgApply_not_ok h (by rw [hop]; simp)).trans (by rw [hop]))

/-- What a write of eight bytes leaves of the stacks. -/
theorem hbmWrite_word_shows (s : State) (n base : Nat) (v : Word) :
    let t := hbmWrite s n base (leBytes 8 v.toNat)
    (∀ i, i < 8 → readByte 0x00 t.stk.hbm (hbmKey n (base + i)) = BitVec.ofNat 8 (v.toNat / 2 ^ (8 * i)))
      ∧ (∀ a, a < hbmKey n base ∨ hbmKey n base + 8 ≤ a → readByte 0x00 t.stk.hbm a = readByte 0x00 s.stk.hbm a)
      ∧ stackState t.stk = { stackState s.stk with lostWords := t.stk.lostWords }
      ∧ (∀ w, w ∈ t.stk.lostWords ↔ w ∈ s.stk.lostWords
        ∧ (32 * w + 32 ≤ hbmKey n base ∨ hbmKey n base + 8 ≤ 32 * w))
      ∧ touchesOnly [.stack, .stackMemory, .recorder] 0xA000_0000 [] s t := by
  intro t
  refine ⟨fun i hi => ?_, fun a ha => ?_, rfl, fun w => ?_, touchesOnly.keeps (m := 2080) (k := 9)
    (.refl _ _ _ s) (hbmWrite_keeps rfl (.refl _ _)) (by decide) (by decide)⟩
  · have hk : hbmKey n (base + i) = hbmKey n base + i := (Nat.add_assoc _ _ _).symm
    rw [hk]
    exact (readByte_writeBytes_at 0x00 _ _ _ _ (by rw [leBytes_length]; exact hi)).trans (leBytes_getD _ _ hi)
  · exact readByte_writeBytes_other 0x00 _ _ _ _ (by rw [leBytes_length]; exact ha)
  · simp [t, hbmWrite, leBytes_length]

/-! ## HYP_ARM -/

/-- A block's word 11 after the write. -/
def armWritten (s : State) (path n b : Nat) (v : Word) : State := regWrite s path (aHyp n b 11) (hypFields 11) v

theorem aHyp_lt {n b w : Nat} (hn : n < 12) (hb : b < 1024) (hw : w < 16) : aHyp n b w < 0xA000_0000 := by
  unfold aHyp aFbk aStack
  omega

theorem aHyp_ne_stat {n b w : Nat} (hw : w < 16) : aHyp n b w ≠ aTilStat n := by
  unfold aHyp aFbk aTilStat aStack
  omega

theorem armWritten_shows (s : State) (path n b : Nat) (v : Word) :
    let u := armWritten s path n b v
    rdf u (aHyp n b 11) 63 32 = bitsOf v 63 32 ∧ rdf u (aHyp n b 11) 2 0 = bitsOf v 2 0
      ∧ rdf u (aHyp n b 11) 31 3 = rdf s (aHyp n b 11) 31 3 ∧ touchesOnly [] 0xA300_0000 [aHyp n b 11] s u := by
  intro u
  have hw : ∃ first, rd u (aHyp n b 11) = mergedWord first (hypFields 11) (rd s (aHyp n b 11)) v :=
    ⟨_, rd_regWrite_same _ _ _ _ _⟩
  obtain ⟨first, hw⟩ := hw
  have hfield : ∀ f ∈ [(63, 32), (2, 2), (1, 1), (0, 0)],
      bitsOf (mergedWord first (hypFields 11) (rd s (aHyp n b 11)) v) f.1 f.2 = bitsOf v f.1 f.2 := by
    simp [mergedWord, hypFields, putField, rw, rsv, bitsOf_putBits_copy, bitsOf_putBits_other]
  refine ⟨?_, ?_, ?_, ?_⟩
  · rw [rdf, hw]
    exact hfield (63, 32) (by simp)
  · rw [rdf, hw]
    exact bitsOf_split (mid := 1) (by decide) (by decide) (hfield (2, 2) (by simp))
      (bitsOf_split (mid := 0) (by decide) (by decide) (hfield (1, 1) (by simp)) (hfield (0, 0) (by simp)))
  · rw [rdf, hw]
    simp [mergedWord, hypFields, putField, rw, rsv, bitsOf_putBits_other, rdf]
  · show touchesOnly [] (blockBase 11) _ s (regWrite s path (aHyp n b 11) (hypFields 11) v)
    rw [regWrite_noRw1 rfl]
    exact ((touchesOnly.refl _ _ _ s).keeps (logWrite_keeps (m := 134217728) rfl (.refl _ _)) rfl rfl).wr
      (.inl (by simp))

theorem hypWrite_arm {s : State} {n : Nat} (path b : Nat) (v : Word) (hup : clusterUp s n = true) :
    hypWrite s path n b 11 v =
      if bitOf v 2 then
        if pendingFinite (armWritten s path n b v) n b then
          ⟨wrf (armWritten s path n b v) (aTilStat n) 63 56 0, .ok⟩
        else ⟨wrf (wrf (armWritten s path n b v) (aHyp n b 11) 2 2 0) (aTilStat n) 63 56 rcIllegalHyp,
          .refused rcIllegalHyp⟩
      else ⟨armWritten s path n b v, .ok⟩ := by
  unfold hypWrite
  rw [if_neg (by simp [hup])]
  simp only [decide_true, Bool.true_and]
  rfl

theorem hypArm_finite {s : State} {path n b : Nat} {v : Word} (h : manageable s) (hup : clusterUp s n = true)
    (hb : b < 1024) (h2 : bitOf v 2 = true) (hf : pendingFinite (armWritten s path n b v) n b = true) :
    ∃ t, exec (.hypArm path n b v) s = .next t ∧ rd t (aHyp n b 11) = rd (armWritten s path n b v) (aHyp n b 11)
      ∧ rdf t (aTilStat n) 63 56 = 0 ∧ touchesOnly [.recorder] 0xA000_0000 [aHyp n b 11, aTilStat n] s t := by
  have hn : n < 12 := clusterUp_lt hup
  have hop := (hypWrite_arm path b v hup).trans ((if_pos h2).trans (if_pos hf))
  obtain ⟨-, -, -, hframe⟩ := armWritten_shows s path n b v
  refine ⟨_, congrArg Host.Outcome.next ((mgApply_ok h (by rw [hop])).trans (by rw [hop])), ?_, ?_,
    captureWrite_touches ((hframe.mono (by simp) (by decide) (by simp)).wrf (.inl (by simp))) (by simp) le_rfl⟩
  · rw [rd_captureWrite (aHyp_lt hn hb (by decide)), rd_wrf_other (aHyp_ne_stat (by decide))]
  · rw [rdf_congr (rd_captureWrite (aTilStat_lt hn))]
    exact rdf_wrf_same _ _ _ (by decide)

theorem hypArm_infinite {s : State} {path n b : Nat} {v : Word} (h : manageable s) (hup : clusterUp s n = true)
    (h2 : bitOf v 2 = true) (hf : pendingFinite (armWritten s path n b v) n b = false) :
    ∃ t, exec (.hypArm path n b v) s = .next t ∧ rdb t (aHyp n b 11) 2 = false ∧ rdf t (aTilStat n) 63 56 = 0x29
      ∧ touchesOnly [] 0xA300_0000 [aHyp n b 11, aTilStat n] s t := by
  have hop := (hypWrite_arm path b v hup).trans ((if_pos h2).trans (if_neg (by simp [hf])))
  obtain ⟨-, -, -, hframe⟩ := armWritten_shows s path n b v
  refine ⟨_, congrArg Host.Outcome.next ((mgApply_not_ok h (by rw [hop]; simp)).trans (by rw [hop])), ?_, ?_,
    ((hframe.mono (by simp) le_rfl (by simp)).wrf (.inl (by simp))).wrf (.inl (by simp))⟩
  swap
  · exact rdf_wrf_same _ _ _ (by decide)
  exact (rdb_wrf_other (aHyp_ne_stat (by decide))).trans (rdb_wrf_zero _ _ (show 2 < 64 by decide))

theorem hypArm_unarmed {s : State} {path n b : Nat} {v : Word} (h : manageable s) (hup : clusterUp s n = true)
    (h2 : bitOf v 2 = false) :
    exec (.hypArm path n b v) s = .next (captureWrite (armWritten s path n b v) (aHyp n b 11) v) := by
  have hop := (hypWrite_arm path b v hup).trans (if_neg (by simp [h2]))
  exact congrArg Host.Outcome.next ((mgApply_ok h (by rw [hop])).trans (by rw [hop]))

/-! ## Passes and slot holds -/

theorem passesOf_setPasses_same (s : State) (n : Nat) (x : List Pass) : passesOf (setPasses s n x) n = x :=
  tget_tset_same [] s.stk.passes n x

theorem passesOf_setPasses_other {s : State} {n m : Nat} (x : List Pass) (h : m ≠ n) :
    passesOf (setPasses s n x) m = passesOf s m := tget_tset_other [] [] s.stk.passes x h

theorem passesOf_congr {s t : State} (h : t.stk.passes = s.stk.passes) (n : Nat) : passesOf t n = passesOf s n := by
  rw [passesOf, h, passesOf]

/-- The running pass after a change that leaves it running. -/
theorem runningPass_modPass {s : State} {n : Nat} {p : Pass} {f : Pass → Pass} (h : runningPass s n = some p)
    (hf : ∀ q, (f q).started = q.started) : runningPass (modPass s n f) n = some (f p) := by
  rw [runningPass, modPass, passesOf_setPasses_same]
  rw [runningPass] at h
  generalize passesOf s n = ps at h ⊢
  induction ps with
  | nil => cases h
  | cons q qs ih =>
    rw [List.find?_cons] at h
    cases hq : q.started with
    | true =>
      rw [hq] at h
      obtain rfl : q = p := Option.some.inj h
      simp [hq, hf]
    | false =>
      rw [hq] at h
      simpa [hq] using ih h

/-- An entry that begins writes its conversion flags and its pass; nothing else. -/
theorem beginEntry_cases (s : State) (n : Nat) :
    beginEntry s n = s ∨ ∃ e v f, beginEntry s n = modPass (wrf s (aEntry n e 3) 7 0 v) n f := by
  unfold beginEntry
  split
  · exact .inl rfl
  · split
    · exact .inl rfl
    · dsimp only
      split
      · exact .inl rfl
      · exact .inr ⟨_, _, _, rfl⟩

theorem beginEntry_idle {s : State} {n : Nat} (h : runningPass s n = none) : beginEntry s n = s := by
  unfold beginEntry
  simp only [h]

theorem beginEntry_holds (s : State) (n : Nat) : (beginEntry s n).stk.slotHolds = s.stk.slotHolds := by
  obtain h | ⟨e, v, f, h⟩ := beginEntry_cases s n <;> rw [h]
  rfl

theorem beginEntry_other {s : State} {n m : Nat} (h : m ≠ n) : passesOf (beginEntry s n) m = passesOf s m := by
  obtain he | ⟨e, v, f, he⟩ := beginEntry_cases s n <;> rw [he]
  exact (passesOf_setPasses_other _ h).trans (passesOf_congr rfl m)

/-- The entry at the head of the running pass begins once no hold stands against it. -/
theorem beginEntry_begins {s : State} {n e : Nat} {p : Pass} {rest : List Nat} (h : runningPass s n = some p)
    (hl : p.left = e :: rest) (hb : p.begun = false) (h2 : p.second = none) (hh : slotHeld s n e = false) :
    ∃ p', runningPass (beginEntry s n) n = some p' ∧ p'.begun = true ∧ p'.left = p.left ∧ p'.groupsDone = 0 := by
  have hx : ∃ v f, beginEntry s n = modPass (wrf s (aEntry n e 3) 7 0 v) n f ∧ (∀ q, (f q).started = q.started)
      ∧ (f p).begun = true ∧ (f p).left = p.left ∧ (f p).groupsDone = 0 := by
    unfold beginEntry
    simp only [h, hl]
    rw [if_neg (by simp [hb, h2, hh])]
    exact ⟨_, _, rfl, fun _ => rfl, rfl, hl, rfl⟩
  obtain ⟨v, f, hx, hs, h1, h2, h3⟩ := hx
  refine ⟨f p, ?_, h1, h2, h3⟩
  rw [hx]
  exact runningPass_modPass (s := wrf s (aEntry n e 3) 7 0 v) h hs

theorem sowVersionReadDone_exec (s : State) (g seq : Nat) :
    exec (.sowVersionReadDone g seq) s = .next (forAll beginEntry
      { s with stk := { s.stk with slotHolds := s.stk.slotHolds.filter fun h => h.run != runKey g seq } }
      (stacksUp s)) := rfl

/-- Passes that run: those of the device. -/
theorem forAll_beginEntry_idle {s : State} {ns : List Nat} (h : ∀ n, runningPass s n = none) :
    forAll beginEntry s ns = s := by
  induction ns with
  | nil => rfl
  | cons n ns ih => rw [forAll, beginEntry_idle (h n), ih]

/-- A device's stacks all begin what may begin: the pass of stack n among them. -/
theorem forAll_beginEntry_begins {s : State} {ns : List Nat} {n e : Nat} {p : Pass} {rest : List Nat}
    (hn : ns.Nodup) (hm : n ∈ ns) (h : runningPass s n = some p) (hl : p.left = e :: rest) (hb : p.begun = false)
    (h2 : p.second = none) (hh : ∀ h ∈ s.stk.slotHolds, ¬ (h.stack = n ∧ h.entry = e)) :
    ∃ p', runningPass (forAll beginEntry s ns) n = some p' ∧ p'.begun = true ∧ p'.left = p.left
      ∧ p'.groupsDone = 0 := by
  let K : State → State → Prop := fun u t => passesOf t n = passesOf u n ∧ t.stk.slotHolds = u.stk.slotHolds
  obtain ⟨a, ⟨hpa, hha⟩, hpt, -⟩ := forAll_once (K := K) (f := beginEntry) (x := n) (fun _ => ⟨rfl, rfl⟩)
    (fun h g => ⟨g.1.trans h.1, g.2.trans h.2⟩) s hn hm
    (fun u y _ hy => ⟨beginEntry_other (Ne.symm hy), beginEntry_holds u y⟩)
  have hrun : runningPass a n = some p := by rw [runningPass, hpa]; exact h
  have hheld : slotHeld a n e = false := by
    unfold slotHeld
    rw [hha]
    refine List.any_eq_false.mpr fun x hx hc => ?_
    simp only [Bool.and_eq_true, beq_iff_eq] at hc
    exact hh x hx hc.1
  obtain ⟨p', hp', h3⟩ := beginEntry_begins hrun hl hb h2 hheld
  exact ⟨p', by rw [runningPass, hpt]; exact hp', h3⟩

theorem sowVersionReadDone_shows (s : State) (g seq : Nat) : ∃ t, exec (.sowVersionReadDone g seq) s = .next t
    ∧ t.stk.slotHolds = s.stk.slotHolds.filter (fun h => h.run != runKey g seq)
    ∧ ((∀ n, runningPass s n = none) → changesOnly [.stack] [] s t)
    ∧ (∀ n p e rest, n < 12 → clusterUp s n = true → runningPass s n = some p → p.left = e :: rest →
      p.begun = false → p.second = none → (∀ h ∈ s.stk.slotHolds, h.stack = n → h.entry = e → h.run = runKey g seq) →
      ∃ p', runningPass t n = some p' ∧ p'.begun = true ∧ p'.left = p.left ∧ p'.groupsDone = 0)
    ∧ touchesOnly [.stack] 0x8000_0000 [] s t := by
  let u : State := { s with stk := { s.stk with slotHolds := s.stk.slotHolds.filter fun h => h.run != runKey g seq } }
  have hu : changesOnly [.stack] [] s u := (changesOnly.refl _ _ s).upd 32 rfl (by decide)
  have hrun : ∀ n, runningPass u n = runningPass s n := fun _ => rfl
  refine ⟨forAll beginEntry u (stacksUp s), sowVersionReadDone_exec s g seq, ?_, fun hidle => ?_,
    fun n p e rest hn hup hp hl hb h2 hh => ?_, ?_⟩
  · exact forAll_rel (R := fun a b => b.stk.slotHolds = a.stk.slotHolds) (fun _ => rfl) (fun h k => k.trans h)
      (fun a n _ => beginEntry_holds a n) u
  · rw [forAll_beginEntry_idle (s := u) hidle]
    exact hu
  · refine forAll_beginEntry_begins (List.nodup_range.filter _)
      (List.mem_filter.mpr ⟨List.mem_range.mpr hn, hup⟩) ((hrun n).trans hp) hl hb h2 fun x hx hc => ?_
    obtain ⟨hmem, hne⟩ := List.mem_filter.mp hx
    exact (bne_iff_ne.mp hne) (hh x hmem hc.1 hc.2)
  · exact touchesOnly.keeps (m := 16777248) (k := 8) ((touchesOnly.refl _ _ _ s).upd (t := u) 32 rfl (by decide))
      (forAll_keeps (fun _ _ h => beginEntry_keeps rfl h) (.refl _ _)) (by decide) (by decide)

/-! ## PATROL_SCRUB -/

/-- The scrubber has moved on to the next word. -/
def scrubMoved (s : State) (n : Nat) : State :=
  { s with stk := { s.stk with scrubAt := tset 0 s.stk.scrubAt n ((tget 0 s.stk.scrubAt n + 32) % 2 ^ 36) } }

theorem scrubMoved_shows (s : State) (n : Nat) :
    tget 0 (scrubMoved s n).stk.scrubAt n = (tget 0 s.stk.scrubAt n + 32) % 2 ^ 36
      ∧ stackState (scrubMoved s n).stk = { stackState s.stk with scrubAt := (scrubMoved s n).stk.scrubAt } :=
  ⟨tget_tset_same _ _ _ _, rfl⟩

theorem count_stk (s : State) (g i x n : Nat) : (count s g i x n).stk = s.stk := by
  unfold count
  extract_lets a v m t
  split <;> rfl

theorem scrubCounted_shows (s : State) (n x : Nat) (hx : cntWidth 8 x = 64) :
    let t := count (scrubMoved s n) 8 n x 1
    (tget 0 t.stk.scrubAt n = (tget 0 s.stk.scrubAt n + 32) % 2 ^ 36
      ∧ stackState t.stk = { stackState s.stk with scrubAt := t.stk.scrubAt })
      ∧ (rd t (aCnt 8 n x)).toNat = ((rd s (aCnt 8 n x)).toNat + 1) % 2 ^ 64
      ∧ changesOnly [.stack] [(aCnt 8 n x, 63, 0), (aCnt 8 n x + 8, 0, 0)] s t := by
  intro t
  refine ⟨?_, ?_, ((changesOnly.refl _ _ s).upd (t := scrubMoved s n) 32 rfl (by decide)).count⟩
  · rw [count_stk]
    exact scrubMoved_shows s n
  · rw [rd_count_same, hx]
    rfl

/-- Settles O32: a window write of one word, an armed block, the passes that a freed slot lets begin, and the scrubber's
next word. -/
theorem windowsHoldsAndScrub : Obligations.WindowsHoldsAndScrub := by
  refine ⟨⟨fun s path n off v h => ⟨fun ho => ?_, hbmWindowWrite_shut path v h⟩, fun s path n b v h hup hb => ?_⟩,
    sowVersionReadDone_shows, fun s n hn => ?_⟩
  · exact ⟨_, hbmWindowWrite_open path v h ho.1 ho.2.1 ho.2.2, hbmWrite_word_shows s n _ v⟩
  · obtain ⟨h1, h2, h3, h4⟩ := armWritten_shows s path n b v
    exact ⟨_, h1, h2, h3, h4, fun hv hf => hypArm_finite h hup hb hv hf, fun hv hf => hypArm_infinite h hup hv hf,
      fun hv => hypArm_unarmed h hup hv⟩
  · obtain ⟨hm1, hc1, hf1⟩ := scrubCounted_shows s n 1 rfl
    obtain ⟨hm2, hc2, hf2⟩ := scrubCounted_shows s n 2 rfl
    exact ⟨⟨_, rfl, scrubMoved_shows s n, (changesOnly.refl _ _ s).upd 32 rfl (by decide)⟩,
      ⟨_, rfl, hm1, hc1, hf1⟩, _, rfl, hm2, hc2, hf2⟩

end Sys2Proof.Machine
end

section
/-! PROOFS. The commands of TIL_CMD (R191, R194 to R197, R221). -/

namespace Sys2Proof.Machine

open Sys2Proof

/-! ## Fields of an entry -/

theorem fbAt_word {s : State} {n e w : Nat} (h : w < 8) :
    wordAt (rdEntry s (aEntry n e 0) 8) w = rd s (aEntry n e w) := by
  rw [wordAt_rdEntry h, aEntry_at n e w]

theorem fbAt_state (s : State) (n e : Nat) : (fbAt s n e).state = fbState s n e :=
  congrArg (bitsOf · 63 61) (fbAt_word (by decide))

theorem fbAt_plot (s : State) (n e : Nat) : (fbAt s n e).plot = rdf s (aEntry n e 0) 51 40 :=
  congrArg (bitsOf · 51 40) (fbAt_word (by decide))

theorem fbAt_version (s : State) (n e : Nat) : (fbAt s n e).version = rdf s (aEntry n e 4) 31 0 :=
  congrArg (bitsOf · 31 0) (fbAt_word (by decide))

theorem fbAt_olderHeld (s : State) (n e : Nat) : (fbAt s n e).olderHeld = rdb s (aEntry n e 5) 63 :=
  congrArg (bitOf · 63) (fbAt_word (by decide))

theorem fbAt_congr {s t : State} {n e : Nat} (h : ∀ w < 8, rd t (aEntry n e w) = rd s (aEntry n e w)) :
    fbAt t n e = fbAt s n e := by
  unfold fbAt
  refine congrArg fbOf (List.map_congr_left fun w hw => ?_)
  rw [← aEntry_at n e w]
  exact h w (List.mem_range.mp hw)

theorem fbState_congr {s t : State} {n e : Nat} (h : rd t (aEntry n e 0) = rd s (aEntry n e 0)) :
    fbState t n e = fbState s n e := rdf_congr h

theorem aEntry_ne_cmd (n e w : Nat) : aEntry n e w ≠ aTilCmd n := by
  unfold aEntry aFbk aTilCmd aStack
  omega

theorem aEntry_inj {n e x y : Nat} (h : x ≠ y) : aEntry n e x ≠ aEntry n e y := by
  unfold aEntry aFbk aStack
  omega

/-- A word whose halves are cleared. -/
theorem putBits_halves_zero (x : Word) : putBits (putBits x 63 32 0) 31 0 0 = 0 := by
  refine BitVec.eq_of_getLsbD_eq fun k hk => ?_
  rw [getLsbD_putBits, getLsbD_putBits, Nat.zero_testBit, Nat.zero_testBit, Bool.and_false]
  split
  · simp
  · rw [if_pos (by omega)]
    simp

/-! ## The command row -/

/-- What a command of TIL_CMD does, before it reports. -/
def tilEffect (s : State) (n op plot e : Nat) : State × Nat :=
  match op with
  | 1 => if fbState s n e = esFallow then (settle (activateEntry s n e), 0) else (s, rcEntryBusy)
  | 2 => if fbState s n e = esActive then (settle (askFallow s n e), 0) else (s, rcEntryBusy)
  | 3 => if fbState s n e = esFallow then (freeEntry s n e, 0) else (s, rcEntryBusy)
  | 4 => releaseCommand s n plot
  | 5 => ({ s with stk := { s.stk with
      held := (4096 * n + plot) :: s.stk.held.filter (· != 4096 * n + plot) } }, 0)
  | 6 => ({ s with stk := { s.stk with held := s.stk.held.filter (· != 4096 * n + plot) } }, 0)
  | 7 =>
    if fbState s n e ≠ esActive ∧ fbState s n e ≠ esFallow then (s, rcEntryBusy)
    else if inRunning s n e then
      ({ s with stk := { s.stk with
          rebuildDue := feKey n e :: s.stk.rebuildDue.filter (· != feKey n e) } }, 0)
    else (rebuildSown s n e, 0)
  | _ => (s, 0)

/-- The entry that TIL_STAT shows after a command: the commands on a tensor keep it (R196). -/
def tilNamed (s : State) (n op e : Nat) : Nat := if op = 4 || op = 5 || op = 6 then rdf s (aTilStat n) 14 0 else e

theorem tilCommand_eq (s : State) (n op plot e : Nat) :
    tilCommand s n op plot e
      = (tilReport (tilEffect s n op plot e).1 n (tilNamed s n op e) (tilEffect s n op plot e).2,
        (tilEffect s n op plot e).2) := by
  unfold tilCommand tilEffect tilNamed
  rfl

theorem bitsOf_tilCmdWord {op plot e : Nat} (hop : op < 16) (hp : plot < 4096) (he : e < 32768) :
    bitsOf (tilCmdWord op plot e) 63 60 = op ∧ bitsOf (tilCmdWord op plot e) 59 48 = plot
      ∧ bitsOf (tilCmdWord op plot e) 47 33 = e ∧ bitsOf (tilCmdWord op plot e) 32 0 = 0 := by
  simp only [tilCmdWord, bitsOf_or, bitsOf_bitsAt_same _ (show 63 < 64 by decide),
    bitsOf_bitsAt_same _ (show 59 < 64 by decide), bitsOf_bitsAt_same _ (show 47 < 64 by decide), bitsOf_bitsAt_other,
    show (59 : Nat) < 60 by decide, show (47 : Nat) < 60 by decide, show (32 : Nat) < 60 by decide,
    show (47 : Nat) < 48 by decide, show (32 : Nat) < 48 by decide, show (32 : Nat) < 33 by decide, true_or, or_true,
    Nat.or_zero, Nat.zero_or]
  exact ⟨Nat.mod_eq_of_lt hop, Nat.mod_eq_of_lt hp, Nat.mod_eq_of_lt he, trivial⟩

/-- A command of TIL_CMD on a managed device: the command word is stored, the command runs, TIL_STAT reports, and an
accepted command is captured. -/
theorem tilRow_shows {s : State} (path : Nat) {n op plot e : Nat} (h : manageable s) (hup : clusterUp s n = true)
    (h1 : 1 ≤ op) (h8 : op ≤ 8) (hp : plot < 4096) (he : e < 32768) :
    ∃ w, ∀ u code, tilEffect (wr s (aTilCmd n) w) n op plot e = (u, code) →
      tilRow s path n op plot e =
        if code = 0 then captureWrite (tilReport u n (tilNamed s n op e) 0) (aTilCmd n) (tilCmdWord op plot e)
        else tilReport u n (tilNamed s n op e) code := by
  obtain ⟨hop, hplot, hentry, hres⟩ := bitsOf_tilCmdWord (show op < 16 by omega) hp he
  have hrsv : touchesReserved tilCmdFields (tilCmdWord op plot e) = false := by
    simp [touchesReserved, tilCmdFields, rsv, wo, hres]
  have hrange : outOfRange tilCmdFields (tilCmdWord op plot e) = false := by
    simp [outOfRange, tilCmdFields, rsv, wo, hop, h1, h8]
  refine ⟨mergedWord (!s.mg.rw1.contains (aTilCmd n)) tilCmdFields (rd s (aTilCmd n)) (tilCmdWord op plot e),
    fun u code hu => ?_⟩
  have hrow : tilRow s path n op plot e = mgApply s (aTilCmd n) (tilCmdWord op plot e) fun s =>
      cmdWrite s path (aTilCmd n) tilCmdFields (tilCmdWord op plot e) fun s => tilCommand s n op plot e := by
    have hx : ¬ (!clusterUp s n) = true := by simp [hup]
    unfold tilRow mgApply
    simp only [tilCmdWrite, if_neg hx, hop, hplot, hentry]
  have hnamed : ∀ w, tilNamed (wr s (aTilCmd n) w) n op e = tilNamed s n op e := fun w => by
    have hne : aTilStat n ≠ aTilCmd n := by
      unfold aTilStat aTilCmd aStack
      omega
    unfold tilNamed
    rw [rdf_congr (rd_wr_other hne)]
  have hcmd := tilCommand_eq (wr s (aTilCmd n)
    (mergedWord (!s.mg.rw1.contains (aTilCmd n)) tilCmdFields (rd s (aTilCmd n)) (tilCmdWord op plot e))) n op plot e
  rw [hu, hnamed] at hcmd
  rw [hrow]
  split
  · next hc =>
    rw [hc] at hcmd
    exact cmdRow_ok h rfl hrsv hrange rfl hcmd
  · next hc => exact cmdRow_refused h rfl hrsv hrange rfl hc hcmd

/-! ## What a command leaves in TIL_STAT and elsewhere -/

theorem tilCapture_answers (u : State) {n x : Nat} (op plot e : Nat) (hn : n < 12) (hx : x < 32768) :
    let t := captureWrite (tilReport u n x 0) (aTilCmd n) (tilCmdWord op plot e)
    rdf t (aTilStat n) 63 56 = 0 ∧ rdf t (aTilStat n) 14 0 = x := by
  intro t
  have hrd : ∀ hi lo, rdf t (aTilStat n) hi lo = rdf (tilReport u n x 0) (aTilStat n) hi lo :=
    fun _ _ => rdf_congr (rd_captureWrite (aTilStat_lt hn))
  rw [hrd, hrd]
  exact tilReport_shows u n hx (by decide)

theorem rd_tilCapture (u : State) {n x a : Nat} (op plot e : Nat) (ha : a < 0xA000_0000) (hne : a ≠ aTilStat n) :
    rd (captureWrite (tilReport u n x 0) (aTilCmd n) (tilCmdWord op plot e)) a = rd u a :=
  (rd_captureWrite ha).trans (rd_wr_other hne)

theorem tilCapture_frame {s u : State} {ps : List Part} {b n x op plot e : Nat} {as : List Nat}
    (h : touchesOnly ps b as s u) (hb : b ≤ 0xA000_0000) (hp : Part.recorder ∈ ps) (hm : aTilStat n ∈ as ∨ b ≤ aTilStat n) :
    touchesOnly ps b as s (captureWrite (tilReport u n x 0) (aTilCmd n) (tilCmdWord op plot e)) :=
  captureWrite_touches (h.wr hm) hp hb

theorem tilCapture_stk (u : State) (n x op plot e : Nat) :
    stackState (captureWrite (tilReport u n x 0) (aTilCmd n) (tilCmdWord op plot e)).stk = stackState u.stk :=
  (captureWrite_keeps (m := 167772416) rfl (.refl _ _)).stk rfl

theorem tilCapture_binStep (u : State) (n x op plot e : Nat) :
    (captureWrite (tilReport u n x 0) (aTilCmd n) (tilCmdWord op plot e)).stk.binStep = u.stk.binStep :=
  (congrArg Stacks.binStep (tilCapture_stk u n x op plot e) :)

theorem tilCapture_rebuildDue (u : State) (n x op plot e : Nat) :
    (captureWrite (tilReport u n x 0) (aTilCmd n) (tilCmdWord op plot e)).stk.rebuildDue = u.stk.rebuildDue :=
  (congrArg Stacks.rebuildDue (tilCapture_stk u n x op plot e) :)

theorem inRunning_congr {s t : State} (h : t.stk.passes = s.stk.passes) (n e : Nat) :
    inRunning t n e = inRunning s n e := by
  unfold inRunning
  rw [passesOf_congr h]

theorem inRunning_wr_cmd (s : State) (n e : Nat) (w : Word) : inRunning (wr s (aTilCmd n) w) n e = inRunning s n e :=
  inRunning_congr rfl n e

theorem rdf_wr_cmd {s : State} {w : Word} {n a hi lo : Nat} (h : a ≠ aTilCmd n) :
    rdf (wr s (aTilCmd n) w) a hi lo = rdf s a hi lo := rdf_congr (rd_wr_other h)

theorem tilNamed_entry (s : State) {n op : Nat} (e : Nat) (h : op ≠ 4 ∧ op ≠ 5 ∧ op ≠ 6) : tilNamed s n op e = e :=
  if_neg (by simp [h])

theorem tilNamed_kept (s : State) {n op : Nat} (e : Nat) (h : op = 4 ∨ op = 5 ∨ op = 6) :
    tilNamed s n op e = rdf s (aTilStat n) 14 0 :=
  if_pos (by rcases h with rfl | rfl | rfl <;> rfl)

/-- A refused command changes its own two registers alone. -/
theorem tilRow_refused {s : State} {c : Instr} (path : Nat) {n op e : Nat} (h : manageable s)
    (hup : clusterUp s n = true) (h1 : 1 ≤ op) (h8 : op ≤ 8) (hop : op ≠ 4 ∧ op ≠ 5 ∧ op ≠ 6) (he : e < 32768)
    (hx : exec c s = .next (tilRow s path n op 0 e))
    (hcmd : ∀ w, tilEffect (wr s (aTilCmd n) w) n op 0 e = (wr s (aTilCmd n) w, rcEntryBusy)) :
    ∃ t, exec c s = .next t ∧ (rdf t (aTilStat n) 63 56 = 0x20 ∧ rdf t (aTilStat n) 14 0 = e)
      ∧ touchesOnly [] (2 ^ 64) [aTilCmd n, aTilStat n] s t := by
  obtain ⟨w, hrow⟩ := tilRow_shows path h hup h1 h8 (show 0 < 4096 by decide) he
  rw [tilNamed_entry s e hop] at hrow
  refine ⟨_, hx.trans (congrArg Host.Outcome.next ((hrow _ _ (hcmd w)).trans (if_neg (by decide)))),
    tilReport_shows _ n he (by decide), ?_⟩
  exact ((touchesOnly.refl _ _ _ s).wr (.inl (by simp))).wr (.inl (by simp))

theorem fbState_wr_cmd (s : State) (n e : Nat) (w : Word) : fbState (wr s (aTilCmd n) w) n e = fbState s n e :=
  rdf_congr (rd_wr_other (aEntry_ne_cmd n e 0))

theorem fbAt_wr_cmd (s : State) (n e : Nat) (w : Word) : fbAt (wr s (aTilCmd n) w) n e = fbAt s n e :=
  fbAt_congr fun x _ => rd_wr_other (aEntry_ne_cmd n e x)

/-- An entry in a state that no command of these is for answers 0x20. -/
theorem tillerCommands_refused {s : State} {path n e : Nat} {c : Instr} (h : manageable s)
    (hup : clusterUp s n = true) (he : e < 32768)
    (hc : c = .entryActivate path n e ∧ fbState s n e ≠ esFallow ∨ c = .entryFallow path n e ∧ fbState s n e ≠ esActive
      ∨ c = .entryFree path n e ∧ fbState s n e ≠ esFallow
      ∨ c = .rebuildSown path n e ∧ fbState s n e ≠ esActive ∧ fbState s n e ≠ esFallow) :
    ∃ t, exec c s = .next t ∧ (rdf t (aTilStat n) 63 56 = 0x20 ∧ rdf t (aTilStat n) 14 0 = e)
      ∧ touchesOnly [] (2 ^ 64) [aTilCmd n, aTilStat n] s t := by
  rcases hc with ⟨rfl, hst⟩ | ⟨rfl, hst⟩ | ⟨rfl, hst⟩ | ⟨rfl, hst⟩
  · refine tilRow_refused path (op := 1) h hup (by decide) (by decide) (by decide) he rfl fun w => ?_
    exact if_neg (by rwa [fbState_wr_cmd])
  · refine tilRow_refused path (op := 2) h hup (by decide) (by decide) (by decide) he rfl fun w => ?_
    exact if_neg (by rwa [fbState_wr_cmd])
  · refine tilRow_refused path (op := 3) h hup (by decide) (by decide) (by decide) he rfl fun w => ?_
    exact if_neg (by rwa [fbState_wr_cmd])
  · refine tilRow_refused path (op := 7) h hup (by decide) (by decide) (by decide) he rfl fun w => ?_
    exact if_pos (by rwa [fbState_wr_cmd])

/-! ## ACTIVATE, FALLOW, FREE, QUERY and REBUILD_SOWN -/

theorem entryQuery_shows {s : State} (path : Nat) {n e : Nat} (h : manageable s) (hup : clusterUp s n = true)
    (he : e < 32768) : ∃ t, exec (.entryQuery path n e) s = .next t
      ∧ (rdf t (aTilStat n) 63 56 = 0 ∧ rdf t (aTilStat n) 14 0 = e)
      ∧ touchesOnly [.recorder] 0xA000_0000 [aTilCmd n, aTilStat n] s t := by
  obtain ⟨w, hrow⟩ := tilRow_shows path (op := 8) h hup (by decide) (by decide) (show 0 < 4096 by decide) he
  rw [tilNamed_entry s e (by decide)] at hrow
  exact ⟨_, congrArg Host.Outcome.next (hrow (wr s (aTilCmd n) w) 0 rfl), tilCapture_answers _ 8 0 e (clusterUp_lt hup) he,
    tilCapture_frame ((touchesOnly.refl _ _ _ s).wr (.inl (by simp))) le_rfl (by simp) (.inl (by simp))⟩

/-- A stack with a tiller keeps the entry that it activates ACTIVE. -/
theorem activateEntry_shows {s : State} {n e : Nat} (ht : tillersUp s n ≠ []) :
    let u := activateEntry s n e
    fbState u n e = esActive ∧ binStep u n e = plotStep s (fbAt s n e).plot ∧ rdb u (aEntry n e 5) 60 = false
      ∧ rd u (aEntry n e 7) = 0
      ∧ touchesOnly [.stack] (2 ^ 64) [aEntry n e 0, aEntry n e 1, aEntry n e 5, aEntry n e 6, aEntry n e 7] s u := by
  let a := setFbState s n e esActive
  have hplot : (fbAt a n e).plot = (fbAt s n e).plot := by
    rw [fbAt_plot, fbAt_plot]
    exact rdf_wrf_field _ _ _ (.inl (by decide))
  have hne : aVerdict (fbAt a n e).plot 1 ≠ aEntry n e 0 := by
    have : (fbAt a n e).plot < 4096 := by rw [fbAt_plot]; exact rdf_lt _ _ 51 40
    unfold aVerdict aVrd aEntry aFbk aStack
    omega
  have hstep : plotStep a (fbAt a n e).plot = plotStep s (fbAt s n e).plot := by
    rw [hplot] at hne ⊢
    exact rdf_wrf_other hne
  let b := setBinStep a n e (plotStep a (fbAt a n e).plot)
  let c := clearStats b n e
  let u := wrf (wrf c (aEntry n e 5) 60 60 0) (aEntry n e 7) 31 0 0
  have hu : activateEntry s n e = u := if_neg ht
  intro v
  have hv : v = u := hu
  rw [hv]
  have hbin : binStep u n e = plotStep s (fbAt s n e).plot := by
    have h1 : binStep u n e = plotStep a (fbAt a n e).plot % 2 ^ 32 := tget_tset_same _ _ _ _
    rw [h1, hstep]
    exact Nat.mod_eq_of_lt (rdf_lt _ _ 63 32)
  have hstate : fbState u n e = esActive := by
    have h1 : rd u (aEntry n e 0) = rd a (aEntry n e 0) :=
      (rd_wrf_other (aEntry_inj (by decide))).trans ((rd_wrf_other (aEntry_inj (by decide))).trans
        ((rd_wrf_other (aEntry_inj (by decide))).trans ((rd_wr_other (aEntry_inj (by decide))).trans
          ((rd_wr_other (aEntry_inj (by decide))).trans (rd_wrf_other (aEntry_inj (by decide)))))))
    rw [fbState_congr h1]
    exact rdf_wrf_same _ _ _ (by decide)
  have hword : rd u (aEntry n e 7) = 0 := by
    have h1 : rd u (aEntry n e 7) = putBits (rd c (aEntry n e 7)) 31 0 0 := by
      refine (rd_wr_same _ _ _).trans ?_
      rw [rd_wrf_other (aEntry_inj (by decide))]
    have h2 : ∃ x, rd c (aEntry n e 7) = putBits x 63 32 0 := ⟨_, rd_wr_same _ _ _⟩
    obtain ⟨x, h2⟩ := h2
    rw [h1, h2]
    exact putBits_halves_zero x
  refine ⟨hstate, hbin, ?_, hword, ?_⟩
  · exact (rdb_wrf_other (aEntry_inj (by decide))).trans (rdb_wrf_zero _ _ (show 60 < 64 by decide))
  · have ha : touchesOnly [.stack] (2 ^ 64) [aEntry n e 0, aEntry n e 1, aEntry n e 5, aEntry n e 6, aEntry n e 7] s a :=
      (touchesOnly.refl _ _ _ s).wrf (.inl (by simp))
    have hb : touchesOnly [.stack] (2 ^ 64) [aEntry n e 0, aEntry n e 1, aEntry n e 5, aEntry n e 6, aEntry n e 7] s b :=
      (ha.upd 32 rfl (by decide)).wrf (.inl (by simp))
    have hc : touchesOnly [.stack] (2 ^ 64) [aEntry n e 0, aEntry n e 1, aEntry n e 5, aEntry n e 6, aEntry n e 7] s c :=
      ((hb.wr (.inl (by simp))).wr (.inl (by simp))).wrf (.inl (by simp))
    exact (hc.wrf (.inl (by simp))).wrf (.inl (by simp))

theorem entryActivate_shows {s : State} (path : Nat) {n e : Nat} (h : manageable s) (hup : clusterUp s n = true)
    (he : e < 32768) (hst : fbState s n e = esFallow) (ht : tillersUp s n ≠ []) :
    ∃ u, exec (.entryActivate path n e) s
        = .next (captureWrite (tilReport (settle u) n e 0) (aTilCmd n) (tilCmdWord 1 0 e))
      ∧ fbState u n e = esActive ∧ binStep u n e = plotStep s (fbAt s n e).plot ∧ rdb u (aEntry n e 5) 60 = false
      ∧ rd u (aEntry n e 7) = 0
      ∧ touchesOnly [.stack] (2 ^ 64)
        [aTilCmd n, aEntry n e 0, aEntry n e 1, aEntry n e 5, aEntry n e 6, aEntry n e 7] s u := by
  have hn := clusterUp_lt hup
  obtain ⟨w, hrow⟩ := tilRow_shows path (op := 1) h hup (by decide) (by decide) (show 0 < 4096 by decide) he
  rw [tilNamed_entry s e (by decide)] at hrow
  let v := wr s (aTilCmd n) w
  obtain ⟨h1, h2, h3, h4, h5⟩ := activateEntry_shows (n := n) (e := e) (s := v) ht
  have hx := hrow (settle (activateEntry v n e)) 0 (if_pos ((fbState_wr_cmd s n e w).trans hst))
  refine ⟨activateEntry v n e, congrArg Host.Outcome.next hx, h1, ?_, h3, h4, ?_⟩
  · rw [h2, fbAt_wr_cmd]
    have hplot : (fbAt s n e).plot < 4096 := by
      rw [fbAt_plot]
      exact rdf_lt _ _ 51 40
    refine rdf_wr_cmd ?_
    unfold aVerdict aVrd aTilCmd aStack
    omega
  · exact ((touchesOnly.refl _ _ _ s).wr (.inl (by simp))).trans (h5.mono (by simp) le_rfl (by simp))

theorem entryFallow_shows {s : State} (path : Nat) {n e : Nat} (h : manageable s) (hup : clusterUp s n = true)
    (he : e < 32768) (hst : fbState s n e = esActive) :
    ∃ u, touchesOnly [] (2 ^ 64) [aTilCmd n] s u ∧ exec (.entryFallow path n e) s
      = .next (captureWrite (tilReport (settle (askFallow u n e)) n e 0) (aTilCmd n) (tilCmdWord 2 0 e)) := by
  obtain ⟨w, hrow⟩ := tilRow_shows path (op := 2) h hup (by decide) (by decide) (show 0 < 4096 by decide) he
  rw [tilNamed_entry s e (by decide)] at hrow
  exact ⟨wr s (aTilCmd n) w, (touchesOnly.refl _ _ _ s).wr (.inl (by simp)),
    congrArg Host.Outcome.next (hrow _ 0 (if_pos ((fbState_wr_cmd s n e w).trans hst)))⟩

/-- A freed record's words alone are written. -/
theorem freeRecord_shows (s : State) (n r : Nat) : (freeRecord s n r).stk.binStep = s.stk.binStep
    ∧ ∀ a, a < aLanding n 0 0 → rd (freeRecord s n r) a = rd s a := by
  refine ⟨rfl, fun a ha => ?_⟩
  have hne : ∀ x, a ≠ aLanding n r x := fun x => by
    unfold aLanding aFbk aStack at *
    omega
  exact (rd_wr_other (hne 1)).trans (rd_wr_other (hne 0))

theorem freeRecords_show (s : State) (n : Nat) (rs : List Nat) :
    (forAll (fun s r => freeRecord s n r) s rs).stk.binStep = s.stk.binStep
      ∧ ∀ a, a < aLanding n 0 0 → rd (forAll (fun s r => freeRecord s n r) s rs) a = rd s a :=
  forAll_rel (R := fun s t => t.stk.binStep = s.stk.binStep ∧ ∀ a, a < aLanding n 0 0 → rd t a = rd s a)
    (fun _ => ⟨rfl, fun _ _ => rfl⟩) (fun h g => ⟨g.1.trans h.1, fun a ha => (g.2 a ha).trans (h.2 a ha)⟩)
    (fun s r _ => freeRecord_shows s n r) s

/-- An entry's BIN_STEP cleared. -/
def stepCleared (s : State) (n e : Nat) : State :=
  { s with stk := { s.stk with binStep := tset 0 s.stk.binStep (feKey n e) 0 } }

theorem stepCleared_shows (s : State) (n e : Nat) : binStep (stepCleared s n e) n e = 0 :=
  tget_tset_same 0 s.stk.binStep (feKey n e) 0

theorem rd_stepCleared (s : State) (n e a : Nat) : rd (stepCleared s n e) a = rd s a := rfl

theorem wordAt_zeroEntry {w : Nat} (h : w < 8) : wordAt (zeroEntry 8) w = 0 := by
  interval_cases w <;> rfl

/-- An entry's words and its step cleared, before its records go. -/
def clearedEntry (s : State) (n e : Nat) : State := stepCleared (wrEntry s (aEntry n e 0) (zeroEntry 8)) n e

theorem clearedEntry_shows (s : State) (n e : Nat) :
    binStep (clearedEntry s n e) n e = 0 ∧ ∀ w, w < 8 → rd (clearedEntry s n e) (aEntry n e w) = 0 := by
  refine ⟨stepCleared_shows _ n e, fun w hw => ?_⟩
  rw [clearedEntry, rd_stepCleared, aEntry_at n e w, rd_wrEntry_at _ _ hw]
  exact wordAt_zeroEntry hw

/-- A freed entry's words and its step are 0, whatever records go with it. -/
theorem freeEntry_shows (s : State) (n : Nat) {e : Nat} (he : e < 32768) :
    binStep (freeEntry s n e) n e = 0 ∧ ∀ w, w < 8 → rd (freeEntry s n e) (aEntry n e w) = 0 := by
  obtain ⟨hstep, hwords⟩ := clearedEntry_shows s n e
  have hf : ∃ rs, freeEntry s n e = forAll (fun s r => freeRecord s n r) (clearedEntry s n e) rs := ⟨_, rfl⟩
  obtain ⟨rs, hf⟩ := hf
  obtain ⟨h1, h2⟩ := freeRecords_show (clearedEntry s n e) n rs
  rw [hf]
  refine ⟨?_, fun w hw => (h2 _ ?_).trans (hwords w hw)⟩
  · rw [binStep, h1]
    exact hstep
  · unfold aEntry aLanding aFbk aStack
    omega

theorem entryFree_shows {s : State} (path : Nat) {n e : Nat} (h : manageable s) (hup : clusterUp s n = true)
    (he : e < 32768) (hst : fbState s n e = esFallow) :
    ∃ t, exec (.entryFree path n e) s = .next t ∧ (rdf t (aTilStat n) 63 56 = 0 ∧ rdf t (aTilStat n) 14 0 = e)
      ∧ binStep t n e = 0 ∧ (∀ w, w < 8 → rd t (aEntry n e w) = 0)
      ∧ touchesOnly [.stack, .recorder] 0x8000_0000 [] s t := by
  have hn := clusterUp_lt hup
  obtain ⟨w, hrow⟩ := tilRow_shows path (op := 3) h hup (by decide) (by decide) (show 0 < 4096 by decide) he
  rw [tilNamed_entry s e (by decide)] at hrow
  let u := freeEntry (wr s (aTilCmd n) w) n e
  obtain ⟨h1, h2⟩ := freeEntry_shows (wr s (aTilCmd n) w) n he
  have hcmd : 0x8000_0000 ≤ aTilCmd n := by unfold aTilCmd aStack; omega
  have hstat : 0x8000_0000 ≤ aTilStat n := by unfold aTilStat aStack; omega
  refine ⟨_, congrArg Host.Outcome.next (hrow u 0 (if_pos ((fbState_wr_cmd s n e w).trans hst))),
    tilCapture_answers u 3 0 e hn he, ?_, fun i hi => ?_, ?_⟩
  · rw [if_pos rfl, binStep, tilCapture_binStep]
    exact h1
  · exact (rd_tilCapture u 3 0 e (aEntry_lt hn he hi) (aEntry_ne_stat he hi)).trans (h2 i hi)
  · refine tilCapture_frame ?_ (by decide) (by simp) (.inr hstat)
    exact touchesOnly.keeps (m := 16777248) (k := 8) ((touchesOnly.refl _ _ _ s).wr (.inr hcmd))
      (freeEntry_keeps rfl (.refl _ _)) (by decide) (by decide)

theorem rebuildSown_now {s : State} (path : Nat) {n e : Nat} (h : manageable s) (hup : clusterUp s n = true)
    (he : e < 32768) (hst : fbState s n e = esActive ∨ fbState s n e = esFallow) (hr : inRunning s n e = false) :
    ∃ u, touchesOnly [] (2 ^ 64) [aTilCmd n] s u ∧ exec (.rebuildSown path n e) s
      = .next (captureWrite (tilReport (rebuildSown u n e) n e 0) (aTilCmd n) (tilCmdWord 7 0 e)) := by
  obtain ⟨w, hrow⟩ := tilRow_shows path (op := 7) h hup (by decide) (by decide) (show 0 < 4096 by decide) he
  rw [tilNamed_entry s e (by decide)] at hrow
  refine ⟨wr s (aTilCmd n) w, (touchesOnly.refl _ _ _ s).wr (.inl (by simp)),
    congrArg Host.Outcome.next (hrow _ 0 ((if_neg ?_).trans (if_neg ?_)))⟩
  · rw [fbState_wr_cmd]
    tauto
  · rw [inRunning_wr_cmd, hr]
    exact Bool.false_ne_true

theorem rebuildSown_due {s : State} (path : Nat) {n e : Nat} (h : manageable s) (hup : clusterUp s n = true)
    (he : e < 32768) (hst : fbState s n e = esActive ∨ fbState s n e = esFallow) (hr : inRunning s n e = true) :
    ∃ t, exec (.rebuildSown path n e) s = .next t ∧ (rdf t (aTilStat n) 63 56 = 0 ∧ rdf t (aTilStat n) 14 0 = e)
      ∧ feKey n e ∈ t.stk.rebuildDue ∧ (∀ k, k ≠ feKey n e → (k ∈ t.stk.rebuildDue ↔ k ∈ s.stk.rebuildDue))
      ∧ touchesOnly [.stack, .recorder] 0xA000_0000 [aTilCmd n, aTilStat n] s t := by
  obtain ⟨w, hrow⟩ := tilRow_shows path (op := 7) h hup (by decide) (by decide) (show 0 < 4096 by decide) he
  rw [tilNamed_entry s e (by decide)] at hrow
  let v := wr s (aTilCmd n) w
  let u : State := { v with stk := { v.stk with
    rebuildDue := feKey n e :: v.stk.rebuildDue.filter (· != feKey n e) } }
  have heff : tilEffect v n 7 0 e = (u, 0) := by
    refine (if_neg ?_).trans (if_pos ?_)
    · rw [fbState_wr_cmd]
      tauto
    · exact (inRunning_wr_cmd s n e w).trans hr
  refine ⟨_, congrArg Host.Outcome.next (hrow u 0 heff), tilCapture_answers u 7 0 e (clusterUp_lt hup) he, ?_,
    fun k hk => ?_, tilCapture_frame (((touchesOnly.refl _ _ _ s).wr (.inl (by simp))).upd (t := u) 32 rfl (by decide))
      le_rfl (by simp) (.inl (by simp))⟩ <;> rw [if_pos rfl, tilCapture_rebuildDue]
  · exact List.mem_cons_self
  · show k ∈ feKey n e :: s.stk.rebuildDue.filter (· != feKey n e) ↔ _
    simp [hk]

/-! ## PASS_HOLD and PASS_RELEASE -/

/-- The frame and the answers of a command on a tensor that changes the holds alone. -/
theorem passHeld_shows {s : State} (path : Nat) {n op plot : Nat} {held : List Nat} (h : manageable s)
    (hup : clusterUp s n = true) (hop : op = 5 ∨ op = 6) (hp : plot < 4096)
    (hcmd : ∀ w, tilEffect (wr s (aTilCmd n) w) n op plot 0
      = ({ wr s (aTilCmd n) w with stk := { (wr s (aTilCmd n) w).stk with held := held } }, 0)) :
    (rdf (tilRow s path n op plot 0) (aTilStat n) 63 56 = 0
        ∧ rdf (tilRow s path n op plot 0) (aTilStat n) 14 0 = rdf s (aTilStat n) 14 0)
      ∧ (tilRow s path n op plot 0).stk.held = held
      ∧ stackState (tilRow s path n op plot 0).stk = { stackState s.stk with held := (tilRow s path n op plot 0).stk.held }
      ∧ touchesOnly [.stack, .recorder] 0xA000_0000 [aTilCmd n, aTilStat n] s (tilRow s path n op plot 0) := by
  obtain ⟨w, hrow⟩ := tilRow_shows path h hup (show 1 ≤ op by omega) (show op ≤ 8 by omega) hp (show 0 < 32768 by decide)
  have hx := (hrow _ 0 (hcmd w)).trans (if_pos rfl)
  rw [tilNamed_kept s 0 (by omega)] at hx
  let v := wr s (aTilCmd n) w
  let u : State := { v with stk := { v.stk with held := held } }
  have hstk := tilCapture_stk u n (rdf s (aTilStat n) 14 0) op plot 0
  rw [hx]
  have hheld : (captureWrite (tilReport u n (rdf s (aTilStat n) 14 0) 0) (aTilCmd n) (tilCmdWord op plot 0)).stk.held
      = held := (congrArg Stacks.held hstk :)
  refine ⟨tilCapture_answers u op plot 0 (clusterUp_lt hup) (rdf_lt s _ 14 0), hheld, ?_, ?_⟩
  · rw [hheld]
    exact hstk
  · exact tilCapture_frame (((touchesOnly.refl _ _ _ s).wr (.inl (by simp))).upd (t := u) 32 rfl (by decide)) le_rfl
      (by simp) (.inl (by simp))

theorem passHold_shows {s : State} (path : Nat) {n plot : Nat} (h : manageable s) (hup : clusterUp s n = true)
    (hp : plot < 4096) : ∃ t, exec (.passHold path n plot) s = .next t
      ∧ (rdf t (aTilStat n) 63 56 = 0 ∧ rdf t (aTilStat n) 14 0 = rdf s (aTilStat n) 14 0) ∧ passHeld t n plot = true
      ∧ (∀ m p, 4096 * m + p ≠ 4096 * n + plot → passHeld t m p = passHeld s m p)
      ∧ stackState t.stk = { stackState s.stk with held := t.stk.held }
      ∧ touchesOnly [.stack, .recorder] 0xA000_0000 [aTilCmd n, aTilStat n] s t := by
  obtain ⟨h1, h2, h3, h4⟩ := passHeld_shows path
    (held := (4096 * n + plot) :: s.stk.held.filter (· != 4096 * n + plot)) h hup (.inl rfl) hp fun _ => rfl
  refine ⟨_, rfl, h1, ?_, fun m p hne => ?_, h3, h4⟩
  · rw [passHeld, h2]
    simp
  · rw [passHeld, h2, passHeld, Bool.eq_iff_iff]
    simp [hne]

theorem passRelease_shows {s : State} (path : Nat) {n plot : Nat} (h : manageable s) (hup : clusterUp s n = true)
    (hp : plot < 4096) : ∃ t, exec (.passRelease path n plot) s = .next t
      ∧ (rdf t (aTilStat n) 63 56 = 0 ∧ rdf t (aTilStat n) 14 0 = rdf s (aTilStat n) 14 0) ∧ passHeld t n plot = false
      ∧ (∀ m p, 4096 * m + p ≠ 4096 * n + plot → passHeld t m p = passHeld s m p)
      ∧ stackState t.stk = { stackState s.stk with held := t.stk.held }
      ∧ touchesOnly [.stack, .recorder] 0xA000_0000 [aTilCmd n, aTilStat n] s t := by
  obtain ⟨h1, h2, h3, h4⟩ := passHeld_shows path (held := s.stk.held.filter (· != 4096 * n + plot)) h hup (.inr rfl) hp
    fun _ => rfl
  refine ⟨_, rfl, h1, ?_, fun m p hne => ?_, h3, h4⟩
  · rw [passHeld, h2]
    simp
  · rw [passHeld, h2, passHeld, Bool.eq_iff_iff]
    simp [hne]

/-! ## RELEASE_VERSION -/

/-- The entries that a release is about (R191): the tensor's, ACTIVE or FALLOW. -/
def releaseEntries (s : State) (n plot : Nat) : List Nat :=
  (entriesOf s n).filter fun e =>
    let x := fbAt s n e
    x.plot == plot && x.tensor == rdf s (aTilArg n) 63 33 && (x.state == esActive || x.state == esFallow)

theorem mem_releaseEntries {s : State} {n plot e : Nat} : e ∈ releaseEntries s n plot ↔
    e ∈ entriesOf s n ∧ (fbAt s n e).plot = plot ∧ (fbAt s n e).tensor = rdf s (aTilArg n) 63 33
      ∧ (fbState s n e = esActive ∨ fbState s n e = esFallow) := by
  simp only [releaseEntries, List.mem_filter, Bool.and_eq_true, Bool.or_eq_true, beq_iff_eq, fbAt_state, and_assoc]

theorem filterMap_tdel {α β : Type} {t : Tbl α} {i : Nat} {g : Nat × α → Option β} (h : ∀ v, g (i, v) = none) :
    (tdel t i).filterMap g = t.filterMap g := by
  induction t with
  | nil => rfl
  | cons kv t ih =>
    obtain ⟨k, v⟩ := kv
    unfold tdel
    split
    · next hk => rw [ih, ← hk, List.filterMap_cons_none (h v)]
    · rw [List.filterMap_cons, List.filterMap_cons, ih]

theorem filterMap_tins {α β : Type} {t : Tbl α} {i : Nat} {x : α} {g : Nat × α → Option β} (h : ∀ v, g (i, v) = none) :
    (tins t i x).filterMap g = t.filterMap g := by
  induction t with
  | nil => exact List.filterMap_cons_none (h x)
  | cons kv t ih =>
    obtain ⟨k, v⟩ := kv
    unfold tins
    split
    · exact List.filterMap_cons_none (h x)
    · split
      · next hk => rw [List.filterMap_cons_none (h x), ← hk, List.filterMap_cons_none (h v)]
      · rw [List.filterMap_cons, List.filterMap_cons, ih]

/-- A key that a selection passes over may be written or removed. -/
theorem filterMap_tset {α β : Type} [DecidableEq α] {d : α} {t : Tbl α} {i : Nat} {x : α} {g : Nat × α → Option β}
    (h : ∀ v, g (i, v) = none) : (tset d t i x).filterMap g = t.filterMap g := by
  unfold tset
  split
  · exact filterMap_tdel h
  · exact filterMap_tins h

/-- The commands of TIL_CMD do not show in a stack's entries. -/
theorem entriesOf_wr_cmd (s : State) (n : Nat) (w : Word) : entriesOf (wr s (aTilCmd n) w) n = entriesOf s n := by
  refine filterMap_tset (g := fun kv : Nat × Word => if aEntry n 0 0 ≤ kv.1 ∧ kv.1 < aEntry n 32768 0
    ∧ (kv.1 - aEntry n 0 0) % 64 = 0 ∧ bitsOf kv.2 63 61 ≠ esFree then some ((kv.1 - aEntry n 0 0) / 64) else none)
    fun v => if_neg fun hc => ?_
  have h1 : aEntry n 0 0 ≤ aTilCmd n := hc.1
  unfold aEntry aFbk aTilCmd aStack at h1
  omega

theorem aTilArg_ne_cmd (n : Nat) : aTilArg n ≠ aTilCmd n := by
  unfold aTilArg aTilCmd aStack
  omega

theorem releaseEntries_wr_cmd (s : State) (n plot : Nat) (w : Word) :
    releaseEntries (wr s (aTilCmd n) w) n plot = releaseEntries s n plot := by
  simp only [releaseEntries, entriesOf_wr_cmd, fbAt_wr_cmd, rdf_wr_cmd (aTilArg_ne_cmd n)]

theorem releaseCommand_eq (s : State) (n plot : Nat) : releaseCommand s n plot =
    if !(releaseEntries s n plot).any fun e => fbState s n e == esActive then (s, 0)
    else if (releaseEntries s n plot).any fun e => (fbAt s n e).version == rdf s (aTilArg n) 31 0 then
      (s, rcVersionCurrent)
    else if (releaseEntries s n plot).any fun e =>
        !((fbAt s n e).olderHeld && rdf s (aTilArg n) 31 0 + 1 == (fbAt s n e).version) then (s, rcNotHeld)
    else (forAll (fun s e => retireOlder s n e) s (releaseEntries s n plot), 0) := rfl

/-- The same command after the command word was stored. -/
theorem releaseCommand_wr_cmd (s : State) (n plot : Nat) (w : Word) : releaseCommand (wr s (aTilCmd n) w) n plot =
    if !(releaseEntries s n plot).any fun e => fbState s n e == esActive then (wr s (aTilCmd n) w, 0)
    else if (releaseEntries s n plot).any fun e => (fbAt s n e).version == rdf s (aTilArg n) 31 0 then
      (wr s (aTilCmd n) w, rcVersionCurrent)
    else if (releaseEntries s n plot).any fun e =>
        !((fbAt s n e).olderHeld && rdf s (aTilArg n) 31 0 + 1 == (fbAt s n e).version) then
      (wr s (aTilCmd n) w, rcNotHeld)
    else (forAll (fun s e => retireOlder s n e) (wr s (aTilCmd n) w) (releaseEntries s n plot), 0) := by
  rw [releaseCommand_eq]
  simp only [releaseEntries_wr_cmd, fbState_wr_cmd, fbAt_wr_cmd, rdf_wr_cmd (aTilArg_ne_cmd n)]

/-- A release that only answers. -/
theorem releaseVersion_quiet {s : State} (path : Nat) {n plot code : Nat} (h : manageable s) (hup : clusterUp s n = true)
    (hp : plot < 4096) (hcode : code < 256)
    (hcmd : ∀ w, releaseCommand (wr s (aTilCmd n) w) n plot = (wr s (aTilCmd n) w, code)) :
    ∃ t, exec (.releaseVersion path n plot) s = .next t
      ∧ (rdf t (aTilStat n) 63 56 = code ∧ rdf t (aTilStat n) 14 0 = rdf s (aTilStat n) 14 0)
      ∧ touchesOnly [.recorder] 0xA000_0000 [aTilCmd n, aTilStat n] s t := by
  obtain ⟨w, hrow⟩ := tilRow_shows path (op := 4) h hup (by decide) (by decide) hp (show 0 < 32768 by decide)
  rw [tilNamed_kept s 0 (.inl rfl)] at hrow
  have hx := hrow _ code (hcmd w)
  have hf : touchesOnly [.recorder] 0xA000_0000 [aTilCmd n, aTilStat n] s (wr s (aTilCmd n) w) :=
    (touchesOnly.refl _ _ _ s).wr (.inl (by simp))
  by_cases hc : code = 0
  · subst hc
    exact ⟨_, congrArg Host.Outcome.next (hx.trans (if_pos rfl)),
      tilCapture_answers _ 4 plot 0 (clusterUp_lt hup) (rdf_lt s _ 14 0),
      tilCapture_frame hf le_rfl (by simp) (.inl (by simp))⟩
  · exact ⟨_, congrArg Host.Outcome.next (hx.trans (if_neg hc)), tilReport_shows _ n (rdf_lt s _ 14 0) hcode,
      hf.wr (.inl (by simp))⟩

/-- A set of items, each of which an operation brings to a state that the others keep. -/
theorem forAll_reaches {α : Type} {P : State → α → Prop} {f : State → α → State} (h1 : ∀ s x, P (f s x) x)
    (h2 : ∀ s x y, P s x → P (f s y) x) : ∀ {xs : List α} {s : State} {x : α}, x ∈ xs ∨ P s x → P (forAll f s xs) x
  | [], _, _, hx => hx.resolve_left List.not_mem_nil
  | y :: ys, s, x, hx => by
    refine forAll_reaches h1 h2 (xs := ys) (s := f s y) ?_
    rcases hx with hx | hx
    · rcases List.mem_cons.mp hx with rfl | hx
      · exact .inr (h1 s x)
      · exact .inl hx
    · exact .inr (h2 s x y hx)

/-- Discarded copies of a cluster leave an entry's OLDER_HELD. -/
theorem advDiscard_olderHeld {s : State} {n e : Nat} {sel : AdvCopy → Bool} (hn : n < 12) (he : e < 32768)
    (hsel : ∀ c, sel c = true → c.cluster = n) :
    rdb (advDiscard s sel) (aEntry n e 5) 63 = rdb s (aEntry n e 5) 63 := by
  unfold advDiscard
  extract_lets -underBinder -merge -useContext +onlyGivenNames gone u
  have hu : rdb u (aEntry n e 5) 63 = rdb s (aEntry n e 5) 63 := rfl
  refine (forAll_rel (R := fun a b => rdb b (aEntry n e 5) 63 = rdb a (aEntry n e 5) 63) (fun _ => rfl)
    (fun h g => g.trans h) (fun v c hc => ?_) u).trans hu
  have hcn : c.cluster = n := hsel c (List.mem_filter.mp hc).2
  extract_lets -underBinder -merge -useContext +onlyGivenNames x bytes w
  have hw : rd (count w 5 c.cluster 28 bytes) (aEntry n e 5) = rd v (aEntry n e 5) := by
    refine (rd_count_low (Nat.lt_trans (aEntry_lt hn he (by decide)) (by decide))).trans ?_
    unfold w
    rw [hcn]
    refine rd_freeBufs_store fun p => ?_
    simp only [aEntry, aFbk, aStack, statusAddr, aCsStatus, aCluster, csClass, csIndex]
    omega
  refine Eq.trans ?_ (rdb_congr hw)
  unfold showHeld
  by_cases ha : aEntry n e 5 = aAdv c.cluster c.plot
  · rw [ha]
    exact rdb_wrf_field _ _ _ (by decide)
  · exact rdb_wrf_other ha

/-- A stack's older versions of these entries are gone. -/
def olderGone (n : Nat) (s : State) (o : Nat) : Prop := o < 32768 → rdb s (aEntry n o 5) 63 = false

theorem retireOlder_clears {s : State} {n : Nat} (hn : n < 12) (e : Nat) : olderGone n (retireOlder s n e) e := by
  intro he
  unfold retireOlder
  dsimp only
  split
  · refine (advDiscard_olderHeld hn he fun c hc => ?_).trans (rdb_wrf_zero _ _ (by decide))
    simp only [isCopy, Bool.and_eq_true, beq_iff_eq] at hc
    exact hc.1.1
  · next hold => rwa [fbAt_olderHeld, Bool.not_eq_true] at hold

theorem retireOlder_keepsGone {s : State} {n : Nat} (hn : n < 12) {o : Nat} (e : Nat) (h : olderGone n s o) :
    olderGone n (retireOlder s n e) o := by
  intro ho
  unfold retireOlder
  dsimp only
  split
  · refine (advDiscard_olderHeld hn ho fun c hc => ?_).trans ?_
    · simp only [isCopy, Bool.and_eq_true, beq_iff_eq] at hc
      exact hc.1.1
    · by_cases ha : aEntry n o 5 = aEntry n e 5
      · rw [ha]
        exact rdb_wrf_zero _ _ (by decide)
      · exact (rdb_wrf_other ha).trans (h ho)
  · exact h ho

theorem mem_entriesOf_lt {s : State} {n e : Nat} (h : e ∈ entriesOf s n) : e < 32768 := by
  obtain ⟨kv, -, hkv⟩ := List.mem_filterMap.mp h
  split at hkv
  · next hc =>
    obtain rfl := Option.some.inj hkv
    have h1 := hc.1
    have h2 := hc.2.1
    unfold aEntry aFbk aStack at h1 h2 ⊢
    omega
  · cases hkv

theorem releaseVersion_retires {s : State} (path : Nat) {n plot a : Nat} (h : manageable s)
    (hup : clusterUp s n = true) (hp : plot < 4096) (ha : a ∈ releaseEntries s n plot) (hact : fbState s n a = esActive)
    (hall : ∀ o ∈ releaseEntries s n plot, (fbAt s n o).olderHeld = true
      ∧ (fbAt s n o).version = rdf s (aTilArg n) 31 0 + 1) :
    ∃ t, exec (.releaseVersion path n plot) s = .next t
      ∧ (rdf t (aTilStat n) 63 56 = 0 ∧ rdf t (aTilStat n) 14 0 = rdf s (aTilStat n) 14 0)
      ∧ (∀ o ∈ releaseEntries s n plot, rdb t (aEntry n o 5) 63 = false)
      ∧ touchesOnly [.granary, .advance, .recorder] 0x3000_0000 [] s t := by
  have hn := clusterUp_lt hup
  obtain ⟨w, hrow⟩ := tilRow_shows path (op := 4) h hup (by decide) (by decide) hp (show 0 < 32768 by decide)
  rw [tilNamed_kept s 0 (.inl rfl)] at hrow
  let u := forAll (fun s e => retireOlder s n e) (wr s (aTilCmd n) w) (releaseEntries s n plot)
  have hany : (releaseEntries s n plot).any (fun e => fbState s n e == esActive) = true :=
    List.any_eq_true.mpr ⟨a, ha, by simp [hact]⟩
  have hcur : (releaseEntries s n plot).any (fun e => (fbAt s n e).version == rdf s (aTilArg n) 31 0) = false :=
    List.any_eq_false.mpr fun o ho => by simp [(hall o ho).2]
  have hold : (releaseEntries s n plot).any (fun e =>
      !((fbAt s n e).olderHeld && rdf s (aTilArg n) 31 0 + 1 == (fbAt s n e).version)) = false :=
    List.any_eq_false.mpr fun o ho => by simp [hall o ho]
  have hcmd : tilEffect (wr s (aTilCmd n) w) n 4 plot 0 = (u, 0) := by
    refine (releaseCommand_wr_cmd s n plot w).trans ?_
    rw [if_neg (by simp [hany]), if_neg (by simp [hcur]), if_neg (by rw [hold]; exact Bool.false_ne_true)]
  have hgone : ∀ o ∈ releaseEntries s n plot, olderGone n u o := fun o ho =>
    forAll_reaches (P := olderGone n) (fun s x => retireOlder_clears hn x)
      (fun s x y hx => retireOlder_keepsGone hn y hx) (.inl ho)
  refine ⟨_, congrArg Host.Outcome.next ((hrow u 0 hcmd).trans (if_pos rfl)),
    tilCapture_answers u 4 plot 0 hn (rdf_lt s _ 14 0), fun o ho => ?_, ?_⟩
  · have hlt := mem_entriesOf_lt (mem_releaseEntries.mp ho).1
    exact (rdb_congr (rd_tilCapture u 4 plot 0 (aEntry_lt hn hlt (by decide)) (aEntry_ne_stat hlt (by decide)))).trans
      (hgone o ho hlt)
  · refine tilCapture_frame ?_ (by decide) (by simp) (.inr (by unfold aTilStat aStack; omega))
    exact touchesOnly.keeps (m := 156237956) (k := 4)
      ((touchesOnly.refl _ _ _ s).wr (.inr (by show 0x3000_0000 ≤ _; unfold aTilCmd aStack; omega)))
      (forAll_keeps (fun _ _ hk => retireOlder_keeps rfl hk) (.refl _ _)) (by decide) (by decide)

/-- Settles O33: every command is the command word stored, its one effect and the report in TIL_STAT. -/
theorem tillerAndPlotWideCommands : Obligations.TillerAndPlotWideCommands := by
  refine ⟨fun s path n e h hup he => ⟨entryQuery_shows path h hup he, entryActivate_shows path h hup he,
    entryFallow_shows path h hup he, entryFree_shows path h hup he, rebuildSown_now path h hup he,
    rebuildSown_due path h hup he, fun c hc => tillerCommands_refused h hup he hc⟩,
    fun s path n plot h hup hp => ⟨fun hno => ?_, fun a e ha hact he hv => ?_, fun a e ha hact hne he hold => ?_,
      fun a ha hact hall => ?_, passHold_shows path h hup hp, passRelease_shows path h hup hp⟩⟩
  · refine releaseVersion_quiet path h hup hp (by decide) fun w => (releaseCommand_wr_cmd s n plot w).trans (if_pos ?_)
    rw [List.any_eq_false.mpr fun e he => by simpa using hno e (mem_releaseEntries.mp he)]
    rfl
  · refine releaseVersion_quiet path h hup hp (by decide) fun w => (releaseCommand_wr_cmd s n plot w).trans ?_
    rw [if_neg (by simpa using ⟨a, mem_releaseEntries.mpr ha, hact⟩),
      if_pos (List.any_eq_true.mpr ⟨e, mem_releaseEntries.mpr he, by simp [hv]⟩)]
    rfl
  · refine releaseVersion_quiet path h hup hp (by decide) fun w => (releaseCommand_wr_cmd s n plot w).trans ?_
    rw [if_neg (by simpa using ⟨a, mem_releaseEntries.mpr ha, hact⟩),
      if_neg (by simpa using fun o ho => hne o (mem_releaseEntries.mp ho)),
      if_pos (List.any_eq_true.mpr ⟨e, mem_releaseEntries.mpr he, ?_⟩)]
    · rfl
    · rcases hold with hold | hold
      · simp [hold]
      · simp [Ne.symm hold]
  · obtain ⟨t, hx, h1, h2, h3⟩ := releaseVersion_retires path h hup hp (mem_releaseEntries.mpr ha) hact
      fun o ho => hall o (mem_releaseEntries.mp ho)
    exact ⟨t, hx, h1, fun o ho => h2 o (mem_releaseEntries.mpr ho), h3⟩

end Sys2Proof.Machine
end

section
/-! PROOFS. Update passes (R171, R185, R186, R190): the refutation of O34. -/

namespace Sys2Proof.Machine

open Sys2Proof

/-! ## PASS_START -/

/-- The pass p begins: hyperparameters are copied and older versions retire (R171, R185, R190). -/
def startPass (s : State) (n : Nat) (p : Pass) : State :=
  let es := passEntries s n p.plot
  let s1 := forAll (copyHyper · n p.step) s ((es.map fun e => (fbAt s n e).hyp).eraseDups)
  let s2 := forAll (fun s e => retireOlder s n e) s1 es
  setPasses s2 n ({ p with started := true, left := es } :: (passesOf s2 n).erase p)

theorem passStart_starts {s : State} {n : Nat} {p : Pass} (hr : runningPass s n = none)
    (hp : (passesOf s n).find? (fun p => !passHeld s n p.plot) = some p) :
    exec (.passStart n) s = .next (settle (nextEntry (startPass s n p) n)) := by
  rw [exec_passStart, execPassStart, if_neg (by simp [hr])]
  simp only [hp]
  rfl

/-- With no cluster in service and no commit record owed nothing follows an event. -/
theorem settle_idle {s : State} (hup : ∀ n, clusterUp s n = false) (hv : s.vrd = []) : settle s = s := by
  have ha : assignAll s = s := by
    have : stacksUp s = [] := List.filter_eq_nil_iff.mpr fun n _ => by simp [hup n]
    rw [assignAll, this]
    rfl
  rw [settle, ha, serveCommits, hv]
  rfl

/-- The running pass keeps its entries when the first of them begins. -/
theorem beginEntry_left {s : State} {n : Nat} {p : Pass} (h : runningPass s n = some p) :
    ∃ q, runningPass (beginEntry s n) n = some q ∧ q.left = p.left := by
  unfold beginEntry
  simp only [h]
  split
  · exact ⟨p, h, rfl⟩
  · split
    · exact ⟨p, h, rfl⟩
    · exact ⟨_, runningPass_modPass (s := wrf s _ 7 0 _) h (fun _ => rfl), rfl⟩

theorem rd_beginEntry {s : State} {n e a : Nat} {p : Pass} {rest : List Nat} (h : runningPass s n = some p)
    (hl : p.left = e :: rest) (ha : a ≠ aEntry n e 3) : rd (beginEntry s n) a = rd s a := by
  unfold beginEntry
  simp only [h, hl]
  split
  · rfl
  · exact rd_wrf_other ha

/-- A pass with an entry left goes on. -/
theorem nextEntry_goesOn {s : State} {n e : Nat} {p : Pass} {rest : List Nat} (h : runningPass s n = some p)
    (hl : p.left = e :: rest) : nextEntry s n = beginEntry s n := by
  obtain ⟨q, hq, hql⟩ := beginEntry_left h
  unfold nextEntry endPass
  simp only [hq]
  rw [if_pos (by simp [hql, hl])]

/-- A register that the events after a pass's start leave, on a device with no cluster in service. -/
theorem rd_settle_nextEntry {s : State} {n e a : Nat} {p : Pass} {rest : List Nat}
    (hup : ∀ n, clusterUp s n = false) (hv : s.vrd = []) (h : runningPass s n = some p) (hl : p.left = e :: rest)
    (ha : a ≠ aEntry n e 3) : rd (settle (nextEntry s n)) a = rd s a := by
  have hk : Keeps 16777248 s (beginEntry s n) := beginEntry_keeps rfl (.refl _ _)
  have hup' : ∀ m, clusterUp (beginEntry s n) m = false := fun m => by
    have : rdb (beginEntry s n) aCapAvail (52 + m) = rdb s aCapAvail (52 + m) :=
      rdb_congr (hk.below (k := 8) (by decide) (by decide))
    rw [clusterUp, this]
    exact hup m
  rw [nextEntry_goesOn h hl, settle_idle hup' ((hk.vrd rfl).trans hv)]
  exact rd_beginEntry h hl ha

/-! ## A start that the statement does not describe -/

/-- A plot number so large that its advance-sowing register would lie on word 0 of hyperparameter block 0 of stack 0. -/
def farPlot : Nat := 0x7F8_0000

/-- Entry 0 of stack 0 is ACTIVE with an older version, its hyperparameter block armed, a pass of its plot queued; the
advance copy of the older version names the far plot. -/
def farState : State :=
  let s := wr State.reset (aEntry 0 0 0) (bitsAt 63 61 1)
  let s := wr s (aEntry 0 0 5) (bitsAt 63 63 1)
  let s := wr s (aHyp 0 0 8) (bitsAt 46 35 1)
  let s := wr s (aHyp 0 0 11) (bitsAt 2 2 1)
  { s with adv := [⟨0, farPlot, 0, 0, [], 0⟩], stk := { s.stk with passes := [(0, [Pass.empty 0 0])] } }

set_option maxRecDepth 20000 in
theorem farState_meets :
    runningPass farState 0 = none
      ∧ (passesOf farState 0).find? (fun p => !passHeld farState 0 p.plot) = some (Pass.empty 0 0)
      ∧ passEntries farState 0 0 = [0] ∧ (fbAt farState 0 0).hyp = 0 ∧ rdb farState (aHyp 0 0 11) 2 = true
      ∧ rdf farState (aHyp 0 0 12) 63 32 = 0 ∧ rdf farState (aHyp 0 0 8) 46 35 = 1 ∧ farState.vrd = [] := by decide

set_option maxRecDepth 20000 in
/-- HELD_64K of the far plot, now 0, was written over the block's word 0. -/
theorem farState_starts :
    runningPass (startPass farState 0 (Pass.empty 0 0)) 0 = some { Pass.empty 0 0 with started := true, left := [0] }
      ∧ rdf (startPass farState 0 (Pass.empty 0 0)) (aHyp 0 0 0) 46 35 = 0
      ∧ (∀ n < 12, clusterUp (startPass farState 0 (Pass.empty 0 0)) n = false)
      ∧ (startPass farState 0 (Pass.empty 0 0)).vrd = [] ∧ ∀ n < 12, clusterUp farState n = false := by decide

theorem clusterUp_none {s : State} (h : ∀ n < 12, clusterUp s n = false) (n : Nat) : clusterUp s n = false := by
  by_cases hn : n < 12
  · exact h n hn
  · unfold clusterUp
    rw [decide_eq_false hn, Bool.false_and]

/-- Refutes O34: nothing bounds the plot of an advance copy, and the register that shows what a plot past 4,095 holds
may lie on a hyperparameter block: the version that retires at the pass's start then writes over the block just
copied. -/
theorem not_updatePasses : ¬ Obligations.UpdatePasses := by
  unfold Obligations.UpdatePasses
  rintro ⟨⟨-, hstart⟩, -⟩
  obtain ⟨hnone, hfind, hes, hhyp, harm, hdue, hnew, hvrd⟩ := farState_meets
  obtain ⟨hrun, hzero, hup, hvrd', hup0⟩ := farState_starts
  obtain ⟨u, hx, hpass, -, hcopy, hframe⟩ := hstart farState 0 (Pass.empty 0 0) (by decide) hnone hfind
  have hsame : settle (nextEntry (startPass farState 0 (Pass.empty 0 0)) 0) = settle (nextEntry u 0) :=
    Host.Outcome.next.inj ((passStart_starts hnone hfind).symm.trans hx)
  have hplot : (Pass.empty 0 0).plot = 0 := rfl
  rw [hplot, hes] at hpass hcopy
  have hrunu : runningPass u 0 = some { Pass.empty 0 0 with started := true, left := [0] } := by
    rw [runningPass, hpass]
    rfl
  have hupu : ∀ n, clusterUp u n = false := clusterUp_none fun n hn => by
    have : rdb u aCapAvail (52 + n) = rdb farState aCapAvail (52 + n) :=
      rdb_congr (hframe.2.2 _ (by decide) (by simp))
    rw [clusterUp, this]
    exact hup0 n hn
  have hvu : u.vrd = [] := (hframe.2.1 .verdicts (by simp)).trans hvrd
  have hcopied := hcopy 0 (by simp)
  simp only [hhyp] at hcopied
  have hword : rd u (aHyp 0 0 0) = rd farState (aHyp 0 0 8) := (hcopied harm (by rw [hdue]; exact Nat.zero_le _)).1 0 (by simp)
  have hone : rdf u (aHyp 0 0 0) 46 35 = 1 := by rw [rdf, hword]; exact hnew
  have hleft : rd u (aHyp 0 0 0) = rd (startPass farState 0 (Pass.empty 0 0)) (aHyp 0 0 0) := by
    rw [← rd_settle_nextEntry hupu hvu hrunu rfl (by decide), ← hsame,
      rd_settle_nextEntry (clusterUp_none hup) hvrd' hrun rfl (by decide)]
  exact absurd (hone.symm.trans ((rdf_congr hleft).trans hzero)) (by decide)

end Sys2Proof.Machine
end

section
/-! PROOFS. The commands of VRD_CMD (R225 to R228). -/

namespace Sys2Proof.Machine

open Sys2Proof

/-! ## The command row -/

theorem aVerdict_ne_cmd {p w : Nat} (n : Nat) (hp : p < 4096) (hw : w < 8) :
    aVerdict p w ≠ aVrdCmd n ∧ aVerdict p w ≠ aVrdStat n := by
  unfold aVerdict aVrdCmd aVrdStat aVrd aStack
  omega

theorem aVerdict_inj {p x y : Nat} (h : x ≠ y) : aVerdict p x ≠ aVerdict p y := by
  unfold aVerdict aVrd aStack
  omega

theorem aVerdict_lt {p w : Nat} (hp : p < 4096) (hw : w < 8) : aVerdict p w < 0xA000_0000 := by
  unfold aVerdict aVrd aStack
  omega

theorem aVrdStat_lt {n : Nat} (hn : n < 12) : aVrdStat n < 0xA000_0000 := by
  unfold aVrdStat aVrd aStack
  omega

/-- What a command of VRD_CMD does, before it reports. -/
def verdictEffect (s : State) (stack op p : Nat) : State × Nat :=
  match op with
  | 1 =>
    if vrdState s p ≠ vsFree ∧ vrdState s p ≠ vsFallow then (s, rcVerdictBusy)
    else if !vgroupOk s p then (s, rcVgroupInvalid)
    else (settle (wr (wrf s (aVerdict p 0) 63 61 vsCollecting) (aVerdict p 6) 0), 0)
  | 2 =>
    if vrdState s p = vsFree then (s, rcVerdictBusy)
    else if vrdState s p = vsCollecting ∨ vrdState s p = vsUnresolved then (wrf s (aVerdict p 0) 63 61 vsFallow, 0)
    else if vrdState s p = vsFallow then (s, 0)
    else (setVrdWork s p { vrdWork s p with fallowDue := true }, 0)
  | 3 =>
    if vrdState s p ≠ vsFallow then (s, rcVerdictBusy)
    else (setVrdWork (wrf s (aVerdict p 0) 63 61 vsFree) p VerdictWork.empty, 0)
  | 4 =>
    if !(vrdState s p == vsUnresolved || (vrdState s p == vsCollecting && (resolveArgs s stack).outcome != ocFit)) then
      (s, rcVerdictBusy)
    else if rdf s (aVrdArg0 stack) 63 32 ≠ plotStep s p then (s, rcWrongStep)
    else if (resolveArgs s stack).outcome < 1 || 4 < (resolveArgs s stack).outcome then (s, rcIllegalOutcome)
    else (settle (applyOutcome s p (resolveArgs s stack)), 0)
  | 5 => if vrdState s p ≠ vsCollecting then (s, rcVerdictBusy) else (wrf s (aVerdict p 0) 53 53 1, 0)
  | _ => (s, 0)

/-- VRD_STAT after a command. -/
def verdictReport (s : State) (stack p code : Nat) : State := wr s (aVrdStat stack) (bitsAt 63 56 code ||| bitsAt 11 0 p)

theorem verdictCommand_eq (s : State) (n op p : Nat) : verdictCommand s n op p
    = (verdictReport (verdictEffect s n op p).1 n p (verdictEffect s n op p).2, (verdictEffect s n op p).2) := by
  unfold verdictCommand verdictEffect verdictReport
  rfl

theorem verdictReport_shows (s : State) (n : Nat) {p code : Nat} (hp : p < 4096) (hcode : code < 256) :
    rdf (verdictReport s n p code) (aVrdStat n) 63 56 = code ∧ rdf (verdictReport s n p code) (aVrdStat n) 11 0 = p := by
  rw [rdf, rdf, verdictReport, rd_wr_same]
  simp only [bitsOf_or, bitsOf_bitsAt_same _ (show 63 < 64 by decide), bitsOf_bitsAt_same _ (show 11 < 64 by decide),
    bitsOf_bitsAt_other, show (11 : Nat) < 56 by decide, true_or, or_true, Nat.or_zero, Nat.zero_or]
  exact ⟨Nat.mod_eq_of_lt hcode, Nat.mod_eq_of_lt hp⟩

theorem bitsOf_verdictCmdWord {op p : Nat} (hop : op < 16) (hp : p < 4096) :
    bitsOf (verdictCmdWord op p) 63 60 = op ∧ bitsOf (verdictCmdWord op p) 11 0 = p
      ∧ bitsOf (verdictCmdWord op p) 59 12 = 0 := by
  simp only [verdictCmdWord, bitsOf_or, bitsOf_bitsAt_same _ (show 63 < 64 by decide),
    bitsOf_bitsAt_same _ (show 11 < 64 by decide), bitsOf_bitsAt_other, show (11 : Nat) < 60 by decide,
    show (59 : Nat) < 60 by decide, show (11 : Nat) < 12 by decide, true_or, or_true, Nat.or_zero, Nat.zero_or]
  exact ⟨Nat.mod_eq_of_lt hop, Nat.mod_eq_of_lt hp, trivial⟩

theorem vrdState_wr_cmd (s : State) (n : Nat) {p : Nat} (w : Word) (hp : p < 4096) :
    vrdState (wr s (aVrdCmd n) w) p = vrdState s p :=
  rdf_congr (rd_wr_other (aVerdict_ne_cmd n hp (by decide)).1)

theorem groupAt_congr {s t : State} {g : Nat} (h : ∀ i < 8, rd t (aGroup g 0 + 8 * i) = rd s (aGroup g 0 + 8 * i)) :
    groupAt t g = groupAt s g :=
  congrArg groupOf (List.map_congr_left fun i hi => h i (List.mem_range.mp hi))

/-- The plot's group is another's register. -/
theorem vgroupOk_wr_cmd (s : State) (n : Nat) {p : Nat} (w : Word) (hp : p < 4096) :
    vgroupOk (wr s (aVrdCmd n) w) p = vgroupOk s p := by
  have hrd : rdf (wr s (aVrdCmd n) w) (aVerdict p 0) 44 29 = rdf s (aVerdict p 0) 44 29 :=
    rdf_congr (rd_wr_other (aVerdict_ne_cmd n hp (by decide)).1)
  have hlt : rdf s (aVerdict p 0) 44 29 < 65536 := rdf_lt s _ 44 29
  have hg : groupAt (wr s (aVrdCmd n) w) (rdf s (aVerdict p 0) 44 29) = groupAt s (rdf s (aVerdict p 0) 44 29) :=
    groupAt_congr fun i hi => rd_wr_other (by unfold aGroup aVrdCmd aVrd aStack; omega)
  simp only [vgroupOk, hrd, hg]

theorem vrdWork_congr {s t : State} (h : t.vrd = s.vrd) (p : Nat) : vrdWork t p = vrdWork s p := by
  rw [vrdWork, h, vrdWork]

theorem vrdWork_set_same (s : State) (p : Nat) (x : VerdictWork) : vrdWork (setVrdWork s p x) p = x :=
  tget_tset_same VerdictWork.empty s.vrd p x

theorem vrdWork_set_other {s : State} {p q : Nat} (x : VerdictWork) (h : q ≠ p) :
    vrdWork (setVrdWork s p x) q = vrdWork s q := tget_tset_other _ _ s.vrd x h

/-- The command word is stored: what a command finds of its plot. -/
structure CommandStored (s v : State) (n p : Nat) : Prop where
  state : vrdState v p = vrdState s p
  group : vgroupOk v p = vgroupOk s p
  work : v.vrd = s.vrd
  frame : touchesOnly [] (2 ^ 64) [aVrdCmd n] s v
  word : ∃ w, v = wr s (aVrdCmd n) w

theorem commandStored_wr (s : State) (n : Nat) {p : Nat} (w : Word) (hp : p < 4096) :
    CommandStored s (wr s (aVrdCmd n) w) n p :=
  ⟨vrdState_wr_cmd s n w hp, vgroupOk_wr_cmd s n w hp, wr_vrd s _ w, (touchesOnly.refl _ _ _ s).wr (.inl (by simp)), w, rfl⟩

/-- A command of VRD_CMD on a managed device: the command word is stored, the command runs, VRD_STAT reports, and an
accepted command is captured. -/
theorem verdictRow_shows {s : State} (path : Nat) {n op p : Nat} (h : manageable s) (hup : clusterUp s n = true)
    (h1 : 1 ≤ op) (h6 : op ≤ 6) (hp : p < 4096) :
    ∃ v, CommandStored s v n p ∧ ∀ u code, verdictEffect v n op p = (u, code) → verdictRow s path n op p =
      if code = 0 then captureWrite (verdictReport u n p 0) (aVrdCmd n) (verdictCmdWord op p)
      else verdictReport u n p code := by
  obtain ⟨hop, hplot, hres⟩ := bitsOf_verdictCmdWord (show op < 16 by omega) hp
  have hrsv : touchesReserved verdictCmdFields (verdictCmdWord op p) = false := by
    simp [touchesReserved, verdictCmdFields, rsv, wo, hres]
  have hrange : outOfRange verdictCmdFields (verdictCmdWord op p) = false := by
    simp [outOfRange, verdictCmdFields, rsv, wo, hop, h1, h6]
  refine ⟨_, commandStored_wr s n (mergedWord (!s.mg.rw1.contains (aVrdCmd n)) verdictCmdFields (rd s (aVrdCmd n))
    (verdictCmdWord op p)) hp, fun u code hu => ?_⟩
  have hrow : verdictRow s path n op p = mgApply s (aVrdCmd n) (verdictCmdWord op p) fun s =>
      cmdWrite s path (aVrdCmd n) verdictCmdFields (verdictCmdWord op p) fun s => verdictCommand s n op p := by
    have hx : ¬ (!clusterUp s n) = true := by simp [hup]
    unfold verdictRow mgApply
    simp only [verdictCmdWrite, if_neg hx, hop, hplot]
  have hcmd := verdictCommand_eq (wr s (aVrdCmd n)
    (mergedWord (!s.mg.rw1.contains (aVrdCmd n)) verdictCmdFields (rd s (aVrdCmd n)) (verdictCmdWord op p))) n op p
  rw [hu] at hcmd
  rw [hrow]
  split
  · next hc =>
    rw [hc] at hcmd
    exact cmdRow_ok h rfl hrsv hrange rfl hcmd
  · next hc => exact cmdRow_refused h rfl hrsv hrange rfl hc hcmd

/-! ## What a command leaves -/

theorem verdictCapture_answers (u : State) {n p : Nat} (v : Word) (hn : n < 12) (hp : p < 4096) :
    rdf (captureWrite (verdictReport u n p 0) (aVrdCmd n) v) (aVrdStat n) 63 56 = 0
      ∧ rdf (captureWrite (verdictReport u n p 0) (aVrdCmd n) v) (aVrdStat n) 11 0 = p := by
  rw [rdf_congr (rd_captureWrite (aVrdStat_lt hn)), rdf_congr (rd_captureWrite (aVrdStat_lt hn))]
  exact verdictReport_shows u n hp (by decide)

theorem rd_verdictCapture (u : State) (n : Nat) {p w : Nat} (v : Word) (hp : p < 4096) (hw : w < 8) :
    rd (captureWrite (verdictReport u n p 0) (aVrdCmd n) v) (aVerdict p w) = rd u (aVerdict p w) :=
  (rd_captureWrite (aVerdict_lt hp hw)).trans (rd_wr_other (aVerdict_ne_cmd n hp hw).2)

theorem verdictReport_vrd (u : State) (n p code : Nat) : (verdictReport u n p code).vrd = u.vrd := wr_vrd u _ _

theorem verdictCapture_vrd (u : State) (n p : Nat) (v : Word) :
    (captureWrite (verdictReport u n p 0) (aVrdCmd n) v).vrd = u.vrd := by
  rw [← verdictReport_vrd u n p 0]
  exact (captureWrite_keeps (m := 167772416) rfl (.refl _ (verdictReport u n p 0))).vrd rfl

theorem verdictCapture_frame {s u : State} {ps : List Part} {n p : Nat} {v : Word} {as : List Nat}
    (h : touchesOnly ps (2 ^ 64) as s u) (hp : Part.recorder ∈ ps) (hm : aVrdStat n ∈ as) :
    touchesOnly ps 0xA000_0000 as s (captureWrite (verdictReport u n p 0) (aVrdCmd n) v) :=
  captureWrite_touches ((h.mono (by simp) (by decide) fun a ha => ha).wr (.inl hm)) hp le_rfl

/-- A command that does nothing but answer. -/
theorem verdictRow_quiet {s : State} {c : Instr} (path : Nat) {n op p code : Nat} (h : manageable s)
    (hup : clusterUp s n = true) (h1 : 1 ≤ op) (h6 : op ≤ 6) (hp : p < 4096) (hcode : code < 256)
    (hx : exec c s = .next (verdictRow s path n op p))
    (hcmd : ∀ v, CommandStored s v n p → verdictEffect v n op p = (v, code)) :
    ∃ t, exec c s = .next t ∧ (rdf t (aVrdStat n) 63 56 = code ∧ rdf t (aVrdStat n) 11 0 = p)
      ∧ touchesOnly [.recorder] 0xA000_0000 [aVrdCmd n, aVrdStat n] s t := by
  obtain ⟨v, hv, hrow⟩ := verdictRow_shows path h hup h1 h6 hp
  have hr := hrow _ code (hcmd v hv)
  have hf : touchesOnly [.recorder] (2 ^ 64) [aVrdCmd n, aVrdStat n] s v := hv.frame.mono (by simp) le_rfl (by simp)
  by_cases hc : code = 0
  · subst hc
    exact ⟨_, hx.trans (congrArg Host.Outcome.next (hr.trans (if_pos rfl))),
      verdictCapture_answers _ _ (clusterUp_lt hup) hp, verdictCapture_frame hf (by simp) (by simp)⟩
  · exact ⟨_, hx.trans (congrArg Host.Outcome.next (hr.trans (if_neg hc))), verdictReport_shows _ n hp hcode,
      (hf.mono (by simp) (by decide) fun a ha => ha).wr (.inl (by simp))⟩

/-- A command that changes the plot's entry and its work, and answers 0. -/
theorem verdictRow_done {s : State} {c : Instr} (path : Nat) {n op p : Nat} {ps : List Part} {as : List Nat}
    {Q : State → Prop} (h : manageable s) (hup : clusterUp s n = true) (h1 : 1 ≤ op) (h6 : op ≤ 6) (hp : p < 4096)
    (hx : exec c s = .next (verdictRow s path n op p)) (hr : Part.recorder ∈ ps) (hm : aVrdStat n ∈ as)
    (hcmd : ∀ v, CommandStored s v n p → ∃ u, verdictEffect v n op p = (u, 0) ∧ touchesOnly ps (2 ^ 64) as s u
      ∧ ∀ t, (∀ w < 8, rd t (aVerdict p w) = rd u (aVerdict p w)) → t.vrd = u.vrd → Q t) :
    ∃ t, exec c s = .next t ∧ (rdf t (aVrdStat n) 63 56 = 0 ∧ rdf t (aVrdStat n) 11 0 = p) ∧ Q t
      ∧ touchesOnly ps 0xA000_0000 as s t := by
  obtain ⟨v, hv, hrow⟩ := verdictRow_shows path h hup h1 h6 hp
  obtain ⟨u, heff, hf, hq⟩ := hcmd v hv
  exact ⟨_, hx.trans (congrArg Host.Outcome.next ((hrow u 0 heff).trans (if_pos rfl))),
    verdictCapture_answers _ _ (clusterUp_lt hup) hp,
    hq _ (fun i hi => rd_verdictCapture u n _ hp hi) (verdictCapture_vrd u n p _), verdictCapture_frame hf hr hm⟩

/-! ## The commands -/

section
variable {s : State} {n p : Nat} (path : Nat) (h : manageable s) (hup : clusterUp s n = true) (hp : p < 4096)
include h hup hp

theorem verdictStart_starts (hst : vrdState s p = vsFree ∨ vrdState s p = vsFallow) (hg : vgroupOk s p = true) :
    ∃ u, vrdState u p = vsCollecting ∧ rd u (aVerdict p 6) = 0
      ∧ touchesOnly [] (2 ^ 64) [aVrdCmd n, aVerdict p 0, aVerdict p 6] s u
      ∧ exec (.verdictStart path n p) s = .next (captureWrite
        (wr (settle u) (aVrdStat n) (bitsAt 63 56 0 ||| bitsAt 11 0 p)) (aVrdCmd n) (verdictCmdWord 1 p)) := by
  obtain ⟨v, hv, hrow⟩ := verdictRow_shows path h hup (show 1 ≤ 1 by decide) (by decide) hp
  let u := wr (wrf v (aVerdict p 0) 63 61 vsCollecting) (aVerdict p 6) 0
  have heff : verdictEffect v n 1 p = (settle u, 0) := by
    refine (if_neg ?_).trans (if_neg ?_)
    · rw [hv.state]
      tauto
    · simp [hv.group, hg]
  refine ⟨u, ?_, rd_wr_same _ _ _, ?_, congrArg Host.Outcome.next ((hrow _ 0 heff).trans (if_pos rfl))⟩
  · exact (rdf_congr (rd_wr_other (aVerdict_inj (by decide)))).trans (rdf_wrf_same _ _ _ (by decide))
  · exact ((hv.frame.mono (by simp) le_rfl (by simp)).wrf (.inl (by simp))).wr (.inl (by simp))

theorem verdictStart_noGroup (hst : vrdState s p = vsFree ∨ vrdState s p = vsFallow) (hg : vgroupOk s p = false) :
    ∃ t, exec (.verdictStart path n p) s = .next t
      ∧ (rdf t (aVrdStat n) 63 56 = 0x2D ∧ rdf t (aVrdStat n) 11 0 = p)
      ∧ touchesOnly [.recorder] 0xA000_0000 [aVrdCmd n, aVrdStat n] s t := by
  refine verdictRow_quiet path (op := 1) h hup (by decide) (by decide) hp (by decide) rfl fun v hv => ?_
  refine (if_neg ?_).trans (if_pos ?_)
  · rw [hv.state]
    tauto
  · simp [hv.group, hg]

theorem verdictStart_busy (h1 : vrdState s p ≠ vsFree) (h2 : vrdState s p ≠ vsFallow) :
    ∃ t, exec (.verdictStart path n p) s = .next t
      ∧ (rdf t (aVrdStat n) 63 56 = 0x2A ∧ rdf t (aVrdStat n) 11 0 = p)
      ∧ touchesOnly [.recorder] 0xA000_0000 [aVrdCmd n, aVrdStat n] s t := by
  refine verdictRow_quiet path (op := 1) h hup (by decide) (by decide) hp (by decide) rfl fun v hv => if_pos ?_
  rw [hv.state]
  exact ⟨h1, h2⟩

theorem verdictFallow_now (hst : vrdState s p = vsCollecting ∨ vrdState s p = vsUnresolved) :
    ∃ t, exec (.verdictFallow path n p) s = .next t
      ∧ (rdf t (aVrdStat n) 63 56 = 0 ∧ rdf t (aVrdStat n) 11 0 = p) ∧ vrdState t p = vsFallow
      ∧ touchesOnly [.recorder] 0xA000_0000 [aVrdCmd n, aVrdStat n, aVerdict p 0] s t := by
  refine verdictRow_done path (op := 2) h hup (by decide) (by decide) hp rfl (by simp) (by simp) fun v hv =>
    ⟨wrf v (aVerdict p 0) 63 61 vsFallow, (if_neg ?_).trans (if_pos ?_),
      (hv.frame.mono (by simp) le_rfl (by simp)).wrf (.inl (by simp)),
      fun t ht _ => (rdf_congr (ht 0 (by decide))).trans (rdf_wrf_same _ _ _ (by decide))⟩
  · rw [hv.state]
    rcases hst with hst | hst <;> rw [hst] <;> decide
  · rw [hv.state]
    exact hst

theorem verdictFallow_due (hst : vrdState s p = vsVoting ∨ vrdState s p = vsApplying) :
    ∃ t, exec (.verdictFallow path n p) s = .next t
      ∧ (rdf t (aVrdStat n) 63 56 = 0 ∧ rdf t (aVrdStat n) 11 0 = p)
      ∧ (vrdWork t p = { vrdWork s p with fallowDue := true } ∧ ∀ q, q ≠ p → vrdWork t q = vrdWork s q)
      ∧ touchesOnly [.verdicts, .recorder] 0xA000_0000 [aVrdCmd n, aVrdStat n] s t := by
  refine verdictRow_done path (op := 2) h hup (by decide) (by decide) hp rfl (by simp) (by simp) fun v hv =>
    ⟨setVrdWork v p { vrdWork v p with fallowDue := true },
      (if_neg ?_).trans ((if_neg ?_).trans (if_neg ?_)),
      (hv.frame.mono (by simp) le_rfl (by simp)).upd (t := setVrdWork v p _) 64 rfl (by decide),
      fun t _ ht => ⟨((vrdWork_congr ht p).trans (vrdWork_set_same _ p _)).trans (by rw [vrdWork_congr hv.work p]),
        fun q hq => (vrdWork_congr ht q).trans ((vrdWork_set_other _ hq).trans (vrdWork_congr hv.work q))⟩⟩ <;>
  · rw [hv.state]
    rcases hst with hst | hst <;> rw [hst] <;> decide

theorem verdictFallow_already (hst : vrdState s p = vsFallow) :
    ∃ t, exec (.verdictFallow path n p) s = .next t
      ∧ (rdf t (aVrdStat n) 63 56 = 0 ∧ rdf t (aVrdStat n) 11 0 = p)
      ∧ touchesOnly [.recorder] 0xA000_0000 [aVrdCmd n, aVrdStat n] s t := by
  refine verdictRow_quiet path (op := 2) h hup (by decide) (by decide) hp (by decide) rfl fun v hv =>
    (if_neg ?_).trans ((if_neg ?_).trans (if_pos ?_)) <;> rw [hv.state, hst] <;> decide

theorem verdictFallow_free (hst : vrdState s p = vsFree) :
    ∃ t, exec (.verdictFallow path n p) s = .next t
      ∧ (rdf t (aVrdStat n) 63 56 = 0x2A ∧ rdf t (aVrdStat n) 11 0 = p)
      ∧ touchesOnly [.recorder] 0xA000_0000 [aVrdCmd n, aVrdStat n] s t := by
  refine verdictRow_quiet path (op := 2) h hup (by decide) (by decide) hp (by decide) rfl fun v hv => if_pos ?_
  rw [hv.state, hst]

theorem verdictFree_fallow (hst : vrdState s p = vsFallow) :
    ∃ t, exec (.verdictFree path n p) s = .next t
      ∧ (rdf t (aVrdStat n) 63 56 = 0 ∧ rdf t (aVrdStat n) 11 0 = p)
      ∧ (vrdState t p = vsFree ∧ vrdWork t p = VerdictWork.empty ∧ ∀ q, q ≠ p → vrdWork t q = vrdWork s q)
      ∧ touchesOnly [.verdicts, .recorder] 0xA000_0000 [aVrdCmd n, aVrdStat n, aVerdict p 0] s t := by
  refine verdictRow_done path (op := 3) h hup (by decide) (by decide) hp rfl (by simp) (by simp) fun v hv =>
    ⟨setVrdWork (wrf v (aVerdict p 0) 63 61 vsFree) p VerdictWork.empty, if_neg ?_,
      ((hv.frame.mono (by simp) le_rfl (by simp)).wrf (.inl (by simp))).upd
        (t := setVrdWork (wrf v (aVerdict p 0) 63 61 vsFree) p VerdictWork.empty) 64 rfl (by decide),
      fun t ht hw => ⟨(rdf_congr (ht 0 (by decide))).trans (rdf_wrf_same _ _ _ (by decide)),
        (vrdWork_congr hw p).trans (vrdWork_set_same _ p _),
        fun q hq => (vrdWork_congr hw q).trans ((vrdWork_set_other _ hq).trans (vrdWork_congr hv.work q))⟩⟩
  rw [hv.state, hst]
  decide

theorem verdictFree_busy (hst : vrdState s p ≠ vsFallow) :
    ∃ t, exec (.verdictFree path n p) s = .next t
      ∧ (rdf t (aVrdStat n) 63 56 = 0x2A ∧ rdf t (aVrdStat n) 11 0 = p)
      ∧ touchesOnly [.recorder] 0xA000_0000 [aVrdCmd n, aVrdStat n] s t := by
  refine verdictRow_quiet path (op := 3) h hup (by decide) (by decide) hp (by decide) rfl fun v hv => if_pos ?_
  rwa [hv.state]

theorem skipNext_collecting (hst : vrdState s p = vsCollecting) :
    ∃ t, exec (.skipNext path n p) s = .next t
      ∧ (rdf t (aVrdStat n) 63 56 = 0 ∧ rdf t (aVrdStat n) 11 0 = p) ∧ rdb t (aVerdict p 0) 53 = true
      ∧ touchesOnly [.recorder] 0xA000_0000 [aVrdCmd n, aVrdStat n, aVerdict p 0] s t := by
  refine verdictRow_done path (op := 5) h hup (by decide) (by decide) hp rfl (by simp) (by simp) fun v hv =>
    ⟨wrf v (aVerdict p 0) 53 53 1, if_neg ?_,
      (hv.frame.mono (by simp) le_rfl (by simp)).wrf (.inl (by simp)),
      fun t ht _ => (rdb_congr (ht 0 (by decide))).trans (rdb_wrf_one _ _ (by decide))⟩
  rw [hv.state, hst]
  decide

theorem skipNext_busy (hst : vrdState s p ≠ vsCollecting) :
    ∃ t, exec (.skipNext path n p) s = .next t
      ∧ (rdf t (aVrdStat n) 63 56 = 0x2A ∧ rdf t (aVrdStat n) 11 0 = p)
      ∧ touchesOnly [.recorder] 0xA000_0000 [aVrdCmd n, aVrdStat n] s t := by
  refine verdictRow_quiet path (op := 5) h hup (by decide) (by decide) hp (by decide) rfl fun v hv => if_pos ?_
  rwa [hv.state]

end

/-- Settles O36: every command is the command word stored, its one effect and the report in VRD_STAT. -/
theorem verdictCommands : Obligations.VerdictCommands := by
  intro s path n p h hup hp
  exact ⟨verdictRow_quiet path (op := 6) h hup (by decide) (by decide) hp (by decide) rfl fun _ _ => rfl,
    verdictStart_starts path h hup hp, verdictStart_noGroup path h hup hp, verdictStart_busy path h hup hp,
    verdictFallow_now path h hup hp,
    fun hst => let ⟨t, hx, ha, ⟨hw, ho⟩, hf⟩ := verdictFallow_due path h hup hp hst; ⟨t, hx, ha, hw, ho, hf⟩,
    verdictFallow_already path h hup hp, verdictFallow_free path h hup hp,
    fun hst => let ⟨t, hx, ha, ⟨hs, hw, ho⟩, hf⟩ := verdictFree_fallow path h hup hp hst; ⟨t, hx, ha, hs, hw, ho, hf⟩,
    verdictFree_busy path h hup hp, skipNext_collecting path h hup hp, skipNext_busy path h hup hp⟩

end Sys2Proof.Machine
end

section
/-! PROOFS. RESOLVE (R208, R227). -/

namespace Sys2Proof.Machine

open Sys2Proof

/-! ## Registers of the field book -/

/-- A register below the turnover slots and the entries of its stack. -/
def belowFieldBook (a : Nat) : Prop := 0x8000_0000 ≤ a ∧ a % 0x100_0000 < 0x88_0000

theorem aVerdict_below {p w : Nat} (hp : p < 4096) (hw : w < 8) : belowFieldBook (aVerdict p w) := by
  unfold belowFieldBook aVerdict aVrd aStack
  omega

theorem aVrdCmd_below (n : Nat) : belowFieldBook (aVrdCmd n) := by
  unfold belowFieldBook aVrdCmd aVrd aStack
  omega

/-- The stacks in service, their entries and their turnover slots are the same. -/
structure SameFieldBook (s t : State) : Prop where
  entries : ∀ k, entriesOf t k = entriesOf s k
  up : ∀ k, clusterUp t k = clusterUp s k
  words : ∀ k e w, e < 32768 → w < 8 → rd t (aEntry k e w) = rd s (aEntry k e w)
  turns : ∀ k t' w, t' < 64 → w < 4 → rd t (aTurn k t' w) = rd s (aTurn k t' w)

theorem SameFieldBook.of_regs {s t : State} (h : t.regs = s.regs) : SameFieldBook s t where
  entries k := by rw [entriesOf, h, entriesOf]
  up k := by rw [clusterUp, rdb_congr (rd_congr h _), clusterUp]
  words k e w _ _ := rd_congr h _
  turns k t w _ _ := rd_congr h _

theorem SameFieldBook.trans {r s t : State} (h : SameFieldBook r s) (g : SameFieldBook s t) : SameFieldBook r t where
  entries k := (g.entries k).trans (h.entries k)
  up k := (g.up k).trans (h.up k)
  words k e w he hw := (g.words k e w he hw).trans (h.words k e w he hw)
  turns k t w ht hw := (g.turns k t w ht hw).trans (h.turns k t w ht hw)

theorem SameFieldBook.wr {s : State} {a : Nat} (w : Word) (h : belowFieldBook a) :
    SameFieldBook s (Machine.wr s a w) := by
  unfold belowFieldBook at h
  refine ⟨fun k => ?_, fun k => ?_, fun k e x he hx => rd_wr_other ?_, fun k t x ht hx => rd_wr_other ?_⟩
  · refine filterMap_tset (g := fun kv : Nat × Word => if aEntry k 0 0 ≤ kv.1 ∧ kv.1 < aEntry k 32768 0
      ∧ (kv.1 - aEntry k 0 0) % 64 = 0 ∧ bitsOf kv.2 63 61 ≠ esFree then some ((kv.1 - aEntry k 0 0) / 64) else none)
      fun v => if_neg fun hc => ?_
    have h1 : aEntry k 0 0 ≤ a := hc.1
    have h2 : a < aEntry k 32768 0 := hc.2.1
    unfold aEntry aFbk aStack at h1 h2
    omega
  · have hne : aCapAvail ≠ a := by
      unfold aCapAvail
      omega
    rw [clusterUp, rdb_congr (rd_wr_other hne), clusterUp]
  · unfold aEntry aFbk aStack
    omega
  · unfold aTurn aFbk aStack
    omega

theorem SameFieldBook.wrf {s : State} {a : Nat} (hi lo v : Nat) (h : belowFieldBook a) :
    SameFieldBook s (Machine.wrf s a hi lo v) := .wr _ h

theorem plotStacks_congr {s t : State} (h : SameFieldBook s t) (p : Nat) : plotStacks t p = plotStacks s p := by
  have hup : stacksUp t = stacksUp s := List.filter_congr fun k _ => h.up k
  unfold plotStacks
  rw [hup]
  refine List.filter_congr fun k _ => ?_
  rw [h.entries k]
  have hplot : ∀ e ∈ entriesOf s k, rdf t (aEntry k e 0) 51 40 = rdf s (aEntry k e 0) 51 40 :=
    fun e he => rdf_congr (h.words k e 0 (mem_entriesOf_lt he) (by decide))
  rw [Bool.eq_iff_iff, List.any_eq_true, List.any_eq_true]
  exact exists_congr fun e => and_congr_right fun he => by rw [hplot e he]

theorem sourcesDue_congr {s t : State} (h : SameFieldBook s t) (p st : Nat) : sourcesDue t p st = sourcesDue s p st := by
  have hturn : ∀ k x w, x < 64 → w < 4 → ∀ hi lo, rdf t (aTurn k x w) hi lo = rdf s (aTurn k x w) hi lo :=
    fun k x w hx hw _ _ => rdf_congr (h.turns k x w hx hw)
  have hslots : turnSlots t = turnSlots s := by
    unfold turnSlots
    refine List.flatMap_congr fun k _ => congrArg (List.map fun x => (k, x)) (List.filter_congr fun x hx => ?_)
    rw [turnPhase, hturn k x 0 (List.mem_range.mp hx) (by decide), turnPhase]
  unfold sourcesDue
  rw [hslots]
  refine List.filter_congr fun q hq => ?_
  have hq64 : q.2 < 64 := by
    obtain ⟨k, -, hk⟩ := List.mem_flatMap.mp hq
    obtain ⟨x, hx, rfl⟩ := List.mem_map.mp hk
    exact List.mem_range.mp (List.mem_filter.mp hx).1
  have hentry : turnEntry s q.1 q.2 < 32768 := rdf_lt s _ 55 41
  have hfb : fbAt t q.1 (turnEntry s q.1 q.2) = fbAt s q.1 (turnEntry s q.1 q.2) :=
    fbAt_congr fun w hw => h.words _ _ _ hentry hw
  have he : turnEntry t q.1 q.2 = turnEntry s q.1 q.2 := hturn q.1 q.2 0 hq64 (by decide) 55 41
  rw [he, hfb]
  simp only [turnDest, turnPhase, turnBoundary, rdb_congr (h.turns q.1 q.2 0 hq64 (by decide)),
    hturn q.1 q.2 0 hq64 (by decide), hturn q.1 q.2 1 hq64 (by decide)]

/-! ## A FIT outcome -/

theorem aVerdict_eq_iff {p x y : Nat} : aVerdict p x = aVerdict p y ↔ x = y :=
  ⟨fun h => by_contra fun hne => aVerdict_inj hne h, fun h => h ▸ rfl⟩

/-- The plot's entry once an outcome for its STEP is applied. -/
def outcomeWritten (s : State) (p : Nat) (d : Decision) : State :=
  let s1 := wrf (wrf s (aVerdict p 0) 52 45 (unsigned 8 d.lossExp)) (aVerdict p 1) 31 0 d.epoch
  let s2 := wrf (wrf s1 (aVerdict p 2) 31 0 d.clean) (aVerdict p 1) 63 32 (plotStep s p + 1)
  wrf (wrf s2 (aVerdict p 3) 63 32 (plotStep s p)) (aVerdict p 3) 31 24 d.outcome

/-- The plot's commit record begins anew. -/
def outcomeNoted (s : State) (p : Nat) (d : Decision) : State :=
  let t := outcomeWritten s p d
  setVrdWork t p { vrdWork t p with commitNext := true, flags := 0, updMax := 0, amaxMaster := 0 }

/-- A FIT step counted. -/
def fitCounted (s : State) (p : Nat) (d : Decision) : State := bumpMod (outcomeNoted s p d) (aVerdict p 6) 63 32 1

/-- The passes of that step queued, one on each stack of the plot. -/
def fitQueued (s : State) (p : Nat) (d : Decision) : State :=
  let q := queuePasses (fitCounted s p d) p (plotStep s p)
  setVrdWork q p { vrdWork q p with stacksLeft := plotStacks s p }

/-- The plot is APPLYING. -/
def fitApplied (s : State) (p : Nat) (d : Decision) : State :=
  wrf (fitQueued s p d) (aVerdict p 0) 63 61 vsApplying


theorem setVrdWork_regs (s : State) (p : Nat) (x : VerdictWork) : (setVrdWork s p x).regs = s.regs := rfl

theorem outcomeNoted_regs (s : State) (p : Nat) (d : Decision) : (outcomeNoted s p d).regs = (outcomeWritten s p d).regs :=
  setVrdWork_regs _ _ _

theorem fitCounted_book (s : State) {p : Nat} (d : Decision) (hp : p < 4096) : SameFieldBook s (fitCounted s p d) := by
  have hb : ∀ w, w < 8 → belowFieldBook (aVerdict p w) := fun w hw => aVerdict_below hp hw
  refine SameFieldBook.trans ?_ (.wrf 63 32 _ (hb 6 (by decide)))
  refine SameFieldBook.trans ?_ (.of_regs (outcomeNoted_regs s p d))
  exact ((((SameFieldBook.wrf 52 45 _ (hb 0 (by decide))).trans (.wrf 31 0 _ (hb 1 (by decide)))).trans
    (.wrf 31 0 _ (hb 2 (by decide)))).trans (.wrf 63 32 _ (hb 1 (by decide)))).trans
    ((SameFieldBook.wrf 63 32 _ (hb 3 (by decide))).trans (.wrf 31 24 _ (hb 3 (by decide))))

theorem queuePasses_regs (s : State) (p st : Nat) : (queuePasses s p st).regs = s.regs :=
  forAll_rel (R := fun s t => t.regs = s.regs)
    (f := fun s n => setPasses s n (passesOf s n ++ [Pass.empty p st])) (fun _ => rfl) (fun h g => g.trans h) (fun _ _ _ => rfl) s

theorem queuePasses_vrd (s : State) (p st : Nat) : (queuePasses s p st).vrd = s.vrd :=
  forAll_rel (R := fun s t => t.vrd = s.vrd)
    (f := fun s n => setPasses s n (passesOf s n ++ [Pass.empty p st])) (fun _ => rfl) (fun h g => g.trans h) (fun _ _ _ => rfl) s

theorem fitQueued_regs (s : State) (p : Nat) (d : Decision) : (fitQueued s p d).regs = (fitCounted s p d).regs :=
  (setVrdWork_regs _ _ _).trans (queuePasses_regs _ _ _)

/-- Every stack of the plot has its pass queued behind those that it had. -/
theorem queuePasses_shows {s : State} {p k : Nat} (st : Nat) (hk : k ∈ plotStacks s p) :
    passesOf (queuePasses s p st) k = passesOf s k ++ [Pass.empty p st] := by
  have hnd : (plotStacks s p).Nodup := (List.nodup_range.filter _).filter _
  obtain ⟨a, ha, hb⟩ := forAll_once (K := fun s t => passesOf t k = passesOf s k)
    (f := fun s n => setPasses s n (passesOf s n ++ [Pass.empty p st])) (x := k) (fun _ => rfl)
    (fun h g => g.trans h) s hnd hk (fun u y _ hy => passesOf_setPasses_other _ (Ne.symm hy))
  rw [queuePasses, hb, passesOf_setPasses_same, ha]

theorem fitApplied_eq {s : State} {p : Nat} {d : Decision} (hp : p < 4096) (hd : d.outcome = ocFit)
    (hsrc : sourcesDue s p (plotStep s p) = []) (hst : plotStacks s p ≠ []) :
    applyOutcome s p d = fitApplied s p d := by
  have hbook := fitCounted_book s d hp
  have hleft : plotStacks (fitCounted s p d) p = plotStacks s p := plotStacks_congr hbook p
  let q := queuePasses (fitCounted s p d) p (plotStep s p)
  have henter : vrdEnter (setVrdWork q p { vrdWork q p with stacksLeft := plotStacks s p }) p vsApplying
      = fitApplied s p d := if_neg (by simp [vsApplying, vsCollecting, vsUnresolved])
  have hbook' : SameFieldBook s (fitApplied s p d) :=
    (hbook.trans (.of_regs (fitQueued_regs s p d))).trans (.wrf 63 61 _ (aVerdict_below (w := 0) hp (by decide)))
  have hturn : turnSourcesAt (fitApplied s p d) p (plotStep s p) true = fitApplied s p d := by
    rw [turnSourcesAt, sourcesDue_congr hbook', hsrc]
    rfl
  have hx : applyOutcome s p d =
      if plotStacks (fitCounted s p d) p = [] then
        oweCommit (turnSourcesAt (vrdEnter (setVrdWork q p { vrdWork q p with
          stacksLeft := plotStacks (fitCounted s p d) p }) p vsApplying) p (plotStep s p) true) p (plotStep s p)
      else turnSourcesAt (vrdEnter (setVrdWork q p { vrdWork q p with
        stacksLeft := plotStacks (fitCounted s p d) p }) p vsApplying) p (plotStep s p) true := if_pos hd
  rw [hx, hleft, if_neg hst, henter, hturn]

/-- The writes of an applied FIT outcome to the plot's entry. -/
def fitWords (s : State) (p : Nat) (d : Decision) : State :=
  let s3 := outcomeWritten s p d
  wrf (wrf s3 (aVerdict p 6) 63 32 (rdf s3 (aVerdict p 6) 63 32 + 1)) (aVerdict p 0) 63 61 vsApplying

theorem wrf_regs {s t : State} (a hi lo v : Nat) (h : t.regs = s.regs) :
    (wrf t a hi lo v).regs = (wrf s a hi lo v).regs := by
  simp only [wrf, wr, rd, h]

theorem fitApplied_regs (s : State) (p : Nat) (d : Decision) : (fitApplied s p d).regs = (fitWords s p d).regs := by
  refine wrf_regs _ 63 61 _ ((fitQueued_regs s p d).trans ?_)
  refine (wrf_regs (aVerdict p 6) 63 32 _ (outcomeNoted_regs s p d)).trans ?_
  rw [rdf, rd_congr (outcomeNoted_regs s p d)]
  rfl

theorem fitWords_shows (s : State) (p : Nat) {d : Decision} (hd : d.outcome = ocFit) :
    let a := fitWords s p d
    plotStep a p = (plotStep s p + 1) % 2 ^ 32 ∧ rdf a (aVerdict p 3) 63 32 = plotStep s p
      ∧ rdf a (aVerdict p 3) 31 24 = ocFit ∧ vrdState a p = vsApplying
      ∧ rdf a (aVerdict p 6) 63 32 = (rdf s (aVerdict p 6) 63 32 + 1) % 2 ^ 32
      ∧ rdf a (aVerdict p 1) 31 0 = d.epoch % 2 ^ 32 ∧ rdf a (aVerdict p 2) 31 0 = d.clean % 2 ^ 32
      ∧ rdf a (aVerdict p 0) 52 45 = unsigned 8 d.lossExp % 2 ^ 8 := by
  intro a
  refine ⟨?_, ?_, ?_, ?_, ?_, ?_, ?_, ?_⟩ <;>
    simp [plotStep, vrdState, a, fitWords, outcomeWritten, rdf_wrf_same, rdf_wrf_field, rdf_wrf_other, aVerdict_eq_iff, hd]
  · exact rdf_lt s _ 63 32
  · decide
  · decide

theorem touchesOnly.setVrdWork {ps : List Part} {b : Nat} {as : List Nat} {r s : State} (p : Nat) (x : VerdictWork)
    (h : touchesOnly ps b as r s) (hp : Part.verdicts ∈ ps := by simp) :
    touchesOnly ps b as r (Machine.setVrdWork s p x) := h.upd 64 rfl (partMask_mem hp)

theorem fitApplied_frame (s : State) {p : Nat} (d : Decision) (hp : p < 4096) :
    touchesOnly [.stack, .verdicts] 0x8000_0000 [] s (fitApplied s p d) := by
  have hb : ∀ w, w < 8 → aVerdict p w ∈ ([] : List Nat) ∨ 0x8000_0000 ≤ aVerdict p w := fun w hw =>
    .inr (aVerdict_below hp hw).1
  have h1 : touchesOnly [.stack, .verdicts] 0x8000_0000 [] s (outcomeWritten s p d) :=
    ((((((touchesOnly.refl _ _ _ s).wrf (hb 0 (by decide))).wrf (hb 1 (by decide))).wrf (hb 2 (by decide))).wrf
      (hb 1 (by decide))).wrf (hb 3 (by decide))).wrf (hb 3 (by decide))
  have h2 : touchesOnly [.stack, .verdicts] 0x8000_0000 [] s (fitCounted s p d) := (h1.setVrdWork p _).wrf (hb 6 (by decide))
  have h3 : touchesOnly [.stack, .verdicts] 0x8000_0000 [] s (fitQueued s p d) :=
    (touchesOnly.keeps (m := 32) (k := 8) h2 (queuePasses_keeps rfl (.refl _ _)) (by decide) (by decide)).setVrdWork p _
  exact h3.wrf (hb 0 (by decide))

theorem fitQueued_passes (s : State) {p k : Nat} (d : Decision) (hp : p < 4096) (hk : k ∈ plotStacks s p) :
    passesOf (fitQueued s p d) k = passesOf s k ++ [Pass.empty p (plotStep s p)] := by
  have hk' : k ∈ plotStacks (fitCounted s p d) p := by rwa [plotStacks_congr (fitCounted_book s d hp)]
  exact queuePasses_shows (plotStep s p) hk'

theorem fitQueued_left (s : State) (p : Nat) (d : Decision) :
    (vrdWork (fitQueued s p d) p).stacksLeft = plotStacks s p :=
  congrArg VerdictWork.stacksLeft (vrdWork_set_same _ p _)

/-! ## RESOLVE -/

/-- The check of RESOLVE on the plot's state and the outcome (R226). -/
theorem resolve_notAllowed {a o : Nat} : (!(a == vsUnresolved || (a == vsCollecting && o != ocFit))) = true
    ↔ ¬(a = vsUnresolved ∨ a = vsCollecting ∧ o ≠ ocFit) := by
  rw [Bool.not_eq_true', ← Bool.not_eq_true]
  simp

/-- What RESOLVE finds once its command word is stored. -/
structure ResolveStored (s v : State) (n p : Nat) : Prop where
  args : resolveArgs v n = resolveArgs s n
  argStep : rdf v (aVrdArg0 n) 63 32 = rdf s (aVrdArg0 n) 63 32
  words : ∀ w < 8, rd v (aVerdict p w) = rd s (aVerdict p w)
  book : SameFieldBook s v
  stk : v.stk = s.stk

theorem CommandStored.resolve {s v : State} {n p : Nat} (h : CommandStored s v n p) (hp : p < 4096) :
    ResolveStored s v n p := by
  obtain ⟨w, rfl⟩ := h.word
  have h0 : aVrdArg0 n ≠ aVrdCmd n := by unfold aVrdArg0 aVrdCmd aVrd aStack; omega
  have h1 : aVrdArg1 n ≠ aVrdCmd n := by unfold aVrdArg1 aVrdCmd aVrd aStack; omega
  refine ⟨?_, rdf_congr (rd_wr_other h0), fun i hi => rd_wr_other (aVerdict_ne_cmd n hp hi).1, .wr w (aVrdCmd_below n),
    wr_stk s _ w⟩
  simp only [resolveArgs, rdf_congr (rd_wr_other h0), rdf_congr (rd_wr_other h1)]

section
variable {s : State} {n p : Nat} (path : Nat) (h : manageable s) (hup : clusterUp s n = true) (hp : p < 4096)
include h hup hp

/-- A refused RESOLVE. -/
theorem resolve_refused {code : Nat} (hcode : code < 256) (hne : code ≠ 0)
    (hcmd : ∀ v, CommandStored s v n p → verdictEffect v n 4 p = (v, code)) :
    ∃ t, exec (.resolve path n p) s = .next t ∧ rdf t (aVrdStat n) 63 56 = code ∧ rdf t (aVrdStat n) 11 0 = p
      ∧ touchesOnly [] (2 ^ 64) [aVrdCmd n, aVrdStat n] s t := by
  obtain ⟨v, hv, hrow⟩ := verdictRow_shows path h hup (show 1 ≤ 4 by decide) (by decide) hp
  obtain ⟨h1, h2⟩ := verdictReport_shows v n hp hcode
  exact ⟨_, congrArg Host.Outcome.next ((hrow v code (hcmd v hv)).trans (if_neg hne)), h1, h2,
    (hv.frame.mono (by simp) le_rfl (by simp)).wr (.inl (by simp))⟩

theorem resolve_applies (hok : vrdState s p = vsUnresolved ∨ vrdState s p = vsCollecting ∧ (resolveArgs s n).outcome ≠ ocFit)
    (hstep : rdf s (aVrdArg0 n) 63 32 = plotStep s p) (h1 : 1 ≤ (resolveArgs s n).outcome)
    (h4 : (resolveArgs s n).outcome ≤ 4) : ∃ v, CommandStored s v n p ∧ exec (.resolve path n p) s = .next (captureWrite
      (wr (settle (applyOutcome v p (resolveArgs s n))) (aVrdStat n) (bitsAt 63 56 0 ||| bitsAt 11 0 p)) (aVrdCmd n)
      (verdictCmdWord 4 p)) := by
  obtain ⟨v, hv, hrow⟩ := verdictRow_shows path h hup (show 1 ≤ 4 by decide) (by decide) hp
  have hr := hv.resolve hp
  refine ⟨v, hv, congrArg Host.Outcome.next ((hrow _ 0 ?_).trans (if_pos rfl))⟩
  have hplot : plotStep v p = plotStep s p := rdf_congr (hr.words 1 (by decide))
  refine (if_neg ?_).trans ((if_neg ?_).trans ((if_neg ?_).trans ?_))
  · rw [hv.state, hr.args]
    rcases hok with hok | ⟨hok, hoc⟩
    · simp [hok]
    · simp [hok, hoc]
  · rw [hr.argStep, hplot]
    exact not_not.mpr hstep
  · rw [hr.args]
    simp only [Bool.or_eq_true, decide_eq_true_eq]
    omega
  · rw [hr.args]

end

/-- Settles O37: RESOLVE is refused by its first check that fails; an outcome FIT writes the plot's entry and queues
the passes. -/
theorem resolveCommand : Obligations.ResolveCommand := by
  intro s path n p h hup hp st d step' allowed quiet
  have hbusy : ∀ v, CommandStored s v n p → ¬allowed →
      (!(vrdState v p == vsUnresolved || (vrdState v p == vsCollecting && (resolveArgs v n).outcome != ocFit))) = true :=
    fun v hv hno => by
      rw [hv.state, (hv.resolve hp).args]
      exact resolve_notAllowed.mpr hno
  have hpass : ∀ v, CommandStored s v n p → allowed →
      ¬(!(vrdState v p == vsUnresolved || (vrdState v p == vsCollecting && (resolveArgs v n).outcome != ocFit))) = true :=
    fun v hv hyes => by
      rw [hv.state, (hv.resolve hp).args]
      exact fun hc => resolve_notAllowed.mp hc hyes
  have hplot : ∀ v, CommandStored s v n p → plotStep v p = plotStep s p :=
    fun v hv => rdf_congr ((hv.resolve hp).words 1 (by decide))
  refine ⟨fun hno => resolve_refused path h hup hp (by decide) (by decide) fun v hv => if_pos (hbusy v hv hno),
    fun hyes hne => resolve_refused path h hup hp (by decide) (by decide) fun v hv =>
      (if_neg (hpass v hv hyes)).trans (if_pos ?_),
    fun hyes heq hout => resolve_refused path h hup hp (by decide) (by decide) fun v hv =>
      (if_neg (hpass v hv hyes)).trans ((if_neg ?_).trans (if_pos ?_)),
    fun hyes heq h1 h4 => ?_⟩
  · rw [(hv.resolve hp).argStep, hplot v hv]
    exact hne
  · rw [(hv.resolve hp).argStep, hplot v hv]
    exact not_not.mpr heq
  · rw [(hv.resolve hp).args]
    simpa using hout
  · obtain ⟨u, hu, hx⟩ := resolve_applies path h hup hp hyes heq h1 h4
    refine ⟨u, hu.frame, hx, fun hfit hsrc hst => ?_⟩
    have hr := hu.resolve hp
    have hstacks : plotStacks u p = plotStacks s p := plotStacks_congr hr.book p
    rw [← hplot u hu] at hsrc
    rw [fitApplied_eq hp hfit hsrc (by rwa [hstacks])]
    have hw : ∀ a hi lo, rdf (fitApplied u p d) a hi lo = rdf (fitWords u p d) a hi lo :=
      fun a _ _ => rdf_congr (rd_congr (fitApplied_regs u p d) a)
    obtain ⟨w1, w2, w3, w4, w5, w6, w7, w8⟩ := fitWords_shows u p hfit
    refine ⟨?_, ?_, (hw ..).trans w3, (hw ..).trans w4, ?_, (hw ..).trans (w6.trans ?_), (hw ..).trans (w7.trans ?_),
      (hw ..).trans (w8.trans ?_), fun k hk => ?_, ?_, ?_⟩
    · rw [← hplot u hu]
      exact (hw ..).trans w1
    · rw [← hplot u hu]
      exact (hw ..).trans w2
    · rw [hw, w5, rdf_congr (hr.words 6 (by decide))]
    · exact Nat.mod_eq_of_lt (rdf_lt s (aVrdArg1 n) 63 32)
    · exact Nat.mod_eq_of_lt (rdf_lt s (aVrdArg1 n) 31 0)
    · have hlt : rdf s (aVrdArg0 n) 23 16 < 2 ^ 8 := rdf_lt s _ 23 16
      show unsigned 8 (signed 8 (rdf s (aVrdArg0 n) 23 16)) % 2 ^ 8 = _
      unfold signed unsigned
      omega
    · rw [← hstacks] at hk
      have := fitQueued_passes u d hp hk
      rw [hplot u hu] at this
      refine Eq.trans (passesOf_congr rfl k) (this.trans ?_)
      rw [passesOf_congr (congrArg Stacks.passes hr.stk)]
    · rw [← hstacks]
      exact (congrArg VerdictWork.stacksLeft (vrdWork_congr (wrf_vrd _ _ _ _ _) p)).trans (fitQueued_left u p d)
    · obtain ⟨w, rfl⟩ := hu.word
      exact ((touchesOnly.refl _ _ _ s).wr (.inr (aVrdCmd_below n).1)).trans (fitApplied_frame _ d hp)

end Sys2Proof.Machine
end

section
/-! PROOFS. Turnover slots and the commands of FBK_TURN_CMD (R241 to R245). -/

namespace Sys2Proof.Machine

open Sys2Proof

/-! ## Addresses -/

theorem aTurn_at (n t w : Nat) : aTurn n t w = aTurn n t 0 + 8 * w := by
  unfold aTurn aFbk aStack
  omega

theorem aTurn_inj {n t x y : Nat} (h : x ≠ y) : aTurn n t x ≠ aTurn n t y := by
  unfold aTurn aFbk aStack
  omega

theorem aTurn_ne_stat {n t w : Nat} : aTurn n t w ≠ aTurnStat n := by
  unfold aTurn aTurnStat aFbk aStack
  omega

theorem aTurn_ne_cmd {n t w : Nat} : aTurn n t w ≠ aTurnCmd n := by
  unfold aTurn aTurnCmd aFbk aStack
  omega

theorem aTurn_ne_entry {n t w e x : Nat} (ht : t < 64) (hw : w < 4) : aTurn n t w ≠ aEntry n e x := by
  unfold aTurn aEntry aFbk aStack
  omega

theorem aTurn_lt {n t w : Nat} (hn : n < 12) (ht : t < 64) (hw : w < 4) : aTurn n t w < 0xA000_0000 := by
  unfold aTurn aFbk aStack
  omega

theorem aEntry_ne_turnCmd (n e w : Nat) : aEntry n e w ≠ aTurnCmd n := by
  unfold aEntry aTurnCmd aFbk aStack
  omega

theorem aEntry_ne_turnStat (n e w : Nat) : aEntry n e w ≠ aTurnStat n := by
  unfold aEntry aTurnStat aFbk aStack
  omega

theorem aTurnStat_lt {n : Nat} (hn : n < 12) : aTurnStat n < 0xA000_0000 := by
  unfold aTurnStat aFbk aStack
  omega

/-! ## Operations on a slot -/

theorem turnWork_congr {s t : State} (h : t.stk.turns = s.stk.turns) (n x : Nat) : turnWork t n x = turnWork s n x := by
  rw [turnWork, h, turnWork]

theorem turnWork_set_same (s : State) (n t : Nat) (x : TurnWork) : turnWork (setTurnWork s n t x) n t = x :=
  tget_tset_same TurnWork.empty s.stk.turns (64 * n + t) x

theorem rd_setTurnWork (s : State) (n t : Nat) (x : TurnWork) (a : Nat) : rd (setTurnWork s n t x) a = rd s a := rfl

theorem touchesOnly.setTurnWork {ps : List Part} {b : Nat} {as : List Nat} {r s : State} (n t : Nat) (x : TurnWork)
    (h : touchesOnly ps b as r s) (hp : Part.stack ∈ ps := by simp) :
    touchesOnly ps b as r (Machine.setTurnWork s n t x) := h.upd 32 rfl (partMask_mem hp)

/-- A slot's words and its work cleared. -/
def turnCleared (u : State) (n t : Nat) : Prop :=
  (∀ w, w < 4 → rd u (aTurn n t w) = 0) ∧ turnWork u n t = TurnWork.empty

theorem freeTurn_clears (s : State) (n t : Nat) : turnCleared (freeTurn s n t) n t := by
  refine ⟨fun w hw => ?_, turnWork_set_same _ n t _⟩
  rw [freeTurn, rd_setTurnWork, aTurn_at n t w, rd_wrEntry_at _ _ (by simpa [zeroEntry] using hw)]
  interval_cases w <;> rfl

/-- The words of a slot. -/
def turnSlotWords (n t : Nat) : List Nat := (List.range 4).map (aTurn n t)

theorem mem_turnSlotWords {n t w : Nat} (hw : w < 4) : aTurn n t w ∈ turnSlotWords n t :=
  List.mem_map.mpr ⟨w, List.mem_range.mpr hw, rfl⟩

theorem freeTurn_frame {ps : List Part} {b : Nat} {as : List Nat} {r s : State} {n t : Nat}
    (h : touchesOnly ps b as r s) (hp : Part.stack ∈ ps) (hm : ∀ w < 4, aTurn n t w ∈ as ∨ b ≤ aTurn n t w) :
    touchesOnly ps b as r (freeTurn s n t) := by
  refine touchesOnly.setTurnWork n t _ ?_ hp
  refine h.wrEntry fun i hi => ?_
  have hi4 : i < 4 := by simpa [zeroEntry] using hi
  rw [← aTurn_at n t i]
  exact hm i hi4

theorem freeRecord_turns (s : State) (n r : Nat) : (freeRecord s n r).stk.turns = s.stk.turns := rfl

theorem wrEntry_stk (s : State) (a : Nat) (ws : Entry) : (wrEntry s a ws).stk = s.stk := by
  induction ws generalizing s a with
  | nil => rfl
  | cons w ws ih => exact (ih _ _).trans (wr_stk s a w)

theorem stepCleared_turns (s : State) (n e : Nat) : (stepCleared s n e).stk.turns = s.stk.turns := rfl

/-- Freeing an entry leaves the slots (R252). -/
theorem freeEntry_turn (s : State) (n : Nat) {e t : Nat} (ht : t < 64) : (freeEntry s n e).stk.turns = s.stk.turns
    ∧ ∀ w, w < 4 → rd (freeEntry s n e) (aTurn n t w) = rd s (aTurn n t w) := by
  have hf : ∃ rs, freeEntry s n e = forAll (fun s r => freeRecord s n r) (clearedEntry s n e) rs := ⟨_, rfl⟩
  obtain ⟨rs, hf⟩ := hf
  obtain ⟨-, hrec⟩ := freeRecords_show (clearedEntry s n e) n rs
  rw [hf]
  refine ⟨?_, fun w hw => (hrec _ ?_).trans ?_⟩
  · refine (forAll_rel (R := fun s t => t.stk.turns = s.stk.turns) (f := fun s r => freeRecord s n r) (fun _ => rfl)
      (fun h g => g.trans h) (fun s r _ => freeRecord_turns s n r) _).trans ?_
    rw [clearedEntry, stepCleared_turns, wrEntry_stk]
  · unfold aTurn aLanding aFbk aStack
    omega
  · rw [clearedEntry, rd_stepCleared]
    refine rd_wrEntry_other _ _ (.inl ?_)
    unfold aTurn aEntry aFbk aStack
    omega

/-! ## The command row -/

/-- What a command of FBK_TURN_CMD does, before it reports. -/
def turnEffect (s : State) (n op t : Nat) : State × Nat :=
  match op with
  | 1 => if armRefusal s n t ≠ 0 then (s, armRefusal s n t) else (turnArm s n t, 0)
  | 2 => if turnPhase s n t = tpFree then (s, rcTurnPhase) else (settle (turnAbort s n t), 0)
  | 3 => if turnPhase s n t ≠ tpFailed then (s, rcTurnPhase) else (turnRestart s n t, 0)
  | 4 => if turnPhase s n t ≠ tpHanded then (s, rcTurnPhase) else (turnFinish s n t, 0)
  | _ => (s, 0)

theorem turnCommand_eq (s : State) (n op t : Nat) : turnCommand s n op t
    = (turnReport (turnEffect s n op t).1 n t (turnEffect s n op t).2, (turnEffect s n op t).2) := by
  unfold turnCommand turnEffect
  rfl

theorem turnReport_shows (s : State) (n : Nat) {t code : Nat} (ht : t < 64) (hcode : code < 256) :
    rdf (turnReport s n t code) (aTurnStat n) 63 56 = code ∧ rdf (turnReport s n t code) (aTurnStat n) 5 0 = t := by
  rw [rdf, rdf, turnReport, rd_wr_same]
  simp only [bitsOf_or, bitsOf_bitsAt_same _ (show 63 < 64 by decide), bitsOf_bitsAt_same _ (show 5 < 64 by decide),
    bitsOf_bitsAt_other, show (5 : Nat) < 56 by decide, true_or, or_true, Nat.or_zero, Nat.zero_or]
  exact ⟨Nat.mod_eq_of_lt hcode, Nat.mod_eq_of_lt ht⟩

theorem bitsOf_turnCmdWord {op t : Nat} (hop : op < 16) (ht : t < 64) :
    bitsOf (turnCmdWord op t) 63 60 = op ∧ bitsOf (turnCmdWord op t) 5 0 = t ∧ bitsOf (turnCmdWord op t) 59 6 = 0 := by
  simp only [turnCmdWord, bitsOf_or, bitsOf_bitsAt_same _ (show 63 < 64 by decide),
    bitsOf_bitsAt_same _ (show 5 < 64 by decide), bitsOf_bitsAt_other, show (5 : Nat) < 60 by decide,
    show (59 : Nat) < 60 by decide, show (5 : Nat) < 6 by decide, true_or, or_true, Nat.or_zero, Nat.zero_or]
  exact ⟨Nat.mod_eq_of_lt hop, Nat.mod_eq_of_lt ht, trivial⟩

/-- The command word is stored: what a command finds of its slot. -/
structure TurnStored (s v : State) (n t : Nat) : Prop where
  slot : ∀ w, rd v (aTurn n t w) = rd s (aTurn n t w)
  entry : ∀ e w, rd v (aEntry n e w) = rd s (aEntry n e w)
  refusal : armRefusal v n t = armRefusal s n t
  stk : v.stk = s.stk
  frame : touchesOnly [] (2 ^ 64) [aTurnCmd n] s v
  high : touchesOnly [] 0x8000_0000 [] s v

theorem turnEntry_congr {s v : State} {n t : Nat} (h : rd v (aTurn n t 0) = rd s (aTurn n t 0)) :
    turnEntry v n t = turnEntry s n t := rdf_congr h

theorem turnStored_wr (s : State) (n t : Nat) (w : Word) : TurnStored s (wr s (aTurnCmd n) w) n t := by
  have hslot : ∀ i, rd (wr s (aTurnCmd n) w) (aTurn n t i) = rd s (aTurn n t i) := fun i => rd_wr_other aTurn_ne_cmd
  have hentry : ∀ e i, rd (wr s (aTurnCmd n) w) (aEntry n e i) = rd s (aEntry n e i) :=
    fun e i => rd_wr_other (aEntry_ne_turnCmd n e i)
  have hge : 0x8000_0000 ≤ aTurnCmd n := by
    unfold aTurnCmd aFbk aStack
    omega
  refine ⟨hslot, hentry, ?_, wr_stk s _ w, (touchesOnly.refl _ _ _ s).wr (.inl (by simp)),
    (touchesOnly.refl _ _ _ s).wr (.inr hge)⟩
  have hfb : ∀ e, fbAt (wr s (aTurnCmd n) w) n e = fbAt s n e := fun e => fbAt_congr fun i _ => hentry e i
  have hstep : ∀ e, plotStep (wr s (aTurnCmd n) w) (fbAt s n e).plot = plotStep s (fbAt s n e).plot := fun e => by
    have hplot : (fbAt s n e).plot < 4096 := by
      rw [fbAt_plot]
      exact rdf_lt _ _ 51 40
    exact rdf_congr (rd_wr_other (by unfold aVerdict aVrd aTurnCmd aFbk aStack; omega))
  have hup : ∀ k, clusterUp (wr s (aTurnCmd n) w) k = clusterUp s k := fun k => by
    have hne : aCapAvail ≠ aTurnCmd n := by
      unfold aCapAvail
      omega
    rw [clusterUp, rdb_congr (rd_wr_other hne), clusterUp]
  have hdev : deviceId (wr s (aTurnCmd n) w) = deviceId s := congrArg Boot.deviceId (wr_boot s _ w)
  simp only [armRefusal, turnEntry, turnDest, turnBoundary, turnPeerStack, turnPhase, turnPeer, hdev,
    rdf_congr (hslot 0), rdf_congr (hslot 1), rdb_congr (hslot 0), hfb, hup, hstep]
  rfl

theorem turnRow_eq {s : State} (path : Nat) {n op t : Nat} (hup : clusterUp s n = true) (hop : op < 16) (ht : t < 64) :
    turnRow s path n op t = mgApply s (aTurnCmd n) (turnCmdWord op t) fun s =>
      cmdWrite s path (aTurnCmd n) turnCmdFields (turnCmdWord op t) fun s => turnCommand s n op t := by
  obtain ⟨h1, h2, -⟩ := bitsOf_turnCmdWord hop ht
  have hx : ¬ (!clusterUp s n) = true := by simp [hup]
  unfold turnRow mgApply
  simp only [turnCmdWrite, if_neg hx, h1, h2]

/-- A command word has no bits but its fields'. -/
theorem turnCmdWord_fits {op t : Nat} (h1 : 1 ≤ op) (h5 : op ≤ 5) (ht : t < 64) :
    touchesReserved turnCmdFields (turnCmdWord op t) = false ∧ outOfRange turnCmdFields (turnCmdWord op t) = false := by
  obtain ⟨hop, -, hres⟩ := bitsOf_turnCmdWord (show op < 16 by omega) ht
  exact ⟨by simp [touchesReserved, turnCmdFields, rsv, wo, hres], by simp [outOfRange, turnCmdFields, rsv, wo, hop, h1, h5]⟩

/-- A command through a command register: it runs after its word was stored, and an accepted one is captured. -/
theorem turnCommand_row {s u : State} {path a n op t code : Nat} {v : Word} (h : manageable s)
    (hrsv : touchesReserved turnCmdFields v = false) (hrange : outOfRange turnCmdFields v = false)
    (hu : turnEffect (wr s a (mergedWord (!s.mg.rw1.contains a) turnCmdFields (rd s a) v)) n op t = (u, code)) :
    mgApply s a v (fun s => cmdWrite s path a turnCmdFields v fun s => turnCommand s n op t)
      = if code = 0 then captureWrite (turnReport u n t 0) a v else turnReport u n t code := by
  have hcmd := turnCommand_eq (wr s a (mergedWord (!s.mg.rw1.contains a) turnCmdFields (rd s a) v)) n op t
  rw [hu] at hcmd
  split
  · next hc =>
    rw [hc] at hcmd
    exact cmdRow_ok h rfl hrsv hrange rfl hcmd
  · next hc => exact cmdRow_refused h rfl hrsv hrange rfl hc hcmd

/-- The command word as stored. -/
def turnCmdStored (s : State) (n op t : Nat) : State :=
  wr s (aTurnCmd n)
    (mergedWord (!s.mg.rw1.contains (aTurnCmd n)) turnCmdFields (rd s (aTurnCmd n)) (turnCmdWord op t))

theorem turnRow_answers {s u : State} (path : Nat) {n op t code : Nat} (h : manageable s) (hup : clusterUp s n = true)
    (h1 : 1 ≤ op) (h5 : op ≤ 5) (ht : t < 64) (hu : turnEffect (turnCmdStored s n op t) n op t = (u, code)) :
    turnRow s path n op t =
      if code = 0 then captureWrite (turnReport u n t 0) (aTurnCmd n) (turnCmdWord op t) else turnReport u n t code := by
  obtain ⟨hrsv, hrange⟩ := turnCmdWord_fits h1 h5 ht
  rw [turnRow_eq path hup (by omega) ht]
  exact turnCommand_row h hrsv hrange hu

/-- A command of FBK_TURN_CMD on a managed device: the command word is stored, the command runs, FBK_TURN_STAT
reports, and an accepted command is captured. -/
theorem turnRow_shows {s : State} (path : Nat) {n op t : Nat} (h : manageable s) (hup : clusterUp s n = true)
    (h1 : 1 ≤ op) (h5 : op ≤ 5) (ht : t < 64) :
    ∃ v, TurnStored s v n t ∧ ∀ u code, turnEffect v n op t = (u, code) → turnRow s path n op t =
      if code = 0 then captureWrite (turnReport u n t 0) (aTurnCmd n) (turnCmdWord op t) else turnReport u n t code :=
  ⟨turnCmdStored s n op t, turnStored_wr s n t _, fun _ _ hu => turnRow_answers path h hup h1 h5 ht hu⟩

/-! ## What a command leaves -/

theorem turnCapture_answers (u : State) {n t : Nat} (a : Nat) (v : Word) (hn : n < 12) (ht : t < 64) :
    rdf (captureWrite (turnReport u n t 0) a v) (aTurnStat n) 63 56 = 0
      ∧ rdf (captureWrite (turnReport u n t 0) a v) (aTurnStat n) 5 0 = t := by
  rw [rdf_congr (rd_captureWrite (aTurnStat_lt hn)), rdf_congr (rd_captureWrite (aTurnStat_lt hn))]
  exact turnReport_shows u n ht (by decide)

theorem turnReport_stk (u : State) (n t code : Nat) : (turnReport u n t code).stk = u.stk := wr_stk u _ _

theorem stackState_turns {x y : Stacks} (h : stackState x = stackState y) : x.turns = y.turns :=
  show (stackState x).turns = (stackState y).turns by rw [h]

theorem turnCapture_turns (u : State) (n t a : Nat) (v : Word) :
    (captureWrite (turnReport u n t 0) a v).stk.turns = u.stk.turns :=
  (stackState_turns ((captureWrite_keeps (m := 167772416) rfl (.refl _ (turnReport u n t 0))).stk rfl)).trans
    (congrArg Stacks.turns (turnReport_stk u n t 0))

theorem turnCapture_frame {s u : State} {ps : List Part} {n t a b : Nat} {v : Word} {as : List Nat}
    (h : touchesOnly ps b as s u) (hb : b ≤ 0xA000_0000) (hp : Part.recorder ∈ ps)
    (hm : aTurnStat n ∈ as ∨ b ≤ aTurnStat n) :
    touchesOnly ps b as s (captureWrite (turnReport u n t 0) a v) :=
  captureWrite_touches (h.wr hm) hp hb

/-- A slot, its entries and its work after a command was captured. -/
structure TurnShown (n t : Nat) (u x : State) : Prop where
  slot : ∀ w < 4, rd x (aTurn n t w) = rd u (aTurn n t w)
  entry : ∀ e < 32768, ∀ w < 8, rd x (aEntry n e w) = rd u (aEntry n e w)
  work : turnWork x n t = turnWork u n t

theorem turnCapture_shown (u : State) {n t : Nat} (a : Nat) (v : Word) (hn : n < 12) (ht : t < 64) :
    TurnShown n t u (captureWrite (turnReport u n t 0) a v) :=
  ⟨fun _ hw => (rd_captureWrite (aTurn_lt hn ht hw)).trans (rd_wr_other aTurn_ne_stat),
    fun e he w hw => (rd_captureWrite (aEntry_lt hn he hw)).trans (rd_wr_other (aEntry_ne_turnStat n e w)),
    turnWork_congr (turnCapture_turns u n t a v) n t⟩

section
variable {s : State} {n t : Nat} (path : Nat) (h : manageable s) (hup : clusterUp s n = true) (ht : t < 64)
include h hup ht

/-- A refused command. -/
theorem turnRow_refused {c : Instr} {op code : Nat} (h1 : 1 ≤ op) (h5 : op ≤ 5) (hcode : code < 256) (hne : code ≠ 0)
    (hx : exec c s = .next (turnRow s path n op t)) (hcmd : ∀ v, TurnStored s v n t → turnEffect v n op t = (v, code)) :
    ∃ u, exec c s = .next u ∧ (rdf u (aTurnStat n) 63 56 = code ∧ rdf u (aTurnStat n) 5 0 = t)
      ∧ touchesOnly [] (2 ^ 64) [aTurnCmd n, aTurnStat n] s u := by
  obtain ⟨v, hv, hrow⟩ := turnRow_shows path h hup h1 h5 ht
  exact ⟨_, hx.trans (congrArg Host.Outcome.next ((hrow v code (hcmd v hv)).trans (if_neg hne))),
    turnReport_shows v n ht hcode, (hv.frame.mono (by simp) le_rfl (by simp)).wr (.inl (by simp))⟩

/-- An accepted command whose effect shows in the slot, its work and the stack's entries. -/
theorem turnRow_done {c : Instr} {op b : Nat} {ps : List Part} {as : List Nat} {Q : State → Prop} (h1 : 1 ≤ op)
    (h5 : op ≤ 5) (hx : exec c s = .next (turnRow s path n op t)) (hb : b ≤ 0xA000_0000) (hr : Part.recorder ∈ ps)
    (hm : aTurnStat n ∈ as ∨ b ≤ aTurnStat n)
    (hcmd : ∀ v, TurnStored s v n t → ∃ u, turnEffect v n op t = (u, 0) ∧ touchesOnly ps b as s u
      ∧ ∀ x, TurnShown n t u x → Q x) :
    ∃ u, exec c s = .next u ∧ (rdf u (aTurnStat n) 63 56 = 0 ∧ rdf u (aTurnStat n) 5 0 = t) ∧ Q u
      ∧ touchesOnly ps b as s u := by
  obtain ⟨v, hv, hrow⟩ := turnRow_shows path h hup h1 h5 ht
  obtain ⟨u, heff, hf, hq⟩ := hcmd v hv
  exact ⟨_, hx.trans (congrArg Host.Outcome.next ((hrow u 0 heff).trans (if_pos rfl))),
    turnCapture_answers u _ _ (clusterUp_lt hup) ht, hq _ (turnCapture_shown u _ _ (clusterUp_lt hup) ht),
    turnCapture_frame hf hb hr hm⟩

/-! ## Slot writes -/

omit ht in
theorem turnSlotWrite_open (w : Nat) (v : Word) (hph : turnPhase s n t = tpFree) :
    exec (.turnSlotWrite path n t w v) s = .next (captureWrite
      (turnReport (regWrite s path (aTurn n t w) (turnFields w) v) n t 0) (aTurn n t w) v) := by
  have hop : turnSlotWrite s path n t w v
      = ⟨turnReport (regWrite s path (aTurn n t w) (turnFields w) v) n t 0, .ok⟩ :=
    (if_neg (by simp [hup])).trans (if_neg (not_not.mpr hph))
  exact congrArg Host.Outcome.next ((mgApply_ok h (by rw [hop])).trans (by rw [hop]))

theorem turnSlotWrite_shows (w : Nat) (v : Word) (hph : turnPhase s n t = tpFree) (hw : w < 2) :
    ∃ u first, exec (.turnSlotWrite path n t w v) s = .next u
      ∧ (rdf u (aTurnStat n) 63 56 = 0 ∧ rdf u (aTurnStat n) 5 0 = t)
      ∧ rd u (aTurn n t w) = mergedWord first (turnFields w) (rd s (aTurn n t w)) v
      ∧ touchesOnly [.recorder] 0xA000_0000 [aTurnStat n, aTurn n t w] s u := by
  have hn := clusterUp_lt hup
  have hfs : hasRw1 (turnFields w) = false := by interval_cases w <;> rfl
  refine ⟨_, _, turnSlotWrite_open path h hup w v hph, turnCapture_answers _ _ _ hn ht,
    ((rd_captureWrite (aTurn_lt hn ht (by omega))).trans (rd_wr_other aTurn_ne_stat)).trans (rd_regWrite_same _ _ _ _ _), ?_⟩
  exact turnCapture_frame ((touchesOnly.refl _ _ _ s).regWrite hfs (.inl (by simp))) le_rfl (by simp) (.inl (by simp))

theorem turnSlotWrite_busy (w : Nat) (v : Word) (hph : turnPhase s n t ≠ tpFree) :
    ∃ u, exec (.turnSlotWrite path n t w v) s = .next u
      ∧ (rdf u (aTurnStat n) 63 56 = 0x30 ∧ rdf u (aTurnStat n) 5 0 = t)
      ∧ touchesOnly [] (2 ^ 64) [aTurnCmd n, aTurnStat n] s u := by
  have hop : turnSlotWrite s path n t w v = ⟨turnReport s n t rcTurnBusy, .refused rcTurnBusy⟩ :=
    (if_neg (by simp [hup])).trans (if_pos hph)
  exact ⟨turnReport s n t rcTurnBusy, congrArg Host.Outcome.next ((mgApply_not_ok h (by rw [hop]; simp)).trans (by rw [hop])),
    turnReport_shows s n ht (by decide), (touchesOnly.refl _ _ _ s).wr (.inl (by simp))⟩

end

/-- Word 0 of a slot takes the fields 60:8 alone. -/
theorem mergedWord_turn0 (first : Bool) (old v : Word) :
    bitsOf (mergedWord first (turnFields 0) old v) 60 8 = bitsOf v 60 8
      ∧ bitsOf (mergedWord first (turnFields 0) old v) 63 61 = bitsOf old 63 61
      ∧ bitsOf (mergedWord first (turnFields 0) old v) 7 0 = bitsOf old 7 0 := by
  have hf : ∀ f ∈ [(60, 60), (59, 56), (55, 41), (40, 26), (25, 8)],
      bitsOf (mergedWord first (turnFields 0) old v) f.1 f.2 = bitsOf v f.1 f.2 := by
    simp [mergedWord, turnFields, putField, rw, ro, rsv, bitsOf_putBits_copy, bitsOf_putBits_other]
  refine ⟨?_, ?_, ?_⟩
  · exact bitsOf_split (mid := 59) (by decide) (by decide) (hf (60, 60) (by simp))
      (bitsOf_split (mid := 55) (by decide) (by decide) (hf (59, 56) (by simp))
        (bitsOf_split (mid := 40) (by decide) (by decide) (hf (55, 41) (by simp))
          (bitsOf_split (mid := 25) (by decide) (by decide) (hf (40, 26) (by simp)) (hf (25, 8) (by simp)))))
  · simp [mergedWord, turnFields, putField, rw, ro, rsv, bitsOf_putBits_other]
  · simp [mergedWord, turnFields, putField, rw, ro, rsv, bitsOf_putBits_other]

/-- Word 1 of a slot takes the whole word. -/
theorem mergedWord_turn1 (first : Bool) (old v : Word) : mergedWord first (turnFields 1) old v = v := by
  have hf : ∀ f ∈ [(63, 32), (31, 0)], bitsOf (mergedWord first (turnFields 1) old v) f.1 f.2 = bitsOf v f.1 f.2 := by
    simp [mergedWord, turnFields, putField, rw, bitsOf_putBits_copy, bitsOf_putBits_other]
  have hall : bitsOf (mergedWord first (turnFields 1) old v) 63 0 = bitsOf v 63 0 :=
    bitsOf_split (mid := 31) (by decide) (by decide) (hf (63, 32) (by simp)) (hf (31, 0) (by simp))
  have hword : ∀ x : Word, bitsOf x 63 0 = x.toNat := fun x => Nat.mod_eq_of_lt x.isLt
  exact BitVec.eq_of_toNat_eq (by rw [← hword, ← hword, hall])

/-! ## Effects of the commands -/

theorem TurnStored.phase {s v : State} {n t : Nat} (h : TurnStored s v n t) : turnPhase v n t = turnPhase s n t :=
  rdf_congr (h.slot 0)

theorem TurnStored.dest {s v : State} {n t : Nat} (h : TurnStored s v n t) : turnDest v n t = turnDest s n t :=
  rdb_congr (h.slot 0)

/-- The words of an armed slot (R242). -/
def slotArming (s : State) (n t : Nat) : State :=
  wr (wr (setPhase (wrf s (aTurn n t 0) 7 4 0) n t tpArmed) (aTurn n t 2) 0) (aTurn n t 3) 0

/-- An armed slot, its entry apart. -/
def slotArmed (s : State) (n t : Nat) : State := setTurnWork (slotArming s n t) n t TurnWork.empty

theorem turnArm_eq (s : State) (n t : Nat) : turnArm s n t =
    if turnDest (slotArmed s n t) n t then
      setFbState (slotArmed s n t) n (turnEntry (slotArmed s n t) n t) esIncoming
    else slotArmed s n t := rfl

theorem rdb_of_rdf {s t : State} {a k : Nat} (h : rdf t a k k = rdf s a k k) : rdb t a k = rdb s a k := bitOf_of_bitsOf h

theorem rd_slotArmed (s : State) (n t a : Nat) : rd (slotArmed s n t) a = rd (slotArming s n t) a :=
  rd_setTurnWork _ n t _ a

theorem rd_slotArming_other {s : State} {n t a : Nat} (h : ∀ w, w < 4 → a ≠ aTurn n t w) :
    rd (slotArming s n t) a = rd s a :=
  (rd_wr_other (h 3 (by decide))).trans ((rd_wr_other (h 2 (by decide))).trans
    ((rd_wrf_other (h 0 (by decide))).trans (rd_wrf_other (h 0 (by decide)))))

/-- Word 0 of an armed slot. -/
theorem rdf_slotArming (s : State) (n t hi lo : Nat) : rdf (slotArming s n t) (aTurn n t 0) hi lo
    = rdf (wrf (wrf s (aTurn n t 0) 7 4 0) (aTurn n t 0) 63 61 tpArmed) (aTurn n t 0) hi lo :=
  rdf_congr ((rd_wr_other (aTurn_inj (by decide))).trans (rd_wr_other (aTurn_inj (by decide))))

theorem slotArming_kept (s : State) (n t : Nat) {hi lo : Nat} (h1 : hi < 61) (h2 : 7 < lo) :
    rdf (slotArming s n t) (aTurn n t 0) hi lo = rdf s (aTurn n t 0) hi lo := by
  rw [rdf_slotArming, rdf_wrf_field _ _ _ (.inl h1), rdf_wrf_field _ _ _ (.inr h2)]

theorem slotArming_shows (s : State) (n t : Nat) : turnPhase (slotArming s n t) n t = tpArmed
    ∧ rdf (slotArming s n t) (aTurn n t 0) 7 4 = 0 ∧ rd (slotArming s n t) (aTurn n t 2) = 0
    ∧ rd (slotArming s n t) (aTurn n t 3) = 0 := by
  refine ⟨(rdf_slotArming ..).trans (rdf_wrf_same _ _ _ (by decide)), (rdf_slotArming ..).trans ?_, ?_, rd_wr_same _ _ _⟩
  · exact (rdf_wrf_field _ _ _ (.inl (by decide))).trans (rdf_wrf_same _ _ _ (by decide))
  · exact (rd_wr_other (aTurn_inj (by decide))).trans (rd_wr_same _ _ _)

theorem slotArmed_shows (s : State) (n t : Nat) :
    turnPhase (slotArmed s n t) n t = tpArmed ∧ rdf (slotArmed s n t) (aTurn n t 0) 7 4 = 0
      ∧ rd (slotArmed s n t) (aTurn n t 2) = 0 ∧ rd (slotArmed s n t) (aTurn n t 3) = 0
      ∧ turnWork (slotArmed s n t) n t = TurnWork.empty ∧ turnEntry (slotArmed s n t) n t = turnEntry s n t
      ∧ turnDest (slotArmed s n t) n t = turnDest s n t := by
  obtain ⟨h1, h2, h3, h4⟩ := slotArming_shows s n t
  have hrd := rd_slotArmed s n t
  exact ⟨(rdf_congr (hrd _)).trans h1, (rdf_congr (hrd _)).trans h2, (hrd _).trans h3, (hrd _).trans h4,
    turnWork_set_same _ n t _, (rdf_congr (hrd _)).trans (slotArming_kept s n t (by decide) (by decide)),
    (rdb_congr (hrd _)).trans (rdb_of_rdf (slotArming_kept s n t (hi := 60) (lo := 60) (by decide) (by decide)))⟩

theorem slotArmed_frame {as : List Nat} {r s : State} {n t : Nat} (h : touchesOnly [.stack, .recorder] 0xA000_0000 as r s)
    (hm : ∀ w < 4, aTurn n t w ∈ as) : touchesOnly [.stack, .recorder] 0xA000_0000 as r (slotArmed s n t) :=
  ((((h.wrf (.inl (hm 0 (by decide)))).wrf (.inl (hm 0 (by decide)))).wr (.inl (hm 2 (by decide)))).wr
    (.inl (hm 3 (by decide)))).setTurnWork n t _

/-- What TurnStored says of an entry's number and state. -/
theorem TurnStored.entryState {s v : State} {n t : Nat} (h : TurnStored s v n t) (e : Nat) :
    fbState v n e = fbState s n e := rdf_congr (h.entry e 0)

theorem TurnStored.entryNo {s v : State} {n t : Nat} (h : TurnStored s v n t) : turnEntry v n t = turnEntry s n t :=
  rdf_congr (h.slot 0)

/-- What ARM leaves of its slot and its entry. -/
def armedAs (s : State) (n t : Nat) (x : State) : Prop :=
  turnPhase x n t = tpArmed ∧ rdf x (aTurn n t 0) 7 4 = 0 ∧ rd x (aTurn n t 2) = 0 ∧ rd x (aTurn n t 3) = 0
    ∧ turnWork x n t = TurnWork.empty
    ∧ fbState x n (turnEntry s n t) = if turnDest s n t = true then esIncoming else fbState s n (turnEntry s n t)

theorem TurnShown.armed {s u x : State} {n t : Nat} (h : TurnShown n t u x) (g : armedAs s n t u) : armedAs s n t x := by
  obtain ⟨h1, h2, h3, h4, h5, h6⟩ := g
  exact ⟨(rdf_congr (h.slot 0 (by decide))).trans h1, (rdf_congr (h.slot 0 (by decide))).trans h2,
    (h.slot 2 (by decide)).trans h3, (h.slot 3 (by decide)).trans h4, h.work.trans h5,
    (rdf_congr (h.entry _ (rdf_lt s _ 55 41) 0 (by decide))).trans h6⟩

theorem rd_setFbState_turn {s : State} {n e st t w : Nat} (ht : t < 64) (hw : w < 4) :
    rd (setFbState s n e st) (aTurn n t w) = rd s (aTurn n t w) := rd_wrf_other (aTurn_ne_entry ht hw)

theorem turnArm_shows {s v : State} {n t : Nat} (hv : TurnStored s v n t) (ht : t < 64) :
    armedAs s n t (turnArm v n t) := by
  obtain ⟨h1, h2, h3, h4, h5, he, hd⟩ := slotArmed_shows v n t
  have hfb : ∀ e, fbState (slotArmed v n t) n e = fbState v n e := fun e => by
    have hne : ∀ w, w < 4 → aEntry n e 0 ≠ aTurn n t w := fun w hw => (aTurn_ne_entry ht hw).symm
    exact rdf_congr ((rd_slotArmed v n t _).trans (rd_slotArming_other hne))
  rw [turnArm_eq, hd, he, hv.dest, hv.entryNo]
  split
  · next hdest =>
    refine ⟨(rdf_congr (rd_setFbState_turn ht (by decide))).trans h1, (rdf_congr (rd_setFbState_turn ht (by decide))).trans h2,
      (rd_setFbState_turn ht (by decide)).trans h3, (rd_setFbState_turn ht (by decide)).trans h4,
      (turnWork_congr (congrArg Stacks.turns (wr_stk _ _ _)) n t).trans h5, ?_⟩
    rw [if_pos hdest]
    exact rdf_wrf_same _ _ _ (by decide)
  · next hdest => exact ⟨h1, h2, h3, h4, h5, by rw [if_neg hdest, hfb, hv.entryState]⟩

theorem turnArm_frame {s v : State} {n t : Nat} {as : List Nat} (hv : TurnStored s v n t)
    (h : touchesOnly [.stack, .recorder] 0xA000_0000 as s v) (hm : ∀ w < 4, aTurn n t w ∈ as)
    (he : aEntry n (turnEntry s n t) 0 ∈ as) : touchesOnly [.stack, .recorder] 0xA000_0000 as s (turnArm v n t) := by
  obtain ⟨-, -, -, -, -, hno, -⟩ := slotArmed_shows v n t
  rw [turnArm_eq, hno, hv.entryNo]
  have hs := slotArmed_frame h hm
  split
  · exact hs.wrf (.inl he)
  · exact hs

/-- A slot that begins to move anew (R242). -/
def slotMoving (s : State) (n t : Nat) : State := setPhase (wrf s (aTurn n t 0) 7 4 0) n t tpMoving

theorem slotMoving_shows (s : State) (n t : Nat) : turnPhase (slotMoving s n t) n t = tpMoving
    ∧ rdf (slotMoving s n t) (aTurn n t 0) 7 4 = 0 ∧ turnDest (slotMoving s n t) n t = turnDest s n t :=
  ⟨rdf_wrf_same _ _ _ (by decide), (rdf_wrf_field _ _ _ (.inl (by decide))).trans (rdf_wrf_same _ _ _ (by decide)),
    (rdb_wrf_field _ _ _ (.inl (by decide))).trans (rdb_wrf_field _ _ _ (.inr (by decide)))⟩

/-- A destination that begins to move anew: no page is there. -/
def slotRestarted (s : State) (n t : Nat) : State :=
  wrf (setTurnWork (slotMoving s n t) n t
    { turnWork (slotMoving s n t) n t with nextPage := 0, checks := [], rejected := false }) (aTurn n t 2) 39 16 0

theorem turnRestart_eq (s : State) (n t : Nat) : turnRestart s n t =
    if turnDest (slotMoving s n t) n t then slotRestarted s n t else sendPages (slotMoving s n t) n t 0 := rfl

/-- What RESTART leaves of a destination's slot. -/
def restartedAs (n t : Nat) (x : State) : Prop :=
  turnPhase x n t = tpMoving ∧ rdf x (aTurn n t 0) 7 4 = 0 ∧ turnDone x n t = 0 ∧ (turnWork x n t).nextPage = 0
    ∧ (turnWork x n t).checks = []

theorem slotRestarted_shows (s : State) (n t : Nat) : restartedAs n t (slotRestarted s n t) := by
  obtain ⟨h1, h2, -⟩ := slotMoving_shows s n t
  have h0 : rd (slotRestarted s n t) (aTurn n t 0) = rd (slotMoving s n t) (aTurn n t 0) :=
    (rd_wrf_other (aTurn_inj (by decide))).trans (rd_setTurnWork _ n t _ _)
  have hw : turnWork (slotRestarted s n t) n t
      = { turnWork (slotMoving s n t) n t with nextPage := 0, checks := [], rejected := false } :=
    (turnWork_congr (congrArg Stacks.turns (wr_stk _ _ _)) n t).trans (turnWork_set_same _ n t _)
  exact ⟨(rdf_congr h0).trans h1, (rdf_congr h0).trans h2, rdf_wrf_same _ _ _ (by decide), by rw [hw], by rw [hw]⟩

theorem TurnShown.restarted {u x : State} {n t : Nat} (h : TurnShown n t u x) (g : restartedAs n t u) :
    restartedAs n t x := by
  obtain ⟨h1, h2, h3, h4, h5⟩ := g
  exact ⟨(rdf_congr (h.slot 0 (by decide))).trans h1, (rdf_congr (h.slot 0 (by decide))).trans h2,
    (rdf_congr (h.slot 2 (by decide))).trans h3, by rw [h.work, h4], by rw [h.work, h5]⟩

theorem TurnShown.cleared {u x : State} {n t : Nat} (h : TurnShown n t u x) (g : turnCleared u n t) :
    turnCleared x n t := ⟨fun w hw => (h.slot w hw).trans (g.1 w hw), h.work.trans g.2⟩

/-- ABORT leaves a FREE slot whatever became of the entry. -/
theorem turnAbort_clears (s : State) (n t : Nat) : turnCleared (turnAbort s n t) n t := freeTurn_clears _ n t

/-- An armed source whose entry is not OUTGOING has moved nothing. -/
theorem turnAbort_armed {s : State} {n t : Nat} (hp : turnPhase s n t = tpArmed) (hd : turnDest s n t = false)
    (he : fbState s n (turnEntry s n t) ≠ esOutgoing) : turnAbort s n t = freeTurn s n t := by
  unfold turnAbort
  simp only [hp, if_true, hd, Bool.false_eq_true, if_false, fbAt_state]
  rw [if_pos he]

theorem turnFinish_eq (s : State) (n t : Nat) : turnFinish s n t =
    if !turnDest s n t then freeEntry (freeTurn s n t) n (turnEntry s n t) else freeTurn s n t := rfl

theorem turnEffect_abort {s : State} {n t : Nat} (h : turnPhase s n t ≠ tpFree) :
    turnEffect s n 2 t = (settle (turnAbort s n t), 0) := if_neg h

theorem turnEffect_restart {s : State} {n t : Nat} (h : turnPhase s n t = tpFailed) :
    turnEffect s n 3 t = (turnRestart s n t, 0) := if_neg (not_not.mpr h)

theorem turnEffect_finish {s : State} {n t : Nat} (h : turnPhase s n t = tpHanded) :
    turnEffect s n 4 t = (turnFinish s n t, 0) := if_neg (not_not.mpr h)

/-! ## The commands -/

section
variable {s : State} {n t : Nat} (path : Nat) (h : manageable s) (hup : clusterUp s n = true) (ht : t < 64)
include h hup ht

theorem turnArm_refused (hc : armRefusal s n t ≠ 0) :
    ∃ u, exec (.turnArm path n t) s = .next u
      ∧ (rdf u (aTurnStat n) 63 56 = armRefusal s n t ∧ rdf u (aTurnStat n) 5 0 = t)
      ∧ touchesOnly [] (2 ^ 64) [aTurnCmd n, aTurnStat n] s u := by
  have hlt : armRefusal s n t < 256 := by
    unfold armRefusal
    dsimp only
    split
    · decide
    · split
      · decide
      · split
        · decide
        · split <;> decide
  refine turnRow_refused path h hup ht (op := 1) (by decide) (by decide) hlt hc rfl fun v hv => ?_
  refine (if_pos (by rw [hv.refusal]; exact hc)).trans ?_
  rw [hv.refusal]

theorem turnArm_arms (hc : armRefusal s n t = 0) :
    ∃ u, exec (.turnArm path n t) s = .next u ∧ (rdf u (aTurnStat n) 63 56 = 0 ∧ rdf u (aTurnStat n) 5 0 = t)
      ∧ armedAs s n t u
      ∧ touchesOnly [.stack, .recorder] 0xA000_0000
        (aTurnCmd n :: aTurnStat n :: aEntry n (turnEntry s n t) 0 :: turnSlotWords n t) s u := by
  refine turnRow_done path h hup ht (op := 1) (by decide) (by decide) rfl le_rfl (by simp) (.inl (by simp))
    fun v hv => ⟨turnArm v n t, if_neg (by rw [hv.refusal]; exact not_not.mpr hc), ?_,
      fun x hx => hx.armed (turnArm_shows hv ht)⟩
  exact turnArm_frame hv (hv.frame.mono (by simp) (by decide) (by simp))
    (fun w hw => List.mem_cons_of_mem _ (List.mem_cons_of_mem _ (List.mem_cons_of_mem _ (mem_turnSlotWords hw)))) (by simp)

/-- A command in a phase that it is not for. -/
theorem turnRow_wrongPhase {c : Instr} {op : Nat} (h1 : 1 ≤ op) (h5 : op ≤ 5)
    (hx : exec c s = .next (turnRow s path n op t))
    (hcmd : ∀ v, turnPhase v n t = turnPhase s n t → turnEffect v n op t = (v, rcTurnPhase)) :
    ∃ u, exec c s = .next u ∧ (rdf u (aTurnStat n) 63 56 = 0x34 ∧ rdf u (aTurnStat n) 5 0 = t)
      ∧ touchesOnly [] (2 ^ 64) [aTurnCmd n, aTurnStat n] s u :=
  turnRow_refused path h hup ht h1 h5 (by decide) (by decide) hx fun v hv => hcmd v hv.phase

theorem turnAbort_aborts (hph : turnPhase s n t ≠ tpFree) :
    ∃ u, touchesOnly [] (2 ^ 64) [aTurnCmd n] s u ∧ turnCleared (turnAbort u n t) n t
      ∧ exec (.turnAbort path n t) s
        = .next (captureWrite (turnReport (settle (turnAbort u n t)) n t 0) (aTurnCmd n) (turnCmdWord 2 t)) := by
  obtain ⟨v, hv, hrow⟩ := turnRow_shows path h hup (show 1 ≤ 2 by decide) (by decide) ht
  exact ⟨v, hv.frame, turnAbort_clears v n t,
    congrArg Host.Outcome.next ((hrow _ 0 (turnEffect_abort (by rw [hv.phase]; exact hph))).trans (if_pos rfl))⟩

theorem turnAbort_ofArmed (hph : turnPhase s n t = tpArmed) (hd : turnDest s n t = false)
    (he : fbState s n (turnEntry s n t) ≠ esOutgoing) : ∃ u, exec (.turnAbort path n t) s
        = .next (captureWrite (turnReport (settle u) n t 0) (aTurnCmd n) (turnCmdWord 2 t))
      ∧ turnCleared u n t ∧ touchesOnly [.stack] (2 ^ 64) (aTurnCmd n :: turnSlotWords n t) s u := by
  obtain ⟨v, hv, hrow⟩ := turnRow_shows path h hup (show 1 ≤ 2 by decide) (by decide) ht
  have hx := (hrow _ 0 (turnEffect_abort (by rw [hv.phase, hph]; decide))).trans (if_pos rfl)
  rw [turnAbort_armed (hv.phase.trans hph) (hv.dest.trans hd) (by rw [hv.entryNo, hv.entryState]; exact he)] at hx
  refine ⟨freeTurn v n t, congrArg Host.Outcome.next hx, freeTurn_clears v n t, ?_⟩
  exact freeTurn_frame (hv.frame.mono (by simp) le_rfl (by simp)) (by simp)
    fun w hw => .inl (List.mem_cons_of_mem _ (mem_turnSlotWords hw))

theorem turnRestart_dest (hph : turnPhase s n t = tpFailed) (hd : turnDest s n t = true) :
    ∃ u, exec (.turnRestart path n t) s = .next u ∧ (rdf u (aTurnStat n) 63 56 = 0 ∧ rdf u (aTurnStat n) 5 0 = t)
      ∧ restartedAs n t u
      ∧ touchesOnly [.stack, .recorder] 0xA000_0000 (aTurnCmd n :: aTurnStat n :: turnSlotWords n t) s u := by
  have hm : ∀ w < 4, aTurn n t w ∈ aTurnCmd n :: aTurnStat n :: turnSlotWords n t := fun w hw =>
    List.mem_cons_of_mem _ (List.mem_cons_of_mem _ (mem_turnSlotWords hw))
  refine turnRow_done path h hup ht (op := 3) (by decide) (by decide) rfl le_rfl (by simp) (.inl (by simp))
    fun v hv => ⟨slotRestarted v n t, (turnEffect_restart (hv.phase.trans hph)).trans ?_, ?_,
      fun x hx => hx.restarted (slotRestarted_shows v n t)⟩
  · rw [turnRestart_eq, (slotMoving_shows v n t).2.2, hv.dest, if_pos hd]
  · exact (touchesOnly.setTurnWork n t _ (((hv.frame.mono (by simp) (by decide) (by simp)).wrf
      (.inl (hm 0 (by decide)))).wrf (.inl (hm 0 (by decide))))).wrf (.inl (hm 2 (by decide)))

theorem turnRestart_source (hph : turnPhase s n t = tpFailed) (hd : turnDest s n t = false) :
    ∃ u, exec (.turnRestart path n t) s
        = .next (captureWrite (turnReport (sendPages u n t 0) n t 0) (aTurnCmd n) (turnCmdWord 3 t))
      ∧ turnPhase u n t = tpMoving ∧ rdf u (aTurn n t 0) 7 4 = 0
      ∧ touchesOnly [] (2 ^ 64) [aTurnCmd n, aTurn n t 0] s u := by
  obtain ⟨v, hv, hrow⟩ := turnRow_shows path h hup (show 1 ≤ 3 by decide) (by decide) ht
  obtain ⟨h1, h2, h3⟩ := slotMoving_shows v n t
  have hsend : turnRestart v n t = sendPages (slotMoving v n t) n t 0 := by
    rw [turnRestart_eq, h3, hv.dest, hd]
    rfl
  have hx := (hrow _ 0 (turnEffect_restart (hv.phase.trans hph))).trans (if_pos rfl)
  rw [hsend] at hx
  exact ⟨slotMoving v n t, congrArg Host.Outcome.next hx, h1, h2,
    ((hv.frame.mono (by simp) le_rfl (by simp)).wrf (.inl (by simp))).wrf (.inl (by simp))⟩

theorem turnFinish_dest (hph : turnPhase s n t = tpHanded) (hd : turnDest s n t = true) :
    ∃ u, exec (.turnFinish path n t) s = .next u ∧ (rdf u (aTurnStat n) 63 56 = 0 ∧ rdf u (aTurnStat n) 5 0 = t)
      ∧ turnCleared u n t
      ∧ touchesOnly [.stack, .recorder] 0xA000_0000 (aTurnCmd n :: aTurnStat n :: turnSlotWords n t) s u := by
  refine turnRow_done path h hup ht (op := 4) (by decide) (by decide) rfl le_rfl (by simp) (.inl (by simp))
    fun v hv => ⟨freeTurn v n t, (turnEffect_finish (hv.phase.trans hph)).trans ?_, ?_,
      fun x hx => hx.cleared (freeTurn_clears v n t)⟩
  · rw [turnFinish_eq, hv.dest, hd]
    rfl
  · exact freeTurn_frame (hv.frame.mono (by simp) (by decide) (by simp)) (by simp)
      fun w hw => .inl (List.mem_cons_of_mem _ (List.mem_cons_of_mem _ (mem_turnSlotWords hw)))

theorem turnFinish_source (hph : turnPhase s n t = tpHanded) (hd : turnDest s n t = false) :
    ∃ u, exec (.turnFinish path n t) s = .next u ∧ (rdf u (aTurnStat n) 63 56 = 0 ∧ rdf u (aTurnStat n) 5 0 = t)
      ∧ (turnCleared u n t ∧ ∀ w, w < 8 → rd u (aEntry n (turnEntry s n t) w) = 0)
      ∧ touchesOnly [.stack, .recorder] 0x8000_0000 [] s u := by
  have he : turnEntry s n t < 32768 := rdf_lt s _ 55 41
  have hge : ∀ a, 0x8000_0000 ≤ aTurn n t a ∧ 0x8000_0000 ≤ aTurnStat n := fun a => by
    unfold aTurn aTurnStat aFbk aStack
    omega
  refine turnRow_done path h hup ht (op := 4) (by decide) (by decide) rfl (by decide) (by simp) (.inr (hge 0).2)
    fun v hv => ⟨freeEntry (freeTurn v n t) n (turnEntry s n t),
      (turnEffect_finish (hv.phase.trans hph)).trans ?_, ?_, fun x hx => ⟨hx.cleared ?_, fun w hw => ?_⟩⟩
  · rw [turnFinish_eq, hv.dest, hd, hv.entryNo]
    rfl
  · exact touchesOnly.keeps (m := 16777248) (k := 8) (freeTurn_frame (hv.high.mono (by simp) le_rfl (by simp)) (by simp)
      fun w _ => .inr (hge w).1) (freeEntry_keeps rfl (.refl _ _)) (by decide) (by decide)
  · obtain ⟨h1, h2⟩ := freeEntry_turn (freeTurn v n t) n (e := turnEntry s n t) ht
    obtain ⟨h3, h4⟩ := freeTurn_clears v n t
    exact ⟨fun w hw => (h2 w hw).trans (h3 w hw), (turnWork_congr h1 n t).trans h4⟩
  · exact (hx.entry _ he w hw).trans ((freeEntry_shows (freeTurn v n t) n he).2 w hw)

theorem turnQuery_shows : ∃ u, exec (.turnQuery path n t) s = .next u
    ∧ (rdf u (aTurnStat n) 63 56 = 0 ∧ rdf u (aTurnStat n) 5 0 = t)
    ∧ touchesOnly [.recorder] 0xA000_0000 [aTurnCmd n, aTurnStat n] s u := by
  obtain ⟨u, hx, ha, -, hf⟩ := turnRow_done path h hup ht (c := .turnQuery path n t) (op := 5) (Q := fun _ => True) (ps := [.recorder])
    (as := [aTurnCmd n, aTurnStat n]) (b := 0xA000_0000) (by decide) (by decide) rfl le_rfl (by simp) (.inl (by simp))
    fun v hv => ⟨v, rfl, hv.frame.mono (by simp) (by decide) (by simp), fun _ _ => trivial⟩
  exact ⟨u, hx, ha, hf⟩

theorem turnSlotWrites (v : Word) (hph : turnPhase s n t = tpFree) :
    (∃ u, exec (.turnSlotWrite path n t 0 v) s = .next u
      ∧ (rdf u (aTurnStat n) 63 56 = 0 ∧ rdf u (aTurnStat n) 5 0 = t)
      ∧ rdf u (aTurn n t 0) 60 8 = bitsOf v 60 8 ∧ rdf u (aTurn n t 0) 63 61 = rdf s (aTurn n t 0) 63 61
      ∧ rdf u (aTurn n t 0) 7 0 = rdf s (aTurn n t 0) 7 0
      ∧ touchesOnly [.recorder] 0xA000_0000 [aTurnStat n, aTurn n t 0] s u)
    ∧ ∃ u, exec (.turnSlotWrite path n t 1 v) s = .next u
      ∧ (rdf u (aTurnStat n) 63 56 = 0 ∧ rdf u (aTurnStat n) 5 0 = t) ∧ rd u (aTurn n t 1) = v
      ∧ touchesOnly [.recorder] 0xA000_0000 [aTurnStat n, aTurn n t 1] s u := by
  obtain ⟨u, first, hx, ha, hw, hf⟩ := turnSlotWrite_shows path h hup ht 0 v hph (by decide)
  obtain ⟨u', first', hx', ha', hw', hf'⟩ := turnSlotWrite_shows path h hup ht 1 v hph (by decide)
  obtain ⟨h1, h2, h3⟩ := mergedWord_turn0 first (rd s (aTurn n t 0)) v
  exact ⟨⟨u, hx, ha, (congrArg (bitsOf · 60 8) hw).trans h1, (congrArg (bitsOf · 63 61) hw).trans h2,
    (congrArg (bitsOf · 7 0) hw).trans h3, hf⟩, u', hx', ha', hw'.trans (mergedWord_turn1 first' _ v), hf'⟩

end

/-- Settles O38: every command is the command word stored, its one effect and the report in FBK_TURN_STAT. -/
theorem turnoverCommands : Obligations.TurnoverCommands := by
  intro s path n t h hup ht
  refine ⟨fun v hph => (turnSlotWrites path h hup ht v hph).1, fun v hph => (turnSlotWrites path h hup ht v hph).2,
    fun w v hph => turnSlotWrite_busy path h hup ht w v hph, turnArm_refused path h hup ht, fun hc => ?_, fun hph => ?_,
    turnAbort_aborts path h hup ht, turnAbort_ofArmed path h hup ht, fun hph => ?_, fun hph hd => ?_,
    turnRestart_source path h hup ht, fun hph => ?_, turnFinish_dest path h hup ht, fun hph hd => ?_,
    turnQuery_shows path h hup ht⟩
  · obtain ⟨u, hx, ha, ⟨h1, h2, h3, h4, h5, h6⟩, hf⟩ := turnArm_arms path h hup ht hc
    exact ⟨u, hx, ha, h1, h2, h3, h4, h5, h6, hf⟩
  · exact turnRow_wrongPhase path h hup ht (op := 2) (by decide) (by decide) rfl fun v hv => if_pos (hv.trans hph)
  · exact turnRow_wrongPhase path h hup ht (op := 3) (by decide) (by decide) rfl fun v hv => if_pos (by rw [hv]; exact hph)
  · obtain ⟨u, hx, ha, ⟨h1, h2, h3, h4, h5⟩, hf⟩ := turnRestart_dest path h hup ht hph hd
    exact ⟨u, hx, ha, h1, h2, h3, h4, h5, hf⟩
  · exact turnRow_wrongPhase path h hup ht (op := 4) (by decide) (by decide) rfl fun v hv => if_pos (by rw [hv]; exact hph)
  · obtain ⟨u, hx, ha, ⟨h1, h2⟩, hf⟩ := turnFinish_source path h hup ht hph hd
    exact ⟨u, hx, ha, h1, h2, hf⟩

end Sys2Proof.Machine
end

section
/-! PROOFS. TURNOVER packets at both ends (R248, R250, R251). -/

namespace Sys2Proof.Machine

open Sys2Proof

/-! ## A packet's arrival -/

/-- The state once the credits of a packet have returned. -/
structure CreditsBack (s v : State) (port f : Nat) : Prop where
  high : ∀ a, 0x2000_0000 ≤ a → rd v a = rd s a
  up : ∀ n, clusterUp v n = clusterUp s n
  stk : v.stk = s.stk
  frame : touchesOnly [.links] 0x1000_0000 [aCredit port f] s v
  low : touchesOnly [.links] 0x1000_0000 [] s v

theorem returnCredits_stk (s : State) (p f c : Nat) : (returnCredits s p f c).stk = s.stk := by
  unfold returnCredits
  split <;> rfl

theorem creditsBack (s : State) {port f : Nat} (c : Nat) (hp : port < 512) (hf : f < 16) :
    CreditsBack s (returnCredits s port f c) port f := by
  obtain ⟨-, hrd⟩ := returnCredits_shows s port f c
  have hge : 0x1000_0000 ≤ aCredit port f ∧ aCredit port f < 0x2000_0000 := by
    unfold aCredit aPrt
    omega
  have hother : ∀ a, a ≠ aCredit port f → rd (returnCredits s port f c) a = rd s a := fun a ha => hrd a fun _ => ha
  have hparts : ∀ p, p ∉ [Part.links] → p.same s (returnCredits s port f c) := fun p hn =>
    (returnCredits_keeps (m := 262146) rfl (.refl _ s)).parts (by decide) p hn
  have hpend : (returnCredits s port f c).pending = s.pending := by
    unfold returnCredits
    split <;> rfl
  refine ⟨fun a ha => hother a (by omega), fun n => ?_, returnCredits_stk s port f c,
    ⟨hpend, hparts, fun a _ hn => hother a (by simpa using hn)⟩, ⟨hpend, hparts, fun a ha _ => hother a (by omega)⟩⟩
  have hne : aCapAvail ≠ aCredit port f := by
    unfold aCapAvail
    omega
  rw [clusterUp, rdb_congr (hother _ hne), clusterUp]

/-- A TURNOVER frame from a port: its credits return, and it takes effect at its stack if that is in service. -/
theorem turnPacket_fromPort {s : State} {port kind : Nat} {fr : Frame} {f : State → TurnPkt → State}
    (hp : port < 512) (ht : fr.hdr.type = tTurnover) (hk : (turnPktOf fr).kind = kind)
    (hsrc : (turnPktOf fr).src ≠ deviceId s) : ∃ v, CreditsBack s v port fr.hdr.furrow
      ∧ turnPacket s port fr kind f =
        if clusterUp s (turnPktOf fr).dstStack then settle (f v (turnPktOf fr))
        else if (turnPktOf fr).dstStack < 12 then count v 8 (turnPktOf fr).dstStack 4 1 else v := by
  have hfur : fr.hdr.furrow < 16 := bitsOf_lt _ 53 50
  have hv := creditsBack s (creditsOf fr.hdr.length) hp hfur
  refine ⟨_, hv, ?_⟩
  have htake : takeTurn s port fr kind
      = some (returnCredits s port fr.hdr.furrow (creditsOf fr.hdr.length), turnPktOf fr) :=
    (if_neg (by simp [ht, hk])).trans (if_neg hsrc)
  rw [turnPacket, htake]
  simp only [hv.up]

theorem aTurn_high (n t w : Nat) : 0x2000_0000 ≤ aTurn n t w := by
  unfold aTurn aFbk aStack
  omega

theorem aEntry_high (n e w : Nat) : 0x2000_0000 ≤ aEntry n e w := by
  unfold aEntry aFbk aStack
  omega

/-- Slots and entries read as before the packet. -/
theorem CreditsBack.slot {s v : State} {port f : Nat} (h : CreditsBack s v port f) (n t w : Nat) :
    rd v (aTurn n t w) = rd s (aTurn n t w) := h.high _ (aTurn_high n t w)

theorem CreditsBack.phase {s v : State} {port f : Nat} (h : CreditsBack s v port f) (n t : Nat) :
    turnPhase v n t = turnPhase s n t := rdf_congr (h.slot n t 0)

theorem CreditsBack.fb {s v : State} {port f : Nat} (h : CreditsBack s v port f) (n t : Nat) :
    fbAt v n (turnEntry v n t) = fbAt s n (turnEntry s n t) := by
  have he : turnEntry v n t = turnEntry s n t := rdf_congr (h.slot n t 0)
  rw [he]
  exact fbAt_congr fun w _ => h.high _ (aEntry_high n _ w)

theorem CreditsBack.work {s v : State} {port f : Nat} (h : CreditsBack s v port f) (n t : Nat) :
    turnWork v n t = turnWork s n t := turnWork_congr (congrArg Stacks.turns h.stk) n t

theorem CreditsBack.match {s v : State} {port f : Nat} (h : CreditsBack s v port f) (k : TurnPkt) (d : Bool) :
    turnMatch v k d = turnMatch s k d := by
  unfold turnMatch
  congr 1
  funext t
  simp only [turnPhase, turnDest, turnEntry, turnId, turnPeer, rdf_congr (h.slot _ t 0), rdf_congr (h.slot _ t 1),
    rdb_congr (h.slot _ t 0)]

theorem CreditsBack.copying {s v : State} {port f : Nat} (h : CreditsBack s v port f) (n t : Nat) :
    Machine.copying v n t = Machine.copying s n t := by
  simp only [Machine.copying, h.phase]

/-! ## A PAGE in order -/

/-- A page stored, and the slot's work after it. -/
def pageStored (s : State) (n t : Nat) (k : TurnPkt) : State :=
  let w := turnWork s n t
  setTurnWork (hbmWrite s n (pageAddr (fbAt s n (turnEntry s n t)) copyArrays k.page) k.body) n t
    { w with nextPage := k.page + 1, checks := w.checks ++ [k.check], rejected := false }

/-- The slot's word 2 after a page. -/
def pageCounted (s : State) (n t : Nat) (k : TurnPkt) : State :=
  wrf (wrf (pageStored s n t k) (aTurn n t 2) 63 40 k.total) (aTurn n t 2) 39 16 (k.page + 1)

theorem rd_pageStored (s : State) (n t : Nat) (k : TurnPkt) (a : Nat) : rd (pageStored s n t k) a = rd s a := rfl

theorem pageStored_hbm (s : State) (n t : Nat) (k : TurnPkt) : (pageStored s n t k).stk.hbm
    = writeBytes 0x00 s.stk.hbm (hbmKey n (pageAddr (fbAt s n (turnEntry s n t)) copyArrays k.page)) k.body := rfl

theorem pageStored_work (s : State) (n t : Nat) (k : TurnPkt) : turnWork (pageStored s n t k) n t =
    { turnWork s n t with
      nextPage := k.page + 1, checks := (turnWork s n t).checks ++ [k.check], rejected := false } :=
  turnWork_set_same _ n t _

theorem pageAt_stores {s : State} {n t : Nat} {k : TurnPkt} (hph : turnPhase s n t = tpArmed ∨ turnPhase s n t = tpMoving)
    (hpage : k.page = (turnWork s n t).nextPage) (hcrc : crc32c k.body = k.check)
    (hlt : k.page < pageTotal (fbAt s n (turnEntry s n t))) :
    pageAt s n t k = if turnPhase s n t = tpArmed then setPhase (pageCounted s n t k) n t tpMoving
      else pageCounted s n t k := by
  have hphase : turnPhase (pageCounted s n t k) n t = turnPhase s n t :=
    rdf_congr ((rd_wrf_other (aTurn_inj (by decide))).trans ((rd_wrf_other (aTurn_inj (by decide))).trans
      (rd_pageStored s n t k _)))
  have hx : pageAt s n t k = if turnPhase (pageCounted s n t k) n t = tpArmed then
      setPhase (pageCounted s n t k) n t tpMoving else pageCounted s n t k := by
    unfold pageAt
    dsimp only
    rw [if_neg (by tauto), if_neg (by omega), if_neg (by omega), if_neg (not_not.mpr hcrc), if_pos hlt]
    rfl
  rw [hx, hphase]


theorem pageCounted_shows (s : State) (n t : Nat) (k : TurnPkt) (hk : k.total < 2 ^ 24) :
    turnTotal (pageCounted s n t k) n t = k.total ∧ turnDone (pageCounted s n t k) n t = (k.page + 1) % 2 ^ 24
    ∧ rd (pageCounted s n t k) (aTurn n t 0) = rd s (aTurn n t 0)
    ∧ (pageCounted s n t k).stk = (pageStored s n t k).stk :=
  ⟨(rdf_wrf_field _ _ _ (.inr (by decide))).trans ((rdf_wrf_same _ _ _ (by decide)).trans (Nat.mod_eq_of_lt hk)),
    rdf_wrf_same _ _ _ (by decide),
    (rd_wrf_other (aTurn_inj (by decide))).trans ((rd_wrf_other (aTurn_inj (by decide))).trans (rd_pageStored s n t k _)),
    (wr_stk _ _ _).trans (wr_stk _ _ _)⟩

theorem aTurn_above (n t w : Nat) : 0x1000_0000 ≤ aTurn n t w := le_trans (by decide) (aTurn_high n t w)

theorem pageCounted_frame {r s : State} (n t : Nat) (k : TurnPkt) (h : touchesOnly [.links] 0x1000_0000 [] r s) :
    touchesOnly [.links, .stack, .stackMemory] 0x1000_0000 [] r (pageCounted s n t k) := by
  have hs : touchesOnly [.links, .stack, .stackMemory] 0x1000_0000 [] r (pageStored s n t k) :=
    touchesOnly.setTurnWork n t _ (touchesOnly.keeps (ps := [.links, .stack, .stackMemory]) (m := 2080) (k := 2)
      (h.mono (by simp) le_rfl (by simp)) (hbmWrite_keeps rfl (.refl _ _)) (by decide) (by decide))
  exact (hs.wrf (.inr (aTurn_above n t 2))).wrf (.inr (aTurn_above n t 2))

/-- What a page in order leaves of its slot and of the stacks' memory. -/
theorem pageAt_shows {r s : State} {n t : Nat} {k : TurnPkt} (hf : touchesOnly [.links] 0x1000_0000 [] r s)
    (hph : turnPhase s n t = tpArmed ∨ turnPhase s n t = tpMoving) (hpage : k.page = (turnWork s n t).nextPage)
    (hcrc : crc32c k.body = k.check) (hlt : k.page < pageTotal (fbAt s n (turnEntry s n t))) (hk : k.total < 2 ^ 24) :
    (pageAt s n t k).stk = (pageStored s n t k).stk ∧ turnPhase (pageAt s n t k) n t = tpMoving
    ∧ turnTotal (pageAt s n t k) n t = k.total ∧ turnDone (pageAt s n t k) n t = (k.page + 1) % 2 ^ 24
    ∧ touchesOnly [.links, .stack, .stackMemory] 0x1000_0000 [] r (pageAt s n t k) := by
  obtain ⟨htotal, hdone, hzero, hstk⟩ := pageCounted_shows s n t k hk
  have hframe := pageCounted_frame n t k hf
  rw [pageAt_stores hph hpage hcrc hlt]
  split
  · have h2 : rd (setPhase (pageCounted s n t k) n t tpMoving) (aTurn n t 2) = rd (pageCounted s n t k) (aTurn n t 2) :=
      rd_wrf_other (aTurn_inj (by decide))
    exact ⟨(wr_stk _ _ _).trans hstk, rdf_wrf_same _ _ _ (by decide), (rdf_congr h2).trans htotal,
      (rdf_congr h2).trans hdone, hframe.wrf (.inr (aTurn_above n t 0))⟩
  · next hno => exact ⟨hstk, (rdf_congr hzero).trans (hph.resolve_left hno), htotal, hdone, hframe⟩

/-! ## A DONE, and the phases that end a copy -/

theorem doneAt_verifies {s : State} {n t : Nat} {k : TurnPkt} (hph : turnPhase s n t = tpMoving)
    (hall : turnTotal s n t ≤ turnDone s n t)
    (hsame : sameShard (fbOf (wordsOfLe 8 k.body)) (fbAt s n (turnEntry s n t)) = true)
    (hb : bitsOf (wordAt (wordsOfLe 8 k.body) 1) 31 16 = turnBoundary s n t % 2 ^ 16) :
    doneAt s n t k = setPhase (setTurnWork (wrf s (aTurn n t 3) 63 32 (listCrc (turnWork s n t).checks)) n t
      { turnWork s n t with doneWords := wordsOfLe 8 k.body, doneCheck := k.check }) n t tpVerifying := by
  unfold doneAt
  dsimp only
  rw [hph, if_neg (show tpMoving ≠ tpHanded by decide), if_neg (show tpMoving ≠ tpArmed by decide),
    if_neg (by omega), if_neg (by simp [hsame, hb])]

theorem setPhase_phase (s : State) (n t : Nat) {ph : Nat} (h : ph < 8) : turnPhase (setPhase s n t ph) n t = ph :=
  (rdf_wrf_same _ _ _ (by decide)).trans (Nat.mod_eq_of_lt h)

theorem failTurn_shows (s : State) (n t : Nat) {r : Nat} (h : r < 256) :
    turnPhase (failTurn s n t r) n t = tpFailed ∧ rdf (failTurn s n t r) (aTurn n t 2) 15 8 = r :=
  ⟨(rdf_congr (rd_wrf_other (aTurn_inj (by decide)))).trans (setPhase_phase s n t (by decide)),
    (rdf_wrf_same _ _ _ (by decide)).trans (Nat.mod_eq_of_lt h)⟩

theorem failTurn_frame {r s : State} (n t x : Nat) (h : touchesOnly [.links] 0x1000_0000 [] r s) :
    touchesOnly [.links] 0x1000_0000 [] r (failTurn s n t x) :=
  (h.wrf (.inr (aTurn_above n t 0))).wrf (.inr (aTurn_above n t 2))

/-! ## The packets at a stack in service -/

section
variable {s : State} {port : Nat} {fr : Frame} (hp : port < 512) (ht : fr.hdr.type = tTurnover)
  (hsrc : (turnPktOf fr).src ≠ deviceId s)
include hp ht hsrc

section
variable (hup : clusterUp s (turnPktOf fr).dstStack = true)
include hup

/-- A packet takes effect once its credits have returned. -/
theorem turnPacket_served {kind : Nat} (hk : (turnPktOf fr).kind = kind) (f : State → TurnPkt → State) :
    ∃ v, CreditsBack s v port fr.hdr.furrow ∧ turnPacket s port fr kind f = settle (f v (turnPktOf fr)) := by
  obtain ⟨v, hv, hx⟩ := turnPacket_fromPort hp ht hk hsrc (f := f)
  exact ⟨v, hv, hx.trans (if_pos hup)⟩

theorem page_served (hk : (turnPktOf fr).kind = tkPage) {t : Nat} (hm : turnMatch s (turnPktOf fr) true = some t)
    (hph : turnPhase s (turnPktOf fr).dstStack t = tpArmed ∨ turnPhase s (turnPktOf fr).dstStack t = tpMoving) :
    ∃ v, CreditsBack s v port fr.hdr.furrow
      ∧ exec (.page port fr) s = .next (settle (pageAt v (turnPktOf fr).dstStack t (turnPktOf fr))) := by
  obtain ⟨v, hv, hx⟩ := turnPacket_served hp ht hsrc hup hk fun s k =>
    match turnMatch s k true with
    | none => rejectNotArmed s k
    | some t => if turnPhase s k.dstStack t = tpFailed then rejectNotArmed s k else pageAt s k.dstStack t k
  refine ⟨v, hv, (congrArg Host.Outcome.next hx).trans ?_⟩
  simp only [hv.match, hm, hv.phase]
  rw [if_neg (by rcases hph with h | h <;> rw [h] <;> decide)]

theorem done_served (hk : (turnPktOf fr).kind = tkDone) {t : Nat} (hm : turnMatch s (turnPktOf fr) true = some t)
    (hph : turnPhase s (turnPktOf fr).dstStack t = tpMoving) : ∃ v, CreditsBack s v port fr.hdr.furrow
      ∧ exec (.done port fr) s = .next (settle (doneAt v (turnPktOf fr).dstStack t (turnPktOf fr))) := by
  obtain ⟨v, hv, hx⟩ := turnPacket_served hp ht hsrc hup hk fun s k =>
    match turnMatch s k true with
    | none => rejectNotArmed s k
    | some t => if turnPhase s k.dstStack t = tpFailed then rejectNotArmed s k else doneAt s k.dstStack t k
  refine ⟨v, hv, (congrArg Host.Outcome.next hx).trans ?_⟩
  simp only [hv.match, hm, hv.phase]
  rw [if_neg (by rw [hph]; decide)]

theorem confirm_hands (hk : (turnPktOf fr).kind = tkConfirm) {t : Nat}
    (hm : turnMatch s (turnPktOf fr) false = some t) (hc : copying s (turnPktOf fr).dstStack t = true) :
    ∃ u, exec (.confirm port fr) s = .next (settle u) ∧ turnPhase u (turnPktOf fr).dstStack t = tpHanded
      ∧ touchesOnly [.links] 0x1000_0000 [] s u := by
  obtain ⟨v, hv, hx⟩ := turnPacket_served hp ht hsrc hup hk fun s k =>
    match turnMatch s k false with
    | none => s
    | some t => if copying s k.dstStack t then setPhase s k.dstStack t tpHanded else s
  refine ⟨setPhase v (turnPktOf fr).dstStack t tpHanded, (congrArg Host.Outcome.next hx).trans ?_,
    setPhase_phase v _ t (by decide), hv.low.wrf (.inr (aTurn_above _ t 0))⟩
  simp only [hv.match, hm, hv.copying]
  rw [if_pos hc]

theorem reject_mismatch (ecc : Ecc) (hk : (turnPktOf fr).kind = tkReject) {t : Nat}
    (hm : turnMatch s (turnPktOf fr) false = some t) (hc : copying s (turnPktOf fr).dstStack t = true)
    (hr : (turnPktOf fr).reason = trMismatch) :
    ∃ u, exec (.reject port fr ecc) s = .next (settle u) ∧ turnPhase u (turnPktOf fr).dstStack t = tpFailed
      ∧ rdf u (aTurn (turnPktOf fr).dstStack t 2) 15 8 = trMismatch ∧ touchesOnly [.links] 0x1000_0000 [] s u := by
  obtain ⟨v, hv, hx⟩ := turnPacket_served hp ht hsrc hup hk fun s k =>
    match turnMatch s k false with
    | none => s
    | some t => rejectAt s k.dstStack t k ecc
  obtain ⟨h1, h2⟩ := failTurn_shows v (turnPktOf fr).dstStack t (r := trMismatch) (by decide)
  have hat : rejectAt v (turnPktOf fr).dstStack t (turnPktOf fr) ecc
      = failTurn v (turnPktOf fr).dstStack t trMismatch := by
    unfold rejectAt
    rw [if_neg (by rw [hv.copying, hc]; simp), if_pos hr]
  refine ⟨_, (congrArg Host.Outcome.next hx).trans ?_, h1, h2, failTurn_frame _ t _ hv.low⟩
  simp only [hv.match, hm]
  rw [hat]

theorem peerAbort_fails (hk : (turnPktOf fr).kind = tkAbort) {t : Nat}
    (hm : turnMatch s (turnPktOf fr) false = some t
      ∨ turnMatch s (turnPktOf fr) false = none ∧ turnMatch s (turnPktOf fr) true = some t) :
    ∃ u, exec (.peerAbort port fr) s = .next (settle u) ∧ turnPhase u (turnPktOf fr).dstStack t = tpFailed
      ∧ rdf u (aTurn (turnPktOf fr).dstStack t 2) 15 8 = trPeerAbort ∧ touchesOnly [.links] 0x1000_0000 [] s u := by
  obtain ⟨v, hv, hx⟩ := turnPacket_served hp ht hsrc hup hk fun s k =>
    match turnMatch s k false with
    | some t => failTurn s k.dstStack t trPeerAbort
    | none =>
      match turnMatch s k true with
      | some t => failTurn s k.dstStack t trPeerAbort
      | none => s
  obtain ⟨h1, h2⟩ := failTurn_shows v (turnPktOf fr).dstStack t (r := trPeerAbort) (by decide)
  refine ⟨_, (congrArg Host.Outcome.next hx).trans ?_, h1, h2, failTurn_frame _ t _ hv.low⟩
  rcases hm with hm | ⟨hn, hm⟩
  · simp only [hv.match, hm]
  · simp only [hv.match, hn, hm]

/-- A CONFIRM or a REJECT that no source slot waits for only returns its credits. -/
theorem answer_unmatched (hm : turnMatch s (turnPktOf fr) false = none) {c : Instr}
    (hc : c = .confirm port fr ∧ (turnPktOf fr).kind = tkConfirm
      ∨ (∃ ecc, c = .reject port fr ecc ∧ (turnPktOf fr).kind = tkReject)) :
    ∃ u, exec c s = .next (settle u) ∧ touchesOnly [.links] 0x1000_0000 [aCredit port fr.hdr.furrow] s u := by
  rcases hc with ⟨rfl, hk⟩ | ⟨ecc, rfl, hk⟩
  · obtain ⟨v, hv, hx⟩ := turnPacket_served hp ht hsrc hup hk fun s k =>
      match turnMatch s k false with
      | none => s
      | some t => if copying s k.dstStack t then setPhase s k.dstStack t tpHanded else s
    refine ⟨v, (congrArg Host.Outcome.next hx).trans ?_, hv.frame⟩
    simp only [hv.match, hm]
  · obtain ⟨v, hv, hx⟩ := turnPacket_served hp ht hsrc hup hk fun s k =>
      match turnMatch s k false with
      | none => s
      | some t => rejectAt s k.dstStack t k ecc
    refine ⟨v, (congrArg Host.Outcome.next hx).trans ?_, hv.frame⟩
    simp only [hv.match, hm]

theorem page_inOrder (hk : (turnPktOf fr).kind = tkPage) {t : Nat} (hm : turnMatch s (turnPktOf fr) true = some t)
    (hph : turnPhase s (turnPktOf fr).dstStack t = tpArmed ∨ turnPhase s (turnPktOf fr).dstStack t = tpMoving)
    (hpage : (turnPktOf fr).page = (turnWork s (turnPktOf fr).dstStack t).nextPage)
    (hcrc : crc32c (turnPktOf fr).body = (turnPktOf fr).check)
    (hlt : (turnPktOf fr).page < pageTotal (fbAt s (turnPktOf fr).dstStack (turnEntry s (turnPktOf fr).dstStack t))) :
    ∃ u, exec (.page port fr) s = .next (settle u)
      ∧ u.stk.hbm = writeBytes 0x00 s.stk.hbm (hbmKey (turnPktOf fr).dstStack
        (pageAddr (fbAt s (turnPktOf fr).dstStack (turnEntry s (turnPktOf fr).dstStack t)) copyArrays
          (turnPktOf fr).page)) (turnPktOf fr).body
      ∧ turnWork u (turnPktOf fr).dstStack t = { turnWork s (turnPktOf fr).dstStack t with
          nextPage := (turnPktOf fr).page + 1,
          checks := (turnWork s (turnPktOf fr).dstStack t).checks ++ [(turnPktOf fr).check], rejected := false }
      ∧ turnPhase u (turnPktOf fr).dstStack t = tpMoving ∧ turnTotal u (turnPktOf fr).dstStack t = (turnPktOf fr).total
      ∧ turnDone u (turnPktOf fr).dstStack t = ((turnPktOf fr).page + 1) % 2 ^ 24
      ∧ touchesOnly [.links, .stack, .stackMemory] 0x1000_0000 [] s u := by
  obtain ⟨v, hv, hx⟩ := page_served hp ht hsrc hup hk hm hph
  have htotal : (turnPktOf fr).total < 2 ^ 24 := bitsOf_lt _ 39 16
  obtain ⟨hstk, h1, h2, h3, h4⟩ := pageAt_shows hv.low (n := (turnPktOf fr).dstStack) (t := t) (k := turnPktOf fr)
    (by rw [hv.phase]; exact hph) (by rw [hv.work]; exact hpage) hcrc (by rw [hv.fb]; exact hlt) htotal
  refine ⟨_, hx, ?_, ?_, h1, h2, h3, h4⟩
  · rw [hstk, pageStored_hbm, hv.stk, hv.fb]
  · rw [turnWork_congr (congrArg Stacks.turns hstk), pageStored_work, hv.work]

theorem page_repeated (hk : (turnPktOf fr).kind = tkPage) {t : Nat} (hm : turnMatch s (turnPktOf fr) true = some t)
    (hph : turnPhase s (turnPktOf fr).dstStack t = tpArmed ∨ turnPhase s (turnPktOf fr).dstStack t = tpMoving)
    (hlt : (turnPktOf fr).page < (turnWork s (turnPktOf fr).dstStack t).nextPage) :
    ∃ u, exec (.page port fr) s = .next (settle u)
      ∧ touchesOnly [.links] 0x1000_0000 [aCredit port fr.hdr.furrow] s u := by
  obtain ⟨v, hv, hx⟩ := page_served hp ht hsrc hup hk hm hph
  refine ⟨v, hx.trans ?_, hv.frame⟩
  unfold pageAt
  dsimp only
  rw [if_neg (by rw [hv.phase]; tauto), if_pos (by rw [hv.work]; exact hlt)]

theorem done_verifies (hk : (turnPktOf fr).kind = tkDone) {t : Nat} (hm : turnMatch s (turnPktOf fr) true = some t)
    (hph : turnPhase s (turnPktOf fr).dstStack t = tpMoving)
    (hall : turnTotal s (turnPktOf fr).dstStack t ≤ turnDone s (turnPktOf fr).dstStack t)
    (hsame : sameShard (fbOf (wordsOfLe 8 (turnPktOf fr).body))
      (fbAt s (turnPktOf fr).dstStack (turnEntry s (turnPktOf fr).dstStack t)) = true)
    (hb : bitsOf (wordAt (wordsOfLe 8 (turnPktOf fr).body) 1) 31 16
      = turnBoundary s (turnPktOf fr).dstStack t % 2 ^ 16) :
    ∃ u, exec (.done port fr) s = .next (settle u) ∧ turnPhase u (turnPktOf fr).dstStack t = tpVerifying
      ∧ turnWork u (turnPktOf fr).dstStack t = { turnWork s (turnPktOf fr).dstStack t with
          doneWords := wordsOfLe 8 (turnPktOf fr).body, doneCheck := (turnPktOf fr).check }
      ∧ touchesOnly [.links, .stack] 0x1000_0000 [] s u := by
  obtain ⟨v, hv, hx⟩ := done_served hp ht hsrc hup hk hm hph
  have hslot := hv.slot (turnPktOf fr).dstStack t
  rw [doneAt_verifies (by rw [hv.phase]; exact hph)
    (by rw [turnTotal, turnDone, rdf_congr (hslot 2), rdf_congr (hslot 2)]; exact hall) (by rw [hv.fb]; exact hsame)
    (by rw [turnBoundary, rdf_congr (hslot 1)]; exact hb)] at hx
  refine ⟨_, hx, setPhase_phase _ _ t (by decide), ?_, ?_⟩
  · rw [setPhase, wrf, turnWork_congr (congrArg Stacks.turns (wr_stk _ _ _)), turnWork_set_same, hv.work]
  · exact (touchesOnly.setTurnWork _ t _ ((hv.low.mono (by simp) le_rfl (by simp)).wrf
      (.inr (aTurn_above _ t 3)))).wrf (.inr (aTurn_above _ t 0))

end

/-- A packet for a stack out of service is counted there (R248). -/
theorem turnPacket_counted (hup : clusterUp s (turnPktOf fr).dstStack = false) (hn : (turnPktOf fr).dstStack < 12)
    {kind : Nat} (hk : (turnPktOf fr).kind = kind) (f : State → TurnPkt → State) :
    (rd (turnPacket s port fr kind f) (aCnt 8 (turnPktOf fr).dstStack 4)).toNat
        = ((rd s (aCnt 8 (turnPktOf fr).dstStack 4)).toNat + 1) % 2 ^ 64
      ∧ touchesOnly [.links] 0x1000_0000 [aCredit port fr.hdr.furrow] s (turnPacket s port fr kind f) := by
  obtain ⟨v, hv, hx⟩ := turnPacket_fromPort hp ht hk hsrc (f := f)
  rw [hx, if_neg (by rw [hup]; decide), if_pos hn]
  have hge : 0x2000_0000 ≤ aCnt 8 (turnPktOf fr).dstStack 4 := by
    unfold aCnt
    omega
  refine ⟨?_, hv.frame.count (by omega)⟩
  rw [rd_count_same, hv.high _ hge]
  rfl

end

/-- Settles O39: a packet's credits return first, and what then happens at its slot reads the slot as it was. -/
theorem turnoverPackets : Obligations.TurnoverPackets := by
  intro s port fr hp ht
  dsimp only
  intro hsrc
  refine ⟨fun hup => ⟨fun t hk hm hph hpage hcrc hlt => ?_, fun t hk hm hph hlt => page_repeated hp ht hsrc hup hk hm hph hlt,
    fun t hk hm hph hall hsame hb => done_verifies hp ht hsrc hup hk hm hph hall hsame hb,
    fun t hk hm hc => confirm_hands hp ht hsrc hup hk hm hc,
    fun t ecc hk hm hc hr => reject_mismatch hp ht hsrc hup ecc hk hm hc hr,
    fun t hk hm => peerAbort_fails hp ht hsrc hup hk hm,
    fun c hm hc => answer_unmatched hp ht hsrc hup hm hc⟩, fun hup hn row hrow hk => ?_⟩
  · obtain ⟨u, hx, hbytes, hwork, h1, h2, h3, h4⟩ := page_inOrder hp ht hsrc hup hk hm hph hpage hcrc hlt
    refine ⟨u, hx, fun i hi => ?_, fun a ha => ?_, hwork, h1, h2, h3, h4⟩
    · rw [hbytes]
      exact readByte_writeBytes_at _ _ _ _ _ hi
    · rw [hbytes]
      exact readByte_writeBytes_other _ _ _ _ _ ha
  · simp only [List.mem_cons, List.not_mem_nil, or_false] at hrow
    rcases hrow with rfl | rfl | rfl | rfl
    · exact ⟨_, rfl, turnPacket_counted hp ht hsrc hup hn hk _⟩
    · exact ⟨_, rfl, turnPacket_counted hp ht hsrc hup hn hk _⟩
    · exact ⟨_, rfl, turnPacket_counted hp ht hsrc hup hn hk _⟩
    · exact ⟨_, rfl, turnPacket_counted hp ht hsrc hup hn hk _⟩

end Sys2Proof.Machine
end

section
/-! PROOFS. Turnover verification and timers (R250, R251). -/

namespace Sys2Proof.Machine

open Sys2Proof

/-! ## A packet sent -/

/-- Sending a packet leaves the stacks and their registers. -/
structure StacksKept (s u : State) : Prop where
  reg : ∀ a, 0x8000_0000 ≤ a → a < 0xA300_0000 → rd u a = rd s a
  stk : u.stk = s.stk

theorem sendTurn_stacksKept (s : State) (x : TurnEnds) (kind reason page total check : Nat) (body : List Byte) :
    StacksKept s (sendTurn s x kind reason page total check body) :=
  ⟨fun a h1 h2 => sendRouted_aboveBuffers _ _ _ _ _ a (le_trans (by decide) h1) h2,
    (sendTurn_keeps (m := 135266821) rfl (.refl _ s)).stacks rfl rfl⟩

theorem aTurn_ge (n t w : Nat) : 0x8000_0000 ≤ aTurn n t w := by
  unfold aTurn aFbk aStack
  omega

theorem aTurn_low {n t w : Nat} (hn : n < 12) (ht : t < 64) (hw : w < 4) : aTurn n t w < 0xA300_0000 :=
  Nat.lt_of_lt_of_le (aTurn_lt hn ht hw) (by decide)

theorem StacksKept.slot {s u : State} (h : StacksKept s u) {n t w : Nat} (hn : n < 12) (ht : t < 64) (hw : w < 4) :
    rd u (aTurn n t w) = rd s (aTurn n t w) := h.reg _ (aTurn_ge n t w) (aTurn_low hn ht hw)

theorem StacksKept.entry {s u : State} (h : StacksKept s u) {n e w : Nat} (hn : n < 12) (he : e < 32768) (hw : w < 8) :
    rd u (aEntry n e w) = rd s (aEntry n e w) := by
  refine h.reg _ ?_ (Nat.lt_of_lt_of_le (aEntry_lt hn he hw) (by decide))
  unfold aEntry aFbk aStack
  omega

theorem StacksKept.work {s u : State} (h : StacksKept s u) (n t : Nat) : turnWork u n t = turnWork s n t :=
  turnWork_congr (congrArg Stacks.turns h.stk) n t

/-- A REJECT notes its reason in the slot and leaves the rest of it. -/
theorem turnReject_shows (s : State) {n t reason : Nat} (page : Nat) (hn : n < 12) (ht : t < 64) (hr : reason < 256) :
    StacksKept (setReason s n t reason) (turnReject s n t reason page)
    ∧ rd (turnReject s n t reason page) (aTurn n t 0) = rd s (aTurn n t 0)
    ∧ turnDone (turnReject s n t reason page) n t = turnDone s n t
    ∧ rdf (turnReject s n t reason page) (aTurn n t 2) 15 8 = reason
    ∧ turnWork (turnReject s n t reason page) n t = turnWork s n t := by
  have h : StacksKept (setReason s n t reason) (turnReject s n t reason page) := sendTurn_stacksKept _ _ _ _ _ _ _ _
  exact ⟨h, (h.slot hn ht (by decide)).trans (rd_wrf_other (aTurn_inj (by decide))),
    (rdf_congr (h.slot hn ht (by decide))).trans (rdf_wrf_field _ _ _ (.inr (by decide))),
    (rdf_congr (h.slot hn ht (by decide))).trans ((rdf_wrf_same _ _ _ (by decide)).trans (Nat.mod_eq_of_lt hr)),
    (h.work n t).trans (turnWork_congr (congrArg Stacks.turns (wr_stk _ _ _)) n t)⟩

/-! ## An attempt -/

theorem aTurnCfg_ne (n t w : Nat) : aTurnCfg n ≠ aTurn n t w := by
  unfold aTurnCfg aTurn aFbk aStack
  omega

/-- ATTEMPTS and REASON of an attempt, before the slot may fail. -/
def attemptNoted (s : State) (n t reason : Nat) : State :=
  setReason (wrf s (aTurn n t 0) 7 4 (Nat.min 15 (rdf s (aTurn n t 0) 7 4 + 1))) n t reason

theorem attemptNoted_shows (s : State) (n t : Nat) {reason : Nat} (hr : reason < 256) :
    rdf (attemptNoted s n t reason) (aTurn n t 0) 7 4 = Nat.min 15 (rdf s (aTurn n t 0) 7 4 + 1)
    ∧ turnPhase (attemptNoted s n t reason) n t = turnPhase s n t
    ∧ rdf (attemptNoted s n t reason) (aTurn n t 2) 15 8 = reason := by
  have h0 : rd (attemptNoted s n t reason) (aTurn n t 0)
      = rd (wrf s (aTurn n t 0) 7 4 (Nat.min 15 (rdf s (aTurn n t 0) 7 4 + 1))) (aTurn n t 0) :=
    rd_wrf_other (aTurn_inj (by decide))
  refine ⟨(rdf_congr h0).trans ((rdf_wrf_same _ _ _ (by decide)).trans (Nat.mod_eq_of_lt ?_)),
    (rdf_congr h0).trans (rdf_wrf_field _ _ _ (.inr (by decide))),
    (rdf_wrf_same _ _ _ (by decide)).trans (Nat.mod_eq_of_lt hr)⟩
  exact Nat.lt_of_le_of_lt (Nat.min_le_left 15 _) (by decide)

theorem turnAttempt_eq (s : State) (n t reason : Nat) : turnAttempt s n t reason =
    if rdf s (aTurnCfg n) 23 20 < rdf s (aTurn n t 0) 7 4 + 1 then
      event (setPhase (attemptNoted s n t reason) n t tpFailed) 0x0B0B srcStack n {}
    else attemptNoted s n t reason := by
  have hc : rdf (attemptNoted s n t reason) (aTurnCfg n) 23 20 = rdf s (aTurnCfg n) 23 20 :=
    rdf_congr ((rd_wrf_other (aTurnCfg_ne n t 2)).trans (rd_wrf_other (aTurnCfg_ne n t 0)))
  rw [← hc]
  rfl

/-- An attempt: counted with its reason, and past RETRIES the slot is FAILED. -/
theorem turnAttempt_shows (s : State) {n t reason : Nat} (hn : n < 12) (ht : t < 64) (hr : reason < 256) :
    rdf (turnAttempt s n t reason) (aTurn n t 0) 7 4 = Nat.min 15 (rdf s (aTurn n t 0) 7 4 + 1)
    ∧ rdf (turnAttempt s n t reason) (aTurn n t 2) 15 8 = reason
    ∧ turnPhase (turnAttempt s n t reason) n t
        = (if rdf s (aTurnCfg n) 23 20 < rdf s (aTurn n t 0) 7 4 + 1 then tpFailed else turnPhase s n t)
    ∧ touchesOnly [] 0xA300_0000 [aTurn n t 0, aTurn n t 2] s (turnAttempt s n t reason) := by
  obtain ⟨h1, h2, h3⟩ := attemptNoted_shows s n t hr
  have hf : touchesOnly [] (blockBase 11) [aTurn n t 0, aTurn n t 2] s (attemptNoted s n t reason) :=
    ((touchesOnly.refl [] (blockBase 11) _ s).wrf (.inl (by simp))).wrf (.inl (by simp))
  rw [turnAttempt_eq]
  split
  · have hev : ∀ w < 4, rd (event (setPhase (attemptNoted s n t reason) n t tpFailed) 0x0B0B srcStack n {}) (aTurn n t w)
        = rd (setPhase (attemptNoted s n t reason) n t tpFailed) (aTurn n t w) :=
      fun w hw => rd_event_other (.inl (aTurn_low hn ht hw))
    exact ⟨(rdf_congr (hev 0 (by decide))).trans ((rdf_wrf_field _ _ _ (.inl (by decide))).trans h1),
      (rdf_congr (hev 2 (by decide))).trans ((rdf_congr (rd_wrf_other (aTurn_inj (by decide)))).trans h3),
      (rdf_congr (hev 0 (by decide))).trans (rdf_wrf_same _ _ _ (by decide)),
      touchesOnly.keeps (m := 134217728) (k := 11) (hf.wrf (.inl (by simp))) (event_keeps rfl (.refl _ _)) rfl rfl⟩
  · exact ⟨h1, h3, h2, hf⟩

/-! ## Verification at a destination -/

/-- A list that does not fit takes the slot back to a page. -/
theorem turnBack_shows (s : State) {n t : Nat} (page : Nat) (hn : n < 12) (ht : t < 64) :
    turnPhase (turnBack s n t page) n t = tpMoving ∧ turnDone (turnBack s n t page) n t = page % 2 ^ 24
    ∧ turnWork (turnBack s n t page) n t
        = { turnWork s n t with nextPage := page, checks := (turnWork s n t).checks.take page, rejected := true }
    ∧ rdf (turnBack s n t page) (aTurn n t 2) 15 8 = trListCrc := by
  have hb : ∃ v, turnBack s n t page = turnReject (wrf (setPhase v n t tpMoving) (aTurn n t 2) 39 16 page) n t trListCrc page
      ∧ turnWork v n t
        = { turnWork s n t with nextPage := page, checks := (turnWork s n t).checks.take page, rejected := true } :=
    ⟨_, rfl, turnWork_set_same s n t _⟩
  obtain ⟨v, hb, hw⟩ := hb
  obtain ⟨-, h0, h1, h2, h3⟩ := turnReject_shows (wrf (setPhase v n t tpMoving) (aTurn n t 2) 39 16 page) page hn ht
    (show trListCrc < 256 by decide)
  rw [hb]
  refine ⟨(rdf_congr h0).trans ((rdf_congr (rd_wrf_other (aTurn_inj (by decide)))).trans (setPhase_phase v n t (by decide))),
    h1.trans (rdf_wrf_same _ _ _ (by decide)), ?_, h2⟩
  exact h3.trans ((turnWork_congr (congrArg Stacks.turns ((wr_stk _ _ _).trans (wr_stk _ _ _))) n t).trans hw)

/-- The scale words of an entry that takes over, as the DONE gives them (R250). -/
def scalesTaken (s : State) (n e : Nat) (ws : Entry) : State :=
  wrf (wrf (wr s (aEntry n e 4) (wordAt ws 4)) (aEntry n e 1) 15 8 (fbOf ws).scale1) (aEntry n e 1) 7 0 (fbOf ws).scale0

/-- Its statistics cleared and its step the boundary. -/
def entryStepped (s : State) (n e b : Nat) (ws : Entry) : State := setBinStep (clearStats (scalesTaken s n e ws) n e) n e b

/-- The entry that takes over. -/
def entryTaken (s : State) (n e b : Nat) (ws : Entry) : State :=
  setFbState (wrf (wrf (wrf (entryStepped s n e b ws) (aEntry n e 5) 63 63 (b2n (fbOf ws).olderHeld))
    (aEntry n e 5) 47 32 (bitsOf (wordAt ws 5) 47 32)) (aEntry n e 7) 31 0 (bitsOf (wordAt ws 7) 31 0)) n e esActive

theorem rd_setBinStep (s : State) (n e v a : Nat) (h : a ≠ aEntry n e 1) : rd (setBinStep s n e v) a = rd s a :=
  rd_wrf_other h

theorem binStep_congr {s v : State} (h : v.stk = s.stk) (n e : Nat) : binStep v n e = binStep s n e := by
  rw [binStep, h, binStep]

theorem binStep_setBinStep (s : State) (n e : Nat) {v : Nat} (h : v < 2 ^ 32) : binStep (setBinStep s n e v) n e = v := by
  rw [binStep, setBinStep, wrf, wr_stk]
  exact (tget_tset_same 0 s.stk.binStep (feKey n e) _).trans (Nat.mod_eq_of_lt h)

theorem entryStepped_shows (s : State) (n e : Nat) {b : Nat} (ws : Entry) (hb : b < 2 ^ 32) :
    rd (entryStepped s n e b ws) (aEntry n e 4) = wordAt ws 4 ∧ rd (entryStepped s n e b ws) (aEntry n e 6) = 0
    ∧ binStep (entryStepped s n e b ws) n e = b := by
  refine ⟨?_, ?_, binStep_setBinStep _ n e hb⟩
  · refine (rd_setBinStep _ n e b _ (aEntry_inj (by decide))).trans ((rd_wrf_other (aEntry_inj (by decide))).trans
      ((rd_wr_other (aEntry_inj (by decide))).trans ((rd_wr_other (aEntry_inj (by decide))).trans ?_)))
    exact (rd_wrf_other (aEntry_inj (by decide))).trans ((rd_wrf_other (aEntry_inj (by decide))).trans (rd_wr_same _ _ _))
  · exact (rd_setBinStep _ n e b _ (aEntry_inj (by decide))).trans ((rd_wrf_other (aEntry_inj (by decide))).trans
      ((rd_wr_other (aEntry_inj (by decide))).trans (rd_wr_same _ _ _)))

theorem rd_entryTaken {s : State} {n e b x : Nat} {ws : Entry} (h0 : x ≠ 0) (h5 : x ≠ 5) (h7 : x ≠ 7) :
    rd (entryTaken s n e b ws) (aEntry n e x) = rd (entryStepped s n e b ws) (aEntry n e x) :=
  (rd_wrf_other (aEntry_inj h0)).trans ((rd_wrf_other (aEntry_inj h7)).trans ((rd_wrf_other (aEntry_inj h5)).trans
    (rd_wrf_other (aEntry_inj h5))))

theorem entryTaken_shows (s : State) (n e : Nat) {b : Nat} (ws : Entry) (hb : b < 2 ^ 32) :
    fbState (entryTaken s n e b ws) n e = esActive ∧ rd (entryTaken s n e b ws) (aEntry n e 4) = wordAt ws 4
    ∧ binStep (entryTaken s n e b ws) n e = b ∧ rd (entryTaken s n e b ws) (aEntry n e 6) = 0 := by
  obtain ⟨h4, h6, hstep⟩ := entryStepped_shows s n e ws hb
  have hstk : (entryTaken s n e b ws).stk = (entryStepped s n e b ws).stk :=
    (wr_stk _ _ _).trans ((wr_stk _ _ _).trans ((wr_stk _ _ _).trans (wr_stk _ _ _)))
  exact ⟨rdf_wrf_same _ _ _ (by decide), (rd_entryTaken (by decide) (by decide) (by decide)).trans h4,
    (binStep_congr hstk n e).trans hstep, (rd_entryTaken (by decide) (by decide) (by decide)).trans h6⟩

/-- The slot hands over: its entry takes over, a CONFIRM leaves, the phase is HANDED. -/
def slotTaken (s : State) (n t : Nat) : State :=
  let v := entryTaken s n (turnEntry s n t) (turnBoundary s n t) (turnWork s n t).doneWords
  setPhase (sendTurn v (endsOf v n t) tkConfirm 0 0 (turnTotal v n t) 0 []) n t tpHanded

theorem turnTake_eq (s : State) {n t : Nat} (ht : t < 64) :
    turnTake s n t = retryJudgements (slotTaken s n t) n := by
  have hb : turnBoundary (scalesTaken s n (turnEntry s n t) (turnWork s n t).doneWords) n t = turnBoundary s n t :=
    rdf_congr ((rd_wrf_other (aTurn_ne_entry ht (by decide))).trans ((rd_wrf_other (aTurn_ne_entry ht (by decide))).trans
      (rd_wr_other (aTurn_ne_entry ht (by decide)))))
  unfold slotTaken
  rw [← hb]
  rfl

theorem slotTaken_shows (s : State) {n t : Nat} (hn : n < 12) (ht : t < 64) :
    turnPhase (slotTaken s n t) n t = tpHanded ∧ fbState (slotTaken s n t) n (turnEntry s n t) = esActive
    ∧ rd (slotTaken s n t) (aEntry n (turnEntry s n t) 4) = wordAt (turnWork s n t).doneWords 4
    ∧ binStep (slotTaken s n t) n (turnEntry s n t) = turnBoundary s n t
    ∧ rd (slotTaken s n t) (aEntry n (turnEntry s n t) 6) = 0 := by
  have he : turnEntry s n t < 32768 := rdf_lt s _ 55 41
  obtain ⟨h0, h4, hstep, h6⟩ := entryTaken_shows s n (turnEntry s n t) (turnWork s n t).doneWords
    (show turnBoundary s n t < 2 ^ 32 from rdf_lt s _ 63 32)
  have hv : ∃ v, StacksKept (entryTaken s n (turnEntry s n t) (turnBoundary s n t) (turnWork s n t).doneWords) v
      ∧ slotTaken s n t = setPhase v n t tpHanded := ⟨_, sendTurn_stacksKept _ _ _ _ _ _ _ _, rfl⟩
  obtain ⟨v, hv, hs⟩ := hv
  have hent : ∀ w, w < 8 → rd (setPhase v n t tpHanded) (aEntry n (turnEntry s n t) w)
      = rd (entryTaken s n (turnEntry s n t) (turnBoundary s n t) (turnWork s n t).doneWords) (aEntry n (turnEntry s n t) w) :=
    fun w hw => (rd_wrf_other (aTurn_ne_entry ht (by decide)).symm).trans (hv.entry hn he hw)
  rw [hs]
  exact ⟨setPhase_phase v n t (by decide), (rdf_congr (hent 0 (by decide))).trans h0, (hent 4 (by decide)).trans h4,
    (binStep_congr ((wr_stk _ _ _).trans hv.stk) n _).trans hstep, (hent 6 (by decide)).trans h6⟩

/-! ## The rows -/

section
variable {s : State} {n t : Nat} (hn : n < 12) (ht : t < 64)

theorem verifyingEnd_idle (h : turnDest s n t = false ∨ turnPhase s n t ≠ tpVerifying) :
    exec (.verifyingEnd n t) s = .next s :=
  if_pos (by rcases h with h | h <;> simp [h])

/-- The first page of a destination's copy that does not fit its check. -/
theorem verifyingEnd_cases (hd : turnDest s n t = true) (hph : turnPhase s n t = tpVerifying) :
    exec (.verifyingEnd n t) s =
      match (List.range (turnWork s n t).checks.length).find? fun i =>
        crc32c (pageOf s n (fbAt s n (turnEntry s n t)) i) != (turnWork s n t).checks.getD i 0 with
      | some i => .next (turnBack s n t i)
      | none => if listCrc (turnWork s n t).checks ≠ (turnWork s n t).doneCheck then .next (turnBack s n t 0)
        else .next (settle (turnTake s n t)) :=
  (if_neg (by simp [hd, hph])).trans rfl

theorem turnoverTimeout_idle (h : turnDest s n t = false ∨ turnPhase s n t ≠ tpMoving) :
    exec (.turnoverTimeout n t) s = .next s :=
  if_pos (by rcases h with h | h <;> simp [h])

theorem doneTimeout_idle (h : turnDest s n t = true ∨ turnPhase s n t ≠ tpVerifying) :
    exec (.doneTimeout n t) s = .next s :=
  if_pos (by rcases h with h | h <;> simp [h])

theorem notArmedResend_idle
    (h : turnDest s n t = true ∨ turnPhase s n t ≠ tpMoving ∨ rdf s (aTurn n t 2) 15 8 ≠ trNotArmed) :
    exec (.notArmedResend n t) s = .next s :=
  if_pos (by rcases h with h | h | h <;> simp [h])

theorem notArmedResend_sends (hd : turnDest s n t = false) (hph : turnPhase s n t = tpMoving)
    (hr : rdf s (aTurn n t 2) 15 8 = trNotArmed) : exec (.notArmedResend n t) s = .next (sendPages s n t 0) :=
  if_neg (by simp [hd, hph, hr])

include hn ht

theorem verifyingEnd_takes (hd : turnDest s n t = true) (hph : turnPhase s n t = tpVerifying)
    (hall : ∀ i, i < (turnWork s n t).checks.length →
      crc32c (pageOf s n (fbAt s n (turnEntry s n t)) i) = (turnWork s n t).checks.getD i 0)
    (hlist : listCrc (turnWork s n t).checks = (turnWork s n t).doneCheck) :
    ∃ u, exec (.verifyingEnd n t) s = .next (settle (retryJudgements u n)) ∧ turnPhase u n t = tpHanded
      ∧ fbState u n (turnEntry s n t) = esActive
      ∧ rd u (aEntry n (turnEntry s n t) 4) = wordAt (turnWork s n t).doneWords 4
      ∧ binStep u n (turnEntry s n t) = turnBoundary s n t ∧ rd u (aEntry n (turnEntry s n t) 6) = 0 := by
  have hnone : ((List.range (turnWork s n t).checks.length).find? fun i =>
      crc32c (pageOf s n (fbAt s n (turnEntry s n t)) i) != (turnWork s n t).checks.getD i 0) = none :=
    List.find?_eq_none.mpr fun i hi => by simp [hall i (List.mem_range.mp hi)]
  refine ⟨slotTaken s n t, ?_, slotTaken_shows s hn ht⟩
  rw [verifyingEnd_cases hd hph, hnone, ← turnTake_eq s ht]
  exact if_neg (not_not.mpr hlist)

theorem turnoverTimeout_tries (hd : turnDest s n t = true) (hph : turnPhase s n t = tpMoving) :
    ∃ u, exec (.turnoverTimeout n t) s = .next u
      ∧ rdf u (aTurn n t 0) 7 4 = Nat.min 15 (rdf s (aTurn n t 0) 7 4 + 1) ∧ rdf u (aTurn n t 2) 15 8 = trTimeout
      ∧ turnPhase u n t
        = (if rdf s (aTurnCfg n) 23 20 < rdf s (aTurn n t 0) 7 4 + 1 then tpFailed else tpMoving) := by
  have hv : ∃ v, exec (.turnoverTimeout n t) s
        = .next (turnAttempt (turnReject v n t trTimeout (turnWork s n t).nextPage) n t trTimeout)
      ∧ ∀ a, rd v a = rd s a :=
    ⟨_, if_neg (by simp [hd, hph]), fun a => rd_setTurnWork s n t _ a⟩
  obtain ⟨v, hx, hv⟩ := hv
  obtain ⟨hkept, hzero, -, -, -⟩ := turnReject_shows v (turnWork s n t).nextPage hn ht (show trTimeout < 256 by decide)
  obtain ⟨h1, h2, h3, -⟩ := turnAttempt_shows (turnReject v n t trTimeout (turnWork s n t).nextPage) hn ht
    (show trTimeout < 256 by decide)
  have hcfg : rd (turnReject v n t trTimeout (turnWork s n t).nextPage) (aTurnCfg n) = rd s (aTurnCfg n) := by
    have hge : 0x8000_0000 ≤ aTurnCfg n ∧ aTurnCfg n < 0xA300_0000 := by
      unfold aTurnCfg aFbk aStack
      omega
    exact (hkept.reg _ hge.1 hge.2).trans ((rd_wrf_other (aTurnCfg_ne n t 2)).trans (hv _))
  have h0 := hzero.trans (hv _)
  refine ⟨_, hx, by rw [h1, rdf_congr h0], h2, ?_⟩
  rw [h3, rdf_congr hcfg, rdf_congr h0, turnPhase, rdf_congr h0]
  exact congrArg (ite _ tpFailed) hph

theorem doneTimeout_tries (hd : turnDest s n t = false) (hph : turnPhase s n t = tpVerifying) :
    ∃ u, rdf u (aTurn n t 0) 7 4 = Nat.min 15 (rdf s (aTurn n t 0) 7 4 + 1)
      ∧ turnPhase u n t
        = (if rdf s (aTurnCfg n) 23 20 < rdf s (aTurn n t 0) 7 4 + 1 then tpFailed else tpVerifying)
      ∧ touchesOnly [] 0xA300_0000 [aTurn n t 0, aTurn n t 2] s u
      ∧ exec (.doneTimeout n t) s
        = .next (if rdf s (aTurnCfg n) 23 20 < rdf s (aTurn n t 0) 7 4 + 1 then u else sendDone u n t) := by
  obtain ⟨h1, -, h3, h4⟩ := turnAttempt_shows s hn ht (reason := rdf s (aTurn n t 2) 15 8) (rdf_lt s _ 15 8)
  rw [hph] at h3
  refine ⟨_, h1, h3, h4, ?_⟩
  have hx : exec (.doneTimeout n t) s = .next
      (if turnPhase (turnAttempt s n t (rdf s (aTurn n t 2) 15 8)) n t = tpFailed
        then turnAttempt s n t (rdf s (aTurn n t 2) 15 8)
        else sendDone (turnAttempt s n t (rdf s (aTurn n t 2) 15 8)) n t) := if_neg (by simp [hd, hph])
  rw [hx, h3]
  split
  · rfl
  · rfl

end

/-- Settles O40: an attempt counts and may fail the slot; a verification takes the entry over or goes back to a page. -/
theorem turnoverTimers : Obligations.TurnoverTimers := by
  intro s n t hn ht
  refine ⟨verifyingEnd_idle, fun i hd hph hbad => ?_, verifyingEnd_takes hn ht, turnoverTimeout_idle,
    turnoverTimeout_tries hn ht, doneTimeout_idle, doneTimeout_tries hn ht, notArmedResend_idle, notArmedResend_sends⟩
  refine ⟨turnBack s n t i, ?_, turnBack_shows s i hn ht⟩
  rw [verifyingEnd_cases hd hph, hbad]

end Sys2Proof.Machine
end

section
/-! PROOFS. Straps and the steps of a start (R329, R330, R397, R398). -/

namespace Sys2Proof.Machine

open Sys2Proof

/-! ## A halt, and the end of a step -/

/-- A halt leaves the registers below the ports but GLB_BOOT and GLB_ALERT, and the flashes. -/
theorem rd_haltFree (s : State) (code : Nat) {a : Nat} (hlt : a < 0x1000_0000) (hb : a ≠ aBoot) (ha : a ≠ aAlert) :
    rd (haltFree s code) a = rd s a := by
  unfold haltFree halt
  refine (rd_stopTransmitters _ hlt).trans ((rd_wrf_other ha).trans ((rd_wrf_other hb).trans ((rd_wrf_other hb).trans ?_)))
  split
  · rfl
  · exact rd_journal _ _ _ _ _ _ a

theorem haltFree_flashes (s : State) (code : Nat) :
    (haltFree s code).flashA = s.flashA ∧ (haltFree s code).flashB = s.flashB :=
  have h := haltFree_keeps (m := 328706) (x2 := code) rfl (.refl _ s)
  ⟨h.flashA rfl, h.flashB rfl⟩

/-- What a step that fails shows. -/
theorem failStep_shows (s : State) {code : Nat} (h : code < 256) :
    isHalted (failStep s code) = true ∧ rdf (failStep s code) aBoot 47 40 = code
      ∧ rdb (failStep s code) aAlert 63 = true ∧ bootStep (failStep s code) = bootStep s := by
  obtain ⟨h1, h2, h3, h4⟩ := haltFree_shows (journal s jkStepEnd (bootStep s) code 0xFFFF 0) h
  exact ⟨h1, h2, h3, h4.trans (bootStep_journal ..)⟩

/-- What a halt shows. -/
theorem halt_shows (s : State) {code : Nat} (detail : Nat) (h : code < 256) :
    isHalted (halt s code detail) = true ∧ rdf (halt s code detail) aBoot 47 40 = code
      ∧ rdb (halt s code detail) aAlert 63 = true ∧ bootStep (halt s code detail) = bootStep s := by
  obtain ⟨hb, ha⟩ := halt_registers s code detail
  refine ⟨?_, ?_, ha, ?_⟩
  · rw [isHalted, rdf, hb, bitsOf_putBits_other _ _ (by decide), bitsOf_putBits_same _ _ (by decide)]
    rfl
  · rw [rdf, hb, bitsOf_putBits_same _ _ (by decide)]
    exact Nat.mod_eq_of_lt h
  · rw [bootStep, rdf, hb, bitsOf_putBits_other _ _ (by decide), bitsOf_putBits_other _ _ (by decide)]
    rfl

/-- The end of a step but the fourth: the next one runs, in the same start. -/
theorem endStep_shows (s : State) (detail : Nat) (h4 : bootStep s ≠ 4) (hlt : bootStep s < 15) :
    bootStep (endStep s detail) = bootStep s + 1 ∧ starting (endStep s detail) = starting s
      ∧ (endStep s detail).flashA = s.flashA ∧ (endStep s detail).flashB = s.flashB
      ∧ (endStep s detail).mg = s.mg ∧ (endStep s detail).el = s.el := by
  have hk : bootStep s + 1 = 5 →
      (journal s jkStepEnd (bootStep s) jrOk 0xFFFF detail).boot.failedStarts < startLimit := by omega
  have hkeep := endStep_keeps (m := 328706) (x2 := detail) rfl (.refl _ s)
  refine ⟨?_, ?_, hkeep.flashA rfl, hkeep.flashB rfl, hkeep.mg rfl, hkeep.el rfl⟩
  · rw [endStep]
    refine (congrArg bootStep (beginStep_of_within hk)).trans ?_
    rw [bootStep_journal, bootStep_setBootStep _ (by omega)]
  · exact ((journal_sameStart ..).trans (beginStep_sameStart hk)).starting_eq

/-! ## Straps -/

section
variable {s : State} (pins : BitVec 22)

/-- The pins as sampled. -/
def pinsSampled (s : State) (pins : BitVec 22) : State := { s with el := { s.el with strapPins := pins } }

theorem strapAccept_eq (hs : starting s = true) (h2 : bootStep s = 2) (hf : rdf s aStrap 41 40 = 0) :
    exec (.strapAccept pins) s =
      if !oddOnes pins then .next (haltFree (wr (pinsSampled s pins) aStrap (strapWord pins 2)) jrStrapParity)
      else if !strapLegal pins then
        .next (haltFree (wr (pinsSampled s pins) aStrap (strapWord pins 3)) jrStrapIllegal)
      else .next (wr (pinsSampled s pins) aStrap (strapWord pins 1)) :=
  if_neg (by simp [hs, h2, hf])

theorem pinsSampled_touches (s : State) (pins : BitVec 22) (b : Nat) :
    touchesOnly [.electrical] b [] s (pinsSampled s pins) :=
  (touchesOnly.refl [.electrical] b [] s).upd 8192 rfl (by decide)

theorem strapAccept_taken (hs : starting s = true) (h2 : bootStep s = 2) (hf : rdf s aStrap 41 40 = 0)
    (hodd : oddOnes pins = true) (hleg : strapLegal pins = true) :
    ∃ t, exec (.strapAccept pins) s = .next t ∧ rd t aStrap = strapWord pins 1
      ∧ t.el = { s.el with strapPins := pins } ∧ touchesOnly [.electrical] (2 ^ 64) [aStrap] s t := by
  refine ⟨_, (strapAccept_eq pins hs h2 hf).trans ?_, rd_wr_same (pinsSampled s pins) aStrap (strapWord pins 1), rfl,
    touchesOnly.wr ((pinsSampled_touches s pins _).mono (by simp) le_rfl (by simp)) (.inl (by simp))⟩
  rw [hodd, hleg]
  rfl

/-- What a refused strap value leaves. -/
theorem strapHalt_shows (s : State) (pins : BitVec 22) (status : Nat) {code : Nat} (hc : code < 256) :
    ∃ t, t = haltFree (wr (pinsSampled s pins) aStrap (strapWord pins status)) code
      ∧ rd t aStrap = strapWord pins status ∧ isHalted t = true ∧ rdf t aBoot 47 40 = code
      ∧ rdb t aAlert 63 = true ∧ t.flashA = s.flashA ∧ t.flashB = s.flashB := by
  obtain ⟨h1, h2, h3, -⟩ := haltFree_shows (wr (pinsSampled s pins) aStrap (strapWord pins status)) hc
  obtain ⟨hA, hB⟩ := haltFree_flashes (wr (pinsSampled s pins) aStrap (strapWord pins status)) code
  exact ⟨_, rfl, (rd_haltFree _ _ (by decide) (by decide) (by decide)).trans (rd_wr_same _ _ _), h1, h2, h3, hA, hB⟩

theorem strapAccept_refused (hs : starting s = true) (h2 : bootStep s = 2) (hf : rdf s aStrap 41 40 = 0) {status code : Nat}
    (h : oddOnes pins = false ∧ status = 2 ∧ code = 2
      ∨ oddOnes pins = true ∧ strapLegal pins = false ∧ status = 3 ∧ code = 3) :
    ∃ t, exec (.strapAccept pins) s = .next t ∧ rd t aStrap = strapWord pins status ∧ isHalted t = true
      ∧ rdf t aBoot 47 40 = code ∧ rdb t aAlert 63 = true ∧ t.flashA = s.flashA ∧ t.flashB = s.flashB := by
  have hx := strapAccept_eq pins hs h2 hf
  rcases h with ⟨hodd, rfl, rfl⟩ | ⟨hodd, hleg, rfl, rfl⟩
  · obtain ⟨t, ht, hrest⟩ := strapHalt_shows s pins 2 (show jrStrapParity < 256 by decide)
    exact ⟨t, (hx.trans (if_pos (by simp [hodd]))).trans (congrArg Host.Outcome.next ht.symm), hrest⟩
  · obtain ⟨t, ht, hrest⟩ := strapHalt_shows s pins 3 (show jrStrapIllegal < 256 by decide)
    exact ⟨t, (hx.trans ((if_neg (by simp [hodd])).trans (if_pos (by simp [hleg])))).trans
      (congrArg Host.Outcome.next ht.symm), hrest⟩

theorem strapAccept_idle (h : starting s = false ∨ bootStep s ≠ 2 ∨ rdf s aStrap 41 40 ≠ 0) :
    exec (.strapAccept pins) s = .next s :=
  if_pos (by rcases h with h | h | h <;> simp [h])

theorem strapChanged_marks (hr : inReset s = false) (hf : rdf s aStrap 41 40 ≠ 0) (hp : pins ≠ s.el.strapPins) :
    ∃ t, exec (.strapChanged pins) s = .next t ∧ rdb t aStrap 39 = true
      ∧ rdf t aStrap 63 40 = rdf s aStrap 63 40 ∧ t.el = { s.el with strapPins := pins }
      ∧ touchesOnly [.electrical] 0xA300_0000 [aStrap] s t := by
  have hx : ∃ t, exec (.strapChanged pins) s = .next t
      ∧ t = event (wrf (pinsSampled s pins) aStrap 39 39 1) 0x0106 srcDevice 0xFFF {} :=
    ⟨_, if_neg (by simp [hr, hf, hp]), rfl⟩
  obtain ⟨t, hx, rfl⟩ := hx
  have hrd : rd (event (wrf (pinsSampled s pins) aStrap 39 39 1) 0x0106 srcDevice 0xFFF {}) aStrap
      = rd (wrf (pinsSampled s pins) aStrap 39 39 1) aStrap := rd_event_other (.inl (by decide))
  have hk := event_keeps (m := 134217728) (x2 := 0x0106) (x3 := srcDevice) (x4 := 0xFFF) (x5 := {}) rfl
    (.refl _ (wrf (pinsSampled s pins) aStrap 39 39 1))
  refine ⟨_, hx, (rdb_congr hrd).trans (rdb_wrf_one _ _ (by decide)),
    (rdf_congr hrd).trans (rdf_wrf_field _ _ _ (.inr (by decide))), hk.el rfl, ?_⟩
  exact touchesOnly.keeps (m := 134217728) (k := 11) (touchesOnly.wrf ((pinsSampled_touches s pins _).mono (by simp) le_rfl
    (by simp)) (.inl (by simp))) hk rfl rfl

theorem strapChanged_idle (h : inReset s = true ∨ rdf s aStrap 41 40 = 0 ∨ pins = s.el.strapPins) :
    exec (.strapChanged pins) s = .next s :=
  if_pos (by rcases h with h | h | h <;> simp [h])

end

/-! ## Step 14 -/

/-- The clusters of a start come into service. -/
def clustersServe (s : State) (ns : List Nat) : State := forAll (fun s n => wrf s aCapAvail (52 + n) (52 + n) 1) s ns

theorem rdb_clustersServe (s : State) {ns : List Nat} {n : Nat} (hn : n < 12) :
    rdb (clustersServe s ns) aCapAvail (52 + n) = (decide (n ∈ ns) || rdb s aCapAvail (52 + n)) := by
  induction ns generalizing s with
  | nil => simp [clustersServe, forAll]
  | cons m ms ih =>
    have hstep : rdb (wrf s aCapAvail (52 + m) (52 + m) 1) aCapAvail (52 + n)
        = (decide (n = m) || rdb s aCapAvail (52 + n)) := by
      rcases eq_or_ne n m with rfl | hne
      · rw [rdb_wrf_one _ _ (by omega)]
        simp
      · rw [rdb_wrf_field _ _ _ (by omega)]
        simp [hne]
    refine (ih _).trans ?_
    rw [hstep, ← Bool.or_assoc, Bool.or_comm (decide (n ∈ ms))]
    simp [List.mem_cons, Bool.decide_or]

/-- The rest of step 14 leaves the mask of the clusters in service and makes the device Ready. -/
theorem stepReady_shows (s : State) : isReady (stepReady s) = true
    ∧ ∀ k, 52 ≤ k → rdb (stepReady s) aCapAvail k = rdb (clustersServe s (startClusters s)) aCapAvail k := by
  unfold stepReady
  extract_lets s1 s2 s3 s4 s5
  have h2 : ∀ k, 52 ≤ k → rdb s2 aCapAvail k = rdb s1 aCapAvail k := fun k hk => rdb_wrf_field _ _ _ (.inr (by omega))
  have h3 : rd s3 aCapAvail = rd s2 aCapAvail := by
    refine forAll_rel (R := fun s t => rd t aCapAvail = rd s aCapAvail) (fun _ => rfl) (fun h g => g.trans h)
      (fun s p _ => ?_) s2
    refine forAll_rel (R := fun s t => rd t aCapAvail = rd s aCapAvail) (fun _ => rfl) (fun h g => g.trans h)
      (fun s i _ => ?_) s
    exact (fillSlot_keeps (m := 2097152) rfl (.refl _ s)).below (k := 5) rfl (by decide)
  have h4 : rd s4 aCapAvail = rd s3 aCapAvail := by
    unfold s4
    split
    · exact (rd_wrf_other (by decide)).trans (rd_wrf_other (by decide))
    · rfl
  have h5 : rd s5 aCapAvail = rd s4 aCapAvail := (rd_journal _ _ _ _ _ _ _).trans (rd_journal _ _ _ _ _ _ _)
  have hadv : ∀ a, rd (startAdvance (wrf s5 aBoot 59 58 bootReady)) a = rd (wrf s5 aBoot 59 58 bootReady) a :=
    (startAdvance_keeps (m := 32768) rfl (.refl _ _)).allRegs (by decide)
  constructor
  · rw [isReady, rdf_congr (hadv aBoot), rdf_wrf_same _ _ _ (by decide)]
    rfl
  · intro k hk
    exact (rdb_congr ((hadv _).trans ((rd_wrf_other (by decide)).trans (h5.trans (h4.trans h3))))).trans (h2 k hk)

theorem clusterUp_stepReady (s : State) {n : Nat} (hn : n < 12) :
    clusterUp (stepReady s) n = (!skipped s n || clusterUp s n) := by
  rw [clusterUp, (stepReady_shows s).2 _ (by omega), rdb_clustersServe s hn, clusterUp]
  simp [startClusters, hn]

/-! ## The steps -/

section
variable {s : State} (hs : starting s = true)
include hs

theorem stepComplete_eq (r : StepReport) : exec (.startupStepComplete r) s = .next (match bootStep s with
    | 1 => stepPower s r.ok
    | 2 => if rdf s aStrap 41 40 = 1 then endStep s 0 else s
    | 3 => if r.ok then stepRom s r else failStep s jrRomCheck
    | 4 => stepImage s r.copyA r.copyB
    | 5 => if r.badSection.isSome || !r.ok then otherCopy s else stepFirmware s
    | 6 => stepIslands s r.failed r.avsMv jrPllLock
    | 7 => if r.badSection.isSome then badLater s else stepTrain s 7 r.failed jrTrainFail
    | 8 => stepTrain s 8 r.failed jrTrainFail
    | 9 =>
      if r.badSection.isSome then badLater s
      else if r.ok then stepTillers s r.recipes
      else failStep s jrTimeout
    | 10 =>
      if r.badSection.isSome then badLater s
      else stepBist s r.failed r.programs jrBistFail
    | 11 => if r.badSection.isSome then badLater s else stepLanes s r.failed jrCalFail
    | 12 => if r.badSection.isSome then badLater s else stepTables s r.tables
    | 13 => endStep s 0
    | 14 => if r.ok then stepReady s else failStep s jrTimeout
    | _ => s) := if_neg (by simp [hs])

/-- A step without a failure is followed by the next one. -/
theorem stepComplete_goesOn (r : StepReport) (h : bootStep s = 2 ∧ rdf s aStrap 41 40 = 1
      ∨ (bootStep s = 8 ∨ bootStep s = 11 ∧ r.badSection = none) ∧ r.failed = [] ∨ bootStep s = 13) :
    ∃ t, exec (.startupStepComplete r) s = .next t ∧ bootStep t = bootStep s + 1 ∧ starting t = true
      ∧ t.flashA = s.flashA ∧ t.flashB = s.flashB ∧ t.mg = s.mg ∧ t.el = s.el := by
  have hx := stepComplete_eq hs r
  have hend : bootStep s ≠ 4 → bootStep s < 15 → bootStep (endStep s 0) = bootStep s + 1
      ∧ starting (endStep s 0) = true ∧ (endStep s 0).flashA = s.flashA ∧ (endStep s 0).flashB = s.flashB
      ∧ (endStep s 0).mg = s.mg ∧ (endStep s 0).el = s.el := fun h4 hlt => by
    obtain ⟨h1, h2, h3⟩ := endStep_shows s 0 h4 hlt
    exact ⟨h1, h2.trans hs, h3⟩
  rcases h with ⟨h2, hf⟩ | ⟨h8 | ⟨h11, hb⟩, hf⟩ | h13
  · refine ⟨endStep s 0, hx.trans ?_, hend (by omega) (by omega)⟩
    rw [h2]
    exact congrArg Host.Outcome.next (if_pos hf)
  · refine ⟨endStep s 0, hx.trans ?_, hend (by omega) (by omega)⟩
    rw [h8, hf]
    refine congrArg Host.Outcome.next (if_pos ?_)
    simp
  · have hl : ∃ v, exec (.startupStepComplete r) s = .next (endStep v 0) ∧ v = failLanes s [] := by
      refine ⟨_, hx.trans ?_, rfl⟩
      have hnil : (List.range 512).filter ([] : List Nat).contains = [] := List.filter_eq_nil_iff.mpr fun _ _ => by simp
      rw [h11, hb, hf]
      simp only [Option.isSome_none, Bool.false_eq_true, if_false, stepLanes, hnil]
      rfl
    obtain ⟨v, hv, rfl⟩ := hl
    obtain ⟨h1, h2, h3⟩ := endStep_shows (failLanes s []) 0 (h11 ▸ by decide : bootStep s ≠ 4) (h11 ▸ by decide : bootStep s < 15)
    exact ⟨_, hv, h1, h2.trans hs, h3⟩
  · refine ⟨endStep s 0, hx.trans ?_, hend (by omega) (by omega)⟩
    simp only [h13]

theorem stepComplete_waits (r : StepReport) (h2 : bootStep s = 2) (hf : rdf s aStrap 41 40 ≠ 1) :
    exec (.startupStepComplete r) s = .next s := by
  rw [stepComplete_eq hs, h2]
  exact congrArg Host.Outcome.next (if_neg hf)

theorem stepComplete_power (r : StepReport) (h1 : bootStep s = 1) (hok : r.ok = true) :
    exec (.startupStepComplete r) s = .next (openStart s) := by
  rw [stepComplete_eq hs, h1, hok]
  rfl

theorem stepComplete_ready (r : StepReport) (h14 : bootStep s = 14) (hok : r.ok = true) :
    ∃ t, exec (.startupStepComplete r) s = .next t ∧ isReady t = true
      ∧ (∀ n, n < 12 → skipped s n = false → clusterUp t n = true)
      ∧ (∀ n, n < 12 → skipped s n = true → clusterUp t n = clusterUp s n)
      ∧ touchesOnly [.queuedWork, .startState] 0 [] s t := by
  refine ⟨stepReady s, ?_, (stepReady_shows s).1, fun n hn hk => ?_, fun n hn hk => ?_,
    (stepReady_keeps (m := 2196480) rfl (.refl _ s)).touchesOnly 0 rfl rfl _⟩
  · rw [stepComplete_eq hs, h14]
    exact congrArg Host.Outcome.next (if_pos hok)
  · rw [clusterUp_stepReady s hn, hk]
    rfl
  · rw [clusterUp_stepReady s hn, hk]
    rfl

theorem stepComplete_fails (r : StepReport) {code : Nat} (h : bootStep s = 1 ∧ code = jrTimeout
      ∨ bootStep s = 3 ∧ code = jrRomCheck ∨ bootStep s = 9 ∧ r.badSection = none ∧ code = jrTimeout
      ∨ bootStep s = 14 ∧ code = jrTimeout) (hok : r.ok = false) :
    ∃ t, exec (.startupStepComplete r) s = .next t ∧ isHalted t = true ∧ rdf t aBoot 47 40 = code
      ∧ rdb t aAlert 63 = true ∧ bootStep t = bootStep s := by
  have hx := stepComplete_eq hs r
  rcases h with ⟨h1, rfl⟩ | ⟨h3, rfl⟩ | ⟨h9, hb, rfl⟩ | ⟨h14, rfl⟩
  · refine ⟨_, hx.trans ?_, halt_shows s 0 (by decide)⟩
    rw [h1, hok]
    rfl
  · refine ⟨_, hx.trans ?_, failStep_shows s (by decide)⟩
    rw [h3, hok]
    rfl
  · refine ⟨_, hx.trans ?_, failStep_shows s (by decide)⟩
    rw [h9, hok, hb]
    rfl
  · refine ⟨_, hx.trans ?_, failStep_shows s (by decide)⟩
    rw [h14, hok]
    rfl

theorem stepTimeout_eq (failed : List Nat) : exec (.startupStepTimeout failed) s = .next (match bootStep s with
    | 1 => halt s jrTimeout 0
    | 6 => stepIslands s failed 0 jrTimeout
    | 7 => stepTrain s 7 failed jrTimeout
    | 8 => stepTrain s 8 failed jrTimeout
    | 10 => stepBist s failed [] jrTimeout
    | 11 => stepLanes s failed jrTimeout
    | 13 => endStep s 0
    | _ => failStep s jrTimeout) := if_neg (by simp [hs])

theorem stepTimeout_halts (failed : List Nat) (h : bootStep s ∈ [1, 2, 3, 4, 5, 9, 12, 14]) :
    ∃ t, exec (.startupStepTimeout failed) s = .next t ∧ isHalted t = true ∧ rdf t aBoot 47 40 = jrTimeout
      ∧ rdb t aAlert 63 = true ∧ bootStep t = bootStep s := by
  rcases eq_or_ne (bootStep s) 1 with h1 | h1
  · refine ⟨_, (stepTimeout_eq hs failed).trans ?_, halt_shows s 0 (by decide)⟩
    simp only [h1]
  · refine ⟨_, (stepTimeout_eq hs failed).trans ?_, failStep_shows s (by decide)⟩
    simp only [List.mem_cons, List.not_mem_nil, or_false] at h
    rcases h with h | h | h | h | h | h | h | h
    · exact absurd h h1
    all_goals simp only [h]

theorem stepTimeout_lanes (h13 : bootStep s = 13) : ∃ t, exec (.startupStepTimeout []) s = .next t
    ∧ bootStep t = 14 ∧ starting t = true := by
  obtain ⟨h1, h2, -⟩ := endStep_shows s 0 (by omega) (by omega)
  refine ⟨endStep s 0, ?_, h1.trans (by rw [h13]), h2.trans hs⟩
  simp only [stepTimeout_eq hs, h13]

end

theorem startRows_idle {s : State} (r : StepReport) (failed : List Nat) (h : starting s = false) :
    exec (.startupStepComplete r) s = .next s ∧ exec (.startupStepTimeout failed) s = .next s :=
  ⟨if_pos (by simp [h]), if_pos (by simp [h])⟩

/-- Settles O41: a strap value is taken or halts the start, and each step ends, fails or runs out of time. -/
theorem startRows : Obligations.StartRows := by
  refine ⟨⟨fun s pins hs h2 hf => ⟨strapAccept_taken pins hs h2 hf, fun status code => strapAccept_refused pins hs h2 hf⟩,
    fun s pins => strapAccept_idle pins, fun s pins => strapChanged_marks pins, fun s pins => strapChanged_idle pins⟩,
    fun s r failed => startRows_idle r failed, fun s r hs => stepComplete_goesOn hs r,
    fun s r hs => stepComplete_waits hs r, fun s r hs => stepComplete_power hs r, fun s r hs => stepComplete_ready hs r,
    fun s r code hs => stepComplete_fails hs r, fun s failed hs => stepTimeout_halts hs failed,
    fun s hs => stepTimeout_lanes hs⟩

end Sys2Proof.Machine
end

section
/-! PROOFS. Strikes, takeovers, in-field tests, drain bounds and ledger retries (R376 to R387). -/

namespace Sys2Proof.Machine

open Sys2Proof

/-! ## Strikes and the ledger -/

theorem strikeExpiry_core {s : State} {u : Nat} (h : coreState s u ≠ csRetired) :
    ∃ t, exec (.strikeExpiry .core u) s = .next t
      ∧ tget [] t.cores.strikes u = (tget [] s.cores.strikes u).drop 1
      ∧ (∀ v, v ≠ u → tget [] t.cores.strikes v = tget [] s.cores.strikes v)
      ∧ rdf t (aFltCore u) 60 59 = (tget [] t.cores.strikes u).length % 4
      ∧ changesOnly [.cores] [(aFltCore u, 60, 59)] s t := by
  have hv : ∃ v, exec (.strikeExpiry .core u) s
        = .next (wrf v (aFltCore u) 60 59 ((tget [] s.cores.strikes u).drop 1).length)
      ∧ v = { s with cores := { s.cores with
          strikes := tset [] s.cores.strikes u ((tget [] s.cores.strikes u).drop 1) } } := ⟨_, if_neg h, rfl⟩
  obtain ⟨v, hx, rfl⟩ := hv
  have hsame := tget_tset_same [] s.cores.strikes u ((tget [] s.cores.strikes u).drop 1)
  refine ⟨_, hx, hsame, fun w hw => tget_tset_other [] [] s.cores.strikes _ hw, ?_, ?_⟩
  · exact (rdf_wrf_same _ _ _ (by decide)).trans (congrArg (fun l => List.length l % 4) hsame.symm)
  · exact changesOnly.wrf ((changesOnly.refl [.cores] [(aFltCore u, 60, 59)] s).upd 16 rfl (by decide)) (by simp)

theorem strikeExpiry_tiller (s : State) (u : Nat) : ∃ t, exec (.strikeExpiry .tiller u) s = .next t
    ∧ tget [] t.cores.tillerStrikes u = (tget [] s.cores.tillerStrikes u).drop 1
    ∧ (∀ v, v ≠ u → tget [] t.cores.tillerStrikes v = tget [] s.cores.tillerStrikes v)
    ∧ changesOnly [.cores] [] s t :=
  ⟨_, rfl, tget_tset_same [] s.cores.tillerStrikes u _, fun _ hw => tget_tset_other [] [] s.cores.tillerStrikes _ hw,
    (changesOnly.refl [.cores] [] s).upd 16 rfl (by decide)⟩

/-- What one flash program leaves of the flash it is made to. -/
theorem flashOf_runJob (s : State) (f : Nat) (j : FlashJob) (hf : j.flash = f) (he : j.erase = false) :
    flashOf (runJob s j) f = writeBytes flashFill (flashOf s f) j.offset j.bytes := by
  unfold runJob setFlash flashOf
  rw [hf, he]
  by_cases h : f = 0
  · simp only [if_pos h, Bool.false_eq_true, if_false]
  · simp only [if_neg h, Bool.false_eq_true, if_false]

theorem setFlash_boot (s : State) (f : Nat) (m : Memory) : (setFlash s f m).boot = s.boot := by
  unfold setFlash
  split <;> rfl

theorem runJob_boot (s : State) (j : FlashJob) : (runJob s j).boot = s.boot := setFlash_boot _ _ _

theorem ledgerRetry_written {s : State} {f r : Nat} {rest : List (Nat × Nat)} (h : s.boot.ledgerDue = (f, r) :: rest) :
    ∃ u, u = { s with boot := { s.boot with ledgerDue := rest } }
      ∧ exec (.ledgerWriteRetry false) s = .next (ledgerFailed u f r)
      ∧ exec (.ledgerWriteRetry true) s
        = .next (runJob u ⟨f, ledgerOffset s r, leOfWords (s.boot.ledger.getD r []), false, .ledger r⟩) := by
  refine ⟨_, rfl, ?_, ?_⟩
  · simp only [exec_ledgerWriteRetry, execLedgerWriteRetry, h, Bool.false_eq_true, if_false]
  · simp only [exec_ledgerWriteRetry, execLedgerWriteRetry, h, if_true]
    rfl

theorem ledgerRetry_shows {s : State} {f r : Nat} {rest : List (Nat × Nat)} (h : s.boot.ledgerDue = (f, r) :: rest) :
    ∃ u, u = { s with boot := { s.boot with ledgerDue := rest } }
      ∧ exec (.ledgerWriteRetry false) s = .next (ledgerFailed u f r)
      ∧ ∃ t, exec (.ledgerWriteRetry true) s = .next t
        ∧ (∀ i, i < (leOfWords (s.boot.ledger.getD r [])).length →
          readByte flashFill (flashOf t f) (ledgerOffset s r + i) = (leOfWords (s.boot.ledger.getD r [])).getD i 0xFF)
        ∧ (∀ a, a < ledgerOffset s r ∨ ledgerOffset s r + (leOfWords (s.boot.ledger.getD r [])).length ≤ a →
          readByte flashFill (flashOf t f) a = readByte flashFill (flashOf s f) a)
        ∧ t.boot = u.boot ∧ touchesOnly [.flashes, .queuedWork] (2 ^ 64) [] s t := by
  obtain ⟨u, hu, hfail, hdone⟩ := ledgerRetry_written h
  have hold : flashOf u f = flashOf s f := by rw [hu]; rfl
  have hflash : flashOf (runJob u ⟨f, ledgerOffset s r, leOfWords (s.boot.ledger.getD r []), false, .ledger r⟩) f
      = writeBytes flashFill (flashOf s f) (ledgerOffset s r) (leOfWords (s.boot.ledger.getD r [])) := by
    rw [flashOf_runJob _ f _ rfl rfl, hold]
  refine ⟨u, hu, hfail, _, hdone, fun i hi => ?_, fun a ha => ?_, runJob_boot _ _, ?_⟩
  · rw [hflash]
    exact readByte_writeBytes_at _ _ _ _ _ hi
  · rw [hflash]
    exact readByte_writeBytes_other _ _ _ _ _ ha
  · have hframe : touchesOnly [.flashes, .queuedWork] (2 ^ 64) [] s u := by
      rw [hu]
      exact (touchesOnly.refl [.flashes, .queuedWork] (2 ^ 64) [] s).upd 1024 rfl (by decide)
    have hjob := runJob_keeps (m := 16384) (x2 := ⟨f, ledgerOffset s r, leOfWords (s.boot.ledger.getD r []), false,
      .ledger r⟩) rfl (.refl _ u)
    exact hframe.trans ⟨hjob.pending, hjob.parts (by decide), fun a _ _ => hjob.allRegs (by decide) a⟩

/-! ## Core states -/

theorem aFltCore_inj {u v : Nat} (h : u ≠ v) : aFltCore u ≠ aFltCore v := by
  unfold aFltCore
  omega

theorem aFltCore_ne_avail (u : Nat) : aFltCore u ≠ aCapAvail := by
  unfold aFltCore aCapAvail
  omega

theorem coreState_congr {s t : State} {u : Nat} (h : rd t (aFltCore u) = rd s (aFltCore u)) :
    coreState t u = coreState s u := rdf_congr h

theorem coreState_set_same (s : State) (u : Nat) {v : Nat} (h : v < 8) : coreState (setCoreState s u v) u = v :=
  rdf_wrf_fits s _ (by decide) h

theorem coreState_set_other {s : State} {u w : Nat} (v : Nat) (h : w ≠ u) :
    coreState (setCoreState s u v) w = coreState s w := rdf_congr (rd_wrf_other (aFltCore_inj h))

theorem coreState_recount (s : State) (u : Nat) : coreState (recountCores s) u = coreState s u :=
  rdf_congr (rd_wrf_other (aFltCore_ne_avail u))

theorem coreState_setJob (s : State) (u w : Nat) (j : List CoreJob) : coreState (setJob s u j) w = coreState s w := rfl

theorem jobOf_wrf (s : State) (a hi lo v w : Nat) : jobOf (wrf s a hi lo v) w = jobOf s w :=
  jobOf_congr (congrArg Cores.jobs (wrf_cores s a hi lo v)) w

theorem jobOf_recount (s : State) (u : Nat) : jobOf (recountCores s) u = jobOf s u := jobOf_wrf _ _ _ _ _ u

theorem jobOf_setCoreState (s : State) (u v w : Nat) : jobOf (setCoreState s u v) w = jobOf s w := jobOf_wrf _ _ _ _ _ w

theorem recountCores_cores (s : State) : (recountCores s).cores = s.cores := wrf_cores _ _ _ _ _

theorem setCoreState_cores (s : State) (u v : Nat) : (setCoreState s u v).cores = s.cores := wrf_cores _ _ _ _ _

/-! ## Takeovers -/

/-- Moving a run leaves the cores' states and jobs. -/
theorem moveRun_shows {s : State} {u : Nat} (t key k cycles : Nat) (hu : u < 108) :
    (∀ w, coreState (moveRun s u t key k cycles) w = coreState s w)
    ∧ ∀ w, jobOf (moveRun s u t key k cycles) w = jobOf s w := by
  unfold moveRun
  split
  · exact ⟨fun _ => rfl, fun _ => rfl⟩
  · next r _ =>
    extract_lets g prior s1 m
    have hnote : ∀ w, rd s1 (aFltCore w) = rd s (aFltCore w) := fun w => rd_wr_other (by
      unfold aFltCore aDrl aCluster
      omega)
    have hmove := moveCore_keeps (m := 8) (x2 := key) (x3 := k) (x4 := u) (x5 := t) rfl
      (.refl _ { s1 with cores := { s.cores with migrated := m } })
    exact ⟨fun w => coreState_congr ((hmove.allRegs (by decide) _).trans (hnote w)),
      fun w => jobOf_congr (congrArg Cores.jobs (hmove.cores rfl)) w⟩

theorem takeOver_eq {s : State} {u key k role : Nat} (t cycles : Nat) (hj : jobOf s u = some (.run key k role)) :
    takeOver s u t cycles false = recountCores
      (let v := setCoreState (setJob (setJob (setJob (moveRun s u t key k cycles) t [.run key k role]) u []) u [.test])
        u csTesting
      if coreState v t = csReserve then setCoreState v t csActive else v) := by
  unfold takeOver
  rw [hj]
  rfl

/-- A takeover for a test: the taker has the run and a reserve becomes active; the core is under test. -/
theorem takeOver_shows {s : State} {u t key k role : Nat} (cycles : Nat) (hu : u < 108) (hne : t ≠ u)
    (hj : jobOf s u = some (.run key k role)) :
    jobOf (takeOver s u t cycles false) t = some (.run key k role) ∧ jobOf (takeOver s u t cycles false) u = some .test
    ∧ coreState (takeOver s u t cycles false) u = csTesting
    ∧ (coreState s t = csReserve → coreState (takeOver s u t cycles false) t = csActive) := by
  obtain ⟨hstate, -⟩ := moveRun_shows (s := s) t key k cycles hu
  rw [takeOver_eq t cycles hj]
  extract_lets v
  have hvt : coreState v t = coreState s t :=
    (coreState_set_other _ hne).trans (hstate t)
  have hvu : coreState v u = csTesting := coreState_set_same _ u (by decide)
  have hjt : jobOf v t = some (.run key k role) :=
    (jobOf_setCoreState _ u _ t).trans
      ((jobOf_setJob_other _ hne).trans ((jobOf_setJob_other _ hne).trans (jobOf_setJob_same _ t _)))
  have hju : jobOf v u = some .test := (jobOf_setCoreState _ u _ u).trans (jobOf_setJob_same _ u _)
  clear_value v
  refine ⟨(jobOf_recount _ t).trans ?_, (jobOf_recount _ u).trans ?_, (coreState_recount _ u).trans ?_,
    fun h => (coreState_recount _ t).trans ?_⟩
  · split
    · exact (jobOf_setCoreState _ t _ t).trans hjt
    · exact hjt
  · split
    · exact (jobOf_setCoreState _ t _ u).trans hju
    · exact hju
  · split
    · exact (coreState_set_other _ hne.symm).trans hvu
    · exact hvu
  · rw [if_pos (hvt.trans h)]
    exact coreState_set_same _ t (by decide)

theorem migrationDone_takes {s : State} {u t : Nat} (cycles : Nat) {ret : Bool} (ht : takerOf s u = some t)
    (hj : jobOf s t = some (.takeover u ret)) :
    exec (.migrationDone u cycles) s = .next (settle (takeOver s u t cycles ret)) := by
  simp only [exec_migrationDone, execMigrationDone, ht, hj]

theorem migrationDone_idle {s : State} {u : Nat} (cycles : Nat) (ht : takerOf s u = none) :
    exec (.migrationDone u cycles) s = .next s := by
  simp only [exec_migrationDone, execMigrationDone, ht]

/-! ## In-field tests -/

theorem fieldTestStart_idle {s : State} {n : Nat}
    (h : clusterUp s n = false ∨ rdb s aFltCfg 63 = false ∨ testRuns s n = true ∨ testChoice s n = none) :
    exec (.fieldTestStart n) s = .next s := by
  rw [exec_fieldTestStart, execFieldTestStart]
  by_cases hrun : (!clusterUp s n || !rdb s aFltCfg 63 || testRuns s n) = true
  · exact if_pos hrun
  · have hnone : testChoice s n = none := by
      simp only [Bool.not_eq_true, Bool.or_eq_false_iff, Bool.not_eq_false'] at hrun
      obtain ⟨⟨hup, hcfg⟩, hno⟩ := hrun
      rw [hup, hcfg, hno] at h
      simpa using h
    rw [if_neg hrun, hnone]

theorem fieldTestStart_tries {s : State} {n u : Nat} (hup : clusterUp s n = true) (hcfg : rdb s aFltCfg 63 = true)
    (hno : testRuns s n = false) (hu : testChoice s n = some u) :
    exec (.fieldTestStart n) s = .next (settle (tryTest s n u)) := by
  rw [exec_fieldTestStart, execFieldTestStart, if_neg (by simp [hup, hcfg, hno]), hu]

/-- What a test's beginning leaves. -/
theorem beginTest_shows (s : State) (n u : Nat) : coreState (beginTest s n u) u = csTesting
    ∧ jobOf (beginTest s n u) u = some .test ∧ tget 0 (beginTest s n u).cores.testNext n = 0
    ∧ touchesOnly [.cores] (2 ^ 64) [aCapAvail, aFltCore u] s (beginTest s n u) := by
  have hv : ∃ v, beginTest s n u = recountCores (setCoreState (setJob v u [.test]) u csTesting)
      ∧ tget 0 v.cores.testNext n = 0 ∧ touchesOnly [.cores] (2 ^ 64) [aCapAvail, aFltCore u] s v :=
    ⟨_, rfl, tget_tset_same 0 s.cores.testNext n 0, (touchesOnly.refl _ _ _ s).upd 16 rfl (by decide)⟩
  obtain ⟨v, hb, hnext, hf⟩ := hv
  rw [hb]
  have hjob : touchesOnly [.cores] (2 ^ 64) [aCapAvail, aFltCore u] s (setJob v u [.test]) :=
    hf.upd 16 rfl (by decide)
  exact ⟨(coreState_recount _ u).trans (coreState_set_same _ u (by decide)),
    (jobOf_recount _ u).trans ((jobOf_setCoreState _ u _ u).trans (jobOf_setJob_same _ u _)),
    by rw [recountCores_cores, setCoreState_cores]; exact hnext, (hjob.wrf (.inl (by simp))).wrf (.inl (by simp))⟩

/-- A test with an idle reserve: the core is tested, and the reserve takes the place of another one. -/
theorem tryTest_shows {s : State} {n u r : Nat} (hr : reserveOf s n = some r) (hjr : jobOf s r = none)
    (hju : jobOf s u = none) :
    coreState (tryTest s n u) u = csTesting ∧ jobOf (tryTest s n u) u = some .test
    ∧ (r ≠ u → coreState (tryTest s n u) r = csActive) ∧ tget 0 (tryTest s n u).cores.testNext n = 0
    ∧ touchesOnly [.cores] (2 ^ 64) [aCapAvail, aFltCore u, aFltCore r] s (tryTest s n u) := by
  obtain ⟨hstate, hjob, hnext, hf⟩ := beginTest_shows s n u
  have hf : touchesOnly [.cores] (2 ^ 64) [aCapAvail, aFltCore u, aFltCore r] s (beginTest s n u) :=
    hf.mono (by simp) le_rfl (by simp)
  rcases eq_or_ne u r with rfl | hne
  · have ht : tryTest s n u = beginTest s n u := by simp [tryTest, hr, hjr]
    rw [ht]
    exact ⟨hstate, hjob, fun h => absurd rfl h, hnext, hf⟩
  · have ht : tryTest s n u = recountCores (setCoreState (beginTest s n u) r csActive) := by
      simp [tryTest, hr, hjr, hju, hne]
    rw [ht]
    exact ⟨(coreState_recount _ u).trans ((coreState_set_other _ hne).trans hstate),
      (jobOf_recount _ u).trans ((jobOf_setCoreState _ r _ u).trans hjob),
      fun _ => (coreState_recount _ r).trans (coreState_set_same _ r (by decide)),
      by rw [recountCores_cores, setCoreState_cores]; exact hnext,
      (hf.wrf (.inl (by simp))).wrf (.inl (by simp))⟩

theorem fieldTestEnd_idle {s : State} {n : Nat} (passed : Bool) (h : ∀ u ∈ coresOf n, coreState s u ≠ csTesting) :
    exec (.fieldTestEnd n passed) s = .next s := by
  have hnone : ((coresOf n).find? fun u => coreState s u == csTesting) = none :=
    List.find?_eq_none.mpr fun u hu => by simp [h u hu]
  rw [exec_fieldTestEnd, execFieldTestEnd, hnone]

theorem fieldTestEnd_ends {s : State} {n u : Nat} (passed : Bool)
    (h : ((coresOf n).find? fun u => coreState s u == csTesting) = some u) :
    exec (.fieldTestEnd n passed) s
      = .next (settle (if passed then passTest s n u else retireCore (setJob s u []) u lrScanFail)) := by
  rw [exec_fieldTestEnd, execFieldTestEnd, h]

/-- The core that passed, before its next state. -/
def testNoted (s : State) (u : Nat) : State :=
  wrf (setJob s u []) (aFltCore u) 55 32 (Nat.min 0xFFFFFE (now s / 60000000000))

theorem testNoted_state (s : State) (u w : Nat) : coreState (testNoted s u) w = coreState s w := by
  rcases eq_or_ne w u with rfl | hne
  · exact rdf_wrf_field _ _ _ (.inr (by decide))
  · exact rdf_congr (rd_wrf_other (aFltCore_inj hne))

theorem testNoted_serves (s : State) (u w : Nat) : coreServes (testNoted s u) w = coreServes s w := by
  unfold coreServes
  rw [testNoted_state]
  rfl

theorem testNoted_reserve (s : State) (u n : Nat) : reserveOf (testNoted s u) n = reserveOf s n := by
  unfold reserveOf
  simp only [testNoted_state]

theorem passTest_eq (s : State) (n u : Nat) : passTest s n u =
    if reserveOf s n = none ∧ 8 < ((coresOf n).filter (coreServes s)).length then setCoreState (testNoted s u) u csReserve
    else recountCores (setCoreState (testNoted s u) u csActive) := by
  have hserve : (coresOf n).filter (coreServes (testNoted s u)) = (coresOf n).filter (coreServes s) :=
    List.filter_congr fun w _ => testNoted_serves s u w
  have h : passTest s n u =
      if (reserveOf (testNoted s u) n).isNone
          && decide (8 < ((coresOf n).filter (coreServes (testNoted s u))).length) then
        setCoreState (testNoted s u) u csReserve
      else recountCores (setCoreState (testNoted s u) u csActive) := rfl
  rw [h, testNoted_reserve, hserve]
  by_cases hc : reserveOf s n = none ∧ 8 < ((coresOf n).filter (coreServes s)).length
  · rw [if_pos hc, if_pos (Bool.and_eq_true_iff.mpr ⟨Option.isNone_iff_eq_none.mpr hc.1, decide_eq_true hc.2⟩)]
  · rw [if_neg hc, if_neg fun h => hc ((Bool.and_eq_true_iff.mp h).imp Option.isNone_iff_eq_none.mp of_decide_eq_true)]

theorem testNoted_shows (s : State) (u : Nat) : jobOf (testNoted s u) u = none
    ∧ rdf (testNoted s u) (aFltCore u) 55 32 = Nat.min 0xFFFFFE (now s / 60000000000)
    ∧ touchesOnly [.cores] (2 ^ 64) [aCapAvail, aFltCore u] s (testNoted s u) := by
  have hjob : touchesOnly [.cores] (2 ^ 64) [aCapAvail, aFltCore u] s (setJob s u []) :=
    (touchesOnly.refl _ _ _ s).upd 16 rfl (by decide)
  exact ⟨(jobOf_wrf _ _ _ _ _ u).trans (jobOf_setJob_same s u []),
    rdf_wrf_fits _ _ (by decide) (Nat.lt_of_le_of_lt (Nat.min_le_left ..) (by decide)), hjob.wrf (.inl (by simp))⟩

theorem passTest_shows (s : State) (n u : Nat) : jobOf (passTest s n u) u = none
    ∧ rdf (passTest s n u) (aFltCore u) 55 32 = Nat.min 0xFFFFFE (now s / 60000000000)
    ∧ coreState (passTest s n u) u
      = (if reserveOf s n = none ∧ 8 < ((coresOf n).filter (coreServes s)).length then csReserve else csActive)
    ∧ touchesOnly [.cores] (2 ^ 64) [aCapAvail, aFltCore u] s (passTest s n u) := by
  obtain ⟨hjob, hmin, hf⟩ := testNoted_shows s u
  rw [passTest_eq]
  split
  · exact ⟨(jobOf_setCoreState _ u _ u).trans hjob, (rdf_wrf_field _ _ _ (.inl (by decide))).trans hmin, coreState_set_same _ u (by decide),
      hf.wrf (.inl (by simp))⟩
  · exact ⟨(jobOf_recount _ u).trans ((jobOf_setCoreState _ u _ u).trans hjob),
      (rdf_congr (rd_wrf_other (aFltCore_ne_avail u))).trans ((rdf_wrf_field _ _ _ (.inl (by decide))).trans hmin),
      (coreState_recount _ u).trans (coreState_set_same _ u (by decide)),
      (hf.wrf (.inl (by simp))).wrf (.inl (by simp))⟩

/-! ## Drain bounds -/

theorem drainTimeout_core (s : State) (u : Nat) : exec (.drainTimeout .core u) s =
    .next (if (coreState s u == csFallow || coreState s u == csMigrating) = true then settle (drainCore s u) else s) := rfl

/-- Settles O43: each timer's effect on strikes, jobs, core states and flashes. -/
theorem faultTimers : Obligations.FaultTimers := by
  refine ⟨fun s u _ h => strikeExpiry_core h, fun s u h => if_pos h, strikeExpiry_tiller,
    fun s u cycles h => migrationDone_idle cycles h, fun s u t cycles key k role ret ht hj hju => ?_,
    fun s written h => ?_, fun s f r rest h => ledgerRetry_shows h, fun s n h => fieldTestStart_idle h,
    fun s n r u hup hcfg hno hu hr hjr hju _ => ⟨_, fieldTestStart_tries hup hcfg hno hu, tryTest_shows hr hjr hju⟩,
    fun s n passed h => fieldTestEnd_idle passed h, fun s n u _ h =>
      ⟨fieldTestEnd_ends false h, _, fieldTestEnd_ends true h, passTest_shows s n u⟩, fun s u h => ?_, fun s u h4 h3 => ?_,
    fun s n h => ?_⟩
  · refine ⟨_, migrationDone_takes cycles ht hj, rfl, fun hret hu => ?_⟩
    subst hret
    exact takeOver_shows cycles hu (fun hne => by simp [hne, hju] at hj) hju
  · rw [exec_ledgerWriteRetry, execLedgerWriteRetry, h]
  · exact (drainTimeout_core s u).trans (congrArg Host.Outcome.next (if_pos (by simpa using h)))
  · exact (drainTimeout_core s u).trans (congrArg Host.Outcome.next (if_neg (by simp [h4, h3])))
  · exact congrArg Host.Outcome.next (if_pos h)

end Sys2Proof.Machine
end

section
/-! PROOFS. The commands of FLT_CMD (R393, R394). -/

namespace Sys2Proof.Machine

open Sys2Proof

/-! ## The command row -/

/-- A command register that the recorder never captures: the row is the operation on the stored word. -/
theorem cmdRow_untabled {s : State} {path a : Nat} {fs : List RField} {v : Word} {op : State → State × Nat}
    (h : manageable s) (h1 : touchesRo fs (rd s a) v = false) (h2 : touchesReserved fs v = false)
    (h3 : outOfRange fs v = false) (h4 : hasRw1 fs = false) (ha : 0x9000_0000 ≤ a) :
    mgApply s a v (fun s => cmdWrite s path a fs v op)
      = (op (wr s a (mergedWord (!s.mg.rw1.contains a) fs (rd s a) v))).1 := by
  by_cases hc : (op (wr s a (mergedWord (!s.mg.rw1.contains a) fs (rd s a) v))).2 = 0
  · exact (cmdRow_ok h h1 h2 h3 h4 (Prod.ext rfl hc)).trans (captureWrite_untabled v ha)
  · exact cmdRow_refused h h1 h2 h3 h4 hc rfl

/-- What a command of FLT_CMD does, before it reports. -/
def fltEffect (s : State) (op kind u : Nat) : State × Nat :=
  if unitCount kind ≤ u || (op = 3 && kind != ukCore) then (s, fltUnitRange)
  else
    match op with
    | 1 =>
      if unitRetired s kind u then (s, fltState)
      else (settle (retireUnit s kind u), if decide (1024 ≤ s.boot.ledger.length) then fltLedgerFull else 0)
    | 2 =>
      if unitRetired s kind u then
        ((appendLedger s 2 kind u 0 0).1, if decide (1024 ≤ s.boot.ledger.length) then fltLedgerFull else 0)
      else (s, fltState)
    | 3 => ({ s with cores := { s.cores with testNext := tset 0 s.cores.testNext (u / 9) (u + 1) } }, 0)
    | _ => (s, 0)

/-- FLT_STAT after a command. -/
def fltReport (s : State) (kind u code : Nat) : State :=
  wr s aFltStat (bitsAt 63 56 code ||| bitsAt 19 16 kind ||| bitsAt 15 0 u)

theorem fltCommand_eq (s : State) (op kind u : Nat) : fltCommand s op kind u
    = (fltReport (fltEffect s op kind u).1 kind u (fltEffect s op kind u).2, (fltEffect s op kind u).2) := by
  unfold fltCommand fltEffect
  rfl

theorem bitsOf_fltCmdWord {op kind u : Nat} (hop : op < 16) (hk : kind < 16) (hu : u < 65536) :
    bitsOf (fltCmdWord op kind u) 63 60 = op ∧ bitsOf (fltCmdWord op kind u) 59 56 = kind
      ∧ bitsOf (fltCmdWord op kind u) 15 0 = u ∧ bitsOf (fltCmdWord op kind u) 55 16 = 0 := by
  simp only [fltCmdWord, bitsOf_or, bitsOf_bitsAt_same _ (show 63 < 64 by decide),
    bitsOf_bitsAt_same _ (show 59 < 64 by decide), bitsOf_bitsAt_same _ (show 15 < 64 by decide), bitsOf_bitsAt_other,
    show (15 : Nat) < 60 by decide, show (15 : Nat) < 56 by decide, show (59 : Nat) < 60 by decide,
    show (15 : Nat) < 16 by decide, show (55 : Nat) < 60 by decide, show (55 : Nat) < 56 by decide, true_or, or_true,
    Nat.or_zero, Nat.zero_or]
  exact ⟨Nat.mod_eq_of_lt hop, Nat.mod_eq_of_lt hk, Nat.mod_eq_of_lt hu, trivial⟩

theorem fltReport_shows (s : State) {kind u code : Nat} (hc : code < 256) (hk : kind < 16) (hu : u < 65536) :
    rdf (fltReport s kind u code) aFltStat 63 56 = code ∧ rdf (fltReport s kind u code) aFltStat 19 16 = kind
      ∧ rdf (fltReport s kind u code) aFltStat 15 0 = u := by
  rw [rdf, rdf, rdf, fltReport, rd_wr_same]
  simp only [bitsOf_or, bitsOf_bitsAt_same _ (show 63 < 64 by decide), bitsOf_bitsAt_same _ (show 19 < 64 by decide),
    bitsOf_bitsAt_same _ (show 15 < 64 by decide), bitsOf_bitsAt_other, show (19 : Nat) < 56 by decide,
    show (15 : Nat) < 56 by decide, show (15 : Nat) < 16 by decide, true_or, or_true, Nat.or_zero, Nat.zero_or]
  exact ⟨Nat.mod_eq_of_lt hc, Nat.mod_eq_of_lt hk, Nat.mod_eq_of_lt hu⟩

/-- The command word is stored: all else is as before. -/
structure FltStored (s v : State) : Prop where
  boot : v.boot = s.boot
  cores : v.cores = s.cores
  reg : ∀ a, a ≠ aFltCmd → rd v a = rd s a
  frame : touchesOnly [] (2 ^ 64) [aFltCmd] s v

theorem fltStored_wr (s : State) (w : Word) : FltStored s (wr s aFltCmd w) :=
  ⟨wr_boot s _ w, wr_cores s _ w, fun _ h => rd_wr_other h, (touchesOnly.refl _ _ _ s).wr (.inl (by simp))⟩

theorem FltStored.low {s v : State} (h : FltStored s v) (ps : List Part) : touchesOnly ps 0xA000_0000 [] s v :=
  ⟨h.frame.1, (h.frame.mono (qs := ps) (by simp) le_rfl (fun _ h => h)).2.1, fun a ha _ => h.reg a (by
    unfold aFltCmd
    omega)⟩

theorem FltStored.out {s v : State} (h : FltStored s v) (kind u : Nat) : unitOut v kind u = unitOut s kind u := by
  have hstate : coreState v u = coreState s u := coreState_congr (h.reg _ (by
    unfold aFltCore aFltCmd
    omega))
  unfold unitOut retireMark
  rw [hstate, h.cores]

theorem FltStored.retired {s v : State} (h : FltStored s v) (kind u : Nat) : unitRetired v kind u = unitRetired s kind u := by
  unfold unitRetired ledgerRetired
  rw [h.boot, h.out]

section
variable {s : State} (path : Nat) {kind u : Nat} (h : manageable s) (h1 : 1 ≤ kind) (h4 : kind ≤ 4) (hu : u < 65536)
include h h1 h4 hu

/-- A command of FLT_CMD on a managed device: its word is stored, it runs, and FLT_STAT reports. -/
theorem fltRow_shows {op : Nat} (ho1 : 1 ≤ op) (ho4 : op ≤ 4) : ∃ v, FltStored s v ∧
    ∀ x code, fltEffect v op kind u = (x, code) → fltRow s path op kind u = fltReport x kind u code := by
  obtain ⟨hop, hkind, hunit, hres⟩ := bitsOf_fltCmdWord (show op < 16 by omega) (show kind < 16 by omega) hu
  have hrsv : touchesReserved fltCmdFields (fltCmdWord op kind u) = false := by
    simp [touchesReserved, fltCmdFields, rsv, wo, hres]
  have hrange : outOfRange fltCmdFields (fltCmdWord op kind u) = false := by
    simp [outOfRange, fltCmdFields, rsv, wo, hop, hkind, ho1, ho4, h1, h4]
  refine ⟨_, fltStored_wr s (mergedWord (!s.mg.rw1.contains aFltCmd) fltCmdFields (rd s aFltCmd) (fltCmdWord op kind u)),
    fun x code hx => ?_⟩
  refine (cmdRow_untabled (op := fun s =>
    ((fltCommand s (bitsOf (fltCmdWord op kind u) 63 60) (bitsOf (fltCmdWord op kind u) 59 56)
      (bitsOf (fltCmdWord op kind u) 15 0)).1, _)) h rfl hrsv hrange rfl (by decide)).trans ?_
  rw [hop, hkind, hunit, fltCommand_eq, hx]

/-- A command that leaves all but the command word and its report. -/
theorem fltRow_quiet {c : Instr} {op code : Nat} (ho1 : 1 ≤ op) (ho4 : op ≤ 4) (hc : code < 256)
    (hx : exec c s = .next (fltRow s path op kind u)) (heff : ∀ v, FltStored s v → fltEffect v op kind u = (v, code)) :
    ∃ t, exec c s = .next t
      ∧ (rdf t aFltStat 63 56 = code ∧ rdf t aFltStat 19 16 = kind ∧ rdf t aFltStat 15 0 = u)
      ∧ touchesOnly [.recorder] 0xA000_0000 [] s t
      ∧ ∀ a, 0xA200_0000 ≤ a → a < 0xA300_0000 → a ≠ aFltCmd → a ≠ aFltStat → rd t a = rd s a := by
  obtain ⟨v, hv, hrow⟩ := fltRow_shows path h h1 h4 hu ho1 ho4
  refine ⟨_, hx.trans (congrArg Host.Outcome.next (hrow v code (heff v hv))),
    fltReport_shows v hc (by omega) hu, ?_, fun a _ _ hcmd hstat => (rd_wr_other hstat).trans (hv.reg a hcmd)⟩
  exact (hv.low [.recorder]).wr (.inr (by decide))

end

/-! ## The ledger -/

/-- A record that fits is the newest of the ledger. -/
theorem appendLedger_records {s : State} {kind unit : Nat} (op reason last : Nat) (hlt : s.boot.ledger.length < 1024)
    (hop : op < 16) (hk : kind < 16) (hu : unit < 65536) :
    ∃ r, (appendLedger s op kind unit reason last).1.boot.ledger = s.boot.ledger ++ [r]
      ∧ bitsOf (wordAt r 0) 63 60 = op ∧ bitsOf (wordAt r 0) 59 56 = kind ∧ bitsOf (wordAt r 0) 55 40 = unit := by
  unfold appendLedger
  extract_lets n seq w0 r s1
  rw [if_neg (by omega)]
  refine ⟨r, rfl, ?_⟩
  have hw : wordAt r 0 = w0 := rfl
  rw [hw]
  simp only [w0, bitsOf_or, bitsOf_bitsAt_same _ (show 63 < 64 by decide), bitsOf_bitsAt_same _ (show 59 < 64 by decide),
    bitsOf_bitsAt_same _ (show 55 < 64 by decide), bitsOf_bitsAt_other, show (59 : Nat) < 60 by decide,
    show (55 : Nat) < 60 by decide, show (39 : Nat) < 60 by decide, show (31 : Nat) < 60 by decide,
    show (55 : Nat) < 56 by decide, show (39 : Nat) < 56 by decide, show (31 : Nat) < 56 by decide,
    show (39 : Nat) < 40 by decide, show (31 : Nat) < 40 by decide, true_or, or_true, Nat.or_zero, Nat.zero_or]
  exact ⟨Nat.mod_eq_of_lt hop, Nat.mod_eq_of_lt hk, Nat.mod_eq_of_lt hu⟩

theorem appendLedger_full {s : State} (op kind unit reason last : Nat) (h : 1024 ≤ s.boot.ledger.length) :
    (appendLedger s op kind unit reason last).1 = event s 0x0F07 srcDevice 0xFFF {} := by
  unfold appendLedger
  rw [if_pos h]

/-! ## The commands -/

theorem fltEffect_range {s : State} {op kind u : Nat} (h : unitCount kind ≤ u) :
    fltEffect s op kind u = (s, fltUnitRange) := if_pos (by simp [h])

theorem fltEffect_kind {s : State} {kind u : Nat} (h : kind ≠ 1) : fltEffect s 3 kind u = (s, fltUnitRange) :=
  if_pos (by simp [h, ukCore])

theorem fltEffect_retire {s : State} {kind u : Nat} (h : u < unitCount kind) : fltEffect s 1 kind u =
    if unitRetired s kind u then (s, fltState)
    else (settle (retireUnit s kind u), if decide (1024 ≤ s.boot.ledger.length) then fltLedgerFull else 0) :=
  if_neg (by simp [h])

theorem fltEffect_reinstate {s : State} {kind u : Nat} (h : u < unitCount kind) : fltEffect s 2 kind u =
    if unitRetired s kind u then
      ((appendLedger s 2 kind u 0 0).1, if decide (1024 ≤ s.boot.ledger.length) then fltLedgerFull else 0)
    else (s, fltState) :=
  if_neg (by simp [h])

theorem fltEffect_query {s : State} {kind u : Nat} (h : u < unitCount kind) : fltEffect s 4 kind u = (s, 0) :=
  if_neg (by simp [h])

theorem fltEffect_test {s : State} {u : Nat} (h : u < 108) : fltEffect s 3 1 u
    = ({ s with cores := { s.cores with testNext := tset 0 s.cores.testNext (u / 9) (u + 1) } }, 0) :=
  if_neg (by simp [unitCount, ukCore, h])

section
variable {s : State} (path : Nat) {kind u : Nat} (h : manageable s) (h1 : 1 ≤ kind) (h4 : kind ≤ 4) (hu : u < 65536)
include h h1 h4 hu

theorem testNow_marks (hk : kind = 1) (hlt : u < 108) : ∃ t, exec (.testNow path kind u) s = .next t
    ∧ (rdf t aFltStat 63 56 = 0 ∧ rdf t aFltStat 19 16 = kind ∧ rdf t aFltStat 15 0 = u)
    ∧ tget 0 t.cores.testNext (u / 9) = u + 1
    ∧ (∀ n, n ≠ u / 9 → tget 0 t.cores.testNext n = tget 0 s.cores.testNext n)
    ∧ t.cores = { s.cores with testNext := t.cores.testNext }
    ∧ touchesOnly [.cores, .recorder] 0xA000_0000 [] s t := by
  obtain ⟨v, hv, hrow⟩ := fltRow_shows path h h1 h4 hu (show 1 ≤ 3 by decide) (by decide)
  have hc : ∀ x : State, (fltReport x kind u 0).cores = x.cores := fun x => wr_cores x _ _
  subst hk
  refine ⟨_, congrArg Host.Outcome.next (hrow _ 0 (fltEffect_test hlt)), fltReport_shows _ (by decide) (by decide) hu, ?_,
    fun n hn => ?_, ?_, ?_⟩
  · rw [hc]
    exact (tget_tset_same 0 v.cores.testNext (u / 9) (u + 1) :)
  · rw [hc, ← hv.cores]
    exact (tget_tset_other 0 0 v.cores.testNext (u + 1) hn :)
  · rw [hc, ← hv.cores]
  · refine touchesOnly.wr ((hv.low [.cores, .recorder]).upd 16 rfl (by decide)) (.inr ?_)
    decide

theorem retire_settles (hlt : u < unitCount kind) (hr : unitRetired s kind u = false) (hl : s.boot.ledger.length < 1024) :
    ∃ v, touchesOnly [] (2 ^ 64) [aFltCmd] s v
      ∧ exec (.retire path kind u) s = .next (captureWrite
        (wr (settle (retireUnit v kind u)) aFltStat (bitsAt 63 56 0 ||| bitsAt 19 16 kind ||| bitsAt 15 0 u))
        aFltCmd (fltCmdWord 1 kind u)) := by
  obtain ⟨v, hv, hrow⟩ := fltRow_shows path h h1 h4 hu (le_refl 1) (by decide)
  refine ⟨v, hv.frame, (congrArg Host.Outcome.next (hrow _ 0 ?_)).trans
    (congrArg Host.Outcome.next (captureWrite_untabled _ (by decide)).symm)⟩
  rw [fltEffect_retire hlt, hv.retired, hr, hv.boot, decide_eq_false (by omega)]
  rfl

theorem reinstate_records (hlt : u < unitCount kind) (hr : unitRetired s kind u = true) (hl : s.boot.ledger.length < 1024) :
    ∃ t r, exec (.reinstate path kind u) s = .next t
      ∧ (rdf t aFltStat 63 56 = 0 ∧ rdf t aFltStat 19 16 = kind ∧ rdf t aFltStat 15 0 = u)
      ∧ t.boot.ledger = s.boot.ledger ++ [r] ∧ bitsOf (wordAt r 0) 63 60 = 2
      ∧ bitsOf (wordAt r 0) 59 56 = kind ∧ bitsOf (wordAt r 0) 55 40 = u
      ∧ touchesOnly [.queuedWork, .recorder] 0xA000_0000 [] s t := by
  obtain ⟨v, hv, hrow⟩ := fltRow_shows path h h1 h4 hu (show 1 ≤ 2 by decide) (by decide)
  obtain ⟨r, hled, hbits⟩ := appendLedger_records (s := v) 2 0 0 (by rw [hv.boot]; exact hl) (by decide)
    (show kind < 16 by omega) hu
  have heff : fltEffect v 2 kind u = ((appendLedger v 2 kind u 0 0).1, 0) := by
    rw [fltEffect_reinstate hlt, hv.retired, hr, hv.boot, decide_eq_false (by omega)]
    rfl
  have hb : ∀ x : State, (fltReport x kind u 0).boot = x.boot := fun x => wr_boot x _ _
  refine ⟨_, r, congrArg Host.Outcome.next (hrow _ 0 heff), fltReport_shows _ (by decide) (by omega) hu,
    ?_, hbits.1, hbits.2.1, hbits.2.2, ?_⟩
  · rw [hb, hled, hv.boot]
  · exact (touchesOnly.keeps (m := 134218752) (k := 9) (hv.low [.queuedWork, .recorder])
      (appendLedger_keeps rfl (.refl _ v)) (by decide) (by decide)).wr (.inr (by decide))

theorem reinstate_full (hlt : u < unitCount kind) (hr : unitRetired s kind u = true) (hl : 1024 ≤ s.boot.ledger.length) :
    ∃ t, exec (.reinstate path kind u) s = .next t
      ∧ (rdf t aFltStat 63 56 = 0x82 ∧ rdf t aFltStat 19 16 = kind ∧ rdf t aFltStat 15 0 = u) ∧ t.boot = s.boot
      ∧ touchesOnly [.recorder] 0xA000_0000 [] s t := by
  obtain ⟨v, hv, hrow⟩ := fltRow_shows path h h1 h4 hu (show 1 ≤ 2 by decide) (by decide)
  have heff : fltEffect v 2 kind u = (event v 0x0F07 srcDevice 0xFFF {}, fltLedgerFull) := by
    rw [fltEffect_reinstate hlt, hv.retired, hr, appendLedger_full _ _ _ _ _ (by rw [hv.boot]; exact hl), hv.boot,
      decide_eq_true hl]
    rfl
  have hev := event_keeps (m := 134217728) (x2 := 0x0F07) (x3 := srcDevice) (x4 := 0xFFF) (x5 := {}) rfl (.refl _ v)
  have hb : ∀ (x : State) (c : Nat), (fltReport x kind u c).boot = x.boot := fun x c => wr_boot x _ _
  refine ⟨_, congrArg Host.Outcome.next (hrow _ fltLedgerFull heff), fltReport_shows _ (by decide) (by omega) hu, ?_, ?_⟩
  · rw [hb, hev.bootState rfl rfl, hv.boot]
  · exact (touchesOnly.keeps (m := 134217728) (k := 9) (hv.low [.recorder]) hev rfl rfl).wr (.inr (by decide))

end

/-- Settles O44: each command is its word stored, one effect and the report in FLT_STAT. -/
theorem faultCommands : Obligations.FaultCommands := by
  intro s path kind u h h1 h4 hu
  refine ⟨fun c hc hle => ?_, fun hk => ?_, fun hlt => ?_, testNow_marks path h h1 h4 hu, fun hlt hr => ?_,
    fun hlt hr => ?_, retire_settles path h h1 h4 hu, reinstate_records path h h1 h4 hu, reinstate_full path h h1 h4 hu⟩
  · have hop : ∃ op, 1 ≤ op ∧ op ≤ 4 ∧ exec c s = .next (fltRow s path op kind u) := by
      simp only [List.mem_cons, List.not_mem_nil, or_false] at hc
      rcases hc with rfl | rfl | rfl | rfl
      · exact ⟨1, by decide, by decide, rfl⟩
      · exact ⟨2, by decide, by decide, rfl⟩
      · exact ⟨3, by decide, by decide, rfl⟩
      · exact ⟨4, by decide, by decide, rfl⟩
    obtain ⟨op, ho1, ho4, hx⟩ := hop
    exact fltRow_quiet path h h1 h4 hu ho1 ho4 (by decide) hx fun v _ => fltEffect_range hle
  · exact fltRow_quiet path h h1 h4 hu (op := 3) (by decide) (by decide) (by decide) rfl fun v _ => fltEffect_kind hk
  · exact fltRow_quiet path h h1 h4 hu (op := 4) (by decide) (by decide) (by decide) rfl fun v _ => fltEffect_query hlt
  · refine fltRow_quiet path h h1 h4 hu (op := 1) (by decide) (by decide) (by decide) rfl fun v hv => ?_
    rw [fltEffect_retire hlt, hv.retired, hr]
    rfl
  · refine fltRow_quiet path h h1 h4 hu (op := 2) (by decide) (by decide) (by decide) rfl fun v hv => ?_
    rw [fltEffect_reinstate hlt, hv.retired, hr]
    rfl

end Sys2Proof.Machine
end

section
/-! PROOFS. The commands of SEC_CMD (R413, R414, R417, R426, R427). -/

namespace Sys2Proof.Machine

open Sys2Proof

/-! ## What a command reads -/

/-- The command word is stored: all else is as before. -/
structure SecStored (s v : State) : Prop where
  boot : v.boot = s.boot
  cores : v.cores = s.cores
  reg : ∀ a, a ≠ aSecCmd → rd v a = rd s a
  frame : touchesOnly [] (2 ^ 64) [aSecCmd] s v
  word : ∃ w, v = wr s aSecCmd w

theorem secStored_wr (s : State) (w : Word) : SecStored s (wr s aSecCmd w) :=
  ⟨wr_boot s _ w, wr_cores s _ w, fun _ h => rd_wr_other h, (touchesOnly.refl _ _ _ s).wr (.inl (by simp)), w, rfl⟩

theorem SecStored.busy {s v : State} (h : SecStored s v) : secBusy v = secBusy s := rdf_congr (h.reg _ (by decide))

theorem SecStored.ready {s v : State} (h : SecStored s v) : isReady v = isReady s := by
  rw [isReady, rdf_congr (h.reg aBoot (by decide)), isReady]

theorem SecStored.lanes {s v : State} (h : SecStored s v) : lanesUp v = lanesUp s := by
  have hlane : ∀ l, laneState v l = laneState s l := fun l => rdf_congr (h.reg _ (by
    unfold aLaneStat aPrt aSecCmd
    omega))
  unfold lanesUp laneHeld
  simp only [hlane, h.cores]

theorem SecStored.chosen {s v : State} (h : SecStored s v) : Machine.chosen v = Machine.chosen s := by
  unfold Machine.chosen copyAt copyInUse
  rw [h.boot, rdf_congr (h.reg aBoot (by decide))]

theorem SecStored.quote {s v : State} (h : SecStored s v) : quoteBody v = quoteBody s := by
  have hboot : ∀ hi lo, rdf v aBoot hi lo = rdf s aBoot hi lo := fun _ _ => rdf_congr (h.reg _ (by decide))
  have hfuse : fusedCount v = fusedCount s := rdf_congr (h.reg _ (by decide))
  have hepoch : rdf v aEpoch 63 32 = rdf s aEpoch 63 32 := rdf_congr (h.reg _ (by decide))
  have hcap : capWord v = capWord s := by rw [capWord, h.reg aCapAvail (by decide), h.ready, h.lanes, capWord]
  have hnonce : (List.range 4).map (fun i => rd v (aSecNonce i)) = (List.range 4).map (fun i => rd s (aSecNonce i)) :=
    List.map_congr_left fun i hi => h.reg _ (by
      have := List.mem_range.mp hi
      unfold aSecNonce aSecCmd
      omega)
  have hchain : chainOf v = chainOf s := by
    funext c
    rw [chainOf, h.boot, chainOf]
  unfold quoteBody copyInUse deviceId
  rw [hboot, hboot, hboot, hfuse, h.chosen, hepoch, h.reg aStrap (by decide), hcap, hnonce, hchain, h.boot]

theorem SecStored.grant {s v : State} (h : SecStored s v) (op slot : Nat) : grantFault v op slot = grantFault s op slot := by
  have hgood : slotGood v = slotGood s := by
    funext k
    rw [slotGood, slotValid, slotRevoked, rdb_congr (h.reg aFuse (by decide)), rdb_congr (h.reg aFuse (by decide)),
      slotGood, slotValid, slotRevoked]
  have hvalid : slotValid v slot = slotValid s slot := rdb_congr (h.reg aFuse (by decide))
  have hepoch : rdf v aEpoch 63 32 = rdf s aEpoch 63 32 := rdf_congr (h.reg _ (by decide))
  unfold grantFault grantBad hashFits hashBytes grantBytes grantByte
  rw [hgood, hvalid, hepoch, h.boot]

/-! ## The command row -/

/-- The command word of SEC_CMD. -/
def secCmdWord (op slot : Nat) : Word := bitsAt 63 60 op ||| bitsAt 59 58 slot

theorem bitsOf_secCmdWord {op slot : Nat} (hop : op < 16) (hs : slot < 4) :
    bitsOf (secCmdWord op slot) 63 60 = op ∧ bitsOf (secCmdWord op slot) 59 58 = slot
      ∧ bitsOf (secCmdWord op slot) 57 0 = 0 := by
  simp only [secCmdWord, bitsOf_or, bitsOf_bitsAt_same _ (show 63 < 64 by decide),
    bitsOf_bitsAt_same _ (show 59 < 64 by decide), bitsOf_bitsAt_other, show (59 : Nat) < 60 by decide,
    show (57 : Nat) < 60 by decide, show (57 : Nat) < 58 by decide, true_or, or_true, Nat.or_zero, Nat.zero_or]
  exact ⟨Nat.mod_eq_of_lt hop, Nat.mod_eq_of_lt hs, trivial⟩

/-- A command of SEC_CMD on a managed device: its word is stored and it runs; an accepted one is captured. -/
theorem secRow_shows {s : State} (path : Nat) {op slot : Nat} (h : manageable s) (h1 : 1 ≤ op) (h4 : op ≤ 4)
    (hs : slot < 4) : ∃ v, SecStored s v ∧ ∀ x code, secCommand v path op slot = (x, code) →
      secRow s path op slot = if code = 0 then captureWrite x aSecCmd (secCmdWord op slot) else x := by
  obtain ⟨hop, hslot, hres⟩ := bitsOf_secCmdWord (show op < 16 by omega) hs
  have hrsv : touchesReserved secCmdFields (secCmdWord op slot) = false := by
    simp [touchesReserved, secCmdFields, rsv, wo, hres]
  have hrange : outOfRange secCmdFields (secCmdWord op slot) = false := by
    simp [outOfRange, secCmdFields, rsv, wo, hop, h1, h4]
  refine ⟨_, secStored_wr s (mergedWord (!s.mg.rw1.contains aSecCmd) secCmdFields (rd s aSecCmd) (secCmdWord op slot)),
    fun x code hx => ?_⟩
  have hrow : secRow s path op slot = mgApply s aSecCmd (secCmdWord op slot) fun s =>
      cmdWrite s path aSecCmd secCmdFields (secCmdWord op slot) fun s =>
        secCommand s path (bitsOf (secCmdWord op slot) 63 60) (bitsOf (secCmdWord op slot) 59 58) := rfl
  rw [hrow, hop, hslot]
  split
  · next hc =>
    rw [hc] at hx
    exact cmdRow_ok h rfl hrsv hrange rfl hx
  · next hc => exact cmdRow_refused h rfl hrsv hrange rfl hc hx

/-! ## SEC_STAT -/

theorem setSecResult_shows (s : State) {code : Nat} (h : code < 256) : rdf (setSecResult s code) aSecStat 63 56 = code
    ∧ rdf (setSecResult s code) aSecStat 55 0 = rdf s aSecStat 55 0 :=
  ⟨rdf_wrf_fits _ _ (by decide) h, rdf_wrf_field _ _ _ (.inl (by decide))⟩

/-- SEC_STAT of a command that begins. -/
theorem secBegun_shows (s : State) {busy : Nat} (h : busy < 4) :
    rdf (setSecBusy (setSecResult s 0) busy) aSecStat 63 56 = 0
    ∧ rdf (setSecBusy (setSecResult s 0) busy) aSecStat 55 54 = busy
    ∧ rdf (setSecBusy (setSecResult s 0) busy) aSecStat 53 0 = rdf s aSecStat 53 0 :=
  ⟨(rdf_wrf_field _ _ _ (.inr (by decide))).trans (rdf_wrf_fits _ _ (by decide) (by decide)),
    rdf_wrf_fits _ _ (by decide) h, (rdf_wrf_field _ _ _ (.inl (by decide))).trans (rdf_wrf_field _ _ _ (.inl (by decide)))⟩

theorem copyFault_lt (s : State) (c : SeedCopy) : copyFault s c < 256 := by
  unfold copyFault
  split
  · decide
  · split
    · decide
    · split
      · decide
      · split
        · decide
        · split
          · decide
          · split <;> decide

theorem grantFault_lt (s : State) (op slot : Nat) : grantFault s op slot < 256 := by
  unfold grantFault
  dsimp only
  split
  · decide
  · split
    · decide
    · split
      · decide
      · split <;> decide

/-! ## What a command does -/

/-- The rows of SEC_CMD with their operations. -/
def secRows (path slot : Nat) : List (Instr × Nat) :=
  [(Instr.quote path, 1), (Instr.verifyCopy path, 2), (Instr.programSlot path slot, 3), (Instr.revokeSlot path slot, 4)]

/-- Each row is a command of its operation; the slot is named by the slot changes alone. -/
theorem secRows_exec {path slot : Nat} {row : Instr × Nat} (s : State) (hr : row ∈ secRows path slot) (hs : slot < 4) :
    1 ≤ row.2 ∧ row.2 ≤ 4
      ∧ ∃ k, k < 4 ∧ (3 ≤ row.2 → k = slot) ∧ exec row.1 s = .next (secRow s path row.2 k) := by
  simp only [secRows, List.mem_cons, List.not_mem_nil, or_false] at hr
  rcases hr with rfl | rfl | rfl | rfl
  · exact ⟨by simp, by simp, 0, by decide, by simp, rfl⟩
  · exact ⟨by simp, by simp, 0, by decide, by simp, rfl⟩
  · exact ⟨by simp, by simp, slot, hs, fun _ => rfl, rfl⟩
  · exact ⟨by simp, by simp, slot, hs, fun _ => rfl, rfl⟩

theorem secCommand_noRight {s : State} {path op slot : Nat} (hp : path ≠ 0) (h3 : 3 ≤ op) :
    secCommand s path op slot = (setSecResult s srNoRight, srNoRight) := if_pos (by simp [hp, h3])

theorem secCommand_busy {s : State} {path op slot : Nat} (hp : op < 3 ∨ path = 0) (hb : secBusy s ≠ 0) :
    secCommand s path op slot = (setSecResult s srSecBusy, srSecBusy) :=
  (if_neg (by rcases hp with h | h <;> simp [h])).trans (if_pos hb)

theorem secCommand_early {s : State} {path op slot : Nat} (hp : op < 3 ∨ path = 0) (hb : secBusy s = 0)
    (hr : isReady s = false) : secCommand s path op slot = (setSecResult s srNotReady, srNotReady) :=
  (if_neg (by rcases hp with h | h <;> simp [h])).trans ((if_neg (not_not.mpr hb)).trans (if_pos (by simp [hr])))

/-- The body of a quote is kept while it is signed. -/
def bodyKept (s : State) (q : List Byte) : State := { s with boot := { s.boot with quoteWork := q } }

/-- What an accepted command begins. -/
def secBegin (s : State) (op slot : Nat) : State × Nat :=
  match op with
  | 1 => (setSecBusy (setSecResult (bodyKept s (quoteBody s)) 0) 1, 0)
  | 2 => (setSecBusy (setSecResult s 0) 2, 0)
  | _ => beginSlot s op slot

theorem bodyKept_of {s v : State} (h : v.boot = s.boot) (q : List Byte) :
    bodyKept v q = { v with boot := { s.boot with quoteWork := q } } := by
  rw [bodyKept, h]

theorem secBegin_one (s : State) (slot : Nat) :
    secBegin s 1 slot = (setSecBusy (setSecResult (bodyKept s (quoteBody s)) 0) 1, 0) := rfl

theorem secCommand_runs {s : State} {path op slot : Nat} (hp : op < 3 ∨ path = 0) (hb : secBusy s = 0)
    (hr : isReady s = true) : secCommand s path op slot = secBegin s op slot :=
  (if_neg (by rcases hp with h | h <;> simp [h])).trans
    ((if_neg (not_not.mpr hb)).trans (if_neg (show ¬ (!isReady s) = true by simp [hr])))

theorem secBegin_two (s : State) (slot : Nat) : secBegin s 2 slot = (setSecBusy (setSecResult s 0) 2, 0) := rfl

theorem boot_restored {s : State} {b : Boot} (h : s.boot = b) : { s with boot := b } = s := by
  subst h
  rfl

theorem secBegin_quote {s v : State} {slot : Nat} (h : SecStored s v) {q : List Byte} (hq : quoteBody s = q) :
    secBegin v 1 slot = (setSecBusy (setSecResult { v with boot := { s.boot with quoteWork := q } } 0) 1, 0) := by
  rw [secBegin_one, h.quote, hq, bodyKept_of h.boot]

theorem secBegin_slot {s : State} {op slot : Nat} (h3 : 3 ≤ op) : secBegin s op slot = beginSlot s op slot := by
  unfold secBegin
  split
  · omega
  · omega
  · rfl

theorem beginSlot_refused {s : State} {op slot : Nat} (h : grantFault s op slot ≠ 0) :
    beginSlot s op slot = (setSecResult s (grantFault s op slot), grantFault s op slot) := if_pos h

theorem beginSlot_begins {s : State} {op slot : Nat} (h : grantFault s op slot = 0) :
    beginSlot s op slot = (setSecBusy (setSecResult { s with boot := { s.boot with
      fuseWork := some (op, slot), fuseHash := if op = 3 then grantBytes s 16 32 else [] } } 0) 3, 0) :=
  if_neg (not_not.mpr h)

section
variable {s : State} {path : Nat} (h : manageable s)
include h

/-- A refused command changes nothing but its word and RESULT. -/
theorem secRow_refused {c : Instr} {op k code : Nat} (h1 : 1 ≤ op) (h4 : op ≤ 4) (hk : k < 4) (hc : code < 256)
    (hne : code ≠ 0) (hx : exec c s = .next (secRow s path op k))
    (hcmd : ∀ v, SecStored s v → secCommand v path op k = (setSecResult v code, code)) :
    ∃ t, exec c s = .next t ∧ rdf t aSecStat 63 56 = code ∧ rdf t aSecStat 55 0 = rdf s aSecStat 55 0
      ∧ touchesOnly [] (2 ^ 64) [aSecCmd, aSecStat] s t := by
  obtain ⟨v, hv, hrow⟩ := secRow_shows path h h1 h4 hk
  obtain ⟨hres, hrest⟩ := setSecResult_shows v hc
  exact ⟨_, hx.trans (congrArg Host.Outcome.next ((hrow _ code (hcmd v hv)).trans (if_neg hne))), hres,
    hrest.trans (rdf_congr (hv.reg _ (by decide))), (hv.frame.mono (by simp) le_rfl (by simp)).wrf (.inl (by simp))⟩

/-- A command that begins: BUSY names it, and the start state holds its work. -/
theorem secRow_begins {c : Instr} {op k busy : Nat} {b : Boot} (h1 : 1 ≤ op) (h4 : op ≤ 4) (hk : k < 4) (hb : busy < 4)
    (hf : touchesOnly [.startState, .recorder] 0xA000_0000 [aSecCmd, aSecStat] s { s with boot := b })
    (hx : exec c s = .next (secRow s path op k))
    (hcmd : ∀ v, SecStored s v →
      secCommand v path op k = (setSecBusy (setSecResult { v with boot := b } 0) busy, 0)) :
    ∃ t, exec c s = .next t ∧ rdf t aSecStat 63 56 = 0 ∧ rdf t aSecStat 55 54 = busy
      ∧ rdf t aSecStat 53 0 = rdf s aSecStat 53 0 ∧ t.boot = b
      ∧ touchesOnly [.startState, .recorder] 0xA000_0000 [aSecCmd, aSecStat] s t := by
  obtain ⟨v, hv, hrow⟩ := secRow_shows path h h1 h4 hk
  obtain ⟨hres, hbusy, hrest⟩ := secBegun_shows { v with boot := b } hb
  have hstored : touchesOnly [.startState, .recorder] 0xA000_0000 [aSecCmd, aSecStat] s { v with boot := b } := by
    obtain ⟨w, rfl⟩ := hv.word
    exact hf.wr (w := w) (.inl (by simp))
  have hset : ∀ y : State, (setSecBusy (setSecResult y 0) busy).boot = y.boot := fun y =>
    (wr_boot _ _ _).trans (wr_boot _ _ _)
  have hcap := captureWrite_keeps (m := 167772416) (x2 := aSecCmd) (x3 := secCmdWord op k) rfl
    (.refl _ (setSecBusy (setSecResult { v with boot := b } 0) busy))
  have hstat : rd (captureWrite (setSecBusy (setSecResult { v with boot := b } 0) busy) aSecCmd (secCmdWord op k)) aSecStat
      = rd (setSecBusy (setSecResult { v with boot := b } 0) busy) aSecStat := rd_captureWrite (by decide)
  refine ⟨_, hx.trans (congrArg Host.Outcome.next ((hrow _ 0 (hcmd v hv)).trans (if_pos rfl))),
    (rdf_congr hstat).trans hres, (rdf_congr hstat).trans hbusy,
    (rdf_congr hstat).trans (hrest.trans (rdf_congr (hv.reg aSecStat (by decide)))),
    (hcap.bootState rfl rfl).trans (hset _), ?_⟩
  exact captureWrite_touches ((hstored.wrf (.inl (by simp))).wrf (.inl (by simp))) (by simp) le_rfl

end

/-- The state with the command's work begun. -/
theorem secWork_touches (s : State) (q : List Byte) (w : Option (Nat × Nat)) (hash : List Byte) :
    touchesOnly [.startState, .recorder] 0xA000_0000 [aSecCmd, aSecStat] s
      { s with boot := { s.boot with quoteWork := q, fuseWork := w, fuseHash := hash } } :=
  (touchesOnly.refl [.startState, .recorder] 0xA000_0000 [aSecCmd, aSecStat] s).upd 32768 rfl (by decide)

/-- Settles O45: a command is refused with the first reason that holds, or begins with BUSY and its work noted. -/
theorem securityCommands : Obligations.SecurityCommands := by
  intro s path slot h hslot
  dsimp only
  refine ⟨fun row hr h3 hp => ?_, fun row hr hp hb => ?_, fun row hr hp hb hn => ?_, fun hb hr => ⟨?_, ?_⟩,
    fun row hr h3 hp hb hready => ⟨fun hne => ?_, fun h0 => ?_⟩⟩
  · obtain ⟨h1, h4, k, hk, -, hx⟩ := secRows_exec s hr hslot
    exact secRow_refused h h1 h4 hk (by decide) (by decide) hx fun v _ => secCommand_noRight hp h3
  · obtain ⟨h1, h4, k, hk, -, hx⟩ := secRows_exec s hr hslot
    exact secRow_refused h h1 h4 hk (by decide) (by decide) hx fun v hv => secCommand_busy hp (by rw [hv.busy]; exact hb)
  · obtain ⟨h1, h4, k, hk, -, hx⟩ := secRows_exec s hr hslot
    exact secRow_refused h h1 h4 hk (by decide) (by decide) hx fun v hv =>
      secCommand_early hp (hv.busy.trans hb) (hv.ready.trans hn)
  · generalize hq : quoteBody s = q
    refine secRow_begins h (op := 1) (k := 0) (by decide) (by decide) (by decide) (by decide)
      (secWork_touches s q s.boot.fuseWork s.boot.fuseHash) rfl fun v hv => ?_
    exact (secCommand_runs (.inl (by decide)) (hv.busy.trans hb) (hv.ready.trans hr)).trans (secBegin_quote hv hq)
  · refine secRow_begins h (op := 2) (k := 0) (b := s.boot) (by decide) (by decide) (by decide) (by decide)
      (touchesOnly.refl _ _ _ s) rfl fun v hv => ?_
    refine (secCommand_runs (.inl (by decide)) (hv.busy.trans hb) (hv.ready.trans hr)).trans ?_
    rw [secBegin_two, boot_restored hv.boot]
  · obtain ⟨h1, h4, k, hk, hsame, hx⟩ := secRows_exec s hr hslot
    rw [hsame h3] at hx
    refine secRow_refused h h1 h4 hslot (grantFault_lt s _ _) hne hx fun v hv => ?_
    rw [secCommand_runs (.inr hp) (hv.busy.trans hb) (hv.ready.trans hready), secBegin_slot h3,
      beginSlot_refused (by rw [hv.grant]; exact hne), hv.grant]
  · obtain ⟨h1, h4, k, hk, hsame, hx⟩ := secRows_exec s hr hslot
    rw [hsame h3] at hx
    refine secRow_begins h h1 h4 hslot (by decide) (secWork_touches s s.boot.quoteWork (some (row.2, slot))
      (if row.2 = 3 then grantBytes s 16 32 else [])) hx fun v hv => ?_
    have hbytes : grantBytes v 16 32 = grantBytes s 16 32 := by
      unfold grantBytes grantByte
      rw [hv.boot]
    rw [secCommand_runs (.inr hp) (hv.busy.trans hb) (hv.ready.trans hready), secBegin_slot h3,
      beginSlot_begins (by rw [hv.grant]; exact h0), hbytes, hv.boot]

end Sys2Proof.Machine
end

section
/-! PROOFS. Ends of quotes, checks and slot changes, and the flashes' jobs (R409 to R417, R439). -/

namespace Sys2Proof.Machine

open Sys2Proof

/-! ## A command ends -/

theorem secDone_shows (s : State) {code : Nat} (h : code < 256) : rdf (secDone s code) aSecStat 63 56 = code
    ∧ rdf (secDone s code) aSecStat 55 54 = 0 ∧ rdf (secDone s code) aSecStat 53 0 = rdf s aSecStat 53 0 :=
  ⟨(rdf_wrf_field _ _ _ (.inr (by decide))).trans (rdf_wrf_fits _ _ (by decide) h),
    rdf_wrf_fits _ _ (by decide) (by decide),
    (rdf_wrf_field _ _ _ (.inl (by decide))).trans (rdf_wrf_field _ _ _ (.inl (by decide)))⟩

theorem secDone_boot (s : State) (code : Nat) : (secDone s code).boot = s.boot := (wr_boot _ _ _).trans (wr_boot _ _ _)

theorem secDone_touches {ps : List Part} {b : Nat} {as : List Nat} {r s : State} (code : Nat)
    (h : touchesOnly ps b as r s) (hm : aSecStat ∈ as) : touchesOnly ps b as r (secDone s code) :=
  (h.wrf (.inl hm)).wrf (.inl hm)

/-- RESULT and BUSY read together. -/
theorem rdf_secDone_zero (s : State) : rdf (secDone s 0) aSecStat 63 54 = 0 := by
  obtain ⟨h1, h2, -⟩ := secDone_shows s (code := 0) (by decide)
  exact bitsOf_split (w := 0) (mid := 55) (by decide) (by decide) h1 h2

/-! ## Quotes and copy checks -/

theorem quoteDone_idle {s : State} (sig : List Byte) (h : secBusy s ≠ 1) : exec (.quoteDone sig) s = .next s := if_pos h

theorem quoteDone_shows {s : State} (sig : List Byte) (h : secBusy s = 1) : ∃ t, exec (.quoteDone sig) s = .next t
    ∧ t.boot = { s.boot with quote := padTo 392 s.boot.quoteWork ++ padTo 29792 sig, quoteWork := [] }
    ∧ rdf t aSecStat 63 54 = 0 ∧ rdf t aSecStat 31 0 = (rdf s aSecStat 31 0 + 1) % 2 ^ 32
    ∧ touchesOnly [.startState] (2 ^ 64) [aSecStat] s t := by
  generalize hq : padTo 392 s.boot.quoteWork ++ padTo 29792 sig = q
  have hv : ∃ v, exec (.quoteDone sig) s = .next (bumpMod (secDone v 0) aSecStat 31 0 1)
      ∧ v.boot = { s.boot with quote := q, quoteWork := [] } ∧ (∀ a, rd v a = rd s a)
      ∧ touchesOnly [.startState] (2 ^ 64) [aSecStat] s v := by
    refine ⟨{ s with boot := { s.boot with quote := q, quoteWork := [] } }, (if_neg (not_not.mpr h)).trans ?_, rfl,
      fun _ => rfl, (touchesOnly.refl _ _ _ s).upd 32768 rfl (by decide)⟩
    rw [hq]
  obtain ⟨v, hx, hboot, hrd, hf⟩ := hv
  refine ⟨_, hx, (wr_boot _ _ _).trans ((secDone_boot v 0).trans hboot),
    (rdf_wrf_field _ _ _ (.inr (by decide))).trans (rdf_secDone_zero v), ?_, (secDone_touches 0 hf (by simp)).wrf (.inl (by simp))⟩
  have hold : rdf (secDone v 0) aSecStat 31 0 = rdf s aSecStat 31 0 :=
    (rdf_wrf_field _ _ _ (.inl (by decide))).trans ((rdf_wrf_field _ _ _ (.inl (by decide))).trans (rdf_congr (hrd _)))
  rw [bumpMod, rdf_wrf_same _ _ _ (by decide), hold]

theorem verifyCopyDone_idle {s : State} (copy : SeedCopy) (bad : Option Nat) (h : secBusy s ≠ 2) :
    exec (.verifyCopyDone copy bad) s = .next s := if_pos h

theorem verifyCopyDone_shows {s : State} (copy : SeedCopy) (bad : Option Nat) (h : secBusy s = 2) :
    ∃ t, exec (.verifyCopyDone copy bad) s = .next t
      ∧ rdf t aSecStat 55 54 = 0 ∧ rdf t aSecStat 53 0 = rdf s aSecStat 53 0
      ∧ rdf t aSecStat 63 56 = (if copyFault s copy = jrOk ∧ bad.isSome then jrSectionDigest
        else copyFault s copy)
      ∧ touchesOnly [] (2 ^ 64) [aSecStat] s t := by
  have hlt : (if copyFault s copy = jrOk ∧ bad.isSome then jrSectionDigest else copyFault s copy) < 256 := by
    split
    · decide
    · exact copyFault_lt s copy
  obtain ⟨h1, h2, h3⟩ := secDone_shows s hlt
  refine ⟨_, (if_neg (not_not.mpr h)).trans ?_, h2, h3, h1, secDone_touches _ (touchesOnly.refl _ _ _ s) (by simp)⟩
  simp only [Bool.and_eq_true, decide_eq_true_eq]

/-! ## Slot changes -/

/-- The fuse of VALID or of REVOKED that a slot change blows. -/
def slotFuse (op slot : Nat) : Nat := if op = 3 then 53 + slot else 49 + slot

/-- The hashes after a slot change. -/
def slotHashed (s : State) (op slot : Nat) : Tbl (List Byte) :=
  if op = 3 then setHash s.boot.slotHashes slot s.boot.fuseHash else s.boot.slotHashes

theorem hashBytes_congr {s t : State} {k : Nat} (h : tget [] t.boot.slotHashes k = tget [] s.boot.slotHashes k) :
    hashBytes t k = hashBytes s k := congrArg (padTo 32) h

/-- A slot change ends: one fuse is blown, the hashes are the work's, and no work is left. -/
theorem slotFusesDone_shows {s : State} {op slot : Nat} (hs : slot < 4)
    (h : s.boot.fuseWork = some (op, slot)) : ∃ t, exec .slotFusesDone s = .next t
      ∧ rdb t aFuse (slotFuse op slot) = true
      ∧ (∀ k, k ≠ slotFuse op slot → rdb t aFuse k = rdb s aFuse k)
      ∧ t.boot.slotHashes = slotHashed s op slot
      ∧ rdf t aSecStat 63 54 = 0 ∧ touchesOnly [.startState] (2 ^ 64) [aFuse, aSecStat] s t := by
  have hv : ∃ v, exec .slotFusesDone s = .next (secDone (wrf v aFuse (slotFuse op slot) (slotFuse op slot) 1) 0)
      ∧ v.boot.slotHashes = slotHashed s op slot ∧ (∀ a, rd v a = rd s a)
      ∧ touchesOnly [.startState] (2 ^ 64) [aFuse, aSecStat] s v := by
    refine ⟨{ s with boot := { s.boot with slotHashes := slotHashed s op slot, fuseWork := none, fuseHash := [] } }, ?_, rfl,
      fun _ => rfl, (touchesOnly.refl _ _ _ s).upd 32768 rfl (by decide)⟩
    rw [exec_slotFusesDone, execSlotFusesDone, h]
    rfl
  obtain ⟨v, hx, hhash, hrd, hf⟩ := hv
  have hfuse : ∀ y : State, rd (secDone y 0) aFuse = rd y aFuse := fun y =>
    (rd_wrf_other (by decide)).trans (rd_wrf_other (by decide))
  have hbit : slotFuse op slot < 64 := by
    unfold slotFuse
    split <;> omega
  refine ⟨_, hx, (rdb_congr (hfuse _)).trans (rdb_wrf_one _ _ hbit), fun k hk => ?_, ?_, rdf_secDone_zero _,
    secDone_touches 0 (hf.wrf (.inl (by simp))) (by simp)⟩
  · exact (rdb_congr (hfuse _)).trans ((rdb_wrf_field _ _ _ (by omega)).trans (rdb_congr (hrd _)))
  · rw [secDone_boot]
    exact (congrArg Boot.slotHashes (wr_boot _ _ _)).trans hhash

/-- A whole hash is kept as it is, an all-zero one included. -/
theorem hashBytes_setHash {t : Tbl (List Byte)} {slot : Nat} {x : List Byte} (h : x.length = 32) :
    padTo 32 (tget [] (setHash t slot x) slot) = x := by
  rw [setHash, tget_tset_same]
  have hpad : padTo 32 x = x := by simp [padTo, h]
  split
  · next hz =>
    have hx : x = List.replicate 32 0 := List.eq_replicate_iff.mpr ⟨h, fun b hb => by
      simpa using List.all_eq_true.mp hz b hb⟩
    rw [hx]
    rfl
  · exact hpad

theorem programSlot_done {s : State} {slot : Nat} (hs : slot < 4) (h : s.boot.fuseWork = some (3, slot)) :
    ∃ t, exec .slotFusesDone s = .next t
      ∧ slotValid t slot = true ∧ (∀ k, k < 4 → slotRevoked t k = slotRevoked s k)
      ∧ (∀ k, k < 4 → k ≠ slot → slotValid t k = slotValid s k ∧ hashBytes t k = hashBytes s k)
      ∧ (s.boot.fuseHash.length = 32 → hashBytes t slot = s.boot.fuseHash)
      ∧ rdf t aSecStat 63 54 = 0 ∧ touchesOnly [.startState] (2 ^ 64) [aFuse, aSecStat] s t := by
  obtain ⟨t, hx, hset, hother, hhash, hstat, hf⟩ := slotFusesDone_shows hs h
  have hfuse : slotFuse 3 slot = 53 + slot := rfl
  have htab : t.boot.slotHashes = setHash s.boot.slotHashes slot s.boot.fuseHash := hhash
  refine ⟨t, hx, hset, fun k hk => hother _ (by omega), fun k hk hne => ⟨hother _ (by omega), hashBytes_congr ?_⟩,
    fun hlen => ?_, hstat, hf⟩
  · rw [htab, setHash]
    exact tget_tset_other _ _ _ _ hne
  · rw [hashBytes, htab]
    exact hashBytes_setHash hlen

theorem revokeSlot_done {s : State} {slot : Nat} (hs : slot < 4) (h : s.boot.fuseWork = some (4, slot)) :
    ∃ t, exec .slotFusesDone s = .next t
      ∧ slotRevoked t slot = true ∧ (∀ k, k < 4 → slotValid t k = slotValid s k ∧ hashBytes t k = hashBytes s k)
      ∧ rdf t aSecStat 63 54 = 0 ∧ touchesOnly [.startState] (2 ^ 64) [aFuse, aSecStat] s t := by
  obtain ⟨t, hx, hset, hother, hhash, hstat, hf⟩ := slotFusesDone_shows hs h
  have hfuse : slotFuse 4 slot = 49 + slot := rfl
  have htab : t.boot.slotHashes = s.boot.slotHashes := hhash
  exact ⟨t, hx, hset, fun k hk => ⟨hother _ (by omega), hashBytes_congr (by rw [htab])⟩, hstat, hf⟩

/-! ## Flash windows -/

/-- A write through a flash window that is open. -/
def windowStored (s : State) (path f off : Nat) (v : Word) : State :=
  pushFlash { s with mg := { s.mg with flashTop := tset 0 s.mg.flashTop (sectorKey f off) (off + 8) } }
    ⟨f, off, leBytes 8 v.toNat, off % sectorBytes == 0, .path path⟩

theorem flashWindowWrite_shut {s : State} {path f off : Nat} {v : Word}
    (h : ¬(flashWritable s f off = true ∧ (off % 65536 = 0 ∨
      tget 0 s.mg.flashTop (sectorKey f off) ≠ 0 ∧ tget 0 s.mg.flashTop (sectorKey f off) ≤ off))) :
    flashWindowWrite s path f off v = ⟨s, .access⟩ := by
  refine if_pos ?_
  simp only [sectorBytes, Bool.or_eq_true, Bool.not_eq_true', Bool.and_eq_true, beq_eq_false_iff_ne, beq_iff_eq,
    decide_eq_true_eq]
  by_cases hw : flashWritable s f off = true
  · simp only [hw, true_and, not_or, not_and, not_le] at h
    obtain ⟨hfirst, htop⟩ := h
    refine .inr ⟨hfirst, ?_⟩
    by_cases h0 : tget 0 s.mg.flashTop (sectorKey f off) = 0
    · exact .inl h0
    · exact .inr (htop h0)
  · exact .inl (by simpa using hw)

theorem flashWindowWrite_open {s : State} {path f off : Nat} {v : Word}
    (h : flashWritable s f off = true ∧ (off % 65536 = 0 ∨
      tget 0 s.mg.flashTop (sectorKey f off) ≠ 0 ∧ tget 0 s.mg.flashTop (sectorKey f off) ≤ off)) :
    flashWindowWrite s path f off v = ⟨if decide (imageBase ≤ off) && secBusy (windowStored s path f off v) == 2 then
      secDone (windowStored s path f off v) srVerifyChanged else windowStored s path f off v, .ok⟩ := by
  obtain ⟨hw, hrest⟩ := h
  refine if_neg ?_
  simp only [sectorBytes, hw, Bool.not_true, Bool.false_or, Bool.and_eq_true, Bool.or_eq_true, Bool.not_eq_true',
    beq_eq_false_iff_ne, beq_iff_eq, decide_eq_true_eq]
  omega

theorem windowStored_shows (s : State) (path f off : Nat) (v : Word) :
    (windowStored s path f off v).boot.flashJobs
        = s.boot.flashJobs ++ [⟨f, off, leBytes 8 v.toNat, decide (off % 65536 = 0), .path path⟩]
      ∧ tget 0 (windowStored s path f off v).mg.flashTop (sectorKey f off) = off + 8
      ∧ (∀ a, rd (windowStored s path f off v) a = rd s a)
      ∧ touchesOnly [.queuedWork, .management, .recorder] 0xA000_0000 [aSecStat] s (windowStored s path f off v) := by
  have hbit : (off % sectorBytes == 0) = decide (off % 65536 = 0) := rfl
  refine ⟨?_, tget_tset_same 0 s.mg.flashTop (sectorKey f off) (off + 8), fun _ => rfl, ?_⟩
  · rw [windowStored, hbit]
    rfl
  · exact ((touchesOnly.refl [.queuedWork, .management, .recorder] 0xA000_0000 [aSecStat] s).upd (t :=
      windowStored s path f off v) 5120 rfl (by decide))


section
variable {s : State} {path f off : Nat} (v : Word) (h : manageable s)
include h

theorem flashWrite_shut (hno : ¬(flashWritable s f off = true ∧ (off % 65536 = 0 ∨
      tget 0 s.mg.flashTop (sectorKey f off) ≠ 0 ∧ tget 0 s.mg.flashTop (sectorKey f off) ≤ off))) :
    exec (.flashWrite path f off v) s = .next s := by
  have hop : flashWindowWrite s path f off v = ⟨s, .access⟩ := flashWindowWrite_shut hno
  exact congrArg Host.Outcome.next ((mgApply_not_ok h (by rw [hop]; simp)).trans (by rw [hop]))

theorem flashWrite_open (hopen : flashWritable s f off = true ∧ (off % 65536 = 0 ∨
      tget 0 s.mg.flashTop (sectorKey f off) ≠ 0 ∧ tget 0 s.mg.flashTop (sectorKey f off) ≤ off)) :
    ∃ t, exec (.flashWrite path f off v) s = .next t
      ∧ t.boot.flashJobs = s.boot.flashJobs ++ [⟨f, off, leBytes 8 v.toNat, decide (off % 65536 = 0), .path path⟩]
      ∧ tget 0 t.mg.flashTop (sectorKey f off) = off + 8 ∧ t.flashA = s.flashA ∧ t.flashB = s.flashB
      ∧ (imageBase ≤ off → secBusy s = 2 → rdf t aSecStat 63 56 = 0x94 ∧ rdf t aSecStat 55 54 = 0)
      ∧ touchesOnly [.queuedWork, .management, .recorder] 0xA000_0000 [aSecStat] s t := by
  obtain ⟨hjobs, htop, hrd, hf⟩ := windowStored_shows s path f off v
  have hop := flashWindowWrite_open (v := v) (path := path) hopen
  have hbusy : secBusy (windowStored s path f off v) = secBusy s := rdf_congr (hrd _)
  rw [hbusy] at hop
  have hx : ∃ w, exec (.flashWrite path f off v) s = .next (captureWrite w (aFlash f off) v)
      ∧ w = if decide (imageBase ≤ off) && secBusy s == 2 then
        secDone (windowStored s path f off v) srVerifyChanged else windowStored s path f off v :=
    ⟨_, congrArg Host.Outcome.next ((mgApply_ok h (by rw [hop])).trans (by rw [hop])), rfl⟩
  obtain ⟨w, hx, hw⟩ := hx
  have hkept : w.boot = (windowStored s path f off v).boot ∧ w.mg = (windowStored s path f off v).mg
      ∧ touchesOnly [.queuedWork, .management, .recorder] 0xA000_0000 [aSecStat] s w := by
    rw [hw]
    split
    · exact ⟨secDone_boot _ _, (wr_mg _ _ _).trans (wr_mg _ _ _), secDone_touches _ hf (by simp)⟩
    · exact ⟨rfl, rfl, hf⟩
  obtain ⟨hboot, hmg, hframe⟩ := hkept
  have hcap := captureWrite_keeps (m := 167772416) (x2 := aFlash f off) (x3 := v) rfl (.refl _ w)
  have hfinal := captureWrite_touches (v := v) (a := aFlash f off) hframe (by simp) le_rfl
  have hflash : Part.flashes.same s (captureWrite w (aFlash f off) v) := hfinal.2.1 .flashes (by simp)
  refine ⟨_, hx, ?_, ?_, hflash.1, hflash.2, fun hi hb => ?_, hfinal⟩
  · rw [hcap.bootState rfl rfl, hboot, hjobs]
  · rw [hcap.mg rfl, hmg, htop]
  · have hdone : w = secDone (windowStored s path f off v) srVerifyChanged := hw.trans (if_pos (by simp [hi, hb]))
    obtain ⟨h1, h2, -⟩ := secDone_shows (windowStored s path f off v) (show srVerifyChanged < 256 by decide)
    have hstat : rd (captureWrite w (aFlash f off) v) aSecStat = rd w aSecStat := rd_captureWrite (by decide)
    exact ⟨(rdf_congr hstat).trans (by rw [hdone, h1]; rfl), (rdf_congr hstat).trans (by rw [hdone, h2])⟩

end

/-! ## A flash program ends -/

theorem flashProgramDone_idle {s : State} {f : Nat} (written : Bool) (h : flashJob s f = none) :
    exec (.flashProgramDone f written) s = .next s := by
  rw [exec_flashProgramDone, execFlashProgramDone, h]

/-- With no response or order waiting nothing follows a program. -/
theorem releases_idle {s : State} (h1 : s.mg.held = none) (h2 : s.mg.heldOrders = []) :
    releaseHeldOrders (releaseHeldFrame s) = s := by
  have hframe : releaseHeldFrame s = s := by rw [releaseHeldFrame, h1]
  have hset : { s with mg := { s.mg with heldOrders := [] } } = s := by
    rw [← h2]
  rw [hframe, releaseHeldOrders, h2]
  exact hset

theorem resumeOrders_idle {s : State} (h : s.mg.orderQueue = []) : resumeOrders s = s := by
  have hset : { s with mg := { s.mg with orderQueue := [] } } = s := by
    rw [← h]
  rw [resumeOrders, h]
  exact hset

/-- The end of a path's program: the job is done and gone. -/
theorem endJob_path {s : State} {j : FlashJob} {path : Nat} (h : j.who = .path path) :
    endJob s j true = runJob (setJobs s (dropJob j.flash s.boot.flashJobs)) j := by
  unfold endJob
  rw [h]
  rfl

theorem runJob_mg (s : State) (j : FlashJob) : (runJob s j).mg = s.mg := by
  unfold runJob setFlash
  dsimp only
  split <;> split <;> rfl

theorem flashOf_runJob_other (s : State) (f : Nat) (j : FlashJob) (hf : j.flash = f) (h2 : f < 2) :
    flashOf (runJob s j) (1 - f) = flashOf s (1 - f) := by
  unfold runJob setFlash flashOf
  rw [hf]
  interval_cases f <;> rfl

theorem flashProgramDone_ends {s : State} {f : Nat} {job : FlashJob} {path : Nat} (hj : flashJob s f = some job)
    (hw : job.who = .path path) (h1 : s.mg.held = none) (h2 : s.mg.heldOrders = []) (h3 : s.mg.queue = [])
    (h4 : s.mg.orderQueue = []) : exec (.flashProgramDone f true) s
      = .next (runJob (setJobs s (dropJob job.flash s.boot.flashJobs)) job) := by
  have hmg : (runJob (setJobs s (dropJob job.flash s.boot.flashJobs)) job).mg = s.mg := runJob_mg _ _
  rw [exec_flashProgramDone, execFlashProgramDone, hj]
  simp only [endJob_path hw, hw]
  rw [releases_idle (by rw [hmg, h1]) (by rw [hmg, h2]), hmg, h3]
  exact congrArg Host.Outcome.next (resumeOrders_idle (by
    show (serveQueue 0 _).mg.orderQueue = []
    rw [serveQueue, hmg, h4]))

theorem flashProgramDone_shows {s : State} {f : Nat} {job : FlashJob} {path : Nat} (hj : flashJob s f = some job)
    (hw : job.who = .path path) (he : job.erase = false) (hf : f < 2) (h1 : s.mg.held = none) (h2 : s.mg.heldOrders = [])
    (h3 : s.mg.queue = []) (h4 : s.mg.orderQueue = []) : ∃ t, exec (.flashProgramDone f true) s = .next t
      ∧ (∀ i, i < job.bytes.length → readByte flashFill (flashOf t f) (job.offset + i) = job.bytes.getD i 0xFF)
      ∧ (∀ a, a < job.offset ∨ job.offset + job.bytes.length ≤ a →
        readByte flashFill (flashOf t f) a = readByte flashFill (flashOf s f) a)
      ∧ flashOf t (1 - f) = flashOf s (1 - f)
      ∧ touchesOnly [.flashes, .queuedWork] (2 ^ 64) [] s t := by
  have hflash : job.flash = f := by simpa using List.find?_some hj
  have hbytes : flashOf (runJob (setJobs s (dropJob job.flash s.boot.flashJobs)) job) f
      = writeBytes flashFill (flashOf s f) job.offset job.bytes := flashOf_runJob _ f job hflash he
  refine ⟨_, flashProgramDone_ends hj hw h1 h2 h3 h4, fun i hi => ?_, fun a ha => ?_,
    flashOf_runJob_other _ f job hflash hf, ?_⟩
  · rw [hbytes]
    exact readByte_writeBytes_at _ _ _ _ _ hi
  · rw [hbytes]
    exact readByte_writeBytes_other _ _ _ _ _ ha
  · have hframe : touchesOnly [.flashes, .queuedWork] (2 ^ 64) [] s (setJobs s (dropJob job.flash s.boot.flashJobs)) :=
      (touchesOnly.refl [.flashes, .queuedWork] (2 ^ 64) [] s).upd 1024 rfl (by decide)
    have hjob := runJob_keeps (m := 16384) (x2 := job) rfl (.refl _ (setJobs s (dropJob job.flash s.boot.flashJobs)))
    exact hframe.trans ⟨hjob.pending, hjob.parts (by decide), fun a _ _ => hjob.allRegs (by decide) a⟩

/-- Settles O46: each end clears BUSY and leaves its result; a flash job is queued by a window and made by the end. -/
theorem securityEnds : Obligations.SecurityEnds := by
  refine ⟨fun s sig => quoteDone_idle sig, fun s sig => quoteDone_shows sig, fun s copy bad => verifyCopyDone_idle copy bad,
    fun s copy bad => verifyCopyDone_shows copy bad, fun s h => ?_, fun s slot hs => programSlot_done hs,
    fun s slot hs => revokeSlot_done hs, fun s path f off v h _ => ⟨flashWrite_shut v h, flashWrite_open v h⟩,
    fun s f written => flashProgramDone_idle written,
    fun s f job path hj hw he hf h1 h2 h3 h4 => flashProgramDone_shows hj hw he hf h1 h2 h3 h4⟩
  rw [exec_slotFusesDone, execSlotFusesDone, h]

end Sys2Proof.Machine
end

section
/-! PROOFS. Request frames of the Hitch link (R431 to R434). -/

namespace Sys2Proof.Machine

open Sys2Proof

/-! ## What a frame leaves -/

/-- A frame sent and nothing else. -/
theorem sendHost_shows (s : State) (ws : List Word) :
    (sendHost s ws).mg.sent = s.mg.sent ++ [ws ++ [bitsAt 31 0 (frameCrc ws)]]
      ∧ (sendHost s ws).mg = { s.mg with sent := (sendHost s ws).mg.sent } ∧ (sendHost s ws).regs = s.regs :=
  ⟨rfl, rfl, rfl⟩

theorem changesOnly.sendHost {fs : List (Nat × Nat × Nat)} {r s : State} {ps : List Part} (ws : List Word)
    (h : changesOnly ps fs r s) (hp : Part.management ∈ ps := by simp) : changesOnly ps fs r (Machine.sendHost s ws) :=
  h.upd 4096 rfl (partMask_mem hp)

theorem changesOnly.finishRequest {fs : List (Nat × Nat × Nat)} {r s : State} {ps : List Part} (f : HitchFrame)
    (ws : List Word) (h : changesOnly ps fs r s) (hp : Part.management ∈ ps := by simp) :
    changesOnly ps fs r (Machine.finishRequest s f ws) := h.upd 4096 rfl (partMask_mem hp)

/-- A new READ or WRITE: its SEQ is not that of the stored response of its tag. -/
def newRequest (s : State) (f : HitchFrame) : Prop :=
  ∀ q ws, tone s.mg.stored f.tag = some (q, ws) → q ≠ f.seqNo

/-! ## Serving one request -/

theorem serveRequest_hello {s : State} {f : HitchFrame} (h1 : f.type = 1) (hb : helloBad f = false) :
    serveRequest s f = some (doHello s f) := by
  rw [serveRequest, if_pos (show f.type = htHello from h1), hb]
  rfl

theorem serveRequest_fault {s : State} {f : HitchFrame} {st : Nat} (h1 : f.type ≠ 1) (hf : frameFault s f = some st) :
    serveRequest s f = some (sendHost s (response f 0 st 0 [])) := by
  rw [serveRequest, if_neg (show f.type ≠ htHello from h1), hf]

theorem serveRequest_repeated {s : State} {f : HitchFrame} {ws : List Word} (h1 : f.type ≠ 1)
    (hf : frameFault s f = none) (ht : tone s.mg.stored f.tag = some (f.seqNo, ws)) :
    serveRequest s f = some (sendHost s ws) := by
  rw [serveRequest, if_neg (show f.type ≠ htHello from h1), hf, ht]
  exact if_pos rfl

theorem serveRequest_new {s : State} {f : HitchFrame} (h1 : f.type ≠ 1) (hf : frameFault s f = none)
    (hn : newRequest s f) : serveRequest s f =
      if f.type = htRead then if meetsBusyFlash s f.address f.count then none else some (doRead s f)
      else some (doWrite s f) := by
  rw [serveRequest, if_neg (show f.type ≠ htHello from h1), hf]
  cases ht : tone s.mg.stored f.tag with
  | none => rfl
  | some x => exact if_neg (hn x.1 x.2 ht)

theorem serveRequest_read {s : State} {f : HitchFrame} (h2 : f.type = 2) (hf : frameFault s f = none)
    (hn : newRequest s f) (hb : meetsBusyFlash s f.address f.count = false) :
    serveRequest s f = some (doRead s f) := by
  rw [serveRequest_new (by omega) hf hn, if_pos (show f.type = htRead from h2), hb]
  rfl

theorem serveRequest_write {s : State} {f : HitchFrame} (h3 : f.type = 3) (hf : frameFault s f = none)
    (hn : newRequest s f) : serveRequest s f = some (doWrite s f) := by
  have h2 : f.type ≠ htRead := by
    rw [h3]
    decide
  rw [serveRequest_new (by omega) hf hn, if_neg h2]

/-! ## A frame arrives -/

/-- The rows of a request frame are one: the frame is received. -/
theorem receiveRow {row : HitchFrame → Instr} (h : row ∈ [Instr.hello, Instr.hitchRead, Instr.hitchWrite]) (s : State)
    (f : HitchFrame) : exec (row f) s = .next (receiveFrame s f) := by
  simp only [List.mem_cons, List.not_mem_nil, or_false] at h
  rcases h with rfl | rfl | rfl <;> rfl

theorem receiveFrame_unmanaged {s : State} (f : HitchFrame) (h : mgmtUp s = false) : receiveFrame s f = s :=
  if_pos (by simp [h])

theorem receiveFrame_badCrc {s : State} {f : HitchFrame} (h : mgmtUp s = true) (hc : f.crcOk = false) :
    receiveFrame s f = bump s aHtcStat 47 32 1 := (if_neg (by simp [h])).trans (if_pos (by simp [hc]))

theorem receiveFrame_full {s : State} {f : HitchFrame} (h : mgmtUp s = true) (hc : f.crcOk = true)
    (hr : 32 ≤ requestsHeld s) :
    receiveFrame s f = sendHost (bump s aHtcStat 31 16 1) (response f 0 0x04 0 []) :=
  (if_neg (by simp [h])).trans ((if_neg (by simp [hc])).trans (if_pos hr))

theorem receiveFrame_queued {s : State} {f : HitchFrame} (h : mgmtUp s = true) (hc : f.crcOk = true)
    (hr : requestsHeld s < 32) : receiveFrame s f
      = serveQueue (s.mg.queue ++ [f]).length { s with mg := { s.mg with queue := s.mg.queue ++ [f] } } :=
  (if_neg (by simp [h])).trans ((if_neg (by simp [hc])).trans (if_neg (by omega)))

/-- Behind a response that waits nothing is served. -/
theorem serveQueue_held {s : State} (n : Nat) (h : s.mg.held ≠ none) : serveQueue n s = s := by
  cases n with
  | zero => rfl
  | succ n =>
    obtain ⟨x, hx⟩ := Option.ne_none_iff_exists'.mp h
    rw [serveQueue, hx]

/-- The one frame that waits is served. -/
theorem serveQueue_one {v s t : State} {f : HitchFrame} (hh : v.mg.held = none) (hq : v.mg.queue = [f])
    (hv : { v with mg := { v.mg with queue := [] } } = s) (hs : serveRequest s f = some t) : serveQueue 1 v = t := by
  subst hv
  rw [serveQueue, hh, hq]
  show (match serveRequest { v with mg := { v.mg with queue := [] } } f with
    | none => v
    | some s' => serveQueue 0 s') = t
  split
  · next h0 => exact nomatch hs.symm.trans h0
  · next h1 => exact Option.some.inj (h1.symm.trans hs)

/-- A frame that finds nothing waiting is served at once. -/
theorem receiveFrame_served {s t : State} {f : HitchFrame} (h : mgmtUp s = true) (hc : f.crcOk = true)
    (hh : s.mg.held = none) (hq : s.mg.queue = []) (hs : serveRequest s f = some t) : receiveFrame s f = t := by
  have hr : requestsHeld s < 32 := by simp [requestsHeld, hh, hq, b2n]
  have hback : { s with mg := { s.mg with queue := [] } } = s := by rw [← hq]
  rw [receiveFrame_queued h hc hr, hq]
  exact serveQueue_one hh rfl hback hs

/-! ## The clauses -/

theorem receive_badCrc {s : State} {f : HitchFrame} (h : mgmtUp s = true) (hc : f.crcOk = false) :
    ∃ t, receiveFrame s f = t ∧ rdf t aHtcStat 47 32 = Nat.min 0xFFFF (rdf s aHtcStat 47 32 + 1)
      ∧ changesOnly [] [(aHtcStat, 47, 32)] s t :=
  ⟨_, receiveFrame_badCrc h hc, rdf_bump_same s _ 1 (by decide), (changesOnly.refl _ _ s).bump⟩

theorem receive_full {s : State} {f : HitchFrame} (h : mgmtUp s = true) (hc : f.crcOk = true)
    (hr : 32 ≤ requestsHeld s) : ∃ t, receiveFrame s f = t
      ∧ t.mg.sent = s.mg.sent ++ [response f 0 0x04 0 [] ++ [bitsAt 31 0 (frameCrc (response f 0 0x04 0 []))]]
      ∧ rdf t aHtcStat 31 16 = Nat.min 0xFFFF (rdf s aHtcStat 31 16 + 1)
      ∧ t.mg = { s.mg with sent := t.mg.sent } ∧ changesOnly [.management] [(aHtcStat, 31, 16)] s t := by
  obtain ⟨hsent, hmg, hregs⟩ := sendHost_shows (bump s aHtcStat 31 16 1) (response f 0 0x04 0 [])
  have hold : (bump s aHtcStat 31 16 1).mg = s.mg := wr_mg s _ _
  refine ⟨_, receiveFrame_full h hc hr, by rw [hsent, hold], (rdf_congr (rd_congr hregs _)).trans
    (rdf_bump_same s _ 1 (by decide)), by rw [hmg, hold], ?_⟩
  exact (changesOnly.bump (changesOnly.refl [.management] [(aHtcStat, 31, 16)] s)).sendHost _

theorem receive_queued {s : State} {f : HitchFrame} (h : mgmtUp s = true) (hc : f.crcOk = true)
    (hr : requestsHeld s < 32) (hh : s.mg.held ≠ none) : ∃ t, receiveFrame s f = t
      ∧ t.mg = { s.mg with queue := s.mg.queue ++ [f] } ∧ changesOnly [.management] [] s t :=
  ⟨_, (receiveFrame_queued h hc hr).trans (serveQueue_held _ hh), rfl,
    (changesOnly.refl [.management] [] s).upd 4096 rfl (by decide)⟩

theorem agreedHitch_lt (lo hi : Nat) : agreedHitch lo hi < 16 := by
  unfold agreedHitch
  split <;> decide

theorem doHello_shows (s : State) (f : HitchFrame) : (doHello s f).mg.stored = []
    ∧ (doHello s f).mg.helloDone = (agreedHitch (bitsOf f.w1 3 0) (bitsOf f.w1 7 4) == 1)
    ∧ rdf (doHello s f) aHtcStat 61 58 = agreedHitch (bitsOf f.w1 3 0) (bitsOf f.w1 7 4)
    ∧ (doHello s f).mg.sent.length = s.mg.sent.length + 1
    ∧ changesOnly [.management] [(aHtcStat, 61, 58)] s (doHello s f) := by
  have hd : ∃ v ws, doHello s f
        = sendHost (wrf v aHtcStat 61 58 (agreedHitch (bitsOf f.w1 3 0) (bitsOf f.w1 7 4))) ws
      ∧ v = { s with mg := { s.mg with
        stored := [], helloDone := agreedHitch (bitsOf f.w1 3 0) (bitsOf f.w1 7 4) == 1 } } := ⟨_, _, rfl, rfl⟩
  obtain ⟨v, ws, hd, hv⟩ := hd
  obtain ⟨hsent, hmg, hregs⟩ :=
    sendHost_shows (wrf v aHtcStat 61 58 (agreedHitch (bitsOf f.w1 3 0) (bitsOf f.w1 7 4))) ws
  rw [wrf_mg] at hsent hmg
  rw [hd]
  refine ⟨by rw [hmg, hv], by rw [hmg, hv],
    (rdf_congr (rd_congr hregs _)).trans (rdf_wrf_fits _ _ (by decide) (agreedHitch_lt _ _)), ?_, ?_⟩
  · rw [hsent, hv]
    simp
  · rw [hv]
    refine changesOnly.sendHost ws (changesOnly.wrf ?_ (by simp))
    exact (changesOnly.refl [.management] [(aHtcStat, 61, 58)] s).upd 4096 rfl (by decide)

theorem tone_tset_same {α : Type} [DecidableEq α] (t : Tbl (List α)) (k : Nat) (x : α) :
    tone (tset [] t k [x]) k = some x := by
  rw [tone, tget_tset_same]
  rfl

/-- The READ of one word without a side effect. -/
theorem doRead_one {s : State} {f : HitchFrame} {w : Word} (hc : f.count = 1) (ha : f.address ≠ aGrnErr 1)
    (hw : readWord s f.address = some w) : doRead s f = finishRequest s f (response f 1 0 0 [w]) := by
  have hafter : afterRead s f.address = s := if_neg ha
  have hrun : readRun 1 s f.address = (s, [w]) := by
    rw [readRun, hw]
    simp only [hafter, readRun]
  unfold doRead
  rw [hc, hrun]
  rfl

theorem finishRequest_shows (s : State) (f : HitchFrame) (ws : List Word) :
    (finishRequest s f ws).mg.sent = s.mg.sent ++ [ws ++ [bitsAt 31 0 (frameCrc ws)]]
      ∧ tone (finishRequest s f ws).mg.stored f.tag = some (f.seqNo, ws) :=
  ⟨rfl, tone_tset_same s.mg.stored f.tag (f.seqNo, ws)⟩

/-- Settles O47: a frame is counted, answered BUSY, queued or served, and a served one is a HELLO, a fault, a
repetition or a new request. -/
theorem hitchRequests : Obligations.HitchRequests := by
  intro row hrow s f
  simp only [receiveRow hrow]
  refine ⟨fun h => by rw [receiveFrame_unmanaged f h], fun h hc => ?_, fun h hc hr => ?_, fun h hc hr hh => ?_,
    fun h hc hh hq => ⟨fun h1 hb => ?_, fun h1 st hf => ?_, fun h1 hf ws ht => ?_, fun hf hn => ⟨fun h2 hb => ?_, fun h3 => ?_⟩,
      fun h2 hcount hf ha hn hb w hw => ?_⟩⟩
  · obtain ⟨t, rfl, hrest⟩ := receive_badCrc h hc
    exact ⟨_, rfl, hrest⟩
  · obtain ⟨t, rfl, hrest⟩ := receive_full h hc hr
    exact ⟨_, rfl, hrest⟩
  · obtain ⟨t, rfl, hrest⟩ := receive_queued h hc hr hh
    exact ⟨_, rfl, hrest⟩
  · rw [receiveFrame_served h hc hh hq (serveRequest_hello h1 hb)]
    exact ⟨_, rfl, doHello_shows s f⟩
  · rw [receiveFrame_served h hc hh hq (serveRequest_fault h1 hf)]
    exact ⟨_, rfl, rfl, rfl, (changesOnly.refl [.management] [] s).sendHost _⟩
  · rw [receiveFrame_served h hc hh hq (serveRequest_repeated h1 hf ht)]
    exact ⟨_, rfl, rfl, rfl, (changesOnly.refl [.management] [] s).sendHost _⟩
  · rw [receiveFrame_served h hc hh hq (serveRequest_read h2 hf hn hb)]
  · rw [receiveFrame_served h hc hh hq (serveRequest_write h3 hf hn)]
  · rw [receiveFrame_served h hc hh hq (serveRequest_read h2 hf hn (by rw [hcount]; exact hb)), doRead_one hcount ha hw]
    obtain ⟨hsent, hstored⟩ := finishRequest_shows s f (response f 1 0 0 [w])
    exact ⟨_, rfl, hsent, hstored, (changesOnly.refl [.management] [] s).finishRequest f _⟩

end Sys2Proof.Machine
end

section
/-! PROOFS. Lanes of the Hitch link and event frames (R430, R435). -/

namespace Sys2Proof.Machine

open Sys2Proof

/-! ## Lanes -/

theorem hitchLane_shows {s : State} {lane v : Nat} {b : Bool} (h : inReset s = false) (hl : lane < 2) (hv : v = b2n b) :
    ∃ t, setHitchLane s lane v = t ∧ rdb t aHtcStat (62 + lane) = b
      ∧ changesOnly [] [(aHtcStat, 62 + lane, 62 + lane)] s t := by
  have hset : setHitchLane s lane v = wrf s aHtcStat (62 + lane) (62 + lane) (b2n b) :=
    (if_neg (by simp [h, hl])).trans (by rw [hv])
  exact ⟨_, hset, rdb_wrf_flag s _ b (by omega), (changesOnly.refl _ _ s).wrf (by simp)⟩

theorem hitchLanes_show {s : State} {lane : Nat} (h : inReset s = false) (hl : lane < 2) :
    (∃ t, exec (.hitchLaneLock lane) s = .next t ∧ rdb t aHtcStat (62 + lane) = true
      ∧ changesOnly [] [(aHtcStat, 62 + lane, 62 + lane)] s t)
    ∧ ∃ t, exec (.hitchLaneLockLoss lane) s = .next t ∧ rdb t aHtcStat (62 + lane) = false
      ∧ changesOnly [] [(aHtcStat, 62 + lane, 62 + lane)] s t := by
  obtain ⟨t, ht, hrest⟩ := hitchLane_shows (v := 1) (b := true) h hl rfl
  obtain ⟨u, hu, hrest'⟩ := hitchLane_shows (v := 0) (b := false) h hl rfl
  exact ⟨⟨t, congrArg Host.Outcome.next ht, hrest⟩, u, congrArg Host.Outcome.next hu, hrest'⟩

/-! ## Event frames -/

/-- Entries logged and not yet sent, as numbers. -/
theorem unsentEvents_of {s : State} {logged next : Nat} (h1 : rdf s (aEvt 8) 63 32 = logged) (h2 : s.mg.streamNext = next) :
    unsentEvents s = (logged + 2 ^ 32 - next) % 2 ^ 32 := by
  rw [unsentEvents, h1, h2]

/-- The frame of the next n entries. -/
def eventFrame (s : State) (n : Nat) (w1 : Word) : List Word :=
  (bitsAt 63 60 5 ||| bitsAt 59 56 (rdf s aHtcStat 61 58) ||| bitsAt 50 41 (4 * n)) :: w1
    :: (List.range n).flatMap fun i => rdEntry s (aEvtEntry (s.mg.streamNext + i) 0) 4

theorem sendEvents_eq (s : State) : ∃ v w1, sendEvents s = sendHost v (eventFrame s (Nat.min 16 (unsentEvents s)) w1)
    ∧ v.mg = { s.mg with streamNext := (s.mg.streamNext + Nat.min 16 (unsentEvents s)) % 2 ^ 32 } ∧ v.regs = s.regs
    ∧ changesOnly [.management] [] s v :=
  ⟨_, _, rfl, rfl, rfl, (changesOnly.refl [.management] [] s).upd 4096 rfl (by decide)⟩

/-- Entry i of a list of entries of four words. -/
theorem getElem?_flatMap_four (f : Nat → List Word) (hf : ∀ i, (f i).length = 4) {n i w : Nat} (hi : i < n) (hw : w < 4) :
    ((List.range n).flatMap f)[4 * i + w]? = (f i)[w]? := by
  induction n with
  | zero => omega
  | succ n ih =>
    have hlen : ((List.range n).flatMap f).length = 4 * n := by
      simp [List.length_flatMap, hf, Nat.mul_comm]
    rw [List.range_succ, List.flatMap_append, List.flatMap_singleton]
    rcases Nat.lt_or_ge i n with h | h
    · rw [List.getElem?_append_left (by rw [hlen]; omega), ih h]
    · have hin : i = n := by omega
      subst hin
      rw [List.getElem?_append_right (by rw [hlen]; omega), hlen]
      congr 1
      omega

theorem eventFrame_length (s : State) (n : Nat) (w1 : Word) : (eventFrame s n w1).length = 2 + 4 * n := by
  simp [eventFrame, List.length_flatMap, rdEntry_length]
  omega

theorem aEvtEntry_at (q w : Nat) : aEvtEntry q w = aEvtEntry q 0 + 8 * w := by
  unfold aEvtEntry aEvt
  omega

/-- Word w of entry i of a frame. -/
theorem wordAt_eventFrame (s : State) {n i w : Nat} (w1 : Word) (rest : List Word) (hi : i < n) (hw : w < 4) :
    wordAt (eventFrame s n w1 ++ rest) (2 + 4 * i + w) = rd s (aEvtEntry (s.mg.streamNext + i) w) := by
  have hlen : 4 * i + w < 4 * n := by omega
  have hframe : (eventFrame s n w1 ++ rest)[2 + 4 * i + w]?
      = ((List.range n).flatMap fun i => rdEntry s (aEvtEntry (s.mg.streamNext + i) 0) 4)[4 * i + w]? := by
    rw [List.getElem?_append_left (by rw [eventFrame_length]; omega), show 2 + 4 * i + w = (4 * i + w) + 1 + 1 by omega]
    rfl
  have hword : (rdEntry s (aEvtEntry (s.mg.streamNext + i) 0) 4)[w]? = some (rd s (aEvtEntry (s.mg.streamNext + i) w)) := by
    rw [rdEntry, List.getElem?_map, List.getElem?_range hw, aEvtEntry_at _ w]
    rfl
  rw [wordAt, List.getD_eq_getElem?_getD, hframe, getElem?_flatMap_four _ (fun _ => rdEntry_length _ _ _) hi hw, hword]
  rfl

theorem eventFrame_head (s : State) {n : Nat} (w1 : Word) (rest : List Word) (h : n ≤ 16) :
    bitsOf (wordAt (eventFrame s n w1 ++ rest) 0) 63 60 = 5
      ∧ bitsOf (wordAt (eventFrame s n w1 ++ rest) 0) 50 41 = 4 * n := by
  have hw : wordAt (eventFrame s n w1 ++ rest) 0
      = bitsAt 63 60 5 ||| bitsAt 59 56 (rdf s aHtcStat 61 58) ||| bitsAt 50 41 (4 * n) := rfl
  rw [hw]
  simp only [bitsOf_or, bitsOf_bitsAt_same _ (show 63 < 64 by decide), bitsOf_bitsAt_same _ (show 50 < 64 by decide),
    bitsOf_bitsAt_other, show (59 : Nat) < 60 by decide, show (50 : Nat) < 60 by decide, show (50 : Nat) < 56 by decide,
    true_or, or_true, Nat.or_zero, Nat.zero_or]
  exact ⟨rfl, Nat.mod_eq_of_lt (by omega)⟩

/-- What sending the next entries leaves. -/
theorem sendEvents_shows {s : State} (hnext : s.mg.streamNext < 2 ^ 32) : ∃ ws,
    unsentEvents (sendEvents s) = unsentEvents s - Nat.min 16 (unsentEvents s)
    ∧ (sendEvents s).mg.sent = s.mg.sent ++ [ws] ∧ ws.length = 3 + 4 * Nat.min 16 (unsentEvents s)
    ∧ bitsOf (wordAt ws 0) 63 60 = 5 ∧ bitsOf (wordAt ws 0) 50 41 = 4 * Nat.min 16 (unsentEvents s)
    ∧ (∀ i w, i < Nat.min 16 (unsentEvents s) → w < 4 →
      wordAt ws (2 + 4 * i + w) = rd s (aEvtEntry (s.mg.streamNext + i) w))
    ∧ changesOnly [.management] [] s (sendEvents s) := by
  obtain ⟨v, w1, hsend, hmg, hregs, hf⟩ := sendEvents_eq s
  have hle : Nat.min 16 (unsentEvents s) ≤ unsentEvents s := Nat.min_le_right ..
  have h16 : Nat.min 16 (unsentEvents s) ≤ 16 := Nat.min_le_left ..
  have hleft : unsentEvents (sendEvents s) = unsentEvents s - Nat.min 16 (unsentEvents s) := by
    have hlog : rdf s (aEvt 8) 63 32 < 2 ^ 32 := rdf_lt s _ 63 32
    have hbefore := unsentEvents_of (s := s) rfl rfl
    have hregs' : (sendEvents s).regs = s.regs := by
      rw [hsend]
      exact hregs
    have hstream : (sendEvents s).mg.streamNext = (s.mg.streamNext + Nat.min 16 (unsentEvents s)) % 2 ^ 32 := by
      rw [hsend]
      exact congrArg Mgmt.streamNext hmg
    rw [unsentEvents_of (rdf_congr (rd_congr hregs' _)) hstream]
    generalize Nat.min 16 (unsentEvents s) = n at *
    omega
  rw [hsend] at hleft ⊢
  obtain ⟨h5, h4⟩ := eventFrame_head s w1 [bitsAt 31 0 (frameCrc (eventFrame s (Nat.min 16 (unsentEvents s)) w1))] h16
  refine ⟨_, hleft, (sendHost_shows v _).1.trans (by rw [hmg]), ?_, h5, h4,
    fun i w hi hw => wordAt_eventFrame s w1 _ hi hw, hf.sendHost _⟩
  rw [List.length_append, eventFrame_length]
  simp
  omega

theorem eventFrame_idle {s : State} (h : mgmtUp s = false ∨ rdb s (aEvt 0) 63 = false ∨ unsentEvents s = 0) :
    exec .eventFrame s = .next s :=
  congrArg Host.Outcome.next (if_pos (by rcases h with h | h | h <;> simp [h]))

theorem eventFrame_sends {s : State} (h1 : mgmtUp s = true) (h2 : rdb s (aEvt 0) 63 = true) (h3 : 0 < unsentEvents s) :
    exec .eventFrame s = .next (sendEvents (streamJump s)) := by
  have hne : (unsentEvents s == 0) = false := beq_eq_false_iff_ne.mpr (by omega)
  exact congrArg Host.Outcome.next (if_neg (by rw [h1, h2, hne]; decide))

/-- The stream that fell behind goes on with the oldest entry kept. -/
theorem streamJump_shows {s : State} (h : 8192 < unsentEvents s) :
    unsentEvents (streamJump s) = 8192 ∧ (streamJump s).mg.streamNext < 2 ^ 32
    ∧ rdf (streamJump s) (aEvt 0x18) 31 0
      = Nat.min (2 ^ 32 - 1) (rdf s (aEvt 0x18) 31 0 + (unsentEvents s - 8192))
    ∧ changesOnly [.management] [(aEvt 0x18, 31, 0)] s (streamJump s) := by
  have hj : ∃ v, streamJump s = v ∧ v.regs = (bump s (aEvt 0x18) 31 0 (unsentEvents s - 8192)).regs
      ∧ v.mg.streamNext = (s.mg.streamNext + (unsentEvents s - 8192)) % 2 ^ 32
      ∧ changesOnly [.management] [(aEvt 0x18, 31, 0)] s v := by
    refine ⟨_, if_neg (by omega), rfl, rfl, ?_⟩
    exact (changesOnly.bump (changesOnly.refl [.management] [(aEvt 0x18, 31, 0)] s)).upd 4096 rfl (by decide)
  obtain ⟨v, hv, hregs, hstream, hf⟩ := hj
  rw [hv]
  have hrd : ∀ a, rd v a = rd (bump s (aEvt 0x18) 31 0 (unsentEvents s - 8192)) a := rd_congr hregs
  have hlog : rdf v (aEvt 8) 63 32 = rdf s (aEvt 8) 63 32 := (rdf_congr (hrd _)).trans (rdf_bump_other (by decide))
  refine ⟨?_, by rw [hstream]; exact Nat.mod_lt _ (by decide), (rdf_congr (hrd _)).trans (rdf_bump_same s _ _ (by decide)), hf⟩
  have hlt : rdf s (aEvt 8) 63 32 < 2 ^ 32 := rdf_lt s _ 63 32
  have hbefore := unsentEvents_of (s := s) rfl rfl
  rw [unsentEvents_of hlog hstream]
  omega

/-- Settles O48: an event frame carries the next entries and moves the stream past them, after a jump where the log
has overwritten some. -/
theorem hitchLanesAndEvents : Obligations.HitchLanesAndEvents := by
  refine ⟨fun s lane h hl => hitchLanes_show h hl, fun s h => eventFrame_idle h, fun s h1 h2 h3 hle hnext => ?_,
    fun s h1 h2 h3 _ => ?_⟩
  · have hjump : streamJump s = s := if_pos hle
    obtain ⟨ws, h5, h6, h7, h8, h9, h10, hf⟩ := sendEvents_shows hnext
    refine ⟨sendEvents s, ws, ?_, h5, h6, h7, h8, h9, h10, hf.touches (by simp)⟩
    rw [eventFrame_sends h1 h2 h3, hjump]
  · obtain ⟨hu, hlt, hlost, hf⟩ := streamJump_shows h3
    obtain ⟨ws, h5, -, -, -, -, -, hg⟩ := sendEvents_shows hlt
    refine ⟨_, eventFrame_sends h1 h2 (by omega), ?_, ?_, hf.trans (hg.mono (by simp) (by simp))⟩
    · rw [h5, hu]
      rfl
    · exact (rdf_congr (hg.rd_eq (by simp))).trans hlost

end Sys2Proof.Machine
end

section
/-! PROOFS. Field orders and their checks (R418 to R421). -/

namespace Sys2Proof.Machine

open Sys2Proof

/-! ## The last order of a path -/

theorem lastOrder_set_same (s : State) (path seq : Nat) (reply : List Byte) :
    lastOrder (setOrder s path seq reply) path = (seq, reply) := by
  have h : tget [] (setOrder s path seq reply).boot.orders path = [(seq, reply)] :=
    tget_tset_same [] s.boot.orders path [(seq, reply)]
  rw [lastOrder, h]
  rfl

theorem lastOrder_set_other {s : State} {path q : Nat} (seq : Nat) (reply : List Byte) (h : q ≠ path) :
    lastOrder (setOrder s path seq reply) q = lastOrder s q := by
  have hq : tget [] (setOrder s path seq reply).boot.orders q = tget [] s.boot.orders q :=
    tget_tset_other [] [] s.boot.orders [(seq, reply)] h
  rw [lastOrder, hq, lastOrder]

theorem setOrder_frame (s : State) (path seq : Nat) (reply : List Byte) :
    changesOnly [.startState] [] s (setOrder s path seq reply) :=
  (changesOnly.refl [.startState] [] s).upd (t := setOrder s path seq reply) 32768 rfl (by decide)

theorem orderWaits_setOrder (s : State) (path seq src : Nat) (reply : List Byte) :
    orderWaits (setOrder s path seq reply) src = orderWaits s src := rfl

/-! ## The row -/

theorem fieldOrder_idle {s : State} {port : Nat} {f : Frame}
    (h : mgmtUp s = false ∨ isHalted s = true ∨ f.hdr.type ≠ tFieldOrder) : exec (.fieldOrder port f) s = .next s :=
  congrArg Host.Outcome.next (if_pos (by rcases h with h | h | h <;> simp [h]))

section
variable {s : State} {port : Nat} {f : Frame}

theorem fieldOrder_taken (h : manageable s) (ht : f.hdr.type = tFieldOrder) :
    exec (.fieldOrder port f) s = .next (settle (takeOrder s port f)) :=
  congrArg Host.Outcome.next (if_neg (by simp [h.1, h.2, ht]))

theorem takeOrder_unmarked (h : rdb s (aCable port) 59 = false) : takeOrder s port f = count s 0 0 4 1 :=
  if_pos (by simp [h])

theorem takeOrder_bad (h : rdb s (aCable port) 59 = true) (hb : orderBad f = true) :
    takeOrder s port f = sendReply s port f (orderReply s 2 0 0 []) := (if_neg (by simp [h])).trans (if_pos hb)

theorem takeOrder_checked (h : rdb s (aCable port) 59 = true) (hb : orderBad f = false) : takeOrder s port f =
    match managerOfSrc s f.hdr.src with
    | none => sendReply s port f (orderReply s osNotManager 0 0 [])
    | some (m, path) =>
      if bitsOf f.hdr.w3 63 32 ≠ startEpoch s then sendReply s port f (orderReply s osWrongEpoch 0 0 [])
      else if bitsOf f.hdr.w3 31 0 = (lastOrder s path).1 then
        if (lastOrder s path).2 = [] then s else sendReply s port f (lastOrder s path).2
      else if bitsOf f.hdr.w3 31 0 < (lastOrder s path).1 then sendReply s port f (orderReply s osStaleSeq 0 0 [])
      else if orderAllowed m f then startOrder (setOrder s path (bitsOf f.hdr.w3 31 0) []) path port f
      else endOrder (setOrder s path (bitsOf f.hdr.w3 31 0) []) path port f
        (orderReply (setOrder s path (bitsOf f.hdr.w3 31 0) []) osNoRight 0 0 []) :=
  (if_neg (by simp [h])).trans (if_neg (by simp [hb]))

end

/-! ## Orders of a manager -/

section
variable {s : State} {port : Nat} {f : Frame} (hmark : rdb s (aCable port) 59 = true) (hok : orderBad f = false)
include hmark hok

theorem takeOrder_stranger (hm : managerOfSrc s f.hdr.src = none) :
    takeOrder s port f = sendReply s port f (orderReply s 3 0 0 []) := by
  refine (takeOrder_checked hmark hok).trans ?_
  simp only [hm]
  rfl

section
variable {m : Manager} {path : Nat} (hm : managerOfSrc s f.hdr.src = some (m, path))
include hm

theorem takeOrder_managed : takeOrder s port f =
      if bitsOf f.hdr.w3 63 32 ≠ startEpoch s then sendReply s port f (orderReply s osWrongEpoch 0 0 [])
      else if bitsOf f.hdr.w3 31 0 = (lastOrder s path).1 then
        if (lastOrder s path).2 = [] then s else sendReply s port f (lastOrder s path).2
      else if bitsOf f.hdr.w3 31 0 < (lastOrder s path).1 then sendReply s port f (orderReply s osStaleSeq 0 0 [])
      else if orderAllowed m f then startOrder (setOrder s path (bitsOf f.hdr.w3 31 0) []) path port f
      else endOrder (setOrder s path (bitsOf f.hdr.w3 31 0) []) path port f
        (orderReply (setOrder s path (bitsOf f.hdr.w3 31 0) []) osNoRight 0 0 []) := by
  refine (takeOrder_checked hmark hok).trans ?_
  simp only [hm]

theorem takeOrder_epoch (he : bitsOf f.hdr.w3 63 32 ≠ startEpoch s) :
    takeOrder s port f = sendReply s port f (orderReply s 4 0 0 []) :=
  (takeOrder_managed hmark hok hm).trans (if_pos he)

section
variable (he : bitsOf f.hdr.w3 63 32 = startEpoch s)
include he

theorem takeOrder_stale (hs : bitsOf f.hdr.w3 31 0 < (lastOrder s path).1) :
    takeOrder s port f = sendReply s port f (orderReply s 5 0 0 []) :=
  (takeOrder_managed hmark hok hm).trans ((if_neg (not_not.mpr he)).trans ((if_neg (by omega)).trans (if_pos hs)))

theorem takeOrder_repeated (hs : bitsOf f.hdr.w3 31 0 = (lastOrder s path).1) (hr : (lastOrder s path).2 ≠ []) :
    takeOrder s port f = sendReply s port f (lastOrder s path).2 :=
  (takeOrder_managed hmark hok hm).trans ((if_neg (not_not.mpr he)).trans ((if_pos hs).trans (if_neg hr)))

/-- A new order takes its SEQ first. -/
theorem takeOrder_new (hs : (lastOrder s path).1 < bitsOf f.hdr.w3 31 0) : takeOrder s port f =
    if orderAllowed m f then startOrder (setOrder s path (bitsOf f.hdr.w3 31 0) []) path port f
    else endOrder (setOrder s path (bitsOf f.hdr.w3 31 0) []) path port f
      (orderReply (setOrder s path (bitsOf f.hdr.w3 31 0) []) osNoRight 0 0 []) :=
  (takeOrder_managed hmark hok hm).trans ((if_neg (not_not.mpr he)).trans ((if_neg (by omega)).trans (if_neg (by omega))))

end

end

end

/-! ## Execution -/

theorem startOrder_runs {u t : State} {path port : Nat} {f : Frame} (hw : orderWaits u f.hdr.src = false)
    (hr : runOrder u path port f = some t) : startOrder u path port f = t := by
  rw [startOrder, if_neg (by rw [hw]; decide), hr]
  rfl

theorem startOrder_waits {u : State} {path port : Nat} {f : Frame}
    (h : orderWaits u f.hdr.src = true ∨ runOrder u path port f = none) : startOrder u path port f
      = { u with mg := { u.mg with orderQueue := u.mg.orderQueue ++ [(port, f)] } } := by
  unfold startOrder
  dsimp only
  split
  · rfl
  · next hw => rw [h.resolve_left hw, Option.getD_none]

/-- Settles O49: the checks of an order in their turn, each with its answer, and the execution of a new one. -/
theorem fieldOrders : Obligations.FieldOrders := by
  intro s port f
  refine ⟨fieldOrder_idle, fun h ht => ?_⟩
  have hx := fieldOrder_taken (port := port) h ht
  have answer : ∀ {t}, takeOrder s port f = t → exec (.fieldOrder port f) s = .next (settle t) := fun ht => by rw [hx, ht]
  refine ⟨fun hmark => ⟨_, answer (takeOrder_unmarked hmark), rd_count_same s 0 0 4 1, (changesOnly.refl _ _ s).count⟩,
    fun hmark hbad => answer (takeOrder_bad hmark hbad), fun hmark hok =>
      ⟨fun hm => answer (takeOrder_stranger hmark hok hm), fun m path hm =>
        ⟨fun he => answer (takeOrder_epoch hmark hok hm he), fun he =>
          ⟨fun hs => answer (takeOrder_stale hmark hok hm he hs), fun hs hr => answer (takeOrder_repeated hmark hok hm he hs hr),
            fun hs => ?_⟩⟩⟩⟩
  have hnew := takeOrder_new hmark hok hm he hs
  have hwait := orderWaits_setOrder s path (bitsOf f.hdr.w3 31 0) f.hdr.src []
  refine ⟨setOrder s path (bitsOf f.hdr.w3 31 0) [], lastOrder_set_same s path _ [],
    fun q hq => lastOrder_set_other _ [] hq, setOrder_frame s path _ [], fun hno => ?_, fun hyes hw t hr => ?_, fun hyes hw => ?_⟩
  · exact answer (hnew.trans (if_neg (by simp [hno])))
  · exact answer ((hnew.trans (if_pos hyes)).trans (startOrder_runs (hwait.trans hw) hr))
  · exact answer ((hnew.trans (if_pos hyes)).trans (startOrder_waits (by rw [hwait]; exact hw)))

end Sys2Proof.Machine
end

section
/-! PROOFS. Register writes by field type (R9 to R12, R437): what each kind of field takes from a written word,
and a write that the device or the map does not take. Staged words (R441): what the path's buffer holds. -/

namespace Sys2Proof.Machine

open Sys2Proof

/-! ## Fields of a written word -/

/-- Words that agree on the bits of a field agree on the field. -/
theorem bitsOf_congr_bitOf {w x : Word} {hi lo : Nat} (h : ∀ k, lo ≤ k → k ≤ hi → bitOf w k = bitOf x k) :
    bitsOf w hi lo = bitsOf x hi lo := by
  refine Nat.eq_of_testBit_eq fun i => ?_
  rw [testBit_bitsOf, testBit_bitsOf]
  by_cases hi' : i < hi + 1 - lo
  · rw [show w.getLsbD (lo + i) = x.getLsbD (lo + i) from h (lo + i) (by omega) (by omega)]
  · simp [hi']

/-- A 1 written to the W1C bit 39 clears it; every other bit is kept. -/
theorem bitOf_mergedWord_strap (first : Bool) (old v : Word) (k : Nat) :
    bitOf (mergedWord first [ro 63 42, ro 41 40, w1c 39 39, rsv 38 0] old v) k
      = (bitOf old k && !(decide (k = 39) && bitOf v k)) := by
  change (old &&& ~~~(v &&& maskOf 39 39 &&& old)).getLsbD k
    = (old.getLsbD k && !(decide (k = 39) && v.getLsbD k))
  by_cases hk : k < 64
  · by_cases h39 : k = 39
    · subst h39
      cases ho : old.getLsbD 39 <;> cases hv : v.getLsbD 39 <;> simp_all [maskOf, getLsbD_bitsAt]
    · have hm : (maskOf 39 39).getLsbD k = false := by
        rw [maskOf, getLsbD_bitsAt]
        simp only [Bool.and_eq_false_iff, decide_eq_false_iff_not]
        omega
      simp only [BitVec.getLsbD_and, BitVec.getLsbD_not, hm, hk, h39, decide_true, decide_false, Bool.and_false,
        Bool.false_and, Bool.not_false, Bool.and_true]
  · simp [BitVec.getLsbD_of_ge _ _ (Nat.le_of_not_lt hk)]

theorem mergedWord_fltCfg (first : Bool) (old v : Word) :
    bitOf (mergedWord first fltCfgFields old v) 63 = bitOf v 63
      ∧ bitsOf (mergedWord first fltCfgFields old v) 62 55
        = (if bitsOf v 62 55 ≠ 0 then bitsOf v 62 55 else bitsOf old 62 55)
      ∧ bitsOf (mergedWord first fltCfgFields old v) 54 0 = bitsOf old 54 0 := by
  have hm : mergedWord first fltCfgFields old v = if bitsOf v 62 55 ≠ 0
      then putBits (putBits old 63 63 (bitsOf v 63 63)) 62 55 (bitsOf v 62 55)
      else putBits old 63 63 (bitsOf v 63 63) := by
    by_cases h : bitsOf v 62 55 = 0 <;> simp [mergedWord, fltCfgFields, putField, rw, rwIf, rsv, h]
  rw [hm]
  by_cases h : bitsOf v 62 55 ≠ 0
  · simp only [if_pos h]
    refine ⟨bitOf_of_bitsOf ?_, bitsOf_putBits_copy _ _ (by decide), ?_⟩
    · rw [bitsOf_putBits_other _ _ (by decide), bitsOf_putBits_copy _ _ (by decide)]
    · rw [bitsOf_putBits_other _ _ (by decide), bitsOf_putBits_other _ _ (by decide)]
  · simp only [if_neg h]
    exact ⟨bitOf_of_bitsOf (bitsOf_putBits_copy _ _ (by decide)), bitsOf_putBits_other _ _ (by decide),
      bitsOf_putBits_other _ _ (by decide)⟩

/-- A quota entry of a charged furrow takes a LIMIT that is in range. -/
theorem mergedWord_quota {f : Nat} (hc : charged f = true) (first : Bool) (old v : Word) :
    mergedWord first (quotaFields f) old v
      = if bitsOf v 52 32 ≤ 1048576 then putBits old 52 32 (bitsOf v 52 32) else old := by
  by_cases h : bitsOf v 52 32 ≤ 1048576 <;>
    simp [mergedWord, quotaFields, hc, putField, ro, rwIf, rsv, h]

/-! ## Writes that are not taken -/

theorem registerWrite_untaken {s : State} (path : Nat) {a : Nat} (v : Word) (h : ¬manageable s ∨ placeOf a = none) :
    exec (.registerWrite path a v) s = .next s := by
  refine congrArg Host.Outcome.next ?_
  by_cases hs : manageable s
  · have hm : mgmtWrite s path a v = ⟨s, .access⟩ := by
      simp only [mgmtWrite, h.resolve_left (not_not.mpr hs)]
    exact (mgApply_not_ok hs (by rw [hm]; exact fun x => nomatch x)).trans (by rw [hm])
  · exact mgApply_unmanageable hs

/-! ## Writes by field type -/

/-- A write to a register with fields only: it merges them, and nothing else but the recorder and the registers
from its block upward is touched. -/
theorem registerWrite_merges {s : State} {path a : Nat} {v : Word} {pl : Place} {fs : List RField}
    (hs : manageable s) (hpl : placeOf a = some pl)
    (hw : writePlace s path a pl v = plainWrite s path a fs v) (ha : a < 0xA000_0000) (hfs : hasRw1 fs = false) :
    ∃ t first, exec (.registerWrite path a v) s = .next t ∧ rd t a = mergedWord first fs (rd s a) v
      ∧ touchesOnly [.recorder] 0xA000_0000 [a] s t := by
  have hm : mgmtWrite s path a v = ⟨regWrite s path a fs v, .ok⟩ := by
    simp only [mgmtWrite, hpl, hw, plainWrite]
  obtain ⟨⟨first, hrd⟩, hf⟩ := plainRow_shows (op := fun s => mgmtWrite s path a v) path hs ha hfs hm
  exact ⟨_, first, rfl, hrd, hf⟩

/-- A field from bit 0 that takes every value, below reserved bits. -/
theorem registerWrite_rw {s : State} {path a hi : Nat} {v : Word} {pl : Place} {fs : List RField}
    (hs : manageable s) (hpl : placeOf a = some pl)
    (hw : writePlace s path a pl v = plainWrite s path a fs v) (ha : a < 0xA000_0000) (hfs : hasRw1 fs = false)
    (hhi : hi < 64) (hm : ∀ first old, mergedWord first fs old v = putBits old hi 0 (bitsOf v hi 0)) :
    ∃ t, exec (.registerWrite path a v) s = .next t ∧ rdf t a hi 0 = bitsOf v hi 0
      ∧ (∀ k, hi < k → rdb t a k = rdb s a k) ∧ touchesOnly [.recorder] 0xA000_0000 [a] s t := by
  obtain ⟨t, first, hx, hrd, hf⟩ := registerWrite_merges hs hpl hw ha hfs
  rw [hm] at hrd
  refine ⟨t, hx, ?_, fun k hk => ?_, hf⟩
  · rw [rdf, hrd]
    exact bitsOf_putBits_copy _ _ hhi
  · rw [rdb, hrd]
    exact bitOf_putBits_other _ _ (.inr hk)

theorem placeOf_aSecNonce {i : Nat} (h : i < 4) : placeOf (aSecNonce i) = some (.nonce i) := by
  revert i
  decide

/-- The nonce words, FWD_EPOCH and GRN_PEEK_PTR take the written value. -/
theorem registerWrite_rwRows {s : State} (path : Nat) (v : Word) (hs : manageable s) :
    ∀ row ∈ [(aSecNonce 0, 63, 0), (aSecNonce 1, 63, 0), (aSecNonce 2, 63, 0), (aSecNonce 3, 63, 0),
        (aFwdEpoch, 31, 0), (aPeekPtr, 31, 0)],
      ∃ t, exec (.registerWrite path row.1 v) s = .next t ∧ rdf t row.1 row.2.1 row.2.2 = bitsOf v row.2.1 row.2.2
        ∧ (∀ k, row.2.1 < k → rdb t row.1 k = rdb s row.1 k)
        ∧ touchesOnly [.recorder] 0xA000_0000 [row.1] s t := by
  have hnonce : ∀ i, i < 4 → ∃ t, exec (.registerWrite path (aSecNonce i) v) s = .next t
      ∧ rdf t (aSecNonce i) 63 0 = bitsOf v 63 0 ∧ (∀ k, 63 < k → rdb t (aSecNonce i) k = rdb s (aSecNonce i) k)
      ∧ touchesOnly [.recorder] 0xA000_0000 [aSecNonce i] s t := fun i hi =>
    registerWrite_rw hs (placeOf_aSecNonce hi) rfl (by unfold aSecNonce; omega) rfl (by decide) fun _ _ => rfl
  simp only [List.forall_mem_cons]
  refine ⟨hnonce 0 (by decide), hnonce 1 (by decide), hnonce 2 (by decide), hnonce 3 (by decide), ?_, ?_, ?_⟩
  · exact registerWrite_rw hs (show placeOf aFwdEpoch = some .fwdEpoch by decide) rfl (by decide) rfl (by decide)
      fun _ _ => rfl
  · exact registerWrite_rw hs (show placeOf aPeekPtr = some .peekPtr by decide) rfl (by decide) rfl (by decide)
      fun _ _ => rfl
  · exact fun row h => absurd h List.not_mem_nil

theorem registerWrite_islandSel_shows {s : State} (path : Nat) (v : Word) (hs : manageable s) :
    ∃ t, exec (.registerWrite path aIslandSel v) s = .next t
      ∧ rdf t aIslandSel 7 0 = (if bitsOf v 7 0 < 205 then bitsOf v 7 0 else rdf s aIslandSel 7 0)
      ∧ rdf t aIslandSel 63 8 = rdf s aIslandSel 63 8 ∧ touchesOnly [.recorder] 0xA000_0000 [aIslandSel] s t := by
  obtain ⟨t, first, hx, hrd, hf⟩ :=
    registerWrite_merges (path := path) (v := v) hs placeOf_aIslandSel rfl (by decide) rfl
  rw [mergedWord_islandSel] at hrd
  refine ⟨t, hx, ?_, ?_, hf⟩ <;> simp only [rdf, hrd] <;> split
  · exact bitsOf_putBits_copy _ _ (by decide)
  · rfl
  · exact bitsOf_putBits_other _ _ (by decide)
  · rfl

/-- FLT_CFG stands above the recorder's block: its write is not captured, and the frame names it not. -/
theorem registerWrite_fltCfg_shows {s : State} (path : Nat) (v : Word) (hs : manageable s) :
    ∃ t, exec (.registerWrite path aFltCfg v) s = .next t ∧ rdb t aFltCfg 63 = bitOf v 63
      ∧ rdf t aFltCfg 62 55 = (if bitsOf v 62 55 ≠ 0 then bitsOf v 62 55 else rdf s aFltCfg 62 55)
      ∧ rdf t aFltCfg 54 0 = rdf s aFltCfg 54 0 ∧ touchesOnly [.recorder] 0xA000_0000 [] s t := by
  have hm : mgmtWrite s path aFltCfg v = ⟨regWrite s path aFltCfg fltCfgFields v, .ok⟩ := by
    simp only [mgmtWrite, show placeOf aFltCfg = some .fltCfg by decide, writePlace, plainWrite]
  have hx : mgApply s aFltCfg v (fun s => mgmtWrite s path aFltCfg v) = regWrite s path aFltCfg fltCfgFields v := by
    rw [mgApply_ok hs (by rw [hm]), captureWrite_untabled v (by decide), hm]
  obtain ⟨h63, h62, h54⟩ := mergedWord_fltCfg (!s.mg.rw1.contains aFltCfg) (rd s aFltCfg) v
  refine ⟨_, congrArg Host.Outcome.next hx, ?_, ?_, ?_, (touchesOnly.refl _ _ _ s).regWrite rfl (.inr (by decide))⟩
  · rw [rdb, rd_regWrite_same, h63]
  · rw [rdf, rd_regWrite_same, h62, rdf]
  · rw [rdf, rd_regWrite_same, h54, rdf]

/-- GLB_STRAP: the mark of a change is cleared by a 1, and the straps are kept. -/
theorem registerWrite_strap_shows {s : State} (path : Nat) (v : Word) (hs : manageable s) :
    ∃ t, exec (.registerWrite path aStrap v) s = .next t ∧ rdb t aStrap 39 = (rdb s aStrap 39 && !bitOf v 39)
      ∧ rdf t aStrap 63 40 = rdf s aStrap 63 40 ∧ rdf t aStrap 38 0 = rdf s aStrap 38 0
      ∧ touchesOnly [.recorder] 0xA000_0000 [aStrap] s t := by
  obtain ⟨t, first, hx, hrd, hf⟩ := registerWrite_merges (path := path) (v := v) hs
    (show placeOf aStrap = some .strap by decide) rfl (by decide) rfl
  have hbit : ∀ k, bitOf (rd t aStrap) k = (bitOf (rd s aStrap) k && !(decide (k = 39) && bitOf v k)) := fun k => by
    rw [hrd, bitOf_mergedWord_strap]
  have hkeep : ∀ k, k ≠ 39 → bitOf (rd t aStrap) k = bitOf (rd s aStrap) k := fun k hk => by
    rw [hbit, decide_eq_false hk, Bool.false_and, Bool.not_false, Bool.and_true]
  exact ⟨t, hx, hbit 39, bitsOf_congr_bitOf fun k _ _ => hkeep k (by omega),
    bitsOf_congr_bitOf fun k _ _ => hkeep k (by omega), hf⟩

/-- A write of a word without a writable field, served or not, touches no register below the recorder's. -/
theorem registerWrite_readOnly {s : State} {path a : Nat} {v : Word} {pl : Place} (hs : manageable s)
    (hpl : placeOf a = some pl) (hw : writePlace s path a pl v = readOnly s path a pl v) :
    ∃ t, exec (.registerWrite path a v) s = .next t ∧ touchesOnly [.recorder] 0xA000_0000 [] s t := by
  have hm : mgmtWrite s path a v = readOnly s path a pl v := by simp only [mgmtWrite, hpl, hw]
  refine ⟨_, rfl, ?_⟩
  cases hr : readPlace s pl with
  | none =>
    have hro : readOnly s path a pl v = ⟨s, .access⟩ := by simp only [readOnly, hr]
    rw [mgApply_not_ok hs (by rw [hm, hro]; exact fun x => nomatch x), hm, hro]
    exact .refl _ _ _ s
  | some old =>
    have hro : readOnly s path a pl v = ⟨logWrite s path a (roFields pl) old v, .ok⟩ := by simp only [readOnly, hr]
    rw [mgApply_ok hs (by rw [hm, hro]), hm, hro]
    exact captureWrite_touches (touchesOnly.keeps (m := 134217728) (k := 9) (.refl _ _ _ s)
      (logWrite_keeps rfl (.refl _ s)) (Nat.zero_or _) rfl) (by simp) le_rfl

theorem registerWrite_readOnlyRows {s : State} (path : Nat) (v : Word) (hs : manageable s) :
    ∀ a ∈ [aCapId, aCapSizes, aEpoch, aBoot, aTherm, aFuse, aSecStat, aGleanStat, aGroupStat, aPlotStat],
      ∃ t, exec (.registerWrite path a v) s = .next t ∧ touchesOnly [.recorder] 0xA000_0000 [] s t := by
  simp only [List.forall_mem_cons]
  refine ⟨?_, ?_, ?_, ?_, ?_, ?_, ?_, ?_, ?_, ?_, ?_⟩
  · exact registerWrite_readOnly hs (show placeOf aCapId = some (.stored aCapId) by decide) rfl
  · exact registerWrite_readOnly hs placeOf_aCapSizes rfl
  · exact registerWrite_readOnly hs placeOf_aEpoch rfl
  · exact registerWrite_readOnly hs (show placeOf aBoot = some (.stored aBoot) by decide) rfl
  · exact registerWrite_readOnly hs (show placeOf aTherm = some (.stored aTherm) by decide) rfl
  · exact registerWrite_readOnly hs (show placeOf aFuse = some (.stored aFuse) by decide) rfl
  · exact registerWrite_readOnly hs (show placeOf aSecStat = some (.stored aSecStat) by decide) rfl
  · exact registerWrite_readOnly hs (show placeOf aGleanStat = some (.stored aGleanStat) by decide) rfl
  · exact registerWrite_readOnly hs (show placeOf aGroupStat = some .groupStat by decide) rfl
  · exact registerWrite_readOnly hs (show placeOf aPlotStat = some .plotStat by decide) rfl
  · exact fun a h => absurd h List.not_mem_nil

theorem quotaFields_noRw1 (f : Nat) : hasRw1 (quotaFields f) = false := by
  unfold quotaFields
  split <;> rfl

/-- GRN_QUOTA: USED is kept, and LIMIT takes a value in range. -/
theorem registerWrite_quota_shows {s : State} {p f a : Nat} (path : Nat) (v : Word) (hs : manageable s)
    (hpl : placeOf a = some (.quota p f)) (hc : charged f = true) (ha : a < 0xA000_0000) :
    ∃ t, exec (.registerWrite path a v) s = .next t ∧ rdf t a 20 0 = rdf s a 20 0
      ∧ (bitsOf v 52 32 ≤ 1048576 → rdf t a 52 32 = bitsOf v 52 32)
      ∧ (1048576 < bitsOf v 52 32 → rdf t a 52 32 = rdf s a 52 32)
      ∧ touchesOnly [.recorder] 0xA000_0000 [a] s t := by
  obtain ⟨t, first, hx, hrd, hf⟩ :=
    registerWrite_merges (path := path) (v := v) hs hpl rfl ha (quotaFields_noRw1 f)
  rw [mergedWord_quota hc] at hrd
  refine ⟨t, hx, ?_⟩
  simp only [rdf, hrd]
  by_cases h : bitsOf v 52 32 ≤ 1048576
  · rw [if_pos h]
    exact ⟨bitsOf_putBits_other _ _ (by decide), fun _ => bitsOf_putBits_copy _ _ (by decide), by omega, hf⟩
  · rw [if_neg h]
    exact ⟨rfl, by omega, fun _ => rfl, hf⟩

/-! ## Staged words -/

theorem stageWrite_unstaged {s : State} {path a : Nat} {v : Word} (h : isStaged a = false) :
    exec (.stageWrite path a v) s = .next s :=
  if_neg (by rw [h]; decide)

/-- The field-book entries of a cluster out of service stage no word. -/
theorem stageWrite_entryDown {s : State} {path a n e w : Nat} {v : Word} (hdown : clusterUp s n = false)
    (hpl : placeOf a = some (.entry n e w)) : exec (.stageWrite path a v) s = .next s := by
  cases hst : isStaged a with
  | false => exact stageWrite_unstaged hst
  | true =>
    refine (if_pos hst).trans (congrArg Host.Outcome.next ?_)
    by_cases hs : manageable s
    · have hm : mgmtWrite s path a v = ⟨s, .access⟩ := by
        simp only [mgmtWrite, hpl, writePlace, ifUnit, hdown, Bool.false_eq_true, if_false]
      exact (mgApply_not_ok hs (by rw [hm]; exact fun x => nomatch x)).trans (by rw [hm])
    · exact mgApply_unmanageable hs

/-- The buffer that a staged word of `target` joins: the path's, unless it holds another entry's words. -/
def stageFor (s : State) (path target : Nat) : Stage :=
  if (stageOf s path).valid && (stageOf s path).target == target then stageOf s path
  else { target := target, valid := true, written := 0, words := zeroEntry 8 }

/-- The buffer with word i staged. -/
def Stage.withWord (x : Stage) (i : Nat) (v : Word) : Stage :=
  { x with
    written := x.written ||| 2 ^ i, words := (List.range 8).map fun j => if j = i then v else wordAt x.words j }

theorem stageWord_eq (s : State) (path target i : Nat) (v : Word) :
    stageWord s path target i v = setStage s path ((stageFor s path target).withWord i v) := rfl

theorem stageFor_same {s : State} {path target : Nat} (h : (stageOf s path).valid = true)
    (ht : (stageOf s path).target = target) : stageFor s path target = stageOf s path :=
  if_pos (by rw [h, ht, beq_self_eq_true, Bool.true_and])

theorem stageFor_fresh {s : State} {path target : Nat}
    (h : (stageOf s path).valid = false ∨ (stageOf s path).target ≠ target) :
    stageFor s path target = { target := target, valid := true, written := 0, words := zeroEntry 8 } := by
  refine if_neg ?_
  rw [Bool.and_eq_true, beq_iff_eq]
  rintro ⟨hv, ht⟩
  exact h.elim (fun hf => Bool.false_ne_true (hf.symm.trans hv)) (fun hn => hn ht)

theorem stageFor_names (s : State) (path target : Nat) :
    (stageFor s path target).valid = true ∧ (stageFor s path target).target = target := by
  unfold stageFor
  split
  case isTrue h => exact ⟨(Bool.and_eq_true_iff.mp h).1, eq_of_beq (Bool.and_eq_true_iff.mp h).2⟩
  case isFalse => exact ⟨rfl, rfl⟩

theorem Stage.withWord_testBit (x : Stage) (i j : Nat) (v : Word) :
    (x.withWord i v).written.testBit j = (x.written.testBit j || decide (i = j)) := by
  rw [Stage.withWord, Nat.testBit_or, Nat.testBit_two_pow]

theorem Stage.withWord_word (x : Stage) (i : Nat) {j : Nat} (v : Word) (h : j < 8) :
    wordAt (x.withWord i v).words j = if j = i then v else wordAt x.words j := by
  simp [Stage.withWord, wordAt, h]

/-- The places of staged words: words 1 to 7 of a group, a plot, or an entry of a cluster in service. -/
theorem mgmtWrite_staged {s : State} {path a w : Nat} {v : Word} (hw : w ≠ 0)
    (hpl : ∃ g, placeOf a = some (.group g w) ∨ placeOf a = some (.plot g w)
      ∨ ∃ n, clusterUp s n = true ∧ placeOf a = some (.entry n g w)) :
    isStaged a = true ∧ mgmtWrite s path a v = ⟨stageWord s path (a - 8 * w) w v, .ok⟩ := by
  obtain ⟨g, h | h | ⟨n, hup, h⟩⟩ := hpl
  · exact ⟨by simp [isStaged, h, hw], by simp only [mgmtWrite, h, writePlace, stagedWrite, if_neg hw]⟩
  · exact ⟨by simp [isStaged, h, hw], by simp only [mgmtWrite, h, writePlace, stagedWrite, if_neg hw]⟩
  · exact ⟨by simp [isStaged, h, hw], by simp only [mgmtWrite, h, writePlace, stagedWrite, if_neg hw, ifUnit, hup,
      if_true]⟩

/-- A staged word leaves the path's buffer with it, and every other path's as it was. -/
theorem stageWrite_staged {s : State} {path a w : Nat} {v : Word} (hs : manageable s) (hw : w ≠ 0)
    (hpl : ∃ g, placeOf a = some (.group g w) ∨ placeOf a = some (.plot g w)
      ∨ ∃ n, clusterUp s n = true ∧ placeOf a = some (.entry n g w)) :
    ∃ t, exec (.stageWrite path a v) s = .next t
      ∧ stageOf t path = (stageFor s path (a - 8 * w)).withWord w v
      ∧ (∀ q, q ≠ path → stageOf t q = stageOf s q)
      ∧ touchesOnly [.management, .recorder] 0xA000_0000 [] s t := by
  obtain ⟨hst, hm⟩ := mgmtWrite_staged (path := path) (v := v) hw hpl
  have hmg : mgApply s a v (fun s => mgmtWrite s path a v)
      = captureWrite (stageWord s path (a - 8 * w) w v) a v := by
    rw [mgApply_ok hs (by rw [hm]), hm]
  have hx : exec (.stageWrite path a v) s = .next (captureWrite (stageWord s path (a - 8 * w) w v) a v) :=
    (if_pos hst).trans (congrArg Host.Outcome.next hmg)
  have hcap : ∀ q, stageOf (captureWrite (stageWord s path (a - 8 * w) w v) a v) q
      = stageOf (stageWord s path (a - 8 * w) w v) q := fun q =>
    stageOf_congr ((captureWrite_frame _ a v).2.1 .management (by simp)) q
  refine ⟨_, hx, ?_, fun q hq => ?_, ?_⟩
  · rw [hcap, stageWord_eq, stageOf_setStage_same]
  · rw [hcap, stageWord_eq]
    exact tget_tset_other _ _ _ _ hq
  · exact captureWrite_touches (touchesOnly.keeps (m := 4096) (k := 9) (.refl _ _ _ s)
      (stageWord_keeps rfl (.refl _ s)) (by decide) rfl) (by simp) le_rfl

theorem stageWrite_shows {s : State} {path a w : Nat} {v : Word} (hs : manageable s) (hw : w ≠ 0) (hw8 : w < 8)
    (hpl : ∃ g, placeOf a = some (.group g w) ∨ placeOf a = some (.plot g w)
      ∨ ∃ n, clusterUp s n = true ∧ placeOf a = some (.entry n g w)) :
    ∃ t, exec (.stageWrite path a v) s = .next t ∧ (stageOf t path).valid = true
      ∧ (stageOf t path).target = a - 8 * w ∧ (stageOf t path).written.testBit w = true
      ∧ wordAt (stageOf t path).words w = v
      ∧ ((stageOf s path).valid = true → (stageOf s path).target = a - 8 * w → ∀ i, i < 8 → i ≠ w →
        (stageOf t path).written.testBit i = (stageOf s path).written.testBit i
        ∧ wordAt (stageOf t path).words i = wordAt (stageOf s path).words i)
      ∧ ((stageOf s path).valid = false ∨ (stageOf s path).target ≠ a - 8 * w → ∀ i, i ≠ w →
        (stageOf t path).written.testBit i = false)
      ∧ (∀ q, q ≠ path → stageOf t q = stageOf s q)
      ∧ touchesOnly [.management, .recorder] 0xA000_0000 [] s t := by
  obtain ⟨t, hx, hstage, hother, hf⟩ := stageWrite_staged (path := path) (v := v) hs hw hpl
  obtain ⟨hvalid, htarget⟩ := stageFor_names s path (a - 8 * w)
  refine ⟨t, hx, ?_, ?_, ?_, ?_, fun hv ht i hi hne => ?_, fun hn i hne => ?_, hother, hf⟩
  · rw [hstage]; exact hvalid
  · rw [hstage]; exact htarget
  · rw [hstage, Stage.withWord_testBit, decide_eq_true rfl, Bool.or_true]
  · rw [hstage, Stage.withWord_word _ _ _ hw8, if_pos rfl]
  · rw [hstage, stageFor_same hv ht, Stage.withWord_testBit, Stage.withWord_word _ _ _ hi, if_neg hne,
      decide_eq_false (Ne.symm hne), Bool.or_false]
    exact ⟨rfl, rfl⟩
  · rw [hstage, stageFor_fresh hn, Stage.withWord_testBit, decide_eq_false (Ne.symm hne), Bool.or_false]
    exact Nat.zero_testBit i

/-- Settles O50: a write merges the fields of its place or is not taken, and a staged word joins its path's buffer. -/
theorem registerAndStagedWrites : Obligations.RegisterAndStagedWrites := by
  refine ⟨fun s path v => ⟨fun a h => registerWrite_untaken path v h, fun hs => ⟨registerWrite_rwRows path v hs,
      registerWrite_islandSel_shows path v hs, registerWrite_fltCfg_shows path v hs,
      registerWrite_strap_shows path v hs, registerWrite_readOnlyRows path v hs,
      fun p f a hpl hc ha => registerWrite_quota_shows path v hs hpl hc ha⟩⟩,
    fun s path a v h => stageWrite_unstaged h, fun s path a v n e w hd hpl => stageWrite_entryDown hd hpl,
    fun s path a v w hs hw hw8 hpl => stageWrite_shows hs hw hw8 hpl⟩

end Sys2Proof.Machine
end
